-- ==== Sys2Proof/Word.lean ====
section
/-! DEFINITION. The words of the VX640: bytes, 32-bit instruction and lane-register words, 64-bit
uniform-register words and addresses (R4, R146, R168), and the one shape of sparse data the state uses. -/

namespace Sys2Proof

/-- Eight bits, the smallest addressable unit. -/
abbrev Byte := BitVec 8

/-- An instruction word (R168) or a lane register (R173). -/
abbrev Word := BitVec 32

/-- A uniform register (R174), a virtual address (R103) or a native program counter. -/
abbrev DWord := BitVec 64

/-- A sparse table: pairs of a key and a value, keys strictly rising, no pair holding what an unlisted key reads as. -/
abbrev Cells (α : Type) := List (Nat × α)

end Sys2Proof
end

