-- ==== Sys2Proof/Config.lean ====
section
/-! DEFINITION. What the module fixes (R11 to R22) and the free values: constants without a body for what the manual
leaves open. -/

namespace Sys2Proof.Config

/-- R11: dies of the module. -/
def dies : Nat := 4

/-- R12: constellations of a die. -/
def constPerDie : Nat := 16

/-- R12: cores of a constellation. -/
def coresPerConst : Nat := 10

/-- Table 1-5: cores of the module. -/
def cores : Nat := 640

/-- R13: core `n` is an L-core. -/
def isLCore (n : Nat) : Bool := 8 ≤ n % 10

/-- R12: the constellation of a core. -/
def constOf (core : Nat) : Nat := core / 10

/-- R12: the die of a core. -/
def dieOf (core : Nat) : Nat := core / 160

/-- Table 1-2: resident groups of a sub-core. -/
def groupsPerSub (core : Nat) : Nat := if isLCore core then 16 else 12

/-- Table 1-2: sub-cores of a core. -/
def subCores (core : Nat) : Nat := if isLCore core then 2 else 4

/-- R40: places of a sub-core's active set. -/
def activePlaces : Nat := 8

/-- Table 1-2, R114: units of 32 KiB of a core's store. -/
def storeUnits (core : Nat) : Nat := if isLCore core then 64 else 48

/-- Table 1-5: partitions. -/
def partitions : Nat := 24

/-- R315: tenant contexts of a partition. -/
def contexts : Nat := 4

/-- R122: bytes of a die's scratchpad. -/
def dspBytes : Nat := 2 ^ 25

/-- R308: the frame size the device manager works in, the smallest page (R21). -/
def pageBytes : Nat := 65536

/-- R36: the pass count at which a path of an L-core is due. -/
def lCoreAge : Nat := 64

/-- Free value: cycles beyond one that a step takes (R5; time is not modelled). DESIGN CHOICE, log 5. -/
opaque stallCycles : Nat → Nat

/-- Free value: which of the two allowed values a read of an unpublished byte returns (R134, R285). DESIGN CHOICE, log 14. -/
opaque readsNew : Nat → Bool

/-- Free value: which entry a full TLB, or a full set of one, gives up for a new one (R108). DESIGN CHOICE, log 13. -/
opaque tlbVictim : Nat → Nat

/-- Free value: the set of a die's last-level TLB that holds an address of a page size (R108). DESIGN CHOICE, log 13. -/
opaque tlbSet : Nat → Nat → Nat

/-- Free value: whether the translation of an RMA operation, or of the device manager, meets an entry of a last-level TLB
(R108, R308). DESIGN CHOICE, log 13. -/
opaque moverTlb : Nat → Bool

/-- Free value: whether an update that an engine makes at one moment comes when the engine makes it, or when its command is published
(R133, R136). DESIGN CHOICE, log 14. -/
opaque landsNow : Nat → Bool

/-- Free value: whether the activation row of a batch shows a byte as its batch closes, or as the row was admitted (R132). DESIGN CHOICE,
log 15. -/
opaque rereads : Nat → Bool

/-- Free value: how many records beyond the first a partition's record pool and overflow region hold (R379; Table 19-7 gives no size).
DESIGN CHOICE, log 46. -/
opaque recordExtra : Nat → Nat

/-- Free value: the SPLIT_LIMIT that the device manager sets when it takes a descriptor, if it sets one (R114). DESIGN CHOICE, log 124. -/
opaque splitLimitSet : Nat → Option (BitVec 36)

/-- Free value: how many k-steps of the executing `mma` are complete when a halt stops it (R361). DESIGN CHOICE, log 47. -/
opaque haltStep : Nat → Nat

/-- R108: entries of a core's TLB, of a constellation's, sets and ways of a die's. -/
def coreTlb : Nat := 64
def constTlb : Nat := 2048
def dieTlbSets : Nat := 8192
def dieTlbWays : Nat := 16

/-- Free value: whether the pool's snoop filter shows another holder at a device read miss (R139). DESIGN CHOICE, log 16. -/
opaque poolShared : Nat → Bool

/-- Free value: what an engine command reads of a core-scratch or constellation-shared source whose block or cluster has
ended since it was issued. DESIGN CHOICE, log 18. -/
opaque releasedByte : Nat → Byte

/-- Free value: how often an event of Table 18-4 that the model does not time (stall codes, cache and TLB hits and misses,
DRAM bytes) occurs in a step, by event code. DESIGN CHOICE, log 20. -/
opaque eventCount : Nat → Nat → Nat

/-- Free value: which of the stall reasons of Table 18-3 that timing decides a sampled path has. DESIGN CHOICE, log 23. -/
opaque stallReason : Nat → Nat

/-- Free value: what a register of a lane that holds no thread any more holds. DESIGN CHOICE, log 19. -/
opaque deadRegister : Nat → BitVec 32

/-- Free value: TRAP_ADDR of a poisoned accumulator element, which has no address. DESIGN CHOICE, log 30. -/
opaque poisonAddr : Nat → BitVec 64

/-- Free value: the rate error of PTIME after its first lock, in units of 1/480,000 ns a cycle, before the bound of R340
is applied. DESIGN CHOICE, log 24. -/
opaque steer : Nat → Int

/-- Free value: the fixed coefficients of the arbiter's estimates (R325): power and current of 2^20 k-steps, vector operations and
memory bytes in a window. DESIGN CHOICE, log 25. -/
opaque powerOf : Nat → Nat
opaque currentOf : Nat → Nat

/-- Free value: the supply current of a partition on a die, in amperes (R417; a measurement). DESIGN CHOICE, log 25. -/
opaque supplyCurrent : Nat → Nat

/-- Free value: the L2 bank, of those that a partition has on a die, that holds a line (R414). DESIGN CHOICE, log 119. -/
opaque l2Bank : Nat → Nat

/-- Free value: the bytes that a host's own stores have put in host-visible memory since the last acknowledgement: addresses and bytes
(R138). DESIGN CHOICE, log 65. -/
opaque hostStores : Nat → List (Nat × BitVec 8)

/-- Free value: whether an image's digest is right, and its security version (R328; the manual does not lay the image out).
DESIGN CHOICE, log 26. -/
opaque imageDigestOk : List Byte → Bool
opaque imageVersion : List Byte → Nat

/-- Free value: an ML-DSA-44 signature (FIPS 204) by the identity key over the bytes given (R330). DESIGN CHOICE, log 26. -/
opaque mldsaSign : List Byte → List Byte

/-- Free value: whether an image's ML-DSA-44 signature verifies against the vendor key (R328). DESIGN CHOICE, log 26. -/
opaque mldsaVerify : List Byte → Bool

/-- Free value: the peer of the management context, which the configuration of the booted image names (R314, R328; the manual does
not lay the image out). DESIGN CHOICE, log 26. -/
opaque operatorPeer : List Byte → Nat

/-- Free value: the module's identity public key, 1,312 bytes (R329), and its serial number. DESIGN CHOICE, log 26. -/
opaque identityKey : Nat → Byte

/-- Free value: the serial number of the identity record (R329). DESIGN CHOICE, log 26. -/
opaque serialNumber : DWord

/-- Free value: whether the identity key can be derived (R418). DESIGN CHOICE, log 26. -/
opaque identityUsable : Nat → Bool

end Sys2Proof.Config
end

