-- ==== Sys2Proof/Syntax.lean ====
section
/-! DEFINITION. The instructions of the VX640 as data: one constructor for each row of spec/opcode_table.json. The
first 270 are encoded instructions (Tables 8-5 to 8-9); the other 81 are the operations and events of the host, the
device manager, the Meridian, the engines and the memory system that spec/95_what_each_step_holds.md lists. -/

namespace Sys2Proof

/-- The fields of a lane MOD word (Table 8-4, R177). -/
structure LMod where
  p : BitVec 5
  neg : Bool
  rnd : BitVec 3
  sat : Bool
  ftz : Bool
  aux : BitVec 7
  deriving DecidableEq, Repr

/-- The fields of a HINT word (Table 8-4, R179). -/
structure Hint where
  stall : BitVec 4
  yield : Bool
  reuse : BitVec 2
  deriving DecidableEq, Repr

/-- The fields of a MEM word (Table 8-4, R178): L and the space code. -/
structure LMem where
  local' : Bool
  space : BitVec 2
  deriving DecidableEq, Repr

/-- The extension words of a lane instruction, at most one of each kind (R169). -/
structure LExt where
  imm : Option (BitVec 23) := none
  mem : Option LMem := none
  mod : Option LMod := none
  hint : Option Hint := none
  deriving DecidableEq, Repr

/-- The guard of a uniform MOD word (Table 8-4, R177). -/
structure UMod where
  q : BitVec 3
  neg : Bool
  deriving DecidableEq, Repr

/-- The extension words of a uniform instruction, at most one of each kind (R169). -/
structure UExt where
  imm : Option (BitVec 23) := none
  mod : Option UMod := none
  hint : Option Hint := none
  deriving DecidableEq, Repr

/-- A word or run of words that is not an instruction (R389): the cause it raises, the word that breaks the rule
(R391), the guard that stands before it, and its length in words. -/
structure BadWord where
  uniform : Bool
  cause : Nat
  info : Word
  guard : Option LMod := none
  uguard : Option UMod := none
  len : Nat
  deriving DecidableEq, Repr

/-- The windows whose registers a host reaches by RMA (Tables 17-1 and 17-5). -/
inductive Window where
  | control (part : Nat)
  | management
  deriving DecidableEq, Repr

/-- An access to the control window of a partition, by the peer that makes it (R316). -/
structure ControlAccess where
  part : Nat
  peer : Nat
  deriving DecidableEq, Repr

/-- An access to a window, by the peer that makes it (R314, R316). -/
structure WindowAccess where
  window : Window
  peer : Nat
  deriving DecidableEq, Repr

/-- Which unit an error of R414 falls in. -/
inductive PoisonUnit where
  /-- A 64-byte line of DRAM or of the pool, by physical address. -/
  | line (pa : Nat)
  /-- A granule of a thread's lane-private slice. -/
  | priv (blk grp lane granule : Nat)
  /-- A granule of a block's core scratch. -/
  | scratch (blk granule : Nat)
  /-- A granule of a cluster's constellation-shared allocation. -/
  | shared (cluster granule : Nat)
  /-- A granule of the die scratchpad, by package address. -/
  | dsp (granule : Nat)
  /-- A lane register word. -/
  | reg (blk grp lane n : Nat)
  /-- An accumulator element of a block. -/
  | acc (blk a idx : Nat)
  /-- The copy of a 64-byte line that the L2 holds, by physical address: the line's poison, and a bank's error. -/
  | l2 (pa : Nat)
  /-- State of a tenant context that no instruction owns (R416). -/
  | unowned (part ctx : Nat)
  deriving DecidableEq, Repr

/-- What an engine command does in a turn: it reads bytes of its source ahead, at the offsets named, or writes its next piece. -/
structure EngineStep where
  cmd : Nat
  early : List Nat := []
  deriving DecidableEq, Repr

/-- A collective as one other member of its context issued it (R288, R403). -/
structure PeerColl where
  fn : Nat
  op : Nat
  count : Nat
  root : Nat
  src : List Byte
  /-- Which pieces of 16 bytes of the source were poisoned (R415). -/
  bads : List Bool := []
  deriving DecidableEq, Repr

/-- The instruction set: one constructor per row of the opcode table. -/
inductive Instr where
  /-- `lsys.nop` (R207): Lane no-operation. -/
  | lsysNop (x : LExt)
  /-- `lsys.lane` (R207): Writes the lane number that the thread now occupies. -/
  | lsysLane (d : BitVec 7) (x : LExt)
  /-- `lsys.tid` (R207): Writes the thread's TID. -/
  | lsysTid (d : BitVec 7) (x : LExt)
  /-- `lsys.grp` (R208): Writes the group, block, cluster, group-count or core number chosen by the selector. -/
  | lsysGrp (d : BitVec 7) (sel : BitVec 7) (x : LExt)
  /-- `lsys.clk` (R207): Writes the 64-bit module cycle count to a register pair. -/
  | lsysClk (d : BitVec 7) (x : LExt)
  /-- `lsys.brk` (R207): Raises NATIVE_BREAK for the lane. -/
  | lsysBrk (x : LExt)
  /-- `ialu.add` (R209): 32-bit add, saturating with .sat. -/
  | ialuAdd (d : BitVec 7) (a : BitVec 7) (b : BitVec 7) (x : LExt)
  /-- `ialu.sub` (R209): 32-bit subtract, saturating with .sat. -/
  | ialuSub (d : BitVec 7) (a : BitVec 7) (b : BitVec 7) (x : LExt)
  /-- `ialu.and` (R209): Bitwise AND. -/
  | ialuAnd (d : BitVec 7) (a : BitVec 7) (b : BitVec 7) (x : LExt)
  /-- `ialu.or` (R209): Bitwise OR. -/
  | ialuOr (d : BitVec 7) (a : BitVec 7) (b : BitVec 7) (x : LExt)
  /-- `ialu.xor` (R209): Bitwise XOR. -/
  | ialuXor (d : BitVec 7) (a : BitVec 7) (b : BitVec 7) (x : LExt)
  /-- `ialu.andn` (R209): Bitwise AND with the complement of b. -/
  | ialuAndn (d : BitVec 7) (a : BitVec 7) (b : BitVec 7) (x : LExt)
  /-- `ialu.shl` (R209): Shift left by the whole unsigned value of b. -/
  | ialuShl (d : BitVec 7) (a : BitVec 7) (b : BitVec 7) (x : LExt)
  /-- `ialu.shr` (R209): Logical shift right by the whole unsigned value of b. -/
  | ialuShr (d : BitVec 7) (a : BitVec 7) (b : BitVec 7) (x : LExt)
  /-- `ialu.sar` (R209): Arithmetic shift right by the whole unsigned value of b. -/
  | ialuSar (d : BitVec 7) (a : BitVec 7) (b : BitVec 7) (x : LExt)
  /-- `ialu.mins` (R209): Signed minimum. -/
  | ialuMins (d : BitVec 7) (a : BitVec 7) (b : BitVec 7) (x : LExt)
  /-- `ialu.maxs` (R209): Signed maximum. -/
  | ialuMaxs (d : BitVec 7) (a : BitVec 7) (b : BitVec 7) (x : LExt)
  /-- `ialu.minn` (R209): Unsigned minimum. -/
  | ialuMinn (d : BitVec 7) (a : BitVec 7) (b : BitVec 7) (x : LExt)
  /-- `ialu.maxn` (R209): Unsigned maximum. -/
  | ialuMaxn (d : BitVec 7) (a : BitVec 7) (b : BitVec 7) (x : LExt)
  /-- `ialu.abs` (R209): Signed absolute value, saturating with .sat. -/
  | ialuAbs (d : BitVec 7) (a : BitVec 7) (x : LExt)
  /-- `iaddi` (R210): Adds a signed immediate, saturating with .sat. -/
  | iaddi (d : BitVec 7) (a : BitVec 7) (imm : BitVec 11) (x : LExt)
  /-- `andi` (R210): ANDs with a signed immediate. -/
  | andi (d : BitVec 7) (a : BitVec 7) (imm : BitVec 11) (x : LExt)
  /-- `ori` (R210): ORs with a signed immediate. -/
  | ori (d : BitVec 7) (a : BitVec 7) (imm : BitVec 11) (x : LExt)
  /-- `xori` (R210): XORs with a signed immediate. -/
  | xori (d : BitVec 7) (a : BitVec 7) (imm : BitVec 11) (x : LExt)
  /-- `ishi.shl` (R211): Shift left by an immediate amount. -/
  | ishiShl (d : BitVec 7) (a : BitVec 7) (n : BitVec 5) (x : LExt)
  /-- `ishi.shr` (R211): Logical shift right by an immediate amount. -/
  | ishiShr (d : BitVec 7) (a : BitVec 7) (n : BitVec 5) (x : LExt)
  /-- `ishi.sar` (R211): Arithmetic shift right by an immediate amount. -/
  | ishiSar (d : BitVec 7) (a : BitVec 7) (n : BitVec 5) (x : LExt)
  /-- `ishi.rol` (R211): Rotate left by an immediate amount. -/
  | ishiRol (d : BitVec 7) (a : BitVec 7) (n : BitVec 5) (x : LExt)
  /-- `movi` (R212): Writes a signed immediate. -/
  | movi (d : BitVec 7) (imm : BitVec 18) (x : LExt)
  /-- `movhi` (R212): Writes an unsigned immediate shifted left by 14. -/
  | movhi (d : BitVec 7) (imm : BitVec 18) (x : LExt)
  /-- `imul.lo` (R213): Low 32 bits of the product, saturating with .sat. -/
  | imulLo (d : BitVec 7) (a : BitVec 7) (b : BitVec 7) (x : LExt)
  /-- `imul.his` (R213): High 32 bits of the signed product. -/
  | imulHis (d : BitVec 7) (a : BitVec 7) (b : BitVec 7) (x : LExt)
  /-- `imul.hin` (R213): High 32 bits of the unsigned product. -/
  | imulHin (d : BitVec 7) (a : BitVec 7) (b : BitVec 7) (x : LExt)
  /-- `imul.wides` (R213): 64-bit signed product into a pair. -/
  | imulWides (d : BitVec 7) (a : BitVec 7) (b : BitVec 7) (x : LExt)
  /-- `imul.widen` (R213): 64-bit unsigned product into a pair. -/
  | imulWiden (d : BitVec 7) (a : BitVec 7) (b : BitVec 7) (x : LExt)
  /-- `imul.mad` (R213): Multiply-add into d, saturating with .sat. -/
  | imulMad (d : BitVec 7) (a : BitVec 7) (b : BitVec 7) (x : LExt)
  /-- `ibit.popc` (R214): Population count. -/
  | ibitPopc (d : BitVec 7) (a : BitVec 7) (x : LExt)
  /-- `ibit.clz` (R214): Count leading zeros. -/
  | ibitClz (d : BitVec 7) (a : BitVec 7) (x : LExt)
  /-- `ibit.ctz` (R214): Count trailing zeros. -/
  | ibitCtz (d : BitVec 7) (a : BitVec 7) (x : LExt)
  /-- `ibit.brev` (R214): Bit reverse. -/
  | ibitBrev (d : BitVec 7) (a : BitVec 7) (x : LExt)
  /-- `ibit.bfxs` (R215): Signed bit-field extract. -/
  | ibitBfxs (d : BitVec 7) (a : BitVec 7) (b : BitVec 7) (x : LExt)
  /-- `ibit.bfxn` (R215): Unsigned bit-field extract. -/
  | ibitBfxn (d : BitVec 7) (a : BitVec 7) (b : BitVec 7) (x : LExt)
  /-- `ibit.bfi` (R215): Bit-field insert into d. -/
  | ibitBfi (d : BitVec 7) (a : BitVec 7) (b : BitVec 7) (x : LExt)
  /-- `icmp.eq` (R216): Integer equal compare into a predicate. -/
  | icmpEq (pd : BitVec 5) (comb : BitVec 2) (a : BitVec 7) (b : BitVec 7) (x : LExt)
  /-- `icmp.ne` (R216): Integer not-equal compare. -/
  | icmpNe (pd : BitVec 5) (comb : BitVec 2) (a : BitVec 7) (b : BitVec 7) (x : LExt)
  /-- `icmp.lts` (R216): Signed less-than compare. -/
  | icmpLts (pd : BitVec 5) (comb : BitVec 2) (a : BitVec 7) (b : BitVec 7) (x : LExt)
  /-- `icmp.les` (R216): Signed less-or-equal compare. -/
  | icmpLes (pd : BitVec 5) (comb : BitVec 2) (a : BitVec 7) (b : BitVec 7) (x : LExt)
  /-- `icmp.gts` (R216): Signed greater-than compare. -/
  | icmpGts (pd : BitVec 5) (comb : BitVec 2) (a : BitVec 7) (b : BitVec 7) (x : LExt)
  /-- `icmp.ges` (R216): Signed greater-or-equal compare. -/
  | icmpGes (pd : BitVec 5) (comb : BitVec 2) (a : BitVec 7) (b : BitVec 7) (x : LExt)
  /-- `icmp.ltn` (R216): Unsigned less-than compare. -/
  | icmpLtn (pd : BitVec 5) (comb : BitVec 2) (a : BitVec 7) (b : BitVec 7) (x : LExt)
  /-- `icmp.len` (R216): Unsigned less-or-equal compare. -/
  | icmpLen (pd : BitVec 5) (comb : BitVec 2) (a : BitVec 7) (b : BitVec 7) (x : LExt)
  /-- `icmp.gtn` (R216): Unsigned greater-than compare. -/
  | icmpGtn (pd : BitVec 5) (comb : BitVec 2) (a : BitVec 7) (b : BitVec 7) (x : LExt)
  /-- `icmp.gen` (R216): Unsigned greater-or-equal compare. -/
  | icmpGen (pd : BitVec 5) (comb : BitVec 2) (a : BitVec 7) (b : BitVec 7) (x : LExt)
  /-- `plog.and` (R217): Predicate AND. -/
  | plogAnd (pd : BitVec 5) (comb : BitVec 2) (a : BitVec 5) (b : BitVec 5) (x : LExt)
  /-- `plog.or` (R217): Predicate OR. -/
  | plogOr (pd : BitVec 5) (comb : BitVec 2) (a : BitVec 5) (b : BitVec 5) (x : LExt)
  /-- `plog.xor` (R217): Predicate XOR. -/
  | plogXor (pd : BitVec 5) (comb : BitVec 2) (a : BitVec 5) (b : BitVec 5) (x : LExt)
  /-- `plog.andn` (R217): Predicate AND NOT. -/
  | plogAndn (pd : BitVec 5) (comb : BitVec 2) (a : BitVec 5) (b : BitVec 5) (x : LExt)
  /-- `plog.orn` (R217): Predicate OR NOT. -/
  | plogOrn (pd : BitVec 5) (comb : BitVec 2) (a : BitVec 5) (b : BitVec 5) (x : LExt)
  /-- `cmov.nz` (R218): Moves a into d when b is nonzero. -/
  | cmovNz (d : BitVec 7) (a : BitVec 7) (b : BitVec 7) (x : LExt)
  /-- `cmov.z` (R218): Moves a into d when b is zero. -/
  | cmovZ (d : BitVec 7) (a : BitVec 7) (b : BitVec 7) (x : LExt)
  /-- `cmov.rdp` (R218): Reads the 24 lane predicates into d. -/
  | cmovRdp (d : BitVec 7) (x : LExt)
  /-- `cmov.wrp` (R218): Writes lane predicates from a under the mask b. -/
  | cmovWrp (a : BitVec 7) (b : BitVec 7) (x : LExt)
  /-- `lanex.shfl` (R220): Shuffle from an indexed lane of the participating set. -/
  | lanexShfl (d : BitVec 7) (a : BitVec 7) (b : BitVec 7) (x : LExt)
  /-- `lanex.shflx` (R220): Shuffle from the XOR-indexed lane. -/
  | lanexShflx (d : BitVec 7) (a : BitVec 7) (b : BitVec 7) (x : LExt)
  /-- `lanex.shflup` (R220): Shuffle from a lower lane. -/
  | lanexShflup (d : BitVec 7) (a : BitVec 7) (b : BitVec 7) (x : LExt)
  /-- `lanex.shfldn` (R220): Shuffle from a higher lane. -/
  | lanexShfldn (d : BitVec 7) (a : BitVec 7) (b : BitVec 7) (x : LExt)
  /-- `lanex.ballot` (R221): Mask of participating lanes whose predicate is true. -/
  | lanexBallot (d : BitVec 7) (p : BitVec 5) (x : LExt)
  /-- `lanex.any` (R221): 1 when any participating lane's predicate is true. -/
  | lanexAny (d : BitVec 7) (p : BitVec 5) (x : LExt)
  /-- `lanex.all` (R221): 1 when every participating lane's predicate is true. -/
  | lanexAll (d : BitVec 7) (p : BitVec 5) (x : LExt)
  /-- `lanex.match` (R221): Mask of participating lanes holding the same value. -/
  | lanexMatch (d : BitVec 7) (a : BitVec 7) (x : LExt)
  /-- `lanex.redadd` (R222): Sum over the participating set. -/
  | lanexRedadd (d : BitVec 7) (a : BitVec 7) (x : LExt)
  /-- `lanex.redmins` (R222): Signed minimum over the participating set. -/
  | lanexRedmins (d : BitVec 7) (a : BitVec 7) (x : LExt)
  /-- `lanex.redmaxs` (R222): Signed maximum over the participating set. -/
  | lanexRedmaxs (d : BitVec 7) (a : BitVec 7) (x : LExt)
  /-- `lanex.redand` (R222): AND over the participating set. -/
  | lanexRedand (d : BitVec 7) (a : BitVec 7) (x : LExt)
  /-- `lanex.redor` (R222): OR over the participating set. -/
  | lanexRedor (d : BitVec 7) (a : BitVec 7) (x : LExt)
  /-- `lanex.redxor` (R222): XOR over the participating set. -/
  | lanexRedxor (d : BitVec 7) (a : BitVec 7) (x : LExt)
  /-- `lanex.npath` (R223): Number of paths of the group. -/
  | lanexNpath (d : BitVec 7) (x : LExt)
  /-- `fadd.add` (R238): f32 add. -/
  | faddAdd (d : BitVec 7) (a : BitVec 7) (b : BitVec 7) (x : LExt)
  /-- `fadd.sub` (R238): f32 subtract. -/
  | faddSub (d : BitVec 7) (a : BitVec 7) (b : BitVec 7) (x : LExt)
  /-- `fadd.min` (R238): f32 minimum. -/
  | faddMin (d : BitVec 7) (a : BitVec 7) (b : BitVec 7) (x : LExt)
  /-- `fadd.max` (R238): f32 maximum. -/
  | faddMax (d : BitVec 7) (a : BitVec 7) (b : BitVec 7) (x : LExt)
  /-- `fadd.add2h` (R238): Packed f16 add. -/
  | faddAdd2h (d : BitVec 7) (a : BitVec 7) (b : BitVec 7) (x : LExt)
  /-- `fadd.sub2h` (R238): Packed f16 subtract. -/
  | faddSub2h (d : BitVec 7) (a : BitVec 7) (b : BitVec 7) (x : LExt)
  /-- `fadd.add2b` (R238): Packed bf16 add. -/
  | faddAdd2b (d : BitVec 7) (a : BitVec 7) (b : BitVec 7) (x : LExt)
  /-- `fadd.sub2b` (R238): Packed bf16 subtract. -/
  | faddSub2b (d : BitVec 7) (a : BitVec 7) (b : BitVec 7) (x : LExt)
  /-- `fadd.abs` (R239): Clears bit 31. -/
  | faddAbs (d : BitVec 7) (a : BitVec 7) (x : LExt)
  /-- `fadd.neg` (R239): Inverts bit 31. -/
  | faddNeg (d : BitVec 7) (a : BitVec 7) (x : LExt)
  /-- `fadd.csgn` (R239): Copies the sign of b onto a. -/
  | faddCsgn (d : BitVec 7) (a : BitVec 7) (b : BitVec 7) (x : LExt)
  /-- `fmul.mul` (R240): f32 multiply. -/
  | fmulMul (d : BitVec 7) (a : BitVec 7) (b : BitVec 7) (x : LExt)
  /-- `fmul.mul2h` (R240): Packed f16 multiply. -/
  | fmulMul2h (d : BitVec 7) (a : BitVec 7) (b : BitVec 7) (x : LExt)
  /-- `fmul.mul2b` (R240): Packed bf16 multiply. -/
  | fmulMul2b (d : BitVec 7) (a : BitVec 7) (b : BitVec 7) (x : LExt)
  /-- `ffma.fma` (R241): f32 fused multiply-add. -/
  | ffmaFma (d : BitVec 7) (a : BitVec 7) (b : BitVec 7) (x : LExt)
  /-- `ffma.fma2h` (R241): Packed f16 fused multiply-add. -/
  | ffmaFma2h (d : BitVec 7) (a : BitVec 7) (b : BitVec 7) (x : LExt)
  /-- `ffma.fma2b` (R241): Packed bf16 fused multiply-add. -/
  | ffmaFma2b (d : BitVec 7) (a : BitVec 7) (b : BitVec 7) (x : LExt)
  /-- `ffma.fms` (R241): f32 fused multiply-subtract. -/
  | ffmaFms (d : BitVec 7) (a : BitVec 7) (b : BitVec 7) (x : LExt)
  /-- `ffma.fnma` (R241): f32 fused negated multiply-add. -/
  | ffmaFnma (d : BitVec 7) (a : BitVec 7) (b : BitVec 7) (x : LExt)
  /-- `fcmp.eq` (R243): f32 equal compare. -/
  | fcmpEq (pd : BitVec 5) (comb : BitVec 2) (a : BitVec 7) (b : BitVec 7) (x : LExt)
  /-- `fcmp.ne` (R243): f32 not-equal compare. -/
  | fcmpNe (pd : BitVec 5) (comb : BitVec 2) (a : BitVec 7) (b : BitVec 7) (x : LExt)
  /-- `fcmp.lt` (R243): f32 less-than compare. -/
  | fcmpLt (pd : BitVec 5) (comb : BitVec 2) (a : BitVec 7) (b : BitVec 7) (x : LExt)
  /-- `fcmp.le` (R243): f32 less-or-equal compare. -/
  | fcmpLe (pd : BitVec 5) (comb : BitVec 2) (a : BitVec 7) (b : BitVec 7) (x : LExt)
  /-- `fcmp.gt` (R243): f32 greater-than compare. -/
  | fcmpGt (pd : BitVec 5) (comb : BitVec 2) (a : BitVec 7) (b : BitVec 7) (x : LExt)
  /-- `fcmp.ge` (R243): f32 greater-or-equal compare. -/
  | fcmpGe (pd : BitVec 5) (comb : BitVec 2) (a : BitVec 7) (b : BitVec 7) (x : LExt)
  /-- `fcmp.un` (R243): True when either operand is a NaN. -/
  | fcmpUn (pd : BitVec 5) (comb : BitVec 2) (a : BitVec 7) (b : BitVec 7) (x : LExt)
  /-- `fcmp.ord` (R243): True when neither operand is a NaN. -/
  | fcmpOrd (pd : BitVec 5) (comb : BitVec 2) (a : BitVec 7) (b : BitVec 7) (x : LExt)
  /-- `fspec.rcp` (R242): Correctly rounded reciprocal. -/
  | fspecRcp (d : BitVec 7) (a : BitVec 7) (x : LExt)
  /-- `fspec.rsqrt` (R242): Correctly rounded reciprocal square root. -/
  | fspecRsqrt (d : BitVec 7) (a : BitVec 7) (x : LExt)
  /-- `fspec.sqrt` (R242): Correctly rounded square root. -/
  | fspecSqrt (d : BitVec 7) (a : BitVec 7) (x : LExt)
  /-- `fspec.exp2` (R242): Correctly rounded 2^x. -/
  | fspecExp2 (d : BitVec 7) (a : BitVec 7) (x : LExt)
  /-- `fspec.log2` (R242): Correctly rounded log2. -/
  | fspecLog2 (d : BitVec 7) (a : BitVec 7) (x : LExt)
  /-- `fspec.sin` (R242): Correctly rounded sine. -/
  | fspecSin (d : BitVec 7) (a : BitVec 7) (x : LExt)
  /-- `fspec.cos` (R242): Correctly rounded cosine. -/
  | fspecCos (d : BitVec 7) (a : BitVec 7) (x : LExt)
  /-- `fspec.tanh` (R242): Correctly rounded tanh. -/
  | fspecTanh (d : BitVec 7) (a : BitVec 7) (x : LExt)
  /-- `cvt` (R245): Converts between the source and target formats named by the format codes. -/
  | cvt (d : BitVec 7) (a : BitVec 7) (src : BitVec 4) (tgt : BitVec 4) (x : LExt)
  /-- `narrow.dot4s` (R247): Four-element s8 dot product with a 32-bit addend. -/
  | narrowDot4s (d : BitVec 7) (a : BitVec 7) (b : BitVec 7) (x : LExt)
  /-- `narrow.dot4n` (R247): Four-element n8 dot product with a 32-bit addend. -/
  | narrowDot4n (d : BitVec 7) (a : BitVec 7) (b : BitVec 7) (x : LExt)
  /-- `narrow.dot4e4` (R247): Four-element e4m3 dot product with an f32 addend. -/
  | narrowDot4e4 (d : BitVec 7) (a : BitVec 7) (b : BitVec 7) (x : LExt)
  /-- `narrow.dot4e5` (R247): Four-element e5m2 dot product with an f32 addend. -/
  | narrowDot4e5 (d : BitVec 7) (a : BitVec 7) (b : BitVec 7) (x : LExt)
  /-- `narrow.dot2b` (R247): Two-element bf16 dot product with an f32 addend. -/
  | narrowDot2b (d : BitVec 7) (a : BitVec 7) (b : BitVec 7) (x : LExt)
  /-- `narrow.dot2h` (R247): Two-element f16 dot product with an f32 addend. -/
  | narrowDot2h (d : BitVec 7) (a : BitVec 7) (b : BitVec 7) (x : LExt)
  /-- `narrow.cbdecb` (R248): Decodes two cb4 codes to packed bf16. -/
  | narrowCbdecb (d : BitVec 7) (a : BitVec 7) (b : BitVec 7) (x : LExt)
  /-- `narrow.cbdech` (R248): Decodes two cb4 codes to packed f16. -/
  | narrowCbdech (d : BitVec 7) (a : BitVec 7) (b : BitVec 7) (x : LExt)
  /-- `narrow.cbdecf` (R248): Decodes one cb4 code to f32. -/
  | narrowCbdecf (d : BitVec 7) (a : BitVec 7) (b : BitVec 7) (x : LExt)
  /-- `narrow.pke4` (R249): Packs four f32 values into e4m3. -/
  | narrowPke4 (d : BitVec 7) (a : BitVec 7) (b : BitVec 7) (x : LExt)
  /-- `narrow.pke5` (R249): Packs four f32 values into e5m2. -/
  | narrowPke5 (d : BitVec 7) (a : BitVec 7) (b : BitVec 7) (x : LExt)
  /-- `narrow.mxpk` (R250): Packs one MXINT8 block across the lanes of the path. -/
  | narrowMxpk (d : BitVec 7) (a : BitVec 7) (x : LExt)
  /-- `narrow.mxunpk` (R251): Unpacks one mxi8 code with its scale to f32. -/
  | narrowMxunpk (d : BitVec 7) (a : BitVec 7) (b : BitVec 7) (x : LExt)
  /-- `narrow.upke4` (R252): Unpacks four e4m3 values to f16. -/
  | narrowUpke4 (d : BitVec 7) (a : BitVec 7) (x : LExt)
  /-- `narrow.upke5` (R252): Unpacks four e5m2 values to f16. -/
  | narrowUpke5 (d : BitVec 7) (a : BitVec 7) (x : LExt)
  /-- `f64.add` (R244): f64 add. -/
  | f64Add (d : BitVec 7) (a : BitVec 7) (b : BitVec 7) (x : LExt)
  /-- `f64.sub` (R244): f64 subtract. -/
  | f64Sub (d : BitVec 7) (a : BitVec 7) (b : BitVec 7) (x : LExt)
  /-- `f64.mul` (R244): f64 multiply. -/
  | f64Mul (d : BitVec 7) (a : BitVec 7) (b : BitVec 7) (x : LExt)
  /-- `f64.fma` (R244): f64 fused multiply-add. -/
  | f64Fma (d : BitVec 7) (a : BitVec 7) (b : BitVec 7) (x : LExt)
  /-- `f64.min` (R244): f64 minimum. -/
  | f64Min (d : BitVec 7) (a : BitVec 7) (b : BitVec 7) (x : LExt)
  /-- `f64.max` (R244): f64 maximum. -/
  | f64Max (d : BitVec 7) (a : BitVec 7) (b : BitVec 7) (x : LExt)
  /-- `f64.abs` (R244): Clears bit 63. -/
  | f64Abs (d : BitVec 7) (a : BitVec 7) (x : LExt)
  /-- `f64.neg` (R244): Inverts bit 63. -/
  | f64Neg (d : BitVec 7) (a : BitVec 7) (x : LExt)
  /-- `ld` (R256): Global load of the width the size field gives. -/
  | ld (d : BitVec 7) (a : BitVec 7) (size : BitVec 3) (hs : BitVec 2) (off : BitVec 6) (x : LExt)
  /-- `st` (R256): Global store of the width the size field gives. -/
  | st (d : BitVec 7) (a : BitVec 7) (size : BitVec 3) (hs : BitVec 2) (off : BitVec 6) (x : LExt)
  /-- `ldl` (R256): Local-space load. -/
  | ldl (d : BitVec 7) (a : BitVec 7) (size : BitVec 3) (hs : BitVec 2) (off : BitVec 6) (x : LExt)
  /-- `stl` (R256): Local-space store. -/
  | stl (d : BitVec 7) (a : BitVec 7) (size : BitVec 3) (hs : BitVec 2) (off : BitVec 6) (x : LExt)
  /-- `ldfe` (R258): Waits for a full granule, then loads it, clearing it in the .c forms. -/
  | ldfe (d : BitVec 7) (a : BitVec 7) (size : BitVec 3) (hs : BitVec 2) (off : BitVec 6) (x : LExt)
  /-- `stfe` (R258): Waits for an empty granule, then stores and sets it full. -/
  | stfe (d : BitVec 7) (a : BitVec 7) (size : BitVec 3) (hs : BitVec 2) (off : BitVec 6) (x : LExt)
  /-- `atom.add` (R262): Atomic 32-bit add. -/
  | atomAdd (d : BitVec 7) (a : BitVec 7) (b : BitVec 7) (x : LExt)
  /-- `atom.and` (R262): Atomic AND. -/
  | atomAnd (d : BitVec 7) (a : BitVec 7) (b : BitVec 7) (x : LExt)
  /-- `atom.or` (R262): Atomic OR. -/
  | atomOr (d : BitVec 7) (a : BitVec 7) (b : BitVec 7) (x : LExt)
  /-- `atom.xor` (R262): Atomic XOR. -/
  | atomXor (d : BitVec 7) (a : BitVec 7) (b : BitVec 7) (x : LExt)
  /-- `atom.xchg` (R262): Atomic 32-bit exchange. -/
  | atomXchg (d : BitVec 7) (a : BitVec 7) (b : BitVec 7) (x : LExt)
  /-- `atom.mins` (R262): Atomic signed minimum. -/
  | atomMins (d : BitVec 7) (a : BitVec 7) (b : BitVec 7) (x : LExt)
  /-- `atom.maxs` (R262): Atomic signed maximum. -/
  | atomMaxs (d : BitVec 7) (a : BitVec 7) (b : BitVec 7) (x : LExt)
  /-- `atom.minn` (R262): Atomic unsigned minimum. -/
  | atomMinn (d : BitVec 7) (a : BitVec 7) (b : BitVec 7) (x : LExt)
  /-- `atom.maxn` (R262): Atomic unsigned maximum. -/
  | atomMaxn (d : BitVec 7) (a : BitVec 7) (b : BitVec 7) (x : LExt)
  /-- `atom.addf` (R262): Atomic f32 add rounded to nearest even. -/
  | atomAddf (d : BitVec 7) (a : BitVec 7) (b : BitVec 7) (x : LExt)
  /-- `atom.cas` (R262): Atomic 32-bit compare-and-swap. -/
  | atomCas (d : BitVec 7) (a : BitVec 7) (b : BitVec 7) (x : LExt)
  /-- `atom.add64` (R262): Atomic 64-bit add. -/
  | atomAdd64 (d : BitVec 7) (a : BitVec 7) (b : BitVec 7) (x : LExt)
  /-- `atom.xchg64` (R262): Atomic 64-bit exchange. -/
  | atomXchg64 (d : BitVec 7) (a : BitVec 7) (b : BitVec 7) (x : LExt)
  /-- `atom.cas64` (R262): Atomic 64-bit compare-and-swap. -/
  | atomCas64 (d : BitVec 7) (a : BitVec 7) (b : BitVec 7) (x : LExt)
  /-- `atomfx.add` (R263): Atomic fx128 add. -/
  | atomfxAdd (a : BitVec 7) (b : BitVec 7) (x : LExt)
  /-- `atomfx.fetch` (R263): Atomic fx128 add that returns the old value. -/
  | atomfxFetch (d : BitVec 7) (a : BitVec 7) (b : BitVec 7) (x : LExt)
  /-- `pref` (R264): Prefetch hint with no architectural effect. -/
  | pref (a : BitVec 7) (size : BitVec 3) (hs : BitVec 2) (off : BitVec 6) (x : LExt)
  /-- `br` (R225): Per-lane conditional direct branch. -/
  | br (p : BitVec 5) (neg : BitVec 1) (disp : BitVec 19) (x : LExt)
  /-- `brx.jmp` (R228): Per-lane indirect jump to a body offset. -/
  | brxJmp (a : BitVec 7) (x : LExt)
  /-- `brx.call` (R228): Per-lane indirect call that pushes a return offset. -/
  | brxCall (a : BitVec 7) (x : LExt)
  /-- `call` (R227): Per-lane direct call that pushes a return offset into the slice. -/
  | call (p : BitVec 5) (neg : BitVec 1) (disp : BitVec 19) (x : LExt)
  /-- `ctl.ret` (R229): Returns to the offset popped from the slice. -/
  | ctlRet (x : LExt)
  /-- `ctl.exit` (R230): Ends the lane's thread, and the group when it has no live lane left. -/
  | ctlExit (x : LExt)
  /-- `ctl.yield` (R231): Gives up issue opportunities to the other ready groups. -/
  | ctlYield (x : LExt)
  /-- `guest.dispatch` (R48): Checks guest breakpoints, fetches the guest opcode and jumps to its handler. -/
  | guestDispatch (x : LExt)
  /-- `guest.dispatch.rg` (R50): Enters the block's regroup pool, or dispatches when GRG_MODE is 0. -/
  | guestDispatchRg (x : LExt)
  /-- `guest.rdpc` (R232): Reads GPC into a pair. -/
  | guestRdpc (d : BitVec 7) (x : LExt)
  /-- `guest.wrpc` (R232): Writes GPC. -/
  | guestWrpc (a : BitVec 7) (x : LExt)
  /-- `guest.addpc` (R232): Adds a signed value to GPC. -/
  | guestAddpc (a : BitVec 7) (x : LExt)
  /-- `guest.rdop` (R232): Reads GOP. -/
  | guestRdop (d : BitVec 7) (x : LExt)
  /-- `guest.wrop` (R232): Writes GOP. -/
  | guestWrop (a : BitVec 7) (x : LExt)
  /-- `mma.add` (R278): Matrix operation that accumulates into an accumulator. -/
  | mmaAdd (va : BitVec 7) (vb : BitVec 7) (acc : BitVec 2) (shape : BitVec 4) (x : LExt)
  /-- `mma.set` (R278): Matrix operation that zeroes the accumulator first. -/
  | mmaSet (va : BitVec 7) (vb : BitVec 7) (acc : BitVec 2) (shape : BitVec 4) (x : LExt)
  /-- `mma.tri` (R278): Masked-triangle matrix operation that accumulates. -/
  | mmaTri (va : BitVec 7) (vb : BitVec 7) (acc : BitVec 2) (shape : BitVec 4) (x : LExt)
  /-- `mma.triset` (R278): Masked-triangle matrix operation that zeroes first. -/
  | mmaTriset (va : BitVec 7) (vb : BitVec 7) (acc : BitVec 2) (shape : BitVec 4) (x : LExt)
  /-- `mfrag.rd` (R280): Reads accumulator elements into lane registers. -/
  | mfragRd (d : BitVec 7) (acc : BitVec 2) (b : BitVec 7) (x : LExt)
  /-- `mfrag.wr` (R280): Writes accumulator elements from lane registers. -/
  | mfragWr (d : BitVec 7) (acc : BitVec 2) (b : BitVec 7) (x : LExt)
  /-- `mfrag.zero` (R280): Zeroes an accumulator. -/
  | mfragZero (acc : BitVec 2) (x : LExt)
  /-- `usys.nop` (R298): Uniform no-operation. -/
  | usysNop (x : UExt)
  /-- `usys.svc` (R298): Supervisor call; at level 1 submits a request block to the device manager. -/
  | usysSvc (a : BitVec 6) (x : UExt)
  /-- `usys.tlbiva` (R298): Invalidates the translations of an address range of a context. -/
  | usysTlbiva (a : BitVec 6) (b : BitVec 6) (x : UExt)
  /-- `usys.tlbictx` (R298): Invalidates every translation of a context. -/
  | usysTlbictx (a : BitVec 6) (x : UExt)
  /-- `usys.rti` (R349): Ends a trap handler and returns its record with its disposition. -/
  | usysRti (x : UExt)
  /-- `usys.brk` (R298): Raises NATIVE_BREAK for the group. -/
  | usysBrk (x : UExt)
  /-- `ualu.add` (R295): 64-bit uniform add. -/
  | ualuAdd (d : BitVec 6) (a : BitVec 6) (b : BitVec 6) (x : UExt)
  /-- `ualu.sub` (R295): 64-bit uniform subtract. -/
  | ualuSub (d : BitVec 6) (a : BitVec 6) (b : BitVec 6) (x : UExt)
  /-- `ualu.and` (R295): Uniform AND. -/
  | ualuAnd (d : BitVec 6) (a : BitVec 6) (b : BitVec 6) (x : UExt)
  /-- `ualu.or` (R295): Uniform OR. -/
  | ualuOr (d : BitVec 6) (a : BitVec 6) (b : BitVec 6) (x : UExt)
  /-- `ualu.xor` (R295): Uniform XOR. -/
  | ualuXor (d : BitVec 6) (a : BitVec 6) (b : BitVec 6) (x : UExt)
  /-- `ualu.shl` (R295): Uniform shift left. -/
  | ualuShl (d : BitVec 6) (a : BitVec 6) (b : BitVec 6) (x : UExt)
  /-- `ualu.shr` (R295): Uniform logical shift right. -/
  | ualuShr (d : BitVec 6) (a : BitVec 6) (b : BitVec 6) (x : UExt)
  /-- `ualu.sar` (R295): Uniform arithmetic shift right. -/
  | ualuSar (d : BitVec 6) (a : BitVec 6) (b : BitVec 6) (x : UExt)
  /-- `ualu.mul` (R295): Uniform 64-bit multiply. -/
  | ualuMul (d : BitVec 6) (a : BitVec 6) (b : BitVec 6) (x : UExt)
  /-- `ualu.mins` (R295): Uniform signed minimum. -/
  | ualuMins (d : BitVec 6) (a : BitVec 6) (b : BitVec 6) (x : UExt)
  /-- `ualu.maxs` (R295): Uniform signed maximum. -/
  | ualuMaxs (d : BitVec 6) (a : BitVec 6) (b : BitVec 6) (x : UExt)
  /-- `ualu.minn` (R295): Uniform unsigned minimum. -/
  | ualuMinn (d : BitVec 6) (a : BitVec 6) (b : BitVec 6) (x : UExt)
  /-- `ualu.maxn` (R295): Uniform unsigned maximum. -/
  | ualuMaxn (d : BitVec 6) (a : BitVec 6) (b : BitVec 6) (x : UExt)
  /-- `uaddi` (R295): Adds a signed immediate to a uniform register. -/
  | uaddi (d : BitVec 6) (a : BitVec 6) (imm : BitVec 13) (x : UExt)
  /-- `umovi` (R295): Writes a signed immediate to a uniform register. -/
  | umovi (d : BitVec 6) (imm : BitVec 19) (x : UExt)
  /-- `umovhi` (R295): Writes an immediate to bits 63:32 of a uniform register. -/
  | umovhi (d : BitVec 6) (imm : BitVec 19) (x : UExt)
  /-- `ucmp.eq` (R296): Uniform 64-bit equal compare into a uniform predicate. -/
  | ucmpEq (q : BitVec 3) (a : BitVec 6) (b : BitVec 6) (x : UExt)
  /-- `ucmp.ne` (R296): Uniform not-equal compare. -/
  | ucmpNe (q : BitVec 3) (a : BitVec 6) (b : BitVec 6) (x : UExt)
  /-- `ucmp.lts` (R296): Uniform signed less-than compare. -/
  | ucmpLts (q : BitVec 3) (a : BitVec 6) (b : BitVec 6) (x : UExt)
  /-- `ucmp.les` (R296): Uniform signed less-or-equal compare. -/
  | ucmpLes (q : BitVec 3) (a : BitVec 6) (b : BitVec 6) (x : UExt)
  /-- `ucmp.gts` (R296): Uniform signed greater-than compare. -/
  | ucmpGts (q : BitVec 3) (a : BitVec 6) (b : BitVec 6) (x : UExt)
  /-- `ucmp.ges` (R296): Uniform signed greater-or-equal compare. -/
  | ucmpGes (q : BitVec 3) (a : BitVec 6) (b : BitVec 6) (x : UExt)
  /-- `ucmp.ltn` (R296): Uniform unsigned less-than compare. -/
  | ucmpLtn (q : BitVec 3) (a : BitVec 6) (b : BitVec 6) (x : UExt)
  /-- `ucmp.len` (R296): Uniform unsigned less-or-equal compare. -/
  | ucmpLen (q : BitVec 3) (a : BitVec 6) (b : BitVec 6) (x : UExt)
  /-- `ucmp.gtn` (R296): Uniform unsigned greater-than compare. -/
  | ucmpGtn (q : BitVec 3) (a : BitVec 6) (b : BitVec 6) (x : UExt)
  /-- `ucmp.gen` (R296): Uniform unsigned greater-or-equal compare. -/
  | ucmpGen (q : BitVec 3) (a : BitVec 6) (b : BitVec 6) (x : UExt)
  /-- `ucmp.qand` (R296): Uniform predicate AND. -/
  | ucmpQand (q : BitVec 3) (a : BitVec 3) (b : BitVec 3) (x : UExt)
  /-- `ucmp.qor` (R296): Uniform predicate OR. -/
  | ucmpQor (q : BitVec 3) (a : BitVec 3) (b : BitVec 3) (x : UExt)
  /-- `ucmp.qxor` (R296): Uniform predicate XOR. -/
  | ucmpQxor (q : BitVec 3) (a : BitVec 3) (b : BitVec 3) (x : UExt)
  /-- `ubr` (R297): Uniform conditional branch of the issuing path. -/
  | ubr (q : BitVec 3) (neg : BitVec 1) (disp : BitVec 21) (x : UExt)
  /-- `uld` (R265): One 8-byte global load into a uniform register. -/
  | uld (d : BitVec 6) (a : BitVec 6) (imm : BitVec 13) (x : UExt)
  /-- `ust` (R265): One 8-byte global store from a uniform register. -/
  | ust (d : BitVec 6) (a : BitVec 6) (imm : BitVec 13) (x : UExt)
  /-- `umovl.first` (R266): Copies the lowest path lane's register to a uniform register. -/
  | umovlFirst (d : BitVec 6) (a : BitVec 6) (x : UExt)
  /-- `umovl.lane` (R266): Copies a selected lane's register to a uniform register. -/
  | umovlLane (d : BitVec 6) (a : BitVec 6) (b : BitVec 6) (x : UExt)
  /-- `bar.arrive` (R267): Arrives at a barrier slot, latching the member count if first, and returns the parity. -/
  | barArrive (desc : BitVec 6) (slot : BitVec 4) (level : BitVec 2) (x : UExt)
  /-- `bar.arrive.cnt` (R267): Arrives at a barrier slot, latching a given count if first. -/
  | barArriveCnt (desc : BitVec 6) (addr : BitVec 6) (slot : BitVec 4) (level : BitVec 2) (x : UExt)
  /-- `bar.wait` (R267): Waits until the slot's phase with the named parity completes. -/
  | barWait (desc : BitVec 6) (slot : BitVec 4) (level : BitVec 2) (x : UExt)
  /-- `bar.expect` (R267): Adds to the slot's expected byte count. -/
  | barExpect (desc : BitVec 6) (slot : BitVec 4) (level : BitVec 2) (x : UExt)
  /-- `bar.sync` (R267): Arrives at a slot and waits for the phase it joined. -/
  | barSync (slot : BitVec 4) (level : BitVec 2) (x : UExt)
  /-- `waitc` (R271): Holds the path until the group's counted loads, stores, copies and tile operations are complete. -/
  | waitc (nl : BitVec 4) (ns : BitVec 4) (nc : BitVec 4) (nt : BitVec 4) (x : UExt)
  /-- `cpy.lin` (R285): Linear copy command. -/
  | cpyLin (desc : BitVec 6) (addr : BitVec 6) (slot : BitVec 4) (level : BitVec 2) (x : UExt)
  /-- `cpy.rect` (R285): Rectangular copy command. -/
  | cpyRect (desc : BitVec 6) (addr : BitVec 6) (slot : BitVec 4) (level : BitVec 2) (x : UExt)
  /-- `cpy.tens` (R285): Tensor box copy command. -/
  | cpyTens (desc : BitVec 6) (addr : BitVec 6) (slot : BitVec 4) (level : BitVec 2) (x : UExt)
  /-- `gather.idx32` (R287): Row gather with 32-bit indices. -/
  | gatherIdx32 (desc : BitVec 6) (addr : BitVec 6) (slot : BitVec 4) (level : BitVec 2) (x : UExt)
  /-- `gather.idx64` (R287): Row gather with 64-bit indices. -/
  | gatherIdx64 (desc : BitVec 6) (addr : BitVec 6) (slot : BitVec 4) (level : BitVec 2) (x : UExt)
  /-- `coll.allred` (R289): All-reduce collective. -/
  | collAllred (desc : BitVec 6) (slot : BitVec 4) (level : BitVec 2) (x : UExt)
  /-- `coll.redsc` (R289): Reduce-scatter collective. -/
  | collRedsc (desc : BitVec 6) (slot : BitVec 4) (level : BitVec 2) (x : UExt)
  /-- `coll.allgat` (R289): All-gather collective. -/
  | collAllgat (desc : BitVec 6) (slot : BitVec 4) (level : BitVec 2) (x : UExt)
  /-- `coll.bcast` (R289): Broadcast collective. -/
  | collBcast (desc : BitVec 6) (slot : BitVec 4) (level : BitVec 2) (x : UExt)
  /-- `coll.sparse` (R289): Sparse index-value reduction collective. -/
  | collSparse (desc : BitVec 6) (slot : BitVec 4) (level : BitVec 2) (x : UExt)
  /-- `coll.alltoall` (R289): All-to-all collective. -/
  | collAlltoall (desc : BitVec 6) (slot : BitVec 4) (level : BitVec 2) (x : UExt)
  /-- `mdrain.st` (R284): Drains an accumulator to memory in the chosen format. -/
  | mdrainSt (desc : BitVec 6) (acc : BitVec 2) (slot : BitVec 4) (level : BitVec 2) (x : UExt)
  /-- `mdrain.add` (R284): Adds an accumulator into f32 memory as one indivisible update. -/
  | mdrainAdd (desc : BitVec 6) (acc : BitVec 2) (slot : BitVec 4) (level : BitVec 2) (x : UExt)
  /-- `gang.list` (R281): Sets the block's gang list. -/
  | gangList (a : BitVec 6) (x : UExt)
  /-- `gang.lease` (R281): Queues a request for the core's matrix engine lease. -/
  | gangLease (x : UExt)
  /-- `gang.release` (R281): Gives up the lease with a spill. -/
  | gangRelease (x : UExt)
  /-- `gang.baton` (R281): Passes the baton to another group of the block. -/
  | gangBaton (a : BitVec 6) (x : UExt)
  /-- `task.spawn` (R88): Writes and queues a child record, opening or joining a spawn family. -/
  | taskSpawn (a : BitVec 6) (x : UExt)
  /-- `task.phase` (R78): Writes a phase record, closes the family and ends the group. -/
  | taskPhase (a : BitVec 6) (x : UExt)
  /-- `task.merge` (R91): Gives the child's views as a leaf of its family's merge tree and ends the group. -/
  | taskMerge (x : UExt)
  /-- `mig.l` (R62): Rendezvous at an equivalence point, then moves the block to an L-core. -/
  | migL (imm : BitVec 12) (x : UExt)
  /-- `mig.d` (R62): Rendezvous at an equivalence point, then moves the block to a D-core. -/
  | migD (imm : BitVec 12) (x : UExt)
  /-- `mig.auto` (R66): Rendezvous at an equivalence point, then moves by the MIG_LIVE policy. -/
  | migAuto (imm : BitVec 12) (x : UExt)
  /-- `rega.grow.wait` (R292): Grows the group's register budget, waiting for chunks. -/
  | regaGrowWait (n : BitVec 13) (x : UExt)
  /-- `rega.grow.try` (R292): Grows the budget only if chunks are free at once, reporting in a predicate. -/
  | regaGrowTry (q : BitVec 3) (n : BitVec 13) (x : UExt)
  /-- `rega.shrink` (R292): Releases the highest register chunks. -/
  | regaShrink (n : BitVec 13) (x : UExt)
  /-- `sysr` (R299): Reads a system register. -/
  | sysr (d : BitVec 6) (num : BitVec 12) (x : UExt)
  /-- `sysw` (R299): Writes a system register, holding until every core of the partition applies it. -/
  | sysw (a : BitVec 6) (num : BitVec 12) (x : UExt)
  /-- `fence.sys.rel` (R141): System-scope release fence. -/
  | fenceSysRel (x : UExt)
  /-- `fence.sys.acq` (R141): System-scope acquire fence that drops L1 leases on system-class lines. -/
  | fenceSysAcq (x : UExt)
  /-- `fence.sys.full` (R141): System-scope full fence. -/
  | fenceSysFull (x : UExt)
  /-- `handle.alloc` (R293): Takes the lowest free handle slot for a tile buffer or BFQ sequence slot. -/
  | handleAlloc (d : BitVec 6) (a : BitVec 6) (b : BitVec 6) (x : UExt)
  /-- `handle.retire` (R127): Retires a handle slot, raising its generation. -/
  | handleRetire (a : BitVec 6) (x : UExt)
  /-- `handle.fill` (R293): Sets every granule of a tile full. -/
  | handleFill (a : BitVec 6) (x : UExt)
  /-- `handle.clear` (R293): Sets every granule of a tile empty. -/
  | handleClear (a : BitVec 6) (x : UExt)
  /-- `handle.summ` (R293): Reads a tile's full/empty summary. -/
  | handleSumm (d : BitVec 6) (a : BitVec 6) (x : UExt)
  /-- `handle.shape` (R293): Takes a handle slot for a tensor shape record copied from core scratch. -/
  | handleShape (d : BitVec 6) (a : BitVec 6) (x : UExt)
  /-- `bfq.bind` (R98): Binds a batch-forming queue context to weights, an entry and a row geometry. -/
  | bfqBind (desc : BitVec 6) (addr : BitVec 6) (x : UExt)
  /-- `bfq.join` (R99): Offers one row to a batch-forming queue context. -/
  | bfqJoin (desc : BitVec 6) (addr : BitVec 6) (slot : BitVec 4) (level : BitVec 2) (x : UExt)
  /-- `bfq.unbind` (R294): Closes the gathering batch, waits for write-backs and releases the binding. -/
  | bfqUnbind (a : BitVec 6) (x : UExt)
  /-- `perf.rd` (R338): Reads a 48-bit performance counter. -/
  | perfRd (d : BitVec 6) (a : BitVec 6) (x : UExt)
  /-- `perf.sel` (R337): Selects a counter's event and arms its overflow notice. -/
  | perfSel (a : BitVec 6) (b : BitVec 6) (x : UExt)
  /-- `perf.mark` (R335): Writes a trace marker record to the sampling ring. -/
  | perfMark (a : BitVec 6) (x : UExt)
  /-- `perf.sample` (R332): Sets the PC-sampling interval and ring descriptor. -/
  | perfSample (a : BitVec 6) (x : UExt)
  /-- R308: a host RMA write through data endpoint `ep` of partition `part`, from the transport address `peer`. -/
  | rmaWrite (part ep peer : Nat) (va : DWord) (data : List Byte)
  /-- R308: a host RMA read of `len` bytes. -/
  | rmaRead (part ep peer : Nat) (va : DWord) (len : Nat)
  /-- R317: an RMA write to LAUNCH. -/
  | launchWord (part peer : Nat) (word : DWord)
  /-- R409: an access to a window that is not one aligned access to a listed register, or that reads a WO register. -/
  | invalidControlAccess (w : WindowAccess) (off : Nat) (isRead : Bool)
  /-- R324: writing EN = 0 to PCTL. -/
  | pctlEnClear (part : ControlAccess)
  /-- R324: writing EN = 1 to PCTL. -/
  | pctlEnSet (part : ControlAccess)
  /-- R311: request KIND 1 at `va` of a tenant context; `frames` are the 64 KiB frames the device manager takes. -/
  | registerGraph (part ctx : Nat) (va : DWord) (frames : List Nat)
  /-- R312: request KIND 2. -/
  | unregisterGraph (part ctx : Nat) (va : DWord)
  /-- R330: request KIND 3. -/
  | attestationReport (part ctx : Nat) (va : DWord)
  /-- R112: request KIND 4, made by a supervisor. -/
  | formatWindowSetup (part ctx : Nat) (va : DWord)
  /-- R288: request KIND 5, made by a supervisor. -/
  | collectiveMemberTable (part ctx : Nat) (va : DWord)
  /-- R310: request KIND 6, made by a supervisor. -/
  | windowGrant (part ctx : Nat) (va : DWord)
  /-- R408: request KIND 7. -/
  | eventLogRead (part ctx : Nat) (va : DWord)
  /-- R321: management request 0x80, submitted in MBOX. -/
  | writePartitionDescriptor
  /-- R316: management request 0x81. -/
  | createTenantContext
  /-- R316: management request 0x82. -/
  | destroyTenantContext
  /-- R316: management request 0x83. -/
  | configureEndpointContext
  /-- R316: management request 0x84. -/
  | lendConstellation
  /-- R387: management request 0x85. -/
  | reclaimConstellation
  /-- R326: management request 0x86. -/
  | setCapAndMode
  /-- R315: management request 0x87. -/
  | writeFirmwareChunk
  /-- R6, R314: a write to a register that has no row of its own: its words of 8 bytes, from offset `off` on. -/
  | registerWrite (w : WindowAccess) (off : Nat) (value : List DWord)
  /-- R318: a queued launch of the graph in `slot` starts. -/
  | launchStart (part ctx slot : Nat)
  /-- R196: node `node` of the launch at `launch` starts. -/
  | nodeStart (part launch node : Nat)
  /-- R27: the Meridian places the next waiting cluster of a node. -/
  | blockPlacement (part launch node : Nat)
  /-- R74: the Meridian moves a running block to another core of its class. -/
  | sameClassMove (blk core : Nat)
  /-- R320: a launch whose last node has ended ends. -/
  | launchEnd (part launch : Nat)
  /-- R40: the swap of a blocked active group and a ready pending group. -/
  | groupSwap (core sub : Nat)
  /-- R41: the forced swap of a group pending and ready for 256 cycles. -/
  | pendingAgeSwap (core sub : Nat)
  /-- R51: GRG_WAIT closes a regroup round. -/
  | regroupTimeout (blk : Nat)
  /-- R65: the Meridian migrates a block whose rendezvous is complete. -/
  | migrate (blk : Nat)
  /-- R84: a core claims a queued record. -/
  | recordClaim (core : Nat)
  /-- R84: AGE_STEAL makes a queued record stealable. -/
  | recordStealable (rec' : Nat)
  /-- R95: the matrix engine of a core grants a queued request. -/
  | leaseGrant (core : Nat)
  /-- R96: a holder at LEASE_CAP passes the lease. -/
  | leasePass (core : Nat)
  /-- R279: the accepted matrix operation at the head of a core's engine finishes. -/
  | matrixOpComplete (core : Nat)
  /-- R100: BFQ_WAIT closes a gathering batch. -/
  | bfqWaitExpiry (unit : Nat)
  /-- R100: a full result tile is written back. -/
  | bfqWriteback (unit : Nat)
  /-- R102: a binding whose node has nothing else left releases itself. -/
  | bfqAutoUnbind (unit : Nat)
  /-- R123: the next 16 bytes of an engine command reach their destination. -/
  | engineWrite (cmd : EngineStep)
  /-- R282: an engine command that has written its last byte adds its byte count. -/
  | engineCommandComplete (cmd : Nat)
  /-- R289: a collective context performs its oldest collective with what the other members issued. -/
  | collectiveExchange (unit : Nat) (peers : List PeerColl)
  /-- R376: a command under way meets an access fault at its next 16 bytes. -/
  | engineCommandFault (cmd : Nat)
  /-- R357: a full/empty wait reaches 2^28 cycles. -/
  | feWatchdog (blk grp lane : Nat)
  /-- R341: the stop image and the records of a stopped group are written. -/
  | stopImageWrite (blk grp : Nat)
  /-- R118: the oldest waiting grow of a core is served. -/
  | regaGrant (core : Nat)
  /-- R333: a core takes a PC sample. -/
  | pcSample (core : Nat)
  /-- R131: an L1 lease of a core on the 64-byte line at `pa` expires. -/
  | l1LeaseExpiry (core pa : Nat)
  /-- R139: BISnpData on a pool line. -/
  | bisnpdata (line : Nat)
  /-- R139: BISnpInv on a pool line, after which the agent that asked stores `bytes` (offset in the line, value). -/
  | bisnpinv (line : Nat) (bytes : List (Nat × Byte))
  /-- R139: the L2 evicts a pool line. -/
  | l2Eviction (line : Nat)
  /-- R139: queued stores merge into an owned pool line. -/
  | poolStoreMerge (line : Nat)
  /-- R140: the host acknowledges the oldest posted window write. -/
  | hostWriteAck
  /-- R325: the arbiter's 1 µs window. -/
  | arbiterWindow
  /-- R417: the current clamp of a die. -/
  | currentClamp (die : Nat)
  /-- R417: a die above 105 °C, at `temp`. -/
  | thermalThrottle (die temp : Nat)
  /-- R417: the cap is restored. -/
  | thermalCapRestore (die : Nat)
  /-- R417: 120 °C or coolant loss. -/
  | thermalShutdown (die temp : Nat)
  /-- R324: a context's slice ends. -/
  | sliceExpiry (part : Nat)
  /-- R324: GRACE expires. -/
  | graceExpiry (part : Nat)
  /-- R361: the halt completes and the context is saved. -/
  | haltComplete (part : Nat)
  /-- R324: KILL expires. -/
  | killExpiry (part : Nat)
  /-- R340: a PTP message with the grandmaster's time in PTIME's format. -/
  | ptpMessage (time : DWord)
  /-- R412: an Ultra Ethernet port fails. -/
  | portDown (port : Nat)
  /-- R412: an Ultra Ethernet port comes up. -/
  | portUp (port : Nat)
  /-- R412: no port up for 1 ms: host-visible window `idx` of a partition is lost. -/
  | hostWindowLost (part idx : Nat)
  /-- R413: a CXL port fails. -/
  | cxlPortFail (port : Nat)
  /-- R413: both CXL ports down for 10 ms. -/
  | poolLost
  /-- R414: a corrected error of a unit. -/
  | correctableError (u : PoisonUnit)
  /-- R414: an uncorrectable error of a unit. -/
  | uncorrectableError (u : PoisonUnit)
  /-- R414: the daily scrub of all DRAM. -/
  | dramScrub
  /-- R410: an access by master `core` to a unit outside its owner's bitmaps. -/
  | isolationViolation (core target : Nat)
  /-- R328: power-on reset. -/
  | powerOnReset
  /-- R8: reset of a partition. -/
  | partitionReset (part : Nat)
  /-- R369: the frames of a code version are freed. -/
  | versionFree (ver : Nat)
  /-- R271: entry `id` of a group's list of loads (or stores) completes. -/
  | memoryAccessComplete (blk grp : Nat) (store : Bool) (id : Nat)
  /-- R392: a word or run of words that is not an instruction is issued. -/
  | nonInstructionWord (w : BadWord)
  /-- R412: PTP is lost. -/
  | ptpLost
  /-- R413: a failed CXL port returns. -/
  | cxlPortRecover (port : Nat)
  /-- R314: a write to MGO while BUSY is 1. -/
  | mgoWriteWhileBusy
  /-- R315: a request block with an unknown KIND: at `va` of a tenant context, or in MBOX. -/
  | unknownRequestKind (w : Window) (ctx : Nat) (va : DWord)
  deriving DecidableEq, Repr

end Sys2Proof
end

