-- ==== Sys2Proof/Machine/State.lean ====
section
/-! DEFINITION. The state of the module as plain data: threads in groups in blocks on cores, clusters and grids, the
partitions with their tenant contexts, the memories, the engines' commands in flight, the device manager's records, and
what the model adds to say which step comes next. The reasons a step can stop, and the state after reset. -/

namespace Sys2Proof.Machine

open Sys2Proof

/-! ### Barrier slots and waits -/

/-- A barrier slot (R69, R142). -/
structure BarSlot where
  arrivals : Nat := 0
  latch : Option Nat := none
  expected : Nat := 0
  accrued : Nat := 0
  parity : Bool := false
  /-- The commands whose byte counts the accrued count includes (R133). -/
  cmds : List Nat := []
  deriving DecidableEq, Repr

/-- A barrier slot by the unit that owns it (Table 8-3). -/
inductive SlotKey where
  | grp (blk g n : Nat)
  | blk (blk n : Nat)
  | cls (cluster n : Nat)
  | grd (grid n : Nat)
  deriving DecidableEq, Repr

/-- A space whose granules carry full/empty bits (Table 5-1): a block's core scratch, a cluster's allocation, the die
scratchpads by package address (die in bits 26:25). -/
inductive FeSpace where
  | scr (blk : Nat)
  | csh (cluster : Nat)
  | dsp
  deriving DecidableEq, Repr

/-- What a waiting full/empty operation does when its granule allows it (R258). -/
inductive FeOp where
  | load (clear : Bool)
  | store (v : Nat)
  deriving DecidableEq, Repr

/-- A full/empty operation that waits on a granule (R124, R259). -/
structure FeWait where
  blk : Nat
  grp : Nat
  lane : Nat
  space : FeSpace
  off : Nat
  bytes : Nat
  op : FeOp
  d : BitVec 7
  start : Nat
  /-- Offset and space code as the program gives them (R357). -/
  addr : Nat
  code : Nat
  /-- The entry of its group's list of loads or stores (R271). -/
  entry : Nat
  deriving DecidableEq, Repr

/-- Why a held path executes its instruction again when something changes. -/
inductive Retry where
  | lease | waitc | fence | bfq | release | link
  deriving DecidableEq, Repr

/-- How a lane is held at its instruction. -/
inductive Hold where
  /-- Not held. -/
  | none
  /-- Held for reconvergence (R45). -/
  | reconv
  /-- Waits for the next phase completion of a slot, having named a parity; `sync` when its `bar.sync` has arrived
  (R144, Table 19-5). -/
  | slot (k : SlotKey) (next : DWord) (sync parity : Bool)
  /-- Its full/empty operation waits (R258). -/
  | fe (next : DWord)
  /-- Its full/empty operation is done and others of its instruction are not (R259). -/
  | feDone (next : DWord)
  /-- In its block's regroup pool (R50). -/
  | pool
  /-- Its group has arrived at a rendezvous (R62). -/
  | mig (next : DWord)
  /-- Its group's arrival stands in the joint latch (R277). -/
  | latch (next : DWord)
  /-- Its group's grow waits (R118). -/
  | rega (next : DWord)
  /-- Its `bfq.unbind` waits for the release of a binding (R294). -/
  | unbind (unit : Nat) (next : DWord)
  /-- A request to the device manager is not answered yet (R310). -/
  | svc (next va : DWord)
  /-- Its handler lookup waits for a link; `rg` when a regroup round has moved it (R358, R413). -/
  | lookup (rg : Bool)
  /-- Executes its instruction again when what it waits for may have come about. -/
  | retry (why : Retry)
  deriving DecidableEq, Repr

/-! ### Threads and groups -/

/-- One lane of a group and the thread it holds (R24, R25, Table 2-4, R119, R226). -/
structure Lane where
  live : Bool := false
  tid : BitVec 16 := 0
  npc : DWord := 0
  regs : Cells Word := []
  preds : BitVec 24 := 0
  gpc : DWord := 0
  gop : Byte := 0
  cd : Nat := 0
  priv : Cells Byte := []
  hold : Hold := .none
  /-- ONCE of Table 19-5 (R352). -/
  once : Bool := false
  /-- The pass count of the path the lane is in (R35, R38). -/
  passes : Nat := 0
  /-- While its instruction waits: the uniform registers and predicates as they were when it issued (R190, R274). -/
  seen : Option (Cells DWord × BitVec 7) := none
  deriving DecidableEq, Repr

/-- One trap record (Tables 19-1 to 19-4) with what its handler has written and returned. -/
structure TrapRec where
  cause : Nat
  /-- 0 L, 1 G, 2 N. -/
  src : Nat
  lane : Nat := 0
  grp : Nat := 0
  tid : BitVec 16 := 0
  npc : DWord := 0
  xpc : DWord := 0
  xk : Nat := 0
  gpc : DWord := 0
  gop : Byte := 0
  addr : DWord := 0
  info : DWord := 0
  rg : Bool := false
  core : Nat := 0
  lbody : Bool := false
  block : Nat := 0
  launch : Nat := 0
  /-- ACT and STEP_MODE as the handler left them. -/
  act : BitVec 2 := 0
  stepMode : BitVec 2 := 0
  /-- TRAP_NPC, TRAP_GPC and TRAP_GOP that the handler has written (R348). -/
  npcW : Option DWord := none
  gpcW : Option DWord := none
  gopW : Option Byte := none
  /-- The abandoned command it reports: writes to TRAP_NPC are ignored (R376). -/
  cmd : Option Nat := none
  returned : Bool := false
  deriving DecidableEq, Repr

/-- A stop of a group (R341): its records, and its stop slot once the stop image is written. -/
structure Stop where
  recs : List TrapRec
  slot : Option Nat := none
  /-- Records raised since the image was written, or for which it had no room: the group stops with them again (R341, R375). -/
  more : List TrapRec := []
  deriving DecidableEq, Repr

/-- One of a group's lists of incomplete operations (R271): how many were ever listed, and the open ones. -/
structure CountList where
  issued : Nat := 0
  pend : List Nat := []
  /-- Commands listed whose writes a `waitc` may still have to publish (R133): place in the list and command. -/
  cmds : List (Nat × Nat) := []
  /-- The lanes that take part in each open entry (R36). -/
  lanes : List (Nat × BitVec 32) := []
  /-- Entries that are global-space loads or atomics (R40). -/
  far : List Nat := []
  /-- Entries that are loads or atomics to system-class memory (Table 6-2). -/
  sys : List Nat := []
  deriving DecidableEq, Repr

/-- A group (Tables 2-4, 3-6, 19-5). -/
structure Group where
  lanes : List Lane
  ureg : Cells DWord := []
  upred : BitVec 7 := 0
  gcb : DWord := 0
  ght : DWord := 0
  grgMode : BitVec 2 := 0
  slots : List BarSlot := [{}, {}]
  /-- The register budget in units of 8 (R118). -/
  budget : Nat
  loads : CountList := {}
  stores : CountList := {}
  copies : CountList := {}
  tiles : CountList := {}
  /-- The last-EQP mark (R72); none marks the start entry. -/
  leqp : Option Nat := none
  /-- The open spawn family (R87). -/
  family : Option Nat := none
  stop : Option Stop := none
  /-- STEP_MODE armed and the stepped lane (R353); lanes that have still to issue. -/
  stepMode : BitVec 2 := 0
  stepLanes : BitVec 32 := 0
  /-- Its lanes that a round held when it resumed with a stepping mode, and that have not issued since. -/
  stepPool : BitVec 32 := 0
  stepLane : Nat := 0
  /-- Sub-core, active or pending, and the cycles since which it is so and since which it has a ready path, or none. -/
  sub : Nat := 0
  active : Bool := true
  since : Nat := 0
  mark : Nat := 0
  /-- It had a ready path after the last step; it was blocked then, and the cycle since which it is so or not. -/
  wasReady : Bool := true
  wasBlocked : Bool := false
  blockedAt : Nat := 0
  /-- The previous slot-1 lane (R36). -/
  slot1Lane : Option Nat := none
  /-- The first cycle in which it can be chosen again after a swap or an entry (R40, R41). -/
  chooseAt : Nat := 0
  deriving DecidableEq, Repr

/-! ### Blocks, clusters, grids, cores -/

/-- A matrix operation that a core's engine has accepted (R277, R362); of an `mma`, with its base word, its rank-0 group and the k-steps
completed. -/
inductive MatOp where
  | mma (blk fn acc shape : Nat) (fragA fragB : Cells Word) (s15 : DWord) (word : Word) (grp kdone : Nat)
  | mdrain (blk acc cmd : Nat) (word : Word)
  deriving DecidableEq, Repr

/-- How a block's lease stands beside its core (Table 3-5, R96, R281). -/
structure Lease where
  baton : Nat := 0
  gang : BitVec 32 := 0
  ops : Nat := 0
  /-- The block has held the lease before, so its accumulators are loaded and not zeroed. -/
  everHeld : Bool := false
  /-- It gave the lease up by `gang.release`. -/
  released : Bool := false
  /-- It held the lease when a move or a save took it from its core: HELD of its lease image (R71). -/
  carried : Bool := false
  /-- Its request was queued when a save took it from its core (R364). -/
  wants : Bool := false
  /-- The group whose request is queued. -/
  asker : Nat := 0
  /-- When its last request was made, in steps (R364). -/
  asked : Nat := 0
  /-- Accumulators a0 to a3 while the block does not hold the lease: key 4,096·a + 64·i + j. -/
  acc : Cells Word := []
  /-- Accepted operations that go with the block when it has lost its core (R362, R365). -/
  pending : List MatOp := []
  deriving DecidableEq, Repr

/-- An arrival in a joint latch (R277). -/
structure LatchEntry where
  grp : Nat
  word : Word
  deriving DecidableEq, Repr

/-- A view of a child (R89). -/
structure View where
  off : Nat
  size : Nat
  handle : Word
  op : Nat
  deriving DecidableEq, Repr

/-- A regroup round of a block (R50). -/
structure Round where
  mode : BitVec 2
  start : Nat
  deriving DecidableEq, Repr

/-- A rendezvous of a block (R62): EQP, kind (0 l, 1 d, 2 auto), groups arrived, complete and waiting for room. -/
structure Rendezvous where
  eqp : Nat
  kind : Nat
  arrived : List Nat
  ready : Bool := false
  order : Nat := 0
  /-- The core chosen for the block while its matrix instructions complete (R64, R65). -/
  target : Option Nat := none
  deriving DecidableEq, Repr

/-- Where a block came from. -/
inductive Origin where
  | node
  | phase
  | child (family index : Nat)
  /-- A handler of record `rec` of the stop in `slot`. -/
  | handler (slot rec : Nat)
  /-- A handler of a notice (R346). -/
  | notice (r : TrapRec)
  deriving DecidableEq, Repr

/-- A resident block. -/
structure Block where
  id : Nat
  part : Nat
  ctx : Nat
  launch : Nat
  prio : Nat := 0
  node : Nat := 0
  ver : Nat
  kern : Nat
  entry : Nat
  core : Nat
  lbody : Bool
  cluster : Nat
  grid : Nat
  /-- The block's number in its cluster, the cluster's in its grid, the block's in its grid (R208, Table 19-4). -/
  bnum : Nat := 0
  cnum : Nat := 0
  level1 : Bool := false
  origin : Origin := .node
  groups : List Group
  slots : List BarSlot
  scratch : Cells Byte := []
  full : List Nat := []
  scrBytes : Nat := 0
  privBytes : Nat := 0
  views : List View := []
  viewArea : Nat := 0
  lease : Lease := {}
  latch : List LatchEntry := []
  round : Option Round := none
  rdv : Option Rendezvous := none
  /-- Halted and saved at a reclaim (R387): its block image and its cluster's image as they were then (R361). -/
  parked : Bool := false
  image : List Byte := []
  /-- Its context has been saved while it waits to be placed again, and it is no longer resident (R321). -/
  away : Bool := false
  deriving DecidableEq, Repr

/-- A cluster and its constellation-shared allocation (R121). -/
structure Cluster where
  id : Nat
  grid : Nat
  const : Nat
  base : Nat := 0
  bytes : Nat := 0
  mem : Cells Byte := []
  full : List Nat := []
  slots : List BarSlot
  /-- Groups the cluster was launched with, and those of them that have ended (R142). -/
  total : Nat
  ended : Nat := 0
  deriving DecidableEq, Repr

/-- A grid (R142). -/
structure Grid where
  id : Nat
  part : Nat
  ctx : Nat
  launch : Nat
  node : Nat
  slots : List BarSlot
  total : Nat
  ended : Nat := 0
  deriving DecidableEq, Repr

/-- A grow that waits (R118). -/
structure RegaReq where
  blk : Nat
  grp : Nat
  units : Nat
  deriving DecidableEq, Repr

/-- What a run of 256-byte cells of a core's store is allocated to (R115, R116, R119, R120). -/
structure Alloc where
  blk : Nat
  /-- Group number; 32 for the block's core scratch. -/
  grp : Nat
  /-- The chunk of 8 registers it holds; 14 for the group's lane-private area. -/
  chunk : Nat
  start : Nat
  len : Nat
  deriving DecidableEq, Repr

/-- R231: a yield that may still keep its group from being chosen: sub-core, block, group, cycle, and the groups that have had an
issue opportunity since. -/
structure Yield where
  sub : Nat
  blk : Nat
  grp : Nat
  cycle : Nat
  had : List (Nat × Nat) := []
  deriving DecidableEq, Repr

/-- A core. -/
structure Core where
  holder : Option Nat := none
  leaseQueue : List Nat := []
  acc : Cells Word := []
  ops : List MatOp := []
  regaQueue : List RegaReq := []
  split : Option (Nat × Nat) := none
  pendingSplit : Option (Nat × Nat) := none
  allocs : List Alloc := []
  frozen : Bool := false
  /-- The group chosen last on each sub-core (block, group) (R34), and the cycle of the last swap or entry there (R40, R41). -/
  chosen : Cells (Nat × Nat) := []
  swapAt : Cells Nat := []
  yields : List Yield := []
  /-- Sampling: the group slot and the cycle sampled last (R333). -/
  sampled : Nat := 0
  sampledAt : Option Nat := none
  deriving DecidableEq, Repr

/-! ### Code versions and launches -/

/-- One entry of a state-mapping table (Table 3-2). -/
structure MapEntry where
  kind : Nat
  slot : Nat
  dreg : Nat
  lreg : Nat
  deriving DecidableEq, Repr

/-- A state-mapping table (Table 3-1). -/
structure Eqp where
  id : Nat
  doff : Nat
  loff : Nat
  priv : Nat
  maps : List MapEntry
  deriving DecidableEq, Repr

/-- A body in the image: its offset from the image base and its length in bytes. -/
structure Body where
  off : Nat
  len : Nat
  deriving DecidableEq, Repr

/-- A kernel record with its tables (Table 9-5, R60, R61). -/
structure Kernel where
  threads : Nat
  clblk : Nat
  startL : Bool
  dbud : Nat
  lbud : Nat
  dsplit : Nat × Nat
  lsplit : Nat × Nat
  priv : Nat
  scrb : Nat
  cshb : Nat
  dbody : Option Body
  lbody : Option Body
  eqps : List Eqp := []
  pcmap : List (Nat × Nat) := []
  deriving DecidableEq, Repr

/-- An entry record (Table 9-6). -/
structure Entry where
  kern : Nat
  nc : Nat
  nuc : Nat
  nv : Nat
  ops : Nat
  doff : Option Nat
  loff : Option Nat
  deriving DecidableEq, Repr

/-- A node record (Table 9-7). -/
structure Node where
  entry : Nat
  clusters : Nat
  deps : Nat
  deriving DecidableEq, Repr

/-- A code version (R110, R111): the image at IMGVA lies in the frames named, each of 64 KiB. -/
structure Version where
  id : Nat
  part : Nat
  ctx : Nat
  graph : Nat
  num : Nat
  imgva : DWord
  size : Nat
  frames : List Nat
  kernels : List Kernel
  entries : List Entry
  nodes : List Node
  trc : Nat
  narg : Nat
  args : Nat
  frame : Nat
  done : DWord
  digest : List Byte
  handles : List Word := []
  /-- The TRC word through which its leaves were written (R369). -/
  root : DWord := 0
  deriving DecidableEq, Repr

/-- A node of a running launch (R196). -/
structure NodeRun where
  started : Bool := false
  /-- Clusters placed so far. -/
  placed : Nat := 0
  grid : Nat := 0
  deriving DecidableEq, Repr

/-- A running launch (R318). -/
structure Launch where
  idx : Nat
  ctx : Nat
  graph : Nat
  ver : Nat
  word : DWord
  seq : Nat
  nodes : List NodeRun
  deriving DecidableEq, Repr

/-! ### Records and families -/

/-- What kind of block a queued record starts. -/
inductive RecKind where
  | phase (ins outs : List Word)
  | child (family index : Nat) (views : List (Word × Nat)) (sizes : List Nat)
  | handler (slot rec : Nat) (image : DWord)
  | notice (r : TrapRec)
  deriving DecidableEq, Repr

/-- A phase, child or handler record (Table 4-1, R346). -/
structure TaskRec where
  id : Nat
  part : Nat
  ctx : Nat
  launch : Nat
  node : Nat
  ver : Nat
  entry : Nat
  prio : Nat
  kind : RecKind
  live : BitVec 32
  /-- u0 to u3 and c0 to c7 (a carry slot's 32 words). -/
  us : List DWord
  carry : List (List Word)
  home : Nat := 0
  /-- The core that made it (R83). -/
  made : Nat
  queued : Bool := false
  queuedAt : Nat := 0
  /-- AGE_STEAL as it was when the record was queued (R86). -/
  age : Nat := 0
  stealable : Bool := false
  deriving DecidableEq, Repr

/-- The contents of a view: its bytes, and the numbers of its poisoned elements (R415). -/
abbrev ViewData := List Byte × List Nat

/-- A child's leaf: the contents of each view. -/
abbrev Leaf := List ViewData

/-- A spawn family (R87, R91). -/
structure Family where
  id : Nat
  part : Nat
  ctx : Nat
  views : List (Word × Nat)
  /-- The indices used, and the leaves given so far. -/
  used : List Nat
  leaves : Cells Leaf := []
  closed : Bool := false
  abandoned : Bool := false
  /-- When a child of another family closed it at its merge: that family, the child's index, and the leaf its
  combination applies to (R94). -/
  upInto : Option (Nat × Nat) := none
  upLeaf : List (Word × ViewData) := []
  deriving DecidableEq, Repr

/-! ### Handles and engines -/

/-- What a handle slot holds (R126). -/
inductive Obj where
  | shape (bytes : List Byte)
  | tile (space : FeSpace) (base size : Nat) (staging : Bool)
  | seq
  deriving DecidableEq, Repr

/-- A handle slot (R126, R127). -/
structure HSlot where
  gen : Nat := 1
  obj : Option Obj := none
  deriving DecidableEq, Repr

/-- A tensor and the box of it that a copy moves (Table 13-3, R286). -/
structure Tensor where
  base : DWord
  esz : Nat
  dims : List Nat
  strides : List Nat
  origin : List Nat
  extent : List Nat
  deriving DecidableEq, Repr

/-- A source or destination of an engine command (Table 13-2): a global address, a local space with an offset in it, or a
byte offset in the tile that a handle names. -/
inductive EngAddr where
  | global (va : DWord)
  | loc (sp : FeSpace) (off : Nat)
  | tile (h : Word) (off : Nat)
  deriving DecidableEq, Repr

/-- An engine command's work (R285 to R289). -/
inductive CmdKind where
  | rect (dst src : EngAddr) (len rows spitch dpitch : Nat)
  | tens (dense : EngAddr) (t : Tensor) (toTensor : Bool)
  | gather (dst : EngAddr) (base : DWord) (len pitch : Nat) (blk idx : Nat) (wide : Bool)
  | mdrain (dst : EngAddr) (fmt pitch : Nat) (add : Bool)
  | coll (fn unit op root : Nat) (srcVa dstVa : DWord) (count dcount : Nat)
  deriving DecidableEq, Repr

/-- Where an access goes, once it has been checked. -/
inductive Place where
  | phys (pa : Nat)
  | priv (blk grp lane off : Nat)
  | scr (blk off : Nat)
  | csh (cluster off : Nat)
  | dsp (addr : Nat)
  /-- Byte `off` of the run of words that holds lane register `n` of a group, by lane (R117). -/
  | window (blk grp n off : Nat)
  deriving DecidableEq, Repr

/-- An engine command under way (R282, R363). -/
structure Cmd where
  id : Nat
  part : Nat
  ctx : Nat
  blk : Nat
  grp : Nat
  core : Nat
  trc : Nat
  level1 : Bool
  major : Nat
  pc : DWord
  key : SlotKey
  kind : CmdKind
  total : Nat
  done : Nat := 0
  /-- The entry of the group's copies or tiles list (R271). -/
  copy : Option Nat := none
  tile : Option Nat := none
  /-- It has met a fault, and its stop is not written yet (R376). -/
  fault : Bool := false
  /-- What its image shows of its issue (Table 19-9): its base word, s[desc], s[desc+1], s[addr] and s[addr+1], and the shape and box
  records of a `cpy.tens`. -/
  word : Word := 0
  regs : List DWord := []
  eng : List Byte := []
  /-- The condition at which a drain or a collective has stopped: cause, address and TRAP_INFO (R376). -/
  met : Option (Nat × DWord × DWord) := none
  /-- The cluster of its block (R78). -/
  cluster : Nat := 0
  /-- A write of it has been dropped, its destination's handle being stale (R127). -/
  dropped : Bool := false
  /-- Source bytes read ahead of their piece, by offset from the source's start (R132), each with its poison. -/
  early : Cells (Byte × Bool) := []
  /-- The threads that issued it: a later access of one of them comes after its source reads (R145). -/
  tids : List (BitVec 16) := []
  deriving DecidableEq, Repr

/-- R78: the core scratch of an ended block, or the memory of an ended cluster, while commands that name it are outstanding. -/
structure Shade where
  space : FeSpace
  mem : Cells Byte := []
  full : List Nat := []
  cmds : List Nat := []
  /-- The constellation of an ended cluster, and the base of its memory there (R83, R121). -/
  const : Nat := 0
  base : Nat := 0
  deriving DecidableEq, Repr

/-- R136: part of an update that an engine makes at one moment: a physical address, what to add there as f32 elements or to write there,
and whether it is poisoned. -/
structure Part16 where
  pa : Nat
  add : Bool
  bytes : List Byte
  bad : Bool
  /-- The virtual address that `pa` was translated from, and base and size of the page of that translation (R109). -/
  va : Nat := 0
  page : Nat × Nat := (0, 0)
  deriving DecidableEq, Repr

/-- R134: a global byte that an engine has written and not published: for which command, of which context, and through which translation:
its virtual address, and base and size of its page (R109). -/
structure Unpub where
  pa : Nat
  cmd : Nat
  byte : Byte
  part : Nat := 0
  ctx : Nat := 0
  trc : Nat := 0
  va : Nat := 0
  page : Nat × Nat := (0, 0)
  deriving DecidableEq, Repr

/-- R136: an update that an engine makes at one moment, which has not come yet: the command, and its parts in order. -/
structure Update where
  cmd : Nat
  parts : List Part16
  part : Nat := 0
  ctx : Nat := 0
  trc : Nat := 0
  deriving DecidableEq, Repr

/-- A row offered to a BFQ context (R99). -/
structure BfqRow where
  sequence : Word
  act : DWord
  res : DWord
  key : SlotKey
  part : Nat
  ctx : Nat
  trc : Nat
  level1 : Bool
  /-- The joining group, its core and the address of its `bfq.join` (R376). -/
  blk : Nat
  grp : Nat
  core : Nat
  pc : DWord
  /-- As for a command (R132, R145). -/
  early : Cells (Byte × Bool) := []
  tids : List (BitVec 16) := []
  deriving DecidableEq, Repr

/-- A staging pair (R98, R100). -/
structure BfqPair where
  act : Word
  res : Word
  rows : List BfqRow := []
  closed : Bool := false
  /-- The cycle of its first row, and the cycles that its batch had gathered for when a power-on reset began the count again (R417). -/
  start : Nat := 0
  waited : Nat := 0
  deriving DecidableEq, Repr

/-- A bound BFQ context (R98 to R102). -/
structure Bfq where
  part : Nat
  ctx : Nat
  launch : Nat
  node : Nat
  ver : Nat
  core : Nat
  prio : Nat
  weight : Word
  entry : Nat
  ra : Nat
  rb : Nat
  pairs : List BfqPair
  /-- The pair that gathers, if one does. -/
  gathering : Option Nat
  held : List BfqRow := []
  releasing : Bool := false
  deriving DecidableEq, Repr

/-- A collective context's member table (R288). -/
structure Coll where
  members : Nat
  rank : Nat
  deriving DecidableEq, Repr

/-! ### Tenant contexts and partitions -/

/-- The three levels of TLBs (R108): of a core, of a constellation, and the last level of a die, each by its number. -/
inductive TlbUnit where
  | core (n : Nat)
  | const (n : Nat)
  | die (n : Nat)
  deriving DecidableEq, Repr

/-- A translation that a TLB holds, tagged with partition and context (R108). -/
structure TlbEntry where
  unit : TlbUnit
  part : Nat
  ctx : Nat
  trc : Nat
  va : Nat
  size : Nat
  pa : Nat
  leaf : DWord
  deriving DecidableEq, Repr

/-- A slot of a context's graph table (R311). -/
structure Graph where
  gen : Nat := 1
  live : Bool := false
  ver : Nat := 0
  nver : Nat := 0
  deriving DecidableEq, Repr

/-- A stop slot in use (R346): the stopped group, the records that its handlers serve, and what the stop image was written
with: the lanes' native PCs as body offsets, and the lane registers in it (R347). -/
structure StopSlot where
  slot : Nat
  blk : Nat
  grp : Nat
  recs : List TrapRec
  noffs : List Nat
  nl : Nat
  deriving DecidableEq, Repr

/-- PC sampling of a context (R332). -/
structure Sampling where
  interval : Nat := 0
  ring : Option (Nat × Nat) := none
  widx : Nat := 0
  deriving DecidableEq, Repr

/-- A context as its save image holds it (Table 19-7): blocks, clusters, grids, records, commands and bindings.
Registers, counters, stops and handle table stay in the context, and open families in the state. -/
structure Saved where
  blocks : List Block := []
  clusters : List Cluster := []
  grids : List Grid := []
  recs : List TaskRec := []
  cmds : List Cmd := []
  cores : List (Nat × Core) := []
  dsp : Cells Byte := []
  dspFull : List Nat := []
  bfqs : Cells Bfq := []
  /-- Blocks that wait in the resume queue (R365, R387), and poisoned granules of the die scratchpad. -/
  resume : List Block := []
  dspPoison : List (PoisonUnit × List Nat) := []
  /-- The cycle of the save. -/
  since : Nat := 0
  /-- The bytes of the image as R361 lays it out, in save areas that no program can address. -/
  image : List Byte := []
  deriving DecidableEq, Repr

/-- A tenant context (R316, R324) with the system registers of Table 13-4. -/
structure Ctx where
  quantum : BitVec 8 := 16
  leaseCap : BitVec 8 := 64
  grgWait : BitVec 16 := 4096
  migLive : DWord := 0x8000000001000020
  ageSteal : BitVec 20 := 3000
  gbp : List DWord := [0, 0, 0, 0]
  trapVec : DWord := 0
  split : BitVec 32 := 0x10200C18
  splitLimit : BitVec 36 := 0x228302024
  bfqWait : BitVec 20 := 6000
  trc : List DWord := List.replicate 16 0
  handles : Cells HSlot := []
  graphs : Cells Graph := []
  counters : Cells (BitVec 48) := []
  /-- Selected events and armed overflow notices of counters 0 to 61 (R336, R337). -/
  sels : Cells Nat := []
  armed : List Nat := []
  /-- The last selection of a counter: its cycle, the event before it and whether that was armed, which hold to the end of it (R337). -/
  former : Cells (Nat × Nat × Bool) := []
  /-- Overflow notices that are still to be queued, by counter (R339). -/
  overflows : List Nat := []
  /-- Notices of commands whose block has ended that are still to be queued: core and record (R376). -/
  notices : List (Nat × TrapRec) := []
  sampling : Sampling := {}
  stops : List StopSlot := []
  saved : Option Saved := none
  deriving DecidableEq, Repr

/-- The rungs of the ladder (R324), and whether EN = 0 started the climb; the last stays while EN keeps a saved context
from being restored. -/
inductive Rung where
  | none
  | soft (byEn : Bool)
  | halt (byEn : Bool)
  deriving DecidableEq, Repr

/-- A partition descriptor (Tables 17-4, 17-7, R321). -/
structure Desc where
  const : List Nat := []
  l2b : List Nat := []
  chan : List Nat := []
  eng : List Nat := []
  /-- Base and size of the window on each die, and its low part, in MiB (R122). -/
  dspw : List (Nat × Nat) := [(0, 0), (0, 0), (0, 0), (0, 0)]
  dspr : List Nat := [0, 0, 0, 0]
  /-- Pool windows, and host-visible windows with the host's address: bases and sizes in 2 MiB units. -/
  poolw : List (Nat × Nat) := []
  hostw : List (Nat × Nat × DWord) := []
  grace : Nat := 9000
  kill : Nat := 60000
  slice : Nat := 0
  pwr : Nat := 0
  amp : Nat := 0
  wt : Nat := 0
  deriving DecidableEq, Repr

/-- A request to the device manager that is not answered yet (R310): a host's or a supervisor's, its tenant context, and the address
of its block. -/
structure Request where
  host : Bool
  ctx : Nat
  va : DWord
  deriving DecidableEq, Repr

/-- An endpoint context (R307, R316). -/
structure Endpoint where
  control : Bool
  index : Nat
  ctx : Nat
  trc : Nat
  enabled : Bool
  peer : Nat
  frozen : Bool := false
  deriving DecidableEq, Repr

/-- An event record (Table 24-1). -/
structure EventRec where
  seq : Nat
  code : Nat
  part : Nat
  ctx : Nat
  time : DWord
  unit : Nat
  ukind : Nat
  count : Nat
  info : DWord
  deriving DecidableEq, Repr

/-- What a partition has done on a die in an arbiter window (R325): k-steps, vector operations and memory bytes. -/
structure Work where
  ksteps : Nat := 0
  vops : Nat := 0
  bytes : Nat := 0
  deriving DecidableEq, Repr

/-- A partition (R321, Table 17-1). -/
structure Part where
  desc : Desc := {}
  en : Bool := false
  doneCnt : BitVec 32 := 0
  /-- Launch words held and not started, oldest first (R318). -/
  queue : List DWord := []
  launches : List Launch := []
  launchSeq : Nat := 0
  ctxs : Cells Ctx := []
  /-- The tenant context that runs (R324). -/
  running : Nat := 0
  rung : Rung := .none
  /-- The cycle at which the ladder's present stage, and the running context's slice, began. -/
  rungAt : Nat := 0
  sliceAt : Nat := 0
  log : List EventRec := []
  seq : Nat := 0
  eps : List Endpoint := []
  /-- Requests that are not answered, in the order received (R310). -/
  reqs : List Request := []
  /-- Pool and host windows granted to the supervisor's contexts (R310), and windows lost (R412). -/
  grants : List (Bool × Nat × Nat) := []
  lost : List Nat := []
  /-- Constellations lent to this partition, with their owner (R387). -/
  loans : List (Nat × Nat) := []
  /-- Blocks saved at a reclaim, oldest first (R387). -/
  resume : List Block := []
  /-- The arbiter's (R20, R325, R326): the work of this window by die, the estimates and allowances of power and of current, the
  current allowed on each die, and the dies on which a clamp holds (R417). -/
  work : Cells Work := []
  allowance : Nat := 0
  estimate : Nat := 0
  currentEst : Nat := 0
  currentAllowed : Nat := 0
  dieAllowed : Cells Nat := []
  clamped : Bool := false
  /-- The port that serves each host-visible window (R412). -/
  winPorts : Cells Nat := []
  deriving DecidableEq, Repr

/-! ### Memory beyond DRAM -/

/-- MESI states of a pool line that the home L2 holds (R139). -/
inductive Mesi where
  | M | E | S
  deriving DecidableEq, Repr

/-- A pool line at its home die: state, and the bytes merged into it since it became M. -/
structure PoolLine where
  st : Mesi
  dirty : Cells Byte := []
  deriving DecidableEq, Repr

/-- A device store in the system write queue (R139): pool address and byte. -/
structure QueuedStore where
  addr : Nat
  byte : Byte
  deriving DecidableEq, Repr

/-- An L1 lease on a pool line (R131, R139): the bytes that a system agent has replaced since, as the lease shows them. -/
structure PoolLease where
  core : Nat
  line : Nat
  /-- The cycle in which it was granted: it lasts at most 6,000 cycles. -/
  granted : Nat := 0
  stale : Cells Byte := []
  /-- The bytes of each system agent's store since that the lease does not show, oldest first (R138). -/
  runs : List (List Nat) := []
  deriving DecidableEq, Repr

/-- A format window of a home agent (Table 5-5), with the owner tag of the partition it serves (R322). -/
structure FmtWindow where
  part : Nat := 0
  view : DWord := 0
  src : DWord := 0
  kscl : DWord := 0
  sscl : DWord := 0
  ctl : DWord := 0
  deriving DecidableEq, Repr

/-- What the device answers to the outside: the completion of an RMA operation, with read data. -/
structure Reply where
  ok : Bool
  data : List Byte := []
  deriving DecidableEq, Repr

/-- The boot ROM's inputs and the booted identity (R328, R418). -/
structure Boot where
  slots : List (List Byte) := [[], []]
  staged : List Byte := []
  keyDigest : List Byte := []
  rollback : Nat := 0
  readable : List Bool := [true, true]
  image : Option (List Byte) := none
  status : Byte := 0
  powered : Bool := true
  deriving DecidableEq, Repr

/-- The management window (Table 17-5). -/
structure Mgmt where
  mbox : List Byte := List.replicate 64 0
  busy : Bool := false
  status : BitVec 16 := 0
  evaddr : DWord := 0
  stage : Cells Byte := []
  deriving DecidableEq, Repr

/-! ### The whole machine -/

/-- The path that issues: block, group, its lanes, the address of its instruction's first word, of its base word and of
the instruction after it, and the base word. -/
structure Issue where
  blk : Nat := 0
  grp : Nat := 0
  lanes : BitVec 32 := 0
  pc : DWord := 0
  base : DWord := 0
  next : DWord := 0
  word : Word := 0
  /-- The paths of the group in the cycle in which it issues (R223). -/
  paths : Nat := 0
  deriving DecidableEq, Repr

/-- What issues in slot 1 of the cycle under way: block, group, lanes, their native PC, and the group's paths in that cycle. -/
structure SlotOne where
  blk : Nat
  grp : Nat
  lanes : BitVec 32
  pc : DWord
  paths : Nat
  deriving DecidableEq, Repr

/-- One turn of the model: a path issues, or an operation or event of the table takes place. -/
inductive Turn where
  | issue (blk grp lane : Nat)
  | event (i : Instr)
  deriving DecidableEq, Repr

/-- The state of the module. -/
structure State where
  blocks : List Block := []
  clusters : List Cluster := []
  grids : List Grid := []
  cores : Cells Core := []
  versions : List Version := []
  recs : List TaskRec := []
  families : List Family := []
  cmds : List Cmd := []
  feq : List FeWait := []
  bfqs : Cells Bfq := []
  colls : Cells Coll := []
  /-- Frozen engine contexts (R410). -/
  frozenEngs : List Nat := []
  frozenCopies : List Nat := []
  parts : Cells Part := []
  /-- DRAM by physical address, the die scratchpads by package address (die in bits 26:25) and their full granules. -/
  dram : Cells Byte := []
  dsp : Cells Byte := []
  dspFull : List Nat := []
  /-- Global bytes that engines have written and not published (R134). -/
  unpub : List Unpub := []
  /-- Updates that engines make at one moment and have not made yet (R133, R136). -/
  atOnce : List Update := []
  /-- What outstanding commands still reach of ended blocks and clusters (R78). -/
  shades : List Shade := []
  /-- The migration record written last on each die, in an area of its scratchpad that programs cannot address (R68). -/
  migRecs : Cells (List Byte) := []
  pool : Cells Byte := []
  poolLines : Cells PoolLine := []
  sysq : List QueuedStore := []
  poolLeases : List PoolLease := []
  hostMem : Cells Byte := []
  /-- Accesses posted to host-visible windows and not acknowledged, oldest first (R140): address and bytes. -/
  posted : List (Nat × List Byte) := []
  /-- Poisoned units with the bytes of each that stores have written since (R414, R415). -/
  poison : List (PoisonUnit × List Nat) := []
  /-- What the TLBs hold, oldest first (R108). -/
  tlb : List TlbEntry := []
  /-- Format windows: key 16·die + n. -/
  fmt : Cells FmtWindow := []
  /-- Module cycle count (R207) and PTIME in units of 1/480,000 ns, with its lock (R340). -/
  clk : Nat := 0
  ptime : Nat := 0
  locked : Bool := false
  /-- The rate error to which PTIME is steered, in units of 1/480,000 ns a cycle, and the loss of PTP, which keeps it (R340, R412). -/
  steered : Int := 0
  ptpLost : Bool := false
  mgmt : Mgmt := {}
  boot : Boot := {}
  cap : Nat := 2800
  budgetMode : Bool := false
  hotDies : List Nat := []
  /-- The die and temperature of an emergency that every partition climbs the ladder for (R417). -/
  emergency : Option (Nat × Nat) := none
  capBefore : Nat := 2800
  portsUp : List Nat := List.range 16
  cxlUp : List Nat := [0, 1]
  poolDead : Bool := false
  /-- The cycles since which no port, and no CXL port, is up, and of the arbiter's last window and thermal step. -/
  portsAt : Nat := 0
  cxlAt : Nat := 0
  windowAt : Nat := 0
  coolAt : Nat := 0
  /-- When each die was last read at 100 °C or more (R417). -/
  hotAt : Cells Nat := []
  /-- Corrected errors since the last record, by the unit recorded: its number and kind (R414, Table 24-1). -/
  corrected : List ((Nat × Nat) × Nat) := []
  replies : List Reply := []
  /-- Event records and completion words written outward: address and bytes (R407, R320). -/
  outward : List (DWord × List Byte) := []
  /-- The next number for a block, cluster, grid, version, record, family or command. -/
  fresh : Nat := 1
  /-- The model's own: which step comes next, the path that issues, the second slot, the step counter that free values
  are applied to, and the order of the accesses of the lanes of one instruction (R130). DESIGN CHOICE, log 3 to 6. -/
  cur : Issue := {}
  slot1 : Option SlotOne := none
  agenda : List Turn := []
  tick : Nat := 0
  laneOrder : List Nat := []
  deriving DecidableEq, Repr

/-- Reasons the model stops with a fault. -/
inductive Fault where
  /-- Raised by the meanings of encoded instructions when `cur` names no resident group: no path of the machine issues
  then. `step` never gives such a state to a meaning. Safe. -/
  | noIssuer
  deriving DecidableEq, Repr

/-- Reasons the model refuses a step. -/
inductive Refusal where
  /-- Raised by an arm of `exec` whose instruction has no meaning yet. Safe. -/
  | notModelled (mnemonic : String)
  deriving DecidableEq, Repr

/-- The module after power-on reset and a good boot, before any partition is made: no tenant context exists (R316), every
memory lists nothing, the cap is 2,800 W and the arbiter is in shared mode (R20, R326). -/
def State.reset : State := {}

end Sys2Proof.Machine
end

