-- ==== Sys2Proof/Machine/Static.lean ====
section
/-! DEFINITION. The static conditions of an instruction (R390): what its register fields name and how wide, which
extension words and modifiers it accepts, which sub-field values are unassigned, and the cause the first broken
condition raises (Tables 22-1 to 22-3, R205, R235, R253, R273). -/

namespace Sys2Proof

/-- What an instruction does with a 7-bit lane register field (R173). -/
inductive LaneUse where
  /-- A source of `bits` bits: a lane register, pair or group, or a uniform register s0 to s15. -/
  | source (f : BitVec 7) (bits : Nat)
  /-- A destination of `bits` bits, read as well or not. -/
  | dest (f : BitVec 7) (bits : Nat)
  /-- A base that names a lane register only (R276). -/
  | laneOnly (f : BitVec 7)
  deriving DecidableEq, Repr

/-- A source operand. -/
def src (f : BitVec 7) (bits : Nat) : LaneUse := .source f bits

/-- A destination operand. -/
def dst (f : BitVec 7) (bits : Nat) : LaneUse := .dest f bits

/-- R173, Table 22-3: the width and alignment of a register field, where it names lane registers. -/
def regAligned (f : BitVec 7) (bits : Nat) : Bool :=
  if bits = 128 then f.toNat < 112 && f.toNat % 4 == 0
  else if bits = 64 then 112 ≤ f.toNat || f.toNat % 2 == 0
  else true

/-- Table 22-3: whether the static conditions on a register field hold. -/
def LaneUse.ok : LaneUse → Bool
  | .source f bits => regAligned f bits
  | .dest f bits => f.toNat < 112 && regAligned f bits
  | .laneOnly f => f.toNat < 112

/-- Table 8-9: the width in bits of a format code's register operand (R236, R246). -/
def fmtRegBits (code : BitVec 4) : Nat :=
  match code.toNat with
  | 3 | 8 | 9 => 64
  | 10 => 128
  | _ => 32

/-- Table 12-2: the bits of the data register of `ld`, `st`, `ldl` and `stl`. -/
def sizeRegBits (size : BitVec 3) : Nat :=
  match size.toNat with
  | 3 => 64
  | 4 => 128
  | _ => 32

/-- Table 12-3: the bits of the data register of `ldfe` and `stfe`. -/
def feRegBits (size : BitVec 3) : Nat :=
  match size.toNat with
  | 3 | 6 => 64
  | 4 | 7 => 128
  | _ => 32

/-- R178, R261: an atomic's address is a pair in the global space and one register in a local space. -/
def atomAddrBits (x : LExt) : Nat :=
  match x.mem with
  | some m => if m.local' then 32 else 64
  | none => 64

/-- R177: the random operand of a stochastic conversion is a source when rnd = 4. -/
def auxUse (x : LExt) : List LaneUse :=
  match x.mod with
  | some m => if m.rnd = 4 then [src m.aux 32] else []
  | none => []

/-- The lane register fields of an instruction (chapters 10 to 13). -/
def Instr.uses : Instr → List LaneUse
  | .lsysLane d _ => [dst d 32]
  | .lsysTid d _ => [dst d 32]
  | .lsysGrp d _ _ => [dst d 32]
  | .lsysClk d _ => [dst d 64]
  | .ialuAdd d a b _ => [dst d 32, src a 32, src b 32]
  | .ialuSub d a b _ => [dst d 32, src a 32, src b 32]
  | .ialuAnd d a b _ => [dst d 32, src a 32, src b 32]
  | .ialuOr d a b _ => [dst d 32, src a 32, src b 32]
  | .ialuXor d a b _ => [dst d 32, src a 32, src b 32]
  | .ialuAndn d a b _ => [dst d 32, src a 32, src b 32]
  | .ialuShl d a b _ => [dst d 32, src a 32, src b 32]
  | .ialuShr d a b _ => [dst d 32, src a 32, src b 32]
  | .ialuSar d a b _ => [dst d 32, src a 32, src b 32]
  | .ialuMins d a b _ => [dst d 32, src a 32, src b 32]
  | .ialuMaxs d a b _ => [dst d 32, src a 32, src b 32]
  | .ialuMinn d a b _ => [dst d 32, src a 32, src b 32]
  | .ialuMaxn d a b _ => [dst d 32, src a 32, src b 32]
  | .ialuAbs d a _ => [dst d 32, src a 32]
  | .iaddi d a _ _ => [dst d 32, src a 32]
  | .andi d a _ _ => [dst d 32, src a 32]
  | .ori d a _ _ => [dst d 32, src a 32]
  | .xori d a _ _ => [dst d 32, src a 32]
  | .ishiShl d a _ _ => [dst d 32, src a 32]
  | .ishiShr d a _ _ => [dst d 32, src a 32]
  | .ishiSar d a _ _ => [dst d 32, src a 32]
  | .ishiRol d a _ _ => [dst d 32, src a 32]
  | .movi d _ _ => [dst d 32]
  | .movhi d _ _ => [dst d 32]
  | .imulLo d a b _ => [dst d 32, src a 32, src b 32]
  | .imulHis d a b _ => [dst d 32, src a 32, src b 32]
  | .imulHin d a b _ => [dst d 32, src a 32, src b 32]
  | .imulWides d a b _ => [dst d 64, src a 32, src b 32]
  | .imulWiden d a b _ => [dst d 64, src a 32, src b 32]
  | .imulMad d a b _ => [dst d 32, src a 32, src b 32]
  | .ibitPopc d a _ => [dst d 32, src a 32]
  | .ibitClz d a _ => [dst d 32, src a 32]
  | .ibitCtz d a _ => [dst d 32, src a 32]
  | .ibitBrev d a _ => [dst d 32, src a 32]
  | .ibitBfxs d a b _ => [dst d 32, src a 32, src b 32]
  | .ibitBfxn d a b _ => [dst d 32, src a 32, src b 32]
  | .ibitBfi d a b _ => [dst d 32, src a 32, src b 32]
  | .icmpEq _ _ a b _ => [src a 32, src b 32]
  | .icmpNe _ _ a b _ => [src a 32, src b 32]
  | .icmpLts _ _ a b _ => [src a 32, src b 32]
  | .icmpLes _ _ a b _ => [src a 32, src b 32]
  | .icmpGts _ _ a b _ => [src a 32, src b 32]
  | .icmpGes _ _ a b _ => [src a 32, src b 32]
  | .icmpLtn _ _ a b _ => [src a 32, src b 32]
  | .icmpLen _ _ a b _ => [src a 32, src b 32]
  | .icmpGtn _ _ a b _ => [src a 32, src b 32]
  | .icmpGen _ _ a b _ => [src a 32, src b 32]
  | .cmovNz d a b _ => [dst d 32, src a 32, src b 32]
  | .cmovZ d a b _ => [dst d 32, src a 32, src b 32]
  | .cmovRdp d _ => [dst d 32]
  | .cmovWrp a b _ => [src a 32, src b 32]
  | .lanexShfl d a b _ => [dst d 32, src a 32, src b 32]
  | .lanexShflx d a b _ => [dst d 32, src a 32, src b 32]
  | .lanexShflup d a b _ => [dst d 32, src a 32, src b 32]
  | .lanexShfldn d a b _ => [dst d 32, src a 32, src b 32]
  | .lanexBallot d _ _ => [dst d 32]
  | .lanexAny d _ _ => [dst d 32]
  | .lanexAll d _ _ => [dst d 32]
  | .lanexMatch d a _ => [dst d 32, src a 32]
  | .lanexRedadd d a _ => [dst d 32, src a 32]
  | .lanexRedmins d a _ => [dst d 32, src a 32]
  | .lanexRedmaxs d a _ => [dst d 32, src a 32]
  | .lanexRedand d a _ => [dst d 32, src a 32]
  | .lanexRedor d a _ => [dst d 32, src a 32]
  | .lanexRedxor d a _ => [dst d 32, src a 32]
  | .lanexNpath d _ => [dst d 32]
  | .faddAdd d a b _ => [dst d 32, src a 32, src b 32]
  | .faddSub d a b _ => [dst d 32, src a 32, src b 32]
  | .faddMin d a b _ => [dst d 32, src a 32, src b 32]
  | .faddMax d a b _ => [dst d 32, src a 32, src b 32]
  | .faddAdd2h d a b _ => [dst d 32, src a 32, src b 32]
  | .faddSub2h d a b _ => [dst d 32, src a 32, src b 32]
  | .faddAdd2b d a b _ => [dst d 32, src a 32, src b 32]
  | .faddSub2b d a b _ => [dst d 32, src a 32, src b 32]
  | .faddAbs d a _ => [dst d 32, src a 32]
  | .faddNeg d a _ => [dst d 32, src a 32]
  | .faddCsgn d a b _ => [dst d 32, src a 32, src b 32]
  | .fmulMul d a b _ => [dst d 32, src a 32, src b 32]
  | .fmulMul2h d a b _ => [dst d 32, src a 32, src b 32]
  | .fmulMul2b d a b _ => [dst d 32, src a 32, src b 32]
  | .ffmaFma d a b _ => [dst d 32, src a 32, src b 32]
  | .ffmaFma2h d a b _ => [dst d 32, src a 32, src b 32]
  | .ffmaFma2b d a b _ => [dst d 32, src a 32, src b 32]
  | .ffmaFms d a b _ => [dst d 32, src a 32, src b 32]
  | .ffmaFnma d a b _ => [dst d 32, src a 32, src b 32]
  | .fcmpEq _ _ a b _ => [src a 32, src b 32]
  | .fcmpNe _ _ a b _ => [src a 32, src b 32]
  | .fcmpLt _ _ a b _ => [src a 32, src b 32]
  | .fcmpLe _ _ a b _ => [src a 32, src b 32]
  | .fcmpGt _ _ a b _ => [src a 32, src b 32]
  | .fcmpGe _ _ a b _ => [src a 32, src b 32]
  | .fcmpUn _ _ a b _ => [src a 32, src b 32]
  | .fcmpOrd _ _ a b _ => [src a 32, src b 32]
  | .fspecRcp d a _ => [dst d 32, src a 32]
  | .fspecRsqrt d a _ => [dst d 32, src a 32]
  | .fspecSqrt d a _ => [dst d 32, src a 32]
  | .fspecExp2 d a _ => [dst d 32, src a 32]
  | .fspecLog2 d a _ => [dst d 32, src a 32]
  | .fspecSin d a _ => [dst d 32, src a 32]
  | .fspecCos d a _ => [dst d 32, src a 32]
  | .fspecTanh d a _ => [dst d 32, src a 32]
  | .cvt d a src tgt x => [.dest d (fmtRegBits tgt), .source a (fmtRegBits src)] ++ auxUse x
  | .narrowDot4s d a b _ => [dst d 32, src a 32, src b 32]
  | .narrowDot4n d a b _ => [dst d 32, src a 32, src b 32]
  | .narrowDot4e4 d a b _ => [dst d 32, src a 32, src b 32]
  | .narrowDot4e5 d a b _ => [dst d 32, src a 32, src b 32]
  | .narrowDot2b d a b _ => [dst d 32, src a 32, src b 32]
  | .narrowDot2h d a b _ => [dst d 32, src a 32, src b 32]
  | .narrowCbdecb d a b _ => [dst d 32, src a 32, src b 64]
  | .narrowCbdech d a b _ => [dst d 32, src a 32, src b 64]
  | .narrowCbdecf d a b _ => [dst d 32, src a 32, src b 64]
  | .narrowPke4 d a b x => [dst d 32, src a 64, src b 64] ++ auxUse x
  | .narrowPke5 d a b x => [dst d 32, src a 64, src b 64] ++ auxUse x
  | .narrowMxpk d a _ => [dst d 32, src a 32]
  | .narrowMxunpk d a b _ => [dst d 32, src a 32, src b 32]
  | .narrowUpke4 d a _ => [dst d 64, src a 32]
  | .narrowUpke5 d a _ => [dst d 64, src a 32]
  | .f64Add d a b _ => [dst d 64, src a 64, src b 64]
  | .f64Sub d a b _ => [dst d 64, src a 64, src b 64]
  | .f64Mul d a b _ => [dst d 64, src a 64, src b 64]
  | .f64Fma d a b _ => [dst d 64, src a 64, src b 64]
  | .f64Min d a b _ => [dst d 64, src a 64, src b 64]
  | .f64Max d a b _ => [dst d 64, src a 64, src b 64]
  | .f64Abs d a _ => [dst d 64, src a 64]
  | .f64Neg d a _ => [dst d 64, src a 64]
  | .ld d a size _ _ _ => [dst d (sizeRegBits size), src a 64]
  | .st d a size _ _ _ => [src d (sizeRegBits size), src a 64]
  | .ldl d a size _ _ _ => [dst d (sizeRegBits size), src a 32]
  | .stl d a size _ _ _ => [src d (sizeRegBits size), src a 32]
  | .ldfe d a size _ _ _ => [dst d (feRegBits size), src a 32]
  | .stfe d a size _ _ _ => [src d (feRegBits size), src a 32]
  | .atomAdd d a b x => [dst d 32, src a (atomAddrBits x), src b 32]
  | .atomAnd d a b x => [dst d 32, src a (atomAddrBits x), src b 32]
  | .atomOr d a b x => [dst d 32, src a (atomAddrBits x), src b 32]
  | .atomXor d a b x => [dst d 32, src a (atomAddrBits x), src b 32]
  | .atomXchg d a b x => [dst d 32, src a (atomAddrBits x), src b 32]
  | .atomMins d a b x => [dst d 32, src a (atomAddrBits x), src b 32]
  | .atomMaxs d a b x => [dst d 32, src a (atomAddrBits x), src b 32]
  | .atomMinn d a b x => [dst d 32, src a (atomAddrBits x), src b 32]
  | .atomMaxn d a b x => [dst d 32, src a (atomAddrBits x), src b 32]
  | .atomAddf d a b x => [dst d 32, src a (atomAddrBits x), src b 32]
  | .atomCas d a b x => [dst d 32, src a (atomAddrBits x), src b 64]
  | .atomAdd64 d a b x => [dst d 64, src a (atomAddrBits x), src b 64]
  | .atomXchg64 d a b x => [dst d 64, src a (atomAddrBits x), src b 64]
  | .atomCas64 d a b x => [dst d 64, src a (atomAddrBits x), src b 128]
  | .atomfxAdd a b x => [src a (atomAddrBits x), src b 128]
  | .atomfxFetch d a b x => [dst d 128, src a (atomAddrBits x), src b 128]
  | .pref a _ _ _ _ => [src a 64]
  | .brxJmp a _ => [src a 32]
  | .brxCall a _ => [src a 32]
  | .guestRdpc d _ => [dst d 64]
  | .guestWrpc a _ => [src a 64]
  | .guestAddpc a _ => [src a 32]
  | .guestRdop d _ => [dst d 32]
  | .guestWrop a _ => [src a 32]
  | .mmaAdd va vb _ _ _ => [.laneOnly va, .laneOnly vb]
  | .mmaSet va vb _ _ _ => [.laneOnly va, .laneOnly vb]
  | .mmaTri va vb _ _ _ => [.laneOnly va, .laneOnly vb]
  | .mmaTriset va vb _ _ _ => [.laneOnly va, .laneOnly vb]
  | .mfragRd d _ b _ => [dst d 32, src b 32]
  | .mfragWr d _ b _ => [src d 32, src b 32]
  | _ => []

/-- Which extension words and MOD fields a lane instruction accepts; a HINT word is accepted by every one. -/
structure Accept where
  imm : Bool := false
  mem : Bool := false
  mod : Bool := true
  /-- rnd 1 to 3, with an effect or ignored. -/
  rnd : Bool := false
  /-- rnd 4, stochastic rounding. -/
  sr : Bool := false
  sat : Bool := false
  ftz : Bool := false
  deriving DecidableEq, Repr

def guardOnly : Accept := {}
def bare : Accept := { mod := false }
def guardSat : Accept := { sat := true }
def immSat : Accept := { imm := true, sat := true }
def immGuard : Accept := { imm := true }
def memGuard : Accept := { mem := true }
def rndFtz : Accept := { rnd := true, ftz := true }
def rndOnly : Accept := { rnd := true }
def ftzOnly : Accept := { ftz := true }
def packAccept : Accept := { rnd := true, sr := true, sat := true, ftz := true }

/-- Table 8-9: format codes of floating formats. -/
def isFloatCode (c : BitVec 4) : Bool := c.toNat ≤ 5

/-- Table 8-9: format codes of integer formats. -/
def isIntCode (c : BitVec 4) : Bool := (6 ≤ c.toNat && c.toNat ≤ 9) || (11 ≤ c.toNat && c.toNat ≤ 14)

/-- R157: f32, f16 and bf16 are the formats that flush. -/
def isFlushCode (c : BitVec 4) : Bool := c.toNat ≤ 2

/-- Table 11-1: the two rows of `cvt`. -/
def cvtAccept (src tgt : BitVec 4) : Accept :=
  if isFloatCode tgt && tgt != 3 then
    { rnd := true, sr := tgt = 2 || tgt = 4 || tgt = 5, sat := tgt = 4 || tgt = 5,
      ftz := isFlushCode src || isFlushCode tgt }
  else
    { rnd := true, sat := isFloatCode src || (isIntCode src && isIntCode tgt), ftz := isFlushCode src }

/-- Tables 10-1, 11-1 and 12-1 and R273: what each lane instruction accepts. -/
def Instr.accept : Instr → Accept
  | .ialuAdd _ _ _ _
  | .ialuSub _ _ _ _
  | .ialuAbs _ _ _
  | .imulLo _ _ _ _
  | .imulMad _ _ _ _
  | .narrowDot4s _ _ _ _
  | .narrowDot4n _ _ _ _ => guardSat
  | .iaddi _ _ _ _ => immSat
  | .andi _ _ _ _
  | .ori _ _ _ _
  | .xori _ _ _ _
  | .movi _ _ _
  | .movhi _ _ _
  | .ld _ _ _ _ _ _
  | .st _ _ _ _ _ _
  | .ldl _ _ _ _ _ _
  | .stl _ _ _ _ _ _
  | .ldfe _ _ _ _ _ _
  | .stfe _ _ _ _ _ _
  | .pref _ _ _ _ _ => immGuard
  | .faddAdd _ _ _ _
  | .faddSub _ _ _ _
  | .faddMin _ _ _ _
  | .faddMax _ _ _ _
  | .faddAdd2h _ _ _ _
  | .faddSub2h _ _ _ _
  | .faddAdd2b _ _ _ _
  | .faddSub2b _ _ _ _
  | .fmulMul _ _ _ _
  | .fmulMul2h _ _ _ _
  | .fmulMul2b _ _ _ _
  | .ffmaFma _ _ _ _
  | .ffmaFma2h _ _ _ _
  | .ffmaFma2b _ _ _ _
  | .ffmaFms _ _ _ _
  | .ffmaFnma _ _ _ _
  | .fspecRcp _ _ _
  | .fspecRsqrt _ _ _
  | .fspecSqrt _ _ _
  | .fspecExp2 _ _ _
  | .fspecLog2 _ _ _
  | .fspecSin _ _ _
  | .fspecCos _ _ _
  | .fspecTanh _ _ _
  | .narrowDot4e4 _ _ _ _
  | .narrowDot4e5 _ _ _ _
  | .narrowDot2b _ _ _ _
  | .narrowDot2h _ _ _ _ => rndFtz
  | .fcmpEq _ _ _ _ _
  | .fcmpNe _ _ _ _ _
  | .fcmpLt _ _ _ _ _
  | .fcmpLe _ _ _ _ _
  | .fcmpGt _ _ _ _ _
  | .fcmpGe _ _ _ _ _
  | .fcmpUn _ _ _ _ _
  | .fcmpOrd _ _ _ _ _ => ftzOnly
  | .cvt _ _ src tgt _ => (cvtAccept src tgt)
  | .narrowCbdecb _ _ _ _
  | .narrowCbdech _ _ _ _
  | .narrowCbdecf _ _ _ _
  | .narrowMxpk _ _ _
  | .narrowMxunpk _ _ _ _
  | .narrowUpke4 _ _ _
  | .narrowUpke5 _ _ _
  | .f64Add _ _ _ _
  | .f64Sub _ _ _ _
  | .f64Mul _ _ _ _
  | .f64Fma _ _ _ _
  | .f64Min _ _ _ _
  | .f64Max _ _ _ _
  | .f64Abs _ _ _
  | .f64Neg _ _ _ => rndOnly
  | .narrowPke4 _ _ _ _
  | .narrowPke5 _ _ _ _ => packAccept
  | .atomAdd _ _ _ _
  | .atomAnd _ _ _ _
  | .atomOr _ _ _ _
  | .atomXor _ _ _ _
  | .atomXchg _ _ _ _
  | .atomMins _ _ _ _
  | .atomMaxs _ _ _ _
  | .atomMinn _ _ _ _
  | .atomMaxn _ _ _ _
  | .atomAddf _ _ _ _
  | .atomCas _ _ _ _
  | .atomAdd64 _ _ _ _
  | .atomXchg64 _ _ _ _
  | .atomCas64 _ _ _ _
  | .atomfxAdd _ _ _
  | .atomfxFetch _ _ _ _ => memGuard
  | .guestDispatchRg _
  | .mmaAdd _ _ _ _ _
  | .mmaSet _ _ _ _ _
  | .mmaTri _ _ _ _ _
  | .mmaTriset _ _ _ _ _ => bare
  | _ => guardOnly

/-- The extension words of a lane instruction. -/
def Instr.lext : Instr → Option LExt
  | .lsysNop x => some x
  | .lsysLane _ x => some x
  | .lsysTid _ x => some x
  | .lsysGrp _ _ x => some x
  | .lsysClk _ x => some x
  | .lsysBrk x => some x
  | .ialuAdd _ _ _ x => some x
  | .ialuSub _ _ _ x => some x
  | .ialuAnd _ _ _ x => some x
  | .ialuOr _ _ _ x => some x
  | .ialuXor _ _ _ x => some x
  | .ialuAndn _ _ _ x => some x
  | .ialuShl _ _ _ x => some x
  | .ialuShr _ _ _ x => some x
  | .ialuSar _ _ _ x => some x
  | .ialuMins _ _ _ x => some x
  | .ialuMaxs _ _ _ x => some x
  | .ialuMinn _ _ _ x => some x
  | .ialuMaxn _ _ _ x => some x
  | .ialuAbs _ _ x => some x
  | .iaddi _ _ _ x => some x
  | .andi _ _ _ x => some x
  | .ori _ _ _ x => some x
  | .xori _ _ _ x => some x
  | .ishiShl _ _ _ x => some x
  | .ishiShr _ _ _ x => some x
  | .ishiSar _ _ _ x => some x
  | .ishiRol _ _ _ x => some x
  | .movi _ _ x => some x
  | .movhi _ _ x => some x
  | .imulLo _ _ _ x => some x
  | .imulHis _ _ _ x => some x
  | .imulHin _ _ _ x => some x
  | .imulWides _ _ _ x => some x
  | .imulWiden _ _ _ x => some x
  | .imulMad _ _ _ x => some x
  | .ibitPopc _ _ x => some x
  | .ibitClz _ _ x => some x
  | .ibitCtz _ _ x => some x
  | .ibitBrev _ _ x => some x
  | .ibitBfxs _ _ _ x => some x
  | .ibitBfxn _ _ _ x => some x
  | .ibitBfi _ _ _ x => some x
  | .icmpEq _ _ _ _ x => some x
  | .icmpNe _ _ _ _ x => some x
  | .icmpLts _ _ _ _ x => some x
  | .icmpLes _ _ _ _ x => some x
  | .icmpGts _ _ _ _ x => some x
  | .icmpGes _ _ _ _ x => some x
  | .icmpLtn _ _ _ _ x => some x
  | .icmpLen _ _ _ _ x => some x
  | .icmpGtn _ _ _ _ x => some x
  | .icmpGen _ _ _ _ x => some x
  | .plogAnd _ _ _ _ x => some x
  | .plogOr _ _ _ _ x => some x
  | .plogXor _ _ _ _ x => some x
  | .plogAndn _ _ _ _ x => some x
  | .plogOrn _ _ _ _ x => some x
  | .cmovNz _ _ _ x => some x
  | .cmovZ _ _ _ x => some x
  | .cmovRdp _ x => some x
  | .cmovWrp _ _ x => some x
  | .lanexShfl _ _ _ x => some x
  | .lanexShflx _ _ _ x => some x
  | .lanexShflup _ _ _ x => some x
  | .lanexShfldn _ _ _ x => some x
  | .lanexBallot _ _ x => some x
  | .lanexAny _ _ x => some x
  | .lanexAll _ _ x => some x
  | .lanexMatch _ _ x => some x
  | .lanexRedadd _ _ x => some x
  | .lanexRedmins _ _ x => some x
  | .lanexRedmaxs _ _ x => some x
  | .lanexRedand _ _ x => some x
  | .lanexRedor _ _ x => some x
  | .lanexRedxor _ _ x => some x
  | .lanexNpath _ x => some x
  | .faddAdd _ _ _ x => some x
  | .faddSub _ _ _ x => some x
  | .faddMin _ _ _ x => some x
  | .faddMax _ _ _ x => some x
  | .faddAdd2h _ _ _ x => some x
  | .faddSub2h _ _ _ x => some x
  | .faddAdd2b _ _ _ x => some x
  | .faddSub2b _ _ _ x => some x
  | .faddAbs _ _ x => some x
  | .faddNeg _ _ x => some x
  | .faddCsgn _ _ _ x => some x
  | .fmulMul _ _ _ x => some x
  | .fmulMul2h _ _ _ x => some x
  | .fmulMul2b _ _ _ x => some x
  | .ffmaFma _ _ _ x => some x
  | .ffmaFma2h _ _ _ x => some x
  | .ffmaFma2b _ _ _ x => some x
  | .ffmaFms _ _ _ x => some x
  | .ffmaFnma _ _ _ x => some x
  | .fcmpEq _ _ _ _ x => some x
  | .fcmpNe _ _ _ _ x => some x
  | .fcmpLt _ _ _ _ x => some x
  | .fcmpLe _ _ _ _ x => some x
  | .fcmpGt _ _ _ _ x => some x
  | .fcmpGe _ _ _ _ x => some x
  | .fcmpUn _ _ _ _ x => some x
  | .fcmpOrd _ _ _ _ x => some x
  | .fspecRcp _ _ x => some x
  | .fspecRsqrt _ _ x => some x
  | .fspecSqrt _ _ x => some x
  | .fspecExp2 _ _ x => some x
  | .fspecLog2 _ _ x => some x
  | .fspecSin _ _ x => some x
  | .fspecCos _ _ x => some x
  | .fspecTanh _ _ x => some x
  | .cvt _ _ _ _ x => some x
  | .narrowDot4s _ _ _ x => some x
  | .narrowDot4n _ _ _ x => some x
  | .narrowDot4e4 _ _ _ x => some x
  | .narrowDot4e5 _ _ _ x => some x
  | .narrowDot2b _ _ _ x => some x
  | .narrowDot2h _ _ _ x => some x
  | .narrowCbdecb _ _ _ x => some x
  | .narrowCbdech _ _ _ x => some x
  | .narrowCbdecf _ _ _ x => some x
  | .narrowPke4 _ _ _ x => some x
  | .narrowPke5 _ _ _ x => some x
  | .narrowMxpk _ _ x => some x
  | .narrowMxunpk _ _ _ x => some x
  | .narrowUpke4 _ _ x => some x
  | .narrowUpke5 _ _ x => some x
  | .f64Add _ _ _ x => some x
  | .f64Sub _ _ _ x => some x
  | .f64Mul _ _ _ x => some x
  | .f64Fma _ _ _ x => some x
  | .f64Min _ _ _ x => some x
  | .f64Max _ _ _ x => some x
  | .f64Abs _ _ x => some x
  | .f64Neg _ _ x => some x
  | .ld _ _ _ _ _ x => some x
  | .st _ _ _ _ _ x => some x
  | .ldl _ _ _ _ _ x => some x
  | .stl _ _ _ _ _ x => some x
  | .ldfe _ _ _ _ _ x => some x
  | .stfe _ _ _ _ _ x => some x
  | .atomAdd _ _ _ x => some x
  | .atomAnd _ _ _ x => some x
  | .atomOr _ _ _ x => some x
  | .atomXor _ _ _ x => some x
  | .atomXchg _ _ _ x => some x
  | .atomMins _ _ _ x => some x
  | .atomMaxs _ _ _ x => some x
  | .atomMinn _ _ _ x => some x
  | .atomMaxn _ _ _ x => some x
  | .atomAddf _ _ _ x => some x
  | .atomCas _ _ _ x => some x
  | .atomAdd64 _ _ _ x => some x
  | .atomXchg64 _ _ _ x => some x
  | .atomCas64 _ _ _ x => some x
  | .atomfxAdd _ _ x => some x
  | .atomfxFetch _ _ _ x => some x
  | .pref _ _ _ _ x => some x
  | .br _ _ _ x => some x
  | .brxJmp _ x => some x
  | .brxCall _ x => some x
  | .call _ _ _ x => some x
  | .ctlRet x => some x
  | .ctlExit x => some x
  | .ctlYield x => some x
  | .guestDispatch x => some x
  | .guestDispatchRg x => some x
  | .guestRdpc _ x => some x
  | .guestWrpc _ x => some x
  | .guestAddpc _ x => some x
  | .guestRdop _ x => some x
  | .guestWrop _ x => some x
  | .mmaAdd _ _ _ _ x => some x
  | .mmaSet _ _ _ _ x => some x
  | .mmaTri _ _ _ _ x => some x
  | .mmaTriset _ _ _ _ x => some x
  | .mfragRd _ _ _ x => some x
  | .mfragWr _ _ _ x => some x
  | .mfragZero _ x => some x
  | _ => none

/-- The extension words of a uniform instruction. -/
def Instr.uext : Instr → Option UExt
  | .usysNop x => some x
  | .usysSvc _ x => some x
  | .usysTlbiva _ _ x => some x
  | .usysTlbictx _ x => some x
  | .usysRti x => some x
  | .usysBrk x => some x
  | .ualuAdd _ _ _ x => some x
  | .ualuSub _ _ _ x => some x
  | .ualuAnd _ _ _ x => some x
  | .ualuOr _ _ _ x => some x
  | .ualuXor _ _ _ x => some x
  | .ualuShl _ _ _ x => some x
  | .ualuShr _ _ _ x => some x
  | .ualuSar _ _ _ x => some x
  | .ualuMul _ _ _ x => some x
  | .ualuMins _ _ _ x => some x
  | .ualuMaxs _ _ _ x => some x
  | .ualuMinn _ _ _ x => some x
  | .ualuMaxn _ _ _ x => some x
  | .uaddi _ _ _ x => some x
  | .umovi _ _ x => some x
  | .umovhi _ _ x => some x
  | .ucmpEq _ _ _ x => some x
  | .ucmpNe _ _ _ x => some x
  | .ucmpLts _ _ _ x => some x
  | .ucmpLes _ _ _ x => some x
  | .ucmpGts _ _ _ x => some x
  | .ucmpGes _ _ _ x => some x
  | .ucmpLtn _ _ _ x => some x
  | .ucmpLen _ _ _ x => some x
  | .ucmpGtn _ _ _ x => some x
  | .ucmpGen _ _ _ x => some x
  | .ucmpQand _ _ _ x => some x
  | .ucmpQor _ _ _ x => some x
  | .ucmpQxor _ _ _ x => some x
  | .ubr _ _ _ x => some x
  | .uld _ _ _ x => some x
  | .ust _ _ _ x => some x
  | .umovlFirst _ _ x => some x
  | .umovlLane _ _ _ x => some x
  | .barArrive _ _ _ x => some x
  | .barArriveCnt _ _ _ _ x => some x
  | .barWait _ _ _ x => some x
  | .barExpect _ _ _ x => some x
  | .barSync _ _ x => some x
  | .waitc _ _ _ _ x => some x
  | .cpyLin _ _ _ _ x => some x
  | .cpyRect _ _ _ _ x => some x
  | .cpyTens _ _ _ _ x => some x
  | .gatherIdx32 _ _ _ _ x => some x
  | .gatherIdx64 _ _ _ _ x => some x
  | .collAllred _ _ _ x => some x
  | .collRedsc _ _ _ x => some x
  | .collAllgat _ _ _ x => some x
  | .collBcast _ _ _ x => some x
  | .collSparse _ _ _ x => some x
  | .collAlltoall _ _ _ x => some x
  | .mdrainSt _ _ _ _ x => some x
  | .mdrainAdd _ _ _ _ x => some x
  | .gangList _ x => some x
  | .gangLease x => some x
  | .gangRelease x => some x
  | .gangBaton _ x => some x
  | .taskSpawn _ x => some x
  | .taskPhase _ x => some x
  | .taskMerge x => some x
  | .migL _ x => some x
  | .migD _ x => some x
  | .migAuto _ x => some x
  | .regaGrowWait _ x => some x
  | .regaGrowTry _ _ x => some x
  | .regaShrink _ x => some x
  | .sysr _ _ x => some x
  | .sysw _ _ x => some x
  | .fenceSysRel x => some x
  | .fenceSysAcq x => some x
  | .fenceSysFull x => some x
  | .handleAlloc _ _ _ x => some x
  | .handleRetire _ x => some x
  | .handleFill _ x => some x
  | .handleClear _ x => some x
  | .handleSumm _ _ x => some x
  | .handleShape _ _ x => some x
  | .bfqBind _ _ x => some x
  | .bfqJoin _ _ _ _ x => some x
  | .bfqUnbind _ x => some x
  | .perfRd _ _ x => some x
  | .perfSel _ _ x => some x
  | .perfMark _ x => some x
  | .perfSample _ x => some x
  | _ => none

/-- R176: whether a uniform instruction accepts an IMM word. -/
def Instr.acceptsUImm : Instr → Bool
  | .uaddi _ _ _ _ | .umovi _ _ _ | .umovhi _ _ _ | .uld _ _ _ _ | .ust _ _ _ _ => true
  | _ => false

/-- Table 22-1: a sub-field of the base word holds a value that is not assigned. -/
def Instr.unassigned : Instr → Bool
  | .lsysGrp _ sel _ => 5 ≤ sel.toNat
  | .ld _ _ size _ _ _ | .ldl _ _ size _ _ _ => size = 7
  | .st _ _ size _ _ _ | .stl _ _ size _ _ _ => 5 ≤ size.toNat
  | .ldfe _ _ size hs _ _ => size.toNat ≤ 1 || hs = 0
  | .stfe _ _ size hs _ _ => size.toNat ≤ 1 || 5 ≤ size.toNat || hs = 0
  | .pref _ size hs _ _ => 2 ≤ size.toNat || (size = 1 && hs = 3)
  | .cvt _ _ src tgt _ =>
      src = 15 || tgt = 15 || src = tgt || (src = 10 && isIntCode tgt) || (tgt = 10 && isIntCode src)
  | .mmaAdd _ _ _ shape _ | .mmaSet _ _ _ shape _ | .mmaTri _ _ _ shape _ | .mmaTriset _ _ _ shape _ => 10 ≤ shape.toNat
  | _ => false

/-- R174: a 5-bit lane predicate field names p0 to p23, or 31. -/
def predOk (p : BitVec 5) : Bool := p.toNat < 24 || p = 31

/-- Table 8-3: the slot lies within its level's range. -/
def slotOk (level : BitVec 2) (slot : BitVec 4) : Bool :=
  match level.toNat with
  | 0 => slot.toNat ≤ 1
  | 1 => true
  | 2 => slot.toNat ≤ 7
  | _ => slot.toNat ≤ 3

/-- Table 13-4: the listed system register numbers. -/
def sysregListed (n : BitVec 12) : Bool :=
  let k := n.toNat
  (0x010 ≤ k && k ≤ 0x013) || k == 0x020 || (0x030 ≤ k && k ≤ 0x032) || (0x034 ≤ k && k ≤ 0x037) ||
    (0x040 ≤ k && k ≤ 0x048) || k == 0x060 || k == 0x070 || k == 0x071 || k == 0x080 || (0x090 ≤ k && k ≤ 0x09F)

/-- R282, Table 22-3: a uniform register field that also names the register after it is even. -/
def evenS (s : BitVec 6) : Bool := s.toNat % 2 == 0

/-- R174, R395, R402: the conditions on predicate, slot, descriptor and system register fields. -/
def Instr.fieldsOk : Instr → Bool
  | .icmpEq pd _ _ _ _ => predOk pd
  | .icmpNe pd _ _ _ _ => predOk pd
  | .icmpLts pd _ _ _ _ => predOk pd
  | .icmpLes pd _ _ _ _ => predOk pd
  | .icmpGts pd _ _ _ _ => predOk pd
  | .icmpGes pd _ _ _ _ => predOk pd
  | .icmpLtn pd _ _ _ _ => predOk pd
  | .icmpLen pd _ _ _ _ => predOk pd
  | .icmpGtn pd _ _ _ _ => predOk pd
  | .icmpGen pd _ _ _ _ => predOk pd
  | .plogAnd pd _ a b _ => predOk pd && predOk a && predOk b
  | .plogOr pd _ a b _ => predOk pd && predOk a && predOk b
  | .plogXor pd _ a b _ => predOk pd && predOk a && predOk b
  | .plogAndn pd _ a b _ => predOk pd && predOk a && predOk b
  | .plogOrn pd _ a b _ => predOk pd && predOk a && predOk b
  | .lanexBallot _ p _ => predOk p
  | .lanexAny _ p _ => predOk p
  | .lanexAll _ p _ => predOk p
  | .fcmpEq pd _ _ _ _ => predOk pd
  | .fcmpNe pd _ _ _ _ => predOk pd
  | .fcmpLt pd _ _ _ _ => predOk pd
  | .fcmpLe pd _ _ _ _ => predOk pd
  | .fcmpGt pd _ _ _ _ => predOk pd
  | .fcmpGe pd _ _ _ _ => predOk pd
  | .fcmpUn pd _ _ _ _ => predOk pd
  | .fcmpOrd pd _ _ _ _ => predOk pd
  | .br p _ _ _ => predOk p
  | .call p _ _ _ => predOk p
  | .barArrive _ slot level _ => slotOk level slot
  | .barArriveCnt _ _ slot level _ => slotOk level slot
  | .barWait _ slot level _ => slotOk level slot
  | .barExpect _ slot level _ => slotOk level slot
  | .barSync slot level _ => slotOk level slot
  | .cpyLin desc _ slot level _ => slotOk level slot && evenS desc
  | .cpyRect desc addr slot level _ => slotOk level slot && evenS desc && evenS addr
  | .cpyTens desc _ slot level _ => slotOk level slot && evenS desc
  | .gatherIdx32 desc addr slot level _ => slotOk level slot && evenS desc && evenS addr
  | .gatherIdx64 desc addr slot level _ => slotOk level slot && evenS desc && evenS addr
  | .collAllred _ slot level _ => slotOk level slot
  | .collRedsc _ slot level _ => slotOk level slot
  | .collAllgat _ slot level _ => slotOk level slot
  | .collBcast _ slot level _ => slotOk level slot
  | .collSparse _ slot level _ => slotOk level slot
  | .collAlltoall _ slot level _ => slotOk level slot
  | .mdrainSt desc _ slot level _ => slotOk level slot && evenS desc
  | .mdrainAdd desc _ slot level _ => slotOk level slot && evenS desc
  | .sysr _ num _ => sysregListed num
  | .sysw _ num _ => sysregListed num
  | .bfqJoin desc _ slot level _ => slotOk level slot && (level = 1 || level = 2) && evenS desc
  | _ => true

/-- R393: the first rule of Table 22-2 that a lane instruction's accepted words break, as a cause. -/
def Accept.cause (c : Accept) (x : LExt) : Option Nat :=
  if (x.imm.isSome && !c.imm) || (x.mem.isSome && !c.mem) || (x.mod.isSome && !c.mod) then some 0x01
  else if (match x.mod with
      | none => false
      | some m => 5 ≤ m.rnd.toNat || (1 ≤ m.rnd.toNat && m.rnd.toNat ≤ 3 && !c.rnd) || (m.rnd = 4 && !c.sr) ||
          (m.sat && !c.sat) || (m.ftz && !c.ftz) || (m.aux ≠ 0 && m.rnd ≠ 4)) ||
      (match x.mem with
      | none => false
      | some m => !m.local' && m.space ≠ 0) then some 0x02
  else if (match x.mod with
      | none => false
      | some m => !predOk m.p) then some 0x05
  else none

/-- R389, R343: the lowest cause among the static conditions that an instruction's fields break, if any. -/
def Instr.staticCause (i : Instr) : Option Nat :=
  let ext : Option Nat := match i.lext, i.uext with
    | some x, _ => i.accept.cause x
    | _, some x => if x.imm.isSome && !i.acceptsUImm then some 0x01 else none
    | _, _ => none
  if i.unassigned || ext = some 0x01 then some 0x01
  else if ext = some 0x02 then some 0x02
  else if ext = some 0x05 || !i.uses.all LaneUse.ok || !i.fieldsOk then some 0x05
  else none

end Sys2Proof
end

