-- ==== Sys2Proof/Machine/Ops.lean ====
section
/-! DEFINITION. The named operations over the state: sparse tables and memories, little-endian numbers, finding and
changing blocks, groups, lanes, cores, partitions and contexts, event records, and taking a trap (R341 to R345). -/

namespace Sys2Proof.Machine

open Sys2Proof

/-- What a step answers. -/
abbrev Out := Host.Outcome State Fault Refusal

/-! ### Sparse tables -/

/-- The value listed at a key. -/
def cfind {α : Type} : Cells α → Nat → Option α
  | [], _ => none
  | (k, v) :: c, j => if j = k then some v else cfind c j

/-- The table with `v` listed at a key. -/
def cset {α : Type} : Cells α → Nat → α → Cells α
  | [], j, v => [(j, v)]
  | (k, u) :: c, j, v =>
    if j < k then (j, v) :: (k, u) :: c else if j = k then (j, v) :: c else (k, u) :: cset c j v

/-- The table with nothing listed at a key. -/
def cdel {α : Type} : Cells α → Nat → Cells α
  | [], _ => []
  | (k, u) :: c, j => if j = k then cdel c j else (k, u) :: cdel c j

/-- Reads a table whose unlisted keys read `d`. -/
def cget {α : Type} (d : α) (c : Cells α) (k : Nat) : α := (cfind c k).getD d

/-- Writes a table whose unlisted keys read `d`, keeping it canonical. -/
def cput {α : Type} [DecidableEq α] (d : α) (c : Cells α) (k : Nat) (v : α) : Cells α :=
  if v = d then cdel c k else cset c k v

/-- Keys strictly rise. -/
def csorted {α : Type} : Cells α → Bool
  | [] => true
  | [_] => true
  | (j, _) :: (k, v) :: c => decide (j < k) && csorted ((k, v) :: c)

/-- The canonical form of a table: keys strictly rise, and no entry equals what an unlisted key reads as. -/
def cwf {α : Type} [DecidableEq α] (d : α) (c : Cells α) : Bool := csorted c && c.all fun p => p.2 ≠ d

/-- The canonical form of a byte memory, whose unlisted addresses read 0 (R119 to R122; DRAM by log entry 2). -/
def Memory.wf (m : Cells Byte) : Bool := cwf (0 : Byte) m

/-- A byte of a memory. -/
def mget (m : Cells Byte) (a : Nat) : Byte := cget 0 m a

/-- A memory with one byte written. -/
def mput (m : Cells Byte) (a : Nat) (v : Byte) : Cells Byte := cput 0 m a v

/-- The `n` bytes of a memory from an address on. -/
def mgets (m : Cells Byte) (a n : Nat) : List Byte := (List.range n).map fun k => mget m (a + k)

/-- A memory with a list of bytes written from an address on. -/
def mputs (m : Cells Byte) (a : Nat) : List Byte → Cells Byte
  | [] => m
  | b :: bs => mputs (mput m a b) (a + 1) bs

/-- A sorted set of numbers with one more. -/
def sinsert : List Nat → Nat → List Nat
  | [], j => [j]
  | k :: ks, j => if j < k then j :: k :: ks else if j = k then k :: ks else k :: sinsert ks j

/-- A set of numbers without one. -/
def sremove (s : List Nat) (j : Nat) : List Nat := s.filter fun k => k ≠ j

/-! ### Numbers and bytes -/

/-- R4: the number that a list of bytes holds, little-endian. -/
def leNat : List Byte → Nat
  | [] => 0
  | b :: bs => b.toNat + 256 * leNat bs

/-- R4: the low `n` bytes of a number, little-endian. -/
def leBytes : Nat → Nat → List Byte
  | 0, _ => []
  | n + 1, x => BitVec.ofNat 8 x :: leBytes n (x / 256)

/-- R189, SEXT: the low `n` bits of a number read as two's complement. -/
def sext (x n : Nat) : Int := if x % 2 ^ n < 2 ^ (n - 1) then (x % 2 ^ n : Nat) else (x % 2 ^ n : Nat) - (2 ^ n : Nat)

/-- R9: the low bits of an integer in a word. -/
def toW (x : Int) : Word := BitVec.ofInt 32 x

/-- R9: the low bits of an integer in a double word. -/
def toD (x : Int) : DWord := BitVec.ofInt 64 x

/-- R189, FIELD: bits `lo` to `lo + n - 1` of a number. -/
def bits (x lo n : Nat) : Nat := x / 2 ^ lo % 2 ^ n

/-- The numbers of the bits set in a mask of 32. -/
def maskLanes (m : BitVec 32) : List Nat := (List.range 32).filter fun i => m.getLsbD i

/-- The mask with the bits of a list of lanes set. -/
def lanesMask (ls : List Nat) : BitVec 32 := ls.foldl (fun m i => m ||| BitVec.ofNat 32 (2 ^ i)) 0

/-- The number rounded up to a multiple. -/
def roundUp (x m : Nat) : Nat := (x + m - 1) / m * m

/-! ### Parts of the state -/

def blockOf (s : State) (id : Nat) : Option Block := s.blocks.find? fun b => b.id = id

/-- The state with one block changed. -/
def modBlock (s : State) (id : Nat) (f : Block → Block) : State :=
  { s with blocks := s.blocks.map fun b => if b.id = id then f b else b }

/-- The block with one group changed. -/
def Block.modGroup (b : Block) (g : Nat) (f : Group → Group) : Block := { b with groups := b.groups.modify g f }

/-- The state with one group changed. -/
def modGroup (s : State) (id g : Nat) (f : Group → Group) : State := modBlock s id fun b => b.modGroup g f

/-- The group with one lane changed. -/
def Group.modLane (g : Group) (i : Nat) (f : Lane → Lane) : Group := { g with lanes := g.lanes.modify i f }

/-- The state with one lane changed. -/
def modLane (s : State) (id g i : Nat) (f : Lane → Lane) : State := modGroup s id g fun gr => gr.modLane i f

/-- A lane of a group. -/
def Group.lane (g : Group) (i : Nat) : Lane := (g.lanes[i]?).getD {}

/-- A group of a block. -/
def Block.group (b : Block) (g : Nat) : Option Group := b.groups[g]?

def groupOf (s : State) (id g : Nat) : Option Group := (blockOf s id).bind fun b => b.group g

/-- R25: the group's live lanes. -/
def Group.live (g : Group) : List Nat := (List.range 32).filter fun i => (g.lane i).live

/-- R25: a group ends when it has no live lane. -/
def Group.ended (g : Group) : Bool := g.live.isEmpty

/-- The block's groups that have not ended, by number. -/
def Block.liveGroups (b : Block) : List Nat :=
  (List.range b.groups.length).filter fun k => !((b.groups[k]?).map Group.ended).getD true

def coreOf (s : State) (n : Nat) : Core := (cfind s.cores n).getD {}

/-- The state with one core changed. -/
def modCore (s : State) (n : Nat) (f : Core → Core) : State := { s with cores := cset s.cores n (f (coreOf s n)) }

def partOf (s : State) (p : Nat) : Part := (cfind s.parts p).getD {}

/-- The state with one partition changed; a partition without a descriptor stays none. -/
def modPart (s : State) (p : Nat) (f : Part → Part) : State :=
  match cfind s.parts p with
  | some q => { s with parts := cset s.parts p (f q) }
  | none => s

def ctxOf (s : State) (p c : Nat) : Ctx := (cfind (partOf s p).ctxs c).getD {}

/-- The state with one tenant context changed; a context that does not exist stays none. -/
def modCtx (s : State) (p c : Nat) (f : Ctx → Ctx) : State :=
  modPart s p fun q => match cfind q.ctxs c with
    | some x => { q with ctxs := cset q.ctxs c (f x) }
    | none => q

def clusterOf (s : State) (id : Nat) : Option Cluster := s.clusters.find? fun c => c.id = id

/-- The state with one cluster changed. -/
def modCluster (s : State) (id : Nat) (f : Cluster → Cluster) : State :=
  { s with clusters := s.clusters.map fun c => if c.id = id then f c else c }

def gridOf (s : State) (id : Nat) : Option Grid := s.grids.find? fun g => g.id = id

/-- The state with one grid changed. -/
def modGrid (s : State) (id : Nat) (f : Grid → Grid) : State :=
  { s with grids := s.grids.map fun g => if g.id = id then f g else g }

def versionOf (s : State) (id : Nat) : Option Version := s.versions.find? fun v => v.id = id

/-- The kernel a block runs. -/
def kernelOf (s : State) (b : Block) : Option Kernel := (versionOf s b.ver).bind fun v => v.kernels[b.kern]?

/-- The body of a kernel for a class. -/
def Kernel.body (k : Kernel) (lbody : Bool) : Option Body := if lbody then k.lbody else k.dbody

/-- The body a block runs, with the version that holds it. -/
def bodyOf (s : State) (b : Block) : Option (Version × Body) :=
  (versionOf s b.ver).bind fun v => (v.kernels[b.kern]?).bind fun k => (k.body b.lbody).map fun d => (v, d)

/-- R189, BODY: the start address of the running body. -/
def bodyStart (s : State) (b : Block) : DWord :=
  match bodyOf s b with
  | some (v, d) => v.imgva + BitVec.ofNat 64 d.off
  | none => 0

/-- The lanes of a group that are selected by a mask, with each changed. -/
def Group.modLanes (g : Group) (ls : List Nat) (f : Nat → Lane → Lane) : Group :=
  { g with lanes := g.lanes.mapIdx fun i l => if ls.contains i then f i l else l }

/-- Every lane of every group of every block, changed. -/
def mapLanes (s : State) (f : Nat → Nat → Nat → Lane → Lane) : State :=
  { s with blocks := s.blocks.map fun b => { b with groups := b.groups.mapIdx fun g gr =>
      { gr with lanes := gr.lanes.mapIdx fun i l => f b.id g i l } } }

/-- Lets lanes of a block that hold for a reason execute their instruction again. -/
def wakeRetry (s : State) (p : Nat → Bool) (why : Retry) : State :=
  mapLanes s fun b _ _ l => if p b && l.hold = .retry why then { l with hold := .none } else l

/-! ### Die scratchpad windows -/

/-- R122: the package address of an offset of a partition's program space on a die, or none outside it. -/
def dspAddr (d : Desc) (a n : Nat) : Option Nat :=
  let die := bits a 25 2
  let off := a % 2 ^ 25
  let (base, size) := d.dspw[die]?.getD (0, 0)
  let low := d.dspr[die]?.getD 0
  if a < 2 ^ 27 && off + n ≤ (size - low) * 2 ^ 20 then some (die * 2 ^ 25 + (base + low) * 2 ^ 20 + off) else none

/-! ### Events -/

/-- R340, Table 18-5: PTIME: nanoseconds in bits 63:4, sixteenths in bits 3:0. -/
def ptimeOf (s : State) : DWord := BitVec.ofNat 64 (s.ptime / 30000)

/-- Table 24-1: the bytes of an event record. -/
def EventRec.bytes (e : EventRec) : List Byte :=
  leBytes 4 e.seq ++ leBytes 2 e.code ++ leBytes 1 e.part ++ leBytes 1 e.ctx ++ leBytes 8 e.time.toNat ++
    leBytes 2 e.unit ++ leBytes 1 e.ukind ++ [0] ++ leBytes 4 e.count ++ leBytes 8 e.info.toNat

/-- R407: adds a record to a partition's log of 256 and writes it to the operator's event address when that is set. -/
def logTo (s : State) (p code ctx unit ukind count : Nat) (info : DWord) (asPart : Nat) : State :=
  let q := partOf s p
  let e : EventRec :=
    { seq := q.seq % 2 ^ 32, code := code, part := asPart, ctx := ctx, time := ptimeOf s, unit := unit, ukind := ukind,
      count := count, info := info }
  let s := modPart s p fun q => { q with seq := q.seq + 1, log := (q.log ++ [e]).drop (q.log.length + 1 - 256) }
  if s.mgmt.evaddr = 0 then s else { s with outward := s.outward ++ [(s.mgmt.evaddr, e.bytes)] }

/-- R407: a record of a partition's own unit or context. -/
def logPart (s : State) (p code ctx unit ukind count : Nat) (info : DWord) : State :=
  logTo s p code ctx unit ukind count info p

/-- R407: a record about a shared unit goes to every partition's log, with PART = 0xFF. -/
def logAll (s : State) (code unit ukind count : Nat) (info : DWord) : State :=
  (s.parts.map Prod.fst).foldl (fun s p => logTo s p code 0xFF unit ukind count info 0xFF) s

/-- R407: a record of a unit: a shared unit's (a port, a CXL port, a die) goes to every log, another's to its owner's. -/
def logUnit (s : State) (p code ctx unit ukind count : Nat) (info : DWord) : State :=
  if 5 ≤ ukind then logAll s code unit ukind count info else logPart s p code ctx unit ukind count info

/-! ### Taking a trap -/

/-- A trap as an instruction raises it: cause, TRAP_ADDR and TRAP_INFO (Table 19-1). -/
structure Trap where
  cause : Nat
  addr : DWord := 0
  info : DWord := 0
  deriving DecidableEq, Repr

/-- The other body's address of the entry at which a block started, or of a marked EQP (R72). -/
def markOffset (v : Version) (k : Kernel) (b : Block) (g : Group) : Nat :=
  match g.leqp with
  | some id => match k.eqps.find? fun e => e.id = id with
    | some e => if b.lbody then e.doff else e.loff
    | none => 0
  | none => match v.entries[b.entry]? with
    | some e => ((if b.lbody then e.doff else e.loff).getD 0)
    | none => 0

/-- R72, R345: TRAP_XPC and XK of a native PC. -/
def xpcOf (s : State) (b : Block) (g : Group) (npc : DWord) : DWord × Nat :=
  match versionOf s b.ver, kernelOf s b with
  | some v, some k =>
    match k.body b.lbody, k.body (!b.lbody) with
    | some mine, some other =>
      let off := (npc - (v.imgva + BitVec.ofNat 64 mine.off)).toNat
      let base := v.imgva + BitVec.ofNat 64 other.off
      match k.pcmap.find? fun p => (if b.lbody then p.2 else p.1) = off with
      | some p => (base + BitVec.ofNat 64 (if b.lbody then p.1 else p.2), 1)
      | none => (base + BitVec.ofNat 64 (markOffset v k b g), if g.leqp.isSome then 2 else 3)
    | _, _ => (npc, 0)
  | _, _ => (npc, 0)

/-- R344, Tables 19-3 and 19-4: the record of a trap that names lane `i` of a group. -/
def mkRec (s : State) (b : Block) (gi : Nat) (g : Group) (src i : Nat) (t : Trap) (rg : Bool) : TrapRec :=
  let l := g.lane i
  let x := xpcOf s b g l.npc
  { cause := t.cause, src := src, lane := i, grp := gi, tid := l.tid, npc := l.npc, xpc := x.1, xk := x.2, gpc := l.gpc,
    gop := l.gop, addr := t.addr, info := t.info, rg := rg, core := b.core, lbody := b.lbody,
    block := b.cnum * ((kernelOf s b).map Kernel.clblk).getD 1 + b.bnum, launch := b.launch }

/-- R376, R72: the record of a command's fault: TRAP_NPC is the command's address, with TRAP_XPC and XK of that address; where the block has
migrated since, that address lies in the other body, and the marked EQP of that body is named. DESIGN CHOICE, log 147. -/
def cmdRec (s : State) (b : Block) (gi : Nat) (g : Group) (npc : DWord) (cmd : Option Nat) (t : Trap) : TrapRec :=
  let x := xpcOf s b g npc
  { mkRec s b gi g 1 (g.live.headD 0) t false with npc := npc, xpc := x.1, xk := x.2, cmd := cmd }

/-! ### Core store -/

/-- Cells of 256 bytes in a unit of 32 KiB. -/
def unitCells : Nat := 128

/-- R115: the range of cells, from and to, that a kind has under a split. -/
def kindRange (scratch : Bool) (sp : Nat × Nat) : Nat × Nat :=
  if scratch then (sp.1 * unitCells, (sp.1 + sp.2) * unitCells) else (0, sp.1 * unitCells)

/-- An allocation is of core scratch. -/
def Alloc.isScratch (a : Alloc) : Bool := a.grp = 32

/-- R115, item 3: a pending split becomes current when every allocation lies in its kind's range under it. -/
def commitSplit (c : Core) : Core :=
  match c.pendingSplit with
  | some q =>
    if c.allocs.all fun a => (kindRange a.isScratch q).1 ≤ a.start && a.start + a.len ≤ (kindRange a.isScratch q).2 then
      { c with split := some q, pendingSplit := none }
    else c
  | none => c

/-! ### Stops -/

/-- R341: a group stops, with the records added to those of the stop it is in; at most 32 are kept (R375), but the report of a command's
fault is never lost. Once the image is written, records wait for the next stop. -/
def Group.addRecs (g : Group) (recs : List TrapRec) : Group :=
  { g with stop := some (match g.stop with
      | some st =>
        if st.slot.isSome then { st with more := st.more ++ recs }
        else
          { st with
            recs := (st.recs ++ recs).take 32
            more := st.more ++ ((st.recs ++ recs).drop 32).filter fun r => r.cmd.isSome }
      | none => { recs := recs.take 32, more := (recs.drop 32).filter fun r => r.cmd.isSome }) }

/-- R341: the group stops, with the records added. -/
def stopWith (s : State) (bid gi : Nat) (recs : List TrapRec) : State :=
  if recs.isEmpty then s else modGroup s bid gi fun g => g.addRecs recs

/-- R341, R342: TAKING A TRAP in lanes: each lane named gets a record, with the state as it stands (the lane's native PC
is its resume point), and the group stops. -/
def trapLanes (s : State) (bid gi : Nat) (rg : Bool) (ts : List (Nat × Trap)) : State :=
  match blockOf s bid with
  | none => s
  | some b => match b.group gi with
    | none => s
    | some g => stopWith s bid gi (ts.map fun p => mkRec s b gi g 0 p.1 p.2 rg)

/-- R341, R342, R344: TAKING A TRAP for a group: one record that names lane `i`. -/
def trapGroup (s : State) (bid gi i : Nat) (t : Trap) : State :=
  match blockOf s bid with
  | none => s
  | some b => match b.group gi with
    | none => s
    | some g => stopWith s bid gi [mkRec s b gi g 1 i t false]

/-- R346: a notice, which names no group, waits for a handler of the context's supervisor graph. It is queued as a
record by the caller; this is its trap record. -/
def noticeRec (cause : Nat) (addr info : DWord) : TrapRec := { cause := cause, src := 2, addr := addr, info := info }

/-- R345, R376: the notice of a command's fault: TRAP_NPC is the command instruction's address, and so is TRAP_XPC, since XK reads 0.
DESIGN CHOICE, log 147. -/
def commandNotice (t : Trap) (pc : DWord) (cmd : Option Nat) : TrapRec :=
  { noticeRec t.cause t.addr t.info with npc := pc, xpc := pc, cmd := cmd }

end Sys2Proof.Machine
end

