-- ==== Sys2Proof/Machine/Formats.lean ====
section
/-! DEFINITION. Number formats, rounding and exact arithmetic (R146 to R161, R163 to R165): finite values are exact
dyadic numbers, and each result is rounded once from the exact value. -/

namespace Sys2Proof.Machine

open Sys2Proof

/-- A floating format (Table 7-2): exponent bits, fraction bits, bias; `ofp` marks e4m3, which has no infinity. -/
structure Fl where
  e : Nat
  m : Nat
  bias : Nat
  ofp : Bool := false
  deriving DecidableEq, Repr

def f32 : Fl := ⟨8, 23, 127, false⟩
def f16 : Fl := ⟨5, 10, 15, false⟩
def bf16 : Fl := ⟨8, 7, 127, false⟩
def f64 : Fl := ⟨11, 52, 1023, false⟩
def e4m3 : Fl := ⟨4, 3, 7, true⟩
def e5m2 : Fl := ⟨5, 2, 15, false⟩

/-- A value: NaN, an infinity, or the exact number (−1)^neg · num · 2^exp. -/
inductive Val where
  | nan
  | inf (neg : Bool)
  | fin (neg : Bool) (num : Nat) (exp : Int)
  deriving DecidableEq, Repr

/-- Table 7-3 and R155: a rounding mode by its code, with the low 16 bits of the random operand when the code is 4. -/
structure RMode where
  code : Nat := 0
  r : Nat := 0
  deriving DecidableEq, Repr

def rne : RMode := {}

/-- The bit of a code that holds the sign. -/
def Fl.signBit (f : Fl) : Nat := 2 ^ (f.e + f.m)

/-- The exponent of the smallest normal number. -/
def Fl.emin (f : Fl) : Int := 1 - (f.bias : Int)

/-- Table 7-2: the canonical NaN. -/
def Fl.nan (f : Fl) : Nat := if f.ofp then 0x7F else (2 ^ f.e - 1) * 2 ^ f.m + 2 ^ (f.m - 1)

/-- The code of the largest finite magnitude. -/
def Fl.maxCode (f : Fl) : Nat := if f.ofp then 0x7E else (2 ^ f.e - 1) * 2 ^ f.m - 1

/-- The code of +∞. -/
def Fl.infCode (f : Fl) : Nat := (2 ^ f.e - 1) * 2 ^ f.m

/-- R151, R157: the value of a code; with `ftz` a subnormal reads as the zero of its sign. -/
def Fl.decode (f : Fl) (ftz : Bool) (code : Nat) : Val :=
  let neg := code / f.signBit % 2 == 1
  let e := code / 2 ^ f.m % 2 ^ f.e
  let fr := code % 2 ^ f.m
  if e = 2 ^ f.e - 1 && f.ofp && fr = 2 ^ f.m - 1 then .nan
  else if e = 2 ^ f.e - 1 && !f.ofp then (if fr = 0 then .inf neg else .nan)
  else if e = 0 then .fin neg (if ftz then 0 else fr) (f.emin - f.m)
  else .fin neg (2 ^ f.m + fr) ((e : Int) - f.bias - f.m)

/-- A code with its sign. -/
def Fl.signed (f : Fl) (neg : Bool) (code : Nat) : Nat := if neg then f.signBit + code else code

/-- R156: the result of a finite value whose rounded magnitude exceeds the largest finite one. -/
def Fl.overflow (f : Fl) (rm : RMode) (sat neg : Bool) : Nat :=
  if sat then f.signed neg f.maxCode
  else if f.ofp then f.nan
  else
    let toInf := match rm.code with
      | 1 => false
      | 2 => !neg
      | 3 => neg
      | _ => true
    f.signed neg (if toInf then f.infCode else f.maxCode)

/-- R154 step 3 and R155: whether the magnitude goes to the higher neighbour, from the part `rem/den` of a grid step that
lies above the lower one. -/
def roundsUp (rm : RMode) (neg : Bool) (lo rem den : Nat) : Bool :=
  if rem = 0 then false
  else match rm.code with
    | 1 => false
    | 2 => !neg
    | 3 => neg
    | 4 => decide (rm.r < rem * 65536 / den)
    | _ => decide (den < 2 * rem) || (2 * rem == den && lo % 2 == 1)

/-- The number of binary places of the quotient of two positive numbers: floor(log2(num / den)). -/
def log2Ratio (num den : Nat) : Int :=
  let l : Int := (Nat.log2 num : Int) - (Nat.log2 den : Int)
  let fits := if l < 0 then decide (den ≤ num * 2 ^ l.natAbs) else decide (den * 2 ^ l.natAbs ≤ num)
  if fits then l else l - 1

/-- R154 to R157: ROUND of the exact magnitude num/den · 2^exp with its sign, to a code of the format. -/
def Fl.roundQ (f : Fl) (rm : RMode) (ftz sat neg : Bool) (num den : Nat) (exp : Int) : Nat :=
  if num = 0 then f.signed neg 0
  else
    let big := log2Ratio num den + exp
    let u := (max big f.emin) - f.m
    let n := num * 2 ^ (exp - u).toNat
    let d := den * 2 ^ (u - exp).toNat
    let lo := n / d
    let r := if roundsUp rm neg lo (n % d) d then lo + 1 else lo
    -- the code is the exponent field times 2^m plus the significand less its leading one; a carry steps the exponent
    let code := if r < 2 ^ f.m then r else ((u + f.m + f.bias).toNat - 1) * 2 ^ f.m + r
    if f.maxCode < code then f.overflow rm sat neg
    else if ftz && code < 2 ^ f.m then f.signed neg 0
    else f.signed neg code

/-- ROUND of a value. -/
def Fl.round (f : Fl) (rm : RMode) (ftz sat : Bool) : Val → Nat
  | .nan => f.nan
  | .inf neg => if sat then f.signed neg f.maxCode else if f.ofp then f.nan else f.signed neg f.infCode
  | .fin neg num exp => f.roundQ rm ftz sat neg num 1 exp

/-! ### Exact arithmetic -/

def Val.isNan : Val → Bool
  | .nan => true
  | _ => false

/-- The signed integer of a finite value at an exponent not above its own. -/
def scaled (neg : Bool) (num : Nat) (exp e : Int) : Int :=
  let n : Int := ((num * 2 ^ (exp - e).toNat : Nat) : Int)
  if neg then -n else n

def Val.neg : Val → Val
  | .nan => .nan
  | .inf s => .inf (!s)
  | .fin s n e => .fin (!s) n e

/-- R154, R236: the exact sum; `down` says that an exact zero of a cancellation is negative (mode RD). -/
def Val.add (down : Bool) : Val → Val → Val
  | .nan, _ => .nan
  | _, .nan => .nan
  | .inf s, .inf t => if s = t then .inf s else .nan
  | .inf s, _ => .inf s
  | _, .inf t => .inf t
  | .fin s n e, .fin t m g =>
    if n = 0 && m = 0 then .fin (if s = t then s else down) 0 (min e g)
    else
      let x := scaled s n e (min e g) + scaled t m g (min e g)
      if x = 0 then .fin down 0 (min e g) else .fin (decide (x < 0)) x.natAbs (min e g)

/-- The exact product; 0 · ∞ is a NaN. -/
def Val.mul : Val → Val → Val
  | .nan, _ => .nan
  | _, .nan => .nan
  | .inf s, .inf t => .inf (s != t)
  | .inf s, .fin t n _ => if n = 0 then .nan else .inf (s != t)
  | .fin s n _, .inf t => if n = 0 then .nan else .inf (s != t)
  | .fin s n e, .fin t m g => .fin (s != t) (n * m) (e + g)

/-- An integer that orders values other than NaN at a common scale: infinities beyond every finite value. -/
def Val.cmpKeys : Val → Val → Int × Int
  | .inf s, .inf t => (if s then -1 else 1, if t then -1 else 1)
  | .inf s, _ => (if s then -1 else 1, 0)
  | _, .inf t => (0, if t then -1 else 1)
  | .fin s n e, .fin t m g => (scaled s n e (min e g), scaled t m g (min e g))
  | _, _ => (0, 0)

/-- x < y for values that are not NaN. -/
def Val.lt (x y : Val) : Bool := decide ((x.cmpKeys y).1 < (x.cmpKeys y).2)

/-- x = y for values that are not NaN; −0 equals +0. -/
def Val.eqv (x y : Val) : Bool := decide ((x.cmpKeys y).1 = (x.cmpKeys y).2)

/-- The sign of a value, a zero's too. -/
def Val.sign : Val → Bool
  | .nan => false
  | .inf s => s
  | .fin s _ _ => s

/-- x < y with −0 < +0. -/
def Val.ltz (x y : Val) : Bool := x.lt y || (x.eqv y && x.sign && !y.sign)

/-- R238: min (or max) of two codes: one operand's code, after flushing, or the canonical NaN. -/
def Fl.minmax (f : Fl) (ftz wantMax : Bool) (x y : Nat) : Nat :=
  let u := f.decode ftz x
  let v := f.decode ftz y
  if u.isNan || v.isNan then f.nan
  else f.round rne false false (if v.ltz u != wantMax then v else u)

/-! ### Integers and fixed point -/

/-- R154 step 3 for integers: a finite magnitude num/den rounded to an integer, with its sign. -/
def roundInt (rm : RMode) (neg : Bool) (num den : Nat) : Int :=
  let lo := num / den
  let r := if roundsUp rm neg lo (num % den) den then lo + 1 else lo
  if neg then -(r : Int) else r

/-- R148: conversion of a value to an integer of a range. -/
def Val.toInt (rm : RMode) (lo hi : Int) : Val → Int
  | .nan => 0
  | .inf neg => if neg then lo else hi
  | .fin neg num exp => max lo (min hi (roundInt rm neg (num * 2 ^ exp.toNat) (2 ^ (-exp).toNat)))

/-- R150: conversion of a value to fx128, an integer multiple of 2^−64. -/
def Val.toFx (v : Val) : Int :=
  match v with
  | .fin neg num exp => (Val.fin neg num (exp + 64)).toInt rne (-(2 ^ 127 : Nat)) ((2 ^ 127 : Nat) - 1)
  | w => w.toInt rne (-(2 ^ 127 : Nat)) ((2 ^ 127 : Nat) - 1)

/-- The value of an integer scaled by a power of two; zero is +0. -/
def Val.ofInt (x : Int) (exp : Int) : Val := .fin (decide (x < 0)) x.natAbs exp

/-- An integer format of Table 7-1: signed or not, and bits. -/
structure IntFmt where
  signed : Bool
  bits : Nat
  deriving DecidableEq, Repr

def IntFmt.min (f : IntFmt) : Int := if f.signed then -(2 ^ (f.bits - 1) : Nat) else 0
def IntFmt.max (f : IntFmt) : Int := if f.signed then (2 ^ (f.bits - 1) : Nat) - 1 else (2 ^ f.bits : Nat) - 1

/-- R189, SAT: clamped when `sat`, otherwise as it is (its low bits are kept by the assignment that follows). -/
def IntFmt.clamp (f : IntFmt) (sat : Bool) (x : Int) : Int := if sat then Max.max f.min (Min.min f.max x) else x

def s32 : IntFmt := ⟨true, 32⟩
def n32 : IntFmt := ⟨false, 32⟩

/-- Table 8-9: the floating format of a format code 0 to 5. -/
def flOfCode (c : Nat) : Fl :=
  match c with
  | 0 => f32
  | 1 => f16
  | 2 => bf16
  | 3 => f64
  | 4 => e4m3
  | _ => e5m2

/-- Table 8-9: the integer format of a format code 6 to 9 and 11 to 14. -/
def intOfCode (c : Nat) : IntFmt :=
  match c with
  | 6 => ⟨true, 32⟩
  | 7 => ⟨false, 32⟩
  | 8 => ⟨true, 64⟩
  | 9 => ⟨false, 64⟩
  | 11 => ⟨true, 16⟩
  | 12 => ⟨false, 16⟩
  | 13 => ⟨true, 8⟩
  | _ => ⟨false, 8⟩

/-- The value of a code of an integer format. -/
def IntFmt.value (f : IntFmt) (x : Nat) : Int := if f.signed then sext x f.bits else (x % 2 ^ f.bits : Nat)

/-- R245, Table 11-3: `cvt`: the code of the target that the source's code becomes, before it is written (R246). A source
or target code of 10 is fx128. -/
def convert (rm : RMode) (ftz sat : Bool) (src tgt x : Nat) : Int :=
  let v : Val :=
    if src ≤ 5 then (flOfCode src).decode (ftz && src ≤ 2) x
    else if src = 10 then Val.ofInt (sext x 128) (-64)
    else Val.ofInt ((intOfCode src).value x) 0
  if tgt ≤ 5 then
    ((flOfCode tgt).round rm (ftz && tgt ≤ 2) (sat && (tgt = 4 || tgt = 5)) v : Nat)
  else if tgt = 10 then v.toFx
  else
    let f := intOfCode tgt
    if src ≤ 5 then v.toInt rm f.min f.max else f.clamp sat ((intOfCode src).value x)

/-! ### Narrow formats -/

/-- R158: the value of an mxi8 code under an E8M0 scale. -/
def mxVal (e q : Nat) : Val :=
  if e = 255 then .nan else Val.ofInt (sext q 8) ((e : Int) - 127 - 6)

/-- Table 7-4, times 1,024. -/
def codebook : List Int :=
  [-1024, -712, -538, -404, -290, -188, -92, 0, 81, 164, 252, 346, 454, 576, 740, 1024]

/-- R160, R161: the single-rounding decode of cb4 code `c` with block scale `k` and super-scale code `s`. -/
def cb4Decode (f : Fl) (c k s : Nat) : Nat :=
  let w := (codebook[c]?).getD 0 * (k : Int)
  match f32.decode false s with
  | .nan => f.nan
  | .inf neg => if w = 0 then f.nan else f.round rne false false (.inf (neg != decide (w < 0)))
  | .fin neg num exp =>
    if w = 0 || num = 0 then 0
    else f.roundQ rne false false (neg != decide (w < 0)) (w.natAbs * num) 255 (exp - 10)

/-- R159: the scale that packs a block of f32 codes into mxi8. -/
def mxScale (xs : List Nat) : Nat :=
  let vs := xs.map (f32.decode false)
  if vs.any fun v => match v with
      | .fin _ _ _ => false
      | _ => true then 255
  else
    let tops := vs.filterMap fun v => match v with
      | .fin _ (n + 1) e => some ((Nat.log2 (n + 1) : Int) + e)
      | _ => none
    match tops with
    | [] => 0
    | t :: ts => (max 0 (min 254 (ts.foldl max t + 127))).toNat

/-- R159: one code of a packed block, from an f32 code and the block's scale. -/
def mxPack (scale x : Nat) : Int :=
  if scale = 255 then 0
  else match f32.decode false x with
    | .fin neg num exp => (Val.fin neg num (exp + 6 - ((scale : Int) - 127))).toInt rne (-127) 127
    | _ => 0

/-! ### Order of sums -/

/-- R163: the exact balanced tree of sums in pairs; zeros are signed as in RNE. -/
def sumPairs : List Val → List Val
  | x :: y :: xs => x.add false y :: sumPairs xs
  | xs => xs

/-- R163: the root of the tree of 2, 4, 8 or 16 products. -/
def treeSum (xs : List Val) : Val :=
  match sumPairs (sumPairs (sumPairs (sumPairs xs))) with
  | v :: _ => v
  | [] => .fin false 0 0

/-- R163, R164: the update of an addend `c` by a k-group of products, rounded once to f32. -/
def kUpdate (rm : RMode) (ftz : Bool) (c : Val) (ps : List Val) : Nat :=
  let pinf := ps.any fun p => p = .inf false
  let ninf := ps.any fun p => p = .inf true
  if ps.any Val.isNan || (pinf && ninf) then f32.nan
  else
    let s := if pinf then Val.inf false else if ninf then .inf true else treeSum ps
    f32.round rm ftz false (c.add (rm.code == 3) s)

/-! ### Bound operators -/

/-- Table 4-4: the bytes of an operator's element. -/
def opBytes (op : Nat) : Nat := if op = 1 then 16 else 4

/-- Table 4-4: the identity of an operator. -/
def opIdentity (op : Nat) : Nat :=
  match op with
  | 0 => 0x80000000
  | 3 => 0xFF800000
  | 4 => 0x7F800000
  | 5 => 0x80000000
  | 6 => 0x7FFFFFFF
  | 8 => 0xFFFFFFFF
  | _ => 0

/-- The sum of two f32 codes in RNE with subnormals kept (Table 4-4, R261, R284). -/
def addF32 (x y : Nat) : Nat := f32.round rne false false ((f32.decode false x).add false (f32.decode false y))

/-- Table 4-4: x ⊕ y for the operators 0 to 9. -/
def opApply (op x y : Nat) : Nat :=
  match op with
  | 0 => addF32 x y
  | 1 => (x + y) % 2 ^ 128
  | 2 => (x + y) % 2 ^ 32
  | 3 => f32.minmax false true x y
  | 4 => f32.minmax false false x y
  | 5 => if sext x 32 < sext y 32 then y else x
  | 6 => if sext y 32 < sext x 32 then y else x
  | 7 => x ||| y
  | 8 => x &&& y
  | _ => x ^^^ y

/-- R90: the elements of a list of bytes. -/
def elems (w : Nat) : Nat → List Byte → List Nat
  | 0, _ => []
  | n + 1, bs => leNat (bs.take w) :: elems w n (bs.drop w)

/-- R90: an operator applied element by element to two lists of bytes of one length. -/
def opBytesApply (op : Nat) (xs ys : List Byte) : List Byte :=
  let w := opBytes op
  ((elems w (xs.length / w) xs).zip (elems w (ys.length / w) ys)).flatMap fun p => leBytes w (opApply op p.1 p.2)

/-- R89: the bytes of a blank view: the operator's identity in every element. -/
def identityBytes (op size : Nat) : List Byte :=
  (List.range (size / opBytes op)).flatMap fun _ => leBytes (opBytes op) (opIdentity op)

/-- R91: one level of the fixed merge tree. -/
def mergeLevel (op : Nat) : List (List Byte) → List (List Byte)
  | x :: y :: xs => opBytesApply op x y :: mergeLevel op xs
  | xs => xs

/-- R91: the root of the fixed tree over leaves in ascending index; `fuel` bounds the levels (64 leaves make 6). -/
def mergeRoot (op : Nat) : Nat → List (List Byte) → List Byte
  | 0, xs => xs.headD []
  | fuel + 1, xs => if xs.length ≤ 1 then xs.headD [] else mergeRoot op fuel (mergeLevel op xs)

end Sys2Proof.Machine
end

