-- ==== Sys2Proof/WellFormed.lean ====
section
/-! DEFINITION. A well-formed instruction: one that breaks no static condition (R390), so that a registered body may
hold it. The 81 rows without an encoding are well-formed as they are. -/

namespace Sys2Proof

/-- R390, R201: no static condition is broken. -/
def Instr.wf (i : Instr) : Bool := i.staticCause.isNone

end Sys2Proof
end

