-- ==== Sys2Proof/Decode.lean ====
section
/-! DEFINITION. The decoder, total on any bytes (R168 to R178, R389 to R395): an instruction and its length in words,
or the run of words that is not an instruction, by the cause it raises. After it the encoder, from the same tables. -/

namespace Sys2Proof

/-- Major 0x00, `lsys`. -/
def decL00 (w : Word) (x : LExt) : Option Instr :=
  match (w.extractLsb' 0 4).toNat with
  | 0 => some (.lsysNop  x)
  | 1 => some (.lsysLane (w.extractLsb' 18 7) x)
  | 2 => some (.lsysTid (w.extractLsb' 18 7) x)
  | 3 => some (.lsysGrp (w.extractLsb' 18 7) (w.extractLsb' 11 7) x)
  | 4 => some (.lsysClk (w.extractLsb' 18 7) x)
  | 5 => some (.lsysBrk  x)
  | _ => none

/-- Major 0x01, `ialu`. -/
def decL01 (w : Word) (x : LExt) : Option Instr :=
  match (w.extractLsb' 0 4).toNat with
  | 0 => some (.ialuAdd (w.extractLsb' 18 7) (w.extractLsb' 11 7) (w.extractLsb' 4 7) x)
  | 1 => some (.ialuSub (w.extractLsb' 18 7) (w.extractLsb' 11 7) (w.extractLsb' 4 7) x)
  | 2 => some (.ialuAnd (w.extractLsb' 18 7) (w.extractLsb' 11 7) (w.extractLsb' 4 7) x)
  | 3 => some (.ialuOr (w.extractLsb' 18 7) (w.extractLsb' 11 7) (w.extractLsb' 4 7) x)
  | 4 => some (.ialuXor (w.extractLsb' 18 7) (w.extractLsb' 11 7) (w.extractLsb' 4 7) x)
  | 5 => some (.ialuAndn (w.extractLsb' 18 7) (w.extractLsb' 11 7) (w.extractLsb' 4 7) x)
  | 6 => some (.ialuShl (w.extractLsb' 18 7) (w.extractLsb' 11 7) (w.extractLsb' 4 7) x)
  | 7 => some (.ialuShr (w.extractLsb' 18 7) (w.extractLsb' 11 7) (w.extractLsb' 4 7) x)
  | 8 => some (.ialuSar (w.extractLsb' 18 7) (w.extractLsb' 11 7) (w.extractLsb' 4 7) x)
  | 9 => some (.ialuMins (w.extractLsb' 18 7) (w.extractLsb' 11 7) (w.extractLsb' 4 7) x)
  | 10 => some (.ialuMaxs (w.extractLsb' 18 7) (w.extractLsb' 11 7) (w.extractLsb' 4 7) x)
  | 11 => some (.ialuMinn (w.extractLsb' 18 7) (w.extractLsb' 11 7) (w.extractLsb' 4 7) x)
  | 12 => some (.ialuMaxn (w.extractLsb' 18 7) (w.extractLsb' 11 7) (w.extractLsb' 4 7) x)
  | 13 => some (.ialuAbs (w.extractLsb' 18 7) (w.extractLsb' 11 7) x)
  | _ => none

/-- Major 0x02, `iaddi`. -/
def decL02 (w : Word) (x : LExt) : Option Instr :=
  some (.iaddi (w.extractLsb' 18 7) (w.extractLsb' 11 7) (w.extractLsb' 0 11) x)

/-- Major 0x03, `andi`. -/
def decL03 (w : Word) (x : LExt) : Option Instr :=
  some (.andi (w.extractLsb' 18 7) (w.extractLsb' 11 7) (w.extractLsb' 0 11) x)

/-- Major 0x04, `ori`. -/
def decL04 (w : Word) (x : LExt) : Option Instr :=
  some (.ori (w.extractLsb' 18 7) (w.extractLsb' 11 7) (w.extractLsb' 0 11) x)

/-- Major 0x05, `xori`. -/
def decL05 (w : Word) (x : LExt) : Option Instr :=
  some (.xori (w.extractLsb' 18 7) (w.extractLsb' 11 7) (w.extractLsb' 0 11) x)

/-- Major 0x06, `ishi`. -/
def decL06 (w : Word) (x : LExt) : Option Instr :=
  match (w.extractLsb' 9 2).toNat with
  | 0 => some (.ishiShl (w.extractLsb' 18 7) (w.extractLsb' 11 7) (w.extractLsb' 0 5) x)
  | 1 => some (.ishiShr (w.extractLsb' 18 7) (w.extractLsb' 11 7) (w.extractLsb' 0 5) x)
  | 2 => some (.ishiSar (w.extractLsb' 18 7) (w.extractLsb' 11 7) (w.extractLsb' 0 5) x)
  | _ => some (.ishiRol (w.extractLsb' 18 7) (w.extractLsb' 11 7) (w.extractLsb' 0 5) x)

/-- Major 0x07, `movi`. -/
def decL07 (w : Word) (x : LExt) : Option Instr :=
  some (.movi (w.extractLsb' 18 7) (w.extractLsb' 0 18) x)

/-- Major 0x08, `movhi`. -/
def decL08 (w : Word) (x : LExt) : Option Instr :=
  some (.movhi (w.extractLsb' 18 7) (w.extractLsb' 0 18) x)

/-- Major 0x09, `imul`. -/
def decL09 (w : Word) (x : LExt) : Option Instr :=
  match (w.extractLsb' 0 4).toNat with
  | 0 => some (.imulLo (w.extractLsb' 18 7) (w.extractLsb' 11 7) (w.extractLsb' 4 7) x)
  | 1 => some (.imulHis (w.extractLsb' 18 7) (w.extractLsb' 11 7) (w.extractLsb' 4 7) x)
  | 2 => some (.imulHin (w.extractLsb' 18 7) (w.extractLsb' 11 7) (w.extractLsb' 4 7) x)
  | 3 => some (.imulWides (w.extractLsb' 18 7) (w.extractLsb' 11 7) (w.extractLsb' 4 7) x)
  | 4 => some (.imulWiden (w.extractLsb' 18 7) (w.extractLsb' 11 7) (w.extractLsb' 4 7) x)
  | 5 => some (.imulMad (w.extractLsb' 18 7) (w.extractLsb' 11 7) (w.extractLsb' 4 7) x)
  | _ => none

/-- Major 0x0A, `ibit`. -/
def decL0A (w : Word) (x : LExt) : Option Instr :=
  match (w.extractLsb' 0 4).toNat with
  | 0 => some (.ibitPopc (w.extractLsb' 18 7) (w.extractLsb' 11 7) x)
  | 1 => some (.ibitClz (w.extractLsb' 18 7) (w.extractLsb' 11 7) x)
  | 2 => some (.ibitCtz (w.extractLsb' 18 7) (w.extractLsb' 11 7) x)
  | 3 => some (.ibitBrev (w.extractLsb' 18 7) (w.extractLsb' 11 7) x)
  | 4 => some (.ibitBfxs (w.extractLsb' 18 7) (w.extractLsb' 11 7) (w.extractLsb' 4 7) x)
  | 5 => some (.ibitBfxn (w.extractLsb' 18 7) (w.extractLsb' 11 7) (w.extractLsb' 4 7) x)
  | 6 => some (.ibitBfi (w.extractLsb' 18 7) (w.extractLsb' 11 7) (w.extractLsb' 4 7) x)
  | _ => none

/-- Major 0x0B, `icmp`. -/
def decL0B (w : Word) (x : LExt) : Option Instr :=
  match (w.extractLsb' 0 4).toNat with
  | 0 => some (.icmpEq (w.extractLsb' 20 5) (w.extractLsb' 18 2) (w.extractLsb' 11 7) (w.extractLsb' 4 7) x)
  | 1 => some (.icmpNe (w.extractLsb' 20 5) (w.extractLsb' 18 2) (w.extractLsb' 11 7) (w.extractLsb' 4 7) x)
  | 2 => some (.icmpLts (w.extractLsb' 20 5) (w.extractLsb' 18 2) (w.extractLsb' 11 7) (w.extractLsb' 4 7) x)
  | 3 => some (.icmpLes (w.extractLsb' 20 5) (w.extractLsb' 18 2) (w.extractLsb' 11 7) (w.extractLsb' 4 7) x)
  | 4 => some (.icmpGts (w.extractLsb' 20 5) (w.extractLsb' 18 2) (w.extractLsb' 11 7) (w.extractLsb' 4 7) x)
  | 5 => some (.icmpGes (w.extractLsb' 20 5) (w.extractLsb' 18 2) (w.extractLsb' 11 7) (w.extractLsb' 4 7) x)
  | 6 => some (.icmpLtn (w.extractLsb' 20 5) (w.extractLsb' 18 2) (w.extractLsb' 11 7) (w.extractLsb' 4 7) x)
  | 7 => some (.icmpLen (w.extractLsb' 20 5) (w.extractLsb' 18 2) (w.extractLsb' 11 7) (w.extractLsb' 4 7) x)
  | 8 => some (.icmpGtn (w.extractLsb' 20 5) (w.extractLsb' 18 2) (w.extractLsb' 11 7) (w.extractLsb' 4 7) x)
  | 9 => some (.icmpGen (w.extractLsb' 20 5) (w.extractLsb' 18 2) (w.extractLsb' 11 7) (w.extractLsb' 4 7) x)
  | _ => none

/-- Major 0x0C, `plog`. -/
def decL0C (w : Word) (x : LExt) : Option Instr :=
  match (w.extractLsb' 0 4).toNat with
  | 0 => some (.plogAnd (w.extractLsb' 20 5) (w.extractLsb' 18 2) (w.extractLsb' 11 5) (w.extractLsb' 4 5) x)
  | 1 => some (.plogOr (w.extractLsb' 20 5) (w.extractLsb' 18 2) (w.extractLsb' 11 5) (w.extractLsb' 4 5) x)
  | 2 => some (.plogXor (w.extractLsb' 20 5) (w.extractLsb' 18 2) (w.extractLsb' 11 5) (w.extractLsb' 4 5) x)
  | 3 => some (.plogAndn (w.extractLsb' 20 5) (w.extractLsb' 18 2) (w.extractLsb' 11 5) (w.extractLsb' 4 5) x)
  | 4 => some (.plogOrn (w.extractLsb' 20 5) (w.extractLsb' 18 2) (w.extractLsb' 11 5) (w.extractLsb' 4 5) x)
  | _ => none

/-- Major 0x0D, `cmov`. -/
def decL0D (w : Word) (x : LExt) : Option Instr :=
  match (w.extractLsb' 0 4).toNat with
  | 0 => some (.cmovNz (w.extractLsb' 18 7) (w.extractLsb' 11 7) (w.extractLsb' 4 7) x)
  | 1 => some (.cmovZ (w.extractLsb' 18 7) (w.extractLsb' 11 7) (w.extractLsb' 4 7) x)
  | 2 => some (.cmovRdp (w.extractLsb' 18 7) x)
  | 3 => some (.cmovWrp (w.extractLsb' 11 7) (w.extractLsb' 4 7) x)
  | _ => none

/-- Major 0x0E, `lanex`. -/
def decL0E (w : Word) (x : LExt) : Option Instr :=
  match (w.extractLsb' 0 4).toNat with
  | 0 => some (.lanexShfl (w.extractLsb' 18 7) (w.extractLsb' 11 7) (w.extractLsb' 4 7) x)
  | 1 => some (.lanexShflx (w.extractLsb' 18 7) (w.extractLsb' 11 7) (w.extractLsb' 4 7) x)
  | 2 => some (.lanexShflup (w.extractLsb' 18 7) (w.extractLsb' 11 7) (w.extractLsb' 4 7) x)
  | 3 => some (.lanexShfldn (w.extractLsb' 18 7) (w.extractLsb' 11 7) (w.extractLsb' 4 7) x)
  | 4 => some (.lanexBallot (w.extractLsb' 18 7) (w.extractLsb' 11 5) x)
  | 5 => some (.lanexAny (w.extractLsb' 18 7) (w.extractLsb' 11 5) x)
  | 6 => some (.lanexAll (w.extractLsb' 18 7) (w.extractLsb' 11 5) x)
  | 7 => some (.lanexMatch (w.extractLsb' 18 7) (w.extractLsb' 11 7) x)
  | 8 => some (.lanexRedadd (w.extractLsb' 18 7) (w.extractLsb' 11 7) x)
  | 9 => some (.lanexRedmins (w.extractLsb' 18 7) (w.extractLsb' 11 7) x)
  | 10 => some (.lanexRedmaxs (w.extractLsb' 18 7) (w.extractLsb' 11 7) x)
  | 11 => some (.lanexRedand (w.extractLsb' 18 7) (w.extractLsb' 11 7) x)
  | 12 => some (.lanexRedor (w.extractLsb' 18 7) (w.extractLsb' 11 7) x)
  | 13 => some (.lanexRedxor (w.extractLsb' 18 7) (w.extractLsb' 11 7) x)
  | 14 => some (.lanexNpath (w.extractLsb' 18 7) x)
  | _ => none

/-- Major 0x0F, `fadd`. -/
def decL0F (w : Word) (x : LExt) : Option Instr :=
  match (w.extractLsb' 0 4).toNat with
  | 0 => some (.faddAdd (w.extractLsb' 18 7) (w.extractLsb' 11 7) (w.extractLsb' 4 7) x)
  | 1 => some (.faddSub (w.extractLsb' 18 7) (w.extractLsb' 11 7) (w.extractLsb' 4 7) x)
  | 2 => some (.faddMin (w.extractLsb' 18 7) (w.extractLsb' 11 7) (w.extractLsb' 4 7) x)
  | 3 => some (.faddMax (w.extractLsb' 18 7) (w.extractLsb' 11 7) (w.extractLsb' 4 7) x)
  | 4 => some (.faddAdd2h (w.extractLsb' 18 7) (w.extractLsb' 11 7) (w.extractLsb' 4 7) x)
  | 5 => some (.faddSub2h (w.extractLsb' 18 7) (w.extractLsb' 11 7) (w.extractLsb' 4 7) x)
  | 6 => some (.faddAdd2b (w.extractLsb' 18 7) (w.extractLsb' 11 7) (w.extractLsb' 4 7) x)
  | 7 => some (.faddSub2b (w.extractLsb' 18 7) (w.extractLsb' 11 7) (w.extractLsb' 4 7) x)
  | 8 => some (.faddAbs (w.extractLsb' 18 7) (w.extractLsb' 11 7) x)
  | 9 => some (.faddNeg (w.extractLsb' 18 7) (w.extractLsb' 11 7) x)
  | 10 => some (.faddCsgn (w.extractLsb' 18 7) (w.extractLsb' 11 7) (w.extractLsb' 4 7) x)
  | _ => none

/-- Major 0x10, `fmul`. -/
def decL10 (w : Word) (x : LExt) : Option Instr :=
  match (w.extractLsb' 0 4).toNat with
  | 0 => some (.fmulMul (w.extractLsb' 18 7) (w.extractLsb' 11 7) (w.extractLsb' 4 7) x)
  | 1 => some (.fmulMul2h (w.extractLsb' 18 7) (w.extractLsb' 11 7) (w.extractLsb' 4 7) x)
  | 2 => some (.fmulMul2b (w.extractLsb' 18 7) (w.extractLsb' 11 7) (w.extractLsb' 4 7) x)
  | _ => none

/-- Major 0x11, `ffma`. -/
def decL11 (w : Word) (x : LExt) : Option Instr :=
  match (w.extractLsb' 0 4).toNat with
  | 0 => some (.ffmaFma (w.extractLsb' 18 7) (w.extractLsb' 11 7) (w.extractLsb' 4 7) x)
  | 1 => some (.ffmaFma2h (w.extractLsb' 18 7) (w.extractLsb' 11 7) (w.extractLsb' 4 7) x)
  | 2 => some (.ffmaFma2b (w.extractLsb' 18 7) (w.extractLsb' 11 7) (w.extractLsb' 4 7) x)
  | 3 => some (.ffmaFms (w.extractLsb' 18 7) (w.extractLsb' 11 7) (w.extractLsb' 4 7) x)
  | 4 => some (.ffmaFnma (w.extractLsb' 18 7) (w.extractLsb' 11 7) (w.extractLsb' 4 7) x)
  | _ => none

/-- Major 0x12, `fcmp`. -/
def decL12 (w : Word) (x : LExt) : Option Instr :=
  match (w.extractLsb' 0 4).toNat with
  | 0 => some (.fcmpEq (w.extractLsb' 20 5) (w.extractLsb' 18 2) (w.extractLsb' 11 7) (w.extractLsb' 4 7) x)
  | 1 => some (.fcmpNe (w.extractLsb' 20 5) (w.extractLsb' 18 2) (w.extractLsb' 11 7) (w.extractLsb' 4 7) x)
  | 2 => some (.fcmpLt (w.extractLsb' 20 5) (w.extractLsb' 18 2) (w.extractLsb' 11 7) (w.extractLsb' 4 7) x)
  | 3 => some (.fcmpLe (w.extractLsb' 20 5) (w.extractLsb' 18 2) (w.extractLsb' 11 7) (w.extractLsb' 4 7) x)
  | 4 => some (.fcmpGt (w.extractLsb' 20 5) (w.extractLsb' 18 2) (w.extractLsb' 11 7) (w.extractLsb' 4 7) x)
  | 5 => some (.fcmpGe (w.extractLsb' 20 5) (w.extractLsb' 18 2) (w.extractLsb' 11 7) (w.extractLsb' 4 7) x)
  | 6 => some (.fcmpUn (w.extractLsb' 20 5) (w.extractLsb' 18 2) (w.extractLsb' 11 7) (w.extractLsb' 4 7) x)
  | 7 => some (.fcmpOrd (w.extractLsb' 20 5) (w.extractLsb' 18 2) (w.extractLsb' 11 7) (w.extractLsb' 4 7) x)
  | _ => none

/-- Major 0x13, `fspec`. -/
def decL13 (w : Word) (x : LExt) : Option Instr :=
  match (w.extractLsb' 0 4).toNat with
  | 0 => some (.fspecRcp (w.extractLsb' 18 7) (w.extractLsb' 11 7) x)
  | 1 => some (.fspecRsqrt (w.extractLsb' 18 7) (w.extractLsb' 11 7) x)
  | 2 => some (.fspecSqrt (w.extractLsb' 18 7) (w.extractLsb' 11 7) x)
  | 3 => some (.fspecExp2 (w.extractLsb' 18 7) (w.extractLsb' 11 7) x)
  | 4 => some (.fspecLog2 (w.extractLsb' 18 7) (w.extractLsb' 11 7) x)
  | 5 => some (.fspecSin (w.extractLsb' 18 7) (w.extractLsb' 11 7) x)
  | 6 => some (.fspecCos (w.extractLsb' 18 7) (w.extractLsb' 11 7) x)
  | 7 => some (.fspecTanh (w.extractLsb' 18 7) (w.extractLsb' 11 7) x)
  | _ => none

/-- Major 0x14, `cvt`. -/
def decL14 (w : Word) (x : LExt) : Option Instr :=
  some (.cvt (w.extractLsb' 18 7) (w.extractLsb' 11 7) (w.extractLsb' 4 4) (w.extractLsb' 0 4) x)

/-- Major 0x15, `narrow`. -/
def decL15 (w : Word) (x : LExt) : Option Instr :=
  match (w.extractLsb' 0 4).toNat with
  | 0 => some (.narrowDot4s (w.extractLsb' 18 7) (w.extractLsb' 11 7) (w.extractLsb' 4 7) x)
  | 1 => some (.narrowDot4n (w.extractLsb' 18 7) (w.extractLsb' 11 7) (w.extractLsb' 4 7) x)
  | 2 => some (.narrowDot4e4 (w.extractLsb' 18 7) (w.extractLsb' 11 7) (w.extractLsb' 4 7) x)
  | 3 => some (.narrowDot4e5 (w.extractLsb' 18 7) (w.extractLsb' 11 7) (w.extractLsb' 4 7) x)
  | 4 => some (.narrowDot2b (w.extractLsb' 18 7) (w.extractLsb' 11 7) (w.extractLsb' 4 7) x)
  | 5 => some (.narrowDot2h (w.extractLsb' 18 7) (w.extractLsb' 11 7) (w.extractLsb' 4 7) x)
  | 6 => some (.narrowCbdecb (w.extractLsb' 18 7) (w.extractLsb' 11 7) (w.extractLsb' 4 7) x)
  | 7 => some (.narrowCbdech (w.extractLsb' 18 7) (w.extractLsb' 11 7) (w.extractLsb' 4 7) x)
  | 8 => some (.narrowCbdecf (w.extractLsb' 18 7) (w.extractLsb' 11 7) (w.extractLsb' 4 7) x)
  | 9 => some (.narrowPke4 (w.extractLsb' 18 7) (w.extractLsb' 11 7) (w.extractLsb' 4 7) x)
  | 10 => some (.narrowPke5 (w.extractLsb' 18 7) (w.extractLsb' 11 7) (w.extractLsb' 4 7) x)
  | 11 => some (.narrowMxpk (w.extractLsb' 18 7) (w.extractLsb' 11 7) x)
  | 12 => some (.narrowMxunpk (w.extractLsb' 18 7) (w.extractLsb' 11 7) (w.extractLsb' 4 7) x)
  | 13 => some (.narrowUpke4 (w.extractLsb' 18 7) (w.extractLsb' 11 7) x)
  | 14 => some (.narrowUpke5 (w.extractLsb' 18 7) (w.extractLsb' 11 7) x)
  | _ => none

/-- Major 0x16, `f64`. -/
def decL16 (w : Word) (x : LExt) : Option Instr :=
  match (w.extractLsb' 0 4).toNat with
  | 0 => some (.f64Add (w.extractLsb' 18 7) (w.extractLsb' 11 7) (w.extractLsb' 4 7) x)
  | 1 => some (.f64Sub (w.extractLsb' 18 7) (w.extractLsb' 11 7) (w.extractLsb' 4 7) x)
  | 2 => some (.f64Mul (w.extractLsb' 18 7) (w.extractLsb' 11 7) (w.extractLsb' 4 7) x)
  | 3 => some (.f64Fma (w.extractLsb' 18 7) (w.extractLsb' 11 7) (w.extractLsb' 4 7) x)
  | 4 => some (.f64Min (w.extractLsb' 18 7) (w.extractLsb' 11 7) (w.extractLsb' 4 7) x)
  | 5 => some (.f64Max (w.extractLsb' 18 7) (w.extractLsb' 11 7) (w.extractLsb' 4 7) x)
  | 6 => some (.f64Abs (w.extractLsb' 18 7) (w.extractLsb' 11 7) x)
  | 7 => some (.f64Neg (w.extractLsb' 18 7) (w.extractLsb' 11 7) x)
  | _ => none

/-- Major 0x17, `ld`. -/
def decL17 (w : Word) (x : LExt) : Option Instr :=
  some (.ld (w.extractLsb' 18 7) (w.extractLsb' 11 7) (w.extractLsb' 8 3) (w.extractLsb' 6 2) (w.extractLsb' 0 6) x)

/-- Major 0x18, `st`. -/
def decL18 (w : Word) (x : LExt) : Option Instr :=
  some (.st (w.extractLsb' 18 7) (w.extractLsb' 11 7) (w.extractLsb' 8 3) (w.extractLsb' 6 2) (w.extractLsb' 0 6) x)

/-- Major 0x19, `ldl`. -/
def decL19 (w : Word) (x : LExt) : Option Instr :=
  some (.ldl (w.extractLsb' 18 7) (w.extractLsb' 11 7) (w.extractLsb' 8 3) (w.extractLsb' 6 2) (w.extractLsb' 0 6) x)

/-- Major 0x1A, `stl`. -/
def decL1A (w : Word) (x : LExt) : Option Instr :=
  some (.stl (w.extractLsb' 18 7) (w.extractLsb' 11 7) (w.extractLsb' 8 3) (w.extractLsb' 6 2) (w.extractLsb' 0 6) x)

/-- Major 0x1B, `ldfe`. -/
def decL1B (w : Word) (x : LExt) : Option Instr :=
  some (.ldfe (w.extractLsb' 18 7) (w.extractLsb' 11 7) (w.extractLsb' 8 3) (w.extractLsb' 6 2) (w.extractLsb' 0 6) x)

/-- Major 0x1C, `stfe`. -/
def decL1C (w : Word) (x : LExt) : Option Instr :=
  some (.stfe (w.extractLsb' 18 7) (w.extractLsb' 11 7) (w.extractLsb' 8 3) (w.extractLsb' 6 2) (w.extractLsb' 0 6) x)

/-- Major 0x1D, `atom`. -/
def decL1D (w : Word) (x : LExt) : Option Instr :=
  match (w.extractLsb' 0 4).toNat with
  | 0 => some (.atomAdd (w.extractLsb' 18 7) (w.extractLsb' 11 7) (w.extractLsb' 4 7) x)
  | 1 => some (.atomAnd (w.extractLsb' 18 7) (w.extractLsb' 11 7) (w.extractLsb' 4 7) x)
  | 2 => some (.atomOr (w.extractLsb' 18 7) (w.extractLsb' 11 7) (w.extractLsb' 4 7) x)
  | 3 => some (.atomXor (w.extractLsb' 18 7) (w.extractLsb' 11 7) (w.extractLsb' 4 7) x)
  | 4 => some (.atomXchg (w.extractLsb' 18 7) (w.extractLsb' 11 7) (w.extractLsb' 4 7) x)
  | 5 => some (.atomMins (w.extractLsb' 18 7) (w.extractLsb' 11 7) (w.extractLsb' 4 7) x)
  | 6 => some (.atomMaxs (w.extractLsb' 18 7) (w.extractLsb' 11 7) (w.extractLsb' 4 7) x)
  | 7 => some (.atomMinn (w.extractLsb' 18 7) (w.extractLsb' 11 7) (w.extractLsb' 4 7) x)
  | 8 => some (.atomMaxn (w.extractLsb' 18 7) (w.extractLsb' 11 7) (w.extractLsb' 4 7) x)
  | 9 => some (.atomAddf (w.extractLsb' 18 7) (w.extractLsb' 11 7) (w.extractLsb' 4 7) x)
  | 10 => some (.atomCas (w.extractLsb' 18 7) (w.extractLsb' 11 7) (w.extractLsb' 4 7) x)
  | 11 => some (.atomAdd64 (w.extractLsb' 18 7) (w.extractLsb' 11 7) (w.extractLsb' 4 7) x)
  | 12 => some (.atomXchg64 (w.extractLsb' 18 7) (w.extractLsb' 11 7) (w.extractLsb' 4 7) x)
  | 13 => some (.atomCas64 (w.extractLsb' 18 7) (w.extractLsb' 11 7) (w.extractLsb' 4 7) x)
  | _ => none

/-- Major 0x1E, `atomfx`. -/
def decL1E (w : Word) (x : LExt) : Option Instr :=
  match (w.extractLsb' 0 4).toNat with
  | 0 => some (.atomfxAdd (w.extractLsb' 11 7) (w.extractLsb' 4 7) x)
  | 1 => some (.atomfxFetch (w.extractLsb' 18 7) (w.extractLsb' 11 7) (w.extractLsb' 4 7) x)
  | _ => none

/-- Major 0x1F, `pref`. -/
def decL1F (w : Word) (x : LExt) : Option Instr :=
  some (.pref (w.extractLsb' 11 7) (w.extractLsb' 8 3) (w.extractLsb' 6 2) (w.extractLsb' 0 6) x)

/-- Major 0x20, `br`. -/
def decL20 (w : Word) (x : LExt) : Option Instr :=
  some (.br (w.extractLsb' 20 5) (w.extractLsb' 19 1) (w.extractLsb' 0 19) x)

/-- Major 0x21, `brx`. -/
def decL21 (w : Word) (x : LExt) : Option Instr :=
  match (w.extractLsb' 0 4).toNat with
  | 0 => some (.brxJmp (w.extractLsb' 11 7) x)
  | 1 => some (.brxCall (w.extractLsb' 11 7) x)
  | _ => none

/-- Major 0x22, `call`. -/
def decL22 (w : Word) (x : LExt) : Option Instr :=
  some (.call (w.extractLsb' 20 5) (w.extractLsb' 19 1) (w.extractLsb' 0 19) x)

/-- Major 0x23, `ctl`. -/
def decL23 (w : Word) (x : LExt) : Option Instr :=
  match (w.extractLsb' 0 4).toNat with
  | 0 => some (.ctlRet  x)
  | 1 => some (.ctlExit  x)
  | 2 => some (.ctlYield  x)
  | _ => none

/-- Major 0x24, `guest`. -/
def decL24 (w : Word) (x : LExt) : Option Instr :=
  match (w.extractLsb' 0 4).toNat with
  | 0 => some (.guestDispatch  x)
  | 1 => some (.guestDispatchRg  x)
  | 2 => some (.guestRdpc (w.extractLsb' 18 7) x)
  | 3 => some (.guestWrpc (w.extractLsb' 11 7) x)
  | 4 => some (.guestAddpc (w.extractLsb' 11 7) x)
  | 5 => some (.guestRdop (w.extractLsb' 18 7) x)
  | 6 => some (.guestWrop (w.extractLsb' 11 7) x)
  | _ => none

/-- Major 0x25, `mma`. -/
def decL25 (w : Word) (x : LExt) : Option Instr :=
  match (w.extractLsb' 0 4).toNat with
  | 0 => some (.mmaAdd (w.extractLsb' 18 7) (w.extractLsb' 11 7) (w.extractLsb' 8 2) (w.extractLsb' 4 4) x)
  | 1 => some (.mmaSet (w.extractLsb' 18 7) (w.extractLsb' 11 7) (w.extractLsb' 8 2) (w.extractLsb' 4 4) x)
  | 2 => some (.mmaTri (w.extractLsb' 18 7) (w.extractLsb' 11 7) (w.extractLsb' 8 2) (w.extractLsb' 4 4) x)
  | 3 => some (.mmaTriset (w.extractLsb' 18 7) (w.extractLsb' 11 7) (w.extractLsb' 8 2) (w.extractLsb' 4 4) x)
  | _ => none

/-- Major 0x26, `mfrag`. -/
def decL26 (w : Word) (x : LExt) : Option Instr :=
  match (w.extractLsb' 0 4).toNat with
  | 0 => some (.mfragRd (w.extractLsb' 18 7) (w.extractLsb' 11 2) (w.extractLsb' 4 7) x)
  | 1 => some (.mfragWr (w.extractLsb' 18 7) (w.extractLsb' 11 2) (w.extractLsb' 4 7) x)
  | 2 => some (.mfragZero (w.extractLsb' 11 2) x)
  | _ => none

/-- Major 0x00, `usys`. -/
def decU00 (w : Word) (x : UExt) : Option Instr :=
  match (w.extractLsb' 0 7).toNat with
  | 0 => some (.usysNop  x)
  | 1 => some (.usysSvc (w.extractLsb' 13 6) x)
  | 2 => some (.usysTlbiva (w.extractLsb' 13 6) (w.extractLsb' 7 6) x)
  | 3 => some (.usysTlbictx (w.extractLsb' 13 6) x)
  | 4 => some (.usysRti  x)
  | 5 => some (.usysBrk  x)
  | _ => none

/-- Major 0x01, `ualu`. -/
def decU01 (w : Word) (x : UExt) : Option Instr :=
  match (w.extractLsb' 0 7).toNat with
  | 0 => some (.ualuAdd (w.extractLsb' 19 6) (w.extractLsb' 13 6) (w.extractLsb' 7 6) x)
  | 1 => some (.ualuSub (w.extractLsb' 19 6) (w.extractLsb' 13 6) (w.extractLsb' 7 6) x)
  | 2 => some (.ualuAnd (w.extractLsb' 19 6) (w.extractLsb' 13 6) (w.extractLsb' 7 6) x)
  | 3 => some (.ualuOr (w.extractLsb' 19 6) (w.extractLsb' 13 6) (w.extractLsb' 7 6) x)
  | 4 => some (.ualuXor (w.extractLsb' 19 6) (w.extractLsb' 13 6) (w.extractLsb' 7 6) x)
  | 5 => some (.ualuShl (w.extractLsb' 19 6) (w.extractLsb' 13 6) (w.extractLsb' 7 6) x)
  | 6 => some (.ualuShr (w.extractLsb' 19 6) (w.extractLsb' 13 6) (w.extractLsb' 7 6) x)
  | 7 => some (.ualuSar (w.extractLsb' 19 6) (w.extractLsb' 13 6) (w.extractLsb' 7 6) x)
  | 8 => some (.ualuMul (w.extractLsb' 19 6) (w.extractLsb' 13 6) (w.extractLsb' 7 6) x)
  | 9 => some (.ualuMins (w.extractLsb' 19 6) (w.extractLsb' 13 6) (w.extractLsb' 7 6) x)
  | 10 => some (.ualuMaxs (w.extractLsb' 19 6) (w.extractLsb' 13 6) (w.extractLsb' 7 6) x)
  | 11 => some (.ualuMinn (w.extractLsb' 19 6) (w.extractLsb' 13 6) (w.extractLsb' 7 6) x)
  | 12 => some (.ualuMaxn (w.extractLsb' 19 6) (w.extractLsb' 13 6) (w.extractLsb' 7 6) x)
  | _ => none

/-- Major 0x02, `uaddi`. -/
def decU02 (w : Word) (x : UExt) : Option Instr :=
  some (.uaddi (w.extractLsb' 19 6) (w.extractLsb' 13 6) (w.extractLsb' 0 13) x)

/-- Major 0x03, `umovi`. -/
def decU03 (w : Word) (x : UExt) : Option Instr :=
  some (.umovi (w.extractLsb' 19 6) (w.extractLsb' 0 19) x)

/-- Major 0x04, `umovhi`. -/
def decU04 (w : Word) (x : UExt) : Option Instr :=
  some (.umovhi (w.extractLsb' 19 6) (w.extractLsb' 0 19) x)

/-- Major 0x05, `ucmp`. -/
def decU05 (w : Word) (x : UExt) : Option Instr :=
  match (w.extractLsb' 0 7).toNat with
  | 0 => some (.ucmpEq (w.extractLsb' 19 3) (w.extractLsb' 13 6) (w.extractLsb' 7 6) x)
  | 1 => some (.ucmpNe (w.extractLsb' 19 3) (w.extractLsb' 13 6) (w.extractLsb' 7 6) x)
  | 2 => some (.ucmpLts (w.extractLsb' 19 3) (w.extractLsb' 13 6) (w.extractLsb' 7 6) x)
  | 3 => some (.ucmpLes (w.extractLsb' 19 3) (w.extractLsb' 13 6) (w.extractLsb' 7 6) x)
  | 4 => some (.ucmpGts (w.extractLsb' 19 3) (w.extractLsb' 13 6) (w.extractLsb' 7 6) x)
  | 5 => some (.ucmpGes (w.extractLsb' 19 3) (w.extractLsb' 13 6) (w.extractLsb' 7 6) x)
  | 6 => some (.ucmpLtn (w.extractLsb' 19 3) (w.extractLsb' 13 6) (w.extractLsb' 7 6) x)
  | 7 => some (.ucmpLen (w.extractLsb' 19 3) (w.extractLsb' 13 6) (w.extractLsb' 7 6) x)
  | 8 => some (.ucmpGtn (w.extractLsb' 19 3) (w.extractLsb' 13 6) (w.extractLsb' 7 6) x)
  | 9 => some (.ucmpGen (w.extractLsb' 19 3) (w.extractLsb' 13 6) (w.extractLsb' 7 6) x)
  | 10 => some (.ucmpQand (w.extractLsb' 19 3) (w.extractLsb' 13 3) (w.extractLsb' 7 3) x)
  | 11 => some (.ucmpQor (w.extractLsb' 19 3) (w.extractLsb' 13 3) (w.extractLsb' 7 3) x)
  | 12 => some (.ucmpQxor (w.extractLsb' 19 3) (w.extractLsb' 13 3) (w.extractLsb' 7 3) x)
  | _ => none

/-- Major 0x06, `ubr`. -/
def decU06 (w : Word) (x : UExt) : Option Instr :=
  some (.ubr (w.extractLsb' 22 3) (w.extractLsb' 21 1) (w.extractLsb' 0 21) x)

/-- Major 0x07, `uld`. -/
def decU07 (w : Word) (x : UExt) : Option Instr :=
  some (.uld (w.extractLsb' 19 6) (w.extractLsb' 13 6) (w.extractLsb' 0 13) x)

/-- Major 0x08, `ust`. -/
def decU08 (w : Word) (x : UExt) : Option Instr :=
  some (.ust (w.extractLsb' 19 6) (w.extractLsb' 13 6) (w.extractLsb' 0 13) x)

/-- Major 0x09, `umovl`. -/
def decU09 (w : Word) (x : UExt) : Option Instr :=
  match (w.extractLsb' 0 7).toNat with
  | 0 => some (.umovlFirst (w.extractLsb' 19 6) (w.extractLsb' 13 6) x)
  | 1 => some (.umovlLane (w.extractLsb' 19 6) (w.extractLsb' 13 6) (w.extractLsb' 7 6) x)
  | _ => none

/-- Major 0x0A, `bar`. -/
def decU0A (w : Word) (x : UExt) : Option Instr :=
  match (w.extractLsb' 0 7).toNat with
  | 0 => some (.barArrive (w.extractLsb' 19 6) (w.extractLsb' 9 4) (w.extractLsb' 7 2) x)
  | 1 => some (.barArriveCnt (w.extractLsb' 19 6) (w.extractLsb' 13 6) (w.extractLsb' 9 4) (w.extractLsb' 7 2) x)
  | 2 => some (.barWait (w.extractLsb' 19 6) (w.extractLsb' 9 4) (w.extractLsb' 7 2) x)
  | 3 => some (.barExpect (w.extractLsb' 19 6) (w.extractLsb' 9 4) (w.extractLsb' 7 2) x)
  | 4 => some (.barSync (w.extractLsb' 9 4) (w.extractLsb' 7 2) x)
  | _ => none

/-- Major 0x0B, `waitc`. -/
def decU0B (w : Word) (x : UExt) : Option Instr :=
  some (.waitc (w.extractLsb' 12 4) (w.extractLsb' 8 4) (w.extractLsb' 4 4) (w.extractLsb' 0 4) x)

/-- Major 0x0C, `cpy`. -/
def decU0C (w : Word) (x : UExt) : Option Instr :=
  match (w.extractLsb' 0 7).toNat with
  | 0 => some (.cpyLin (w.extractLsb' 19 6) (w.extractLsb' 13 6) (w.extractLsb' 9 4) (w.extractLsb' 7 2) x)
  | 1 => some (.cpyRect (w.extractLsb' 19 6) (w.extractLsb' 13 6) (w.extractLsb' 9 4) (w.extractLsb' 7 2) x)
  | 2 => some (.cpyTens (w.extractLsb' 19 6) (w.extractLsb' 13 6) (w.extractLsb' 9 4) (w.extractLsb' 7 2) x)
  | _ => none

/-- Major 0x0D, `gather`. -/
def decU0D (w : Word) (x : UExt) : Option Instr :=
  match (w.extractLsb' 0 7).toNat with
  | 0 => some (.gatherIdx32 (w.extractLsb' 19 6) (w.extractLsb' 13 6) (w.extractLsb' 9 4) (w.extractLsb' 7 2) x)
  | 1 => some (.gatherIdx64 (w.extractLsb' 19 6) (w.extractLsb' 13 6) (w.extractLsb' 9 4) (w.extractLsb' 7 2) x)
  | _ => none

/-- Major 0x0E, `coll`. -/
def decU0E (w : Word) (x : UExt) : Option Instr :=
  match (w.extractLsb' 0 7).toNat with
  | 0 => some (.collAllred (w.extractLsb' 19 6) (w.extractLsb' 9 4) (w.extractLsb' 7 2) x)
  | 1 => some (.collRedsc (w.extractLsb' 19 6) (w.extractLsb' 9 4) (w.extractLsb' 7 2) x)
  | 2 => some (.collAllgat (w.extractLsb' 19 6) (w.extractLsb' 9 4) (w.extractLsb' 7 2) x)
  | 3 => some (.collBcast (w.extractLsb' 19 6) (w.extractLsb' 9 4) (w.extractLsb' 7 2) x)
  | 4 => some (.collSparse (w.extractLsb' 19 6) (w.extractLsb' 9 4) (w.extractLsb' 7 2) x)
  | 5 => some (.collAlltoall (w.extractLsb' 19 6) (w.extractLsb' 9 4) (w.extractLsb' 7 2) x)
  | _ => none

/-- Major 0x0F, `mdrain`. -/
def decU0F (w : Word) (x : UExt) : Option Instr :=
  match (w.extractLsb' 0 7).toNat with
  | 0 => some (.mdrainSt (w.extractLsb' 19 6) (w.extractLsb' 13 2) (w.extractLsb' 9 4) (w.extractLsb' 7 2) x)
  | 1 => some (.mdrainAdd (w.extractLsb' 19 6) (w.extractLsb' 13 2) (w.extractLsb' 9 4) (w.extractLsb' 7 2) x)
  | _ => none

/-- Major 0x10, `gang`. -/
def decU10 (w : Word) (x : UExt) : Option Instr :=
  match (w.extractLsb' 0 7).toNat with
  | 0 => some (.gangList (w.extractLsb' 13 6) x)
  | 1 => some (.gangLease  x)
  | 2 => some (.gangRelease  x)
  | 3 => some (.gangBaton (w.extractLsb' 13 6) x)
  | _ => none

/-- Major 0x11, `task`. -/
noncomputable def decU11 (w : Word) (x : UExt) : Option Instr :=
  match (w.extractLsb' 0 7).toNat with
  | 0 => some (.taskSpawn (w.extractLsb' 13 6) x)
  | 1 => some (.taskPhase (w.extractLsb' 13 6) x)
  | 2 => some (.taskMerge  x)
  | _ => none

/-- Major 0x12, `mig`. -/
noncomputable def decU12 (w : Word) (x : UExt) : Option Instr :=
  match (w.extractLsb' 19 6).toNat with
  | 0 => some (.migL (w.extractLsb' 0 12) x)
  | 1 => some (.migD (w.extractLsb' 0 12) x)
  | 2 => some (.migAuto (w.extractLsb' 0 12) x)
  | _ => none

/-- Major 0x13, `rega`. -/
noncomputable def decU13 (w : Word) (x : UExt) : Option Instr :=
  match (w.extractLsb' 19 6).toNat with
  | 0 => some (.regaGrowWait (w.extractLsb' 0 13) x)
  | 1 => some (.regaGrowTry (w.extractLsb' 13 3) (w.extractLsb' 0 13) x)
  | 2 => some (.regaShrink (w.extractLsb' 0 13) x)
  | _ => none

/-- Major 0x14, `sysr`. -/
noncomputable def decU14 (w : Word) (x : UExt) : Option Instr :=
  some (.sysr (w.extractLsb' 19 6) (w.extractLsb' 0 12) x)

/-- Major 0x15, `sysw`. -/
noncomputable def decU15 (w : Word) (x : UExt) : Option Instr :=
  some (.sysw (w.extractLsb' 13 6) (w.extractLsb' 0 12) x)

/-- Major 0x16, `fence`. -/
noncomputable def decU16 (w : Word) (x : UExt) : Option Instr :=
  match (w.extractLsb' 0 7).toNat with
  | 0 => some (.fenceSysRel  x)
  | 1 => some (.fenceSysAcq  x)
  | 2 => some (.fenceSysFull  x)
  | _ => none

/-- Major 0x17, `handle`. -/
noncomputable def decU17 (w : Word) (x : UExt) : Option Instr :=
  match (w.extractLsb' 0 7).toNat with
  | 0 => some (.handleAlloc (w.extractLsb' 19 6) (w.extractLsb' 13 6) (w.extractLsb' 7 6) x)
  | 1 => some (.handleRetire (w.extractLsb' 13 6) x)
  | 2 => some (.handleFill (w.extractLsb' 13 6) x)
  | 3 => some (.handleClear (w.extractLsb' 13 6) x)
  | 4 => some (.handleSumm (w.extractLsb' 19 6) (w.extractLsb' 13 6) x)
  | 5 => some (.handleShape (w.extractLsb' 19 6) (w.extractLsb' 13 6) x)
  | _ => none

/-- Major 0x18, `bfq`. -/
noncomputable def decU18 (w : Word) (x : UExt) : Option Instr :=
  match (w.extractLsb' 0 7).toNat with
  | 0 => some (.bfqBind (w.extractLsb' 19 6) (w.extractLsb' 13 6) x)
  | 1 => some (.bfqJoin (w.extractLsb' 19 6) (w.extractLsb' 13 6) (w.extractLsb' 9 4) (w.extractLsb' 7 2) x)
  | 2 => some (.bfqUnbind (w.extractLsb' 13 6) x)
  | _ => none

/-- Major 0x19, `perf`. -/
noncomputable def decU19 (w : Word) (x : UExt) : Option Instr :=
  match (w.extractLsb' 0 7).toNat with
  | 0 => some (.perfRd (w.extractLsb' 19 6) (w.extractLsb' 13 6) x)
  | 1 => some (.perfSel (w.extractLsb' 13 6) (w.extractLsb' 7 6) x)
  | 2 => some (.perfMark (w.extractLsb' 13 6) x)
  | 3 => some (.perfSample (w.extractLsb' 13 6) x)
  | _ => none

/-- R181, R183: the lane instruction that a base word and the extension words before it name, if every selecting field is assigned. -/
def decodeLaneBase (w : Word) (x : LExt) : Option Instr :=
  match (w.extractLsb' 25 6).toNat with
  | 0x00 => decL00 w x
  | 0x01 => decL01 w x
  | 0x02 => decL02 w x
  | 0x03 => decL03 w x
  | 0x04 => decL04 w x
  | 0x05 => decL05 w x
  | 0x06 => decL06 w x
  | 0x07 => decL07 w x
  | 0x08 => decL08 w x
  | 0x09 => decL09 w x
  | 0x0A => decL0A w x
  | 0x0B => decL0B w x
  | 0x0C => decL0C w x
  | 0x0D => decL0D w x
  | 0x0E => decL0E w x
  | 0x0F => decL0F w x
  | 0x10 => decL10 w x
  | 0x11 => decL11 w x
  | 0x12 => decL12 w x
  | 0x13 => decL13 w x
  | 0x14 => decL14 w x
  | 0x15 => decL15 w x
  | 0x16 => decL16 w x
  | 0x17 => decL17 w x
  | 0x18 => decL18 w x
  | 0x19 => decL19 w x
  | 0x1A => decL1A w x
  | 0x1B => decL1B w x
  | 0x1C => decL1C w x
  | 0x1D => decL1D w x
  | 0x1E => decL1E w x
  | 0x1F => decL1F w x
  | 0x20 => decL20 w x
  | 0x21 => decL21 w x
  | 0x22 => decL22 w x
  | 0x23 => decL23 w x
  | 0x24 => decL24 w x
  | 0x25 => decL25 w x
  | 0x26 => decL26 w x
  | _ => none

/-- R181, R183: the uniform instruction of majors 0x00 to 0x10. -/
def decodeHeadBase (w : Word) (x : UExt) : Option Instr :=
  match (w.extractLsb' 25 6).toNat with
  | 0x00 => decU00 w x
  | 0x01 => decU01 w x
  | 0x02 => decU02 w x
  | 0x03 => decU03 w x
  | 0x04 => decU04 w x
  | 0x05 => decU05 w x
  | 0x06 => decU06 w x
  | 0x07 => decU07 w x
  | 0x08 => decU08 w x
  | 0x09 => decU09 w x
  | 0x0A => decU0A w x
  | 0x0B => decU0B w x
  | 0x0C => decU0C w x
  | 0x0D => decU0D w x
  | 0x0E => decU0E w x
  | 0x0F => decU0F w x
  | 0x10 => decU10 w x
  | _ => none

/-- R181, R183: the uniform instruction that a base word and the extension words before it name, if every selecting field is assigned. -/
noncomputable def decodeUniformBase (w : Word) (x : UExt) : Option Instr :=
  match (w.extractLsb' 25 6).toNat with
  | 0x11 => decU11 w x
  | 0x12 => decU12 w x
  | 0x13 => decU13 w x
  | 0x14 => decU14 w x
  | 0x15 => decU15 w x
  | 0x16 => decU16 w x
  | 0x17 => decU17 w x
  | 0x18 => decU18 w x
  | 0x19 => decU19 w x
  | _ => decodeHeadBase w x

/-- An extension word (major 0x3F, R175). -/
def isExt (w : Word) : Bool := w.extractLsb' 25 6 = 0x3F#6

/-- R168: word[31] selects the half. -/
def isUniform (w : Word) : Bool := w.extractLsb' 31 1 = 1#1

/-- Table 8-4: the kind of an extension word. -/
def extKind (w : Word) : BitVec 2 := w.extractLsb' 23 2

/-- A single bit as a Bool. -/
def bitAt (w : Word) (k : Nat) : Bool := w.getLsbD k

/-- Table 8-4: the fields of a lane MOD word. -/
def lmodOf (w : Word) : LMod :=
  { p := w.extractLsb' 18 5, neg := bitAt w 17, rnd := w.extractLsb' 14 3, sat := bitAt w 13, ftz := bitAt w 12,
    aux := w.extractLsb' 5 7 }

/-- Table 8-4: the fields of a uniform MOD word. -/
def umodOf (w : Word) : UMod := { q := w.extractLsb' 20 3, neg := bitAt w 19 }

/-- R179, Table 8-4: the fields of a HINT word; no meaning reads them. DESIGN CHOICE, log 118. -/
def hintOf (w : Word) : Hint := { stall := w.extractLsb' 19 4, yield := bitAt w 18, reuse := w.extractLsb' 16 2 }

/-- Table 8-4: the fields of a MEM word. -/
def lmemOf (w : Word) : LMem := { local' := bitAt w 22, space := w.extractLsb' 20 2 }

/-- The first of the extension words that has a kind. -/
def extOf (es : List Word) (k : BitVec 2) : Option Word := es.find? fun e => extKind e = k

/-- The lane extension words as data. -/
def lextOf (es : List Word) : LExt :=
  { imm := (extOf es 0).map fun w => w.extractLsb' 0 23, mem := (extOf es 3).map lmemOf,
    mod := (extOf es 1).map lmodOf, hint := (extOf es 2).map hintOf }

/-- The uniform extension words as data. -/
def uextOf (es : List Word) : UExt :=
  { imm := (extOf es 0).map fun w => w.extractLsb' 0 23, mod := (extOf es 1).map umodOf,
    hint := (extOf es 2).map hintOf }

/-- Table 22-2: reserved bits of an extension word, by its kind and half. -/
def extReservedOk (e : Word) : Bool :=
  match (extKind e).toNat with
  | 0 => true
  | 1 => if isUniform e then e.extractLsb' 0 19 = 0 else e.extractLsb' 0 5 = 0
  | 2 => e.extractLsb' 0 16 = 0
  | _ => e.extractLsb' 0 20 = 0

/-- The first extension word whose kind stands before it already, if any (R169); `seen` holds the kinds before the list. -/
def extRepeatedFrom (seen : List (BitVec 2)) : List Word → Option Word
  | [] => none
  | e :: es => if seen.contains (extKind e) then some e else extRepeatedFrom (extKind e :: seen) es

/-- R169: the first extension word whose kind stands before it already, if any. -/
def extRepeated (es : List Word) : Option Word := extRepeatedFrom [] es

/-- The extension words at the head of a list of words, and the words after them. -/
def splitExts : List Word → List Word × List Word
  | [] => ([], [])
  | w :: ws => if isExt w then ((w :: (splitExts ws).1), (splitExts ws).2) else ([], w :: ws)

/-- The bad word of a run that starts with extension words `es`. -/
def badRun (es : List Word) (uniform : Bool) (cause : Nat) (info : Word) (len : Nat) : BadWord :=
  { uniform := uniform, cause := cause, info := info, len := len,
    guard := if uniform then none else (extOf es 1).map lmodOf,
    uguard := if uniform then (extOf es 1).map umodOf else none }

/-- R393: the rules of Table 22-2 on the sequence of extension words, in its order; the first that applies decides.
`b` is the base word, when the run has one. -/
def seqFault (es : List Word) (b : Option Word) : Option (Nat × Word) :=
  match es, b with
  | [], _ => none
  | _ :: _, some w =>
    match es.find? fun f => isUniform f ≠ isUniform w with
    | some f => some (0x01, f)
    | none => match extRepeated es with
      | some f => some (0x01, f)
      | none => (es.find? fun f => isUniform f && extKind f = 3).map fun f => (0x01, f)
  | e :: _, none => some (0x01, es.getLastD e)

/-- The word that an extension word's broken rule names in TRAP_INFO (R391): the first word of a kind among `ks`. -/
def extInfo (es : List Word) (ks : List (BitVec 2)) (b : Word) : Word :=
  (es.find? fun e => ks.contains (extKind e)).getD b

/-- The word of a lane MOD word. -/
def LMod.word (m : LMod) : Word :=
  63#7 ++ 1#2 ++ m.p ++ BitVec.ofBool m.neg ++ m.rnd ++ BitVec.ofBool m.sat ++ BitVec.ofBool m.ftz ++ m.aux ++ 0#5

/-- The word of a uniform MOD word. -/
def UMod.word (m : UMod) : Word := 127#7 ++ 1#2 ++ m.q ++ BitVec.ofBool m.neg ++ 0#19

/-- The word of a HINT word of a half (7 bits: the half and the major). -/
def Hint.word (half : BitVec 7) (h : Hint) : Word := half ++ 2#2 ++ h.stall ++ BitVec.ofBool h.yield ++ h.reuse ++ 0#16

/-- The word of a MEM word. -/
def LMem.word (m : LMem) : Word := 63#7 ++ 3#2 ++ BitVec.ofBool m.local' ++ m.space ++ 0#20

/-- The word of an IMM word of a half. -/
def immWord (half : BitVec 7) (k : BitVec 23) : Word := half ++ 0#2 ++ k

/-- R188: the extension words in the order IMM, MEM, MOD, HINT. -/
def LExt.words (x : LExt) : List Word :=
  (x.imm.map (immWord 63#7)).toList ++ (x.mem.map LMem.word).toList ++ (x.mod.map LMod.word).toList ++
    (x.hint.map (Hint.word 63#7)).toList

/-- R188: the uniform extension words in the order IMM, MOD, HINT. -/
def UExt.words (x : UExt) : List Word :=
  (x.imm.map (immWord 127#7)).toList ++ (x.mod.map UMod.word).toList ++ (x.hint.map (Hint.word 127#7)).toList

/-- The base word of an encoded instruction (Tables 8-1, 8-2, 8-6, 8-8, 8-9); none for a row without an encoding. -/
def Instr.base : Instr → Option Word
  | .lsysNop _ => some (0#7 ++ 0#25)
  | .lsysLane d _ => some (0#7 ++ d ++ 1#18)
  | .lsysTid d _ => some (0#7 ++ d ++ 2#18)
  | .lsysGrp d sel _ => some (0#7 ++ d ++ sel ++ 3#11)
  | .lsysClk d _ => some (0#7 ++ d ++ 4#18)
  | .lsysBrk _ => some (0#7 ++ 5#25)
  | .ialuAdd d a b _ => some (1#7 ++ d ++ a ++ b ++ 0#4)
  | .ialuSub d a b _ => some (1#7 ++ d ++ a ++ b ++ 1#4)
  | .ialuAnd d a b _ => some (1#7 ++ d ++ a ++ b ++ 2#4)
  | .ialuOr d a b _ => some (1#7 ++ d ++ a ++ b ++ 3#4)
  | .ialuXor d a b _ => some (1#7 ++ d ++ a ++ b ++ 4#4)
  | .ialuAndn d a b _ => some (1#7 ++ d ++ a ++ b ++ 5#4)
  | .ialuShl d a b _ => some (1#7 ++ d ++ a ++ b ++ 6#4)
  | .ialuShr d a b _ => some (1#7 ++ d ++ a ++ b ++ 7#4)
  | .ialuSar d a b _ => some (1#7 ++ d ++ a ++ b ++ 8#4)
  | .ialuMins d a b _ => some (1#7 ++ d ++ a ++ b ++ 9#4)
  | .ialuMaxs d a b _ => some (1#7 ++ d ++ a ++ b ++ 10#4)
  | .ialuMinn d a b _ => some (1#7 ++ d ++ a ++ b ++ 11#4)
  | .ialuMaxn d a b _ => some (1#7 ++ d ++ a ++ b ++ 12#4)
  | .ialuAbs d a _ => some (1#7 ++ d ++ a ++ 13#11)
  | .iaddi d a imm _ => some (2#7 ++ d ++ a ++ imm)
  | .andi d a imm _ => some (3#7 ++ d ++ a ++ imm)
  | .ori d a imm _ => some (4#7 ++ d ++ a ++ imm)
  | .xori d a imm _ => some (5#7 ++ d ++ a ++ imm)
  | .ishiShl d a n _ => some (6#7 ++ d ++ a ++ 0#6 ++ n)
  | .ishiShr d a n _ => some (6#7 ++ d ++ a ++ 16#6 ++ n)
  | .ishiSar d a n _ => some (6#7 ++ d ++ a ++ 32#6 ++ n)
  | .ishiRol d a n _ => some (6#7 ++ d ++ a ++ 48#6 ++ n)
  | .movi d imm _ => some (7#7 ++ d ++ imm)
  | .movhi d imm _ => some (8#7 ++ d ++ imm)
  | .imulLo d a b _ => some (9#7 ++ d ++ a ++ b ++ 0#4)
  | .imulHis d a b _ => some (9#7 ++ d ++ a ++ b ++ 1#4)
  | .imulHin d a b _ => some (9#7 ++ d ++ a ++ b ++ 2#4)
  | .imulWides d a b _ => some (9#7 ++ d ++ a ++ b ++ 3#4)
  | .imulWiden d a b _ => some (9#7 ++ d ++ a ++ b ++ 4#4)
  | .imulMad d a b _ => some (9#7 ++ d ++ a ++ b ++ 5#4)
  | .ibitPopc d a _ => some (10#7 ++ d ++ a ++ 0#11)
  | .ibitClz d a _ => some (10#7 ++ d ++ a ++ 1#11)
  | .ibitCtz d a _ => some (10#7 ++ d ++ a ++ 2#11)
  | .ibitBrev d a _ => some (10#7 ++ d ++ a ++ 3#11)
  | .ibitBfxs d a b _ => some (10#7 ++ d ++ a ++ b ++ 4#4)
  | .ibitBfxn d a b _ => some (10#7 ++ d ++ a ++ b ++ 5#4)
  | .ibitBfi d a b _ => some (10#7 ++ d ++ a ++ b ++ 6#4)
  | .icmpEq pd comb a b _ => some (11#7 ++ pd ++ comb ++ a ++ b ++ 0#4)
  | .icmpNe pd comb a b _ => some (11#7 ++ pd ++ comb ++ a ++ b ++ 1#4)
  | .icmpLts pd comb a b _ => some (11#7 ++ pd ++ comb ++ a ++ b ++ 2#4)
  | .icmpLes pd comb a b _ => some (11#7 ++ pd ++ comb ++ a ++ b ++ 3#4)
  | .icmpGts pd comb a b _ => some (11#7 ++ pd ++ comb ++ a ++ b ++ 4#4)
  | .icmpGes pd comb a b _ => some (11#7 ++ pd ++ comb ++ a ++ b ++ 5#4)
  | .icmpLtn pd comb a b _ => some (11#7 ++ pd ++ comb ++ a ++ b ++ 6#4)
  | .icmpLen pd comb a b _ => some (11#7 ++ pd ++ comb ++ a ++ b ++ 7#4)
  | .icmpGtn pd comb a b _ => some (11#7 ++ pd ++ comb ++ a ++ b ++ 8#4)
  | .icmpGen pd comb a b _ => some (11#7 ++ pd ++ comb ++ a ++ b ++ 9#4)
  | .plogAnd pd comb a b _ => some (12#7 ++ pd ++ comb ++ 0#2 ++ a ++ 0#2 ++ b ++ 0#4)
  | .plogOr pd comb a b _ => some (12#7 ++ pd ++ comb ++ 0#2 ++ a ++ 0#2 ++ b ++ 1#4)
  | .plogXor pd comb a b _ => some (12#7 ++ pd ++ comb ++ 0#2 ++ a ++ 0#2 ++ b ++ 2#4)
  | .plogAndn pd comb a b _ => some (12#7 ++ pd ++ comb ++ 0#2 ++ a ++ 0#2 ++ b ++ 3#4)
  | .plogOrn pd comb a b _ => some (12#7 ++ pd ++ comb ++ 0#2 ++ a ++ 0#2 ++ b ++ 4#4)
  | .cmovNz d a b _ => some (13#7 ++ d ++ a ++ b ++ 0#4)
  | .cmovZ d a b _ => some (13#7 ++ d ++ a ++ b ++ 1#4)
  | .cmovRdp d _ => some (13#7 ++ d ++ 2#18)
  | .cmovWrp a b _ => some (13#7 ++ 0#7 ++ a ++ b ++ 3#4)
  | .lanexShfl d a b _ => some (14#7 ++ d ++ a ++ b ++ 0#4)
  | .lanexShflx d a b _ => some (14#7 ++ d ++ a ++ b ++ 1#4)
  | .lanexShflup d a b _ => some (14#7 ++ d ++ a ++ b ++ 2#4)
  | .lanexShfldn d a b _ => some (14#7 ++ d ++ a ++ b ++ 3#4)
  | .lanexBallot d p _ => some (14#7 ++ d ++ 0#2 ++ p ++ 4#11)
  | .lanexAny d p _ => some (14#7 ++ d ++ 0#2 ++ p ++ 5#11)
  | .lanexAll d p _ => some (14#7 ++ d ++ 0#2 ++ p ++ 6#11)
  | .lanexMatch d a _ => some (14#7 ++ d ++ a ++ 7#11)
  | .lanexRedadd d a _ => some (14#7 ++ d ++ a ++ 8#11)
  | .lanexRedmins d a _ => some (14#7 ++ d ++ a ++ 9#11)
  | .lanexRedmaxs d a _ => some (14#7 ++ d ++ a ++ 10#11)
  | .lanexRedand d a _ => some (14#7 ++ d ++ a ++ 11#11)
  | .lanexRedor d a _ => some (14#7 ++ d ++ a ++ 12#11)
  | .lanexRedxor d a _ => some (14#7 ++ d ++ a ++ 13#11)
  | .lanexNpath d _ => some (14#7 ++ d ++ 14#18)
  | .faddAdd d a b _ => some (15#7 ++ d ++ a ++ b ++ 0#4)
  | .faddSub d a b _ => some (15#7 ++ d ++ a ++ b ++ 1#4)
  | .faddMin d a b _ => some (15#7 ++ d ++ a ++ b ++ 2#4)
  | .faddMax d a b _ => some (15#7 ++ d ++ a ++ b ++ 3#4)
  | .faddAdd2h d a b _ => some (15#7 ++ d ++ a ++ b ++ 4#4)
  | .faddSub2h d a b _ => some (15#7 ++ d ++ a ++ b ++ 5#4)
  | .faddAdd2b d a b _ => some (15#7 ++ d ++ a ++ b ++ 6#4)
  | .faddSub2b d a b _ => some (15#7 ++ d ++ a ++ b ++ 7#4)
  | .faddAbs d a _ => some (15#7 ++ d ++ a ++ 8#11)
  | .faddNeg d a _ => some (15#7 ++ d ++ a ++ 9#11)
  | .faddCsgn d a b _ => some (15#7 ++ d ++ a ++ b ++ 10#4)
  | .fmulMul d a b _ => some (16#7 ++ d ++ a ++ b ++ 0#4)
  | .fmulMul2h d a b _ => some (16#7 ++ d ++ a ++ b ++ 1#4)
  | .fmulMul2b d a b _ => some (16#7 ++ d ++ a ++ b ++ 2#4)
  | .ffmaFma d a b _ => some (17#7 ++ d ++ a ++ b ++ 0#4)
  | .ffmaFma2h d a b _ => some (17#7 ++ d ++ a ++ b ++ 1#4)
  | .ffmaFma2b d a b _ => some (17#7 ++ d ++ a ++ b ++ 2#4)
  | .ffmaFms d a b _ => some (17#7 ++ d ++ a ++ b ++ 3#4)
  | .ffmaFnma d a b _ => some (17#7 ++ d ++ a ++ b ++ 4#4)
  | .fcmpEq pd comb a b _ => some (18#7 ++ pd ++ comb ++ a ++ b ++ 0#4)
  | .fcmpNe pd comb a b _ => some (18#7 ++ pd ++ comb ++ a ++ b ++ 1#4)
  | .fcmpLt pd comb a b _ => some (18#7 ++ pd ++ comb ++ a ++ b ++ 2#4)
  | .fcmpLe pd comb a b _ => some (18#7 ++ pd ++ comb ++ a ++ b ++ 3#4)
  | .fcmpGt pd comb a b _ => some (18#7 ++ pd ++ comb ++ a ++ b ++ 4#4)
  | .fcmpGe pd comb a b _ => some (18#7 ++ pd ++ comb ++ a ++ b ++ 5#4)
  | .fcmpUn pd comb a b _ => some (18#7 ++ pd ++ comb ++ a ++ b ++ 6#4)
  | .fcmpOrd pd comb a b _ => some (18#7 ++ pd ++ comb ++ a ++ b ++ 7#4)
  | .fspecRcp d a _ => some (19#7 ++ d ++ a ++ 0#11)
  | .fspecRsqrt d a _ => some (19#7 ++ d ++ a ++ 1#11)
  | .fspecSqrt d a _ => some (19#7 ++ d ++ a ++ 2#11)
  | .fspecExp2 d a _ => some (19#7 ++ d ++ a ++ 3#11)
  | .fspecLog2 d a _ => some (19#7 ++ d ++ a ++ 4#11)
  | .fspecSin d a _ => some (19#7 ++ d ++ a ++ 5#11)
  | .fspecCos d a _ => some (19#7 ++ d ++ a ++ 6#11)
  | .fspecTanh d a _ => some (19#7 ++ d ++ a ++ 7#11)
  | .cvt d a src tgt _ => some (20#7 ++ d ++ a ++ 0#3 ++ src ++ tgt)
  | .narrowDot4s d a b _ => some (21#7 ++ d ++ a ++ b ++ 0#4)
  | .narrowDot4n d a b _ => some (21#7 ++ d ++ a ++ b ++ 1#4)
  | .narrowDot4e4 d a b _ => some (21#7 ++ d ++ a ++ b ++ 2#4)
  | .narrowDot4e5 d a b _ => some (21#7 ++ d ++ a ++ b ++ 3#4)
  | .narrowDot2b d a b _ => some (21#7 ++ d ++ a ++ b ++ 4#4)
  | .narrowDot2h d a b _ => some (21#7 ++ d ++ a ++ b ++ 5#4)
  | .narrowCbdecb d a b _ => some (21#7 ++ d ++ a ++ b ++ 6#4)
  | .narrowCbdech d a b _ => some (21#7 ++ d ++ a ++ b ++ 7#4)
  | .narrowCbdecf d a b _ => some (21#7 ++ d ++ a ++ b ++ 8#4)
  | .narrowPke4 d a b _ => some (21#7 ++ d ++ a ++ b ++ 9#4)
  | .narrowPke5 d a b _ => some (21#7 ++ d ++ a ++ b ++ 10#4)
  | .narrowMxpk d a _ => some (21#7 ++ d ++ a ++ 11#11)
  | .narrowMxunpk d a b _ => some (21#7 ++ d ++ a ++ b ++ 12#4)
  | .narrowUpke4 d a _ => some (21#7 ++ d ++ a ++ 13#11)
  | .narrowUpke5 d a _ => some (21#7 ++ d ++ a ++ 14#11)
  | .f64Add d a b _ => some (22#7 ++ d ++ a ++ b ++ 0#4)
  | .f64Sub d a b _ => some (22#7 ++ d ++ a ++ b ++ 1#4)
  | .f64Mul d a b _ => some (22#7 ++ d ++ a ++ b ++ 2#4)
  | .f64Fma d a b _ => some (22#7 ++ d ++ a ++ b ++ 3#4)
  | .f64Min d a b _ => some (22#7 ++ d ++ a ++ b ++ 4#4)
  | .f64Max d a b _ => some (22#7 ++ d ++ a ++ b ++ 5#4)
  | .f64Abs d a _ => some (22#7 ++ d ++ a ++ 6#11)
  | .f64Neg d a _ => some (22#7 ++ d ++ a ++ 7#11)
  | .ld d a size hs off _ => some (23#7 ++ d ++ a ++ size ++ hs ++ off)
  | .st d a size hs off _ => some (24#7 ++ d ++ a ++ size ++ hs ++ off)
  | .ldl d a size hs off _ => some (25#7 ++ d ++ a ++ size ++ hs ++ off)
  | .stl d a size hs off _ => some (26#7 ++ d ++ a ++ size ++ hs ++ off)
  | .ldfe d a size hs off _ => some (27#7 ++ d ++ a ++ size ++ hs ++ off)
  | .stfe d a size hs off _ => some (28#7 ++ d ++ a ++ size ++ hs ++ off)
  | .atomAdd d a b _ => some (29#7 ++ d ++ a ++ b ++ 0#4)
  | .atomAnd d a b _ => some (29#7 ++ d ++ a ++ b ++ 1#4)
  | .atomOr d a b _ => some (29#7 ++ d ++ a ++ b ++ 2#4)
  | .atomXor d a b _ => some (29#7 ++ d ++ a ++ b ++ 3#4)
  | .atomXchg d a b _ => some (29#7 ++ d ++ a ++ b ++ 4#4)
  | .atomMins d a b _ => some (29#7 ++ d ++ a ++ b ++ 5#4)
  | .atomMaxs d a b _ => some (29#7 ++ d ++ a ++ b ++ 6#4)
  | .atomMinn d a b _ => some (29#7 ++ d ++ a ++ b ++ 7#4)
  | .atomMaxn d a b _ => some (29#7 ++ d ++ a ++ b ++ 8#4)
  | .atomAddf d a b _ => some (29#7 ++ d ++ a ++ b ++ 9#4)
  | .atomCas d a b _ => some (29#7 ++ d ++ a ++ b ++ 10#4)
  | .atomAdd64 d a b _ => some (29#7 ++ d ++ a ++ b ++ 11#4)
  | .atomXchg64 d a b _ => some (29#7 ++ d ++ a ++ b ++ 12#4)
  | .atomCas64 d a b _ => some (29#7 ++ d ++ a ++ b ++ 13#4)
  | .atomfxAdd a b _ => some (30#7 ++ 0#7 ++ a ++ b ++ 0#4)
  | .atomfxFetch d a b _ => some (30#7 ++ d ++ a ++ b ++ 1#4)
  | .pref a size hs off _ => some (31#7 ++ 0#7 ++ a ++ size ++ hs ++ off)
  | .br p neg disp _ => some (32#7 ++ p ++ neg ++ disp)
  | .brxJmp a _ => some (33#7 ++ 0#7 ++ a ++ 0#11)
  | .brxCall a _ => some (33#7 ++ 0#7 ++ a ++ 1#11)
  | .call p neg disp _ => some (34#7 ++ p ++ neg ++ disp)
  | .ctlRet _ => some (35#7 ++ 0#25)
  | .ctlExit _ => some (35#7 ++ 1#25)
  | .ctlYield _ => some (35#7 ++ 2#25)
  | .guestDispatch _ => some (36#7 ++ 0#25)
  | .guestDispatchRg _ => some (36#7 ++ 1#25)
  | .guestRdpc d _ => some (36#7 ++ d ++ 2#18)
  | .guestWrpc a _ => some (36#7 ++ 0#7 ++ a ++ 3#11)
  | .guestAddpc a _ => some (36#7 ++ 0#7 ++ a ++ 4#11)
  | .guestRdop d _ => some (36#7 ++ d ++ 5#18)
  | .guestWrop a _ => some (36#7 ++ 0#7 ++ a ++ 6#11)
  | .mmaAdd va vb acc shape _ => some (37#7 ++ va ++ vb ++ 0#1 ++ acc ++ shape ++ 0#4)
  | .mmaSet va vb acc shape _ => some (37#7 ++ va ++ vb ++ 0#1 ++ acc ++ shape ++ 1#4)
  | .mmaTri va vb acc shape _ => some (37#7 ++ va ++ vb ++ 0#1 ++ acc ++ shape ++ 2#4)
  | .mmaTriset va vb acc shape _ => some (37#7 ++ va ++ vb ++ 0#1 ++ acc ++ shape ++ 3#4)
  | .mfragRd d acc b _ => some (38#7 ++ d ++ 0#5 ++ acc ++ b ++ 0#4)
  | .mfragWr d acc b _ => some (38#7 ++ d ++ 0#5 ++ acc ++ b ++ 1#4)
  | .mfragZero acc _ => some (38#7 ++ 0#12 ++ acc ++ 2#11)
  | .usysNop _ => some (64#7 ++ 0#25)
  | .usysSvc a _ => some (64#7 ++ 0#6 ++ a ++ 1#13)
  | .usysTlbiva a b _ => some (64#7 ++ 0#6 ++ a ++ b ++ 2#7)
  | .usysTlbictx a _ => some (64#7 ++ 0#6 ++ a ++ 3#13)
  | .usysRti _ => some (64#7 ++ 4#25)
  | .usysBrk _ => some (64#7 ++ 5#25)
  | .ualuAdd d a b _ => some (65#7 ++ d ++ a ++ b ++ 0#7)
  | .ualuSub d a b _ => some (65#7 ++ d ++ a ++ b ++ 1#7)
  | .ualuAnd d a b _ => some (65#7 ++ d ++ a ++ b ++ 2#7)
  | .ualuOr d a b _ => some (65#7 ++ d ++ a ++ b ++ 3#7)
  | .ualuXor d a b _ => some (65#7 ++ d ++ a ++ b ++ 4#7)
  | .ualuShl d a b _ => some (65#7 ++ d ++ a ++ b ++ 5#7)
  | .ualuShr d a b _ => some (65#7 ++ d ++ a ++ b ++ 6#7)
  | .ualuSar d a b _ => some (65#7 ++ d ++ a ++ b ++ 7#7)
  | .ualuMul d a b _ => some (65#7 ++ d ++ a ++ b ++ 8#7)
  | .ualuMins d a b _ => some (65#7 ++ d ++ a ++ b ++ 9#7)
  | .ualuMaxs d a b _ => some (65#7 ++ d ++ a ++ b ++ 10#7)
  | .ualuMinn d a b _ => some (65#7 ++ d ++ a ++ b ++ 11#7)
  | .ualuMaxn d a b _ => some (65#7 ++ d ++ a ++ b ++ 12#7)
  | .uaddi d a imm _ => some (66#7 ++ d ++ a ++ imm)
  | .umovi d imm _ => some (67#7 ++ d ++ imm)
  | .umovhi d imm _ => some (68#7 ++ d ++ imm)
  | .ucmpEq q a b _ => some (69#7 ++ 0#3 ++ q ++ a ++ b ++ 0#7)
  | .ucmpNe q a b _ => some (69#7 ++ 0#3 ++ q ++ a ++ b ++ 1#7)
  | .ucmpLts q a b _ => some (69#7 ++ 0#3 ++ q ++ a ++ b ++ 2#7)
  | .ucmpLes q a b _ => some (69#7 ++ 0#3 ++ q ++ a ++ b ++ 3#7)
  | .ucmpGts q a b _ => some (69#7 ++ 0#3 ++ q ++ a ++ b ++ 4#7)
  | .ucmpGes q a b _ => some (69#7 ++ 0#3 ++ q ++ a ++ b ++ 5#7)
  | .ucmpLtn q a b _ => some (69#7 ++ 0#3 ++ q ++ a ++ b ++ 6#7)
  | .ucmpLen q a b _ => some (69#7 ++ 0#3 ++ q ++ a ++ b ++ 7#7)
  | .ucmpGtn q a b _ => some (69#7 ++ 0#3 ++ q ++ a ++ b ++ 8#7)
  | .ucmpGen q a b _ => some (69#7 ++ 0#3 ++ q ++ a ++ b ++ 9#7)
  | .ucmpQand q a b _ => some (69#7 ++ 0#3 ++ q ++ 0#3 ++ a ++ 0#3 ++ b ++ 10#7)
  | .ucmpQor q a b _ => some (69#7 ++ 0#3 ++ q ++ 0#3 ++ a ++ 0#3 ++ b ++ 11#7)
  | .ucmpQxor q a b _ => some (69#7 ++ 0#3 ++ q ++ 0#3 ++ a ++ 0#3 ++ b ++ 12#7)
  | .ubr q neg disp _ => some (70#7 ++ q ++ neg ++ disp)
  | .uld d a imm _ => some (71#7 ++ d ++ a ++ imm)
  | .ust d a imm _ => some (72#7 ++ d ++ a ++ imm)
  | .umovlFirst d a _ => some (73#7 ++ d ++ a ++ 0#13)
  | .umovlLane d a b _ => some (73#7 ++ d ++ a ++ b ++ 1#7)
  | .barArrive desc slot level _ => some (74#7 ++ desc ++ 0#6 ++ slot ++ level ++ 0#7)
  | .barArriveCnt desc addr slot level _ => some (74#7 ++ desc ++ addr ++ slot ++ level ++ 1#7)
  | .barWait desc slot level _ => some (74#7 ++ desc ++ 0#6 ++ slot ++ level ++ 2#7)
  | .barExpect desc slot level _ => some (74#7 ++ desc ++ 0#6 ++ slot ++ level ++ 3#7)
  | .barSync slot level _ => some (74#7 ++ 0#12 ++ slot ++ level ++ 4#7)
  | .waitc nl ns nc nt _ => some (75#7 ++ 0#9 ++ nl ++ ns ++ nc ++ nt)
  | .cpyLin desc addr slot level _ => some (76#7 ++ desc ++ addr ++ slot ++ level ++ 0#7)
  | .cpyRect desc addr slot level _ => some (76#7 ++ desc ++ addr ++ slot ++ level ++ 1#7)
  | .cpyTens desc addr slot level _ => some (76#7 ++ desc ++ addr ++ slot ++ level ++ 2#7)
  | .gatherIdx32 desc addr slot level _ => some (77#7 ++ desc ++ addr ++ slot ++ level ++ 0#7)
  | .gatherIdx64 desc addr slot level _ => some (77#7 ++ desc ++ addr ++ slot ++ level ++ 1#7)
  | .collAllred desc slot level _ => some (78#7 ++ desc ++ 0#6 ++ slot ++ level ++ 0#7)
  | .collRedsc desc slot level _ => some (78#7 ++ desc ++ 0#6 ++ slot ++ level ++ 1#7)
  | .collAllgat desc slot level _ => some (78#7 ++ desc ++ 0#6 ++ slot ++ level ++ 2#7)
  | .collBcast desc slot level _ => some (78#7 ++ desc ++ 0#6 ++ slot ++ level ++ 3#7)
  | .collSparse desc slot level _ => some (78#7 ++ desc ++ 0#6 ++ slot ++ level ++ 4#7)
  | .collAlltoall desc slot level _ => some (78#7 ++ desc ++ 0#6 ++ slot ++ level ++ 5#7)
  | .mdrainSt desc acc slot level _ => some (79#7 ++ desc ++ 0#4 ++ acc ++ slot ++ level ++ 0#7)
  | .mdrainAdd desc acc slot level _ => some (79#7 ++ desc ++ 0#4 ++ acc ++ slot ++ level ++ 1#7)
  | .gangList a _ => some (80#7 ++ 0#6 ++ a ++ 0#13)
  | .gangLease _ => some (80#7 ++ 1#25)
  | .gangRelease _ => some (80#7 ++ 2#25)
  | .gangBaton a _ => some (80#7 ++ 0#6 ++ a ++ 3#13)
  | .taskSpawn a _ => some (81#7 ++ 0#6 ++ a ++ 0#13)
  | .taskPhase a _ => some (81#7 ++ 0#6 ++ a ++ 1#13)
  | .taskMerge _ => some (81#7 ++ 2#25)
  | .migL imm _ => some (82#7 ++ 0#13 ++ imm)
  | .migD imm _ => some (82#7 ++ 128#13 ++ imm)
  | .migAuto imm _ => some (82#7 ++ 256#13 ++ imm)
  | .regaGrowWait n _ => some (83#7 ++ 0#12 ++ n)
  | .regaGrowTry q n _ => some (83#7 ++ 8#9 ++ q ++ n)
  | .regaShrink n _ => some (83#7 ++ 128#12 ++ n)
  | .sysr d num _ => some (84#7 ++ d ++ 0#7 ++ num)
  | .sysw a num _ => some (85#7 ++ 0#6 ++ a ++ 0#1 ++ num)
  | .fenceSysRel _ => some (86#7 ++ 0#25)
  | .fenceSysAcq _ => some (86#7 ++ 1#25)
  | .fenceSysFull _ => some (86#7 ++ 2#25)
  | .handleAlloc d a b _ => some (87#7 ++ d ++ a ++ b ++ 0#7)
  | .handleRetire a _ => some (87#7 ++ 0#6 ++ a ++ 1#13)
  | .handleFill a _ => some (87#7 ++ 0#6 ++ a ++ 2#13)
  | .handleClear a _ => some (87#7 ++ 0#6 ++ a ++ 3#13)
  | .handleSumm d a _ => some (87#7 ++ d ++ a ++ 4#13)
  | .handleShape d a _ => some (87#7 ++ d ++ a ++ 5#13)
  | .bfqBind desc addr _ => some (88#7 ++ desc ++ addr ++ 0#13)
  | .bfqJoin desc addr slot level _ => some (88#7 ++ desc ++ addr ++ slot ++ level ++ 1#7)
  | .bfqUnbind a _ => some (88#7 ++ 0#6 ++ a ++ 2#13)
  | .perfRd d a _ => some (89#7 ++ d ++ a ++ 0#13)
  | .perfSel a b _ => some (89#7 ++ 0#6 ++ a ++ b ++ 1#7)
  | .perfMark a _ => some (89#7 ++ 0#6 ++ a ++ 2#13)
  | .perfSample a _ => some (89#7 ++ 0#6 ++ a ++ 3#13)
  | _ => none

/-- The words of an instruction: its extension words, then its base word. -/
def encode (i : Instr) : List Word :=
  match i.base with
  | none => []
  | some w => (match i.lext, i.uext with
      | some x, _ => x.words
      | _, some x => x.words
      | _, _ => []) ++ [w]

/-- Table 22-2: the lane MOD word has a field that the instruction does not accept. -/
def modReserved (i : Instr) : Bool := (i.lext.map fun x => i.accept.cause { x with mem := none }) = some (some 0x02)

/-- R389 to R395: an instruction, or the cause and the word of the first broken rule, lowest cause first (R343). -/
def judge (es : List Word) (w : Word) (i : Option Instr) : Except (Nat × Word) Instr :=
  match i with
  | none => .error (0x01, w)
  | some i => match i.staticCause with
    | some 0x01 => .error (0x01, match i.lext with
        | some x => extInfo es (if x.imm.isSome && !i.accept.imm then [0] else if x.mem.isSome && !i.accept.mem then [3]
            else if x.mod.isSome && !i.accept.mod then [1] else []) w
        | none => extInfo es [0] w)
    | c => match es.find? fun e => !extReservedOk e with
      | some e => .error (0x02, if modReserved i then extInfo es [1] e else e)
      | none =>
        if c = some 0x02 then .error (0x02, extInfo es (match i.lext with
          | some x => if i.accept.cause { x with mem := none } = some 0x02 then [1] else [3]
          | none => [1]) w)
        else if i.base ≠ some w then .error (0x02, w)
        else match c with
          | some k => .error (k, if (i.lext.map fun x => i.accept.cause x) = some (some 0x05) then extInfo es [1] w else w)
          | none => .ok i

/-- R169: the instruction that starts at the first word of a list, with its length in words. The list ends where the
body ends. A run whose words lie in both halves traps as its first word's half does. DESIGN CHOICE, log 148. -/
noncomputable def decodeWords (ws : List Word) : Except BadWord (Instr × Nat) :=
  let (es, rest) := splitExts ws
  match rest with
  | [] =>
    let u := match es with
      | [] => false
      | e :: _ => isUniform e
    let (c, info) := (seqFault es none).getD (0x01, 0)
    .error (badRun es u c info (max es.length 1))
  | w :: _ =>
    let u := match es with
      | [] => isUniform w
      | e :: _ => isUniform e
    let len := es.length + 1
    match seqFault es (some w) with
    | some (c, info) => .error (badRun es u c info len)
    | none =>
      match judge es w (if u then decodeUniformBase w (uextOf es) else decodeLaneBase w (lextOf es)) with
      | .ok i => .ok (i, len)
      | .error (c, info) => .error (badRun es u c info len)

/-- R4: the words of a list of bytes, little-endian; bytes that do not fill a word are dropped. -/
def wordsOfBytes : List Byte → List Word
  | b0 :: b1 :: b2 :: b3 :: bs => (b3 ++ b2 ++ b1 ++ b0) :: wordsOfBytes bs
  | _ => []

/-- R4: the bytes of a word, little-endian. -/
def bytesOfWord (w : Word) : List Byte := [w.extractLsb' 0 8, w.extractLsb' 8 8, w.extractLsb' 16 8, w.extractLsb' 24 8]

/-- The decoder on bytes: the instruction that starts at the first byte, with its length in words. -/
noncomputable def decode (bs : List Byte) : Except BadWord (Instr × Nat) := decodeWords (wordsOfBytes bs)

/-- The instruction the decoder reads from an instruction numbered as the opcode table numbers it: bit 0 is the least
significant bit of the first word, later words count on, bits above `nbits` are zero. Five words hold the longest
instruction. -/
noncomputable def decodeTableWord (nbits w : Nat) : Option Instr :=
  let n := w % 2 ^ nbits
  match decode ((List.range 20).map fun k => BitVec.ofNat 8 (n / 2 ^ (8 * k))) with
  | .ok (i, _) => some i
  | .error _ => none

end Sys2Proof
end

