-- ==== Sys2Proof/Machine/Operands.lean ====
section
/-! DEFINITION. Operand forms (R173 to R178, R189) and how a lane or uniform instruction runs for the path that issues it
(R31, R44, R45, R190, R342, R396): guard, register checks, the effect lane by lane, where each lane goes next, and the
trap records of the lanes that raise one. -/

namespace Sys2Proof.Machine

open Sys2Proof

/-! ### Registers -/

/-- Lane register `n` of a lane. -/
def Lane.reg (l : Lane) (n : Nat) : Word := cget 0 l.regs n

/-- A lane with one register written. -/
def Lane.setReg (l : Lane) (n : Nat) (v : Word) : Lane := { l with regs := cput 0 l.regs n v }

/-- R189, USRC. -/
def Group.usrc (g : Group) (n : Nat) : DWord := cget 0 g.ureg n

/-- R189, UDST. -/
def Group.udst (g : Group) (n : Nat) (v : DWord) : Group := { g with ureg := cput 0 g.ureg n v }

/-- R173: a field names a uniform register s0 to s15. -/
def namesUniform (f : BitVec 7) : Bool := 112 ≤ f.toNat

/-- R189, LSRC of 32 bits. -/
def src32 (g : Group) (l : Lane) (f : BitVec 7) : Word :=
  if namesUniform f then (g.usrc (f.toNat - 112)).setWidth 32 else l.reg f.toNat

/-- R189, LSRC of 64 bits: the even register holds bits 31:0. -/
def src64 (g : Group) (l : Lane) (f : BitVec 7) : DWord :=
  if namesUniform f then g.usrc (f.toNat - 112) else l.reg (f.toNat + 1) ++ l.reg f.toNat

/-- R189, LSRC of 128 bits: four lane registers, the first holding bits 31:0. -/
def src128 (l : Lane) (f : BitVec 7) : BitVec 128 :=
  ((l.reg (f.toNat + 3) ++ l.reg (f.toNat + 2)) ++ l.reg (f.toNat + 1)) ++ l.reg f.toNat

/-- R189, LDST of 32 bits. -/
def Lane.dst32 (l : Lane) (f : BitVec 7) (v : Word) : Lane := l.setReg f.toNat v

/-- R189, LDST of 64 bits. -/
def Lane.dst64 (l : Lane) (f : BitVec 7) (v : DWord) : Lane :=
  (l.setReg f.toNat (v.setWidth 32)).setReg (f.toNat + 1) (v.extractLsb' 32 32)

/-- R189, LDST of 128 bits. -/
def Lane.dst128 (l : Lane) (f : BitVec 7) (v : BitVec 128) : Lane :=
  (((l.setReg f.toNat (v.setWidth 32)).setReg (f.toNat + 1) (v.extractLsb' 32 32)).setReg (f.toNat + 2)
    (v.extractLsb' 64 32)).setReg (f.toNat + 3) (v.extractLsb' 96 32)

/-- R189, LDST of the low `bits` bits (32, 64 or 128) of a number. -/
def Lane.dstBits (l : Lane) (f : BitVec 7) (bits x : Nat) : Lane :=
  if bits = 128 then l.dst128 f (BitVec.ofNat 128 x)
  else if bits = 64 then l.dst64 f (BitVec.ofNat 64 x)
  else l.dst32 f (BitVec.ofNat 32 x)

/-- R189, LSRC of 32, 64 or 128 bits as a number. -/
def srcBits (g : Group) (l : Lane) (f : BitVec 7) (bits : Nat) : Nat :=
  if bits = 128 then (src128 l f).toNat else if bits = 64 then (src64 g l f).toNat else (src32 g l f).toNat

/-- R189, PRD: field values 24 to 31 read true. -/
def Lane.prd (l : Lane) (f : BitVec 5) : Bool := if f.toNat < 24 then l.preds.getLsbD f.toNat else true

/-- A lane with one predicate written; field values from 24 on discard. -/
def Lane.setPred (l : Lane) (n : Nat) (v : Bool) : Lane :=
  if n < 24 then
    { l with preds := if v then l.preds ||| BitVec.ofNat 24 (2 ^ n) else l.preds &&& ~~~(BitVec.ofNat 24 (2 ^ n)) }
  else l

/-- R189, PWR: by comb, the result, or its AND, OR or XOR with the predicate. -/
def Lane.pwr (l : Lane) (pd : BitVec 5) (comb : BitVec 2) (t : Bool) : Lane :=
  l.setPred pd.toNat (match comb.toNat with
    | 0 => t
    | 1 => l.prd pd && t
    | 2 => l.prd pd || t
    | _ => xor (l.prd pd) t)

/-- R189, QRD: field value 7 reads true. -/
def Group.qrd (g : Group) (q : Nat) : Bool := if q < 7 then g.upred.getLsbD q else true

/-- R189, QWR: field value 7 discards. -/
def Group.qwr (g : Group) (q : Nat) (v : Bool) : Group :=
  if q < 7 then
    { g with upred := if v then g.upred ||| BitVec.ofNat 7 (2 ^ q) else g.upred &&& ~~~(BitVec.ofNat 7 (2 ^ q)) }
  else g

/-! ### Immediates, guards and modifiers -/

/-- R176: an immediate field of width `n`, widened by the IMM word when there is one: the value and its width. -/
def immNat (imm : Option (BitVec 23)) (field n : Nat) : Nat × Nat :=
  match imm with
  | some k => (k.toNat * 2 ^ n + field, n + 23)
  | none => (field, n)

/-- R189, IMMV read signed. -/
def immS (imm : Option (BitVec 23)) (field n : Nat) : Int := sext (immNat imm field n).1 (immNat imm field n).2

/-- R189, IMMV read unsigned. -/
def immU (imm : Option (BitVec 23)) (field n : Nat) : Nat := (immNat imm field n).1

/-- R189, GUARD: without a MOD word every lane executes. -/
def guardHolds (x : LExt) (l : Lane) : Bool :=
  match x.mod with
  | some m => xor (l.prd m.p) m.neg
  | none => true

/-- R177: the guard of a uniform instruction. -/
def uguardHolds (x : UExt) (g : Group) : Bool :=
  match x.mod with
  | some m => xor (g.qrd m.q.toNat) m.neg
  | none => true

/-- R147, R156: the instruction carries `.sat`. -/
def satOf (x : LExt) : Bool := (x.mod.map LMod.sat).getD false

/-- R157: the instruction carries `.ftz`. -/
def ftzOf (x : LExt) : Bool := (x.mod.map LMod.ftz).getD false

/-! ### The issuing path -/

/-- The issuing path as a meaning sees it. -/
structure Path where
  iss : Issue
  b : Block
  g : Group
  deriving DecidableEq, Repr

/-- R190, R274: a group as an instruction reads it: one that has waited reads the uniform registers and predicates as they were when it
issued. -/
def Group.asRead (g : Group) (lanes : BitVec 32) : Group :=
  match (maskLanes lanes).findSome? fun i => (g.lane i).seen with
  | some r => { g with ureg := r.1, upred := r.2 }
  | none => g

/-- The path that issues, when it names a resident group. -/
def pathOf (s : State) : Option Path :=
  (blockOf s s.cur.blk).bind fun b => (b.group s.cur.grp).map fun g => { iss := s.cur, b := b, g := g.asRead s.cur.lanes }

/-- The live lanes of the issuing path, in ascending number. -/
def Path.lanes (p : Path) : List Nat := (maskLanes p.iss.lanes).filter fun i => (p.g.lane i).live

/-- R219: the live lanes of the path whose guard holds. -/
def Path.exec (p : Path) (x : LExt) : List Nat := p.lanes.filter fun i => guardHolds x (p.g.lane i)

/-- R402: the path's instruction has issued before, and waits since. -/
def Path.again (p : Path) : Bool := p.lanes.any fun i => (p.g.lane i).seen.isSome

/-- The lowest live lane of the path (R344). -/
def Path.lead (p : Path) : Nat := p.lanes.headD 0

/-- R396: the lane registers of an operand lie below the group's budget. -/
def LaneUse.within (budget : Nat) : LaneUse → Bool
  | .source f n | .dest f n => namesUniform f || f.toNat + n / 32 ≤ 8 * budget
  | .laneOnly f => f.toNat < 8 * budget

/-- R396: every lane register that the instruction names lies below the budget. -/
def inBudget (i : Instr) (g : Group) : Bool := i.uses.all (LaneUse.within g.budget)

/-- Instructions whose d field is also a source (Table 8-6). -/
def readsD : Instr → Bool
  | .imulMad _ _ _ _ | .ibitBfi _ _ _ _ | .cmovNz _ _ _ _ | .cmovZ _ _ _ _ | .ffmaFma _ _ _ _ | .ffmaFma2h _ _ _ _
  | .ffmaFma2b _ _ _ _ | .ffmaFms _ _ _ _ | .ffmaFnma _ _ _ _ | .narrowDot4s _ _ _ _ | .narrowDot4n _ _ _ _
  | .narrowDot4e4 _ _ _ _ | .narrowDot4e5 _ _ _ _ | .narrowDot2b _ _ _ _ | .narrowDot2h _ _ _ _ | .f64Fma _ _ _ _ => true
  | _ => false

/-- The lane registers that an operand's registers are, from the first on. -/
def regRange (f : BitVec 7) (n : Nat) : List Nat :=
  if namesUniform f then [] else (List.range (n / 32)).map fun k => f.toNat + k

/-- The lane registers that an instruction reads. -/
def readRegs (i : Instr) : List Nat :=
  i.uses.flatMap fun u => match u with
    | .source f n => regRange f n
    | .dest f n => if readsD i then regRange f n else []
    | .laneOnly _ => []

/-- The lane registers that an instruction writes. -/
def writtenRegs (i : Instr) : List Nat :=
  i.uses.flatMap fun u => match u with
    | .dest f n => regRange f n
    | _ => []

/-- R117: the register-window offset of a lane register. -/
def windowOff (g lane n : Nat) : Nat := 0x40000000 + 0x4000 * g + (n * 32 + lane) * 4

/-- R415: the first poisoned register that the lane's operands touch. -/
def poisonedReg (s : State) (p : Path) (i : Instr) (lane : Nat) : Option Nat :=
  (readRegs i).find? fun n => s.poison.any fun u => u.1 = .reg p.iss.blk p.iss.grp lane n

/-- R391: the word that names a register beyond the budget: the MOD word when only its random operand is one, else the base word. -/
def overWord (p : Path) (i : Instr) (x : LExt) : Word :=
  if ((auxUse x).foldl List.erase i.uses).all (LaneUse.within p.g.budget) then (x.mod.map LMod.word).getD p.iss.word else p.iss.word

/-- R396, R415: what stops a lane before its effect begins: a register beyond the budget, or a poisoned operand. -/
def laneCheck (s : State) (p : Path) (i : Instr) (x : LExt) (lane : Nat) : Option Trap :=
  if !inBudget i p.g then some { cause := 0x05, info := (overWord p i x).setWidth 64 }
  else match poisonedReg s p i lane with
    | some n => some { cause := 0x3C, addr := BitVec.ofNat 64 (windowOff p.iss.grp lane n) }
    | none => none

/-- R415: a register that an instruction writes whole is poisoned no more. -/
def unpoison (s : State) (p : Path) (i : Instr) (lanes : List Nat) : State :=
  { s with poison := s.poison.filter fun u => match u.1 with
      | .reg b g l n => !(b = p.iss.blk && g = p.iss.grp && lanes.contains l && (writtenRegs i).contains n)
      | _ => true }

/-- R190: a lane at the instruction after, its ONCE bit cleared (R352). -/
def Lane.advance (l : Lane) (next : DWord) : Lane := { l with npc := next, once := false, seen := none }

/-- What a lane of a lane instruction ends as: the lane, and the trap it raises. -/
abbrev LaneEnd := Lane × Option Trap

/-- R190, R342: a lane of the path under a lane instruction: the guard, the checks, then the effect, given the lane at NEXT
as it ends when the effect sets no native PC. Of the cause of a check and one of the effect, the lower code counts (R343). -/
def laneEnd (s : State) (p : Path) (i : Instr) (x : LExt) (f : Nat → Lane → Lane → LaneEnd) (n : Nat) : LaneEnd :=
  let l := p.g.lane n
  if !guardHolds x l then (l.advance p.iss.next, none)
  else match laneCheck s p i x n with
    | some t => match f n l (l.advance p.iss.next) with
      | (m, some u) => if u.cause < t.cause then (m, some u) else (l, some t)
      | _ => (l, some t)
    | none => f n l (l.advance p.iss.next)

/-- R341, R410: the records of the lanes that trap, in ascending lane. -/
def raiseLanes (s : State) (p : Path) (ts : List (Nat × Trap)) : State := trapLanes s p.iss.blk p.iss.grp false ts

/-- R190: A LANE INSTRUCTION whose effect is on its own lane alone: `f` gives, from the lane number, the lane before the
instruction, and that lane at NEXT, the lane after it. -/
def laneTrap (i : Instr) (x : LExt) (f : Path → Nat → Lane → Lane → LaneEnd) (s : State) : Out :=
  match pathOf s with
  | none => .fault .noIssuer
  | some p =>
    let ends := p.lanes.map fun n => (n, laneEnd s p i x (f p) n)
    let after := fun n l => match ends.find? fun e => e.1 = n with
      | some e => e.2.1
      | none => l
    let done := (ends.filter fun e => e.2.2.isNone && guardHolds x (p.g.lane e.1)).map Prod.fst
    let s := modGroup s p.iss.blk p.iss.grp fun g => { g with lanes := g.lanes.mapIdx after }
    let s := unpoison s p i done
    .next (raiseLanes s p (ends.filterMap fun e => e.2.2.map fun t => (e.1, t)))

/-- A lane instruction that raises no trap of its own. -/
def laneMap (i : Instr) (x : LExt) (f : Path → Nat → Lane → Lane → Lane) (s : State) : Out :=
  laneTrap i x (fun p n l m => (f p n l m, none)) s

/-- R130: the order in which the lanes of one instruction make their accesses: the model's `laneOrder`, then the others. -/
def accessOrder (order lanes : List Nat) : List Nat :=
  let first := (order.filter lanes.contains).eraseDups
  first ++ lanes.filter fun n => !first.contains n

/-! ### Uniform instructions -/

/-- How a uniform instruction ends for its path. -/
inductive UEnd where
  /-- Done: the lanes of the path go to NEXT. -/
  | done (s : State)
  /-- Done: the lanes go to an address. -/
  | goto (s : State) (pc : DWord)
  /-- The lanes stay where the state has them: held, ended or moved. -/
  | stay (s : State)
  /-- A trap that leaves the path at the instruction. -/
  | trap (s : State) (t : Trap)
  /-- A trap whose resume point is NEXT (SVC, NATIVE_BREAK). -/
  | trapNext (s : State) (t : Trap)

/-- The lanes of the issuing path that are still live, moved to an address. -/
def pathTo (s : State) (p : Path) (pc : DWord) : State :=
  modGroup s p.iss.blk p.iss.grp fun g => g.modLanes p.lanes fun _ l => if l.live then { l.advance pc with hold := .none } else l

/-- R274: what a lane held for a reason keeps of the values that its instruction has read. -/
def Path.keeps (p : Path) : Hold → Option (Cells DWord × BitVec 7)
  | .retry _ => some (p.g.ureg, p.g.upred)
  | _ => none

/-- The lanes of the issuing path, held at the instruction. -/
def pathHold (s : State) (p : Path) (h : Hold) : State :=
  modGroup s p.iss.blk p.iss.grp fun g => g.modLanes p.lanes fun _ l => { l with hold := h, once := false, seen := p.keeps h }

/-- The issuing group, changed. -/
def pathGroup (s : State) (p : Path) (f : Group → Group) : State := modGroup s p.iss.blk p.iss.grp f

/-- The issuing block, changed. -/
def pathBlock (s : State) (p : Path) (f : Block → Block) : State := modBlock s p.iss.blk f

/-- What becomes of the path as a uniform instruction ends (R190, R342, R344). -/
def UEnd.out (p : Path) : UEnd → Out
  | .done s => .next (pathTo s p p.iss.next)
  | .goto s pc => .next (pathTo s p pc)
  | .stay s => .next s
  | .trap s t => .next (trapGroup s p.iss.blk p.iss.grp p.lead t)
  | .trapNext s t => .next (trapGroup (pathTo s p p.iss.next) p.iss.blk p.iss.grp p.lead t)

/-- R44, R177: A UNIFORM INSTRUCTION: one execution for the path when its guard holds; otherwise the path goes on. -/
def uniform (x : UExt) (f : Path → State → UEnd) (s : State) : Out :=
  match pathOf s with
  | none => .fault .noIssuer
  | some p => if uguardHolds x p.g then (f p s).out p else (UEnd.done s).out p

/-- R354: the different native PCs at which live lanes of a group are held for reconvergence. -/
def heldPcs (g : Group) : List DWord :=
  ((g.live.filter fun i => (g.lane i).hold = .reconv).map fun i => (g.lane i).npc).eraseDups

/-- R354: every live lane is held for reconvergence, at two or more native PCs. -/
def diverged (g : Group) : Bool := g.live.all (fun i => (g.lane i).hold = .reconv) && 1 < (heldPcs g).length

/-- R354: raises BAR_DIVERGED in a group whose held lanes can never meet. -/
def checkDiverged (s : State) (bid gi : Nat) : State :=
  match groupOf s bid gi with
  | none => s
  | some g =>
    if diverged g && g.stop.isNone then
      let low := g.live.headD 0
      let pc := (g.lane low).npc
      let other := ((heldPcs g).find? fun q => q ≠ pc).getD pc
      trapGroup s bid gi low { cause := 0x19, addr := other, info := BitVec.ofNat 64 (heldPcs g).length }
    else s

/-- R45, R30: every live lane of the group is at the instruction. -/
def reconverged (p : Path) : Bool := p.g.live.all fun i => p.lanes.contains i

/-- R45: a path that waits for reconvergence is held until every live lane of its group is held there. -/
def holdReconv (s : State) (p : Path) : State := checkDiverged (pathHold s p .reconv) p.iss.blk p.iss.grp

/-- R45, R268: a uniform instruction that is held for reconvergence; its guard is looked at after that. -/
def uniformConv (x : UExt) (f : Path → State → UEnd) (s : State) : Out :=
  match pathOf s with
  | none => .fault .noIssuer
  | some p =>
    if reconverged p then
      let s := pathHold s p .none
      if uguardHolds x p.g then (f p s).out p else (UEnd.done s).out p
    else .next (holdReconv s p)

end Sys2Proof.Machine
end

