-- ==== Sys2Proof/Machine/Phys.lean ====
section
/-! DEFINITION. Physical memory: translation (R104 to R109), the classes of physical memory with the pool's lines, queue and leases
(R138 to R140) and format windows (R112), the places of an access and their bytes, poison (R414, R415), and unpublished engine data with
its taking a place in the order (R133, R134). -/

namespace Sys2Proof.Machine

open Sys2Proof

/-- Why an access is not made: a trap, a unit that another partition owns (R410), or a link that is down and not yet given up
(R412, R413). -/
inductive NoAccess where
  | trap (t : Trap)
  | foreign (target : DWord)
  | wait
  deriving DecidableEq, Repr

/-- Reads, writes, and atomics or full/empty operations, which do both. -/
inductive AccessKind where
  | read | write | rmw
  deriving DecidableEq, Repr

/-- On whose behalf an access is made: partition, context, translation context, privilege, core. -/
structure Who where
  part : Nat
  ctx : Nat
  trc : Nat
  level1 : Bool
  core : Nat
  deriving DecidableEq, Repr

/-- The accesses of a block translate through the translation context its graph names (R106). -/
def whoOf (s : State) (b : Block) : Who :=
  { part := b.part, ctx := b.ctx, trc := ((versionOf s b.ver).map Version.trc).getD 0, level1 := b.level1, core := b.core }

/-- A number for a free value that is drawn at lane `lane`, item `k`, of this step. -/
def drawOf (s : State) (lane k : Nat) : Nat := (s.tick * 4096 + lane) * 1024 + k

/-- R230: a lane whose thread has ended: what its registers and coordinates hold is open. -/
def deadLane (draw budget : Nat) : Lane :=
  { tid := (Config.deadRegister (draw + 500)).setWidth 16
    gop := (Config.deadRegister (draw + 501)).setWidth 8
    preds := (Config.deadRegister (draw + 502)).setWidth 24
    gpc := Config.deadRegister (draw + 503) ++ Config.deadRegister (draw + 504)
    npc := Config.deadRegister (draw + 505) ++ Config.deadRegister (draw + 506)
    regs := ((List.range (8 * budget)).map fun n => (n, Config.deadRegister (draw + n))).filter fun q => q.2 ≠ 0 }

/-! ### Physical addresses -/

/-- Table 5-2: the class of a physical address. -/
def paClass (pa : Nat) : Nat := pa / 2 ^ 44

/-- R105, R107: a DRAM address in a channel that the partition owns. -/
def dramOwned (d : Desc) (pa : Nat) : Bool :=
  paClass pa = 0 && pa / 2 ^ 33 < 64 && pa % 2 ^ 33 < 6 * 2 ^ 30 && d.chan.contains (pa / 2 ^ 33)

/-- R105: an offset within some window of a list of bases and sizes in 2 MiB units. -/
def inWindows (ws : List (Nat × Nat)) (a : Nat) : Bool :=
  ws.any fun w => w.1 * 2 ^ 21 ≤ a && a < (w.1 + w.2) * 2 ^ 21

/-- The pool windows that a partition's contexts may use: the descriptor's, within the grants made (R310). -/
def poolOwned (d : Desc) (pa : Nat) : Bool := paClass pa = 1 && inWindows d.poolw (pa % 2 ^ 44)

/-- The host-visible windows of a partition. -/
def hostOwned (d : Desc) (pa : Nat) : Bool := paClass pa = 2 && inWindows (d.hostw.map fun w => (w.1, w.2.1)) (pa % 2 ^ 44)

/-- R413: the pool's window that holds an address is lost with the pool; R412: the lost host-visible window. -/
def hostLost (q : Part) (pa : Nat) : Bool :=
  q.lost.any fun k => match q.desc.hostw[k]? with
    | some w => inWindows [(w.1, w.2.1)] (pa % 2 ^ 44)
    | none => false

/-- R367: the frame of a code version of the partition. -/
def versionFrame (s : State) (part pa : Nat) : Bool := s.versions.any fun v => v.part = part && v.frames.contains (pa / Config.pageBytes)

/-! ### Poison -/

/-- R415: the unit is poisoned. -/
def isPoisoned (s : State) (u : PoisonUnit) : Bool := s.poison.any fun p => p.1 = u

/-- R414: the bytes of a unit. -/
def unitBytes : PoisonUnit → Nat
  | .line _ | .l2 _ => 64
  | .reg _ _ _ _ | .acc _ _ _ => 4
  | .unowned _ _ => 0
  | _ => 16

/-- R414: the unit that an error poisons: a line has one poison, wherever the error met it. -/
def heldUnit : PoisonUnit → PoisonUnit
  | .l2 pa => .line pa
  | u => u

/-- R414: a unit becomes poisoned; what stores wrote of it before counts no more. -/
def addPoison (s : State) (u : PoisonUnit) : State := { s with poison := (s.poison.filter fun p => p.1 ≠ u) ++ [(u, [])] }

/-- R415: bytes of a unit are written; the unit is poisoned no more once all of them have been. -/
def coverPoison (s : State) (u : PoisonUnit) (off n : Nat) : State :=
  { s with poison := s.poison.filterMap fun p =>
      if p.1 = u then
        let done := (List.range n).foldl (fun d k => sinsert d (off + k)) p.2
        if done.length < unitBytes u then some (u, done) else none
      else some p }

/-- R78: what is left of an ended unit. -/
def shadeOf (s : State) (sp : FeSpace) : Option Shade := s.shades.find? fun h => h.space = sp

/-- The state with what is left of an ended unit changed. -/
def modShade (s : State) (sp : FeSpace) (f : Shade → Shade) : State :=
  { s with shades := s.shades.map fun h => if h.space = sp then f h else h }

/-- A byte of what is left of an ended unit. -/
def shadeByte (s : State) (sp : FeSpace) (o : Nat) : Byte := ((shadeOf s sp).map fun h => mget h.mem o).getD 0

/-! ### Translation -/

/-- R104: bits 63:57 all equal bit 56. -/
def canonical (va : DWord) : Bool := va.extractLsb' 57 7 = if va.getLsbD 56 then 127#7 else 0#7

/-- R106: the levels of a walk: number, lowest index bit, index bits. -/
def walkLevels : List (Nat × Nat × Nat) := [(0, 48, 9), (1, 39, 9), (2, 30, 9), (3, 21, 9), (4, 16, 5)]

/-- R107: MT agrees with the class of the page. -/
def mtAgrees (mt cls : Nat) : Bool := (mt = 0 && (cls = 0 || cls = 3)) || (mt = 1 && cls = 1) || (mt = 2 && cls = 2)

/-- R107, R374: the walk from a table on: page base, page size and leaf, or the trap it ends with. -/
def walkFrom (s : State) (d : Desc) (va : DWord) : List (Nat × Nat × Nat) → Nat → Except Trap (Nat × Nat × DWord)
  | [], _ => .error { cause := 0x09, addr := va, info := 0xF }
  | (lvl, lo, n) :: rest, tab =>
    let ea := tab + 8 * bits va.toNat lo n
    if isPoisoned s (.line (ea / 64 * 64)) then .error { cause := 0x3C, addr := va }
    else
      let e := leNat (mgets s.dram ea 8)
      let bad : Except Trap (Nat × Nat × DWord) := .error { cause := 0x09, addr := va, info := BitVec.ofNat 64 (8 + lvl) }
      if e % 2 = 0 then .error { cause := 0x09, addr := va, info := BitVec.ofNat 64 lvl }
      else if lvl = 4 || (2 ≤ lvl && bits e 1 1 = 1) then
        let base := bits e 12 40 * 4096 / 2 ^ lo * 2 ^ lo
        if mtAgrees (bits e 8 2) (paClass base) then .ok (base, 2 ^ lo, BitVec.ofNat 64 e) else bad
      else if bits e 1 1 = 1 || (lvl ≤ 2 && bits e 8 4 ≠ 0) then bad
      else
        let next := if lvl = 3 then bits e 8 44 * 256 else bits e 12 40 * 4096
        if dramOwned d next then walkFrom s d va rest next else bad

/-- R105: the TRC word of a translation context. -/
def trcOf (s : State) (part ctx trc : Nat) : DWord := ((ctxOf s part ctx).trc[trc]?).getD 0

/-- R106: a walk from a TRC word. -/
def walkBy (s : State) (part : Nat) (t va : DWord) : Except Trap (Nat × Nat × DWord) :=
  let d := (partOf s part).desc
  let root := bits t.toNat 12 40 * 4096
  if !t.getLsbD 0 then .error { cause := 0x09, addr := va, info := 7 }
  else if dramOwned d root then walkFrom s d va walkLevels root
  else .error { cause := 0x09, addr := va, info := 8 }

/-- R106: a walk of a translation context. -/
def walk (s : State) (part ctx trc : Nat) (va : DWord) : Except Trap (Nat × Nat × DWord) := walkBy s part (trcOf s part ctx trc) va

/-- R108: the TLBs that the accesses of a core go through, nearest first. -/
def coreTlbs (core : Nat) : List TlbUnit := [.core core, .const (Config.constOf core), .die (Config.dieOf core)]

/-- R108: the last-level TLBs of the module. -/
def dieTlbs : List TlbUnit := (List.range Config.dies).map TlbUnit.die

/-- R108: the entry translates an address of a translation context. -/
def TlbEntry.covers (e : TlbEntry) (part ctx trc va : Nat) : Bool :=
  e.part = part && e.ctx = ctx && e.trc = trc && decide (e.va ≤ va) && decide (va < e.va + e.size)

/-- R108: the entry for an address in the first of some TLBs that holds one. -/
def tlbHit (s : State) (us : List TlbUnit) (part ctx trc va : Nat) : Option TlbEntry :=
  us.findSome? fun u => s.tlb.find? fun e => e.unit = u && e.covers part ctx trc va

/-- R108: the entries among which a new one of a unit must find room, when they leave none. -/
def tlbFull (s : State) (e : TlbEntry) : Option (List TlbEntry) :=
  let here := s.tlb.filter fun k => k.unit = e.unit
  match e.unit with
  | .core _ => if here.length < Config.coreTlb then none else some here
  | .const _ => if here.length < Config.constTlb then none else some here
  | .die _ =>
    let setOf := fun (k : TlbEntry) => Config.tlbSet k.va k.size % Config.dieTlbSets
    if here.length < Config.dieTlbWays then none
    else
      let mine := here.filter fun k => setOf k = setOf e
      if mine.length < Config.dieTlbWays then none else some mine

/-- R108: an entry enters its TLB; a full one gives up an entry for it, which one is open. -/
def tlbFill (s : State) (draw : Nat) (e : TlbEntry) : State :=
  if s.tlb.contains e then s
  else match tlbFull s e with
    | none => { s with tlb := s.tlb ++ [e] }
    | some es => match es[Config.tlbVictim draw % es.length]? with
      | some v => { s with tlb := s.tlb.erase v ++ [e] }
      | none => s

/-- R104, R106, R108: the translation of an address through some TLBs: physical address and leaf. A hit or a walk leaves the
entry in all of them. -/
def translateBy (s : State) (us : List TlbUnit) (part ctx trc : Nat) (va : DWord) (draw : Nat) :
    State × Except Trap (Nat × DWord) :=
  if !canonical va then (s, .error { cause := 0x09, addr := va, info := 0xF })
  else
    let a := va.toNat % 2 ^ 57
    let fill := fun (e : TlbEntry) => us.foldl (fun s u => tlbFill s draw { e with unit := u }) s
    match tlbHit s us part ctx trc a with
    | some e => (fill e, .ok (e.pa + (a - e.va), e.leaf))
    | none => match walk s part ctx trc va with
      | .error t => (s, .error t)
      | .ok (base, size, leaf) =>
        (fill { unit := .die 0, part := part, ctx := ctx, trc := trc, va := a / size * size, size := size, pa := base, leaf := leaf },
          .ok (base + a % size, leaf))

/-- R108: the translation of an access that a core makes, or an engine for it. -/
def translate (s : State) (core part ctx trc : Nat) (va : DWord) (draw : Nat) : State × Except Trap (Nat × DWord) :=
  translateBy s (coreTlbs core) part ctx trc va draw

/-- R308: the translation of an RMA operation, or of the device manager: only while the translation context has V = 1. -/
def translateMover (s : State) (part ctx trc : Nat) (va : DWord) (draw : Nat) : State × Except Trap (Nat × DWord) :=
  if !(trcOf s part ctx trc).getLsbD 0 then (s, .error { cause := 0x09, addr := va, info := 7 })
  else match tlbHit s dieTlbs part ctx trc (va.toNat % 2 ^ 57) with
    | some e => if Config.moverTlb draw && canonical va then (s, .ok (e.pa + (va.toNat % 2 ^ 57 - e.va), e.leaf))
        else translateBy s [] part ctx trc va draw
    | none => translateBy s [] part ctx trc va draw

/-- R109: every TLB entry of a context that meets a condition is dropped. -/
def dropTlb (s : State) (part ctx : Nat) (f : TlbEntry → Bool) : State :=
  { s with tlb := s.tlb.filter fun e => !(e.part = part && e.ctx = ctx && f e) }

/-! ### The pool and host-visible windows -/

/-- The last value queued for an address. -/
def queued (q : List QueuedStore) (a : Nat) : Option Byte := (q.reverse.find? fun e => e.addr = a).map QueuedStore.byte

/-- R139: a pool byte as the home L2 holds it, or the pool does. -/
def poolHome (s : State) (a : Nat) : Byte :=
  match (cfind s.poolLines (a / 64)).bind fun l => cfind l.dirty a with
  | some v => v
  | none => mget s.pool a

/-- R139: cycles that a lease on a pool line lasts at most. -/
def leaseCycles : Nat := 6000

/-- R139: a core's lease on a pool line, while it lasts. -/
def poolLease (s : State) (core line : Nat) : Option PoolLease :=
  s.poolLeases.find? fun l => l.core = core && l.line = line && decide (s.clk < l.granted + leaseCycles)

/-- R138, R139: a pool byte as a core reads it: a queued store first, then what its L1 lease still shows. -/
def poolRead (s : State) (core a : Nat) : Byte :=
  match queued s.sysq a with
  | some v => v
  | none => match (poolLease s core (a / 64)).bind fun l => cfind l.stale a with
    | some v => v
    | none => poolHome s a

/-- R138: the bytes that enter the order with some: those of every store of a system agent to one of them, and so on. -/
def joinRuns (runs : List (List Nat)) (as : List Nat) : List Nat :=
  runs.foldl (fun as _ => runs.foldl (fun as r => if r.any as.contains then as ++ r else as) as) as

/-- R138: a byte that the device has read at its home, or stored, is old in the lease no more; nor are the other bytes of the stores that
wrote it, since a store enters the order whole. -/
def PoolLease.seen (a : Nat) (l : PoolLease) : PoolLease :=
  let now := joinRuns l.runs [a]
  { l with stale := now.foldl cdel l.stale, runs := l.runs.filter fun r => !r.any now.contains }

/-- R138: a byte that the device has read at its home, or stored, is old in no lease any more. -/
def dropStale (s : State) (a : Nat) : State := { s with poolLeases := s.poolLeases.map (PoolLease.seen a) }

/-- R138, R139: a core reads `n` bytes of one pool line: what it reads as the home has it enters the device's order. Without a lease it
reads at home: it obtains one, and the line is held there (Table 6-1, device read miss). An engine, and an atomic at the line's home, read
there and take no lease. -/
def poolTouch (s : State) (core a n : Nat) (draw : Nat) : State :=
  let line := a / 64
  let leased := (poolLease s core line).isSome
  let seen := (List.range n).filter fun k => !((poolLease s core line).any fun l => (cfind l.stale (a + k)).isSome)
  let s := seen.foldl (fun s k => dropStale s (a + k)) s
  let s := if leased || Config.cores ≤ core then s
    else { s with poolLeases := (s.poolLeases.filter fun l => !(l.core = core && l.line = line)) ++
      [{ core := core, line := line, granted := s.clk }] }
  if leased || (cfind s.poolLines line).isSome then s
  else { s with poolLines := cset s.poolLines line { st := if Config.poolShared draw then .S else .E } }

/-- R139, R141: a core gives up its leases on pool lines. -/
def dropLeases (s : State) (core : Nat) : State := { s with poolLeases := s.poolLeases.filter fun l => l.core ≠ core }

/-- R139: a device store to a pool byte enters the system write queue. -/
def poolWrite (s : State) (a : Nat) (v : Byte) : State :=
  dropStale { s with sysq := s.sysq ++ [{ addr := a, byte := v }] } a

/-- R129, R139, Table 6-1: the queued stores of a line merge into it, and it is held in M; nothing older shows in a lease. -/
def poolMerge (s : State) (line : Nat) : State :=
  let mine := s.sysq.filter fun e => e.addr / 64 = line
  let s := mine.foldl (fun s e => dropStale s e.addr) s
  let l := (cfind s.poolLines line).getD { st := .M }
  { s with
    sysq := s.sysq.filter fun e => e.addr / 64 ≠ line
    poolLines := cset s.poolLines line { st := .M, dirty := mine.foldl (fun d e => cset d e.addr e.byte) l.dirty } }

/-- Table 6-1: the write-back of a line's merged stores. -/
def poolWriteBack (s : State) (line : Nat) : State :=
  match cfind s.poolLines line with
  | some l => { s with pool := l.dirty.foldl (fun m p => mput m p.1 p.2) s.pool }
  | none => s

/-- R140: a host-visible byte as the device sees it: posted writes first. -/
def hostRead (s : State) (a : Nat) : Byte :=
  match s.posted.reverse.find? fun p => p.1 ≤ a && a < p.1 + p.2.length with
  | some p => p.2.getD (a - p.1) 0
  | none => mget s.hostMem a

/-- R128: a byte joins the run that it goes on, within an aligned 16 bytes, or begins another. -/
def addByte (ps : List (Nat × List Byte)) (e : Nat × Byte) : List (Nat × List Byte) :=
  match ps.getLast? with
  | some p => if e.1 = p.1 + p.2.length && e.1 % 16 ≠ 0 then ps.dropLast ++ [(p.1, p.2 ++ [e.2])] else ps ++ [(e.1, [e.2])]
  | none => [(e.1, [e.2])]

/-- R128, R308: bytes as single accesses of at most 16 bytes. -/
def accesses (es : List (Nat × Byte)) : List (Nat × List Byte) := es.foldl addByte []

/-! ### Physical bytes -/

/-- R131: a place in memory of the system class: the pool or a host-visible window. -/
def Place.sysClass : Place → Bool
  | .phys pa => paClass pa = 1 || paClass pa = 2
  | _ => false

/-- R134: the bytes that engines have written at an address and not published, oldest first. -/
def unpublished (s : State) (pa : Nat) : List Byte := (s.unpub.filter fun u => u.pa = pa).map Unpub.byte

/-- R134: a read of a byte gives its value in the order or one that an engine has written and not published. -/
def pick (draw : Nat) (v : Byte) : List Byte → Byte
  | [] => v
  | u :: us => pick draw (if Config.readsNew (draw + 64 * us.length) then u else v) us

/-- The DRAM, pool or host byte at a physical address as a core reads it, other than a view's. -/
def physByte (s : State) (core pa : Nat) : Byte :=
  match paClass pa with
  | 0 => mget s.dram pa
  | 1 => poolRead s core (pa % 2 ^ 44)
  | 2 => hostRead s (pa % 2 ^ 44)
  | _ => 0

/-- The same with unpublished engine data. -/
def readByte (s : State) (core pa draw : Nat) : Byte := pick draw (physByte s core pa) (unpublished s pa)

/-- A byte written in the device-scope order. -/
def physWrite (s : State) (pa : Nat) (v : Byte) : State :=
  match paClass pa with
  | 0 => { s with dram := mput s.dram pa v }
  | 1 => if s.poolDead then s else poolWrite s (pa % 2 ^ 44) v
  | 2 => { s with posted := s.posted ++ [(pa % 2 ^ 44, [v])] }
  | _ => s

/-- Bytes written from an address on, one after another. -/
def physEach (s : State) (pa : Nat) : List Byte → State
  | [] => s
  | v :: vs => physEach (physWrite s pa v) (pa + 1) vs

/-- Bytes written from an address on; those of a host-visible window are posted, an access at a time (R128, R140). -/
def physWrites (s : State) (pa : Nat) (bs : List Byte) : State :=
  if paClass pa = 2 then { s with posted := s.posted ++ accesses (bs.mapIdx fun k b => (pa % 2 ^ 44 + k, b)) } else physEach s pa bs

/-! ### Format windows -/

/-- Table 5-5: bytes of a window's target format. -/
def fmtBytes (w : FmtWindow) : Nat := if bits w.ctl.toNat 4 4 = 2 then 4 else 2

/-- R112: the enabled window of a view address. -/
def windowOf (s : State) (pa : Nat) : Option FmtWindow :=
  (s.fmt.find? fun p => p.2.ctl.getLsbD 63 && p.2.view.toNat / 2 ^ 16 * 2 ^ 16 ≤ pa &&
    pa < p.2.view.toNat / 2 ^ 16 * 2 ^ 16 + p.2.view.toNat % 2 ^ 16 * 2 ^ 16).map Prod.snd

/-- R112: the DRAM addresses that target element `e` of a window is decoded from: source byte, block scale, super-scale. -/
def windowInputs (w : FmtWindow) (e : Nat) : List (Nat × Nat) :=
  match bits w.ctl.toNat 0 4 with
  | 0 => [(w.src.toNat + e / 2, 1), (w.kscl.toNat + e / 64, 1), (w.sscl.toNat + 4 * (e / 16384), 4)]
  | 1 => [(w.src.toNat + e, 1), (w.kscl.toNat + e / 32, 1)]
  | _ => [(w.src.toNat + e, 1)]

/-- R113, R134: the bytes that a view is decoded from, as a load of them at the same place in the order would return them: one
draw for the bytes of an element, which are all old or all new. -/
def viewSource (s : State) (draw a n : Nat) : List Byte :=
  (List.range n).map fun k => pick draw (mget s.dram (a + k)) (unpublished s (a + k))

/-- R112, R113: target element `e` of a window. -/
def windowElem (s : State) (draw : Nat) (w : FmtWindow) (e : Nat) : Nat :=
  let f := match bits w.ctl.toNat 4 4 with
    | 0 => bf16
    | 1 => f16
    | _ => f32
  let x := (windowInputs w e).map fun p => leNat (viewSource s draw p.1 p.2)
  let at0 := fun k => (x[k]?).getD 0
  match bits w.ctl.toNat 0 4 with
  | 0 => cb4Decode f (bits (at0 0) (4 * (e % 2)) 4) (at0 1) (at0 2)
  | 1 => f.round rne false false (mxVal (at0 1) (at0 0))
  | 2 => f.round rne false false (e4m3.decode false (at0 0))
  | _ => f.round rne false false (e5m2.decode false (at0 0))

/-- R112: a byte of a view; the bytes of one element are decoded together (R113). -/
def viewByte (s : State) (draw : Nat) (w : FmtWindow) (pa : Nat) : Byte :=
  let off := pa - w.view.toNat / 2 ^ 16 * 2 ^ 16
  let t := fmtBytes w
  BitVec.ofNat 8 (windowElem s (draw + 64 * (off / t)) w (off / t) / 256 ^ (off % t))

/-! ### Places -/

/-- The unit of poison that a byte of a place lies in, and the byte's number in it. -/
def Place.unit : Place → PoisonUnit × Nat
  | .phys pa => (.line (pa / 64 * 64), pa % 64)
  | .priv b g l o => (.priv b g l (o / 16), o % 16)
  | .scr b o => (.scratch b (o / 16), o % 16)
  | .csh c o => (.shared c (o / 16), o % 16)
  | .dsp a => (.dsp (a / 16), a % 16)
  | .window b g n o => (.reg b g (o / 4) n, o % 4)

/-- A place some bytes on. -/
def Place.shift (k : Nat) : Place → Place
  | .phys pa => .phys (pa + k)
  | .priv b g l o => .priv b g l (o + k)
  | .scr b o => .scr b (o + k)
  | .csh c o => .csh c (o + k)
  | .dsp a => .dsp (a + k)
  | .window b g n o => .window b g n (o + k)

/-- One byte of a place as a core reads it. -/
def Place.byte (s : State) (core draw : Nat) : Place → Byte
  | .phys pa => if paClass pa = 3 then (match windowOf s pa with
      | some w => viewByte s (draw / 64 * 64) w pa
      | none => 0) else readByte s core pa draw
  | .priv b g l o => match groupOf s b g with
    | some gr => mget (gr.lane l).priv o
    | none => 0
  | .scr b o => match blockOf s b with
    | some bl => mget bl.scratch o
    | none => shadeByte s (.scr b) o
  | .csh c o => match clusterOf s c with
    | some cl => mget cl.mem o
    | none => shadeByte s (.csh c) o
  | .dsp a => mget s.dsp a
  | .window b g n o => match groupOf s b g with
    | some gr => ((gr.lane (o / 4)).reg n).extractLsb' (8 * (o % 4)) 8
    | none => 0

/-- A register word with one byte replaced. -/
def wordByte (w : Word) (k : Nat) (v : Byte) : Word :=
  (w &&& ~~~(255#32 <<< (8 * k))) ||| (v.setWidth 32 <<< (8 * k))

/-- One byte of a place written. -/
def Place.put (s : State) (v : Byte) : Place → State
  | .phys pa => physWrite s pa v
  | .priv b g l o => modLane s b g l fun x => { x with priv := mput x.priv o v }
  | .scr b o => modShade (modBlock s b fun x => { x with scratch := mput x.scratch o v }) (.scr b) fun h => { h with mem := mput h.mem o v }
  | .csh c o => modShade (modCluster s c fun x => { x with mem := mput x.mem o v }) (.csh c) fun h => { h with mem := mput h.mem o v }
  | .dsp a => { s with dsp := mput s.dsp a v }
  | .window b g n o => modLane s b g (o / 4) fun x => x.setReg n (wordByte (x.reg n) (o % 4) v)

/-- The bytes of a place. -/
def readPlace (s : State) (core draw : Nat) (p : Place) (n : Nat) : List Byte :=
  (List.range n).map fun k => (p.shift k).byte s core (draw + k)

/-- Bytes written from a place on, one after another. -/
def putBytes (s : State) (p : Place) : List Byte → State
  | [] => s
  | v :: vs => putBytes (p.put s v) (p.shift 1) vs

/-- Bytes written to a place. -/
def writePlace (s : State) (p : Place) (bs : List Byte) : State :=
  match p with
  | .phys pa => physWrites s pa bs
  | q => putBytes s q bs

/-- R415: some byte of a place lies in a poisoned unit; a view's inputs count as its own. -/
def placePoisoned (s : State) (p : Place) (n : Nat) : Bool :=
  match p with
  | .phys pa =>
    if paClass pa = 3 then (match windowOf s pa with
      | some w => (windowInputs w ((pa - w.view.toNat / 2 ^ 16 * 2 ^ 16) / fmtBytes w)).any fun q =>
          isPoisoned s (.line (q.1 / 64 * 64))
      | none => false)
    else (List.range n).any fun k => isPoisoned s (Place.phys (pa + k)).unit.1
  | q => (List.range n).any fun k => isPoisoned s (q.shift k).unit.1

/-- R415: bytes of a place are written, as poison sees it. -/
def coverPlace (s : State) (p : Place) (n : Nat) : State :=
  (List.range n).foldl (fun s k => coverPoison s (p.shift k).unit.1 (p.shift k).unit.2 1) s

/-- R415: the units that a run of bytes at a place touches become poisoned. -/
def poisonPlace (s : State) (p : Place) (n : Nat) : State :=
  (((List.range n).map fun k => (p.shift k).unit.1).eraseDups).foldl addPoison s

/-! ### Engine data in the order -/

/-- The f32 elements of a list of bytes. -/
def words32 : List Byte → List Nat
  | a :: b :: c :: d :: bs => leNat [a, b, c, d] :: words32 bs
  | _ => []

/-- R136: a part of an update takes its place in the order. -/
def landPart (s : State) (q : Part16) : State :=
  let n := q.bytes.length
  let bs := if q.add then
      ((words32 q.bytes).zip (words32 ((List.range n).map fun k => physByte s Config.cores (q.pa + k)))).flatMap fun e => leBytes 4 (addF32 e.2 e.1)
    else q.bytes
  let bad := q.bad || (q.add && placePoisoned s (.phys q.pa) n)
  let s := coverPlace (physWrites s q.pa bs) (.phys q.pa) n
  if bad then poisonPlace s (.phys q.pa) n else s

/-- R136: an update takes its place in the order, all of it at one moment. -/
def landUpdate (s : State) (u : Update) : State := u.parts.foldl landPart s

/-- R133: engine writes that meet a condition take their place in the order: those not published yet, and updates that wait for a moment
of their own. -/
def landWhere (s : State) (f : Unpub → Bool) (g : Update → Bool) : State :=
  let mine := s.unpub.filter f
  let once := s.atOnce.filter g
  let s := { s with unpub := s.unpub.filter fun u => !f u, atOnce := s.atOnce.filter fun u => !g u }
  let s := (accesses (mine.map fun u => (u.pa, u.byte))).foldl (fun s r => physWrites s r.1 r.2) s
  once.foldl landUpdate s

/-- R133: the writes of a command are published: they take their place in the order. -/
def publish (s : State) (cmd : Nat) : State := landWhere s (fun u => u.cmd = cmd) fun u => u.cmd = cmd

/-- R109: an address that an invalidation of a range reaches: it lies in the range, or the page of its translation overlaps the range,
whether or not some TLB holds the entry still. -/
def invalidates (low high va : Nat) (page : Nat × Nat) : Bool :=
  (decide (low ≤ va) && decide (va < high)) || (decide (page.1 < high) && decide (low < page.1 + page.2))

/-- R10, R322: engine writes of a partition, or of one context of it, take their place in the order: none reaches memory after the
context is killed, or after the partition's descriptor changes. DEDUCED, log 134. -/
def landAll (s : State) (part : Nat) (mine : Nat → Bool) : State :=
  landWhere s (fun u => u.part = part && mine u.ctx) fun u => u.part = part && mine u.ctx

/-- R109: engine writes that a translation of an address to be invalidated has led to take their place in the order, so that none comes
after the invalidation. DEDUCED, log 134. -/
def landRange (s : State) (part ctx trc low high : Nat) : State :=
  landWhere s (fun u => u.part = part && u.ctx = ctx && u.trc = trc && invalidates low high u.va u.page) fun u =>
    u.part = part && u.ctx = ctx && u.trc = trc && u.parts.any fun q => invalidates low high q.va q.page

end Sys2Proof.Machine
end

