-- ==== Sys2Proof/Machine/Kill.lean ====
section
/-! DEFINITION. Giving back what blocks and contexts hold: a block that leaves a core, the retiring of handle slots (R127),
the kill of a context (R366) and the answer to an isolation violation (R410). -/

namespace Sys2Proof.Machine

open Sys2Proof

/-- The block whose operation it is. -/
def MatOp.block : MatOp → Nat
  | .mma b _ _ _ _ _ _ _ _ _ => b
  | .mdrain b _ _ _ => b

/-- The block leaves its core: its store allocations, its lease and its queued requests are released (R25, R95, R118), and a
pending split that the others allow becomes current (R115). -/
def leaveCore (s : State) (b : Block) : State :=
  modCore s b.core fun c => commitSplit
    { c with
      holder := if c.holder = some b.id then none else c.holder
      leaseQueue := c.leaseQueue.filter fun k => k ≠ b.id
      ops := c.ops.filter fun o => o.block ≠ b.id
      regaQueue := c.regaQueue.filter fun r => r.blk ≠ b.id
      allocs := c.allocs.filter fun a => a.blk ≠ b.id }

/-- R127: a slot retired: one generation on, and free. At 4,096 no handle names it any more. -/
def HSlot.retire (h : HSlot) : HSlot := { gen := h.gen + 1, obj := none }

/-- R366: every handle slot in use is retired. -/
def retireAll (hs : Cells HSlot) : Cells HSlot := hs.map fun p => (p.1, if p.2.obj.isSome then p.2.retire else p.2)

/-- R366, R312: every graph slot in use is retired. -/
def retireGraphs (gs : Cells Graph) : Cells Graph :=
  gs.map fun p => (p.1, if p.2.live then { gen := p.2.gen + 1 } else p.2)

/-- R122: what an image holds of the program space of the die scratchpad, which only a partition reset clears. -/
def Saved.program (v : Saved) : Saved := { dsp := v.dsp, dspFull := v.dspFull, dspPoison := v.dspPoison }

/-- R122, R366: the context with its system registers and counters at reset and its tables emptied; its program space is kept, in its image
when it is saved. -/
def Ctx.killed (c : Ctx) : Ctx :=
  { handles := retireAll c.handles, graphs := retireGraphs c.graphs, saved := c.saved.map Saved.program }

/-- R317: the tenant context that a launch word names. -/
def wordCtx (w : DWord) : Nat := bits w.toNat 53 2

/-- R366, R410: commands are discarded, with what they have written and not published. -/
def discardCmds (s : State) (f : Cmd → Bool) : State :=
  let ids := (s.cmds.filter f).map Cmd.id
  { s with
    cmds := s.cmds.filter fun k => !ids.contains k.id
    unpub := s.unpub.filter fun u => !ids.contains u.cmd
    atOnce := s.atOnce.filter fun u => !ids.contains u.cmd
    shades := s.shades.filter fun h => !(h.cmds.all ids.contains) }

/-- R366: a context is killed: its blocks, records, commands, stops, families, bindings and queued launch words are
discarded, its units released, its registers and counters reset, and its tables emptied. What finished commands of it have written takes
its place in the order (R10). -/
def killCtx (s : State) (p c : Nat) : State :=
  let mine := s.blocks.filter fun b => b.part = p && b.ctx = c
  let s := mine.foldl leaveCore s
  let grids := (s.grids.filter fun g => g.part = p && g.ctx = c).map Grid.id
  let s := landAll (discardCmds s fun k => k.part = p && k.ctx = c) p fun k => k = c
  let s :=
    { s with
      blocks := s.blocks.filter fun b => !(b.part = p && b.ctx = c)
      clusters := s.clusters.filter fun k => !grids.contains k.grid
      grids := s.grids.filter fun g => !grids.contains g.id
      recs := s.recs.filter fun r => !(r.part = p && r.ctx = c)
      families := s.families.filter fun f => !(f.part = p && f.ctx = c)
      feq := s.feq.filter fun w => !(mine.any fun b => b.id = w.blk)
      bfqs := s.bfqs.filter fun q => !(q.2.part = p && q.2.ctx = c) }
  modPart s p fun q =>
    { q with
      launches := q.launches.filter fun l => l.ctx ≠ c
      queue := q.queue.filter fun w => wordCtx w ≠ c
      reqs := q.reqs.filter fun r => r.ctx ≠ c
      resume := q.resume.filter fun b => b.ctx ≠ c
      ctxs := cset q.ctxs c ((cfind q.ctxs c).getD {}).killed }

/-- Table 24-1: launches that a kill of a context discards, running or queued. -/
def launchesOf (s : State) (p c : Nat) : Nat :=
  ((partOf s p).launches.filter fun l => l.ctx = c).length + ((partOf s p).queue.filter fun w => wordCtx w = c).length

/-- R366, Table 24-2: a context is killed, and the kill is recorded with its cause. -/
def killLogged (s : State) (p c unit ukind : Nat) (info : DWord) : State :=
  logPart (killCtx s p c) p 0x41 c unit ukind (launchesOf s p c) info

/-- R410: the master core is frozen, its owner's running context is killed, and both are recorded. -/
def isolate (s : State) (p core : Nat) (target : DWord) : State :=
  let c := (partOf s p).running
  let s := modCore s core fun k => { k with frozen := true }
  killLogged (logPart s p 0x50 c core 0 1 target) p c core 0 3

/-- A collective command of an engine context. -/
def Cmd.ofUnit (unit : Nat) (c : Cmd) : Bool :=
  match c.kind with
  | .coll _ u _ _ _ _ _ _ => u = unit
  | _ => false

/-- The command moves its work in 16-byte pieces by itself, in its constellation's copy engine: a copy or a gather. -/
def Cmd.moves (c : Cmd) : Bool :=
  match c.kind with
  | .mdrain _ _ _ _ | .coll _ _ _ _ _ _ _ _ => false
  | _ => true

/-- R410: a constellation's copy engine is frozen: it discards its commands, its owner's running context is killed, and both are recorded;
Table 24-1 has no kind of its own for it, and it is recorded as an engine context. DESIGN CHOICE, log 133. -/
def isolateCopy (s : State) (p core : Nat) (target : DWord) : State :=
  let c := (partOf s p).running
  let unit := Config.constOf core
  let s := discardCmds { s with frozenCopies := sinsert s.frozenCopies unit } fun k =>
    k.moves && k.part = p && k.ctx = c && Config.constOf k.core = unit
  killLogged (logPart s p 0x50 c unit 3 1 target) p c unit 3 3

/-- R410: an engine context is frozen: it discards its commands, its owner's running context is killed, and both are recorded. -/
def isolateEngine (s : State) (p unit : Nat) (target : DWord) : State :=
  let c := (partOf s p).running
  let s := discardCmds { s with frozenEngs := sinsert s.frozenEngs unit } (Cmd.ofUnit unit)
  killLogged (logPart s p 0x50 c unit 3 1 target) p c unit 3 3

/-- R336, R339: a counter of a context goes up, modulo 2^48; a wrap leaves a notice when it is armed. -/
def Ctx.addTo (x : Ctx) (armed : Bool) (k n : Nat) : Ctx :=
  let v := (cget 0 x.counters k).toNat + n
  { x with
    counters := cput 0 x.counters k (BitVec.ofNat 48 v)
    overflows := if 2 ^ 48 ≤ v && armed then x.overflows ++ [k] else x.overflows }

/-- R336, R339: a counter goes up, with its notice armed as selected; those of counters 62 and 63 always are. -/
def Ctx.addCounter (x : Ctx) (k n : Nat) : Ctx := x.addTo (62 ≤ k || x.armed.contains k) k n

/-- R337: the event that a counter counts in a cycle, and whether its notice is armed: a selection applies from the cycle after. -/
def Ctx.selected (x : Ctx) (clk k : Nat) : Nat × Bool :=
  match cfind x.former k with
  | some (t, e, armed) => if t = clk then (e, armed) else (cget 0 x.sels k, x.armed.contains k)
  | none => (cget 0 x.sels k, x.armed.contains k)

/-- R337: the counters that count an event in a cycle. -/
def Ctx.counting (x : Ctx) (clk code : Nat) : List Nat :=
  ((x.sels.map Prod.fst ++ x.former.map Prod.fst).eraseDups).filter fun k => (x.selected clk k).1 = code

/-- R336: one of the context's counters goes up. -/
def bumpCounter (s : State) (p c k n : Nat) : State := modCtx s p c fun x => x.addCounter k n

/-- R324: the context is halted or saved. -/
def Rung.halted : Rung → Bool
  | .halt _ => true
  | _ => false

/-- R324: a context runs: it is the partition's, and it is not halted. -/
def runs (s : State) (p c : Nat) : Bool := (partOf s p).running = c && !(partOf s p).rung.halted

/-- R337: events of Table 18-4 occur in a context: the counters that select them go up. -/
def countEvent (s : State) (p c code n : Nat) : State :=
  if !((ctxOf s p c).counting s.clk code).isEmpty && runs s p c then
    modCtx s p c fun x => (x.counting s.clk code).foldl (fun x k => x.addTo (x.selected s.clk k).2 k n) x
  else s

/-- R325: a partition has done work on a die, which the arbiter's window counts. -/
def countDie (s : State) (p die ksteps vops bytes : Nat) : State :=
  modPart s p fun q =>
    let w := (cfind q.work die).getD {}
    { q with work := cset q.work die { ksteps := w.ksteps + ksteps, vops := w.vops + vops, bytes := w.bytes + bytes } }

/-- R325: a partition has done work on a core. -/
def countWork (s : State) (p core ksteps vops bytes : Nat) : State := countDie s p (Config.dieOf core) ksteps vops bytes

/-- The owner of a core: the partition whose descriptor lists its constellation (R322). -/
def ownerOf (s : State) (core : Nat) : Option Nat :=
  (s.parts.find? fun p => p.2.desc.const.contains (Config.constOf core)).map Prod.fst

end Sys2Proof.Machine
end

