-- ==== Sys2Proof/Machine/Records.lean ====
section
/-! DEFINITION. Handles (R126, R127), full/empty granules with the tile summaries (R123, R125), and the records that wait for
tiles: eligibility, home core and queueing (R82, R83). -/

namespace Sys2Proof.Machine

open Sys2Proof

/-! ### Handles -/

/-- The slot a handle names (Table 0-2). -/
def handleSlot (h : Word) : Nat := h.toNat % 2 ^ 20

/-- The generation of a handle. -/
def handleGen (h : Word) : Nat := h.toNat / 2 ^ 20

/-- The handle of a slot at a generation. -/
def mkHandle (slot gen : Nat) : Word := BitVec.ofNat 32 (gen * 2 ^ 20 + slot)

/-- R126: the object that a current handle names. -/
def objOf (s : State) (p c : Nat) (h : Word) : Option Obj :=
  match cfind (ctxOf s p c).handles (handleSlot h) with
  | some e => if handleSlot h ≠ 0 && e.gen = handleGen h then e.obj else none
  | none => none

/-- A tile buffer as it lies in its space. -/
structure Tile where
  space : FeSpace
  base : Nat
  size : Nat
  staging : Bool
  deriving DecidableEq, Repr

/-- The tile that a current handle names. -/
def tileOf (s : State) (p c : Nat) (h : Word) : Option Tile :=
  match objOf s p c h with
  | some (.tile sp b n st) => some { space := sp, base := b, size := n, staging := st }
  | _ => none

/-- The lowest-numbered free slot of a handle table from a number on: slots listed are in use, or retired with their
generation; a slot at generation 4,096 is never issued again (R127). -/
def freeSlotFrom (hs : Cells HSlot) : Nat → Nat → Option Nat
  | 0, _ => none
  | fuel + 1, k =>
    if 2 ^ 20 ≤ k then none
    else match cfind hs k with
      | none => some k
      | some e => if e.obj.isNone && e.gen < 4096 then some k else freeSlotFrom hs fuel (k + 1)

/-- R293: the lowest-numbered free slot; slot 0 is never issued. -/
def freeSlot (hs : Cells HSlot) : Option Nat := freeSlotFrom hs (hs.length + 1) 1

/-- An object takes the lowest free slot: the handle, or none when no slot is free. -/
def allocHandle (s : State) (p c : Nat) (o : Obj) : State × Option Word :=
  let hs := (ctxOf s p c).handles
  match freeSlot hs with
  | none => (s, none)
  | some k =>
    let gen := ((cfind hs k).map HSlot.gen).getD 1
    (modCtx s p c fun x => { x with handles := cset x.handles k { gen := gen, obj := some o } }, some (mkHandle k gen))

/-! ### Granules and summaries -/

/-- R123: the full granules of a space. Of a unit that has ended and that no outstanding command names, none: a tile there reads EMPTY.
DESIGN CHOICE, log 18. -/
def fullOf (s : State) : FeSpace → List Nat
  | .scr b => ((blockOf s b).map Block.full).getD (((s.shades.find? fun h => h.space = .scr b).map Shade.full).getD [])
  | .csh c => ((clusterOf s c).map Cluster.full).getD (((s.shades.find? fun h => h.space = .csh c).map Shade.full).getD [])
  | .dsp => s.dspFull

def isFull (s : State) (sp : FeSpace) (k : Nat) : Bool := (fullOf s sp).contains k

/-- The granules of a tile. -/
def Tile.granules (t : Tile) : List Nat := (List.range (t.size / 16)).map fun k => t.base / 16 + k

/-- R125, R293: the summary of a tile: 0 EMPTY, 1 MIXED, 2 FULL. -/
def Tile.summary (s : State) (t : Tile) : Nat :=
  let full := fullOf s t.space
  if t.granules.all full.contains then 2 else if t.granules.any full.contains then 1 else 0

/-! ### Records -/

/-- The cores of a partition's constellations, ascending. -/
def coresOf (s : State) (p : Nat) : List Nat :=
  (List.range Config.cores).filter fun n => (partOf s p).desc.const.contains (Config.constOf n)

/-- A record's kernel. -/
def recKernel (s : State) (r : TaskRec) : Option Kernel :=
  (versionOf s r.ver).bind fun v => (v.entries[r.entry]?).bind fun e => v.kernels[e.kern]?

/-- R83: the set C of a record, before its restriction. -/
def recCores (s : State) (r : TaskRec) : List Nat :=
  match recKernel s r with
  | some k => (coresOf s r.part).filter fun n => (k.body (Config.isLCore n)).isSome
  | none => []

/-- R83, R121: the constellation of a cluster's shared memory, and its base there: of an ended cluster, while commands of it still reach
that memory (R78), what they were. -/
def sharedHome (s : State) (k : Nat) : Nat × Nat :=
  match clusterOf s k with
  | some c => (c.const, c.base)
  | none => ((s.shades.find? fun h => h.space = .csh k).map fun h => (h.const, h.base)).getD (0, 0)

/-- R83: the home core from the set C, for a record whose first input tile is `t`, or that has none. -/
def homeFrom (s : State) (made : Nat) (cs : List Nat) : Option Tile → Nat
  | some t =>
    let inUnit : Nat → Bool := match t.space with
      | .csh k => fun n => Config.constOf n = (sharedHome s k).1
      | .dsp => fun n => Config.dieOf n = t.base / 2 ^ 25
      | .scr _ => fun _ => true
    let a := match t.space with
      | .csh k => (sharedHome s k).2 + t.base
      | .dsp => t.base % 2 ^ 25
      | .scr _ => t.base
    let r := cs.filter inUnit
    let c := if r.isEmpty then cs else r
    c.getD (Nat.xor (a / 2 ^ 12) (a / 2 ^ 22) % c.length) 0
  | none =>
    if cs.contains made then made
    else (cs.find? fun n => Config.constOf n = Config.constOf made).getD (cs.headD 0)

/-- The program-space offset of a die-scratchpad tile, by which R83 spreads records: Table 5-1 addresses a partition's
window from 0. A staging tile lies in the window's low part, which has no such address: its offset is counted from the window's start.
DESIGN CHOICE, log 123. -/
def Tile.program (d : Desc) (t : Tile) : Tile :=
  match t.space with
  | .dsp =>
    let die := t.base / 2 ^ 25
    let low := if t.staging then 0 else d.dspr[die]?.getD 0
    { t with base := t.base - ((d.dspw[die]?.getD (0, 0)).1 + low) * 2 ^ 20 }
  | _ => t

/-- R83: the home core of a record. -/
def homeOf (s : State) (r : TaskRec) : Nat :=
  let first := match r.kind with
    | .phase (h :: _) _ => (tileOf s r.part r.ctx h).map (Tile.program (partOf s r.part).desc)
    | _ => none
  homeFrom s r.made (recCores s r) first

/-- R82, R378: the record is eligible: its input tiles read FULL and its result tiles EMPTY, through whole handles. -/
def eligible (s : State) (r : TaskRec) : Bool :=
  match r.kind with
  | .phase ins outs =>
    (ins.all fun h => (tileOf s r.part r.ctx h).any fun t => t.summary s = 2) &&
      outs.all fun h => (tileOf s r.part r.ctx h).any fun t => t.summary s = 0
  | _ => true

/-- R83, R84: a record is queued at its home. -/
def queueRec (s : State) (r : TaskRec) : TaskRec :=
  { r with
    queued := true
    queuedAt := s.clk
    home := homeOf s r
    age := (ctxOf s r.part r.ctx).ageSteal.toNat
    stealable := ((ctxOf s r.part r.ctx).ageSteal = 0) }

/-- R82: every record that has become eligible is queued. -/
def queueReady (s : State) : State :=
  { s with recs := s.recs.map fun r => if !r.queued && eligible s r then queueRec s r else r }

/-- R357: a waiter's cycles start again when its granule's bit changes. -/
def restartWaits (s : State) (sp : FeSpace) (ks : List Nat) (v : Bool) : State :=
  { s with feq := s.feq.map fun w =>
      if w.space = sp && ks.contains (w.off / 16) && isFull s sp (w.off / 16) ≠ v then { w with start := s.clk } else w }

/-- The full granules of a space changed. -/
def modFull (s : State) (sp : FeSpace) (f : List Nat → List Nat) : State :=
  let s := { s with shades := s.shades.map fun h => if h.space = sp then { h with full := f h.full } else h }
  match sp with
  | .scr b => modBlock s b fun x => { x with full := f x.full }
  | .csh c => modCluster s c fun x => { x with full := f x.full }
  | .dsp => { s with dspFull := f s.dspFull }

/-- R123, R125: granules of a space set full or empty in one indivisible step, with the summaries and the records that wait on them. -/
def setFulls (s : State) (sp : FeSpace) (ks : List Nat) (v : Bool) : State :=
  queueReady (modFull (restartWaits s sp ks v) sp fun l => ks.foldl (fun l k => if v then sinsert l k else sremove l k) l)

/-- R123, R125: one granule set full or empty. -/
def setFull (s : State) (sp : FeSpace) (k : Nat) (v : Bool) : State := setFulls s sp [k] v

/-- R83: a new record joins the record pool, and the queues when it is eligible. -/
def addRec (s : State) (r : TaskRec) : State :=
  queueReady { s with recs := s.recs ++ [{ r with id := s.fresh }], fresh := s.fresh + 1 }

/-! ### Retiring handles -/

/-- The handles that a record names. -/
def TaskRec.handles (r : TaskRec) : List Word :=
  match r.kind with
  | .phase ins outs => ins ++ outs
  | .child _ _ views _ => views.map Prod.fst
  | _ => []

/-- R378: a record of a context that names a handle. -/
def TaskRec.namesOf (p c : Nat) (h : Word) (r : TaskRec) : Bool := r.part = p && r.ctx = c && r.handles.contains h

/-- R378: records not placed that name a retired handle are discarded, each counted, and a discarded child's family is
abandoned; those of a saved context lie in its image. -/
def dropRecs (s : State) (p c : Nat) (h : Word) : State :=
  let goes := TaskRec.namesOf p c h
  let gone := (s.recs ++ ((ctxOf s p c).saved.map Saved.recs).getD []).filter goes
  let fams := gone.filterMap fun r => match r.kind with
    | .child f _ _ _ => some f
    | _ => none
  let s :=
    { s with
      recs := s.recs.filter fun r => !goes r
      families := s.families.map fun f => if fams.contains f.id then { f with abandoned := true } else f }
  if gone.isEmpty then s
  else bumpCounter (modCtx s p c fun x =>
    { x with saved := x.saved.map fun v => { v with recs := v.recs.filter fun r => !goes r } }) p c 62 gone.length

/-- R127: the slot of a handle is retired. -/
def retireSlot (s : State) (p c : Nat) (h : Word) : State :=
  modCtx s p c fun x =>
    { x with handles := match cfind x.handles (handleSlot h) with
        | some e => cset x.handles (handleSlot h) e.retire
        | none => x.handles }

/-- R127, R378: a handle is retired, and records not placed that name it are discarded. -/
def retireHandle (s : State) (p c : Nat) (h : Word) : State := dropRecs (retireSlot s p c h) p c h

end Sys2Proof.Machine
end

