-- ==== Sys2Proof/Machine/Memory.lean ====
section
/-! DEFINITION. Accesses: the local spaces (R117 to R122), the checks of an access in the order of Table 21-1 (R374), loads, stores and
atomics, what a command reads of its source (R132, R145), full/empty granules (R123, R124), and lane instructions on memory. -/

namespace Sys2Proof.Machine

open Sys2Proof

/-! ### Checks of a global access -/

/-- R112, R322: what the view at an address is decoded from lies in DRAM of the partition whose window it is. -/
def viewOwned (q : Part) (part pa : Nat) (w : FmtWindow) : Bool :=
  w.part = part && (windowInputs w ((pa - w.view.toNat / 2 ^ 16 * 2 ^ 16) / fmtBytes w)).all fun r =>
    dramOwned q.desc r.1 && dramOwned q.desc (r.1 + r.2 - 1)

/-- A physical address that the partition may reach (R322), with what the state of links says of it (R412, R413). -/
def physCheck (s : State) (part pa : Nat) (va : DWord) (kind : AccessKind) : Option NoAccess :=
  let q := partOf s part
  match paClass pa with
  | 0 => if dramOwned q.desc pa then none else some (.foreign (BitVec.ofNat 64 pa))
  | 1 =>
    if !poolOwned q.desc pa then some (.foreign (BitVec.ofNat 64 pa))
    else if s.poolDead then some (.trap { cause := 0x3C, addr := va })
    else if s.cxlUp.isEmpty then some .wait else none
  | 2 =>
    if !hostOwned q.desc pa then some (.foreign (BitVec.ofNat 64 pa))
    else if hostLost q pa then (if kind = .write then none else some (.trap { cause := 0x3C, addr := va }))
    else if s.portsUp.isEmpty then some .wait else none
  | 3 => if (windowOf s pa).any (viewOwned q part pa) then none else some (.foreign (BitVec.ofNat 64 pa))
  | _ => none

/-- R374, Table 21-1: what a leaf and the page's class permit. -/
def leafCheck (s : State) (part : Nat) (level1 : Bool) (kind : AccessKind) (va : DWord) (pa : Nat) (leaf : DWord) : Option Trap :=
  let frame := versionFrame s part pa
  if leaf.getLsbD 5 && !level1 then some { cause := 0x0A, addr := va, info := 3 }
  else if kind ≠ .write && !leaf.getLsbD 2 then some { cause := 0x0A, addr := va, info := 0 }
  else if kind ≠ .read && frame then some { cause := 0x0A, addr := va, info := 2 }
  else if kind ≠ .read && !leaf.getLsbD 3 then some { cause := 0x0A, addr := va, info := 1 }
  else if kind ≠ .read && paClass pa = 3 then some { cause := 0x0B, addr := va }
  else if paClass pa = 3 && (windowOf s pa).isNone then some { cause := 0x0A, addr := va, info := 0 }
  else if kind = .rmw && paClass pa = 2 then some { cause := 0x0A, addr := va, info := 1 }
  else none

/-- R374: a global access, checked: translation, permission, the unit's owner and links. -/
def globalPlace (s : State) (w : Who) (kind : AccessKind) (va : DWord) (draw : Nat) : State × Except NoAccess Place :=
  match translate s w.core w.part w.ctx w.trc va draw with
  | (s, .error t) => (s, .error (.trap t))
  | (s, .ok (pa, leaf)) => match leafCheck s w.part w.level1 kind va pa leaf with
    | some t => (s, .error (.trap t))
    | none => match physCheck s w.part pa va kind with
      | some n => (s, .error n)
      | none => (s, .ok (.phys pa))

/-! ### Checks of a local access -/

/-- Table 21-1: the trap of an offset outside its space. -/
def rangeTrap (space off : Nat) : NoAccess :=
  .trap { cause := 0x0C, addr := BitVec.ofNat 64 off, info := BitVec.ofNat 64 space }

/-- R117: a register-window word of the block, within the budget of its group. -/
def windowPlace (b : Block) (off : Nat) : Option Place :=
  let o := off - 0x40000000
  let n := o % 0x4000 / 128
  match b.group (o / 0x4000) with
  | some g => if 0x40000000 ≤ off && !g.ended && n < 8 * g.budget then some (.window b.id (o / 0x4000) n (o % 128)) else none
  | none => none

/-- R381: the view of a child whose bytes, or the padding after them, an offset lies in; the padding before the first view
does not exist. -/
def viewAt (vs : List View) (off : Nat) : Nat :=
  ((List.range vs.length).filter fun k => match vs[k]? with
    | some v => decide (v.off ≤ off)
    | none => false).getLastD 0

/-- R374, R381: a local access, checked. -/
def localPlace (s : State) (b : Block) (grp lane space : Nat) (kind : AccessKind) (off n : Nat) :
    Except NoAccess Place :=
  match space with
  | 0 => if off + n ≤ b.privBytes then .ok (.priv b.id grp lane off) else .error (rangeTrap 0 off)
  | 1 =>
    if off + n ≤ b.scrBytes then
      if kind = .rmw && off < b.viewArea then
        .error (.trap { cause := 0x21, addr := BitVec.ofNat 64 off, info := BitVec.ofNat 64 (viewAt b.views off) })
      else .ok (.scr b.id off)
    else match windowPlace b off with
      | some p => if kind = .rmw then .error (rangeTrap 1 off) else .ok p
      | none => .error (rangeTrap 1 off)
  | 2 => match clusterOf s b.cluster with
    | some c => if off + n ≤ c.bytes then .ok (.csh c.id off) else .error (rangeTrap 2 off)
    | none => .error (rangeTrap 2 off)
  | _ => match dspAddr (partOf s b.part).desc off n with
    | some a => .ok (.dsp a)
    | none => .error (rangeTrap 3 off)

/-! ### An access -/

/-- Where an instruction's access is to go: the global space or a local one, with its address or offset. -/
inductive Target where
  | global (va : DWord)
  | loc (space off : Nat)
  deriving DecidableEq, Repr

/-- R399: the address as a trap record names it. -/
def Target.addr : Target → DWord
  | .global va => va
  | .loc _ off => BitVec.ofNat 64 off

/-- R254, R374, R399: an access of `n` bytes, checked: alignment, then its space's conditions. -/
def checkRange (s : State) (b : Block) (grp lane : Nat) (kind : AccessKind) (t : Target) (n : Nat) :
    State × Except NoAccess Place :=
  if t.addr.toNat % n ≠ 0 then (s, .error (.trap { cause := 0x08, addr := t.addr, info := BitVec.ofNat 64 n }))
  else match t with
    | .global va => globalPlace s (whoOf s b) kind va (drawOf s lane 512)
    | .loc sp off => (s, localPlace s b grp lane sp kind off n)

/-- R374, R415: an access that is made at once, checked: its range, then poison in what it reads. -/
def checkAccess (s : State) (b : Block) (grp lane : Nat) (kind : AccessKind) (t : Target) (n : Nat) :
    State × Except NoAccess Place :=
  match checkRange s b grp lane kind t n with
  | (s, .error e) => (s, .error e)
  | (s, .ok p) =>
    if kind ≠ .write && placePoisoned s p n then (s, .error (.trap { cause := 0x3C, addr := t.addr })) else (s, .ok p)

/-- R138, R139: what a device read of a place does to the pool's lines and leases. -/
def touchPlace (s : State) (core draw : Nat) (p : Place) (n : Nat) : State :=
  match p with
  | .phys pa => if paClass pa = 1 then poolTouch s core (pa % 2 ^ 44) n draw else s
  | _ => s

/-- R412: stores to a lost window are discarded. -/
def storeLost (s : State) (part : Nat) : Place → Bool
  | .phys pa => paClass pa = 2 && hostLost (partOf s part) pa
  | _ => false

/-- R189, LOAD: the value of `n` bytes at a checked place. R257 lets the device ignore a hint: the model ignores each, so that a `.nol1`
load of a pool line reads from its core's L1 lease and takes one. DESIGN CHOICE, log 118. -/
def loadAt (s : State) (b : Block) (lane : Nat) (p : Place) (n : Nat) : State × Nat :=
  (touchPlace s b.core (drawOf s lane 900) p n, leNat (readPlace s b.core (drawOf s lane 0) p n))

/-- R189, STORE: `n` bytes of a value stored at a checked place. -/
def storeAt (s : State) (b : Block) (p : Place) (n x : Nat) : State :=
  if storeLost s b.part p then s else coverPlace (writePlace s p (leBytes n x)) p n

/-- R139: an atomic on a pool line is performed with the line in M; paths that wait at a release fence for what merges go on (R141). -/
def ownLine (s : State) : Place → State
  | .phys pa => if paClass pa = 1 then wakeRetry (poolMerge s (pa % 2 ^ 44 / 64)) (fun _ => true) .fence else s
  | _ => s

/-- R139: what an atomic has stored in the queue is merged with it. -/
def updateAt (s : State) (b : Block) (lane : Nat) (p : Place) (n : Nat) (f : Nat → Option Nat) : State × Nat :=
  let s := ownLine s p
  let core := match p with
    | .phys pa => if paClass pa = 1 then Config.cores else b.core
    | _ => b.core
  let m := leNat (readPlace s core (drawOf s lane 0) p n)
  let s := match p with
    | .phys pa => if paClass pa = 1 then (List.range n).foldl (fun s k => dropStale s (pa % 2 ^ 44 + k)) s else s
    | _ => s
  match f m with
  | some x => (ownLine (storeAt s b p n x) p, m)
  | none => (s, m)

/-! ### What a command reads -/

/-- The full/empty space and offset of a place that has granules. -/
def Place.granule : Place → Option (FeSpace × Nat)
  | .scr b o => some (.scr b, o / 16)
  | .csh c o => some (.csh c, o / 16)
  | .dsp a => some (.dsp, a / 16)
  | _ => none

/-- A byte offset of a full/empty space as a place. -/
def FeSpace.place : FeSpace → Nat → Place
  | .scr b, o => .scr b o
  | .csh c, o => .csh c o
  | .dsp, a => .dsp a

/-- The state with one command changed. -/
def modCmd (s : State) (id : Nat) (f : Cmd → Cmd) : State :=
  { s with cmds := s.cmds.map fun k => if k.id = id then f k else k }

/-- On whose behalf a command accesses memory. -/
def Cmd.who (c : Cmd) : Who := { part := c.part, ctx := c.ctx, trc := c.trc, level1 := c.level1, core := c.core }

/-- An address some bytes on. -/
def EngAddr.plus (k : Nat) : EngAddr → EngAddr
  | .global va => .global (va + BitVec.ofNat 64 k)
  | .loc sp o => .loc sp (o + k)
  | .tile h o => .tile h (o + k)

/-- The parts of a run of bytes that no page boundary divides: offset and length. -/
def segments (va n : Nat) : List (Nat × Nat) :=
  let h := min n (16 - va % 16)
  if h = n then [(0, n)] else [(0, h), (h, n - h)]

/-- R109: base and size of the page that an access of a command has just been translated by. -/
def hitPage (s : State) (c : Cmd) (va : DWord) : Nat × Nat :=
  ((tlbHit s (coreTlbs c.core) c.part c.ctx c.trc (va.toNat % 2 ^ 57)).map fun e => (e.va, e.size)).getD (0, 0)

/-- R376: the parts of a global run, checked: physical address, offset, length, and the page of the translation. -/
def globalParts (s : State) (c : Cmd) (kind : AccessKind) (va : DWord) :
    List (Nat × Nat) → State × Except NoAccess (List (Nat × Nat × Nat × (Nat × Nat)))
  | [] => (s, .ok [])
  | (o, n) :: rest =>
    match globalPlace s c.who kind (va + BitVec.ofNat 64 o) (drawOf s 200 o) with
    | (t, .ok (.phys pa)) => match globalParts t c kind va rest with
      | (s, .ok ps) => (s, .ok ((pa, o, n, hitPage t c (va + BitVec.ofNat 64 o)) :: ps))
      | (s, .error e) => (s, .error e)
    | (s, .ok _) => (s, .error .wait)
    | (s, .error e) => (s, .error e)

/-- The unit of a full/empty space still exists, or commands still reach what is left of it (R78). -/
def unitLives (s : State) (sp : FeSpace) : Bool :=
  match sp with
  | .scr b => (blockOf s b).isSome || (shadeOf s sp).isSome
  | .csh c => (clusterOf s c).isSome || (shadeOf s sp).isSome
  | .dsp => true

/-- R132: what a command reads at an address, and whether any of it is poisoned. -/
def engineRead (s : State) (c : Cmd) (a : EngAddr) (n : Nat) : State × Except NoAccess (List Byte × Bool) :=
  let draw := drawOf s 201 0
  let at' := fun (t : State) p k j => (readPlace t Config.cores (draw + k) p j, placePoisoned t p j)
  match a with
  | .global va =>
    match globalParts s c .read va (segments va.toNat n) with
    | (s, .error e) => (s, .error e)
    | (s, .ok ps) =>
      let s := ps.foldl (fun s q => touchPlace s Config.cores (draw + 900) (.phys q.1) q.2.2.1) s
      (s, .ok (ps.flatMap fun q => (at' s (.phys q.1) q.2.1 q.2.2.1).1, ps.any fun q => (at' s (.phys q.1) 0 q.2.2.1).2))
  | .loc sp o =>
    if unitLives s sp then (s, .ok (at' s (sp.place o) 0 n))
    else (s, .ok ((List.range n).map fun k => Config.releasedByte (draw + k), false))
  | .tile h o =>
    match tileOf s c.part c.ctx h with
    | some t => (s, .ok (at' s (t.space.place (t.base + o)) 0 n))
    | none => (s, .ok ((List.range n).map fun k => Config.releasedByte (draw + k), false))

/-- The byte offset in a tensor of the element run that holds dense byte `o` of a box (R286): dimension 0 innermost. -/
def boxOffset (t : Tensor) (o : Nat) : Nat :=
  let e := 2 ^ t.esz
  let row := t.extent.getD 0 1 * e
  let x0 := t.origin.getD 0 0 * e + o % row
  let step := fun (acc : Nat × Nat) (k : Nat) =>
    let n := t.extent.getD k 1
    (acc.1 / n, acc.2 + (t.origin.getD k 0 + acc.1 % n) * t.strides.getD k 0 * e)
  x0 + ([1, 2, 3, 4].foldl step (o / row, 0)).2

/-- R283: where the index of the row at byte `o` of a gather lies, and its bytes. -/
def indexPlace (o len blk idx : Nat) (wide : Bool) : EngAddr × Nat :=
  let w := if wide then 8 else 4
  (.loc (.scr blk) (idx + o / len * w), w)

/-- Where the piece of a command at byte `o` of its work goes. -/
def pieceDst (c : Cmd) (o : Nat) : EngAddr :=
  match c.kind with
  | .rect dst _ len _ _ dp => dst.plus (o / len * dp + o % len)
  | .tens dense t toTensor => if toTensor then .global (t.base + BitVec.ofNat 64 (boxOffset t o)) else dense.plus o
  | .gather dst _ _ _ _ _ _ => dst.plus o
  | .coll _ _ _ _ _ dst _ _ => .global (dst + BitVec.ofNat 64 o)
  | .mdrain dst _ _ _ => dst

/-- Where the piece of a command at byte `o` of its work comes from, and whether a poisoned index says so (R415). -/
def pieceSrc (s : State) (c : Cmd) (o : Nat) : State × Except NoAccess (EngAddr × Bool) :=
  match c.kind with
  | .rect _ src len _ sp _ => (s, .ok (src.plus (o / len * sp + o % len), false))
  | .tens dense t toTensor => (s, .ok (if toTensor then dense.plus o else .global (t.base + BitVec.ofNat 64 (boxOffset t o)), false))
  | .gather _ base len pitch blk idx wide =>
    let (a, w) := indexPlace o len blk idx wide
    match engineRead s c a w with
    | (s, .ok (bs, bad)) => (s, .ok (.global (base + BitVec.ofNat 64 (leNat bs * pitch + o % len)), bad))
    | (s, .error e) => (s, .error e)
  | .coll _ _ _ _ src _ _ _ => (s, .ok (.global (src + BitVec.ofNat 64 o), false))
  | .mdrain _ _ _ _ => (s, .error .wait)

/-- R132: `n` bytes of a command's source from offset `o`, within a piece, read now, with their poison. -/
def readSource (s : State) (c : Cmd) (o n : Nat) : State × Except NoAccess (List Byte × Bool) :=
  match pieceSrc s c o with
  | (s, .error e) => (s, .error e)
  | (s, .ok (src, bad)) => match engineRead s c src n with
    | (s, .ok (bs, old)) => (s, .ok (bs, bad || old))
    | (s, .error e) => (s, .error e)

/-- R132: bytes of a source from offset `o`, those read ahead as they were read. -/
def withEarly (early : Cells (Byte × Bool)) (o : Nat) (r : List Byte × Bool) : List Byte × Bool :=
  let at' := fun k => cfind early (o + k)
  let used := (List.range r.1.length).filterMap at'
  (r.1.mapIdx fun k b => ((at' k).map Prod.fst).getD b, used.any Prod.snd || (r.2 && used.length < r.1.length))

/-- R132: the 16 bytes of a piece of a command's source, read ahead or now. -/
def readPiece (s : State) (c : Cmd) (o : Nat) : State × Except NoAccess (List Byte × Bool) :=
  if (List.range 16).all fun k => (cfind c.early (o + k)).isSome then (s, .ok (withEarly c.early o (List.replicate 16 0, false)))
  else match readSource s c o 16 with
    | (s, .ok r) => (s, .ok (withEarly c.early o r))
    | r => r

/-- R132: what a command has read ahead with the byte of its source at an offset; one that it cannot read now it reads with its piece. -/
def earlier (r : State × Cmd) (o : Nat) : State × Cmd :=
  if (cfind r.2.early o).isSome then r
  else match readSource r.1 r.2 o 1 with
    | (t, .ok ([b], bad)) => (t, { r.2 with early := cset r.2.early o (b, bad) })
    | _ => r

/-- R132: a command reads a byte of its source ahead of the piece it lies in. -/
def readAhead (cmd : Nat) (s : State) (o : Nat) : State :=
  match s.cmds.find? fun c => c.id = cmd with
  | none => s
  | some c =>
    let r := earlier (s, c) o
    modCmd r.1 cmd fun k => { k with early := r.2.early }

/-! ### What a thread's commands have read before its accesses -/

/-- R132: the offsets of its source that a command has not come to. -/
def Cmd.unread (c : Cmd) : List Nat :=
  match c.kind with
  | .mdrain _ _ _ _ => []
  | .coll _ _ _ _ _ _ count _ => if c.done = 0 then List.range count else []
  | _ => (List.range (c.total - c.done)).map fun k => c.done + k

/-- On whose behalf a row is read and written: a command that moves bytes from one address to another. -/
def BfqRow.cmd (r : BfqRow) (id : Nat) (src dst : EngAddr) : Cmd :=
  { id := id, part := r.part, ctx := r.ctx, blk := r.blk, grp := r.grp, core := r.core, trc := r.trc, level1 := r.level1,
    major := 0x18, pc := r.pc, key := r.key, kind := .rect dst src 0 0 0 0, total := 0 }

/-- A row's activation as a command's source, some of it read ahead. -/
def BfqRow.source (r : BfqRow) (dst : EngAddr) : Cmd := { r.cmd 0 (.global r.act) dst with early := r.early }

/-- R132: a row's activation of `ra` bytes is read ahead. -/
def rowAhead (ra : Nat) (a : State × List BfqRow) (r : BfqRow) : State × List BfqRow :=
  let q := (List.range ra).foldl earlier (a.1, r.source (.global r.res))
  (q.1, a.2 ++ [{ r with early := q.2.early }])

/-- R132: the rows for which it holds are read ahead, in a list. -/
def rowsAhead (ra : Nat) (mine : BfqRow → Bool) (s : State) (rows : List BfqRow) : State × List BfqRow :=
  rows.foldl (fun a r => if mine r then rowAhead ra a r else (a.1, a.2 ++ [r])) (s, [])

/-- R132: the rows of a binding that are not in a closed batch are read ahead. -/
def bindingAhead (mine : BfqRow → Bool) (s : State) (unit : Nat) : State :=
  match cfind s.bfqs unit with
  | none => s
  | some q =>
    let h := rowsAhead q.ra mine s q.held
    let ps := q.pairs.foldl (fun (a : State × List BfqPair) p =>
      if p.closed then (a.1, a.2 ++ [p])
      else
        let r := rowsAhead q.ra mine a.1 p.rows
        (r.1, a.2 ++ [{ p with rows := r.2 }])) (h.1, [])
    { ps.1 with bfqs := cset ps.1.bfqs unit { q with held := h.2, pairs := ps.2 } }

/-- R145, Note 1: threads of a block access memory: their outstanding commands and rows have read their sources before. DEDUCED, log 135. -/
def sealSources (s : State) (blk : Nat) (tids : List (BitVec 16)) : State :=
  let cs := s.cmds.filter fun c => c.blk = blk && !c.fault && tids.any c.tids.contains
  let s := cs.foldl (fun s c => c.unread.foldl (readAhead c.id) s) s
  let mine := fun (r : BfqRow) => r.blk = blk && tids.any r.tids.contains
  let us := (s.bfqs.filter fun q => q.2.held.any mine || q.2.pairs.any fun p => !p.closed && p.rows.any mine).map Prod.fst
  us.foldl (bindingAhead mine) s

/-! ### Full/empty granules -/

/-- R259: once no lane of the group still waits at an instruction, the lanes of its path go on. -/
def feRelease (s : State) (blk grp : Nat) (pc : DWord) : State :=
  match groupOf s blk grp with
  | none => s
  | some g =>
    let waits := g.lanes.any fun l => l.live && l.npc = pc && (match l.hold with
      | .fe _ => true
      | _ => false)
    if waits then s
    else modGroup s blk grp fun g => { g with lanes := g.lanes.map fun l => match l.hold with
        | .feDone next => if l.npc = pc then { l with npc := next, hold := .none, once := false } else l
        | _ => l }

/-- R258, R259: a waiting operation's indivisible step, its granule allowing it; its lane then waits for the others. -/
def fePerform (s : State) (w : FeWait) : State :=
  let s := sealSources s w.blk [((groupOf s w.blk w.grp).map fun g => (g.lane w.lane).tid).getD 0]
  let p := w.space.place w.off
  let pc := ((groupOf s w.blk w.grp).map fun g => (g.lane w.lane).npc).getD 0
  let finish := fun (l : Lane) => match l.hold with
    | .fe next => { l with hold := .feDone next }
    | _ => l
  let s := match w.op with
    | .load clear =>
      let x := leNat (readPlace s 0 0 p w.bytes)
      let s := if clear then setFull s w.space (w.off / 16) false else s
      let s := (List.range (max 1 (w.bytes / 4))).foldl (fun s k => coverPoison s (.reg w.blk w.grp w.lane (w.d.toNat + k)) 0 4) s
      modLane s w.blk w.grp w.lane fun l => finish (l.dstBits w.d (max 32 (8 * w.bytes)) x)
    | .store v =>
      let s := setFull (coverPlace (writePlace s p (leBytes w.bytes v)) p w.bytes) w.space (w.off / 16) true
      modLane s w.blk w.grp w.lane finish
  feRelease s w.blk w.grp pc

/-- R124: the granule allows the operation. -/
def feAllows (s : State) (w : FeWait) : Bool :=
  match w.op with
  | .load _ => isFull s w.space (w.off / 16)
  | .store _ => !isFull s w.space (w.off / 16)

/-- R415: the operation touches a poisoned granule. -/
def fePoisoned (s : State) (w : FeWait) : Bool := placePoisoned s (w.space.place w.off) w.bytes

/-- R258, R342: the lane of a waiting operation, which has made no access, raises a trap at its instruction. -/
def feStop (s : State) (w : FeWait) (t : Trap) : State :=
  let pc := ((groupOf s w.blk w.grp).map fun g => (g.lane w.lane).npc).getD 0
  let s := modLane s w.blk w.grp w.lane fun l => { l with hold := .none }
  feRelease (trapLanes s w.blk w.grp false [(w.lane, t)]) w.blk w.grp pc

/-- R415: a waiting operation that meets poison raises DATA_POISON. -/
def feTrap (s : State) (w : FeWait) : State := feStop s w { cause := 0x3C, addr := BitVec.ofNat 64 w.addr }

/-- R124, R259: the waiter that began first among those whose granules allow them is done, until none is left; `fuel` bounds
the waiters. -/
def feServe : Nat → State → State
  | 0, s => s
  | fuel + 1, s =>
    match s.feq.find? (feAllows s) with
    | none => s
    | some w =>
      let t := { s with feq := s.feq.erase w }
      feServe fuel (if fePoisoned s w then feTrap t w else fePerform t w)

/-- R124: the waiters are retried after granules have changed. -/
def feRetry (s : State) : State := feServe s.feq.length s

/-- R123, R415: an engine's bytes reach a local place: data, which poisons the place when it is poisoned, then the granules it touches
full, then the waiters. -/
def engineLocal (s : State) (p : Place) (bad : Bool) (bs : List Byte) : State :=
  let s := coverPlace (writePlace s p bs) p bs.length
  let s := if bad then poisonPlace s p bs.length else s
  let s := match p.granule with
    | some (sp, k) => match (p.shift (bs.length - 1)).granule with
      | some (_, j) => (List.range (j + 1 - k)).foldl (fun s i => setFull s sp (k + i) true) s
      | none => s
    | none => s
  feRetry s

/-! ### Lane instructions on memory -/

/-- R343: of two causes in one lane, the lower code. -/
def Trap.lower (t u : Trap) : Trap := if u.cause < t.cause then u else t

/-- R352: the instruction is a dispatch, which uses ONCE up. -/
def dispatches : Instr → Bool
  | .guestDispatch _ | .guestDispatchRg _ => true
  | _ => false

/-- R190, R342: one lane of a lane instruction that acts on memory: the state and what stopped lanes so far, and this lane's
turn. `f` gets the path as it stood before the instruction and the state with this lane at NEXT; a poisoned operand, which has
the highest code, counts only where the access itself raises nothing (R343). A lane that traps is as it was, but that a dispatch, which
skipped its check under ONCE, has used it up (R342, R352). -/
def laneTurn (p : Path) (i : Instr) (x : LExt) (f : Path → Nat → State → State × Option NoAccess)
    (acc : State × List (Nat × NoAccess)) (n : Nat) : State × List (Nat × NoAccess) :=
  let go := fun s => modLane s p.iss.blk p.iss.grp n fun l => l.advance p.iss.next
  let back := fun s => modLane s p.iss.blk p.iss.grp n fun l =>
    { l with npc := p.iss.pc, hold := .none, seen := (p.g.lane n).seen, once := (p.g.lane n).once && !dispatches i }
  if !guardHolds x (p.g.lane n) then (go acc.1, acc.2)
  else match laneCheck acc.1 p i x n with
    | some t => (acc.1, (n, .trap (match f p n (go acc.1) with
        | (_, some (.trap u)) => t.lower u
        | _ => t)) :: acc.2)
    | none => match f p n (go acc.1) with
      | (s, none) => (unpoison s p i [n], acc.2)
      | (s, some e) => (back s, (n, e) :: acc.2)

/-- R375: the traps of the lanes, in ascending lane. -/
def trapsOf (es : List (Nat × NoAccess)) : List (Nat × Trap) :=
  (List.range 32).filterMap fun n => (es.find? fun e => e.1 = n).bind fun e => match e.2 with
    | .trap t => some (n, t)
    | _ => none

/-- R410: the foreign unit that some access named. -/
def foreignOf (es : List (Nat × NoAccess)) : Option DWord :=
  es.findSome? fun e => match e.2 with
    | .foreign t => some t
    | _ => none

/-- R412, R413: some access waits for a link. -/
def waitsOf (es : List (Nat × NoAccess)) : Bool := es.any fun e => e.2 = .wait

/-- The end of a lane instruction on memory: an isolation violation, or the trap records. -/
def endTurns (p : Path) (r : State × List (Nat × NoAccess)) : State :=
  match foreignOf r.2 with
  | some t => isolate r.1 p.b.part p.b.core t
  | none => raiseLanes r.1 p (trapsOf r.2)

/-- R352, R412: the lanes of a path wait for a link; those at a dispatch keep ONCE, which their check has not used up. -/
def linkHold (s : State) (p : Path) (i : Instr) : State :=
  modGroup s p.iss.blk p.iss.grp fun g => g.modLanes p.lanes fun _ l =>
    { l with hold := .retry .link, once := l.once && dispatches i, seen := p.keeps (.retry .link) }

/-- R130, R190: A LANE INSTRUCTION ON MEMORY: every source from the path as it stood, the lanes' accesses one after another in
the model's order, then the traps. `fin` follows when some lane has done its effect; an instruction of which no lane executes
joins no list (R271). DESIGN CHOICE, log 110. While an access of some lane waits for a link, the whole instruction waits (R412,
R413). -/
def laneFold (i : Instr) (x : LExt) (f : Path → Nat → State → State × Option NoAccess) (fin : Path → State → State)
    (s : State) : Out :=
  match pathOf s with
  | none => .fault .noIssuer
  | some p =>
    let r := (accessOrder s.laneOrder p.lanes).foldl (laneTurn p i x f) (s, [])
    let did := (p.exec x).any fun n => !(r.2.any fun e => e.1 = n)
    .next (if waitsOf r.2 then linkHold s p i else endTurns p (if did then (fin p r.1, r.2) else r))

/-- How a uniform access that is not made ends its instruction. -/
def NoAccess.uend (p : Path) (s : State) : NoAccess → UEnd
  | .trap t => .trap s t
  | .foreign t => .stay (isolate s p.b.part p.b.core t)
  | .wait => .stay (pathHold s p (.retry .link))

/-! ### Counted accesses -/

/-- R271: an operation joins one of the group's lists. -/
def CountList.add (c : CountList) : CountList := { c with issued := c.issued + 1, pend := c.pend ++ [c.issued] }

/-- R40: a word of a global-space load or of an atomic. -/
def farWord (w : Word) : Bool := [0x17#7, 0x1D, 0x1E, 0x47].contains (w.extractLsb' 25 7)

/-- R271, R36, R40: an operation of some lanes, with its base word, joins one of the group's lists. -/
def CountList.addFor (c : CountList) (m : BitVec 32) (w : Word) : CountList :=
  { c.add with lanes := c.lanes ++ [(c.issued, m)], far := if farWord w then c.far ++ [c.issued] else c.far }

/-- R271: an entry is complete. -/
def CountList.retire (c : CountList) (id : Nat) : CountList :=
  { c with pend := c.pend.filter fun k => k ≠ id, lanes := c.lanes.filter fun q => q.1 ≠ id, far := c.far.filter fun k => k ≠ id
           sys := c.sys.filter fun k => k ≠ id }

/-- R36: open entries of a list in which a lane takes part. -/
def CountList.openOf (c : CountList) (i : Nat) : Nat := (c.lanes.filter fun q => q.2.getLsbD i).length

/-- Table 6-2: open loads and atomics to system-class memory in which a lane takes part. -/
def CountList.sysOf (c : CountList) (i : Nat) : Bool := c.lanes.any fun q => c.sys.contains q.1 && q.2.getLsbD i

/-- Table 6-2: the entry that joins a list next is of system-class memory, when its place is. -/
def CountList.noteSys (pl : Place) (c : CountList) : CountList :=
  if pl.sysClass && !c.sys.contains c.issued then { c with sys := c.sys ++ [c.issued] } else c

/-- Table 6-2: a load or atomic, made before its entry joins the loads or the stores of its group. -/
def noteSys (s : State) (p : Path) (store : Bool) (pl : Place) : State :=
  pathGroup s p fun g => if store then { g with stores := g.stores.noteSys pl } else { g with loads := g.loads.noteSys pl }

/-- R271: an access of the lanes of `m` joins the loads or the stores of its group. -/
def countAccess (s : State) (p : Path) (store : Bool) (m : BitVec 32) : State :=
  pathGroup s p fun g =>
    if store then { g with stores := g.stores.addFor m p.iss.word } else { g with loads := g.loads.addFor m p.iss.word }

end Sys2Proof.Machine
end

