-- ==== Sys2Proof/Machine/Store.lean ====
section
/-! DEFINITION. The unified core store (R114 to R121): splits, allocation of register chunks, lane-private areas and core
scratch in cells of 256 bytes, constellation-shared runs, and group slots of sub-cores (R26, R40). -/

namespace Sys2Proof.Machine

open Sys2Proof

/-! ### Splits -/

/-- R114: the split of a body: register and scratch units, from the kernel record or from SPLIT. -/
def splitOf (s : State) (p c : Nat) (k : Kernel) (lbody : Bool) : Nat × Nat :=
  let r := if lbody then k.lsplit else k.dsplit
  let d := (ctxOf s p c).split.toNat
  if r = (0, 0) then (if lbody then (bits d 16 8, bits d 24 8) else (bits d 0 8, bits d 8 8)) else r

/-- Table 5-7: units of each core that a context gives to constellation-shared memory. -/
def cshUnits (s : State) (p c : Nat) : Nat := bits (ctxOf s p c).splitLimit.toNat 32 4

/-- R114: a split is within its bounds on a core of `units` units. -/
def splitOk (limit : BitVec 36) (lbody : Bool) (units : Nat) (sp : Nat × Nat) : Bool :=
  let l := limit.toNat
  let regMax := if lbody then bits l 16 8 else bits l 0 8
  let scrMax := if lbody then bits l 24 8 else bits l 8 8
  1 ≤ sp.1 && sp.1 ≤ regMax && sp.2 ≤ scrMax && sp.1 + sp.2 + bits l 32 4 + 2 ≤ units

/-- The intersection of two ranges. -/
def meet (a b : Nat × Nat) : Nat × Nat := (max a.1 b.1, min a.2 b.2)

/-- R115: the range in which a core allocates a kind now. -/
def allowedRange (c : Core) (scratch : Bool) : Nat × Nat :=
  match c.split, c.pendingSplit with
  | some sp, some q => meet (kindRange scratch sp) (kindRange scratch q)
  | some sp, none => kindRange scratch sp
  | none, _ => (0, 0)

/-- R115: a block of a split may be placed on the core, which then takes that split up; none when another is pending. -/
def takeSplit (c : Core) (sp : Nat × Nat) : Option Core :=
  match c.split with
  | none => some { c with split := some sp, pendingSplit := none }
  | some cur =>
    if cur = sp then some c
    else match c.pendingSplit with
      | some q => if q = sp then some c else none
      | none => some (commitSplit { c with pendingSplit := some sp })

/-! ### Allocation -/

/-- The lowest place of a run of `n` cells in a range, clear of the allocations. -/
def findRun (as : List Alloc) (r : Nat × Nat) (n : Nat) : Option Nat :=
  let starts := r.1 :: (as.map fun a => a.start + a.len)
  let ok := starts.filter fun k =>
    r.1 ≤ k && k + n ≤ r.2 && as.all fun a => k + n ≤ a.start || a.start + a.len ≤ k
  ok.min?

/-- One run allocated, when there is room. -/
def allocRun (c : Core) (blk grp chunk n : Nat) : Option Core :=
  if n = 0 then some c
  else (findRun c.allocs (allowedRange c (grp = 32)) n).map fun k =>
    { c with allocs := c.allocs ++ [{ blk := blk, grp := grp, chunk := chunk, start := k, len := n }] }

/-- R116: chunks `from'` to `from' + n - 1` of a group. -/
def allocChunks (c : Core) (blk grp from' : Nat) : Nat → Option Core
  | 0 => some c
  | n + 1 => (allocRun c blk grp from' 4).bind fun c => allocChunks c blk grp (from' + 1) n

/-- R116, R119: the registers and the lane-private area of a group. -/
def allocGroup (c : Core) (blk grp budget priv : Nat) : Option Core :=
  (allocChunks c blk grp 0 budget).bind fun c => allocRun c blk grp 14 (priv / 8)

/-- The groups of a block, each with its budget. -/
def allocGroups (c : Core) (blk priv : Nat) : List (Nat × Nat) → Option Core
  | [] => some c
  | (g, bud) :: gs => (allocGroup c blk g bud priv).bind fun c => allocGroups c blk priv gs

/-- R115, R120: everything a block needs of a core's store: its split, its groups' registers and slices, its scratch. -/
def allocBlock (c : Core) (blk : Nat) (sp : Nat × Nat) (groups : List (Nat × Nat)) (priv scr : Nat) : Option Core :=
  (takeSplit c sp).bind fun c => (allocGroups c blk priv groups).bind fun c => allocRun c blk 32 0 (roundUp scr 256 / 256)

/-- Releases the allocations of a core that meet a condition; a pending split may then become current. -/
def freeAllocs (c : Core) (f : Alloc → Bool) : Core := commitSplit { c with allocs := c.allocs.filter fun a => !f a }

/-! ### Group slots -/

/-- The groups resident on a core that have not ended, as (block, group, sub-core, active). -/
def residents (s : State) (core : Nat) : List (Nat × Nat × Nat × Bool) :=
  (s.blocks.filter fun b => b.core = core).flatMap fun b =>
    b.liveGroups.filterMap fun g => (b.group g).map fun gr => (b.id, g, gr.sub, gr.active)

/-- Free group slots of a sub-core. -/
def freeSub (s : State) (core sub : Nat) : Nat :=
  Config.groupsPerSub core - ((residents s core).filter fun r => r.2.2.1 = sub).length

/-- Free group slots of a core. -/
def freeSlotsOf (s : State) (core : Nat) : Nat :=
  Config.groupsPerSub core * Config.subCores core - (residents s core).length

/-- R26: the sub-core with the most free group slots, the lower on a tie, given the free slots of each. -/
def bestSub (free : List Nat) : Nat :=
  ((List.range free.length).find? fun k => free.all fun f => f ≤ free[k]?.getD 0).getD 0

/-- R26: the sub-cores of `n` groups placed in ascending number. -/
def assignSubs : Nat → List Nat → List Nat
  | 0, _ => []
  | n + 1, free => bestSub free :: assignSubs n (free.modify (bestSub free) fun k => k - 1)

/-- R26, R40, R41: sub-cores and active places of the groups of a block that is placed on a core. -/
def seatGroups (s : State) (core : Nat) (gs : List Group) : List Group :=
  let subs := assignSubs gs.length ((List.range (Config.subCores core)).map fun k => freeSub s core k)
  let busy := fun k => ((residents s core).filter fun r => r.2.2.1 = k).length
  gs.mapIdx fun i g =>
    let sub := subs.getD i 0
    let before := ((subs.take i).filter fun k => k = sub).length
    { g with sub := sub, active := busy sub + before < Config.activePlaces, since := s.clk, mark := s.clk, chooseAt := 0 }

/-! ### Constellation-shared memory -/

/-- R121: bytes of a constellation's shared memory. -/
def cshSize (s : State) (p c : Nat) : Nat := Config.coresPerConst * cshUnits s p c * 32768

/-- R121: the lowest stripe-aligned base of a run of bytes in a constellation. -/
def findShared (s : State) (const size n : Nat) : Option Nat :=
  let used := (s.clusters.filter fun c => c.const = const && 0 < c.bytes).map fun c => (c.base, roundUp c.bytes 4096)
  let starts := 0 :: used.map fun u => u.1 + u.2
  let ok := starts.filter fun k => k + roundUp n 4096 ≤ size && used.all fun u => k + roundUp n 4096 ≤ u.1 || u.1 + u.2 ≤ k
  if n = 0 then some 0 else ok.min?

/-! ### New groups and blocks -/

/-- A thread at its start (R24, R80, Table 2-4). -/
def newLane (live : Bool) (tid : Nat) (pc : DWord) : Lane :=
  if live then { live := true, tid := BitVec.ofNat 16 tid, npc := pc } else {}

/-- R24: group `g` of a block of `threads` threads. -/
def newGroup (threads budget : Nat) (pc : DWord) (g : Nat) : Group :=
  { lanes := (List.range 32).map fun i => newLane (32 * g + i < threads) (32 * g + i) pc, budget := budget }

/-- A one-group block's group with a live mask: TID is the lane number (R80, R346). -/
def newMasked (live : BitVec 32) (budget : Nat) (pc : DWord) : Group :=
  { lanes := (List.range 32).map fun i => newLane (live.getLsbD i) i pc, budget := budget }

/-- The empty barrier slots of a unit (R269). -/
def newSlots (n : Nat) : List BarSlot := List.replicate n {}

/-- Table 9-5: a body's budget. -/
def Kernel.budget (k : Kernel) (lbody : Bool) : Nat := if lbody then k.lbud else k.dbud

end Sys2Proof.Machine
end

