-- ==== Sys2Proof/Machine/Slots.lean ====
section
/-! DEFINITION. Barrier slots (R142 to R144, R269): finding them, arrivals, byte counts, and the completion of a phase with
what it publishes and whom it releases. -/

namespace Sys2Proof.Machine

open Sys2Proof

/-- Table 8-3: the slot that a level and number name for the issuing path. -/
def slotKey (p : Path) (level : BitVec 2) (n : BitVec 4) : SlotKey :=
  match level.toNat with
  | 0 => .grp p.iss.blk p.iss.grp n.toNat
  | 1 => .blk p.iss.blk n.toNat
  | 2 => .cls p.b.cluster n.toNat
  | _ => .grd p.b.grid n.toNat

def slotOf (s : State) : SlotKey → Option BarSlot
  | .grp b g n => (groupOf s b g).bind fun x => x.slots[n]?
  | .blk b n => (blockOf s b).bind fun x => x.slots[n]?
  | .cls c n => (clusterOf s c).bind fun x => x.slots[n]?
  | .grd g n => (gridOf s g).bind fun x => x.slots[n]?

/-- The state with one slot changed. -/
def modSlot (s : State) (k : SlotKey) (f : BarSlot → BarSlot) : State :=
  match k with
  | .grp b g n => modGroup s b g fun x => { x with slots := x.slots.modify n f }
  | .blk b n => modBlock s b fun x => { x with slots := x.slots.modify n f }
  | .cls c n => modCluster s c fun x => { x with slots := x.slots.modify n f }
  | .grd g n => modGrid s g fun x => { x with slots := x.slots.modify n f }

/-- R142: the members of a slot: the groups of its unit that have not ended. -/
def members (s : State) : SlotKey → Nat
  | .grp _ _ _ => 1
  | .blk b _ => ((blockOf s b).map fun x => x.liveGroups.length).getD 0
  | .cls c _ => ((clusterOf s c).map fun x => x.total - x.ended).getD 0
  | .grd g _ => ((gridOf s g).map fun x => x.total - x.ended).getD 0

/-- R142: the phase is complete. -/
def BarSlot.complete (b : BarSlot) : Bool :=
  match b.latch with
  | some n => b.arrivals = n && b.expected ≤ b.accrued
  | none => false

/-- R142: a slot after the completion of its phase. -/
def BarSlot.turned (b : BarSlot) : BarSlot :=
  { accrued := b.accrued - b.expected, parity := !b.parity }

/-- The group's stop image is written: its lanes stand as the image has them until it is returned. -/
def Group.imaged (g : Group) : Bool := (g.stop.bind fun t => t.slot).isSome

/-- R144: the lanes that wait on a slot go on; a stopped group whose image is written is left to its resume. -/
def releaseSlot (s : State) (k : SlotKey) : State :=
  { s with blocks := s.blocks.map fun b => { b with groups := b.groups.map fun g =>
      if g.imaged then g
      else
        { g with lanes := g.lanes.map fun l => match l.hold with
            | .slot j next _ _ => if j = k then { l with npc := next, hold := .none, once := false } else l
            | _ => l } } }

/-- R142, R133, R144: a complete phase turns: its counted bytes are published and its waiters released. -/
def settleSlot (s : State) (k : SlotKey) : State :=
  match slotOf s k with
  | some b =>
    if b.complete then releaseSlot (b.cmds.foldl publish (modSlot s k BarSlot.turned)) k else s
  | none => s

/-- R142: one arrival, which latches a count when it is the phase's first; R69: the arrival count is 31 bits wide, and
wraps. DESIGN CHOICE, log 142. -/
def arriveSlot (s : State) (k : SlotKey) (count : Nat) : State :=
  settleSlot (modSlot s k fun b => { b with arrivals := (b.arrivals + 1) % 2 ^ 31, latch := some (b.latch.getD count) }) k

/-- R142: `bar.expect` adds to the expected byte count. -/
def expectSlot (s : State) (k : SlotKey) (n : Nat) : State :=
  settleSlot (modSlot s k fun b => { b with expected := b.expected + n }) k

/-- R385: an accrued count saturates. -/
def satCount (n : Nat) : Nat := min n (2 ^ 32 - 1)

/-- A slot with a byte count added. -/
def BarSlot.accrue (b : BarSlot) (n cmd : Nat) : BarSlot :=
  { b with accrued := satCount (b.accrued + n), cmds := b.cmds ++ [cmd] }

/-- R363: a byte count reaches a slot of a block image, or of none of its slots. -/
def Block.hold (k : SlotKey) (n cmd : Nat) (b : Block) : Block :=
  match k with
  | .grp id g j =>
    if b.id = id then b.modGroup g fun x => { x with slots := x.slots.modify j fun q => q.accrue n cmd } else b
  | .blk id j => if b.id = id then { b with slots := b.slots.modify j fun q => q.accrue n cmd } else b
  | _ => b

/-- R363: a byte count reaches a slot of a cluster image. -/
def Cluster.hold (k : SlotKey) (n cmd : Nat) (c : Cluster) : Cluster :=
  { c with slots := c.slots.mapIdx fun j q => if k = .cls c.id j then q.accrue n cmd else q }

/-- R363: a byte count reaches a slot of a grid image. -/
def Grid.hold (k : SlotKey) (n cmd : Nat) (g : Grid) : Grid :=
  { g with slots := g.slots.mapIdx fun j q => if k = .grd g.id j then q.accrue n cmd else q }

/-- R363: a byte count reaches a slot of a saved context. -/
def Saved.hold (k : SlotKey) (n cmd : Nat) (v : Saved) : Saved :=
  { v with
    blocks := v.blocks.map (Block.hold k n cmd)
    resume := v.resume.map (Block.hold k n cmd)
    clusters := v.clusters.map (Cluster.hold k n cmd)
    grids := v.grids.map (Grid.hold k n cmd) }

/-- R363, R387: a byte count reaches the images of a partition: saved contexts and blocks that wait to be placed again. -/
def Part.hold (k : SlotKey) (n cmd : Nat) (q : Part) : Part :=
  { q with
    resume := q.resume.map (Block.hold k n cmd)
    ctxs := q.ctxs.map fun c => (c.1, { c.2 with saved := c.2.saved.map (Saved.hold k n cmd) }) }

/-- R363: a byte count for a slot that is in an image is applied there; its phase completes after the restore. -/
def holdCount (s : State) (k : SlotKey) (n cmd : Nat) : State :=
  { s with parts := s.parts.map fun p => (p.1, p.2.hold k n cmd) }

/-- R142, R133: a byte count of a command reaches its slot. -/
def addBytes (s : State) (k : SlotKey) (n cmd : Nat) : State :=
  match slotOf s k with
  | some _ => settleSlot (modSlot s k fun b => b.accrue n cmd) k
  | none => holdCount s k n cmd

end Sys2Proof.Machine
end

