-- ==== Sys2Proof/Machine/Engine.lean ====
section
/-! DEFINITION. Engine commands under way (R132 to R136, R282 to R289): the 16-byte pieces a command moves, its reads and
writes with poison (R415), handles (R127) and faults, and the matrix engine's accepted operations (R163, R164, R277 to
R284). -/

namespace Sys2Proof.Machine

open Sys2Proof

/-! ### Engine writes -/

/-- R133, R134: bytes that a command writes at a physical address, ordered when they are published. -/
def overlay (s : State) (c : Cmd) (page : Nat × Nat) (va pa : Nat) (bs : List Byte) : State :=
  { s with unpub := s.unpub ++ bs.mapIdx fun k b =>
      { pa := pa + k, cmd := c.id, byte := b, part := c.part, ctx := c.ctx, trc := c.trc, va := va + k, page := page } }

/-- One part of a global engine write. -/
def globalWrite (s : State) (c : Cmd) (bad : Bool) (page : Nat × Nat) (va pa : Nat) (bs : List Byte) : State :=
  if storeLost s c.part (.phys pa) then s
  else
    let s := coverPlace (overlay s c page va pa bs) (.phys pa) bs.length
    if bad then poisonPlace s (.phys pa) bs.length else s

/-- R127: a write under a stale handle is dropped and counted. -/
def engineWrite (s : State) (c : Cmd) (bad : Bool) (a : EngAddr) (bs : List Byte) : State × Except NoAccess Unit :=
  match a with
  | .global va =>
    match globalParts s c .write va (segments va.toNat bs.length) with
    | (s, .error e) => (s, .error e)
    | (s, .ok ps) => (ps.foldl (fun s q => globalWrite s c bad q.2.2.2 (va.toNat % 2 ^ 57 + q.2.1) q.1 ((bs.drop q.2.1).take q.2.2.1)) s, .ok ())
  | .loc sp o => (if unitLives s sp then engineLocal s (sp.place o) bad bs else s, .ok ())
  | .tile h o =>
    match tileOf s c.part c.ctx h with
    | some t => (engineLocal s (t.space.place (t.base + o)) bad bs, .ok ())
    | none => (bumpCounter (modCmd s c.id fun k => { k with dropped := true }) c.part c.ctx 62 1, .ok ())

/-- R123: the 16 bytes at offset `o` of a command's work: read, and written. -/
def putPiece (s : State) (c : Cmd) (o : Nat) : State × Except NoAccess Unit :=
  match readPiece s c o with
  | (s, .error e) => (s, .error e)
  | (s, .ok (bs, bad)) => engineWrite s c bad (pieceDst c o) bs

/-- R123: the next 16 bytes of a command: read, written, and counted as done; or why not. -/
def movePiece (s : State) (c : Cmd) : State × Except NoAccess Unit :=
  match putPiece s c c.done with
  | (s, .error e) => (s, .error e)
  | (s, .ok _) => (modCmd s c.id fun k => { k with done := k.done + 16, early := k.early.filter fun q => k.done + 16 ≤ q.1 }, .ok ())

/-- The command of a number. -/
def cmdOf (s : State) (id : Nat) : Option Cmd := s.cmds.find? fun c => c.id = id

/-- R282: the handle that names a command's destination, if one does. -/
def Cmd.dstHandle (c : Cmd) : Option Word :=
  match c.kind with
  | .rect (.tile h _) _ _ _ _ _ | .gather (.tile h _) _ _ _ _ _ _ | .mdrain (.tile h _) _ _ _ | .tens (.tile h _) _ false =>
    some h
  | _ => none

/-- R78: the command is outstanding, or saved. -/
def cmdAlive (s : State) (id : Nat) : Bool :=
  (s.cmds.any fun c => c.id = id) || s.parts.any fun q => q.2.ctxs.any fun x => x.2.saved.any fun v => v.cmds.any fun c => c.id = id

/-- R78: what no outstanding command reaches of ended units is gone. -/
def dropShades (s : State) : State := { s with shades := s.shades.filter fun h => h.cmds.any (cmdAlive s) }

/-- R78: an ended unit leaves behind what its outstanding commands still reach. -/
def leaveShade (s : State) (h : Shade) (f : Cmd → Bool) : State :=
  let ids := (s.cmds.filter f).map Cmd.id
  if ids.isEmpty then s else { s with shades := s.shades ++ [{ h with cmds := ids }] }

/-- R271: a command's entries leave its group's lists; with `keep` a `waitc` may still publish it. -/
def retireCmd (s : State) (c : Cmd) (keep : Bool) : State :=
  let out := fun (l : CountList) (e : Option Nat) => match e with
    | some k => { l.retire k with cmds := if keep then l.cmds else l.cmds.filter fun q => q.2 ≠ c.id }
    | none => l
  let s := modGroup s c.blk c.grp fun g => { g with copies := out g.copies c.copy, tiles := out g.tiles c.tile }
  let s := wakeRetry s (fun k => k = c.blk) .waitc
  dropShades { s with cmds := s.cmds.filter fun k => k.id ≠ c.id }

/-- R282, R127: a command that has written its last byte adds its byte count, unless its destination's handle is stale: then
the count is dropped, and counted when no write of the command has been. -/
def finishCmd (s : State) (c : Cmd) : State :=
  let s := retireCmd s c true
  match c.dstHandle with
  | some h =>
    if (tileOf s c.part c.ctx h).isSome then addBytes s c.key c.total c.id
    else if c.dropped then s
    else bumpCounter s c.part c.ctx 62 1
  | none => addBytes s c.key c.total c.id

/-! ### The matrix engine -/

/-- An element of a captured fragment: fragment register, lane, low bit, bits. -/
def fragBits (f : Cells Word) (reg lane lo n : Nat) : Nat := bits (cget 0 f (reg * 32 + lane)).toNat lo n

/-- Table 13-1: the code of element (row, k) of a fragment of 16-bit or 8-bit elements. -/
def fragElem (f : Cells Word) (wide : Bool) (row k : Nat) : Nat :=
  if wide then fragBits f (16 * (row / 32) + k / 2) (row % 32) (16 * (k % 2)) 16
  else fragBits f (16 * (row / 32) + k / 4) (row % 32) (8 * (k % 4)) 8

/-- R275: the value of element (row, k) of an A (or B) fragment under a shape. -/
def fragVal (f : Cells Word) (isB : Bool) (shape row k : Nat) : Val :=
  let c := fragElem f (shape ≤ 1) row k
  match shape with
  | 0 => bf16.decode false c
  | 1 => f16.decode false c
  | 2 => e4m3.decode false c
  | 3 => e5m2.decode false c
  | 4 => if isB then e5m2.decode false c else e4m3.decode false c
  | 5 => if isB then e4m3.decode false c else e5m2.decode false c
  | 6 => Val.ofInt (sext c 8) 0
  | 7 => Val.ofInt (c : Int) 0
  | 8 => if isB then Val.ofInt (c : Int) 0 else Val.ofInt (sext c 8) 0
  | _ => mxVal (fragBits f 32 (row % 32) (8 * (2 * (row / 32) + k / 32)) 8) c

/-- R163: the k-groups of a shape. -/
def kGroups (shape : Nat) : Nat := if shape ≤ 1 then 2 else 4

/-- R278: the products of k-group `g` for element (i, j), masked or not. -/
def products (fa fb : Cells Word) (shape i j g : Nat) (masked : Option Val) : List Val :=
  match masked with
  | some k => k.mul (.fin false 1 0) :: List.replicate 15 ((Val.fin false 0 0).mul (.fin false 0 0))
  | none => (List.range 16).map fun t => (fragVal fa false shape i (16 * g + t)).mul (fragVal fb true shape j (16 * g + t))

/-- R278: the products of k-group `g` for element (i, j) of an `mma` of a function: `.tri` masks elements above its diagonal. -/
def maskedProducts (fn : Nat) (fa fb : Cells Word) (s15 : DWord) (shape i j g : Nat) : List Val :=
  let tri := 2 ≤ fn && decide (sext (bits s15.toNat 0 8) 8 < (j : Int) - (i : Int))
  products fa fb shape i j g (if tri then some (f32.decode false (bits s15.toNat 32 32)) else none)

/-- R279: the k-groups that a number of k-steps completes. -/
def groupsDone (shape steps : Nat) : Nat := steps * kGroups shape / 4

/-- R278, R164: element (i, j) after some k-groups, from `g0` to before `g1`; a NaN input makes the result a NaN, whatever it is
multiplied by. -/
def mmaElem (fn shape : Nat) (fa fb : Cells Word) (s15 : DWord) (g0 g1 i j : Nat) (c : Nat) : Nat :=
  ((List.range g1).drop g0).foldl (fun c g =>
    kUpdate rne false (f32.decode false c) (maskedProducts fn fa fb s15 shape i j g)) (if fn % 2 = 1 && g0 = 0 && 0 < g1 then 0 else c)

/-- The key of an accumulator element. -/
def accKey (a i j : Nat) : Nat := 4096 * a + 64 * i + j

/-- Accumulator `a` of a core replaced by a list of 4,096 elements. -/
def setAcc (acc : Cells Word) (a : Nat) (es : List Word) : Cells Word :=
  (acc.filter fun p => p.1 < 4096 * a) ++
    ((es.mapIdx fun k v => (4096 * a + k, v)).filter fun p => p.2 ≠ 0) ++ acc.filter fun p => 4096 * (a + 1) ≤ p.1

/-- R415: an accumulator written whole is poisoned no more. -/
def clearAcc (s : State) (blk a : Nat) : State :=
  { s with poison := s.poison.filter fun u => match u.1 with
      | .acc b k _ => !(b = blk && k = a)
      | _ => true }

/-- R278, R279, R362: k-steps `k0` to before `k1` of an accepted `mma` performed on its core's accumulators. -/
def performMma (s : State) (core blk fn acc shape : Nat) (fa fb : Cells Word) (s15 : DWord) (k0 k1 : Nat) : State :=
  let old := (coreOf s core).acc
  let es := (List.range 4096).map fun k =>
    BitVec.ofNat 32 (mmaElem fn shape fa fb s15 (groupsDone shape k0) (groupsDone shape k1) (k / 64) (k % 64)
      (cget 0 old (4096 * acc + k)).toNat)
  let s := countWork (modCore s core fun c => { c with acc := setAcc c.acc acc es }) (((blockOf s blk).map Block.part).getD 0) core (k1 - k0) 0 0
  if fn % 2 = 1 && groupsDone shape k0 = 0 && 0 < groupsDone shape k1 then clearAcc s blk acc else s

/-- Table 13-2, R284: the element bytes of a drain format. -/
def drainBytes (fmt : Nat) : Nat := if fmt = 0 then 4 else 2

/-- R284: the code that an accumulator element is drained as. -/
def drainCode (fmt c : Nat) : Nat :=
  match fmt with
  | 0 => f32.round rne false false (f32.decode false c)
  | 1 => bf16.round rne false false (f32.decode false c)
  | _ => f16.round rne false false (f32.decode false c)

/-- R284: the elements of the piece at byte `o` of a drain: their keys. -/
def drainKeys (acc fmt o : Nat) : List Nat :=
  (List.range (16 / drainBytes fmt)).map fun k => 4096 * acc + o / drainBytes fmt + k

/-- R284: where the piece at byte `o` of a drain goes. -/
def drainAddr (dst : EngAddr) (fmt pitch o : Nat) : EngAddr :=
  let e := drainBytes fmt
  dst.plus (o / (64 * e) * pitch + o % (64 * e))

/-- R284, R415: the elements of the piece at byte `o` of a drain, and whether one is poisoned. -/
def drainVals (s : State) (c : Cmd) (acc fmt o : Nat) : List Nat × Bool :=
  let keys := drainKeys acc fmt o
  (keys.map fun k => (cget 0 (coreOf s c.core).acc k).toNat, keys.any fun k => isPoisoned s (.acc c.blk acc (k % 4096)))

/-- R284: one 16-byte piece of a drain that stores, or of one that adds to a local space, where its granule is full at once. -/
def drainPiece (s : State) (c : Cmd) (acc : Nat) (dst : EngAddr) (fmt pitch : Nat) (add : Bool) :
    State × Except NoAccess Unit :=
  let (vals, bad) := drainVals s c acc fmt c.done
  let a := drainAddr dst fmt pitch c.done
  let wrote := fun (r : State × Except NoAccess Unit) => match r with
    | (s, .ok _) => (modCmd s c.id fun k => { k with done := k.done + 16 }, .ok ())
    | (s, .error e) => ((s, .error e) : State × Except NoAccess Unit)
  if add then
    match engineRead s c a 16 with
    | (s, .error e) => (s, .error e)
    | (s, .ok (bs, old)) => wrote (engineWrite s c (bad || old) a ((vals.zip (words32 bs)).flatMap fun p => leBytes 4 (addF32 p.2 p.1)))
  else wrote (engineWrite s c bad a (vals.flatMap fun v => leBytes (drainBytes fmt) (drainCode fmt v)))

/-- R136, R376: the parts of an update, checked one after another: those before the first access that is not made, and why it is not. -/
def gatherParts (s : State) (c : Cmd) : List (DWord × Part16) → State × List Part16 × Option NoAccess
  | [] => (s, [], none)
  | (va, q) :: rest => match globalParts s c .write va (segments va.toNat q.bytes.length) with
    | (s, .error e) => (s, [], some e)
    | (s, .ok ps) => match gatherParts s c rest with
      | (s, qs, e) => (s, (ps.map fun r => { q with pa := r.1, va := va.toNat % 2 ^ 57 + r.2.1, page := r.2.2.2, bytes := (q.bytes.drop r.2.1).take r.2.2.1 }) ++ qs, e)

/-- R133, R136: an update of some bytes comes at one moment, now or when its command is published, as a free value has it; stores to a
lost window are discarded. -/
def makeUpdate (c : Cmd) (s : State) (parts : List Part16) : State :=
  let u : Update := { cmd := c.id, part := c.part, ctx := c.ctx, trc := c.trc, parts := parts.filter fun q => !storeLost s c.part (.phys q.pa) }
  let s := if Config.landsNow (drawOf s 202 0) then landUpdate s u else { s with atOnce := s.atOnce ++ [u] }
  modCmd s c.id fun k => { k with done := (parts.map fun q => q.bytes.length).sum }

/-- R376: a drain or a collective stops at a condition, which its fault will report. -/
def meetFault (s : State) (c : Cmd) (t : Trap) : State := modCmd s c.id fun k => { k with met := some (t.cause, t.addr, t.info) }

/-- R136, R376, R410: what follows when an update has been checked: it is made, whole or as much as lies before a condition. The answer
says whether the engine has done with it: it has not while a link is down. `foreign` is what an isolation violation does. -/
def putParts (s : State) (c : Cmd) (put : State → List Part16 → State) (foreign : State → DWord → State) :
    State × List Part16 × Option NoAccess → State × Bool
  | (_, _, some .wait) => (s, false)
  | (t, _, some (.foreign a)) => (foreign t a, true)
  | (t, qs, some (.trap e)) => (meetFault (put t qs) c e, true)
  | (t, qs, none) => (put t qs, true)

/-- R136, R284: a drain that adds to global memory: its whole tile as one update, or as much as lies before a fault. The answer says
whether the engine has done with it: it has not while a link is down. -/
def drainAdd (s : State) (c : Cmd) (acc : Nat) (va : DWord) (pitch : Nat) : State × Bool :=
  let part := fun k =>
    let (vals, bad) := drainVals s c acc 0 (16 * k)
    (va + BitVec.ofNat 64 (16 * k / 256 * pitch + 16 * k % 256), { pa := 0, add := true, bytes := vals.flatMap (leBytes 4), bad := bad : Part16 })
  putParts s c (makeUpdate c) (fun s a => isolate s c.part c.core a) (gatherParts s c ((List.range 1024).map part))

/-- R284: the pieces of a drain, until one is not made; `fuel` bounds them. The answer says whether the engine has done with
the operation: it has not while a link is down. -/
def drainAll (s : State) (id acc : Nat) : Nat → State × Bool
  | 0 => (s, true)
  | fuel + 1 =>
    match cmdOf s id with
    | none => (s, true)
    | some c => match c.kind with
      | .mdrain (.global va) _ pitch true => if c.total ≤ c.done then (s, true) else drainAdd s c acc va pitch
      | .mdrain dst fmt pitch add =>
        if c.total ≤ c.done then (s, true)
        else match drainPiece s c acc dst fmt pitch add with
          | (s, .ok _) => drainAll s id acc fuel
          | (s, .error .wait) => (s, false)
          | (s, .error (.foreign t)) => (isolate s c.part c.core t, true)
          | (s, .error (.trap t)) => (meetFault s c t, true)
      | _ => (s, true)

/-- R277, R325: an accepted operation is performed, the bytes that a drain writes counted; whether it is done. -/
def performOp (s : State) (core : Nat) : MatOp → State × Bool
  | .mma blk fn acc shape fa fb s15 _ _ kdone => (performMma s core blk fn acc shape fa fb s15 kdone 4, true)
  | .mdrain _ acc cmd _ =>
    let wrote := fun (s : State) => ((cmdOf s cmd).map Cmd.done).getD 0
    match drainAll s cmd acc 1025 with
    | (t, r) => (countWork t (((cmdOf s cmd).map Cmd.part).getD 0) core 0 0 (wrote t - wrote s), r)

/-- An operation that is done leaves its core's engine. -/
def dropOp (s : State) (core : Nat) (o : MatOp) : State :=
  modCore s core fun c => if c.ops.head? = some o then { c with ops := c.ops.drop 1 } else c

/-- R361: a halt meets the operation at the head of a core's engine: an `mma` stops after a k-step, which is free; a drain that is under
way completes. DESIGN CHOICE, log 47. -/
def haltOp (s : State) (core : Nat) : State :=
  match (coreOf s core).ops with
  | [] => s
  | .mma blk fn acc shape fa fb s15 word grp kdone :: rest =>
    let n := max kdone (Config.haltStep (drawOf s 203 core) % 5)
    let s := performMma s core blk fn acc shape fa fb s15 kdone n
    modCore s core fun c =>
      { c with ops := if 4 ≤ n then rest else .mma blk fn acc shape fa fb s15 word grp n :: rest }
  | o :: _ => match performOp s core o with
    | (s, true) => dropOp s core o
    | (s, false) => s

/-- The operations of a core's engine, oldest first, performed until one is not done. -/
def performAll (s : State) (core : Nat) : Nat → State
  | 0 => s
  | fuel + 1 =>
    match (coreOf s core).ops with
    | [] => s
    | o :: _ => match performOp s core o with
      | (s, true) => performAll (dropOp s core o) core fuel
      | (s, false) => s

/-- R25, R365: the operations that a block still has to be performed, though it does not hold the engine, are performed on its own
accumulators. -/
def performPending (s : State) (b : Block) : State :=
  if b.lease.pending.isEmpty then s
  else
    let old := coreOf s b.core
    let s := modCore s b.core fun c => { c with acc := b.lease.acc, ops := b.lease.pending }
    modCore (performAll s b.core (b.lease.pending.length + 1)) b.core fun c => { c with acc := old.acc, ops := old.ops }

end Sys2Proof.Machine
end

