-- ==== Sys2Proof/Machine/Regroup.lean ====
section
/-! DEFINITION. Guest dispatch (R47 to R49, R232, R233, R352) and regroup rounds (R50 to R54, R358, R359), with the test of an
indirect target (R400). -/

namespace Sys2Proof.Machine

open Sys2Proof

/-! ### Targets in the running body -/

/-- The bytes of a version's image at an image offset. -/
def imageBytes (s : State) (v : Version) (off n : Nat) : List Byte :=
  (List.range n).map fun k =>
    mget s.dram ((v.frames[(off + k) / Config.pageBytes]?).getD 0 * Config.pageBytes + (off + k) % Config.pageBytes)

/-- The word at a byte offset of a body. -/
def bodyWord (s : State) (v : Version) (d : Body) (off : Nat) : Word :=
  BitVec.ofNat 32 (leNat (imageBytes s v (d.off + off) 4))

/-- R168: a word with major 0x3F is an extension word. -/
def isExtWord (w : Word) : Bool := w.extractLsb' 25 6 = 0x3F#6

/-- R228, R400: a byte offset lies in the running body and names the first word of an instruction: no extension word stands
before it. -/
def targetOk (s : State) (b : Block) (t : Nat) : Bool :=
  match bodyOf s b with
  | some (v, d) => t % 4 = 0 && t < d.len && (t = 0 || !isExtWord (bodyWord s v d (t - 4)))
  | none => false

/-- R400: what a wrong target raises. -/
def targetTrap (s : State) (b : Block) (t : Word) : Trap :=
  { cause := 0x08, addr := bodyStart s b + t.setWidth 64, info := 4 }

/-! ### Dispatch -/

/-- Table 2-9: the lowest enabled breakpoint that matches a guest program counter. -/
def breakpoint (c : Ctx) (gpc : DWord) : Option Nat :=
  (List.range 4).find? fun n =>
    let v := c.gbp.getD n 0
    v.getLsbD 63 && gpc.toNat / 2 ^ 57 = 0 && v.toNat % 2 ^ 57 = gpc.toNat

/-- R48: the breakpoint check, which ONCE skips, and the byte fetch into GOP. -/
def guestFetch (s : State) (p : Path) (n : Nat) : State × Option NoAccess :=
  let l := p.g.lane n
  let va := p.g.gcb + l.gpc
  match if l.once then none else breakpoint (ctxOf s p.b.part p.b.ctx) l.gpc with
  | some k => (s, some (.trap { cause := 0x11, addr := va, info := BitVec.ofNat 64 k }))
  | none => match checkAccess s p.b p.iss.grp n .read (.global va) 1 with
    | (s, .error e) => (s, some e)
    | (s, .ok pl) =>
      let r := loadAt (sealSources s p.iss.blk [l.tid]) p.b n pl 1
      (modLane r.1 p.iss.blk p.iss.grp n fun l => { l with gop := BitVec.ofNat 8 r.2 }, none)

/-- R47, R48: the address of the handler entry of a lane's opcode. -/
def entryAddr (b : Block) (g : Group) (gop : Byte) : DWord :=
  g.ght + BitVec.ofNat 64 ((if b.lbody then 1024 else 0) + 4 * gop.toNat)

/-- R48, R400: the handler lookup of a lane: where it goes, or what it raises. -/
def guestLookup (s : State) (b : Block) (g : Group) (grp n : Nat) (gop : Byte) : State × Except NoAccess DWord :=
  let va := entryAddr b g gop
  match checkAccess s b grp (n + 64) .read (.global va) 4 with
  | (s, .error e) => (s, .error e)
  | (s, .ok pl) =>
    let r := loadAt (sealSources s b.id [(g.lane n).tid]) b (n + 64) pl 4
    if r.2 = 0xFFFFFFFF then (r.1, .error (.trap { cause := 0x10, addr := va, info := gop.setWidth 64 }))
    else if targetOk r.1 b r.2 then (r.1, .ok (bodyStart r.1 b + BitVec.ofNat 64 r.2))
    else (r.1, .error (.trap (targetTrap r.1 b (BitVec.ofNat 32 r.2))))

/-- R48: the dispatch of a lane. -/
def guestDispatchLane (p : Path) (n : Nat) (s : State) : State × Option NoAccess :=
  match guestFetch s p n with
  | (s, some e) => (s, some e)
  | (s, none) =>
    let gop := ((groupOf s p.iss.blk p.iss.grp).map fun g => (g.lane n).gop).getD 0
    match guestLookup s p.b p.g p.iss.grp n gop with
    | (s, .error e) => (s, some e)
    | (s, .ok pc) => (modLane s p.iss.blk p.iss.grp n fun l => { l with npc := pc }, none)

/-! ### Regroup rounds -/

/-- R50: a group has arrived when all its live lanes are in the pool. -/
def Group.arrived (g : Group) : Bool := g.live.all fun i => (g.lane i).hold = .pool

/-- R51, R359: the round closes by arrival: every live group has arrived, but for stopped groups that are not in it. -/
def roundComplete (b : Block) : Bool :=
  b.liveGroups.all fun k => match b.group k with
    | some g => (g.arrived && !g.imaged) || (g.stop.isSome && g.live.all fun i => (g.lane i).hold ≠ .pool)
    | none => true

/-- A thread of an arrived group: its group and lane before the move. -/
structure Pooled where
  grp : Nat
  lane : Nat
  thread : Lane
  deriving DecidableEq, Repr

/-- R52: the key of a thread in a mode. -/
def poolKey (mode : BitVec 2) (l : Lane) : Nat := if mode = 1 then l.gop.toNat else l.gpc.toNat

/-- R52: by key, then by TID. -/
def pooledLe (mode : BitVec 2) (x y : Pooled) : Bool :=
  let a := poolKey mode x.thread
  let c := poolKey mode y.thread
  decide (a < c) || (a = c && decide (x.thread.tid.toNat ≤ y.thread.tid.toNat))

/-- Insertion into a sorted list. -/
def insertPooled (mode : BitVec 2) (x : Pooled) : List Pooled → List Pooled
  | [] => [x]
  | y :: ys => if pooledLe mode x y then x :: y :: ys else y :: insertPooled mode x ys

/-- R52: the threads of the arrived groups, sorted. -/
def sortPooled (mode : BitVec 2) (xs : List Pooled) : List Pooled := xs.foldl (fun l x => insertPooled mode x l) []

/-- R52: the threads dealt out: for each arrived group, the next as many threads as it had live lanes. -/
def deal : List (Nat × Nat) → List Pooled → List (Nat × List Pooled)
  | [], _ => []
  | (g, n) :: gs, xs => (g, xs.take n) :: deal gs (xs.drop n)

/-- R53: a group with its new threads in lanes 0 upward; pass counts are zero. -/
def Group.seat (draw : Nat) (g : Group) (xs : List Pooled) : Group :=
  { g with lanes := (List.range 32).map fun i => match xs[i]? with
      | some x => { x.thread with hold := .none, passes := 0, once := false }
      | none => deadLane (draw + 1024 * i) g.budget }

/-- R53, R415: the poison of moved threads' registers and slices moves with them. -/
def movePoison (s : State) (blk : Nat) (moves : List ((Nat × Nat) × (Nat × Nat))) : State :=
  let dest := fun g l => ((moves.find? fun m => m.1 = (g, l)).map Prod.snd).getD (g, l)
  { s with poison := s.poison.map fun u => (match u.1 with
      | .reg b g l n => if b = blk then .reg b (dest g l).1 (dest g l).2 n else .reg b g l n
      | .priv b g l n => if b = blk then .priv b (dest g l).1 (dest g l).2 n else .priv b g l n
      | v => v, u.2) }

/-- R52, R358: a thread completes the handler lookup in its lane; a trap carries RG when a round moved it. -/
def poolLookup (rg : Bool) (blk : Nat) (s : State) (at' : Nat × Nat) : State :=
  match blockOf s blk with
  | none => s
  | some b => match b.group at'.1 with
    | none => s
    | some g =>
      let free := fun (s : State) (h : Hold) => modLane s blk at'.1 at'.2 fun l => { l with hold := h }
      match guestLookup s b g at'.1 at'.2 (g.lane at'.2).gop with
      | (s, .ok pc) => modLane s blk at'.1 at'.2 fun l => { l with npc := pc, hold := .none, once := false }
      | (s, .error (.trap t)) => trapLanes (free s .none) blk at'.1 rg [(at'.2, t)]
      | (s, .error (.foreign t)) => isolate s b.part b.core t
      | (s, .error .wait) => free s (.lookup rg)

/-- R413: handler lookups that wait for a link are made again. -/
def wakeLookups (s : State) (of : Nat → Bool) : State :=
  let waits := (s.blocks.filter fun b => of b.id).flatMap fun b => (List.range b.groups.length).flatMap fun k =>
    (((b.group k).map Group.lanes).getD []).zipIdx.filterMap fun l => match l.1.hold with
      | .lookup rg => some (b.id, k, l.2, rg)
      | _ => none
  waits.foldl (fun s w => poolLookup w.2.2.2 w.1 s (w.2.1, w.2.2.1)) s

/-- R51 to R54: the close of a block's round. A group whose stop image is written is not dealt out, since its image shows its threads
where they are: its lanes in the pool complete in place (R358). DESIGN CHOICE, log 125. -/
def closeRound (s : State) (blk : Nat) : State :=
  match blockOf s blk with
  | none => s
  | some b =>
    let mode := (b.round.map Round.mode).getD 1
    let grps := b.liveGroups.filterMap fun k => (b.group k).map fun g => (k, g)
    let dealing := fun (g : Group) => g.arrived && !g.imaged
    let arrived := grps.filter fun q => dealing q.2
    let late := (grps.filter fun q => !dealing q.2).flatMap fun q =>
      (q.2.live.filter fun i => (q.2.lane i).hold = .pool).map fun i => (q.1, i)
    let threads := arrived.flatMap fun q => q.2.live.map fun i => { grp := q.1, lane := i, thread := q.2.lane i : Pooled }
    let dealt := deal (arrived.map fun q => (q.1, q.2.live.length)) (sortPooled mode threads)
    let s := countEvent s b.part b.ctx 0x053 1
    let s := modBlock s blk fun b =>
      { b with
        round := none
        groups := b.groups.mapIdx fun k g => match dealt.find? fun d => d.1 = k with
          | some d => g.seat (drawOf s (64 * k) 300) d.2
          | none => g }
    let s := movePoison s blk (dealt.flatMap fun d => d.2.mapIdx fun i x => ((x.grp, x.lane), (d.1, i)))
    let s := late.foldl (poolLookup false blk) s
    (dealt.flatMap fun d => (List.range d.2.length).map fun i => (d.1, i)).foldl (poolLookup true blk) s

/-- R51: the round closes when every group has arrived. -/
def checkRound (s : State) (blk : Nat) : State :=
  match blockOf s blk with
  | some b => if b.round.isSome && roundComplete b then closeRound s blk else s
  | none => s

end Sys2Proof.Machine
end

