-- ==== Sys2Proof/Machine/Groups.lean ====
section
/-! DEFINITION. How threads, groups and blocks end, and what that lets happen: exits (R25, R230), reconvergence (R45, R354),
gangs (R281, R356), spawn families and merges (R87, R91 to R94, R380), rendezvous (R62 to R66, R383), the room of cores for
blocks (R27, R64). -/

namespace Sys2Proof.Machine

open Sys2Proof

/-! ### Families and merges -/

/-- R90: an operator applied to two view contents; a poisoned operand poisons its element (R415). -/
def mergeData (op : Nat) (x y : ViewData) : ViewData := (opBytesApply op x.1 y.1, y.2.foldl sinsert x.2)

/-- R91: the root of view `k` of a family's leaves. -/
def Family.root (f : Family) (k op : Nat) : ViewData :=
  let vs := f.leaves.filterMap fun p => p.2[k]?
  (mergeRoot op 7 (vs.map Prod.fst), (vs.flatMap Prod.snd).foldl sinsert [])

/-- R91: indices 0 to N − 1, each used once. -/
def Family.complete (f : Family) : Bool := f.used.all fun k => k < f.used.length

/-- R91, R92, R127: a root is combined into a parent tile, which becomes full, in one indivisible update. -/
def mergeTile (s : State) (f : Family) (op : Nat) (h : Word) (r : ViewData) : State :=
  match tileOf s f.part f.ctx h with
  | none => bumpCounter s f.part f.ctx 62 1
  | some t =>
    let w := opBytes op
    let elem := fun k => t.space.place (t.base + k * w)
    let olds := (List.range (t.size / w)).filter fun k => placePoisoned s (elem k) w
    let x := mergeData op (readPlace s Config.cores 0 (t.space.place t.base) t.size, olds) r
    let s := coverPlace (writePlace s (t.space.place t.base) x.1) (t.space.place t.base) t.size
    let s := x.2.foldl (fun s k => poisonPlace s (elem k) w) s
    feRetry (setFulls s t.space t.granules true)

/-- R91, R94: the roots of a family go into the child leaf that its views name, or into their tiles. -/
def mergeViews (f : Family) : List (Nat × Word × Nat) → State × List (Word × ViewData) → State × List (Word × ViewData)
  | [], acc => acc
  | (k, h, op) :: rest, (s, up) =>
    if up.any fun u => u.1 = h then
      mergeViews f rest (s, up.map fun u => if u.1 = h then (h, mergeData op u.2 (f.root k op)) else u)
    else mergeViews f rest (mergeTile s f op h (f.root k op), up)

/-- A family gets a leaf. -/
def putLeaf (s : State) (fid idx : Nat) (l : Leaf) : State :=
  { s with families := s.families.map fun f => if f.id = fid && !f.abandoned then { f with leaves := cset f.leaves idx l } else f }

def familyOf (s : State) (fid : Nat) : Option Family := s.families.find? fun f => f.id = fid

/-- R380: a family is abandoned: its queued children are discarded, and it forms no node. -/
def abandonFamily (s : State) (fid : Nat) : State :=
  { s with
    families := s.families.map fun f => if f.id = fid then { f with abandoned := true, closed := true } else f
    recs := s.recs.filter fun r => match r.kind with
      | .child f _ _ _ => f ≠ fid
      | _ => true }

/-- R378, R381: a family will not get one of its leaves: it is abandoned at its close, or now when it has closed. -/
def loseLeaf (s : State) (fid : Nat) : State :=
  match familyOf s fid with
  | some f =>
    if f.closed then abandonFamily s fid
    else { s with families := s.families.map fun k => if k.id = fid then { k with abandoned := true } else k }
  | none => s

/-- R91, R94: a closed family whose leaves are all there is combined, and the leaf above it may complete the next; a leaf
whose own family is abandoned never becomes an operand. -/
def mergeUp : Nat → State → Nat → State
  | 0, s, _ => s
  | fuel + 1, s, fid =>
    match familyOf s fid with
    | none => s
    | some f =>
      let gone := fun (s : State) => { s with families := s.families.filter fun g => g.id ≠ fid }
      if !f.closed then s
      else if f.abandoned then
        match f.upInto with
        | some (g, _) => mergeUp fuel (loseLeaf (gone s) g) g
        | none => gone s
      else if f.views.isEmpty || (f.used.all fun k => (cfind f.leaves k).isSome) then
        let r := mergeViews f (f.views.mapIdx fun k v => (k, v.1, v.2)) (s, f.upLeaf)
        match f.upInto with
        | some (g, idx) => mergeUp fuel (putLeaf (gone r.1) g idx (r.2.map Prod.snd)) g
        | none => gone r.1
      else s

/-- Every family that can be combined is. -/
def settleFamilies (s : State) : State :=
  (s.families.map Family.id).foldl (fun s k => mergeUp (s.families.length + 1) s k) s

/-- R380, sub-code 6: closing the group's family would find its indices wrong, or a child lost (R378, R381). -/
def familyBroken (s : State) (g : Group) : Bool :=
  match g.family.bind (familyOf s) with
  | some f => f.abandoned || !f.complete
  | none => false

/-- R87: the group's open family closes; `up` says into which child leaf it is combined (R94). -/
def closeFamily (s : State) (blk grp : Nat) (up : Option (Nat × Nat)) (leaf : List (Word × ViewData)) : State :=
  match (groupOf s blk grp).bind Group.family with
  | none => s
  | some fid =>
    let s := modGroup s blk grp fun g => { g with family := none }
    let s := { s with families := s.families.map fun f =>
      if f.id = fid then { f with closed := true, upInto := up, upLeaf := leaf } else f }
    mergeUp (s.families.length + 1) s fid

/-- R380: the group's open family is abandoned at its close. -/
def dropFamily (s : State) (blk grp : Nat) : State :=
  match (groupOf s blk grp).bind Group.family with
  | none => s
  | some fid =>
    let s := modGroup s blk grp fun g => { g with family := none }
    mergeUp (s.families.length + 1) (abandonFamily s fid) fid

/-! ### Room on cores -/

/-- The groups of a block that have not ended, with a budget for each. -/
def Block.budgets (b : Block) (f : Group → Nat) : List (Nat × Nat) :=
  b.liveGroups.filterMap fun k => (b.group k).map fun g => (k, f g)

/-- R64: the blocks that are to migrate to a core, whose room there is chosen, but for one block's own. -/
def chosenFor (s : State) (core blk : Nat) : List Block :=
  s.blocks.filter fun o => o.id ≠ blk && o.rdv.any fun r => r.target = some core

/-- R64: a core with the room of the blocks that are to migrate to it taken. -/
def takenCore (s : State) (os : List Block) (c : Core) : Core :=
  os.foldl (fun c o => match kernelOf s o with
    | some k =>
      (allocBlock c o.id (splitOf s o.part o.ctx k (!o.lbody)) (o.budgets fun _ => k.budget (!o.lbody)) o.privBytes o.scrBytes).getD c
    | none => c) c

/-- A core as it would be with a block on it, when the block fits there at once, beside the blocks that are to migrate to it (R26, R27,
R64, R115). -/
def coreFits (s : State) (core blk : Nat) (sp : Nat × Nat) (groups : List (Nat × Nat)) (priv scr : Nat) : Option Core :=
  let os := chosenFor s core blk
  let c := coreOf s core
  if c.frozen || freeSlotsOf s core < groups.length + (os.map fun o => o.liveGroups.length).sum then none
  else if os.isEmpty then allocBlock c blk sp groups priv scr
  else (allocBlock (takenCore s os c) blk sp groups priv scr).bind fun r => (allocBlock c blk sp groups priv scr).map fun t =>
    { t with allocs := c.allocs ++ r.allocs.filter fun a => a.blk = blk }

/-- R27, R64: the core with the most free group slots among those that fit; the lower number on a tie. The slots promised to a migration
that has its target, which the test of fit takes, still count as free here. DESIGN CHOICE, log 143. -/
def bestCore (s : State) (fits : Nat → Bool) (cores : List Nat) : Option Nat :=
  let ok := cores.filter fits
  ok.find? fun n => ok.all fun m => freeSlotsOf s m ≤ freeSlotsOf s n

/-- The cores of a constellation of a class. -/
def classCores (const : Nat) (lbody : Bool) : List Nat :=
  ((List.range Config.coresPerConst).map fun k => const * Config.coresPerConst + k).filter fun n => Config.isLCore n = lbody

/-- R64: the constellations in the order in which a move looks for room. -/
def moveConsts (s : State) (part home : Nat) (near : Bool) : List Nat :=
  let own := (List.range (Config.dies * Config.constPerDie)).filter (partOf s part).desc.const.contains
  let die := fun k => k / Config.constPerDie
  let others := own.filter fun k => k ≠ home
  (if own.contains home && near then [home] else []) ++
    (others.filter fun k => die k = die home) ++ others.filter fun k => die k ≠ die home

/-- R64: the target core of a move of a block to a class: its budget and split there, the first constellation with room. -/
def moveTarget (s : State) (fits : Nat → Bool) (lbody : Bool) (consts : List Nat) : Option Nat :=
  consts.findSome? fun k => bestCore s fits (classCores k lbody)

/-- R65, R121: the cluster of a block that is alone in it goes with it to another constellation: where its shared memory lies
there. -/
def movedShared (s : State) (b : Block) (const : Nat) : Option Nat :=
  match clusterOf s b.cluster with
  | some c =>
    if c.const = const then some c.base
    else if c.bytes = 0 then some 0
    else findShared s const (cshSize s b.part b.ctx) c.bytes
  | none => some 0

/-- R64: the block fits a core of the target class. The rule names the core's store; in another constellation the model has the cluster's
shared memory find room too, for R65 copies it there. DESIGN CHOICE, log 129. -/
def classFits (s : State) (b : Block) (k : Kernel) (lbody : Bool) (core : Nat) : Bool :=
  (coreFits s core b.id (splitOf s b.part b.ctx k lbody) (b.budgets fun _ => k.budget lbody) b.privBytes b.scrBytes).isSome &&
    (movedShared s b (Config.constOf core)).isSome

/-- R64: a block whose cluster has more blocks stays in its constellation. -/
def moveScope (s : State) (b : Block) (k : Kernel) : List Nat :=
  if 1 < k.clblk && (b.origin = .node) then [Config.constOf b.core] else moveConsts s b.part (Config.constOf b.core) true

/-- R64: where a migration of the block to a class goes, when some candidate has room. -/
def classTarget (s : State) (b : Block) (k : Kernel) (lbody : Bool) : Option Nat :=
  moveTarget s (classFits s b k lbody) lbody (moveScope s b k)

/-- R383, sub-code 5: a core of the class, empty, could hold the block. -/
def couldHold (s : State) (b : Block) (k : Kernel) (lbody : Bool) : Bool :=
  let core := if lbody then 8 else 0
  b.liveGroups.length ≤ Config.groupsPerSub core * Config.subCores core &&
    (allocBlock {} b.id (splitOf s b.part b.ctx k lbody) (b.budgets fun _ => k.budget lbody) b.privBytes b.scrBytes).isSome

/-! ### Rendezvous -/

/-- R63: the block goes on at the instruction after the EQP on its core. -/
def rdvContinue (s : State) (blk : Nat) : State :=
  modBlock s blk fun b =>
    { b with
      rdv := none
      groups := b.groups.map fun g => { g with lanes := g.lanes.map fun l => match l.hold with
          | .mig next => { l with npc := next, hold := .none, once := false }
          | _ => l } }

/-- R383: the rendezvous is cancelled: the groups that have arrived are held at their `mig`, and trap. -/
def rdvCancel (s : State) (blk sub : Nat) (traps : List Nat) : State :=
  let s := modBlock s blk fun b =>
    { b with
      rdv := none
      groups := b.groups.map fun g => { g with lanes := g.lanes.map fun l => match l.hold with
          | .mig _ => { l with hold := .reconv }
          | _ => l } }
  traps.foldl (fun s g =>
    trapGroup s blk g (((groupOf s blk g).map fun x => x.live.headD 0).getD 0)
      { cause := 0x28, info := BitVec.ofNat 64 sub }) s

/-- R63, R66: the class that a complete rendezvous names: none for no move. -/
def rdvClass (s : State) (b : Block) (k : Kernel) (kind : Nat) : Option Bool :=
  let n := (b.groups.map fun g => g.live.length).sum
  let m := (ctxOf s b.part b.ctx).migLive.toNat
  match kind with
  | 0 => some true
  | 1 => some false
  | _ =>
    if bits m 63 1 = 0 then none
    else if !b.lbody then
      if n ≤ bits m 0 11 && k.lbody.isSome && (classTarget s b k true).isSome then some true else none
    else if bits m 16 11 ≤ n && k.dbody.isSome && (classTarget s b k false).isSome then some false else none

/-- R62, R63, R383: a rendezvous at which every live group has arrived is complete. -/
def checkRdv (s : State) (blk : Nat) : State :=
  match blockOf s blk with
  | none => s
  | some b => match b.rdv, kernelOf s b with
    | some r, some k =>
      if r.ready || !(b.liveGroups.all r.arrived.contains) then s
      else
        let s := modBlock s blk fun b => { b with groups := b.groups.map fun g =>
          if g.ended then g else { g with leqp := some r.eqp } }
        match rdvClass s b k r.kind with
        | none => rdvContinue s blk
        | some l =>
          if l = b.lbody then rdvContinue s blk
          else if !((coresOf s b.part).any fun n => Config.isLCore n = l) then rdvCancel s blk 4 b.liveGroups
          else if !couldHold s b k l then rdvCancel s blk 5 b.liveGroups
          else
            modBlock { s with fresh := s.fresh + 1 } blk fun b =>
              { b with rdv := some { r with ready := true, order := s.fresh, target := if r.kind = 2 then classTarget s b k l else none } }
    | _, _ => s

/-! ### Reconvergence -/

/-- R45, R354: once every live lane of a group is held for reconvergence, the lanes go on from one native PC, and from
several the group traps. -/
def recheckReconv (s : State) (blk grp : Nat) : State :=
  match groupOf s blk grp with
  | none => s
  | some g =>
    if g.live.isEmpty || !(g.live.all fun i => (g.lane i).hold = .reconv) then s
    else if (heldPcs g).length = 1 then
      modGroup s blk grp fun g => { g with lanes := g.lanes.map fun l => if l.hold = .reconv then { l with hold := .none } else l }
    else checkDiverged s blk grp

/-! ### Gangs -/

/-- R281: the groups that a gang list names. -/
def gangList (m : BitVec 32) : List Nat := maskLanes m

/-- R356: the open latch is emptied and its groups trap. -/
def latchFault (s : State) (blk : Nat) (gang : BitVec 32) : State :=
  match blockOf s blk with
  | none => s
  | some b =>
    let gs := b.latch.map LatchEntry.grp
    let s := modBlock s blk fun b =>
      { b with
        latch := []
        groups := b.groups.map fun g => { g with lanes := g.lanes.map fun l => match l.hold with
            | .latch _ => { l with hold := .none }
            | _ => l } }
    gs.foldl (fun s k =>
      trapGroup s blk k (((groupOf s blk k).map fun x => x.live.headD 0).getD 0)
        { cause := 0x1B, info := gang.setWidth 64 }) s

/-- R281, R356: a group of a gang or with the baton ends. -/
def gangEnd (s : State) (blk grp : Nat) : State :=
  match blockOf s blk with
  | none => s
  | some b =>
    let gang := b.lease.gang
    let listed := gang.getLsbD grp
    let left := lanesMask ((gangList gang).filter fun k => k ≠ grp)
    let s := if listed && !b.latch.isEmpty then latchFault s blk gang else s
    let s := modBlock s blk fun b =>
      { b with lease :=
          { b.lease with
            gang := if (gangList left).length < 2 then 0 else left
            baton := if b.lease.baton = grp && (coreOf s b.core).holder = some blk then b.liveGroups.headD 0
              else b.lease.baton } }
    wakeRetry s (fun k => k = blk) .lease

/-! ### Ends -/

/-- R89, R378: the view handles of a child are retired when its block ends, and records not placed that name one are discarded: those
too of a family that the child closed at its merge, which is then abandoned, and with it the leaf above. DEDUCED, log 61. -/
def retireViews (s : State) (b : Block) : State :=
  settleFamilies (b.views.foldl (fun s v => retireHandle s b.part b.ctx v.handle) s)

/-- R381: a child that gave no leaf leaves its family without one. -/
def lostChild (s : State) (b : Block) : State :=
  match b.origin with
  | .child fid idx =>
    match familyOf s fid with
    | some f =>
      let given := (cfind f.leaves idx).isSome || s.families.any fun k => k.upInto = some (fid, idx)
      if f.views.isEmpty || given then s else mergeUp (s.families.length + 1) (loseLeaf s fid) fid
    | none => s
  | _ => s

/-- R78, R142: a cluster whose groups have all ended is gone, but for what outstanding commands still reach of its memory. -/
def endCluster (s : State) (id : Nat) : State :=
  match clusterOf s id with
  | some c =>
    if c.total ≤ c.ended then
      { leaveShade s { space := .csh id, mem := c.mem, full := c.full, const := c.const, base := c.base } (fun k => k.cluster = id) with
        clusters := s.clusters.filter fun k => k.id ≠ id }
    else s
  | none => s

/-- R25, R95, R281: a block whose groups have all ended: its accepted matrix instructions are performed, and it leaves its
core, its cluster and its grid. -/
def endBlock (s : State) (blk : Nat) : State :=
  match blockOf s blk with
  | none => s
  | some b =>
    let s := if (coreOf s b.core).holder = some blk then performAll s b.core ((coreOf s b.core).ops.length + 1) else performPending s b
    let s := lostChild s b
    let s := retireViews s b
    let s := leaveCore s b
    let s := match blockOf s blk with
      | some b => leaveShade s { space := .scr blk, mem := b.scratch, full := b.full } fun c => c.blk = blk
      | none => s
    let s := { s with blocks := s.blocks.filter fun k => k.id ≠ blk, feq := s.feq.filter fun w => w.blk ≠ blk }
    let s := endCluster s b.cluster
    { s with grids := s.grids.filter fun g => !(g.id = b.grid && g.total ≤ g.ended) }

/-- R376: the faults of commands that a group's stop has not reported: they go to the lowest live group of its block, or become
notices. -/
def passFaults (s : State) (b : Block) (g : Group) : State :=
  let left := ((g.stop.map fun st => (if st.slot.isSome then [] else st.recs) ++ st.more).getD []).filter fun r => r.cmd.isSome
  let heir := b.liveGroups.head?.bind fun k => (b.group k).map fun x => (k, x)
  if left.isEmpty then s
  else match heir with
    | some (k, x) => stopWith s b.id k (left.map fun r =>
        cmdRec s b k x r.npc r.cmd { cause := r.cause, addr := r.addr, info := r.info })
    | none => modCtx s b.part b.ctx fun x =>
        { x with notices := x.notices ++ left.map fun r => (b.core, commandNotice { cause := r.cause, addr := r.addr, info := r.info } r.npc r.cmd) }

/-- R25: a group without a live lane ends: it releases its registers and its place, which a pending group takes in the next
cycle (R41), and is no member of any slot, gang,
round or rendezvous any more. -/
def endGroup (s : State) (blk grp : Nat) : State :=
  match blockOf s blk, groupOf s blk grp with
  | some b, some g =>
    let s := if familyBroken s g then dropFamily s blk grp else closeFamily s blk grp none []
    let s := modCore s b.core fun c => freeAllocs
      { c with regaQueue := c.regaQueue.filter fun r => !(r.blk = blk && r.grp = grp) } fun a => a.blk = blk && a.grp = grp
    let s := passFaults s b g
    let s := modGroup s blk grp fun g => { g with stop := none, active := false }
    let s := modCluster s b.cluster fun c => { c with ended := c.ended + 1 }
    let s := modGrid s b.grid fun c => { c with ended := c.ended + 1 }
    let s := gangEnd s blk grp
    if ((blockOf s blk).map fun b => b.liveGroups.isEmpty).getD true then endBlock s blk
    else checkRdv (checkRound s blk) blk
  | _, _ => s

/-- R230: threads end: their registers, depth and slice are discarded, with what poison lay in them. -/
def dropLanes (s : State) (blk grp : Nat) (lanes : List Nat) : State :=
  let s := modGroup s blk grp fun g => g.modLanes lanes fun i _ => deadLane (drawOf s i 300) g.budget
  { s with
    feq := s.feq.filter fun w => !(w.blk = blk && w.grp = grp && lanes.contains w.lane)
    poison := s.poison.filter fun u => match u.1 with
      | .reg b g l _ | .priv b g l _ => !(b = blk && g = grp && lanes.contains l)
      | _ => true }

/-- R25, R230: what follows when threads of a group have ended. -/
def afterExit (s : State) (blk grp : Nat) : State :=
  match groupOf s blk grp with
  | none => s
  | some g =>
    if g.ended then endGroup s blk grp
    else
      let pcs := (g.live.map fun i => (g.lane i).npc).eraseDups
      let s := pcs.foldl (fun s pc => feRelease s blk grp pc) s
      checkRound (recheckReconv s blk grp) blk

/-- R230: threads of a group exit. -/
def exitLanes (s : State) (blk grp : Nat) (lanes : List Nat) : State := afterExit (dropLanes s blk grp lanes) blk grp

/-- R349, R380, R381: threads of a group end as by `ctl.exit`: a child with views and a family with wrong indices hold the exit back. -/
def exitBy (s : State) (b : Block) (grp : Nat) (lanes : List Nat) : State :=
  match groupOf s b.id grp with
  | none => s
  | some g =>
    if !b.views.isEmpty then trapLanes s b.id grp false (lanes.map fun i => (i, { cause := 0x21, info := 0xFF }))
    else if (g.live.all lanes.contains) && familyBroken s g then
      trapGroup (dropFamily s b.id grp) b.id grp (g.live.headD 0) { cause := 0x20, info := 6 }
    else exitLanes s b.id grp lanes

/-- R349: a group ends as if every live lane exited. -/
def killGroup (s : State) (blk grp : Nat) : State :=
  match groupOf s blk grp with
  | some g => if g.ended then s else exitLanes s blk grp g.live
  | none => s

/-- R349, ACT 3: every group of a block ends. -/
def killBlock (s : State) (blk : Nat) : State :=
  match blockOf s blk with
  | some b => b.liveGroups.foldl (fun s k => killGroup s blk k) s
  | none => s

/-! ### Running contexts -/

/-- The context of a block runs, and its core issues (R410). -/
def issues (s : State) (b : Block) : Bool := runs s b.part b.ctx && !(coreOf s b.core).frozen

/-! ### Where a node stands -/

/-- R102, R196: a binding still has a closed or running batch. -/
def Bfq.running (q : Bfq) : Bool := q.pairs.any BfqPair.closed

/-- R196, R102: a node has ended: its clusters are all placed, and no block, record or batch that descends from it is left;
handlers are none of its blocks. -/
def nodeEnded (s : State) (part : Nat) (l : Launch) (node : Nat) : Bool :=
  let mine := fun (p la n : Nat) => p = part && la = l.idx && n = node
  match versionOf s l.ver, l.nodes[node]? with
  | some v, some r =>
    r.started && (ctxOf s part l.ctx).saved.isNone && (((v.nodes[node]?).map Node.clusters).getD 0 ≤ r.placed) &&
      !(s.blocks.any fun b => mine b.part b.launch b.node && (match b.origin with
        | .handler _ _ | .notice _ => false
        | _ => true)) &&
      !(s.recs.any fun t => mine t.part t.launch t.node && (match t.kind with
        | .handler _ _ _ | .notice _ => false
        | _ => true)) &&
      !((partOf s part).resume.any fun b => mine b.part b.launch b.node) &&
      !(s.bfqs.any fun q => mine q.2.part q.2.launch q.2.node)
  | _, _ => false

/-! ### Paths -/

/-- A path of a group that can issue: its native PC, its lanes and its pass count. -/
structure Ready where
  pc : DWord
  lanes : BitVec 32
  passes : Nat
  deriving DecidableEq, Repr

/-- Lanes in a path. -/
def Ready.size (r : Ready) : Nat := (maskLanes r.lanes).length

/-- R34: a lane can issue when it is not held; lanes held for reconvergence go with their path. -/
def Lane.free (l : Lane) : Bool := l.live && l.hold = .none

/-- The lanes of the path at a native PC that issue together: those that are free, and those held for reconvergence. A lane that
arrives at a native PC where others of its path are held otherwise issues the instruction without them, and those whose instruction
has waited go on with it apart from it, as `seen` tells them. DESIGN CHOICE, log 111. -/
def Group.pathLanes (g : Group) (pc : DWord) (seen : Option (Cells DWord × BitVec 7)) : List Nat :=
  g.live.filter fun i =>
    (g.lane i).npc = pc && (g.lane i).seen = seen && ((g.lane i).hold = .none || (g.lane i).hold = .reconv)

/-- R223: the paths of a group: the native PCs of its live lanes. -/
def pathCount (g : Group) : Nat := ((g.live.map fun k => (g.lane k).npc).eraseDups).length

/-- R231: the path's group has yielded its sub-core. -/
def noteYield (s : State) (p : Path) : State :=
  modCore s p.b.core fun c =>
    { c with yields := (c.yields.filter fun y => !(y.blk = p.iss.blk && y.grp = p.iss.grp)) ++
      [{ sub := p.g.sub, blk := p.iss.blk, grp := p.iss.grp, cycle := s.clk }] }

/-- R353: a lane that may issue while the group is stepped. -/
def Group.mayStep (g : Group) (i : Nat) : Bool := g.stepMode = 0 || g.stepLanes.getLsbD i

/-- R30, R34, R38: the ready paths of a group, in ascending lowest lane. -/
def Group.ready (g : Group) : List Ready :=
  let keys := ((g.live.filter fun i => (g.lane i).free && g.mayStep i).map fun i => ((g.lane i).npc, (g.lane i).seen)).eraseDups
  keys.map fun k =>
    let ls := g.pathLanes k.1 k.2
    { pc := k.1, lanes := lanesMask ls, passes := (ls.map fun i => (g.lane i).passes).foldl max 0 }

end Sys2Proof.Machine
end

