-- ==== Sys2Proof/Machine/Flags.lean ====
section
/-! DEFINITION. The truth values that compares give (R216, R217, R243, R296): the machine keeps no flags beside its lane and
uniform predicates. -/

namespace Sys2Proof.Machine

open Sys2Proof

/-- R216, R296: the ten relations of integer compares. -/
inductive Rel where
  | eq | ne | lts | les | gts | ges | ltn | len | gtn | gen
  deriving DecidableEq, Repr

/-- R216: a relation of two words. -/
def Rel.holds {n : Nat} (r : Rel) (x y : BitVec n) : Bool :=
  match r with
  | .eq => x = y
  | .ne => x ≠ y
  | .lts => x.toInt < y.toInt
  | .les => x.toInt ≤ y.toInt
  | .gts => y.toInt < x.toInt
  | .ges => y.toInt ≤ x.toInt
  | .ltn => x.toNat < y.toNat
  | .len => x.toNat ≤ y.toNat
  | .gtn => y.toNat < x.toNat
  | .gen => y.toNat ≤ x.toNat

/-- R243: the eight relations of f32 compares. -/
inductive FRel where
  | eq | ne | lt | le | gt | ge | un | ord
  deriving DecidableEq, Repr

/-- R243: a relation of two values; every relation but ne and un is false of a NaN. -/
def FRel.holds (r : FRel) (x y : Val) : Bool :=
  let un := x.isNan || y.isNan
  match r with
  | .eq => !un && x.eqv y
  | .ne => un || !x.eqv y
  | .lt => !un && x.lt y
  | .le => !un && (x.lt y || x.eqv y)
  | .gt => !un && y.lt x
  | .ge => !un && (y.lt x || x.eqv y)
  | .un => un
  | .ord => !un

end Sys2Proof.Machine
end

