-- ==== Sys2Proof/Machine/Integer.lean ====
section
/-! DEFINITION. Meanings of the integer, predicate and lane-exchange instructions (chapter 10, R207 to R223). -/

namespace Sys2Proof.Machine

open Sys2Proof


/-! ### Shapes -/

/-- A word computed from sources a and b. -/
def lane2 (i : Instr) (x : LExt) (d a b : BitVec 7) (f : Word → Word → Word) (s : State) : Out :=
  laneMap i x (fun p _ l m => m.dst32 d (f (src32 p.g l a) (src32 p.g l b))) s

/-- A word computed from source a. -/
def lane1 (i : Instr) (x : LExt) (d a : BitVec 7) (f : Word → Word) (s : State) : Out :=
  laneMap i x (fun p _ l m => m.dst32 d (f (src32 p.g l a))) s

/-- A word computed from sources a and b and from d. -/
def lane3 (i : Instr) (x : LExt) (d a b : BitVec 7) (f : Word → Word → Word → Word) (s : State) : Out :=
  laneMap i x (fun p _ l m => m.dst32 d (f (src32 p.g l a) (src32 p.g l b) (src32 p.g l d))) s

/-- R209, R213: the low 32 bits of an exact value, clamped to s32 with `.sat`. -/
def satW (x : LExt) (v : Int) : Word := toW (s32.clamp (satOf x) v)

/-- R209: a shift by the whole unsigned value of its amount. -/
def shlW (x y : Word) : Word := if 32 ≤ y.toNat then 0 else x <<< y.toNat

def shrW (x y : Word) : Word := if 32 ≤ y.toNat then 0 else x >>> y.toNat

def sarW (x y : Word) : Word := x.sshiftRight (min y.toNat 31)

/-- R214: leading zero bits. -/
def clzW (x : Word) : Nat := if x = 0 then 32 else 31 - Nat.log2 x.toNat

/-- R214: trailing zero bits. -/
def ctzW (x : Word) : Nat := ((List.range 32).find? fun k => x.getLsbD k).getD 32

/-- R214: the number of 1 bits. -/
def popW (x : Word) : Nat := (maskLanes x).length

/-- R214: bit k goes to bit 31 − k. -/
def brevW (x : Word) : Word := lanesMask ((maskLanes x).map fun k => 31 - k)

/-- R215: position and length of the bit field that a control word gives. -/
def fieldOf (c : Word) : Nat × Nat := (bits c.toNat 0 5, min (bits c.toNat 8 6) (32 - bits c.toNat 0 5))

/-- R215: the bit field of a word, sign-extended or not; 0 when its length is 0. -/
def bfxW (signed : Bool) (x c : Word) : Word :=
  let f := bits x.toNat (fieldOf c).1 (fieldOf c).2
  if (fieldOf c).2 = 0 then 0 else if signed then toW (sext f (fieldOf c).2) else BitVec.ofNat 32 f

/-- R215: a word with its bit field replaced by the low bits of another. -/
def bfiW (x c w : Word) : Word :=
  let mask := BitVec.ofNat 32 ((2 ^ (fieldOf c).2 - 1) * 2 ^ (fieldOf c).1)
  (w &&& ~~~mask) ||| ((x <<< (fieldOf c).1) &&& mask)

/-- R211: a rotation left. -/
def rolW (x : Word) (n : Nat) : Word := x.rotateLeft n

/-- R216: a compare into a predicate; nothing when pd is 31. -/
def compare (i : Instr) (x : LExt) (r : Rel) (pd : BitVec 5) (comb : BitVec 2) (a b : BitVec 7) (s : State) : Out :=
  laneMap i x (fun p _ l m => m.pwr pd comb (r.holds (src32 p.g l a) (src32 p.g l b))) s

/-- R217: a predicate operation. -/
def plog (i : Instr) (x : LExt) (f : Bool → Bool → Bool) (pd : BitVec 5) (comb : BitVec 2) (a b : BitVec 5) (s : State) :
    Out :=
  laneMap i x (fun _ _ l m => m.pwr pd comb (f (l.prd a) (l.prd b))) s

/-- R220: the source lane of a shuffle is `j` when it takes part, else the lane itself. -/
def shuffle (i : Instr) (x : LExt) (d a b : BitVec 7) (j : Nat → Word → Option Nat) (s : State) : Out :=
  laneMap i x (fun p n l m =>
    let from' := match j n (src32 p.g l b) with
      | some k => if (p.exec x).contains k then p.g.lane k else l
      | none => l
    m.dst32 d (src32 p.g from' a)) s

/-- R221: the participating lanes at which a condition holds, as a mask. -/
def voteMask (p : Path) (x : LExt) (f : Lane → Bool) : Word := lanesMask ((p.exec x).filter fun k => f (p.g.lane k))

/-- R222: the fold of a over the participating lanes. -/
def reduce (i : Instr) (x : LExt) (d a : BitVec 7) (f : Word → Word → Word) (s : State) : Out :=
  laneMap i x (fun p _ l m =>
    m.dst32 d (match (p.exec x).map fun k => src32 p.g (p.g.lane k) a with
      | v :: vs => vs.foldl f v
      | [] => src32 p.g l a)) s

/-- R208: the numbers that `lsys.grp` reads; a block from a phase or child record reads 0, 0, 0 and 1. -/
def placeNumber (p : Path) (sel : Nat) : Nat :=
  let fromRecord := match p.b.origin with
    | .phase | .child _ _ => true
    | _ => false
  match sel with
  | 0 => if fromRecord then 0 else p.iss.grp
  | 1 => if fromRecord then 0 else p.b.bnum
  | 2 => if fromRecord then 0 else p.b.cnum
  | 3 => if fromRecord then 1 else p.b.groups.length
  | _ => p.b.core

/-- R218: the predicates of a lane written from a word under a mask. -/
def wrpLane (m : Lane) (a b : Word) : Lane :=
  { m with preds := (m.preds &&& ~~~(b.setWidth 24)) ||| (a.setWidth 24 &&& b.setWidth 24) }

/-! ### lsys -/

/-- R207: `lsys.nop`. -/
def execLsysNop (x : LExt) (s : State) : Out :=
  laneMap (.lsysNop x) x (fun _ _ _ m => m) s

/-- R207: `lsys.lane`. -/
def execLsysLane (d : BitVec 7) (x : LExt) (s : State) : Out :=
  laneMap (.lsysLane d x) x (fun _ n _ m => m.dst32 d (BitVec.ofNat 32 n)) s

/-- R207: `lsys.tid`. -/
def execLsysTid (d : BitVec 7) (x : LExt) (s : State) : Out :=
  laneMap (.lsysTid d x) x (fun _ _ l m => m.dst32 d (l.tid.setWidth 32)) s

/-- R208: `lsys.grp`. -/
def execLsysGrp (d : BitVec 7) (sel : BitVec 7) (x : LExt) (s : State) : Out :=
  laneMap (.lsysGrp d sel x) x (fun p _ _ m => m.dst32 d (BitVec.ofNat 32 (placeNumber p sel.toNat))) s

/-- R207: `lsys.clk`. -/
def execLsysClk (d : BitVec 7) (x : LExt) (s : State) : Out :=
  laneMap (.lsysClk d x) x (fun _ _ _ m => m.dst64 d (BitVec.ofNat 64 s.clk)) s

/-- R207: `lsys.brk`. -/
def execLsysBrk (x : LExt) (s : State) : Out :=
  laneTrap (.lsysBrk x) x (fun _ _ _ m => (m, some { cause := 0x12 })) s

/-! ### ialu and the immediate majors -/

/-- R209: `ialu.add`. -/
def execIaluAdd (d : BitVec 7) (a : BitVec 7) (b : BitVec 7) (x : LExt) (s : State) : Out :=
  lane2 (.ialuAdd d a b x) x d a b (fun u v => satW x (u.toInt + v.toInt)) s

/-- R209: `ialu.sub`. -/
def execIaluSub (d : BitVec 7) (a : BitVec 7) (b : BitVec 7) (x : LExt) (s : State) : Out :=
  lane2 (.ialuSub d a b x) x d a b (fun u v => satW x (u.toInt - v.toInt)) s

/-- R209: `ialu.and`. -/
def execIaluAnd (d : BitVec 7) (a : BitVec 7) (b : BitVec 7) (x : LExt) (s : State) : Out :=
  lane2 (.ialuAnd d a b x) x d a b (fun u v => u &&& v) s

/-- R209: `ialu.or`. -/
def execIaluOr (d : BitVec 7) (a : BitVec 7) (b : BitVec 7) (x : LExt) (s : State) : Out :=
  lane2 (.ialuOr d a b x) x d a b (fun u v => u ||| v) s

/-- R209: `ialu.xor`. -/
def execIaluXor (d : BitVec 7) (a : BitVec 7) (b : BitVec 7) (x : LExt) (s : State) : Out :=
  lane2 (.ialuXor d a b x) x d a b (fun u v => u ^^^ v) s

/-- R209: `ialu.andn`. -/
def execIaluAndn (d : BitVec 7) (a : BitVec 7) (b : BitVec 7) (x : LExt) (s : State) : Out :=
  lane2 (.ialuAndn d a b x) x d a b (fun u v => u &&& ~~~v) s

/-- R209: `ialu.shl`. -/
def execIaluShl (d : BitVec 7) (a : BitVec 7) (b : BitVec 7) (x : LExt) (s : State) : Out :=
  lane2 (.ialuShl d a b x) x d a b (fun u v => shlW u v) s

/-- R209: `ialu.shr`. -/
def execIaluShr (d : BitVec 7) (a : BitVec 7) (b : BitVec 7) (x : LExt) (s : State) : Out :=
  lane2 (.ialuShr d a b x) x d a b (fun u v => shrW u v) s

/-- R209: `ialu.sar`. -/
def execIaluSar (d : BitVec 7) (a : BitVec 7) (b : BitVec 7) (x : LExt) (s : State) : Out :=
  lane2 (.ialuSar d a b x) x d a b (fun u v => sarW u v) s

/-- R209: `ialu.mins`. -/
def execIaluMins (d : BitVec 7) (a : BitVec 7) (b : BitVec 7) (x : LExt) (s : State) : Out :=
  lane2 (.ialuMins d a b x) x d a b (fun u v => if u.toInt < v.toInt then u else v) s

/-- R209: `ialu.maxs`. -/
def execIaluMaxs (d : BitVec 7) (a : BitVec 7) (b : BitVec 7) (x : LExt) (s : State) : Out :=
  lane2 (.ialuMaxs d a b x) x d a b (fun u v => if u.toInt < v.toInt then v else u) s

/-- R209: `ialu.minn`. -/
def execIaluMinn (d : BitVec 7) (a : BitVec 7) (b : BitVec 7) (x : LExt) (s : State) : Out :=
  lane2 (.ialuMinn d a b x) x d a b (fun u v => if u.toNat < v.toNat then u else v) s

/-- R209: `ialu.maxn`. -/
def execIaluMaxn (d : BitVec 7) (a : BitVec 7) (b : BitVec 7) (x : LExt) (s : State) : Out :=
  lane2 (.ialuMaxn d a b x) x d a b (fun u v => if u.toNat < v.toNat then v else u) s

/-- R209: `ialu.abs`. -/
def execIaluAbs (d : BitVec 7) (a : BitVec 7) (x : LExt) (s : State) : Out :=
  lane1 (.ialuAbs d a x) x d a (fun u => satW x u.toInt.natAbs) s

/-- R210: `iaddi`. -/
def execIaddi (d : BitVec 7) (a : BitVec 7) (imm : BitVec 11) (x : LExt) (s : State) : Out :=
  lane1 (.iaddi d a imm x) x d a (fun u => satW x (u.toInt + immS x.imm imm.toNat 11)) s

/-- R210: `andi`. -/
def execAndi (d : BitVec 7) (a : BitVec 7) (imm : BitVec 11) (x : LExt) (s : State) : Out :=
  lane1 (.andi d a imm x) x d a (fun u => u &&& toW (immS x.imm imm.toNat 11)) s

/-- R210: `ori`. -/
def execOri (d : BitVec 7) (a : BitVec 7) (imm : BitVec 11) (x : LExt) (s : State) : Out :=
  lane1 (.ori d a imm x) x d a (fun u => u ||| toW (immS x.imm imm.toNat 11)) s

/-- R210: `xori`. -/
def execXori (d : BitVec 7) (a : BitVec 7) (imm : BitVec 11) (x : LExt) (s : State) : Out :=
  lane1 (.xori d a imm x) x d a (fun u => u ^^^ toW (immS x.imm imm.toNat 11)) s

/-- R211: `ishi.shl`. -/
def execIshiShl (d : BitVec 7) (a : BitVec 7) (n : BitVec 5) (x : LExt) (s : State) : Out :=
  lane1 (.ishiShl d a n x) x d a (fun u => u <<< n.toNat) s

/-- R211: `ishi.shr`. -/
def execIshiShr (d : BitVec 7) (a : BitVec 7) (n : BitVec 5) (x : LExt) (s : State) : Out :=
  lane1 (.ishiShr d a n x) x d a (fun u => u >>> n.toNat) s

/-- R211: `ishi.sar`. -/
def execIshiSar (d : BitVec 7) (a : BitVec 7) (n : BitVec 5) (x : LExt) (s : State) : Out :=
  lane1 (.ishiSar d a n x) x d a (fun u => u.sshiftRight n.toNat) s

/-- R211: `ishi.rol`. -/
def execIshiRol (d : BitVec 7) (a : BitVec 7) (n : BitVec 5) (x : LExt) (s : State) : Out :=
  lane1 (.ishiRol d a n x) x d a (fun u => rolW u n.toNat) s

/-- R212: `movi`. -/
def execMovi (d : BitVec 7) (imm : BitVec 18) (x : LExt) (s : State) : Out :=
  laneMap (.movi d imm x) x (fun _ _ _ m => m.dst32 d (toW (immS x.imm imm.toNat 18))) s

/-- R212: `movhi`. -/
def execMovhi (d : BitVec 7) (imm : BitVec 18) (x : LExt) (s : State) : Out :=
  laneMap (.movhi d imm x) x (fun _ _ _ m => m.dst32 d (BitVec.ofNat 32 (immU x.imm imm.toNat 18 * 2 ^ 14))) s

/-! ### imul and ibit -/

/-- R213: `imul.lo`. -/
def execImulLo (d : BitVec 7) (a : BitVec 7) (b : BitVec 7) (x : LExt) (s : State) : Out :=
  lane2 (.imulLo d a b x) x d a b (fun u v => satW x (u.toInt * v.toInt)) s

/-- R213: `imul.his`. -/
def execImulHis (d : BitVec 7) (a : BitVec 7) (b : BitVec 7) (x : LExt) (s : State) : Out :=
  lane2 (.imulHis d a b x) x d a b (fun u v => (toD (u.toInt * v.toInt)).extractLsb' 32 32) s

/-- R213: `imul.hin`. -/
def execImulHin (d : BitVec 7) (a : BitVec 7) (b : BitVec 7) (x : LExt) (s : State) : Out :=
  lane2 (.imulHin d a b x) x d a b (fun u v => BitVec.ofNat 32 (u.toNat * v.toNat / 2 ^ 32)) s

/-- R213: `imul.wides`. -/
def execImulWides (d : BitVec 7) (a : BitVec 7) (b : BitVec 7) (x : LExt) (s : State) : Out :=
  laneMap (.imulWides d a b x) x (fun p _ l m => m.dst64 d (toD ((src32 p.g l a).toInt * (src32 p.g l b).toInt))) s

/-- R213: `imul.widen`. -/
def execImulWiden (d : BitVec 7) (a : BitVec 7) (b : BitVec 7) (x : LExt) (s : State) : Out :=
  laneMap (.imulWiden d a b x) x (fun p _ l m => m.dst64 d (BitVec.ofNat 64 ((src32 p.g l a).toNat * (src32 p.g l b).toNat))) s

/-- R213: `imul.mad`. -/
def execImulMad (d : BitVec 7) (a : BitVec 7) (b : BitVec 7) (x : LExt) (s : State) : Out :=
  lane3 (.imulMad d a b x) x d a b (fun u v z => satW x (u.toInt * v.toInt + z.toInt)) s

/-- R214: `ibit.popc`. -/
def execIbitPopc (d : BitVec 7) (a : BitVec 7) (x : LExt) (s : State) : Out :=
  lane1 (.ibitPopc d a x) x d a (fun u => BitVec.ofNat 32 (popW u)) s

/-- R214: `ibit.clz`. -/
def execIbitClz (d : BitVec 7) (a : BitVec 7) (x : LExt) (s : State) : Out :=
  lane1 (.ibitClz d a x) x d a (fun u => BitVec.ofNat 32 (clzW u)) s

/-- R214: `ibit.ctz`. -/
def execIbitCtz (d : BitVec 7) (a : BitVec 7) (x : LExt) (s : State) : Out :=
  lane1 (.ibitCtz d a x) x d a (fun u => BitVec.ofNat 32 (ctzW u)) s

/-- R214: `ibit.brev`. -/
def execIbitBrev (d : BitVec 7) (a : BitVec 7) (x : LExt) (s : State) : Out :=
  lane1 (.ibitBrev d a x) x d a (fun u => brevW u) s

/-- R215: `ibit.bfxs`. -/
def execIbitBfxs (d : BitVec 7) (a : BitVec 7) (b : BitVec 7) (x : LExt) (s : State) : Out :=
  lane2 (.ibitBfxs d a b x) x d a b (bfxW true) s

/-- R215: `ibit.bfxn`. -/
def execIbitBfxn (d : BitVec 7) (a : BitVec 7) (b : BitVec 7) (x : LExt) (s : State) : Out :=
  lane2 (.ibitBfxn d a b x) x d a b (bfxW false) s

/-- R215: `ibit.bfi`. -/
def execIbitBfi (d : BitVec 7) (a : BitVec 7) (b : BitVec 7) (x : LExt) (s : State) : Out :=
  lane3 (.ibitBfi d a b x) x d a b bfiW s

/-! ### icmp, plog and cmov -/

/-- R216: `icmp.eq`. -/
def execIcmpEq (pd : BitVec 5) (comb : BitVec 2) (a : BitVec 7) (b : BitVec 7) (x : LExt) (s : State) : Out :=
  compare (.icmpEq pd comb a b x) x .eq pd comb a b s

/-- R216: `icmp.ne`. -/
def execIcmpNe (pd : BitVec 5) (comb : BitVec 2) (a : BitVec 7) (b : BitVec 7) (x : LExt) (s : State) : Out :=
  compare (.icmpNe pd comb a b x) x .ne pd comb a b s

/-- R216: `icmp.lts`. -/
def execIcmpLts (pd : BitVec 5) (comb : BitVec 2) (a : BitVec 7) (b : BitVec 7) (x : LExt) (s : State) : Out :=
  compare (.icmpLts pd comb a b x) x .lts pd comb a b s

/-- R216: `icmp.les`. -/
def execIcmpLes (pd : BitVec 5) (comb : BitVec 2) (a : BitVec 7) (b : BitVec 7) (x : LExt) (s : State) : Out :=
  compare (.icmpLes pd comb a b x) x .les pd comb a b s

/-- R216: `icmp.gts`. -/
def execIcmpGts (pd : BitVec 5) (comb : BitVec 2) (a : BitVec 7) (b : BitVec 7) (x : LExt) (s : State) : Out :=
  compare (.icmpGts pd comb a b x) x .gts pd comb a b s

/-- R216: `icmp.ges`. -/
def execIcmpGes (pd : BitVec 5) (comb : BitVec 2) (a : BitVec 7) (b : BitVec 7) (x : LExt) (s : State) : Out :=
  compare (.icmpGes pd comb a b x) x .ges pd comb a b s

/-- R216: `icmp.ltn`. -/
def execIcmpLtn (pd : BitVec 5) (comb : BitVec 2) (a : BitVec 7) (b : BitVec 7) (x : LExt) (s : State) : Out :=
  compare (.icmpLtn pd comb a b x) x .ltn pd comb a b s

/-- R216: `icmp.len`. -/
def execIcmpLen (pd : BitVec 5) (comb : BitVec 2) (a : BitVec 7) (b : BitVec 7) (x : LExt) (s : State) : Out :=
  compare (.icmpLen pd comb a b x) x .len pd comb a b s

/-- R216: `icmp.gtn`. -/
def execIcmpGtn (pd : BitVec 5) (comb : BitVec 2) (a : BitVec 7) (b : BitVec 7) (x : LExt) (s : State) : Out :=
  compare (.icmpGtn pd comb a b x) x .gtn pd comb a b s

/-- R216: `icmp.gen`. -/
def execIcmpGen (pd : BitVec 5) (comb : BitVec 2) (a : BitVec 7) (b : BitVec 7) (x : LExt) (s : State) : Out :=
  compare (.icmpGen pd comb a b x) x .gen pd comb a b s

/-- R217: `plog.and`. -/
def execPlogAnd (pd : BitVec 5) (comb : BitVec 2) (a : BitVec 5) (b : BitVec 5) (x : LExt) (s : State) : Out :=
  plog (.plogAnd pd comb a b x) x (fun u w => u && w) pd comb a b s

/-- R217: `plog.or`. -/
def execPlogOr (pd : BitVec 5) (comb : BitVec 2) (a : BitVec 5) (b : BitVec 5) (x : LExt) (s : State) : Out :=
  plog (.plogOr pd comb a b x) x (fun u w => u || w) pd comb a b s

/-- R217: `plog.xor`. -/
def execPlogXor (pd : BitVec 5) (comb : BitVec 2) (a : BitVec 5) (b : BitVec 5) (x : LExt) (s : State) : Out :=
  plog (.plogXor pd comb a b x) x (fun u w => xor u w) pd comb a b s

/-- R217: `plog.andn`. -/
def execPlogAndn (pd : BitVec 5) (comb : BitVec 2) (a : BitVec 5) (b : BitVec 5) (x : LExt) (s : State) : Out :=
  plog (.plogAndn pd comb a b x) x (fun u w => u && !w) pd comb a b s

/-- R217: `plog.orn`. -/
def execPlogOrn (pd : BitVec 5) (comb : BitVec 2) (a : BitVec 5) (b : BitVec 5) (x : LExt) (s : State) : Out :=
  plog (.plogOrn pd comb a b x) x (fun u w => u || !w) pd comb a b s

/-- R218: `cmov.nz`. -/
def execCmovNz (d : BitVec 7) (a : BitVec 7) (b : BitVec 7) (x : LExt) (s : State) : Out :=
  laneMap (.cmovNz d a b x) x (fun p _ l m => if src32 p.g l b ≠ 0 then m.dst32 d (src32 p.g l a) else m) s

/-- R218: `cmov.z`. -/
def execCmovZ (d : BitVec 7) (a : BitVec 7) (b : BitVec 7) (x : LExt) (s : State) : Out :=
  laneMap (.cmovZ d a b x) x (fun p _ l m => if src32 p.g l b = 0 then m.dst32 d (src32 p.g l a) else m) s

/-- R218: `cmov.rdp`. -/
def execCmovRdp (d : BitVec 7) (x : LExt) (s : State) : Out :=
  laneMap (.cmovRdp d x) x (fun _ _ l m => m.dst32 d (l.preds.setWidth 32)) s

/-- R218: `cmov.wrp`. -/
def execCmovWrp (a : BitVec 7) (b : BitVec 7) (x : LExt) (s : State) : Out :=
  laneMap (.cmovWrp a b x) x (fun p _ l m => wrpLane m (src32 p.g l a) (src32 p.g l b)) s

/-! ### lanex -/

/-- R220: `lanex.shfl`. -/
def execLanexShfl (d : BitVec 7) (a : BitVec 7) (b : BitVec 7) (x : LExt) (s : State) : Out :=
  shuffle (.lanexShfl d a b x) x d a b (fun _ c => some (c.toNat % 32)) s

/-- R220: `lanex.shflx`. -/
def execLanexShflx (d : BitVec 7) (a : BitVec 7) (b : BitVec 7) (x : LExt) (s : State) : Out :=
  shuffle (.lanexShflx d a b x) x d a b (fun n c => some (n ^^^ c.toNat % 32)) s

/-- R220: `lanex.shflup`. -/
def execLanexShflup (d : BitVec 7) (a : BitVec 7) (b : BitVec 7) (x : LExt) (s : State) : Out :=
  shuffle (.lanexShflup d a b x) x d a b (fun n c => if n < c.toNat then none else some (n - c.toNat)) s

/-- R220: `lanex.shfldn`. -/
def execLanexShfldn (d : BitVec 7) (a : BitVec 7) (b : BitVec 7) (x : LExt) (s : State) : Out :=
  shuffle (.lanexShfldn d a b x) x d a b (fun n c => if 31 < n + c.toNat then none else some (n + c.toNat)) s

/-- R221: `lanex.ballot`. -/
def execLanexBallot (d : BitVec 7) (p : BitVec 5) (x : LExt) (s : State) : Out :=
  laneMap (.lanexBallot d p x) x (fun q _ _ m => m.dst32 d (voteMask q x fun l => l.prd p)) s

/-- R221: `lanex.any`. -/
def execLanexAny (d : BitVec 7) (p : BitVec 5) (x : LExt) (s : State) : Out :=
  laneMap (.lanexAny d p x) x (fun q _ _ m => m.dst32 d (if voteMask q x (fun l => l.prd p) ≠ 0 then 1 else 0)) s

/-- R221: `lanex.all`. -/
def execLanexAll (d : BitVec 7) (p : BitVec 5) (x : LExt) (s : State) : Out :=
  laneMap (.lanexAll d p x) x (fun q _ _ m =>
    m.dst32 d (if voteMask q x (fun l => l.prd p) = voteMask q x (fun _ => true) then 1 else 0)) s

/-- R221: `lanex.match`. -/
def execLanexMatch (d : BitVec 7) (a : BitVec 7) (x : LExt) (s : State) : Out :=
  laneMap (.lanexMatch d a x) x (fun p _ l m => m.dst32 d (voteMask p x fun k => src32 p.g k a = src32 p.g l a)) s

/-- R222: `lanex.redadd`. -/
def execLanexRedadd (d : BitVec 7) (a : BitVec 7) (x : LExt) (s : State) : Out :=
  reduce (.lanexRedadd d a x) x d a (fun u v => u + v) s

/-- R222: `lanex.redmins`. -/
def execLanexRedmins (d : BitVec 7) (a : BitVec 7) (x : LExt) (s : State) : Out :=
  reduce (.lanexRedmins d a x) x d a (fun u v => if u.toInt < v.toInt then u else v) s

/-- R222: `lanex.redmaxs`. -/
def execLanexRedmaxs (d : BitVec 7) (a : BitVec 7) (x : LExt) (s : State) : Out :=
  reduce (.lanexRedmaxs d a x) x d a (fun u v => if u.toInt < v.toInt then v else u) s

/-- R222: `lanex.redand`. -/
def execLanexRedand (d : BitVec 7) (a : BitVec 7) (x : LExt) (s : State) : Out :=
  reduce (.lanexRedand d a x) x d a (fun u v => u &&& v) s

/-- R222: `lanex.redor`. -/
def execLanexRedor (d : BitVec 7) (a : BitVec 7) (x : LExt) (s : State) : Out :=
  reduce (.lanexRedor d a x) x d a (fun u v => u ||| v) s

/-- R222: `lanex.redxor`. -/
def execLanexRedxor (d : BitVec 7) (a : BitVec 7) (x : LExt) (s : State) : Out :=
  reduce (.lanexRedxor d a x) x d a (fun u v => u ^^^ v) s

/-- R223: `lanex.npath`. -/
def execLanexNpath (d : BitVec 7) (x : LExt) (s : State) : Out :=
  laneMap (.lanexNpath d x) x (fun p _ _ m => m.dst32 d (BitVec.ofNat 32 p.iss.paths)) s

end Sys2Proof.Machine
end

