-- ==== Sys2Proof/Machine/Special.lean ====
section
/-! DEFINITION. The special functions of `fspec` (R162, Table 7-5): the mathematical value by exact integer arithmetic in fixed
point, with far more bits than any f32 argument needs to decide its rounding, then one rounding. -/

namespace Sys2Proof.Machine

open Sys2Proof

/-- Fixed-point bits below the point. -/
def fxBits : Nat := 800

def fxOne : Nat := 2 ^ fxBits

/-- Σ sign^k · z2^k · first / (2k + 1): the series of atanh (`alt` false) and atan (`alt` true), `n` terms, z2 in fixed point. -/
def atanTerms (alt : Bool) (z2 : Nat) : Nat → Nat → Nat → Int
  | 0, _, _ => 0
  | n + 1, k, t =>
    let here : Int := (t / (2 * k + 1) : Nat)
    (if alt && k % 2 = 1 then -here else here) + atanTerms alt z2 n (k + 1) (t * z2 / fxOne)

/-- atanh or atan of a fixed-point number below 1/2. -/
def atanFx (alt : Bool) (z : Nat) : Nat := (atanTerms alt (z * z / fxOne) 260 0 z).toNat

/-- ln 2 = 2 · atanh(1/3). -/
def ln2Fx : Nat := 2 * atanFx false (fxOne / 3)

/-- π/2 = 8 · atan(1/5) − 2 · atan(1/239). -/
def halfPiFx : Nat := 8 * atanFx true (fxOne / 5) - 2 * atanFx true (fxOne / 239)

/-- Σ y^k / k! from term k on: the exponential series, `n` terms. -/
def expTerms (y : Nat) : Nat → Nat → Nat → Nat
  | 0, _, _ => 0
  | n + 1, k, t => t + expTerms y n (k + 1) (t * y / fxOne / (k + 1))

/-- e^y for a fixed-point y in [0, 1]. -/
def expFx (y : Nat) : Nat := expTerms y 180 0 fxOne

/-- Σ (−1)^j · y2^j · first / …: the series of sine (k odd) and cosine (k even), term t = y^k / k!. -/
def trigTerms (y2 : Nat) : Nat → Nat → Nat → Int
  | 0, _, _ => 0
  | n + 1, k, t => (t : Int) - trigTerms y2 n (k + 2) (t * y2 / fxOne / ((k + 1) * (k + 2)))

/-- Sine of a fixed-point number in [0, π/2]. -/
def sinFx (y : Nat) : Nat := (trigTerms (y * y / fxOne) 100 1 y).toNat

/-- Cosine of a fixed-point number in [0, π/2]. -/
def cosFx (y : Nat) : Nat := (trigTerms (y * y / fxOne) 100 0 fxOne).toNat

/-- Integer square root by bits from the top, with `n` bits to settle. -/
def isqrtFrom (x : Nat) : Nat → Nat → Nat
  | 0, r => r
  | n + 1, r => if (r + 2 ^ n) * (r + 2 ^ n) ≤ x then isqrtFrom x n (r + 2 ^ n) else isqrtFrom x n r

/-- floor(√x). -/
def isqrt (x : Nat) : Nat := isqrtFrom x (Nat.log2 x / 2 + 1) 0

/-- A positive number num · 2^exp in fixed point, exponents from −149 up. -/
def toFx (num : Nat) (exp : Int) : Nat := num * 2 ^ ((fxBits : Int) + exp).toNat

/-- The functions of `fspec`. -/
inductive Spec where
  | rcp | rsqrt | sqrt | exp2 | log2 | sin | cos | tanh
  deriving DecidableEq, Repr

/-- A rounded f32 of a fixed-point number. -/
def roundFx (rm : RMode) (ftz neg : Bool) (num : Nat) : Nat := f32.roundQ rm ftz false neg num 1 (-(fxBits : Int))

/-- √(num · 2^exp) rounded; a root that is not exact lies between two integers, and their mean rounds as it does. -/
def specSqrt (rm : RMode) (ftz : Bool) (num : Nat) (exp : Int) : Nat :=
  let odd := exp % 2 ≠ 0
  let n := (if odd then 2 * num else num) * 2 ^ 400
  let e := (if odd then exp - 1 else exp) / 2 - 200
  let r := isqrt n
  if r * r = n then f32.roundQ rm ftz false false r 1 e else f32.roundQ rm ftz false false (2 * r + 1) 1 (e - 1)

/-- 1/√(num · 2^exp) rounded, in the same way. -/
def specRsqrt (rm : RMode) (ftz : Bool) (num : Nat) (exp : Int) : Nat :=
  let odd := exp % 2 ≠ 0
  let n := if odd then 2 * num else num
  let e := -((if odd then exp - 1 else exp) / 2) - 300
  let r := isqrt (2 ^ 600 / n)
  if n * (r * r) = 2 ^ 600 then f32.roundQ rm ftz false false r 1 e
  else f32.roundQ rm ftz false false (2 * r + 1) 1 (e - 1)

/-- 2^x rounded; beyond 200 the result is past every f32. -/
def specExp2 (rm : RMode) (ftz neg : Bool) (num : Nat) (exp : Int) : Nat :=
  if num = 0 then f32.roundQ rm ftz false false 1 1 0
  else if 8 ≤ (Nat.log2 num : Int) + exp then f32.roundQ rm ftz false false 1 1 (if neg then -200 else 200)
  else
    let y := toFx num exp
    let x : Int := if neg then -(y : Int) else y
    let i := x / (fxOne : Int)
    let f := (x % (fxOne : Int)).toNat
    if f = 0 then f32.roundQ rm ftz false false 1 1 i
    else f32.roundQ rm ftz false false (expFx (f * ln2Fx / fxOne)) 1 (i - fxBits)

/-- log2(num · 2^exp) rounded; log2(1) is +0 in every rounding mode. DESIGN CHOICE, log 137. -/
def specLog2 (rm : RMode) (ftz : Bool) (num : Nat) (exp : Int) : Nat :=
  let l := Nat.log2 num
  let e := (l : Int) + exp
  if num = 2 ^ l then f32.roundQ rm ftz false (decide (e < 0)) e.natAbs 1 0
  else
    -- mantissa m = num / 2^l in (1, 2): ln m = 2 · atanh((m − 1) / (m + 1))
    let z := (num - 2 ^ l) * fxOne / (num + 2 ^ l)
    let x := e * (fxOne : Int) + ((2 * atanFx false z * fxOne / ln2Fx : Nat) : Int)
    roundFx rm ftz (decide (x < 0)) x.natAbs

/-- sin or cos of num · 2^exp rounded, after exact reduction by π/2. -/
def specTrig (rm : RMode) (ftz wantCos neg : Bool) (num : Nat) (exp : Int) : Nat :=
  let x := toFx num exp
  let q := x / halfPiFx + if wantCos then 1 else 0
  let r := x % halfPiFx
  let v := if q % 2 = 0 then sinFx r else cosFx r
  roundFx rm ftz ((!wantCos && neg) != decide (2 ≤ q % 4)) v

/-- Squares a fixed-point number `n` times. -/
def squares : Nat → Nat → Nat
  | 0, x => x
  | n + 1, x => squares n (x * x / fxOne)

/-- tanh rounded; beyond 64 it is nearer to 1 than any f32 below 1. -/
def specTanh (rm : RMode) (ftz neg : Bool) (num : Nat) (exp : Int) : Nat :=
  if 6 ≤ (Nat.log2 num : Int) + exp then f32.roundQ rm ftz false neg (2 ^ 200 - 1) (2 ^ 200) 0
  else
    -- e^{2x} by seven squarings of e^{x/64}
    let e := squares 7 (expFx (toFx num exp / 64))
    f32.roundQ rm ftz false neg (e - fxOne) (e + fxOne) 0

/-- R162, R242, Table 7-5: a function of `fspec`. -/
def Spec.eval (f : Spec) (rm : RMode) (ftz : Bool) (x : Nat) : Nat :=
  match f32.decode ftz x with
  | .nan => f32.nan
  | .inf neg => match f with
    | .rcp => f32.signed neg 0
    | .rsqrt => if neg then f32.nan else 0
    | .sqrt | .log2 => if neg then f32.nan else f32.infCode
    | .exp2 => if neg then 0 else f32.infCode
    | .sin | .cos => f32.nan
    | .tanh => f32.signed neg 0x3F800000
  | .fin neg num exp =>
    if num = 0 then match f with
      | .rcp | .rsqrt => f32.signed neg f32.infCode
      | .sqrt | .sin | .tanh => f32.signed neg 0
      | .exp2 | .cos => 0x3F800000
      | .log2 => f32.signed true f32.infCode
    else match f with
      | .rcp => f32.roundQ rm ftz false neg 1 num (-exp)
      | .rsqrt => if neg then f32.nan else specRsqrt rm ftz num exp
      | .sqrt => if neg then f32.nan else specSqrt rm ftz num exp
      | .exp2 => specExp2 rm ftz neg num exp
      | .log2 => if neg then f32.nan else specLog2 rm ftz num exp
      | .sin => specTrig rm ftz false neg num exp
      | .cos => specTrig rm ftz true neg num exp
      | .tanh => specTanh rm ftz neg num exp

end Sys2Proof.Machine
end

