-- ==== Sys2Proof/Machine/Float.lean ====
section
/-! DEFINITION. Meanings of the floating, conversion and narrow-format instructions (chapter 11, R235 to R252). -/

namespace Sys2Proof.Machine

open Sys2Proof


/-! ### Shapes -/

/-- R177, R189: the rounding mode that a lane instruction carries; mode 4 takes its random operand from `aux`. -/
def rmode (x : LExt) (g : Group) (l : Lane) : RMode :=
  match x.mod with
  | some m => { code := m.rnd.toNat, r := if m.rnd = 4 then (src32 g l m.aux).toNat % 65536 else 0 }
  | none => {}

/-- The exact zero of a cancellation is negative in mode RD (R154). -/
def RMode.down (r : RMode) : Bool := r.code == 3

/-- A scalar f32 operation on two codes. -/
def float2 (i : Instr) (x : LExt) (d a b : BitVec 7) (f : RMode → Nat → Nat → Nat) (s : State) : Out :=
  laneMap i x (fun p _ l m =>
    m.dst32 d (BitVec.ofNat 32 (f (rmode x p.g l) (src32 p.g l a).toNat (src32 p.g l b).toNat))) s

/-- R153: a packed operation on the two 16-bit elements of words. -/
def packed2 (f : Nat → Nat → Nat → Nat) (u v w : Word) : Word :=
  BitVec.ofNat 32 (f (u.toNat % 65536) (v.toNat % 65536) (w.toNat % 65536) +
    65536 * f (u.toNat / 65536) (v.toNat / 65536) (w.toNat / 65536))

/-- R238: the rounded sum of two codes, the second one negated for a difference. -/
def addCodes (f : Fl) (ftz minus : Bool) (rm : RMode) (u v : Nat) : Nat :=
  let y := f.decode ftz v
  f.round rm ftz false ((f.decode ftz u).add rm.down (if minus then y.neg else y))

/-- R240: the rounded product of two codes. -/
def mulCodes (f : Fl) (ftz : Bool) (rm : RMode) (u v : Nat) : Nat :=
  f.round rm ftz false ((f.decode ftz u).mul (f.decode ftz v))

/-- R241: the rounded sum of an exact product, or its negation, and an addend, or its negation. -/
def fmaCodes (f : Fl) (ftz negProduct negAddend : Bool) (rm : RMode) (u v w : Nat) : Nat :=
  let p := (f.decode ftz u).mul (f.decode ftz v)
  let z := f.decode ftz w
  f.round rm ftz false ((if negProduct then p.neg else p).add rm.down (if negAddend then z.neg else z))

/-- A packed operation in a format. -/
def packedOp (i : Instr) (x : LExt) (d a b : BitVec 7) (f : RMode → Nat → Nat → Nat → Nat) (s : State) : Out :=
  laneMap i x (fun p _ l m =>
    m.dst32 d (packed2 (f (rmode x p.g l)) (src32 p.g l a) (src32 p.g l b) (l.reg d.toNat))) s

/-- R241: a scalar f32 operation that reads d. -/
def float3 (i : Instr) (x : LExt) (d a b : BitVec 7) (f : RMode → Nat → Nat → Nat → Nat) (s : State) : Out :=
  laneMap i x (fun p _ l m => m.dst32 d (BitVec.ofNat 32
    (f (rmode x p.g l) (src32 p.g l a).toNat (src32 p.g l b).toNat (l.reg d.toNat).toNat))) s

/-- R242: a special function. -/
def special (i : Instr) (x : LExt) (f : Spec) (d a : BitVec 7) (s : State) : Out :=
  laneMap i x (fun p _ l m =>
    m.dst32 d (BitVec.ofNat 32 (f.eval (rmode x p.g l) (ftzOf x) (src32 p.g l a).toNat))) s

/-- R243: a floating compare into a predicate. -/
def fcompare (i : Instr) (x : LExt) (r : FRel) (pd : BitVec 5) (comb : BitVec 2) (a b : BitVec 7) (s : State) : Out :=
  laneMap i x (fun p _ l m =>
    m.pwr pd comb (r.holds (f32.decode (ftzOf x) (src32 p.g l a).toNat) (f32.decode (ftzOf x) (src32 p.g l b).toNat))) s

/-- R247: an integer dot product of four bytes, with its addend. -/
def idot (i : Instr) (x : LExt) (signed : Bool) (d a b : BitVec 7) (s : State) : Out :=
  let f : IntFmt := { signed := signed, bits := 8 }
  let g : IntFmt := { signed := signed, bits := 32 }
  laneMap i x (fun p _ l m =>
    let u := (src32 p.g l a).toNat
    let v := (src32 p.g l b).toNat
    let sum := ((List.range 4).map fun t => f.value (u / 256 ^ t) * f.value (v / 256 ^ t)).sum
    m.dst32 d (toW (g.clamp (satOf x) (sum + g.value (l.reg d.toNat).toNat)))) s

/-- R247: a floating dot product of `n` elements of a format, with its addend. -/
def fdot (i : Instr) (x : LExt) (f : Fl) (n : Nat) (d a b : BitVec 7) (s : State) : Out :=
  laneMap i x (fun p _ l m =>
    let at' := fun (w : Word) t => f.decode false (w.toNat / (2 ^ (32 / n)) ^ t % 2 ^ (32 / n))
    let ps := (List.range n).map fun t => (at' (src32 p.g l a) t).mul (at' (src32 p.g l b) t)
    m.dst32 d (BitVec.ofNat 32 (kUpdate (rmode x p.g l) (ftzOf x) (f32.decode (ftzOf x) (l.reg d.toNat).toNat) ps))) s

/-- R248: code `n` of the eight in a word, decoded by the scale operand. -/
def cbElem (f : Fl) (w : Word) (scale : DWord) (n : Nat) : Nat :=
  cb4Decode f (bits w.toNat (4 * n) 4) (bits scale.toNat 32 8) (bits scale.toNat 0 32)

/-- R248: a decode of two codes to a 16-bit format. -/
def cbPair (i : Instr) (x : LExt) (f : Fl) (d a b : BitVec 7) (s : State) : Out :=
  laneMap i x (fun p _ l m =>
    let sc := src64 p.g l b
    let n := 2 * bits sc.toNat 40 2
    m.dst32 d (BitVec.ofNat 32 (cbElem f (src32 p.g l a) sc n + 65536 * cbElem f (src32 p.g l a) sc (n + 1)))) s

/-- R249: four f32 values packed to an 8-bit format; element t rotates the random operand by 8t. -/
def pack4 (i : Instr) (x : LExt) (f : Fl) (d a b : BitVec 7) (s : State) : Out :=
  laneMap i x (fun p _ l m =>
    let u := (src64 p.g l a).toNat
    let v := (src64 p.g l b).toNat
    let random := match x.mod with
      | some k => src32 p.g l k.aux
      | none => 0
    let one := fun t c =>
      f.round { code := (rmode x p.g l).code, r := (random.rotateRight (8 * t)).toNat % 65536 } false (satOf x)
        (f32.decode (ftzOf x) c)
    m.dst32 d (BitVec.ofNat 32 (one 0 (u % 2 ^ 32) + 256 * one 1 (u / 2 ^ 32) + 65536 * one 2 (v % 2 ^ 32) +
      16777216 * one 3 (v / 2 ^ 32)))) s

/-- R252: an 8-bit code as f16. -/
def toHalf (f : Fl) (c : Nat) : Nat := f16.round rne false false (f.decode false c)

/-- R252: four 8-bit elements unpacked to f16. -/
def unpack4 (i : Instr) (x : LExt) (f : Fl) (d a : BitVec 7) (s : State) : Out :=
  laneMap i x (fun p _ l m =>
    let u := (src32 p.g l a).toNat
    let e := fun t => toHalf f (bits u (8 * t) 8)
    m.dst64 d (BitVec.ofNat 64 (e 0 + 2 ^ 16 * e 1 + 2 ^ 32 * e 2 + 2 ^ 48 * e 3))) s

/-- R244: an f64 operation. -/
def double2 (i : Instr) (x : LExt) (d a b : BitVec 7) (f : RMode → Nat → Nat → Nat → Nat) (s : State) : Out :=
  laneMap i x (fun p _ l m => m.dst64 d (BitVec.ofNat 64
    (f (rmode x p.g l) (src64 p.g l a).toNat (src64 p.g l b).toNat (src64 p.g l d).toNat))) s

/-- R246: the bits of the destination that a converted value is written to. -/
def cvtValue (tgt : Nat) (v : Int) : Nat :=
  match tgt with
  | 3 | 8 | 9 => (v % 2 ^ 64).toNat
  | 10 => (v % 2 ^ 128).toNat
  | 11 => (sext (v % 2 ^ 16).toNat 16 % 2 ^ 32).toNat
  | 13 => (sext (v % 2 ^ 8).toNat 8 % 2 ^ 32).toNat
  | 12 => (v % 2 ^ 16).toNat
  | 14 => (v % 2 ^ 8).toNat
  | _ => (v % 2 ^ 32).toNat

/-- R236: the source bits that a format reads of its operand. -/
def cvtSource (src x : Nat) : Nat :=
  match src with
  | 1 | 2 | 11 | 12 => x % 2 ^ 16
  | 4 | 5 | 13 | 14 => x % 2 ^ 8
  | _ => x

/-! ### fadd, fmul, ffma, fspec, fcmp -/

/-- R238: `fadd.add`. -/
def execFaddAdd (d : BitVec 7) (a : BitVec 7) (b : BitVec 7) (x : LExt) (s : State) : Out :=
  float2 (.faddAdd d a b x) x d a b (addCodes f32 (ftzOf x) false) s

/-- R238: `fadd.sub`. -/
def execFaddSub (d : BitVec 7) (a : BitVec 7) (b : BitVec 7) (x : LExt) (s : State) : Out :=
  float2 (.faddSub d a b x) x d a b (addCodes f32 (ftzOf x) true) s

/-- R238: `fadd.min`. -/
def execFaddMin (d : BitVec 7) (a : BitVec 7) (b : BitVec 7) (x : LExt) (s : State) : Out :=
  float2 (.faddMin d a b x) x d a b (fun _ => f32.minmax (ftzOf x) false) s

/-- R238: `fadd.max`. -/
def execFaddMax (d : BitVec 7) (a : BitVec 7) (b : BitVec 7) (x : LExt) (s : State) : Out :=
  float2 (.faddMax d a b x) x d a b (fun _ => f32.minmax (ftzOf x) true) s

/-- R238: `fadd.add2h`. -/
def execFaddAdd2h (d : BitVec 7) (a : BitVec 7) (b : BitVec 7) (x : LExt) (s : State) : Out :=
  packedOp (.faddAdd2h d a b x) x d a b (fun rm u v _ => addCodes f16 (ftzOf x) false rm u v) s

/-- R238: `fadd.sub2h`. -/
def execFaddSub2h (d : BitVec 7) (a : BitVec 7) (b : BitVec 7) (x : LExt) (s : State) : Out :=
  packedOp (.faddSub2h d a b x) x d a b (fun rm u v _ => addCodes f16 (ftzOf x) true rm u v) s

/-- R238: `fadd.add2b`. -/
def execFaddAdd2b (d : BitVec 7) (a : BitVec 7) (b : BitVec 7) (x : LExt) (s : State) : Out :=
  packedOp (.faddAdd2b d a b x) x d a b (fun rm u v _ => addCodes bf16 (ftzOf x) false rm u v) s

/-- R238: `fadd.sub2b`. -/
def execFaddSub2b (d : BitVec 7) (a : BitVec 7) (b : BitVec 7) (x : LExt) (s : State) : Out :=
  packedOp (.faddSub2b d a b x) x d a b (fun rm u v _ => addCodes bf16 (ftzOf x) true rm u v) s

/-- R239: `fadd.abs`. -/
def execFaddAbs (d : BitVec 7) (a : BitVec 7) (x : LExt) (s : State) : Out :=
  lane1 (.faddAbs d a x) x d a (fun u => u &&& 0x7FFFFFFF#32) s

/-- R239: `fadd.neg`. -/
def execFaddNeg (d : BitVec 7) (a : BitVec 7) (x : LExt) (s : State) : Out :=
  lane1 (.faddNeg d a x) x d a (fun u => u ^^^ 0x80000000#32) s

/-- R239: `fadd.csgn`. -/
def execFaddCsgn (d : BitVec 7) (a : BitVec 7) (b : BitVec 7) (x : LExt) (s : State) : Out :=
  lane2 (.faddCsgn d a b x) x d a b (fun u v => (u &&& 0x7FFFFFFF#32) ||| (v &&& 0x80000000#32)) s

/-- R240: `fmul.mul`. -/
def execFmulMul (d : BitVec 7) (a : BitVec 7) (b : BitVec 7) (x : LExt) (s : State) : Out :=
  float2 (.fmulMul d a b x) x d a b (mulCodes f32 (ftzOf x)) s

/-- R240: `fmul.mul2h`. -/
def execFmulMul2h (d : BitVec 7) (a : BitVec 7) (b : BitVec 7) (x : LExt) (s : State) : Out :=
  packedOp (.fmulMul2h d a b x) x d a b (fun rm u v _ => mulCodes f16 (ftzOf x) rm u v) s

/-- R240: `fmul.mul2b`. -/
def execFmulMul2b (d : BitVec 7) (a : BitVec 7) (b : BitVec 7) (x : LExt) (s : State) : Out :=
  packedOp (.fmulMul2b d a b x) x d a b (fun rm u v _ => mulCodes bf16 (ftzOf x) rm u v) s

/-- R241: `ffma.fma`. -/
def execFfmaFma (d : BitVec 7) (a : BitVec 7) (b : BitVec 7) (x : LExt) (s : State) : Out :=
  float3 (.ffmaFma d a b x) x d a b (fmaCodes f32 (ftzOf x) false false) s

/-- R241: `ffma.fma2h`. -/
def execFfmaFma2h (d : BitVec 7) (a : BitVec 7) (b : BitVec 7) (x : LExt) (s : State) : Out :=
  packedOp (.ffmaFma2h d a b x) x d a b (fmaCodes f16 (ftzOf x) false false) s

/-- R241: `ffma.fma2b`. -/
def execFfmaFma2b (d : BitVec 7) (a : BitVec 7) (b : BitVec 7) (x : LExt) (s : State) : Out :=
  packedOp (.ffmaFma2b d a b x) x d a b (fmaCodes bf16 (ftzOf x) false false) s

/-- R241: `ffma.fms`. -/
def execFfmaFms (d : BitVec 7) (a : BitVec 7) (b : BitVec 7) (x : LExt) (s : State) : Out :=
  float3 (.ffmaFms d a b x) x d a b (fmaCodes f32 (ftzOf x) false true) s

/-- R241: `ffma.fnma`. -/
def execFfmaFnma (d : BitVec 7) (a : BitVec 7) (b : BitVec 7) (x : LExt) (s : State) : Out :=
  float3 (.ffmaFnma d a b x) x d a b (fmaCodes f32 (ftzOf x) true false) s

/-- R243: `fcmp.eq`. -/
def execFcmpEq (pd : BitVec 5) (comb : BitVec 2) (a : BitVec 7) (b : BitVec 7) (x : LExt) (s : State) : Out :=
  fcompare (.fcmpEq pd comb a b x) x .eq pd comb a b s

/-- R243: `fcmp.ne`. -/
def execFcmpNe (pd : BitVec 5) (comb : BitVec 2) (a : BitVec 7) (b : BitVec 7) (x : LExt) (s : State) : Out :=
  fcompare (.fcmpNe pd comb a b x) x .ne pd comb a b s

/-- R243: `fcmp.lt`. -/
def execFcmpLt (pd : BitVec 5) (comb : BitVec 2) (a : BitVec 7) (b : BitVec 7) (x : LExt) (s : State) : Out :=
  fcompare (.fcmpLt pd comb a b x) x .lt pd comb a b s

/-- R243: `fcmp.le`. -/
def execFcmpLe (pd : BitVec 5) (comb : BitVec 2) (a : BitVec 7) (b : BitVec 7) (x : LExt) (s : State) : Out :=
  fcompare (.fcmpLe pd comb a b x) x .le pd comb a b s

/-- R243: `fcmp.gt`. -/
def execFcmpGt (pd : BitVec 5) (comb : BitVec 2) (a : BitVec 7) (b : BitVec 7) (x : LExt) (s : State) : Out :=
  fcompare (.fcmpGt pd comb a b x) x .gt pd comb a b s

/-- R243: `fcmp.ge`. -/
def execFcmpGe (pd : BitVec 5) (comb : BitVec 2) (a : BitVec 7) (b : BitVec 7) (x : LExt) (s : State) : Out :=
  fcompare (.fcmpGe pd comb a b x) x .ge pd comb a b s

/-- R243: `fcmp.un`. -/
def execFcmpUn (pd : BitVec 5) (comb : BitVec 2) (a : BitVec 7) (b : BitVec 7) (x : LExt) (s : State) : Out :=
  fcompare (.fcmpUn pd comb a b x) x .un pd comb a b s

/-- R243: `fcmp.ord`. -/
def execFcmpOrd (pd : BitVec 5) (comb : BitVec 2) (a : BitVec 7) (b : BitVec 7) (x : LExt) (s : State) : Out :=
  fcompare (.fcmpOrd pd comb a b x) x .ord pd comb a b s

/-- R242: `fspec.rcp`. -/
def execFspecRcp (d : BitVec 7) (a : BitVec 7) (x : LExt) (s : State) : Out :=
  special (.fspecRcp d a x) x .rcp d a s

/-- R242: `fspec.rsqrt`. -/
def execFspecRsqrt (d : BitVec 7) (a : BitVec 7) (x : LExt) (s : State) : Out :=
  special (.fspecRsqrt d a x) x .rsqrt d a s

/-- R242: `fspec.sqrt`. -/
def execFspecSqrt (d : BitVec 7) (a : BitVec 7) (x : LExt) (s : State) : Out :=
  special (.fspecSqrt d a x) x .sqrt d a s

/-- R242: `fspec.exp2`. -/
def execFspecExp2 (d : BitVec 7) (a : BitVec 7) (x : LExt) (s : State) : Out :=
  special (.fspecExp2 d a x) x .exp2 d a s

/-- R242: `fspec.log2`. -/
def execFspecLog2 (d : BitVec 7) (a : BitVec 7) (x : LExt) (s : State) : Out :=
  special (.fspecLog2 d a x) x .log2 d a s

/-- R242: `fspec.sin`. -/
def execFspecSin (d : BitVec 7) (a : BitVec 7) (x : LExt) (s : State) : Out :=
  special (.fspecSin d a x) x .sin d a s

/-- R242: `fspec.cos`. -/
def execFspecCos (d : BitVec 7) (a : BitVec 7) (x : LExt) (s : State) : Out :=
  special (.fspecCos d a x) x .cos d a s

/-- R242: `fspec.tanh`. -/
def execFspecTanh (d : BitVec 7) (a : BitVec 7) (x : LExt) (s : State) : Out :=
  special (.fspecTanh d a x) x .tanh d a s

/-! ### cvt and narrow -/

/-- R245: `cvt`. -/
def execCvt (d : BitVec 7) (a : BitVec 7) (src : BitVec 4) (tgt : BitVec 4) (x : LExt) (s : State) : Out :=
  laneMap (.cvt d a src tgt x) x (fun p _ l m =>
    m.dstBits d (fmtRegBits tgt) (cvtValue tgt.toNat (convert (rmode x p.g l) (ftzOf x) (satOf x) src.toNat tgt.toNat
      (cvtSource src.toNat (srcBits p.g l a (fmtRegBits src)))))) s

/-- R247: `narrow.dot4s`. -/
def execNarrowDot4s (d : BitVec 7) (a : BitVec 7) (b : BitVec 7) (x : LExt) (s : State) : Out :=
  idot (.narrowDot4s d a b x) x true d a b s

/-- R247: `narrow.dot4n`. -/
def execNarrowDot4n (d : BitVec 7) (a : BitVec 7) (b : BitVec 7) (x : LExt) (s : State) : Out :=
  idot (.narrowDot4n d a b x) x false d a b s

/-- R247: `narrow.dot4e4`. -/
def execNarrowDot4e4 (d : BitVec 7) (a : BitVec 7) (b : BitVec 7) (x : LExt) (s : State) : Out :=
  fdot (.narrowDot4e4 d a b x) x e4m3 4 d a b s

/-- R247: `narrow.dot4e5`. -/
def execNarrowDot4e5 (d : BitVec 7) (a : BitVec 7) (b : BitVec 7) (x : LExt) (s : State) : Out :=
  fdot (.narrowDot4e5 d a b x) x e5m2 4 d a b s

/-- R247: `narrow.dot2b`. -/
def execNarrowDot2b (d : BitVec 7) (a : BitVec 7) (b : BitVec 7) (x : LExt) (s : State) : Out :=
  fdot (.narrowDot2b d a b x) x bf16 2 d a b s

/-- R247: `narrow.dot2h`. -/
def execNarrowDot2h (d : BitVec 7) (a : BitVec 7) (b : BitVec 7) (x : LExt) (s : State) : Out :=
  fdot (.narrowDot2h d a b x) x f16 2 d a b s

/-- R248: `narrow.cbdecb`. -/
def execNarrowCbdecb (d : BitVec 7) (a : BitVec 7) (b : BitVec 7) (x : LExt) (s : State) : Out :=
  cbPair (.narrowCbdecb d a b x) x bf16 d a b s

/-- R248: `narrow.cbdech`. -/
def execNarrowCbdech (d : BitVec 7) (a : BitVec 7) (b : BitVec 7) (x : LExt) (s : State) : Out :=
  cbPair (.narrowCbdech d a b x) x f16 d a b s

/-- R248: `narrow.cbdecf`. -/
def execNarrowCbdecf (d : BitVec 7) (a : BitVec 7) (b : BitVec 7) (x : LExt) (s : State) : Out :=
  laneMap (.narrowCbdecf d a b x) x (fun p _ l m =>
    m.dst32 d (BitVec.ofNat 32 (cbElem f32 (src32 p.g l a) (src64 p.g l b) (bits (src64 p.g l b).toNat 40 3)))) s

/-- R249: `narrow.pke4`. -/
def execNarrowPke4 (d : BitVec 7) (a : BitVec 7) (b : BitVec 7) (x : LExt) (s : State) : Out :=
  pack4 (.narrowPke4 d a b x) x e4m3 d a b s

/-- R249: `narrow.pke5`. -/
def execNarrowPke5 (d : BitVec 7) (a : BitVec 7) (b : BitVec 7) (x : LExt) (s : State) : Out :=
  pack4 (.narrowPke5 d a b x) x e5m2 d a b s

/-- R250: `narrow.mxpk`. A poisoned register traps its own lane alone (R342, R415); the others take its bits into their scale. DESIGN CHOICE,
log 152. -/
def execNarrowMxpk (d : BitVec 7) (a : BitVec 7) (x : LExt) (s : State) : Out :=
  laneMap (.narrowMxpk d a x) x (fun p _ l m =>
    let e := mxScale ((p.exec x).map fun k => (src32 p.g (p.g.lane k) a).toNat)
    m.dst32 d (BitVec.ofNat 32 ((mxPack e (src32 p.g l a).toNat % 256).toNat + 256 * e))) s

/-- R251: `narrow.mxunpk`. -/
def execNarrowMxunpk (d : BitVec 7) (a : BitVec 7) (b : BitVec 7) (x : LExt) (s : State) : Out :=
  lane2 (.narrowMxunpk d a b x) x d a b (fun u v =>
    BitVec.ofNat 32 (f32.round rne false false (mxVal (v.toNat % 256) u.toNat))) s

/-- R252: `narrow.upke4`. -/
def execNarrowUpke4 (d : BitVec 7) (a : BitVec 7) (x : LExt) (s : State) : Out :=
  unpack4 (.narrowUpke4 d a x) x e4m3 d a s

/-- R252: `narrow.upke5`. -/
def execNarrowUpke5 (d : BitVec 7) (a : BitVec 7) (x : LExt) (s : State) : Out :=
  unpack4 (.narrowUpke5 d a x) x e5m2 d a s

/-! ### f64 -/

/-- R244: `f64.add`. -/
def execF64Add (d : BitVec 7) (a : BitVec 7) (b : BitVec 7) (x : LExt) (s : State) : Out :=
  double2 (.f64Add d a b x) x d a b (fun rm u v _ => addCodes f64 false false rm u v) s

/-- R244: `f64.sub`. -/
def execF64Sub (d : BitVec 7) (a : BitVec 7) (b : BitVec 7) (x : LExt) (s : State) : Out :=
  double2 (.f64Sub d a b x) x d a b (fun rm u v _ => addCodes f64 false true rm u v) s

/-- R244: `f64.mul`. -/
def execF64Mul (d : BitVec 7) (a : BitVec 7) (b : BitVec 7) (x : LExt) (s : State) : Out :=
  double2 (.f64Mul d a b x) x d a b (fun rm u v _ => mulCodes f64 false rm u v) s

/-- R244: `f64.fma`. -/
def execF64Fma (d : BitVec 7) (a : BitVec 7) (b : BitVec 7) (x : LExt) (s : State) : Out :=
  double2 (.f64Fma d a b x) x d a b (fmaCodes f64 false false false) s

/-- R244: `f64.min`. -/
def execF64Min (d : BitVec 7) (a : BitVec 7) (b : BitVec 7) (x : LExt) (s : State) : Out :=
  double2 (.f64Min d a b x) x d a b (fun _ u v _ => f64.minmax false false u v) s

/-- R244: `f64.max`. -/
def execF64Max (d : BitVec 7) (a : BitVec 7) (b : BitVec 7) (x : LExt) (s : State) : Out :=
  double2 (.f64Max d a b x) x d a b (fun _ u v _ => f64.minmax false true u v) s

/-- R244: `f64.abs`. -/
def execF64Abs (d : BitVec 7) (a : BitVec 7) (x : LExt) (s : State) : Out :=
  laneMap (.f64Abs d a x) x (fun p _ l m => m.dst64 d (src64 p.g l a &&& 0x7FFFFFFFFFFFFFFF#64)) s

/-- R244: `f64.neg`. -/
def execF64Neg (d : BitVec 7) (a : BitVec 7) (x : LExt) (s : State) : Out :=
  laneMap (.f64Neg d a x) x (fun p _ l m => m.dst64 d (src64 p.g l a ^^^ 0x8000000000000000#64)) s

end Sys2Proof.Machine
end

