-- ==== Sys2Proof/Machine/Mem.lean ====
section
/-! DEFINITION. Meanings of the lane and uniform memory instructions, atomics and prefetch (chapter 12, R253 to R266). -/

namespace Sys2Proof.Machine

open Sys2Proof

/-! ### Addresses -/

/-- R254: a global address: 64-bit base and scaled offset. -/
def lmGlobal (x : LExt) (g : Group) (l : Lane) (a : BitVec 7) (off : BitVec 6) (sc : Nat) : Target :=
  .global (src64 g l a + toD (immS x.imm off.toNat 6 * (sc : Int)))

/-- R254: a local address: 32-bit base and scaled offset, in the space that `hs` names. -/
def lmLocal (x : LExt) (g : Group) (l : Lane) (a : BitVec 7) (off : BitVec 6) (sc : Nat) (hs : BitVec 2) : Target :=
  .loc hs.toNat (src32 g l a + toW (immS x.imm off.toNat 6 * (sc : Int))).toNat

/-- R178, R261: the address of an atomic: in the space that the MEM word names, or global. -/
def atomTarget (x : LExt) (g : Group) (l : Lane) (a : BitVec 7) : Target :=
  match x.mem with
  | some m => if m.local' then .loc m.space.toNat (src32 g l a).toNat else .global (src64 g l a)
  | none => .global (src64 g l a)

/-- Table 12-2: the bytes of an access, which are its scale as well. -/
def sizeBytes (size : BitVec 3) : Nat :=
  match size.toNat with
  | 0 | 5 => 1
  | 1 | 6 => 2
  | 2 => 4
  | 3 => 8
  | _ => 16

/-- Table 12-2: a loaded value as the register gets it. -/
def loadValue (size : BitVec 3) (v : Nat) : Nat :=
  match size.toNat with
  | 5 => (toW (sext v 8)).toNat
  | 6 => (toW (sext v 16)).toNat
  | _ => v

/-- Table 12-3: the bytes of a full/empty access. -/
def feBytes (size : BitVec 3) : Nat :=
  match size.toNat with
  | 2 | 5 => 4
  | 3 | 6 => 8
  | _ => 16

/-- The issuing group's lane, changed. -/
def setLane (s : State) (p : Path) (n : Nat) (f : Lane → Lane) : State := modLane s p.iss.blk p.iss.grp n f

/-! ### Shapes -/

/-- R271: a lane instruction's accesses are one entry of the loads. -/
def countLoad (x : LExt) (p : Path) (s : State) : State := countAccess s p false (lanesMask (p.exec x))

/-- R271: a lane instruction's accesses are one entry of the stores. -/
def countStore (x : LExt) (p : Path) (s : State) : State := countAccess s p true (lanesMask (p.exec x))

/-- R256: EFFECT of a load of one lane. -/
def loadLane (d : BitVec 7) (size : BitVec 3) (t : Group → Lane → Target) (p : Path) (n : Nat) (s : State) :
    State × Option NoAccess :=
  let k := sizeBytes size
  match checkAccess s p.b p.iss.grp n .read (t p.g (p.g.lane n)) k with
  | (s, .error e) => (s, some e)
  | (s, .ok pl) =>
    let r := loadAt (sealSources s p.iss.blk [(p.g.lane n).tid]) p.b n pl k
    (noteSys (setLane r.1 p n fun l => l.dstBits d (max 32 (8 * k)) (loadValue size r.2)) p false pl, none)

/-- R256: EFFECT of a store of one lane. -/
def storeLane (d : BitVec 7) (size : BitVec 3) (t : Group → Lane → Target) (p : Path) (n : Nat) (s : State) :
    State × Option NoAccess :=
  let k := sizeBytes size
  match checkAccess s p.b p.iss.grp n .write (t p.g (p.g.lane n)) k with
  | (s, .error e) => (s, some e)
  | (s, .ok pl) => (storeAt (sealSources s p.iss.blk [(p.g.lane n).tid]) p.b pl k (srcBits p.g (p.g.lane n) d (max 32 (8 * k))), none)

/-- R262: EFFECT of an atomic of one lane: `f` gives the new value from the old value and the lane, when it writes. -/
def atomLane (x : LExt) (d : BitVec 7) (a : BitVec 7) (w : Nat) (f : Group → Lane → Nat → Option Nat) (p : Path) (n : Nat)
    (s : State) : State × Option NoAccess :=
  match checkAccess s p.b p.iss.grp n .rmw (atomTarget x p.g (p.g.lane n) a) w with
  | (s, .error e) => (s, some e)
  | (s, .ok pl) =>
    let r := updateAt (sealSources s p.iss.blk [(p.g.lane n).tid]) p.b n pl w (f p.g (p.g.lane n))
    (noteSys (setLane r.1 p n fun l => l.dstBits d (8 * w) r.2) p false pl, none)

/-- R262: an atomic, counted as a load (R271). -/
def atom (i : Instr) (x : LExt) (d a : BitVec 7) (w : Nat) (f : Group → Lane → Nat → Option Nat) (s : State) : Out :=
  laneFold i x (atomLane x d a w f) (countLoad x) s

/-- Table 12-4: an atomic whose operand is one 32-bit register. -/
def atom32 (i : Instr) (x : LExt) (d a b : BitVec 7) (f : Word → Word → Word) (s : State) : Out :=
  atom i x d a 4 (fun g l m => some (f (BitVec.ofNat 32 m) (src32 g l b)).toNat) s

/-- Table 12-4: an atomic whose operand is a pair. -/
def atom64 (i : Instr) (x : LExt) (d a b : BitVec 7) (f : DWord → DWord → DWord) (s : State) : Out :=
  atom i x d a 8 (fun g l m => some (f (BitVec.ofNat 64 m) (src64 g l b)).toNat) s

/-- R263: EFFECT of a fixed-point atomic of one lane; with `fetch` the old value is written. -/
def atomfxLane (x : LExt) (fetch : Option (BitVec 7)) (a b : BitVec 7) (p : Path) (n : Nat) (s : State) :
    State × Option NoAccess :=
  match checkAccess s p.b p.iss.grp n .rmw (atomTarget x p.g (p.g.lane n) a) 16 with
  | (s, .error e) => (s, some e)
  | (s, .ok pl) =>
    let r := updateAt (sealSources s p.iss.blk [(p.g.lane n).tid]) p.b n pl 16 fun m => some ((m + (src128 (p.g.lane n) b).toNat) % 2 ^ 128)
    (match fetch with
      | some d => noteSys (setLane r.1 p n fun l => l.dstBits d 128 r.2) p false pl
      | none => noteSys r.1 p true pl, none)

/-! ### Full/empty operations -/

/-- R258, R399: one lane of a full/empty instruction begins its operation: it is held, and waits in the queue. -/
def feLane (i : Instr) (x : LExt) (k : Nat) (t : Group → Lane → Target) (op : Group → Lane → FeOp) (d : BitVec 7)
    (store : Bool) (p : Path) (acc : State × List (Nat × NoAccess)) (n : Nat) : State × List (Nat × NoAccess) :=
  let l := p.g.lane n
  if !guardHolds x l then (setLane acc.1 p n fun l => { l with hold := .feDone p.iss.next }, acc.2)
  else match laneCheck acc.1 p i x n with
    | some e => (acc.1, (n, .trap (match checkRange acc.1 p.b p.iss.grp n .rmw (t p.g l) k with
        | (_, .error (.trap u)) => e.lower u
        | _ => e)) :: acc.2)
    | none => match checkRange acc.1 p.b p.iss.grp n .rmw (t p.g l) k with
      | (s, .error e) => (s, (n, e) :: acc.2)
      | (s, .ok pl) => match pl with
        | .scr _ _ | .csh _ _ | .dsp _ =>
          let (sp, off) := match pl with
            | .scr b o => (FeSpace.scr b, o)
            | .csh c o => (FeSpace.csh c, o)
            | .dsp a => (FeSpace.dsp, a)
            | _ => (FeSpace.dsp, 0)
          let (sp', code) := match t p.g l with
            | .loc c o => (c, o)
            | .global _ => (0, 0)
          let w : FeWait :=
            { blk := p.iss.blk, grp := p.iss.grp, lane := n, space := sp, off := off, bytes := k, op := op p.g l, d := d,
              start := s.clk, addr := code, code := sp', entry := if store then p.g.stores.issued else p.g.loads.issued }
          (setLane { s with feq := s.feq ++ [w] } p n fun l => { l with hold := .fe p.iss.next }, acc.2)
        | _ => (s, (n, rangeTrap 0 0) :: acc.2)

/-- R258, R259: A FULL/EMPTY INSTRUCTION: its lanes begin to wait in ascending order, and those whose granules allow it are
done; the path goes on when all are. -/
def fullEmpty (i : Instr) (x : LExt) (k : Nat) (t : Group → Lane → Target) (op : Group → Lane → FeOp) (d : BitVec 7)
    (store : Bool) (s : State) : Out :=
  match pathOf s with
  | none => .fault .noIssuer
  | some p =>
    let r := p.lanes.foldl (feLane i x k t op d store p) (s, [])
    let did := (p.exec x).any fun n => !(r.2.any fun e => e.1 = n)
    let s := if did then countAccess r.1 p store (lanesMask (p.exec x)) else r.1
    let s := feRelease (feRetry s) p.iss.blk p.iss.grp p.iss.pc
    .next (endTurns p (s, r.2))

/-! ### Uniform accesses -/

/-- R265: the address of a uniform access. -/
def uniformTarget (x : UExt) (g : Group) (a : BitVec 6) (imm : BitVec 13) : Target :=
  .global (g.usrc a.toNat + toD (immS x.imm imm.toNat 13 * 8))

/-- R396, R415: what a lane register reads as for `umovl`, or the group's trap. -/
def umovlRead (s : State) (p : Path) (n a : Nat) : Except Trap DWord :=
  if 8 * p.g.budget ≤ a then .error { cause := 0x05, info := p.iss.word.setWidth 64 }
  else if p.lanes.contains n && isPoisoned s (.reg p.iss.blk p.iss.grp n a) then
    .error { cause := 0x3C, addr := BitVec.ofNat 64 (windowOff p.iss.grp n a) }
  else .ok (((p.g.lane n).reg a).setWidth 64)

/-- R266: a lane register copied to a uniform register; lanes outside the path read as 0. -/
def umovl (x : UExt) (d a : BitVec 6) (sel : Path → Nat) (s : State) : Out :=
  uniform x (fun p s =>
    match umovlRead s p (sel p) a.toNat with
    | .error t => .trap s t
    | .ok v => .done (pathGroup s p fun g => g.udst d.toNat (if p.lanes.contains (sel p) then v else 0))) s

/-! ### The instructions -/

/-- R256: `ld`. -/
def execLd (d : BitVec 7) (a : BitVec 7) (size : BitVec 3) (hs : BitVec 2) (off : BitVec 6) (x : LExt) (s : State) : Out :=
  laneFold (.ld d a size hs off x) x (loadLane d size fun g l => lmGlobal x g l a off (sizeBytes size)) (countLoad x) s

/-- R256: `st`. -/
def execSt (d : BitVec 7) (a : BitVec 7) (size : BitVec 3) (hs : BitVec 2) (off : BitVec 6) (x : LExt) (s : State) : Out :=
  laneFold (.st d a size hs off x) x (storeLane d size fun g l => lmGlobal x g l a off (sizeBytes size)) (countStore x) s

/-- R256: `ldl`. -/
def execLdl (d : BitVec 7) (a : BitVec 7) (size : BitVec 3) (hs : BitVec 2) (off : BitVec 6) (x : LExt) (s : State) : Out :=
  laneFold (.ldl d a size hs off x) x (loadLane d size fun g l => lmLocal x g l a off (sizeBytes size) hs) (countLoad x) s

/-- R256: `stl`. -/
def execStl (d : BitVec 7) (a : BitVec 7) (size : BitVec 3) (hs : BitVec 2) (off : BitVec 6) (x : LExt) (s : State) : Out :=
  laneFold (.stl d a size hs off x) x (storeLane d size fun g l => lmLocal x g l a off (sizeBytes size) hs) (countStore x) s

/-- R258: `ldfe`. -/
def execLdfe (d : BitVec 7) (a : BitVec 7) (size : BitVec 3) (hs : BitVec 2) (off : BitVec 6) (x : LExt) (s : State) : Out :=
  fullEmpty (.ldfe d a size hs off x) x (feBytes size) (fun g l => lmLocal x g l a off (feBytes size) hs)
    (fun _ _ => .load (5 ≤ size.toNat)) d false s

/-- R258: `stfe`. -/
def execStfe (d : BitVec 7) (a : BitVec 7) (size : BitVec 3) (hs : BitVec 2) (off : BitVec 6) (x : LExt) (s : State) : Out :=
  fullEmpty (.stfe d a size hs off x) x (feBytes size) (fun g l => lmLocal x g l a off (feBytes size) hs)
    (fun g l => .store (srcBits g l d (8 * feBytes size))) d true s

/-- R262: `atom.add`. -/
def execAtomAdd (d : BitVec 7) (a : BitVec 7) (b : BitVec 7) (x : LExt) (s : State) : Out :=
  atom32 (.atomAdd d a b x) x d a b (fun m y => m + y) s

/-- R262: `atom.and`. -/
def execAtomAnd (d : BitVec 7) (a : BitVec 7) (b : BitVec 7) (x : LExt) (s : State) : Out :=
  atom32 (.atomAnd d a b x) x d a b (fun m y => m &&& y) s

/-- R262: `atom.or`. -/
def execAtomOr (d : BitVec 7) (a : BitVec 7) (b : BitVec 7) (x : LExt) (s : State) : Out :=
  atom32 (.atomOr d a b x) x d a b (fun m y => m ||| y) s

/-- R262: `atom.xor`. -/
def execAtomXor (d : BitVec 7) (a : BitVec 7) (b : BitVec 7) (x : LExt) (s : State) : Out :=
  atom32 (.atomXor d a b x) x d a b (fun m y => m ^^^ y) s

/-- R262: `atom.xchg`. -/
def execAtomXchg (d : BitVec 7) (a : BitVec 7) (b : BitVec 7) (x : LExt) (s : State) : Out :=
  atom32 (.atomXchg d a b x) x d a b (fun _ y => y) s

/-- R262: `atom.mins`. -/
def execAtomMins (d : BitVec 7) (a : BitVec 7) (b : BitVec 7) (x : LExt) (s : State) : Out :=
  atom32 (.atomMins d a b x) x d a b (fun m y => if m.toInt ≤ y.toInt then m else y) s

/-- R262: `atom.maxs`. -/
def execAtomMaxs (d : BitVec 7) (a : BitVec 7) (b : BitVec 7) (x : LExt) (s : State) : Out :=
  atom32 (.atomMaxs d a b x) x d a b (fun m y => if y.toInt ≤ m.toInt then m else y) s

/-- R262: `atom.minn`. -/
def execAtomMinn (d : BitVec 7) (a : BitVec 7) (b : BitVec 7) (x : LExt) (s : State) : Out :=
  atom32 (.atomMinn d a b x) x d a b (fun m y => if m.toNat ≤ y.toNat then m else y) s

/-- R262: `atom.maxn`. -/
def execAtomMaxn (d : BitVec 7) (a : BitVec 7) (b : BitVec 7) (x : LExt) (s : State) : Out :=
  atom32 (.atomMaxn d a b x) x d a b (fun m y => if y.toNat ≤ m.toNat then m else y) s

/-- R262: `atom.addf`. -/
def execAtomAddf (d : BitVec 7) (a : BitVec 7) (b : BitVec 7) (x : LExt) (s : State) : Out :=
  atom32 (.atomAddf d a b x) x d a b (fun m y => BitVec.ofNat 32 (addF32 m.toNat y.toNat)) s

/-- R262: `atom.cas`. -/
def execAtomCas (d : BitVec 7) (a : BitVec 7) (b : BitVec 7) (x : LExt) (s : State) : Out :=
  atom (.atomCas d a b x) x d a 4 (fun g l m =>
    let y := (src64 g l b).toNat
    if m = y % 2 ^ 32 then some (y / 2 ^ 32) else none) s

/-- R262: `atom.add64`. -/
def execAtomAdd64 (d : BitVec 7) (a : BitVec 7) (b : BitVec 7) (x : LExt) (s : State) : Out :=
  atom64 (.atomAdd64 d a b x) x d a b (fun m y => m + y) s

/-- R262: `atom.xchg64`. -/
def execAtomXchg64 (d : BitVec 7) (a : BitVec 7) (b : BitVec 7) (x : LExt) (s : State) : Out :=
  atom64 (.atomXchg64 d a b x) x d a b (fun _ y => y) s

/-- R262: `atom.cas64`. -/
def execAtomCas64 (d : BitVec 7) (a : BitVec 7) (b : BitVec 7) (x : LExt) (s : State) : Out :=
  atom (.atomCas64 d a b x) x d a 8 (fun _ l m =>
    let y := (src128 l b).toNat
    if m = y % 2 ^ 64 then some (y / 2 ^ 64) else none) s

/-- R263: `atomfx.add`. -/
def execAtomfxAdd (a : BitVec 7) (b : BitVec 7) (x : LExt) (s : State) : Out :=
  laneFold (.atomfxAdd a b x) x (atomfxLane x none a b) (countStore x) s

/-- R263: `atomfx.fetch`. -/
def execAtomfxFetch (d : BitVec 7) (a : BitVec 7) (b : BitVec 7) (x : LExt) (s : State) : Out :=
  laneFold (.atomfxFetch d a b x) x (atomfxLane x (some d) a b) (countLoad x) s

/-- R264: `pref`. -/
def execPref (a : BitVec 7) (size : BitVec 3) (hs : BitVec 2) (off : BitVec 6) (x : LExt) (s : State) : Out :=
  laneMap (.pref a size hs off x) x (fun _ _ _ m => m) s

/-- R265: `uld`. It is listed (R271) when its access is made. DESIGN CHOICE, log 110. -/
def execUld (d : BitVec 6) (a : BitVec 6) (imm : BitVec 13) (x : UExt) (s : State) : Out :=
  uniform x (fun p s =>
    match checkAccess s p.b p.iss.grp p.lead .read (uniformTarget x p.g a imm) 8 with
    | (s, .error e) => e.uend p s
    | (s, .ok pl) =>
      let r := loadAt (sealSources s p.iss.blk (p.lanes.map fun i => (p.g.lane i).tid)) p.b p.lead pl 8
      .done (countAccess (noteSys (pathGroup r.1 p fun g => g.udst d.toNat (BitVec.ofNat 64 r.2)) p false pl) p false p.iss.lanes)) s

/-- R265: `ust`. It is listed (R271) when its access is made. DESIGN CHOICE, log 110. -/
def execUst (d : BitVec 6) (a : BitVec 6) (imm : BitVec 13) (x : UExt) (s : State) : Out :=
  uniform x (fun p s =>
    match checkAccess s p.b p.iss.grp p.lead .write (uniformTarget x p.g a imm) 8 with
    | (s, .error e) => e.uend p s
    | (s, .ok pl) =>
      let s := sealSources s p.iss.blk (p.lanes.map fun i => (p.g.lane i).tid)
      .done (countAccess (storeAt s p.b pl 8 (p.g.usrc d.toNat).toNat) p true p.iss.lanes)) s

/-- R266: `umovl.first`. -/
def execUmovlFirst (d : BitVec 6) (a : BitVec 6) (x : UExt) (s : State) : Out :=
  umovl x d a Path.lead s

/-- R266: `umovl.lane`. -/
def execUmovlLane (d : BitVec 6) (a : BitVec 6) (b : BitVec 6) (x : UExt) (s : State) : Out :=
  umovl x d a (fun p => (p.g.usrc b.toNat).toNat % 32) s

end Sys2Proof.Machine
end

