-- ==== Sys2Proof/Machine/Control.lean ====
section
/-! DEFINITION. Meanings of the control transfers, exits and guest instructions (chapter 10, R224 to R234). -/

namespace Sys2Proof.Machine

open Sys2Proof

/-! ### Control transfers -/

/-- R224: the target of a displacement from the base word. -/
def dispTarget (p : Path) (disp n : Nat) : DWord := p.iss.base + toD (4 * sext disp n)

/-- R389, R390: a direct target that is not the first word of an instruction of the running body. -/
def directTrap (s : State) (p : Path) (t : DWord) : Option Trap :=
  if targetOk s p.b (t - bodyStart s p.b).toNat then none
  else some { cause := 0x01, info := p.iss.word.setWidth 64 }

/-- R225, R227: the condition of a branch or call. -/
def branchTaken (l : Lane) (p : BitVec 5) (neg : BitVec 1) : Bool := xor (l.prd p) (neg = 1)

/-- R227, R401: one lane pushes the return address NEXT and goes to body offset `t`. -/
def pushLane (t : DWord) (p : Path) (n : Nat) (s : State) : State × Option NoAccess :=
  let l := p.g.lane n
  let size := p.b.privBytes
  if size / 4 < l.cd + 1 then
    (s, some (.trap { cause := 0x0D, addr := t, info := BitVec.ofNat 64 l.cd }))
  else
    let body := bodyStart s p.b
    let s := storeAt s p.b (.priv p.iss.blk p.iss.grp n (size - 4 * (l.cd + 1))) 4 ((p.iss.next - body).toNat % 2 ^ 32)
    (setLane s p n fun l => { l with cd := l.cd + 1, npc := body + t }, none)

/-- R229, R400, R401: one lane returns. -/
def popLane (p : Path) (n : Nat) (s : State) : State × Option NoAccess :=
  let l := p.g.lane n
  if l.cd = 0 then (s, some (.trap { cause := 0x0D }))
  else
    let off := p.b.privBytes - 4 * l.cd
    let pl := Place.priv p.iss.blk p.iss.grp n off
    if placePoisoned s pl 4 then (s, some (.trap { cause := 0x3C, addr := BitVec.ofNat 64 off }))
    else
      let t := leNat (readPlace s p.b.core 0 pl 4)
      if targetOk s p.b t then
        (setLane s p n fun l => { l with cd := l.cd - 1, npc := bodyStart s p.b + BitVec.ofNat 64 t }, none)
      else (s, some (.trap (targetTrap s p.b (BitVec.ofNat 32 t))))

/-! ### Exit -/

/-- R230, R380, R381: the executing lanes of a `ctl.exit` end; a child with views and a family with wrong indices hold the
exit back. -/
def exitPath (x : LExt) (p : Path) (s : State) : State :=
  let e := p.exec x
  let rest := p.lanes.filter fun n => !e.contains n
  let s := pathGroup s p fun g => g.modLanes rest fun _ l => l.advance p.iss.next
  if !p.b.views.isEmpty then raiseLanes s p (e.map fun n => (n, { cause := 0x21, info := 0xFF }))
  else if (p.g.live.all e.contains) && familyBroken s p.g then
    trapGroup (dropFamily s p.iss.blk p.iss.grp) p.iss.blk p.iss.grp p.lead { cause := 0x20, info := 6 }
  else if e.isEmpty then s
  else exitLanes s p.iss.blk p.iss.grp e

/-! ### Guest dispatch -/

/-- R48: a path dispatches. -/
def dispatchPath (i : Instr) (x : LExt) (s : State) : Out :=
  laneFold i x guestDispatchLane (fun _ s => s) s

/-- R50, R353, R359, R372: a lane waits before it enters the pool. It has read nothing and keeps ONCE; a step of it goes on. -/
def poolWait (p : Path) (n : Nat) (why : Retry) (s : State) : State :=
  modGroup s p.iss.blk p.iss.grp fun g =>
    { g.modLane n fun l => { l with hold := .retry why } with
      stepLanes := if g.stepMode = 0 then g.stepLanes else g.stepLanes ||| lanesMask [n] }

/-- R50, R358: one lane enters the regroup pool, once what its thread has loaded is there, or traps at its fetch. -/
def poolLane (p : Path) (acc : State × List (Nat × NoAccess)) (n : Nat) : State × List (Nat × NoAccess) :=
  if p.g.loads.openOf n ≠ 0 then (poolWait p n .waitc acc.1, acc.2)
  else match guestFetch acc.1 p n with
    | (s, none) => (setLane s p n fun l => { l with hold := .pool, once := false, seen := none }, acc.2)
    | (s, some .wait) => (poolWait p n .link s, acc.2)
    | (s, some e) => (setLane s p n fun l => { l with once := false }, (n, e) :: acc.2)

/-- R50: the first entry of a round latches its mode. -/
def openRound (s : State) (p : Path) : State :=
  pathBlock s p fun b => { b with round := some (b.round.getD { mode := p.g.grgMode, start := s.clk }) }

/-- R50, R51: the lanes of a path enter their block's regroup pool, and the round closes when every group has arrived. -/
def poolPath (s : State) : Out :=
  match pathOf s with
  | none => .fault .noIssuer
  | some p =>
    let r := p.lanes.foldl (poolLane p) (s, [])
    let entered := p.lanes.any fun n => ((groupOf r.1 p.iss.blk p.iss.grp).map fun g => (g.lane n).hold) = some .pool
    let s := if entered then openRound r.1 p else r.1
    .next (checkRound (endTurns p (s, r.2)) p.iss.blk)

/-- The group's GRG_MODE is 0. -/
def regroupOff (s : State) : Bool := ((pathOf s).map fun p => decide (p.g.grgMode = 0)).getD true

/-! ### The instructions -/

/-- R225: `br`. -/
def execBr (p : BitVec 5) (neg : BitVec 1) (disp : BitVec 19) (x : LExt) (s : State) : Out :=
  laneTrap (.br p neg disp x) x (fun q _ l m =>
    let t := dispTarget q disp.toNat 19
    match directTrap s q t with
    | some e => (l, some e)
    | none => (if branchTaken l p neg then { m with npc := t } else m, none)) s

/-- R228: `brx.jmp`. -/
def execBrxJmp (a : BitVec 7) (x : LExt) (s : State) : Out :=
  laneTrap (.brxJmp a x) x (fun q _ l m =>
    let t := src32 q.g l a
    if targetOk s q.b t.toNat then ({ m with npc := bodyStart s q.b + t.setWidth 64 }, none)
    else (l, some (targetTrap s q.b t))) s

/-- R228: `brx.call`. -/
def execBrxCall (a : BitVec 7) (x : LExt) (s : State) : Out :=
  laneFold (.brxCall a x) x (fun q n s =>
    let t := src32 q.g (q.g.lane n) a
    if targetOk s q.b t.toNat then pushLane (t.setWidth 64) q n s else (s, some (.trap (targetTrap s q.b t)))) (fun _ s => s) s

/-- R227: `call`. -/
def execCall (p : BitVec 5) (neg : BitVec 1) (disp : BitVec 19) (x : LExt) (s : State) : Out :=
  laneFold (.call p neg disp x) x (fun q n s =>
    let t := dispTarget q disp.toNat 19
    match directTrap s q t with
    | some e => (s, some (.trap e))
    | none => if branchTaken (q.g.lane n) p neg then pushLane (t - bodyStart s q.b) q n s else (s, none)) (fun _ s => s) s

/-- R229: `ctl.ret`. -/
def execCtlRet (x : LExt) (s : State) : Out :=
  laneFold (.ctlRet x) x popLane (fun _ s => s) s

/-- R230: `ctl.exit`. -/
def execCtlExit (x : LExt) (s : State) : Out :=
  match pathOf s with
  | none => .fault .noIssuer
  | some p => .next (exitPath x p s)

/-- R231: `ctl.yield`. -/
def execCtlYield (x : LExt) (s : State) : Out :=
  match pathOf s, laneMap (.ctlYield x) x (fun _ _ _ m => m) s with
  | some p, .next t => .next (noteYield t p)
  | _, o => o

/-- R48: `guest.dispatch`. -/
def execGuestDispatch (x : LExt) (s : State) : Out :=
  dispatchPath (.guestDispatch x) x s

/-- R50: `guest.dispatch.rg`. -/
def execGuestDispatchRg (x : LExt) (s : State) : Out :=
  if regroupOff s then dispatchPath (.guestDispatchRg x) x s else poolPath s

/-- R232: `guest.rdpc`. -/
def execGuestRdpc (d : BitVec 7) (x : LExt) (s : State) : Out :=
  laneMap (.guestRdpc d x) x (fun _ _ l m => m.dst64 d l.gpc) s

/-- R232: `guest.wrpc`. -/
def execGuestWrpc (a : BitVec 7) (x : LExt) (s : State) : Out :=
  laneMap (.guestWrpc a x) x (fun p _ l m => { m with gpc := src64 p.g l a }) s

/-- R232: `guest.addpc`. -/
def execGuestAddpc (a : BitVec 7) (x : LExt) (s : State) : Out :=
  laneMap (.guestAddpc a x) x (fun p _ l m => { m with gpc := l.gpc + (src32 p.g l a).signExtend 64 }) s

/-- R232: `guest.rdop`. -/
def execGuestRdop (d : BitVec 7) (x : LExt) (s : State) : Out :=
  laneMap (.guestRdop d x) x (fun _ _ l m => m.dst32 d (l.gop.setWidth 32)) s

/-- R232: `guest.wrop`. -/
def execGuestWrop (a : BitVec 7) (x : LExt) (s : State) : Out :=
  laneMap (.guestWrop a x) x (fun p _ l m => { m with gop := (src32 p.g l a).setWidth 8 }) s

end Sys2Proof.Machine
end

