-- ==== Sys2Proof/Machine/Uniform.lean ====
section
/-! DEFINITION. Meanings of the uniform arithmetic, compares and branch, and of the `usys` functions but for the return from a handler (chapter 13, R295 to R298). -/

namespace Sys2Proof.Machine

open Sys2Proof

/-- R295: a uniform register computed from two. -/
def uni2 (x : UExt) (d a b : BitVec 6) (f : DWord → DWord → DWord) (s : State) : Out :=
  uniform x (fun p s => .done (pathGroup s p fun g => g.udst d.toNat (f (g.usrc a.toNat) (g.usrc b.toNat)))) s

/-- R296: a 64-bit compare into a uniform predicate. -/
def ucompare (x : UExt) (r : Rel) (q : BitVec 3) (a b : BitVec 6) (s : State) : Out :=
  uniform x (fun p s => .done (pathGroup s p fun g => g.qwr q.toNat (r.holds (g.usrc a.toNat) (g.usrc b.toNat)))) s

/-- R296: an operation on uniform predicates. -/
def upred (x : UExt) (f : Bool → Bool → Bool) (q a b : BitVec 3) (s : State) : Out :=
  uniform x (fun p s => .done (pathGroup s p fun g => g.qwr q.toNat (f (g.qrd a.toNat) (g.qrd b.toNat)))) s

/-- Table 19-1: a trap whose TRAP_INFO is the base word. -/
def wordTrap (p : Path) (cause : Nat) : Trap := { cause := cause, info := p.iss.word.setWidth 64 }

/-- R397: an instruction that runs at level 1 only. -/
def privileged (f : Path → State → UEnd) (p : Path) (s : State) : UEnd :=
  if p.b.level1 then f p s else .trap s (wordTrap p 0x03)

/-- R109: the translations of a translation context whose pages overlap a run of 64 KiB units are dropped. -/
def tlbRange (s : State) (p : Path) (trc va units : Nat) : State :=
  dropTlb (landRange s p.b.part p.b.ctx trc va (va + units * 65536)) p.b.part p.b.ctx fun e =>
    e.trc = trc && e.va < va + units * 65536 && va < e.va + e.size

/-! ### The instructions -/

/-- R298: `usys.nop`. -/
def execUsysNop (x : UExt) (s : State) : Out :=
  uniform x (fun _ s => .done s) s

/-- R298, R310: `usys.svc`. -/
def execUsysSvc (a : BitVec 6) (x : UExt) (s : State) : Out :=
  uniform x (fun p s =>
    let v := p.g.usrc a.toNat
    if !p.b.level1 then .trapNext s { cause := 0x04, info := v }
    else if v.toNat % 64 ≠ 0 then .trap s { cause := 0x08, addr := v, info := 64 }
    else .stay (modPart (pathHold s p (.svc p.iss.next v)) p.b.part fun q => { q with reqs := q.reqs ++ [{ host := false, ctx := p.b.ctx, va := v }] })) s

/-- R298: `usys.tlbiva`. -/
def execUsysTlbiva (a : BitVec 6) (b : BitVec 6) (x : UExt) (s : State) : Out :=
  uniform x (privileged fun p s =>
    let va := p.g.usrc a.toNat
    let c := (p.g.usrc b.toNat).toNat
    if !canonical va then .trap s { cause := 0x09, addr := va, info := 0xF }
    else if va.toNat % 65536 ≠ 0 || bits c 4 12 ≠ 0 then .trap s { cause := 0x08, addr := va, info := 65536 }
    else .done (tlbRange s p (bits c 0 4) (va.toNat % 2 ^ 57) (bits c 16 48))) s

/-- R298: `usys.tlbictx`. -/
def execUsysTlbictx (a : BitVec 6) (x : UExt) (s : State) : Out :=
  uniform x (privileged fun p s =>
    let v := (p.g.usrc a.toNat).toNat
    if 16 ≤ v then .trap s (wordTrap p 0x02) else .done (dropTlb (landRange s p.b.part p.b.ctx v 0 (2 ^ 57)) p.b.part p.b.ctx fun e => e.trc = v)) s

/-- R298: `usys.brk`. -/
def execUsysBrk (x : UExt) (s : State) : Out :=
  uniform x (fun _ s => .trapNext s { cause := 0x12 }) s

/-- R295: `ualu.add`. -/
def execUaluAdd (d : BitVec 6) (a : BitVec 6) (b : BitVec 6) (x : UExt) (s : State) : Out :=
  uni2 x d a b (fun u v => u + v) s

/-- R295: `ualu.sub`. -/
def execUaluSub (d : BitVec 6) (a : BitVec 6) (b : BitVec 6) (x : UExt) (s : State) : Out :=
  uni2 x d a b (fun u v => u - v) s

/-- R295: `ualu.and`. -/
def execUaluAnd (d : BitVec 6) (a : BitVec 6) (b : BitVec 6) (x : UExt) (s : State) : Out :=
  uni2 x d a b (fun u v => u &&& v) s

/-- R295: `ualu.or`. -/
def execUaluOr (d : BitVec 6) (a : BitVec 6) (b : BitVec 6) (x : UExt) (s : State) : Out :=
  uni2 x d a b (fun u v => u ||| v) s

/-- R295: `ualu.xor`. -/
def execUaluXor (d : BitVec 6) (a : BitVec 6) (b : BitVec 6) (x : UExt) (s : State) : Out :=
  uni2 x d a b (fun u v => u ^^^ v) s

/-- R295: `ualu.shl`. -/
def execUaluShl (d : BitVec 6) (a : BitVec 6) (b : BitVec 6) (x : UExt) (s : State) : Out :=
  uni2 x d a b (fun u v => if 64 ≤ v.toNat then 0 else u <<< v.toNat) s

/-- R295: `ualu.shr`. -/
def execUaluShr (d : BitVec 6) (a : BitVec 6) (b : BitVec 6) (x : UExt) (s : State) : Out :=
  uni2 x d a b (fun u v => if 64 ≤ v.toNat then 0 else u >>> v.toNat) s

/-- R295: `ualu.sar`. -/
def execUaluSar (d : BitVec 6) (a : BitVec 6) (b : BitVec 6) (x : UExt) (s : State) : Out :=
  uni2 x d a b (fun u v => u.sshiftRight (min v.toNat 63)) s

/-- R295: `ualu.mul`. -/
def execUaluMul (d : BitVec 6) (a : BitVec 6) (b : BitVec 6) (x : UExt) (s : State) : Out :=
  uni2 x d a b (fun u v => u * v) s

/-- R295: `ualu.mins`. -/
def execUaluMins (d : BitVec 6) (a : BitVec 6) (b : BitVec 6) (x : UExt) (s : State) : Out :=
  uni2 x d a b (fun u v => if u.toInt ≤ v.toInt then u else v) s

/-- R295: `ualu.maxs`. -/
def execUaluMaxs (d : BitVec 6) (a : BitVec 6) (b : BitVec 6) (x : UExt) (s : State) : Out :=
  uni2 x d a b (fun u v => if v.toInt ≤ u.toInt then u else v) s

/-- R295: `ualu.minn`. -/
def execUaluMinn (d : BitVec 6) (a : BitVec 6) (b : BitVec 6) (x : UExt) (s : State) : Out :=
  uni2 x d a b (fun u v => if u.toNat ≤ v.toNat then u else v) s

/-- R295: `ualu.maxn`. -/
def execUaluMaxn (d : BitVec 6) (a : BitVec 6) (b : BitVec 6) (x : UExt) (s : State) : Out :=
  uni2 x d a b (fun u v => if v.toNat ≤ u.toNat then u else v) s

/-- R295: `uaddi`. -/
def execUaddi (d : BitVec 6) (a : BitVec 6) (imm : BitVec 13) (x : UExt) (s : State) : Out :=
  uniform x (fun p s => .done (pathGroup s p fun g => g.udst d.toNat (g.usrc a.toNat + toD (immS x.imm imm.toNat 13)))) s

/-- R295: `umovi`. -/
def execUmovi (d : BitVec 6) (imm : BitVec 19) (x : UExt) (s : State) : Out :=
  uniform x (fun p s => .done (pathGroup s p fun g => g.udst d.toNat (toD (immS x.imm imm.toNat 19)))) s

/-- R295: `umovhi`. -/
def execUmovhi (d : BitVec 6) (imm : BitVec 19) (x : UExt) (s : State) : Out :=
  uniform x (fun p s => .done (pathGroup s p fun g =>
    g.udst d.toNat (BitVec.ofNat 32 (immU x.imm imm.toNat 19) ++ (g.usrc d.toNat).setWidth 32))) s

/-- R296: `ucmp.eq`. -/
def execUcmpEq (q : BitVec 3) (a : BitVec 6) (b : BitVec 6) (x : UExt) (s : State) : Out :=
  ucompare x .eq q a b s

/-- R296: `ucmp.ne`. -/
def execUcmpNe (q : BitVec 3) (a : BitVec 6) (b : BitVec 6) (x : UExt) (s : State) : Out :=
  ucompare x .ne q a b s

/-- R296: `ucmp.lts`. -/
def execUcmpLts (q : BitVec 3) (a : BitVec 6) (b : BitVec 6) (x : UExt) (s : State) : Out :=
  ucompare x .lts q a b s

/-- R296: `ucmp.les`. -/
def execUcmpLes (q : BitVec 3) (a : BitVec 6) (b : BitVec 6) (x : UExt) (s : State) : Out :=
  ucompare x .les q a b s

/-- R296: `ucmp.gts`. -/
def execUcmpGts (q : BitVec 3) (a : BitVec 6) (b : BitVec 6) (x : UExt) (s : State) : Out :=
  ucompare x .gts q a b s

/-- R296: `ucmp.ges`. -/
def execUcmpGes (q : BitVec 3) (a : BitVec 6) (b : BitVec 6) (x : UExt) (s : State) : Out :=
  ucompare x .ges q a b s

/-- R296: `ucmp.ltn`. -/
def execUcmpLtn (q : BitVec 3) (a : BitVec 6) (b : BitVec 6) (x : UExt) (s : State) : Out :=
  ucompare x .ltn q a b s

/-- R296: `ucmp.len`. -/
def execUcmpLen (q : BitVec 3) (a : BitVec 6) (b : BitVec 6) (x : UExt) (s : State) : Out :=
  ucompare x .len q a b s

/-- R296: `ucmp.gtn`. -/
def execUcmpGtn (q : BitVec 3) (a : BitVec 6) (b : BitVec 6) (x : UExt) (s : State) : Out :=
  ucompare x .gtn q a b s

/-- R296: `ucmp.gen`. -/
def execUcmpGen (q : BitVec 3) (a : BitVec 6) (b : BitVec 6) (x : UExt) (s : State) : Out :=
  ucompare x .gen q a b s

/-- R296: `ucmp.qand`. -/
def execUcmpQand (q : BitVec 3) (a : BitVec 3) (b : BitVec 3) (x : UExt) (s : State) : Out :=
  upred x (fun u v => u && v) q a b s

/-- R296: `ucmp.qor`. -/
def execUcmpQor (q : BitVec 3) (a : BitVec 3) (b : BitVec 3) (x : UExt) (s : State) : Out :=
  upred x (fun u v => u || v) q a b s

/-- R296: `ucmp.qxor`. -/
def execUcmpQxor (q : BitVec 3) (a : BitVec 3) (b : BitVec 3) (x : UExt) (s : State) : Out :=
  upred x (fun u v => xor u v) q a b s

/-- R297: `ubr`. -/
def execUbr (q : BitVec 3) (neg : BitVec 1) (disp : BitVec 21) (x : UExt) (s : State) : Out :=
  uniform x (fun p s =>
    let t := dispTarget p disp.toNat 21
    match directTrap s p t with
    | some e => .trap s e
    | none => if xor (p.g.qrd q.toNat) (neg = 1) then .goto s t else .done s) s

end Sys2Proof.Machine
end

