-- ==== Sys2Proof/Machine/Barrier.lean ====
section
/-! DEFINITION. Meanings of the barrier instructions, `waitc` and the system-scope fences (R45, R133, R141 to R144, R267 to R272, R355, R385). -/

namespace Sys2Proof.Machine

open Sys2Proof

/-! ### Barriers -/

/-- R355, R385: TRAP_INFO of a count mismatch. -/
def barInfo (level : BitVec 2) (slot : BitVec 4) (kind offered : Nat) : DWord :=
  BitVec.ofNat 64 (level.toNat * 16 + slot.toNat + kind * 256 + offered % 2 ^ 32 * 65536)

/-- R355, R385: BAR_COUNT_MISMATCH. -/
def barTrap (level : BitVec 2) (slot : BitVec 4) (kind offered latch : Nat) : Trap :=
  { cause := 0x18, addr := BitVec.ofNat 64 latch, info := barInfo level slot kind offered }

/-- R69, R355: what an arrival with a count, or with the member count, is turned away with. -/
def arriveTrap (s : State) (k : SlotKey) (level : BitVec 2) (slot : BitVec 4) (count : Option Nat) : Option Trap :=
  match (slotOf s k).bind BarSlot.latch, count with
  | some m, some n => if n = m then none else some (barTrap level slot 0 n m)
  | none, some n => if n = 0 || members s k < n || 2 ^ 31 ≤ n then some (barTrap level slot 1 n 0) else none
  | none, none => if 2 ^ 31 ≤ members s k then some (barTrap level slot 1 (members s k) 0) else none
  | some _, none => none

/-- A slot's parity bit. -/
def parityOf (s : State) (k : SlotKey) : Bool := ((slotOf s k).map BarSlot.parity).getD false

/-- R270: every earlier access of the path's lanes is complete. -/
def Path.quiet (p : Path) : Bool := p.lanes.all fun i => p.g.loads.openOf i = 0 && p.g.stores.openOf i = 0

/-- R45, R268, R270: the arrivals of levels 1 to 3 are held for reconvergence; an arrival waits until the earlier accesses of its lanes are
complete. -/
def arrival (x : UExt) (level : BitVec 2) (f : Path → State → UEnd) (s : State) : Out :=
  let go := fun (p : Path) (s : State) => if p.quiet then f p s else .stay (pathHold s p (.retry .waitc))
  if level = 0 then uniform x go s else uniformConv x go s

/-- R267: an arrival that returns the parity. -/
def arriveAt (x : UExt) (desc : BitVec 6) (slot : BitVec 4) (level : BitVec 2) (count : Path → Option Nat) (s : State) : Out :=
  arrival x level (fun p s =>
    let k := slotKey p level slot
    match arriveTrap s k level slot (count p) with
    | some t => .trap s t
    | none =>
      let par := parityOf s k
      let s := pathGroup s p fun g => g.udst desc.toNat (if par then 1 else 0)
      .done (arriveSlot s k ((count p).getD (members s k)))) s

/-- R144: a path waits for the phase whose parity it names. -/
def waitAt (p : Path) (s : State) (k : SlotKey) (sync parity : Bool) : UEnd :=
  if parityOf s k ≠ parity then .done s else .stay (pathHold s p (.slot k p.iss.next sync parity))

/-! ### Counted completion -/

/-- R271: every operation of a list but the `n` issued last is complete. -/
def CountList.done (c : CountList) (n : Nat) : Bool := c.pend.all fun k => c.issued ≤ k + n

/-- R133, R271: the commands of a list that a `waitc` requires. -/
def CountList.required (c : CountList) (n : Nat) : List Nat := (c.cmds.filter fun q => q.1 + n < c.issued).map Prod.snd

/-- The list without the commands that a `waitc` has published. -/
def CountList.forget (c : CountList) (n : Nat) : CountList := { c with cmds := c.cmds.filter fun q => c.issued ≤ q.1 + n }

/-! ### Fences -/

/-- R141: a store of the partition's threads to system-class memory is not merged or acknowledged yet. -/
def unreleased (s : State) (part : Nat) : Bool :=
  let d := (partOf s part).desc
  (s.sysq.any fun e => poolOwned d (2 ^ 44 + e.addr)) || s.posted.any fun e => hostOwned d (2 * 2 ^ 44 + e.1)

/-- Table 6-2: an earlier load or atomic of the path's lanes to system-class memory is not complete. -/
def Path.sysOpen (p : Path) : Bool := p.lanes.any fun i => p.g.loads.sysOf i || p.g.stores.sysOf i

/-- R141, R272: an acquire fence holds its path until the earlier loads and atomics of its lanes to system-class memory are complete, and
then drops the leases of its core. -/
def fenceAcq (p : Path) (s : State) : UEnd :=
  if p.sysOpen then .stay (pathHold s p (.retry .waitc)) else .done (dropLeases s p.b.core)

/-- R141, R272: a release fence holds its path until its stores are visible, and then does `f`. A held fence is executed again at each
wake and stands where it then is: it waits for every store of the partition that is queued or posted by then. DESIGN CHOICE, log 117. -/
def fenceRel (x : UExt) (f : Path → State → UEnd) (s : State) : Out :=
  uniform x (fun p s => if unreleased s p.b.part then .stay (pathHold s p (.retry .fence)) else f p s) s

/-! ### The instructions -/

/-- R267: `bar.arrive`. -/
def execBarArrive (desc : BitVec 6) (slot : BitVec 4) (level : BitVec 2) (x : UExt) (s : State) : Out :=
  arriveAt x desc slot level (fun _ => none) s

/-- R267: `bar.arrive.cnt`. -/
def execBarArriveCnt (desc : BitVec 6) (addr : BitVec 6) (slot : BitVec 4) (level : BitVec 2) (x : UExt) (s : State) : Out :=
  arriveAt x desc slot level (fun p => some ((p.g.usrc addr.toNat).toNat % 2 ^ 32)) s

/-- R267: `bar.wait`. -/
def execBarWait (desc : BitVec 6) (slot : BitVec 4) (level : BitVec 2) (x : UExt) (s : State) : Out :=
  uniform x (fun p s => waitAt p s (slotKey p level slot) false ((p.g.usrc desc.toNat).getLsbD 0)) s

/-- R267: `bar.expect`. -/
def execBarExpect (desc : BitVec 6) (slot : BitVec 4) (level : BitVec 2) (x : UExt) (s : State) : Out :=
  uniform x (fun p s =>
    let k := slotKey p level slot
    let n := (p.g.usrc desc.toNat).toNat % 2 ^ 32
    match slotOf s k with
    | some b =>
      if 2 ^ 32 ≤ b.expected + n then .trap s (barTrap level slot 0xFF n (b.latch.getD 0)) else .done (expectSlot s k n)
    | none => .done s) s

/-- R267: `bar.sync`. -/
def execBarSync (slot : BitVec 4) (level : BitVec 2) (x : UExt) (s : State) : Out :=
  arrival x level (fun p s =>
    let k := slotKey p level slot
    match arriveTrap s k level slot none with
    | some t => .trap s t
    | none => waitAt p (arriveSlot s k (members s k)) k true (parityOf s k)) s

/-- R271: `waitc`. -/
def execWaitc (nl : BitVec 4) (ns : BitVec 4) (nc : BitVec 4) (nt : BitVec 4) (x : UExt) (s : State) : Out :=
  uniform x (fun p s =>
    let g := p.g
    if g.loads.done nl.toNat && g.stores.done ns.toNat && g.copies.done nc.toNat && g.tiles.done nt.toNat then
      let s := (g.copies.required nc.toNat ++ g.tiles.required nt.toNat).foldl publish s
      .done (pathGroup s p fun g => { g with copies := g.copies.forget nc.toNat, tiles := g.tiles.forget nt.toNat })
    else .stay (pathHold s p (.retry .waitc))) s

/-- R141: `fence.sys.rel`. -/
def execFenceSysRel (x : UExt) (s : State) : Out :=
  fenceRel x (fun _ s => .done s) s

/-- R141: `fence.sys.acq`. -/
def execFenceSysAcq (x : UExt) (s : State) : Out :=
  uniform x fenceAcq s

/-- R141: `fence.sys.full`. -/
def execFenceSysFull (x : UExt) (s : State) : Out :=
  fenceRel x fenceAcq s

end Sys2Proof.Machine
end

