-- ==== Sys2Proof/Machine/Matrix.lean ====
section
/-! DEFINITION. Meanings of the matrix and gang instructions (R95, R96, R275 to R281, R356). -/

namespace Sys2Proof.Machine

open Sys2Proof

/-! ### Leases -/

/-- Table 4-6: LEASE_CAP of a context. -/
def leaseCapOf (s : State) (b : Block) : Nat := (ctxOf s b.part b.ctx).leaseCap.toNat

/-- R95, R281: a block that holds no lease and has no request queued makes one; the group is the one it names. -/
def requestLease (s : State) (blk core grp : Nat) : State :=
  let c := coreOf s core
  if c.holder = some blk || c.leaseQueue.contains blk then s
  else
    modCore (modBlock s blk fun b => { b with lease := { b.lease with asker := grp, asked := s.tick } }) core fun c =>
      { c with leaseQueue := c.leaseQueue ++ [blk] }

/-- R96: the holder's lease is to pass: its OPS has reached LEASE_CAP and another block waits. -/
def passDue (s : State) (b : Block) : Bool := leaseCapOf s b ≤ b.lease.ops && !(coreOf s b.core).leaseQueue.isEmpty

/-- R277: GANG includes both BATON and the group. -/
def jointFor (b : Block) (grp : Nat) : Bool := b.lease.gang.getLsbD b.lease.baton && b.lease.gang.getLsbD grp

/-- R95, R277: the engine takes matrix instructions of this group. -/
def engineServes (s : State) (b : Block) (grp : Nat) : Bool :=
  (coreOf s b.core).holder = some b.id && !passDue s b && (grp = b.lease.baton || jointFor b grp)

/-- R362: the engine accepts only while at most one accepted instruction waits behind the executing one. -/
def engineRoom (s : State) (core : Nat) : Bool := (coreOf s core).ops.length ≤ 2

/-- R277, R280: a path whose group the engine does not serve now asks for the lease and waits. -/
def waitLease (s : State) (p : Path) : State :=
  pathHold (requestLease s p.iss.blk p.b.core p.iss.grp) p (.retry .lease)

/-- R96: a block gives up its core's engine: its accumulators are spilled to its save area, with their poison. -/
def spillLease (s : State) (blk core : Nat) (released : Bool) : State :=
  let acc := (coreOf s core).acc
  let s := modBlock s blk fun b => { b with lease := { b.lease with acc := acc, released := released, everHeld := true } }
  wakeRetry (modCore s core fun c => { c with holder := none, acc := [] }) (fun k => k = blk) .lease

/-! ### Fragments -/

/-- R276: fragment registers of a shape. -/
def fragRegs (shape : Nat) : Nat := if shape = 9 then 33 else 32

/-- R276: the registers that the member of rank `r` of `n` supplies from a base. -/
def rankRegs (shape r n : Nat) : Nat := (fragRegs shape - r + n - 1) / n

/-- R276: a member's ranges lie within its budget. -/
def fragInBudget (g : Group) (va vb : BitVec 7) (shape r n : Nat) : Bool :=
  let k := rankRegs shape r n
  va.toNat + k ≤ 8 * g.budget && vb.toNat + k ≤ 8 * g.budget

/-- R276, R277: fragment registers captured in all 32 lanes from the members in ascending rank. -/
def capture (s : State) (blk : Nat) (gs : List Nat) (base : BitVec 7) (shape : Nat) : Cells Word :=
  ((List.range (32 * fragRegs shape)).map fun k =>
    let f := k / 32
    let w := match groupOf s blk (gs.getD (f % gs.length) 0) with
      | some g => (g.lane (k % 32)).reg (base.toNat + f / gs.length)
      | none => 0
    (k, w)).filter fun q => q.2 ≠ 0

/-- R415: the live lanes of a member that supply a poisoned register, with its number. -/
def fragPoison (s : State) (blk grp : Nat) (g : Group) (bases : List (BitVec 7)) (n : Nat) : List (Nat × Nat) :=
  g.live.filterMap fun i =>
    ((bases.flatMap fun v => (List.range n).map fun k => v.toNat + k).find? fun r =>
      isPoisoned s (.reg blk grp i r)).map fun r => (i, r)

/-- R96, R277: an accepted `mma` is counted in OPS, which starts again when no other block waits. -/
def countOp (s : State) (b : Block) : State :=
  let s := countEvent s b.part b.ctx 0x020 1
  let free := (coreOf s b.core).leaseQueue.isEmpty
  let cap := leaseCapOf s b
  modBlock s b.id fun b =>
    { b with lease := { b.lease with ops := if cap ≤ b.lease.ops + 1 && free then 0 else b.lease.ops + 1 } }

/-- R277: the engine accepts an `mma` of the members named, in ascending group. -/
def acceptMma (s : State) (b : Block) (gs : List Nat) (va vb : BitVec 7) (acc fn shape : Nat) (word : Word) : State :=
  let s15 := if 2 ≤ fn then ((groupOf s b.id (gs.headD 0)).map fun g => g.usrc 15).getD 0 else 0
  let o := MatOp.mma b.id fn acc shape (capture s b.id gs va shape) (capture s b.id gs vb shape) s15 word (gs.headD 0) 0
  countOp (modCore s b.core fun c => { c with ops := c.ops ++ [o] }) b

/-! ### The joint latch -/

/-- R277: the `mma` whose base word the latch holds: A, B, accumulator, function and shape. -/
def mmaFields (w : Word) : BitVec 7 × BitVec 7 × Nat × Nat × Nat :=
  (w.extractLsb' 18 7, w.extractLsb' 11 7, bits w.toNat 8 2, bits w.toNat 0 4, bits w.toNat 4 4)

/-- R277, items 5 and 6: the latch holds every member of the gang, the engine serves the block and has room: the instruction
is accepted, and the members go on. Under a list that changed meanwhile, arrivals kept count by their new ranks, and their ranges are
not checked again. DESIGN CHOICE, log 139. -/
def tryLatch (s : State) (blk : Nat) : State :=
  match blockOf s blk with
  | none => s
  | some b =>
    let gs := gangList b.lease.gang
    let there := b.latch.map LatchEntry.grp
    match b.latch with
    | [] => s
    | e :: _ =>
      if (gs.all there.contains) && engineServes s b e.grp && engineRoom s b.core then
        let (va, vb, acc, fn, shape) := mmaFields e.word
        let s := acceptMma s b gs va vb acc fn shape e.word
        modBlock s blk fun b =>
          { b with
            latch := []
            groups := b.groups.map fun g => { g with lanes := g.lanes.map fun l => match l.hold with
                | .latch next => { l with npc := next, hold := .none, once := false }
                | _ => l } }
      else s

/-- R277, R356: a member's arrival in the latch; two base words that differ empty it. -/
def enterLatch (s : State) (p : Path) : State :=
  let w := p.iss.word
  let differs := ((blockOf s p.iss.blk).map fun b => b.latch.any fun e => e.word ≠ w).getD false
  let s := pathHold s p (.latch p.iss.next)
  let s := pathBlock s p fun b => { b with latch := b.latch ++ [{ grp := p.iss.grp, word := w }] }
  if differs then latchFault s p.iss.blk p.b.lease.gang else tryLatch s p.iss.blk

/-- R281: arrivals of groups that a new list does not name leave the latch, and execute their instruction again. -/
def dropUnlisted (s : State) (blk : Nat) (gang : BitVec 32) : State :=
  modBlock s blk fun b =>
    let out := (b.latch.map LatchEntry.grp).filter fun k => !gang.getLsbD k
    { b with
      latch := b.latch.filter fun e => gang.getLsbD e.grp
      groups := b.groups.mapIdx fun k g =>
        if out.contains k then
          { g with lanes := g.lanes.map fun l => match l.hold with
              | .latch _ => { l with hold := .none }
              | _ => l }
        else g }

/-! ### mma -/

/-- R277: the members of a group's `mma`, in ascending group: the gang's of a joint one, or the group. -/
def mmaMembers (p : Path) : List Nat := if jointFor p.b p.iss.grp then gangList p.b.lease.gang else [p.iss.grp]

/-- R276: a group's rank among the members of its `mma`. -/
def mmaRank (p : Path) : Nat := ((mmaMembers p).filter fun k => k < p.iss.grp).length

/-- R276, R396, R399: the fragment registers that the group supplies lie within its budget: as a member of a joint `mma`, or alone. They
are tested when it issues, as what the group then is, and when the engine serves it, as what it has become. DEDUCED, log 131. -/
def mmaInBudget (p : Path) (va vb : BitVec 7) (shape : Nat) : Bool := fragInBudget p.g va vb shape (mmaRank p) (mmaMembers p).length

/-- R399: REG_FIELD of every lane. -/
def mmaRange (s : State) (p : Path) : Out :=
  .next (raiseLanes s p (p.lanes.map fun i => (i, { cause := 0x05, info := p.iss.word.setWidth 64 })))

/-- R415: the lanes of a member whose fragment registers are poisoned. -/
def mmaPoison (s : State) (p : Path) (va vb : BitVec 7) (shape : Nat) : List (Nat × Trap) :=
  (fragPoison s p.iss.blk p.iss.grp p.g [va, vb] (rankRegs shape (mmaRank p) (mmaMembers p).length)).map fun q =>
    (q.1, { cause := 0x3C, addr := BitVec.ofNat 64 (windowOff p.iss.grp q.1 q.2) })

/-- R277, R399: AN mma: held for reconvergence; its ranges tested when it issues; then held until the engine serves its group; solo or
joint. -/
def mma (fn : Nat) (va vb : BitVec 7) (acc : BitVec 2) (shape : BitVec 4) (s : State) : Out :=
  match pathOf s with
  | none => .fault .noIssuer
  | some p =>
    if !reconverged p then .next (holdReconv s p)
    else
      let s := pathHold s p .none
      if !p.again && !mmaInBudget p va vb shape.toNat then mmaRange s p
      else if !engineServes s p.b p.iss.grp then .next (waitLease s p)
      else if !mmaInBudget p va vb shape.toNat then mmaRange s p
      else
        let ts := mmaPoison s p va vb shape.toNat
        if !ts.isEmpty then .next (raiseLanes s p ts)
        else if jointFor p.b p.iss.grp then .next (enterLatch s p)
        else if engineRoom s p.b.core then
          .next (pathTo (acceptMma s p.b (mmaMembers p) va vb acc.toNat fn shape.toNat p.iss.word) p p.iss.next)
        else .next (pathHold s p (.retry .lease))

/-! ### mfrag -/

/-- R280: the element that a lane addresses: its index 64·i + j. -/
def fragIndex (chunk lane : Nat) : Nat := 64 * (chunk / 2) + 32 * (chunk % 2) + lane

/-- R280: an `mfrag` waits until the engine serves its group and has performed every earlier accepted operation; then `f`
is its effect on the lanes that execute. One whose registers lie beyond the budget traps at once (R399). -/
def mfrag (i : Instr) (x : LExt) (f : Path → State → Out) (s : State) : Out :=
  match pathOf s with
  | none => .fault .noIssuer
  | some p =>
    if (p.exec x).isEmpty then (UEnd.done s).out p
    else if !inBudget i p.g then f p s
    else if !engineServes s p.b p.iss.grp then .next (waitLease s p)
    else if !(coreOf s p.b.core).ops.isEmpty then .next (pathHold s p (.retry .lease))
    else f p s

/-- R280: `rd` of one lane; a poisoned element is an operand (R415). -/
def fragRead (d : BitVec 7) (acc : BitVec 2) (b : BitVec 7) (p : Path) (n : Nat) (s : State) : State × Option NoAccess :=
  let k := fragIndex ((src32 p.g (p.g.lane n) b).toNat % 128) n
  if isPoisoned s (.acc p.iss.blk acc.toNat k) then
    (s, some (.trap { cause := 0x3C, addr := Config.poisonAddr (drawOf s n 0) }))
  else (setLane s p n fun l => l.dst32 d (cget 0 (coreOf s p.b.core).acc (4096 * acc.toNat + k)), none)

/-- R280: `wr` of one lane. -/
def fragWrite (d : BitVec 7) (acc : BitVec 2) (b : BitVec 7) (p : Path) (n : Nat) (s : State) : State × Option NoAccess :=
  let l := p.g.lane n
  let k := fragIndex ((src32 p.g l b).toNat % 128) n
  let s := modCore s p.b.core fun c => { c with acc := cput 0 c.acc (4096 * acc.toNat + k) (src32 p.g l d) }
  (coverPoison s (.acc p.iss.blk acc.toNat k) 0 4, none)

/-- A lane instruction whose lanes act in ascending order, so that the highest lane's write remains. -/
def ascending (i : Instr) (x : LExt) (f : Path → Nat → State → State × Option NoAccess) (p : Path) (s : State) : Out :=
  .next (endTurns p (p.lanes.foldl (laneTurn p i x f) (s, [])))

/-! ### The instructions -/

/-- R278: `mma.add`. -/
def execMmaAdd (va : BitVec 7) (vb : BitVec 7) (acc : BitVec 2) (shape : BitVec 4) (_x : LExt) (s : State) : Out :=
  mma 0 va vb acc shape s

/-- R278: `mma.set`. -/
def execMmaSet (va : BitVec 7) (vb : BitVec 7) (acc : BitVec 2) (shape : BitVec 4) (_x : LExt) (s : State) : Out :=
  mma 1 va vb acc shape s

/-- R278: `mma.tri`. -/
def execMmaTri (va : BitVec 7) (vb : BitVec 7) (acc : BitVec 2) (shape : BitVec 4) (_x : LExt) (s : State) : Out :=
  mma 2 va vb acc shape s

/-- R278: `mma.triset`. -/
def execMmaTriset (va : BitVec 7) (vb : BitVec 7) (acc : BitVec 2) (shape : BitVec 4) (_x : LExt) (s : State) : Out :=
  mma 3 va vb acc shape s

/-- R280: `mfrag.rd`. -/
def execMfragRd (d : BitVec 7) (acc : BitVec 2) (b : BitVec 7) (x : LExt) (s : State) : Out :=
  mfrag (.mfragRd d acc b x) x (ascending (.mfragRd d acc b x) x (fragRead d acc b)) s

/-- R280: `mfrag.wr`. -/
def execMfragWr (d : BitVec 7) (acc : BitVec 2) (b : BitVec 7) (x : LExt) (s : State) : Out :=
  mfrag (.mfragWr d acc b x) x (ascending (.mfragWr d acc b x) x (fragWrite d acc b)) s

/-- R280: `mfrag.zero`. -/
def execMfragZero (acc : BitVec 2) (x : LExt) (s : State) : Out :=
  mfrag (.mfragZero acc x) x (fun p s =>
    let s := modCore s p.b.core fun c => { c with acc := setAcc c.acc acc.toNat [] }
    (UEnd.done (clearAcc s p.iss.blk acc.toNat)).out p) s

/-- R281: `gang.list`. -/
def execGangList (a : BitVec 6) (x : UExt) (s : State) : Out :=
  uniform x (fun p s =>
    let v := p.g.usrc a.toNat
    let m := v.setWidth 32
    let gs := gangList m
    let ok := v.toNat < 2 ^ 32 && (gs.isEmpty || (2 ≤ gs.length && gs.length ≤ 6)) && gs.all p.b.liveGroups.contains
    if !ok then .trap s (wordTrap p 0x05)
    else
      let s := pathBlock s p fun b => { b with lease := { b.lease with gang := m } }
      .done (tryLatch (wakeRetry (dropUnlisted s p.iss.blk m) (fun k => k = p.iss.blk) .lease) p.iss.blk)) s

/-- R281: `gang.lease`. -/
def execGangLease (x : UExt) (s : State) : Out :=
  uniform x (fun p s => .done (requestLease s p.iss.blk p.b.core p.iss.grp)) s

/-- R281: `gang.release`. -/
def execGangRelease (x : UExt) (s : State) : Out :=
  uniform x (fun p s =>
    let c := coreOf s p.b.core
    if c.holder ≠ some p.iss.blk then .done s
    else if !c.ops.isEmpty then .stay (pathHold s p (.retry .release))
    else .done (spillLease s p.iss.blk p.b.core true)) s

/-- R281: `gang.baton`. -/
def execGangBaton (a : BitVec 6) (x : UExt) (s : State) : Out :=
  uniform x (fun p s =>
    let v := (p.g.usrc a.toNat).toNat
    if p.iss.grp ≠ p.b.lease.baton then .trap s { cause := 0x1B, info := p.b.lease.gang.setWidth 64 }
    else if 32 ≤ v || !p.b.liveGroups.contains v then .trap s (wordTrap p 0x05)
    else
      let s := pathBlock s p fun b => { b with lease := { b.lease with baton := v } }
      .done (tryLatch (wakeRetry s (fun k => k = p.iss.blk) .lease) p.iss.blk)) s

end Sys2Proof.Machine
end

