-- ==== Sys2Proof/Machine/EngineOps.lean ====
section
/-! DEFINITION. Meanings of the engine commands `mdrain`, `cpy`, `gather` and `coll`: their checks at issue (R402, Table 22-6) and the commands they make (R282 to R289). -/

namespace Sys2Proof.Machine

open Sys2Proof

/-! ### Checks -/

/-- A check at issue: the trap when the condition holds, and what follows when it does not. -/
def check {α : Type} (c : Bool) (t : Trap) (k : Except Trap α) : Except Trap α := if c then .error t else k

/-- The same for a check that says what it raises. -/
def checkFor {α : Type} (o : Option Trap) (k : Except Trap α) : Except Trap α :=
  match o with
  | some t => .error t
  | none => k

/-- R402: ALIGN with the value that is not aligned. -/
def alignTrap (v n : Nat) : Trap := { cause := 0x08, addr := BitVec.ofNat 64 v, info := BitVec.ofNat 64 n }

/-- R402: SPACE_RANGE with the offset and the space code. -/
def outTrap (code off : Nat) : Trap := { cause := 0x0C, addr := BitVec.ofNat 64 off, info := BitVec.ofNat 64 code }

/-- R377: HANDLE_STALE with the handle. -/
def staleTrap (h : Word) : Trap := { cause := 0x38, info := h.setWidth 64 }

/-- Table 13-2: the address or offset in an address register, which must be a multiple of 16. -/
def addrValue (code : Nat) (v : DWord) : Nat :=
  match code with
  | 0 => v.toNat
  | 4 => v.toNat / 2 ^ 32
  | _ => v.toNat % 2 ^ 32

/-- R283, R377, R402, Table 13-2: the run of `n` bytes that an address register names; a local address outside its unit is so for a run
of none too. A tile stays a handle where the command writes (R127). -/
def engAddr (s : State) (p : Path) (isDst : Bool) (code : Nat) (v : DWord) (n : Nat) : Except Trap EngAddr :=
  let off := addrValue code v
  let n := max n 1
  match code with
  | 0 => .ok (.global v)
  | 1 => if off + n ≤ p.b.scrBytes then .ok (.loc (.scr p.iss.blk) off) else .error (outTrap 1 off)
  | 2 =>
    if off + n ≤ ((clusterOf s p.b.cluster).map Cluster.bytes).getD 0 then .ok (.loc (.csh p.b.cluster) off)
    else .error (outTrap 2 off)
  | 3 => match dspAddr (partOf s p.b.part).desc off n with
    | some a => .ok (.loc .dsp a)
    | none => .error (outTrap 3 off)
  | _ =>
    let h := v.setWidth 32
    match tileOf s p.b.part p.b.ctx h with
    | none => .error (staleTrap h)
    | some t =>
      if off + n ≤ t.size then .ok (if isDst then .tile h off else .loc t.space (t.base + off)) else .error (outTrap 4 off)

/-- Table 22-6, third row: SPACE_RANGE of an address register; a handle that is not current comes after the table's rows (R377). -/
def engOut (s : State) (p : Path) (code : Nat) (v : DWord) (n : Nat) : Option Trap :=
  match engAddr s p true code v n with
  | .error t => if t.cause = 0x0C then some t else none
  | .ok _ => none

/-- R81, R286, R288: `n` bytes of core scratch that an instruction reads at issue. -/
def scratchBytes (s : State) (p : Path) (off n : Nat) : List Byte :=
  readPlace s p.b.core (drawOf s p.lead 0) (.scr p.iss.blk off) n

/-- R415: a descriptor or record in core scratch has a poisoned granule. -/
def scratchPoisoned (s : State) (p : Path) (off n : Nat) : Bool := placePoisoned s (.scr p.iss.blk off) n

/-- R415: DATA_POISON of a descriptor. -/
def poisonTrap (off : Nat) : Trap := { cause := 0x3C, addr := BitVec.ofNat 64 off }

/-- A little-endian number in a list of bytes. -/
def fieldAt (bs : List Byte) (off n : Nat) : Nat := leNat ((bs.drop off).take n)

/-- Bytes of the last row of a rectangle, counted from its start. -/
def rectSpan (len rows pitch : Nat) : Nat := (rows - 1) * pitch + len

/-! ### Issue -/

/-- Table 19-9: s[desc], s[desc+1], s[addr] and s[addr+1] of an engine instruction, by its base word. -/
def engineRegs (p : Path) : List DWord :=
  let d := bits p.iss.word.toNat 19 6
  let a := bits p.iss.word.toNat 13 6
  [p.g.usrc d, p.g.usrc (d + 1), p.g.usrc a, p.g.usrc (a + 1)]

/-- Table 19-9: the shape record and the box record of a `cpy.tens`. -/
def engineRecords (s : State) (p : Path) : CmdKind → List Byte
  | .tens _ _ _ =>
    let v := (engineRegs p).getD 2 0
    (match objOf s p.b.part p.b.ctx (v.setWidth 32) with
      | some (.shape bs) => bs
      | _ => []) ++ scratchBytes s p (v.toNat / 2 ^ 32) 48
  | _ => []

/-- R282: a command is handed to its engine. -/
def newCmd (s : State) (p : Path) (major : Nat) (key : SlotKey) (kind : CmdKind) (total : Nat) (copy tile : Option Nat) :
    State × Nat :=
  let w := whoOf s p.b
  let c : Cmd :=
    { id := s.fresh, part := w.part, ctx := w.ctx, blk := p.iss.blk, grp := p.iss.grp, core := p.b.core, trc := w.trc,
      level1 := w.level1, major := major, pc := p.iss.pc, key := key, kind := kind, total := total, copy := copy, tile := tile
      cluster := p.b.cluster, word := p.iss.word, regs := engineRegs p, eng := engineRecords s p kind
      tids := p.lanes.map fun i => (p.g.lane i).tid }
  ({ s with cmds := s.cmds ++ [c], fresh := s.fresh + 1 }, s.fresh)

/-- R271: a command joins a list of its group. -/
def CountList.addCmd (c : CountList) (id : Nat) : CountList := { c.add with cmds := c.cmds ++ [(c.issued, id)] }

/-- R282, R271: a `cpy` or `gather` is handed over and listed. -/
def issueCopy (s : State) (p : Path) (major : Nat) (key : SlotKey) (kind : CmdKind) (total : Nat) : State :=
  let r := newCmd s p major key kind total (some p.g.copies.issued) none
  pathGroup r.1 p fun g => { g with copies := g.copies.addCmd r.2 }

/-- R402: a command's checks decide between its trap and its issue. -/
def command (x : UExt) (f : Path → State → Except Trap State) (s : State) : Out :=
  uniform x (fun p s => match f p s with
    | .error t => .trap s t
    | .ok s => .done s) s

/-! ### cpy and gather -/

/-- R285: `cpy.lin`. -/
def issueLin (dst ctl src : DWord) (key : SlotKey) (p : Path) (s : State) : Except Trap State :=
  let c := ctl.toNat
  let dsp := bits c 0 3
  let ssp := bits c 3 3
  let len := bits c 8 24
  check (5 ≤ dsp || 5 ≤ ssp || bits c 6 2 ≠ 0 || bits c 32 32 ≠ 0) (wordTrap p 0x02) <|
  check (addrValue dsp dst % 16 ≠ 0) (alignTrap (addrValue dsp dst) 16) <|
  check (addrValue ssp src % 16 ≠ 0) (alignTrap (addrValue ssp src) 16) <|
  check (len % 16 ≠ 0) (alignTrap len 16) <|
  checkFor (engOut s p dsp dst len) <|
  checkFor (engOut s p ssp src len) <|
  check (len = 0) (wordTrap p 0x02) <|
  match engAddr s p true dsp dst len, engAddr s p false ssp src len with
  | .error t, _ => .error t
  | _, .error t => .error t
  | .ok d, .ok f => .ok (issueCopy s p 0x0C key (.rect d f len 1 0 0) len)

/-- R285: `cpy.rect`. -/
def issueRect (dst ctl src pitches : DWord) (key : SlotKey) (p : Path) (s : State) : Except Trap State :=
  let c := ctl.toNat
  let dsp := bits c 0 3
  let ssp := bits c 3 3
  let len := bits c 8 24
  let rows := bits c 32 16
  let sp := bits pitches.toNat 0 32
  let dp := bits pitches.toNat 32 32
  check (5 ≤ dsp || 5 ≤ ssp || bits c 6 2 ≠ 0 || bits c 48 16 ≠ 0) (wordTrap p 0x02) <|
  check (addrValue dsp dst % 16 ≠ 0) (alignTrap (addrValue dsp dst) 16) <|
  check (addrValue ssp src % 16 ≠ 0) (alignTrap (addrValue ssp src) 16) <|
  check (len % 16 ≠ 0) (alignTrap len 16) <|
  check (sp % 16 ≠ 0) (alignTrap sp 16) <|
  check (dp % 16 ≠ 0) (alignTrap dp 16) <|
  checkFor (engOut s p dsp dst (rectSpan len rows dp)) <|
  checkFor (engOut s p ssp src (rectSpan len rows sp)) <|
  check (len = 0 || rows = 0) (wordTrap p 0x02) <|
  match engAddr s p true dsp dst (rectSpan len rows dp), engAddr s p false ssp src (rectSpan len rows sp) with
  | .error t, _ => .error t
  | _, .error t => .error t
  | .ok d, .ok f => .ok (issueCopy s p 0x0C key (.rect d f len rows sp dp) (len * rows))

/-- R286: the tensor and the box of a `cpy.tens`, from the shape record and the box record. -/
def tensorOf (shape box : List Byte) : Tensor :=
  let rank := fieldAt shape 8 1
  { base := BitVec.ofNat 64 (fieldAt shape 0 8), esz := fieldAt shape 9 1
    dims := (List.range 5).map fun k => fieldAt shape (0x10 + 4 * k) 4
    strides := 1 :: (List.range 4).map fun k => fieldAt shape (0x28 + 4 * k) 4
    origin := (List.range 5).map fun k => if k < rank then fieldAt box (4 * k) 4 else 0
    extent := (List.range 5).map fun k => if k < rank then fieldAt box (0x14 + 4 * k) 4 else 1 }

/-- R285: the bytes of a box. -/
def Tensor.bytes (t : Tensor) : Nat := t.extent.foldl (· * ·) 1 * 2 ^ t.esz

/-- R402: a tensor shape and box break their limits. -/
def tensorBad (rank : Nat) (t : Tensor) : Bool :=
  rank = 0 || 5 < rank || 4 < t.esz || (List.range rank).any fun k =>
    t.dims.getD k 0 = 0 || t.dims.getD k 0 < t.origin.getD k 0 + t.extent.getD k 0

/-- R285, R286: `cpy.tens`. The rows of Table 22-6 come first, those of a poisoned box on the bits it holds; DATA_POISON has the highest
code (R343, R415). DESIGN CHOICE, log 155. -/
def issueTens (dst ctl v : DWord) (key : SlotKey) (p : Path) (s : State) : Except Trap State :=
  let c := ctl.toNat
  let dsp := bits c 0 3
  let h := v.setWidth 32
  let off := v.toNat / 2 ^ 32
  let shape := match objOf s p.b.part p.b.ctx h with
    | some (.shape bs) => some bs
    | _ => none
  let inside := off + 48 ≤ p.b.scrBytes
  let t := tensorOf (shape.getD []) (scratchBytes s p off 48)
  let row := t.extent.getD 0 1 * 2 ^ t.esz
  let toTensor := ctl.getLsbD 48
  check (5 ≤ dsp || 5 ≤ bits c 3 3 || bits c 6 42 ≠ 0 || bits c 49 15 ≠ 0) (wordTrap p 0x02) <|
  check (addrValue dsp dst % 16 ≠ 0) (alignTrap (addrValue dsp dst) 16) <|
  check (off % 16 ≠ 0) (alignTrap off 16) <|
  checkFor (engOut s p dsp dst (if shape.isSome && inside then t.bytes else 0)) <|
  check (bits c 3 3 ≠ 0) (wordTrap p 0x02) <|
  check (!inside) (outTrap 1 off) <|
  match shape with
  | none => .error (staleTrap h)
  | some bs =>
    check (tensorBad (fieldAt bs 8 1) t) (wordTrap p 0x02) <|
    check (row % 16 ≠ 0) (alignTrap row 16) <|
    check (t.base.toNat % 16 ≠ 0) (alignTrap t.base.toNat 16) <|
    match engAddr s p (!toTensor) dsp dst t.bytes with
    | .error e => .error e
    | .ok d => check (scratchPoisoned s p off 48) (poisonTrap off) (.ok (issueCopy s p 0x0C key (.tens d t toTensor) t.bytes))

/-- R287: `gather`. -/
def issueGather (wide : Bool) (dst ctl base v : DWord) (key : SlotKey) (p : Path) (s : State) : Except Trap State :=
  let c := ctl.toNat
  let dsp := bits c 0 3
  let len := bits c 8 24
  let rows := bits c 32 16
  let idx := v.toNat % 2 ^ 32
  let pitch := v.toNat / 2 ^ 32
  let w := if wide then 8 else 4
  check (5 ≤ dsp || 5 ≤ bits c 3 3 || bits c 6 2 ≠ 0 || bits c 48 16 ≠ 0) (wordTrap p 0x02) <|
  check (addrValue dsp dst % 16 ≠ 0) (alignTrap (addrValue dsp dst) 16) <|
  check (base.toNat % 16 ≠ 0) (alignTrap base.toNat 16) <|
  check (len % 16 ≠ 0) (alignTrap len 16) <|
  check (pitch % 16 ≠ 0) (alignTrap pitch 16) <|
  checkFor (engOut s p dsp dst (rows * len)) <|
  check (len = 0 || rows = 0) (wordTrap p 0x02) <|
  check (bits c 3 3 ≠ 0) (wordTrap p 0x02) <|
  check (p.b.scrBytes < idx + max (rows * w) 1) (outTrap 1 idx) <|
  check (idx % w ≠ 0) (alignTrap idx w) <|
  match engAddr s p true dsp dst (rows * len) with
  | .error t => .error t
  | .ok d => .ok (issueCopy s p 0x0D key (.gather d base len pitch p.iss.blk idx wide) (rows * len))

/-! ### mdrain -/

/-- R127, R402: the destination of an `mdrain`: one that has issued before names its tile though the handle has gone since. -/
def drainDst (again : Bool) (s : State) (p : Path) (dsp : Nat) (dst : DWord) (n : Nat) : Except Trap EngAddr :=
  if again && dsp = 4 then .ok (.tile (dst.setWidth 32) (addrValue 4 dst)) else engAddr s p true dsp dst n

/-- R284, R402: the destination of an `mdrain`, checked: address, format and pitch. -/
def drainArgs (again add : Bool) (dst ctl : DWord) (p : Path) (s : State) : Except Trap (EngAddr × Nat × Nat) :=
  let c := ctl.toNat
  let dsp := bits c 0 3
  let fmt := bits c 6 2
  let pitch := bits c 8 24
  let e := drainBytes fmt
  check (5 ≤ dsp || bits c 3 3 ≠ 0 || bits c 32 32 ≠ 0) (wordTrap p 0x02) <|
  check (addrValue dsp dst % 16 ≠ 0) (alignTrap (addrValue dsp dst) 16) <|
  check (pitch % 16 ≠ 0) (alignTrap pitch 16) <|
  let n := rectSpan (64 * e) 64 pitch
  checkFor (if again && dsp = 4 then none else engOut s p dsp dst n) <|
  check (fmt = 3 || (add && fmt ≠ 0)) (wordTrap p 0x02) <|
  check (pitch < 64 * e) (alignTrap pitch (64 * e)) <|
  match drainDst again s p dsp dst n with
  | .error t => .error t
  | .ok d => .ok (d, fmt, pitch)

/-- R284: AN mdrain: checked once, at its issue (R402), then held until the engine serves its group and has room, then accepted. -/
def mdrain (add : Bool) (x : UExt) (desc : BitVec 6) (acc : BitVec 2) (slot : BitVec 4) (level : BitVec 2) (s : State) : Out :=
  uniform x (fun p s =>
    match drainArgs p.again add (p.g.usrc desc.toNat) (p.g.usrc (desc.toNat + 1)) p s with
    | .error t => .trap s t
    | .ok (d, fmt, pitch) =>
      if !engineServes s p.b p.iss.grp then .stay (waitLease s p)
      else if !engineRoom s p.b.core then .stay (pathHold s p (.retry .lease))
      else
        let r := newCmd s p 0x0F (slotKey p level slot) (.mdrain d fmt pitch add) (4096 * drainBytes fmt) none
          (some p.g.tiles.issued)
        let s := pathGroup r.1 p fun g => { g with tiles := g.tiles.addCmd r.2 }
        .done (modCore s p.b.core fun c => { c with ops := c.ops ++ [.mdrain p.iss.blk acc.toNat r.2 p.iss.word] })) s

/-! ### coll -/

/-- R288: the member table of a collective context. -/
def collTable (s : State) (unit : Nat) : Option Coll := cfind s.colls unit

/-- R289: bytes that a collective writes to a member's DST among `n` members. -/
def collBytes (fn count dcount n : Nat) : Nat :=
  match fn with
  | 1 => count / n
  | 2 => n * count
  | 4 => 4 * dcount
  | _ => count

/-- R402: the limits on a collective's operator, counts and root; those that depend on N once the member table is set. -/
def collBad (fn op root count dcount : Nat) (t : Option Coll) : Bool :=
  let folds := fn = 0 || fn = 1 || fn = 4
  (if folds then 9 < op else op ≠ 0xFF) || (fn = 4 && op = 1) || count = 0 || count % 16 ≠ 0 ||
    (fn = 4 && (count % 8 ≠ 0 || dcount = 0)) ||
    t.any fun c => ((fn = 1 || fn = 5) && count % (16 * c.members) ≠ 0) || (fn = 3 && c.members ≤ root)

/-- R288, R402: a collective command: the rows of Table 22-6 on the bits that its descriptor holds, then DATA_POISON, the highest code
(R343, R415). DESIGN CHOICE, log 155. -/
def issueColl (fn : Nat) (desc : DWord) (key : SlotKey) (p : Path) (s : State) : Except Trap State :=
  let off := desc.toNat % 2 ^ 32
  let bs := scratchBytes s p off 32
  let unit := fieldAt bs 0 1
  let op := fieldAt bs 1 1
  let src := fieldAt bs 8 8
  let dst := fieldAt bs 0x10 8
  let count := fieldAt bs 0x18 4
  let dcount := fieldAt bs 0x1C 4
  let t := collTable s unit
  check (off % 16 ≠ 0) (alignTrap off 16) <|
  check (p.b.scrBytes < off + 32) (outTrap 1 off) <|
  check (src % 16 ≠ 0) (alignTrap src 16) <|
  check (dst % 16 ≠ 0) (alignTrap dst 16) <|
  check (31 < unit || !((partOf s p.b.part).desc.eng.contains unit)) (wordTrap p 0x05) <|
  check (collBad fn op (fieldAt bs 2 2) count dcount t) (wordTrap p 0x02) <|
  check (scratchPoisoned s p off 32) (poisonTrap off) <|
  .ok (newCmd s p 0x0E key (.coll fn unit op (fieldAt bs 2 2) (BitVec.ofNat 64 src) (BitVec.ofNat 64 dst) count dcount)
    (collBytes fn count dcount ((t.map Coll.members).getD 1)) none none).1

/-- R288: a `coll` instruction. -/
def coll (fn : Nat) (x : UExt) (desc : BitVec 6) (slot : BitVec 4) (level : BitVec 2) (s : State) : Out :=
  command x (fun p s => issueColl fn (p.g.usrc desc.toNat) (slotKey p level slot) p s) s

/-! ### The instructions -/

/-- R285: `cpy.lin`. -/
def execCpyLin (desc : BitVec 6) (addr : BitVec 6) (slot : BitVec 4) (level : BitVec 2) (x : UExt) (s : State) : Out :=
  command x (fun p s => issueLin (p.g.usrc desc.toNat) (p.g.usrc (desc.toNat + 1)) (p.g.usrc addr.toNat)
    (slotKey p level slot) p s) s

/-- R285: `cpy.rect`. -/
def execCpyRect (desc : BitVec 6) (addr : BitVec 6) (slot : BitVec 4) (level : BitVec 2) (x : UExt) (s : State) : Out :=
  command x (fun p s => issueRect (p.g.usrc desc.toNat) (p.g.usrc (desc.toNat + 1)) (p.g.usrc addr.toNat)
    (p.g.usrc (addr.toNat + 1)) (slotKey p level slot) p s) s

/-- R285: `cpy.tens`. -/
def execCpyTens (desc : BitVec 6) (addr : BitVec 6) (slot : BitVec 4) (level : BitVec 2) (x : UExt) (s : State) : Out :=
  command x (fun p s => issueTens (p.g.usrc desc.toNat) (p.g.usrc (desc.toNat + 1)) (p.g.usrc addr.toNat)
    (slotKey p level slot) p s) s

/-- R287: `gather.idx32`. -/
def execGatherIdx32 (desc : BitVec 6) (addr : BitVec 6) (slot : BitVec 4) (level : BitVec 2) (x : UExt) (s : State) : Out :=
  command x (fun p s => issueGather false (p.g.usrc desc.toNat) (p.g.usrc (desc.toNat + 1)) (p.g.usrc addr.toNat)
    (p.g.usrc (addr.toNat + 1)) (slotKey p level slot) p s) s

/-- R287: `gather.idx64`. -/
def execGatherIdx64 (desc : BitVec 6) (addr : BitVec 6) (slot : BitVec 4) (level : BitVec 2) (x : UExt) (s : State) : Out :=
  command x (fun p s => issueGather true (p.g.usrc desc.toNat) (p.g.usrc (desc.toNat + 1)) (p.g.usrc addr.toNat)
    (p.g.usrc (addr.toNat + 1)) (slotKey p level slot) p s) s

/-- R289: `coll.allred`. -/
def execCollAllred (desc : BitVec 6) (slot : BitVec 4) (level : BitVec 2) (x : UExt) (s : State) : Out :=
  coll 0 x desc slot level s

/-- R289: `coll.redsc`. -/
def execCollRedsc (desc : BitVec 6) (slot : BitVec 4) (level : BitVec 2) (x : UExt) (s : State) : Out :=
  coll 1 x desc slot level s

/-- R289: `coll.allgat`. -/
def execCollAllgat (desc : BitVec 6) (slot : BitVec 4) (level : BitVec 2) (x : UExt) (s : State) : Out :=
  coll 2 x desc slot level s

/-- R289: `coll.bcast`. -/
def execCollBcast (desc : BitVec 6) (slot : BitVec 4) (level : BitVec 2) (x : UExt) (s : State) : Out :=
  coll 3 x desc slot level s

/-- R289: `coll.sparse`. -/
def execCollSparse (desc : BitVec 6) (slot : BitVec 4) (level : BitVec 2) (x : UExt) (s : State) : Out :=
  coll 4 x desc slot level s

/-- R289: `coll.alltoall`. -/
def execCollAlltoall (desc : BitVec 6) (slot : BitVec 4) (level : BitVec 2) (x : UExt) (s : State) : Out :=
  coll 5 x desc slot level s

/-- R284: `mdrain.st`. -/
def execMdrainSt (desc : BitVec 6) (acc : BitVec 2) (slot : BitVec 4) (level : BitVec 2) (x : UExt) (s : State) : Out :=
  mdrain false x desc acc slot level s

/-- R284: `mdrain.add`. -/
def execMdrainAdd (desc : BitVec 6) (acc : BitVec 2) (slot : BitVec 4) (level : BitVec 2) (x : UExt) (s : State) : Out :=
  mdrain true x desc acc slot level s

end Sys2Proof.Machine
end

