-- ==== Sys2Proof/Machine/Tasks.lean ====
section
/-! DEFINITION. Meanings of the task, migration, register-allocation and handle instructions (R62, R78 to R94, R118, R126,
R127, R290 to R293, R377 to R384). -/

namespace Sys2Proof.Machine

open Sys2Proof

/-! ### Task descriptors -/

/-- A task descriptor (Table 4-2). -/
structure TaskDesc where
  entry : Nat
  kind : Nat
  carry : Nat
  tiles : Nat
  index : Nat
  ops : Nat
  hs : List Word
  deriving DecidableEq, Repr

/-- R81: the descriptor that 32 bytes hold. -/
def taskDesc (bs : List Byte) : TaskDesc :=
  { entry := fieldAt bs 0 2, kind := fieldAt bs 2 1, carry := fieldAt bs 3 1, tiles := fieldAt bs 4 1,
    index := fieldAt bs 5 1, ops := fieldAt bs 6 2,
    hs := (List.range 6).map fun k => BitVec.ofNat 32 (fieldAt bs (8 + 4 * k) 4) }

def TaskDesc.nc (d : TaskDesc) : Nat := bits d.carry 0 4
def TaskDesc.nuc (d : TaskDesc) : Nat := bits d.carry 4 3
def TaskDesc.nin (d : TaskDesc) : Nat := bits d.tiles 0 3
def TaskDesc.nout (d : TaskDesc) : Nat := bits d.tiles 3 2

/-- The input or view tiles that a descriptor names. -/
def TaskDesc.ins (d : TaskDesc) : List Word := d.hs.take (min d.nin 4)

/-- The result tiles that a descriptor names. -/
def TaskDesc.outs (d : TaskDesc) (spawn : Bool) : List Word := if spawn then [] else (d.hs.drop 4).take (min d.nout 2)

/-- The operator of view `k`. -/
def TaskDesc.op (d : TaskDesc) (k : Nat) : Nat := bits d.ops (4 * k) 4

/-- The view list of a spawn: handles with their operators. -/
def TaskDesc.viewList (d : TaskDesc) : List (Word × Nat) := d.ins.mapIdx fun k h => (h, d.op k)

/-- R89: the offsets of views of the sizes given, and the end of the view area. -/
def viewLayout (sizes : List Nat) : List Nat × Nat :=
  let r := sizes.foldl (fun (acc : List Nat × Nat) n => (acc.1 ++ [roundUp acc.2 256], roundUp acc.2 256 + n)) ([], 0)
  (r.1, roundUp r.2 256)

/-- A tile that programs may name: a staging tile is none (R98). -/
def programTile (s : State) (b : Block) (h : Word) : Option Tile := (tileOf s b.part b.ctx h).filter fun t => !t.staging

/-- R380: what is wrong with a spawn in its family, as a MERGE_FAULT sub-code. -/
def spawnFault (s : State) (p : Path) (d : TaskDesc) : Option Nat :=
  let f := p.g.family.bind (familyOf s)
  let sizes := d.ins.map fun h => ((tileOf s p.b.part p.b.ctx h).map Tile.size).getD 0
  if f.any fun f => f.used.contains d.index then some 1
  else if f.any fun f => 64 ≤ f.used.length then some 2
  else if f.any fun f => f.views ≠ d.viewList then some 3
  else if d.viewList.any fun v => 9 < v.2 then some 4
  else if 65536 < (viewLayout sizes).2 then some 5
  else none

/-- R379, sub-code 3: a field beyond its range, or nonzero where the form forbids it. -/
def TaskDesc.bad (d : TaskDesc) (spawn : Bool) : Bool :=
  2 ^ 12 ≤ d.entry || 2 ≤ d.kind || 2 ^ 7 ≤ d.carry || 2 ^ 5 ≤ d.tiles || 64 ≤ d.index || 8 < d.nc || 4 < d.nuc || 4 < d.nin ||
    2 < d.nout || (if spawn then d.nout ≠ 0 || (d.hs.drop 4).any fun h => h ≠ 0 else d.index ≠ 0 || d.ops ≠ 0)

/-- R379, sub-code 5: the descriptor disagrees with its entry's declaration (R195). -/
def TaskDesc.disagrees (d : TaskDesc) (spawn : Bool) (e : Entry) : Bool :=
  d.nc ≠ e.nc || d.nuc ≠ e.nuc || (spawn && (d.nin ≠ e.nv || d.ops ≠ e.ops))

/-- The record of a task instruction (R77, R88, Table 4-1): carry slots not named are zero. One that a handler's group makes
has the handler's PRIO. DESIGN CHOICE, log 39. -/
def taskRec (p : Path) (d : TaskDesc) (lanes : List Nat) (kind : RecKind) : TaskRec :=
  { id := 0, part := p.b.part, ctx := p.b.ctx, launch := p.b.launch, node := p.b.node, ver := p.b.ver, entry := d.entry,
    prio := p.b.prio, kind := kind, live := lanesMask lanes, made := p.b.core
    us := (List.range 4).map fun k => if k < d.nuc then p.g.usrc k else 0
    carry := (List.range 8).map fun k => (List.range 32).map fun i =>
      if k < d.nc && lanes.contains i then (p.g.lane i).reg k else 0 }

/-- R79, R379: a partition's record pool or its overflow area has room for a record: a bound that is free, and at least one. DESIGN CHOICE,
log 46. -/
def recordRoom (s : State) (p : Nat) : Bool := decide ((s.recs.filter fun r => r.part = p).length ≤ Config.recordExtra p)

/-- R379: what is wrong with a descriptor that lies where it may, as a DESC_FAULT sub-code. -/
def descFault (s : State) (p : Path) (spawn : Bool) (d : TaskDesc) : Option Nat :=
  let hs := d.ins ++ d.outs spawn
  match (versionOf s p.b.ver).bind fun v => v.entries[d.entry]? with
  | none => some (if d.kind % 2 ≠ spawn.toNat then 2 else if d.bad spawn then 3 else 4)
  | some e =>
    if d.kind % 2 ≠ spawn.toNat then some 2
    else if d.bad spawn then some 3
    else if d.disagrees spawn e then some 5
    else if hs.any fun h => (objOf s p.b.part p.b.ctx h).isSome && (programTile s p.b h).isNone then some 6
    else if (recCores s (taskRec p d [] (.phase [] []))).isEmpty then some 7
    else if !recordRoom s p.b.part then some 8
    else none

/-- R379: DESC_FAULT. -/
def descTrap (off sub : Nat) : Trap := { cause := 0x22, addr := BitVec.ofNat 64 off, info := BitVec.ofNat 64 sub }

/-- R415: the first carried register that is poisoned, as its lane and number. -/
def carryPoison (s : State) (p : Path) (nc : Nat) : Option (Nat × Nat) :=
  (p.lanes.flatMap fun i => (List.range nc).map fun n => (i, n)).find? fun q =>
    isPoisoned s (.reg p.iss.blk p.iss.grp q.1 q.2)

/-- R343, R377, R379, R380, R415: what a `task.spawn` or `task.phase` is turned away with. -/
def taskTrap (s : State) (p : Path) (spawn : Bool) (off : Nat) (d : TaskDesc) : Option Trap :=
  if off % 16 ≠ 0 || p.b.scrBytes < off + 32 then some (descTrap off 1)
  else match if spawn then spawnFault s p d else none with
    | some k => some { cause := 0x20, info := BitVec.ofNat 64 k }
    | none => match descFault s p spawn d with
      | some k => some (descTrap off k)
      | none => match (d.ins ++ d.outs spawn).find? fun h => (objOf s p.b.part p.b.ctx h).isNone with
        | some h => some (staleTrap h)
        | none =>
          if scratchPoisoned s p off 32 then some (poisonTrap off)
          else (carryPoison s p d.nc).map fun q =>
            { cause := 0x3C, addr := BitVec.ofNat 64 (windowOff p.iss.grp q.1 q.2) }

/-- R87: a spawn opens its group's family or joins it: the state and the family. -/
def joinFamily (s : State) (p : Path) (d : TaskDesc) : State × Nat :=
  match p.g.family with
  | some fid =>
    ({ s with families := s.families.map fun f => if f.id = fid then { f with used := f.used ++ [d.index] } else f }, fid)
  | none =>
    let f : Family := { id := s.fresh, part := p.b.part, ctx := p.b.ctx, views := d.viewList, used := [d.index] }
    (pathGroup { s with families := s.families ++ [f], fresh := s.fresh + 1 } p fun g => { g with family := some f.id }, f.id)

/-- R78: every earlier access of the group's threads is complete. -/
def Group.quiet (g : Group) : Bool := g.loads.pend.isEmpty && g.stores.pend.isEmpty

/-- R62, R78, R270: a reconverged group executes `f` once its earlier accesses are complete. -/
def whenQuiet (x : UExt) (f : Path → State → UEnd) (s : State) : Out :=
  uniformConv x (fun p s => if p.g.quiet then f p s else .stay (pathHold s p (.retry .waitc))) s

/-- R78: the group ends. -/
def endPath (s : State) (p : Path) : State := exitLanes s p.iss.blk p.iss.grp p.g.live

/-- R380, sub-code 6: the family is abandoned at the instruction that would close it. -/
def closeTrap (s : State) (p : Path) : UEnd :=
  .trap (dropFamily s p.iss.blk p.iss.grp) { cause := 0x20, info := 6 }

/-! ### Merges -/

/-- R91, R415: the contents of a child's views with their poisoned elements. -/
def leafOf (s : State) (b : Block) : Leaf :=
  b.views.map fun v =>
    let w := opBytes v.op
    (readPlace s b.core 0 (.scr b.id v.off) v.size,
      (List.range (v.size / w)).filter fun k => placePoisoned s (.scr b.id (v.off + k * w)) w)

/-- R91, R94: a child's leaf goes into its family's tree, at once or when its own family has been combined into it. -/
def giveLeaf (s : State) (p : Path) (fid idx : Nat) : State :=
  let leaf := leafOf s p.b
  if p.g.family.isSome then
    closeFamily s p.iss.blk p.iss.grp (some (fid, idx)) ((p.b.views.map View.handle).zip leaf)
  else mergeUp (s.families.length + 1) (putLeaf s fid idx leaf) fid

/-! ### Migration -/

/-- R383: what is wrong at an arrival, as a MIGRATE_FAULT sub-code. -/
def migFault (s : State) (p : Path) (kind id : Nat) : Option Nat :=
  match kernelOf s p.b with
  | none => none
  | some k =>
    if p.b.rdv.any fun r => r.eqp ≠ id || r.kind ≠ kind then some 1
    else if !(k.eqps.any fun e => e.id = id) then some 2
    else if (kind = 0 && k.lbody.isNone) || (kind = 1 && k.dbody.isNone) then some 3
    else if p.g.live.any fun i => (p.g.lane i).cd ≠ 0 then some 6
    else none

/-- R383: the rendezvous is cancelled; the groups that trap do, and the others are held at their `mig`. -/
def cancelRdv (s : State) (p : Path) (sub : Nat) : State :=
  let there := ((p.b.rdv.map Rendezvous.arrived).getD [])
  let traps := if sub = 1 then there ++ [p.iss.grp] else [p.iss.grp]
  let s := rdvCancel s p.iss.blk sub traps
  (there.filter fun g => !traps.contains g).foldl (fun s g => recheckReconv s p.iss.blk g) s

/-- R62: a group arrives at the rendezvous of its block. -/
def joinRdv (s : State) (p : Path) (kind id : Nat) : State :=
  let s := pathBlock s p fun b =>
    { b with rdv := some (match b.rdv with
        | some r => { r with arrived := r.arrived ++ [p.iss.grp] }
        | none => { eqp := id, kind := kind, arrived := [p.iss.grp] }) }
  checkRdv (pathHold s p (.mig p.iss.next)) p.iss.blk

/-- R62, R63, R291, R383: A `mig` of a kind (0 l, 1 d, 2 auto). -/
def mig (kind : Nat) (id : BitVec 12) (x : UExt) (s : State) : Out :=
  whenQuiet x (fun p s => match migFault s p kind id.toNat with
    | some k => .stay (cancelRdv s p k)
    | none => .stay (joinRdv s p kind id.toNat)) s

/-! ### Register budgets -/

/-- R118: the largest budget of a body's class, in units of 8 registers. -/
def budgetMax (lbody : Bool) : Nat := if lbody then 14 else 8

/-- R384: a grow by `n` units could never be served. -/
def growTooFar (s : State) (p : Path) (n : Nat) : Bool :=
  let r := allowedRange (coreOf s p.b.core) false
  budgetMax p.b.lbody < p.g.budget + n || r.2 - r.1 < 4 * (p.g.budget + n)

/-- R118: a group's budget grows by `n` units when the chunks are free; granted registers read zero. -/
def grow (s : State) (core blk grp n : Nat) : Option State :=
  (groupOf s blk grp).bind fun g => (allocChunks (coreOf s core) blk grp g.budget n).map fun c =>
    modGroup (modCore s core fun _ => c) blk grp fun g =>
      { g with
        budget := g.budget + n
        lanes := g.lanes.map fun l => { l with regs := l.regs.filter fun q => q.1 < 8 * g.budget } }

/-- R118: a group's budget falls by `n` units: the highest chunks are released, and their values are lost. -/
def shrink (s : State) (core blk grp n : Nat) : State :=
  match groupOf s blk grp with
  | none => s
  | some g =>
    let left := g.budget - n
    let s := modCore s core fun c => freeAllocs c fun a => a.blk = blk && a.grp = grp && a.chunk ≠ 14 && left ≤ a.chunk
    let s := modGroup s blk grp fun g =>
      { g with
        budget := left
        lanes := g.lanes.map fun l => { l with regs := l.regs.filter fun q => q.1 < 8 * left } }
    { s with poison := s.poison.filter fun u => match u.1 with
        | .reg b k _ r => !(b = blk && k = grp && 8 * left ≤ r)
        | _ => true }

/-- R45, R292: `rega` is held as at a barrier, and then until the group's loads have written their registers. -/
def rega (x : UExt) (f : Path → State → UEnd) (s : State) : Out :=
  uniformConv x (fun p s => if p.g.loads.pend.isEmpty then f p s else .stay (pathHold s p (.retry .waitc))) s

/-- R384: REG_GROW. -/
def regGrowTrap (n : Nat) : Trap := { cause := 0x30, info := BitVec.ofNat 64 n }

/-! ### Handles -/

/-- R126: the tile that a `handle.alloc` asks for, when its space, base and size allow it. -/
def allocTile (s : State) (p : Path) (space base size : Nat) : Option Obj :=
  if size < 16 || 65536 < size || size % 16 ≠ 0 || base % 16 ≠ 0 then none
  else match space with
    | 1 => if base + size ≤ p.b.scrBytes then some (.tile (.scr p.iss.blk) base size false) else none
    | 2 =>
      if base + size ≤ ((clusterOf s p.b.cluster).map Cluster.bytes).getD 0 then
        some (.tile (.csh p.b.cluster) base size false)
      else none
    | 3 => (dspAddr (partOf s p.b.part).desc base size).map fun a => .tile .dsp a size false
    | _ => none

/-- R293, R377: an object takes a slot, and the handle, or 0, goes to a uniform register. -/
def takeSlot (s : State) (p : Path) (d : BitVec 6) (o : Obj) : UEnd :=
  let r := allocHandle s p.b.part p.b.ctx o
  .done (pathGroup r.1 p fun g => g.udst d.toNat ((r.2.getD 0).setWidth 64))

/-- R293: a tile operation on every granule, complete at once; `waitc` counts it (R271). -/
def setTile (v : Bool) (a : BitVec 6) (x : UExt) (s : State) : Out :=
  uniform x (fun p s =>
    let h := (p.g.usrc a.toNat).setWidth 32
    match programTile s p.b h with
    | none => .trap s (staleTrap h)
    | some t =>
      let s := pathGroup s p fun g => { g with tiles := { g.tiles with issued := g.tiles.issued + 1 } }
      .done (feRetry (setFulls s t.space t.granules v))) s

/-! ### The instructions -/

/-- R88: `task.spawn`. -/
def execTaskSpawn (a : BitVec 6) (x : UExt) (s : State) : Out :=
  uniform x (fun p s =>
    let off := (p.g.usrc a.toNat).toNat % 2 ^ 32
    let d := taskDesc (scratchBytes s p off 32)
    match taskTrap s p true off d with
    | some t => .trap s t
    | none =>
      let r := joinFamily s p d
      let sizes := d.ins.map fun h => ((tileOf s p.b.part p.b.ctx h).map Tile.size).getD 0
      .done (addRec r.1 (taskRec p d p.lanes (.child r.2 d.index d.viewList sizes)))) s

/-- R78, R79: `task.phase`. -/
def execTaskPhase (a : BitVec 6) (x : UExt) (s : State) : Out :=
  whenQuiet x (fun p s =>
    let off := (p.g.usrc a.toNat).toNat % 2 ^ 32
    let d := taskDesc (scratchBytes s p off 32)
    match taskTrap s p false off d with
    | some t => .trap s t
    | none =>
      if familyBroken s p.g then closeTrap s p
      else
        let s := addRec s (taskRec p d p.g.live (.phase d.ins (d.outs false)))
        .stay (endPath (closeFamily s p.iss.blk p.iss.grp none []) p)) s

/-- R78, R91, R94: `task.merge`. -/
def execTaskMerge (x : UExt) (s : State) : Out :=
  whenQuiet x (fun p s => match p.b.origin with
    | .child fid idx =>
      if familyBroken s p.g then closeTrap s p else .stay (endPath (giveLeaf s p fid idx) p)
    | _ => .trap s (descTrap 0 9)) s

/-- R62: `mig.l`. -/
def execMigL (imm : BitVec 12) (x : UExt) (s : State) : Out := mig 0 imm x s

/-- R62: `mig.d`. -/
def execMigD (imm : BitVec 12) (x : UExt) (s : State) : Out := mig 1 imm x s

/-- R62, R66: `mig.auto`. -/
def execMigAuto (imm : BitVec 12) (x : UExt) (s : State) : Out := mig 2 imm x s

/-- R118, R292: `rega.grow.wait`. -/
def execRegaGrowWait (n : BitVec 13) (x : UExt) (s : State) : Out :=
  rega x (fun p s =>
    let now := if (coreOf s p.b.core).regaQueue.isEmpty then grow s p.b.core p.iss.blk p.iss.grp n.toNat else none
    if n = 0 then .done s
    else if growTooFar s p n.toNat then .trap s (regGrowTrap n.toNat)
    else match now with
      | some s => .done s
      | none =>
        let s := modCore s p.b.core fun c =>
          { c with regaQueue := c.regaQueue ++ [{ blk := p.iss.blk, grp := p.iss.grp, units := n.toNat }] }
        .stay (pathHold s p (.rega p.iss.next))) s

/-- R118, R292: `rega.grow.try`. -/
def execRegaGrowTry (q : BitVec 3) (n : BitVec 13) (x : UExt) (s : State) : Out :=
  rega x (fun p s =>
    let write := fun (s : State) (v : Bool) => UEnd.done (pathGroup s p fun g => g.qwr q.toNat v)
    if n = 0 then write s true
    else if growTooFar s p n.toNat || !(coreOf s p.b.core).regaQueue.isEmpty then write s false
    else match grow s p.b.core p.iss.blk p.iss.grp n.toNat with
      | some t => write t true
      | none => write s false) s

/-- R118, R292: `rega.shrink`. -/
def execRegaShrink (n : BitVec 13) (x : UExt) (s : State) : Out :=
  rega x (fun p s =>
    if n = 0 then .done s
    else if p.g.budget < n.toNat + 1 then .trap s (regGrowTrap n.toNat)
    else .done (shrink s p.b.core p.iss.blk p.iss.grp n.toNat)) s

/-- R293: `handle.alloc`. -/
def execHandleAlloc (d : BitVec 6) (a : BitVec 6) (b : BitVec 6) (x : UExt) (s : State) : Out :=
  uniform x (fun p s =>
    let v := (p.g.usrc a.toNat).toNat
    let w := (p.g.usrc b.toNat).toNat
    match bits w 60 4 with
    | 0 =>
      if bits w 17 43 ≠ 0 || bits v 35 29 ≠ 0 then .trap s (wordTrap p 0x02)
      else match allocTile s p (bits v 32 3) (bits v 0 32) (bits w 0 17) with
        | some o => takeSlot s p d o
        | none => .trap s (outTrap (bits v 32 3) (bits v 0 32))
    | 1 => takeSlot s p d .seq
    | _ => .trap s (wordTrap p 0x02)) s

/-- R127, R293, R378: `handle.retire`. -/
def execHandleRetire (a : BitVec 6) (x : UExt) (s : State) : Out :=
  uniform x (fun p s =>
    let h := (p.g.usrc a.toNat).setWidth 32
    match objOf s p.b.part p.b.ctx h with
    | none | some (.tile _ _ _ true) => .trap s (staleTrap h)
    | some _ => .done (settleFamilies (retireHandle s p.b.part p.b.ctx h))) s

/-- R293: `handle.fill`. -/
def execHandleFill (a : BitVec 6) (x : UExt) (s : State) : Out := setTile true a x s

/-- R293: `handle.clear`. -/
def execHandleClear (a : BitVec 6) (x : UExt) (s : State) : Out := setTile false a x s

/-- R293: `handle.summ`. -/
def execHandleSumm (d : BitVec 6) (a : BitVec 6) (x : UExt) (s : State) : Out :=
  uniform x (fun p s =>
    let h := (p.g.usrc a.toNat).setWidth 32
    match tileOf s p.b.part p.b.ctx h with
    | none => .trap s (staleTrap h)
    | some t => .done (pathGroup s p fun g => g.udst d.toNat (BitVec.ofNat 64 (t.summary s)))) s

/-- R293: `handle.shape`. -/
def execHandleShape (d : BitVec 6) (a : BitVec 6) (x : UExt) (s : State) : Out :=
  uniform x (fun p s =>
    let off := (p.g.usrc a.toNat).toNat % 2 ^ 32
    if off % 16 ≠ 0 then .trap s (alignTrap off 16)
    else if p.b.scrBytes < off + 64 then .trap s (outTrap 1 off)
    else if scratchPoisoned s p off 64 then .trap s (poisonTrap off)
    else takeSlot s p d (.shape (scratchBytes s p off 64))) s

end Sys2Proof.Machine
end

