-- ==== Sys2Proof/Machine/Stops.lean ====
section
/-! DEFINITION. Stops, handlers and returns (R341, R346 to R353, R371, R376): the stop image (Tables 3-6 and 19-5), the handler
records of a stop and of a notice, the return from a handler, and the meanings of STOP_IMAGE_WRITE and `usys.rti`. -/

namespace Sys2Proof.Machine

open Sys2Proof

/-! ### The supervisor -/

/-- R346: the current version of the supervisor graph of a context. -/
def supervisorOf (s : State) (p c : Nat) : Option Version :=
  (cfind (ctxOf s p c).graphs 1).bind fun g => if g.live then versionOf s g.ver else none

/-- Table 19-2: the entry at which handlers start. -/
def handlerEntry (c : Ctx) : Nat := c.trapVec.toNat % 2 ^ 12

/-- R346: the address of a stop image. -/
def stopVa (c : Ctx) (slot : Nat) : DWord := BitVec.ofNat 64 (c.trapVec.toNat / 2 ^ 16 * 2 ^ 16 + 16384 * slot)

/-- R346: the image slot as the supervisor graph's translation context has it, both readable and writable. -/
def imagePlace (s : State) (p c core slot : Nat) (v : Version) : State × Except NoAccess Place :=
  let w : Who := { part := p, ctx := c, trc := v.trc, level1 := true, core := core }
  let va := stopVa (ctxOf s p c) slot
  match globalPlace s w .read va (drawOf s 100 0) with
  | (s, .ok _) => globalPlace s w .write va (drawOf s 100 1)
  | r => r

/-- R346: the record of a handler: a one-group block of the supervisor graph's entry, s0 holding the image's address. -/
def handlerRec (s : State) (p c core launch node : Nat) (v : Version) (kind : RecKind) (image : DWord) : TaskRec :=
  { id := 0, part := p, ctx := c, launch := launch, node := node, ver := v.id, entry := handlerEntry (ctxOf s p c), prio := 15,
    kind := kind, live := BitVec.allOnes 32, us := [image, 0, 0, 0], carry := [], made := core }

/-! ### The stop image -/

/-- R69: a barrier slot image. -/
def BarSlot.bytes (b : BarSlot) : List Byte :=
  leBytes 4 (b.arrivals + (if b.parity then 2 ^ 31 else 0)) ++
    leBytes 4 (match b.latch with
      | some n => n % 2 ^ 31 + 2 ^ 31
      | none => 0) ++ leBytes 4 b.expected ++ leBytes 4 b.accrued

/-- The lanes of a group, each giving some bytes. -/
def Group.each (g : Group) (f : Nat → Lane → List Byte) : List Byte := (List.range 32).flatMap fun i => f i (g.lane i)

/-- Bytes of zero. -/
def zeros (n : Nat) : List Byte := List.replicate n 0

/-- What a group section shows: lane registers, uniform registers, lane predicates and uniform predicates in slot order, and the bytes of
each lane's slice. -/
structure SlotMap where
  ls : List Nat
  us : List Nat
  ps : List Nat
  qs : List Nat
  priv : Nat
  deriving DecidableEq, Repr

/-- Predicates in slot order. -/
def pickBits (ps : List Nat) (v : Nat) : Nat := (ps.mapIdx fun k r => bits v r 1 * 2 ^ k).sum

/-- Table 3-6: a group section. -/
def slotSection (g : Group) (m : SlotMap) : List Byte :=
  leBytes 4 (lanesMask g.live).toNat ++ leBytes 1 (pickBits m.qs g.upred.toNat) ++ leBytes 1 g.grgMode.toNat ++ zeros 10 ++
    leBytes 8 g.gcb.toNat ++ leBytes 8 g.ght.toNat ++ g.slots.flatMap BarSlot.bytes ++
    g.each (fun _ l => leBytes 2 l.tid.toNat) ++ g.each (fun _ l => [l.gop]) ++ zeros 32 ++
    g.each (fun _ l => leBytes 8 l.gpc.toNat) ++ g.each (fun _ l => leBytes 4 (pickBits m.ps l.preds.toNat)) ++
    (m.us.flatMap fun k => leBytes 8 (g.usrc k).toNat) ++
    (m.ls.flatMap fun n => g.each fun _ l => leBytes 4 (l.reg n).toNat) ++ g.each fun _ l => mgets l.priv 0 m.priv

/-- Every register is its own slot. -/
def SlotMap.all (nl priv : Nat) : SlotMap :=
  { ls := List.range nl, us := List.range 64, ps := List.range 24, qs := List.range 7, priv := priv }

/-- R347: the group section of a stop image: NU = 64, NL = `nl`, PRIV = 0. -/
def groupSection (g : Group) (nl : Nat) : List Byte := slotSection g (.all nl 0)

/-- Bytes of the group section of a stop image. -/
def sectionBytes (nl : Nat) : Nat := roundUp (0x440 + 128 * nl) 64

/-- Table 19-5: LFLAG of a lane. -/
def lflag (named : Bool) (l : Lane) : Nat :=
  (match l.hold with
    | .reconv => 1
    | .slot _ _ true parity => 2 + (if parity then 4 else 0)
    | _ => 0) + (if l.once then 8 else 0) + (if named then 16 else 0)

/-- R347: the body offset of a lane's native PC. -/
def noffOf (s : State) (b : Block) (l : Lane) : Nat := (l.npc - bodyStart s b).toNat % 2 ^ 32

/-- Table 19-5: the execution section of a group. -/
def execSection (s : State) (b : Block) (g : Group) (recs : List TrapRec) (stopped : Bool) (slot : Nat) : List Byte :=
  let named := fun i => recs.any fun r => r.lane = i
  g.each (fun _ l => leBytes 4 (noffOf s b l)) ++ g.each (fun _ l => leBytes 2 l.cd) ++
    g.each (fun i l => leBytes 1 (lflag (named i) l)) ++ leBytes 1 g.budget ++
    leBytes 1 ((if b.lbody then 1 else 0) + (if stopped then 2 else 0) + 4 * g.stepMode.toNat) ++ leBytes 2 (g.leqp.getD 0xFFFF) ++
    leBytes 1 slot ++ zeros 27

/-- Table 19-5: the execution section of a stopped group. -/
def groupExec (s : State) (b : Block) (g : Group) (recs : List TrapRec) (slot : Nat) : List Byte := execSection s b g recs true slot

/-- R347: the stop image. -/
def stopImage (s : State) (b : Block) (g : Group) (recs : List TrapRec) (slot : Nat) : List Byte :=
  let nl := 8 * g.budget
  let a := groupSection g nl
  a ++ zeros (sectionBytes nl - a.length) ++ groupExec s b g recs slot

/-- R347, R415: the image is written, and the lines that hold poisoned registers become poisoned. -/
def writeImage (s : State) (b : Block) (gi : Nat) (pl : Place) (bs : List Byte) : State :=
  if storeLost s b.part pl then s
  else
    let bad := s.poison.filterMap fun u => match u.1 with
      | .reg k g l n => if k = b.id && g = gi then some (0x440 + 128 * n + 4 * l) else none
      | _ => none
    let s := coverPlace (writePlace s pl bs) pl bs.length
    bad.foldl (fun s o => poisonPlace s (pl.shift o) 4) s

/-! ### Delivery -/

/-- R258, R361: the full/empty waits of a group that stops are cancelled: a lane whose operation is done stands at NEXT. -/
def cancelFe (s : State) (blk grp : Nat) : State :=
  let s := { s with feq := s.feq.filter fun w => !(w.blk = blk && w.grp = grp) }
  modGroup s blk grp fun g => { g with lanes := g.lanes.map fun l => match l.hold with
    | .fe _ => { l with hold := .none }
    | .feDone next => l.advance next |> fun l => { l with hold := .none }
    | _ => l }

/-- R376: the abandoned commands that the records of a stop report are listed no more, and what they wrote is published. -/
def dropCommands (s : State) (recs : List TrapRec) : State :=
  (recs.filterMap TrapRec.cmd).foldl (fun s k => match cmdOf s k with
    | some c => publish (retireCmd s c false) k
    | none => publish s k) s

/-- R371: the lowest stop slot of a context that no stop and no handler uses. -/
def freeStop (s : State) (p c : Nat) : Option Nat :=
  let inKind := fun (k : RecKind) n => match k with
    | .handler m _ _ => m = n
    | _ => false
  let inOrigin := fun (o : Origin) n => match o with
    | .handler m _ => m = n
    | _ => false
  let bs := s.blocks ++ (partOf s p).resume
  (List.range 256).find? fun n =>
    !((ctxOf s p c).stops.any fun q => q.slot = n) && !(s.recs.any fun r => r.part = p && r.ctx = c && inKind r.kind n) &&
      !(bs.any fun b => b.part = p && b.ctx = c && inOrigin b.origin n)

def stopOf (s : State) (p c slot : Nat) : Option StopSlot := (ctxOf s p c).stops.find? fun q => q.slot = slot

/-- A stop slot becomes free. -/
def dropStop (s : State) (p c slot : Nat) : State :=
  modCtx s p c fun x => { x with stops := x.stops.filter fun q => q.slot ≠ slot }

/-- R349, R387: what a handler does to a block that waits to be placed again is done to its image, which keeps its place in the resume
queue, unless the block ends by it. DEDUCED, log 130. -/
def withParked (s : State) (p blk : Nat) (f : State → State) : State :=
  let queue := (partOf s p).resume
  match queue.find? fun b => b.id = blk with
  | none => f s
  | some b =>
    let k := (queue.takeWhile fun x => x.id ≠ blk).length
    let t := f (modPart { s with blocks := s.blocks ++ [b] } p fun q => { q with resume := q.resume.filter fun x => x.id ≠ blk })
    match blockOf t blk with
    | none => t
    | some b => modPart { t with blocks := t.blocks.filter fun x => x.id ≠ blk } p fun q =>
        { q with resume := q.resume.take k ++ b :: q.resume.drop k }

/-- The block that a stop slot's group belongs to is ended, when the group is still in that stop (R349, ACT 3). -/
def actThree (s : State) (p c slot : Nat) : State :=
  match stopOf s p c slot with
  | none => s
  | some q => withParked (dropStop s p c slot) p q.blk fun s =>
      if ((groupOf s q.blk q.grp).bind fun g => g.stop.bind Stop.slot) = some slot then killBlock s q.blk else s

/-- R346: a notice is queued for a handler of the context's supervisor graph, when one can serve it. -/
def queueNotice (s : State) (p c core : Nat) (r : TrapRec) : State :=
  match supervisorOf s p c with
  | none => s
  | some v =>
    let h := handlerRec s p c core 0 0 v (.notice r) 0
    if (v.entries[h.entry]?).isNone || (recCores s h).isEmpty then s else addRec s h

/-- R339, R376: the notices of a context are queued: those of commands whose block has ended, and one for each wrapped counter. A saved
context's wait until it is restored. -/
def queueNotices (s : State) (p c : Nat) : State :=
  let x := ctxOf s p c
  if (x.overflows.isEmpty && x.notices.isEmpty) || x.saved.isSome then s
  else
    let s := modCtx s p c fun x => { x with overflows := [], notices := [] }
    let s := x.notices.foldl (fun s n => queueNotice (dropCommands s [n.2]) p c n.1 n.2) s
    let core := (coresOf s p).headD 0
    x.overflows.foldl (fun s k => queueNotice s p c core (noticeRec 0x14 0 (BitVec.ofNat 64 k))) s

/-- R346: every context's notices are queued. -/
def settleNotices (s : State) : State :=
  (s.parts.flatMap fun q => q.2.ctxs.map fun c => (q.1, c.1)).foldl (fun s k => queueNotices s k.1 k.2) s

/-- A stop is over with its records undelivered: the commands they report are done with. -/
def discardStop (s : State) (blk grp : Nat) (st : Stop) : State :=
  modGroup (dropCommands s (st.recs ++ st.more)) blk grp fun g => { g with stop := none }

/-- R341, R346, R371: the stop image and the records of a group's stop are written and a handler queued for each; or the stop is
disposed of with ACT 3. -/
def writeStop (s : State) (b : Block) (gi : Nat) (st : Stop) : State :=
  let s := cancelFe s b.id gi
  match freeStop s b.part b.ctx with
  | none => s
  | some slot =>
    let gone := fun (s : State) => killBlock (discardStop s b.id gi st) b.id
    match supervisorOf s b.part b.ctx with
    | none => gone s
    | some v =>
      let va := stopVa (ctxOf s b.part b.ctx) slot
      let h := fun k => handlerRec s b.part b.ctx b.core b.launch b.node v (.handler slot k va) va
      if (v.entries[(h 0).entry]?).isNone || (recCores s (h 0)).isEmpty then gone s
      else match imagePlace s b.part b.ctx b.core slot v, groupOf s b.id gi with
        | (s, .error (.foreign t)), _ => isolate s b.part b.core t
        | (s, .error .wait), _ => s
        | (s, .ok pl), some g =>
          let s := dropCommands s st.recs
          let q : StopSlot :=
            { slot := slot, blk := b.id, grp := gi, recs := st.recs, noffs := (List.range 32).map fun i => noffOf s b (g.lane i),
              nl := 8 * g.budget }
          let s := writeImage s b gi pl (stopImage s b g st.recs slot)
          let s := modGroup s b.id gi fun g => { g with stop := some { st with slot := some slot } }
          let s := modCtx s b.part b.ctx fun x => { x with stops := x.stops ++ [q] }
          (List.range st.recs.length).foldl (fun s k => addRec s (h k)) s
        | (s, _), _ => gone s

/-- R341, R350: a stop that is not written yet is: a handler's own trap ends it, and the stop it served is disposed of with
ACT 3. -/
def deliverStop (s : State) (blk grp : Nat) : State :=
  match blockOf s blk, groupOf s blk grp with
  | some b, some g => match g.stop with
    | some st =>
      if st.slot.isSome || !issues s b then s
      else match b.origin with
        | .handler slot _ => actThree (killBlock (discardStop s blk grp st) blk) b.part b.ctx slot
        | .notice _ => killBlock (discardStop s blk grp st) blk
        | _ => writeStop s b grp st
    | none => s
  | _, _ => s

/-! ### The return -/

/-- R416: poison in state that no instruction owns, in a unit of a kind: the context is killed, and both are recorded. -/
def uncontained (s : State) (p c : Nat) (unit : Nat × Nat) (pa : DWord) : State :=
  killLogged (logPart s p 0x72 c unit.1 unit.2 1 pa) p c unit.1 unit.2 2

/-- Table 24-1: the unit in whose memory an address lies: its channel, or for the pool CXL port 0. DESIGN CHOICE, log 119. -/
def memoryUnit (pa : Nat) : Nat × Nat := if paClass pa = 0 then (pa / 2 ^ 33, 2) else (0, 6)

/-- A number in the stop image at a place. -/
def imageAt (s : State) (core : Nat) (pl : Place) (off n : Nat) : Nat := leNat (readPlace s core (drawOf s 101 off) (pl.shift off) n)

/-- R144: a lane that waits on a slot whose awaited phase has completed goes on; one whose instruction waits executes it again. -/
def Lane.rewait (s : State) (l : Lane) : Lane :=
  match l.hold with
  | .slot k next _ parity => if parityOf s k ≠ parity then { l.advance next with hold := .none } else l
  | .reconv | .retry _ => { l with hold := .none, seen := none }
  | _ => { l with seen := none }

/-- R364, R365: the lanes of a block whose queued requests to grow are gone with its core execute them again. -/
def Block.reask (b : Block) : Block :=
  { b with groups := b.groups.map fun g => { g with lanes := g.lanes.map fun l => match l.hold with
    | .rega _ => { l with hold := .none }
    | _ => l } }

/-- R400: the handler has written a TRAP_NPC that names no instruction: the lane stays at the one it trapped at. -/
def wrongPc (s : State) (b : Block) (r : TrapRec) : Option DWord :=
  r.npcW.filter fun pc => r.cmd.isNone && !targetOk s b (pc - bodyStart s b).toNat

/-- R347: a live lane reloaded from the image; one whose NOFF the handler has changed is held no more, unless it is to stay (R400). -/
def reloadLane (s : State) (b : Block) (q : StopSlot) (pl : Place) (nl i : Nat) (stays : Bool) (l : Lane) : Lane :=
  if !l.live then l
  else
    let at' := imageAt s b.core pl
    let noff := at' (sectionBytes q.nl + 4 * i) 4
    let l :=
      { l with
        regs := ((List.range nl).map fun n => (n, BitVec.ofNat 32 (at' (0x440 + 128 * n + 4 * i) 4))).filter fun r => r.2 ≠ 0
        preds := BitVec.ofNat 24 (at' (0x1C0 + 4 * i) 4)
        gpc := BitVec.ofNat 64 (at' (0xC0 + 8 * i) 8)
        gop := BitVec.ofNat 8 (at' (0x80 + i) 1) }
    if noff = q.noffs.getD i 0 || stays then l.rewait s
    else { l with npc := bodyStart s b + BitVec.ofNat 64 noff, hold := .none, once := false, seen := none }

/-- R347, R415: the registers of a group that are reloaded, whole, are poisoned no more. DEDUCED, log 154. -/
def healRegs (s : State) (blk grp nl : Nat) : State :=
  { s with poison := s.poison.filter fun u => match u.1 with
      | .reg b g _ n => !(b = blk && g = grp && decide (n < nl))
      | _ => true }

/-- R348: what the handler wrote for its named lane takes precedence over the image. -/
def applyRec (s : State) (b : Block) (l : Lane) (r : TrapRec) : Lane :=
  let l := { l with gpc := r.gpcW.getD l.gpc, gop := r.gopW.getD l.gop }
  match r.npcW with
  | some pc =>
    if r.cmd.isNone && targetOk s b (pc - bodyStart s b).toNat && pc ≠ l.npc then { l with npc := pc, hold := .none, once := false }
    else l
  | none => l

/-- R352: a lane resumed by ACT 0 with its NOFF and GPC unchanged skips its next check; one resumed at another GPC checks normally. -/
def setOnce (s : State) (b : Block) (q : StopSlot) (old : Group) (r : TrapRec) (i : Nat) (l : Lane) : Lane :=
  if r.act = 0 && (r.src = 1 || r.lane = i) && noffOf s b l = q.noffs.getD i 0 && l.gpc = (old.lane i).gpc then
    { l with once := true }
  else if l.gpc ≠ (old.lane i).gpc then { l with once := false }
  else l

/-- R353: the lanes that a stepping mode lets issue one instruction. -/
def stepSet (g : Group) (mode : BitVec 2) (lane : Nat) : BitVec 32 :=
  match mode.toNat with
  | 1 => lanesMask (g.live.filter fun i => (g.lane i).npc = (g.lane lane).npc)
  | 2 => lanesMask g.live
  | _ => 0

/-- A resumed group is in no list of arrivals or waits that a handler has moved its lanes away from. -/
def forgetHolds (s : State) (blk grp : Nat) : State :=
  match blockOf s blk, groupOf s blk grp with
  | some b, some g =>
    let has := fun (f : Hold → Bool) => g.live.any fun i => f (g.lane i).hold
    let mig := has fun h => match h with
      | .mig _ => true
      | _ => false
    let latch := has fun h => match h with
      | .latch _ => true
      | _ => false
    let rega := has fun h => match h with
      | .rega _ => true
      | _ => false
    let s := modBlock s blk fun b =>
      { b with
        rdv := b.rdv.bind fun r =>
          let left := r.arrived.filter fun k => k ≠ grp || mig
          if left.isEmpty then none else some (if left.length = r.arrived.length then r else { r with arrived := left, ready := false, target := none })
        latch := b.latch.filter fun e => e.grp ≠ grp || latch }
    modCore s b.core fun c => { c with regaQueue := c.regaQueue.filter fun r => !(r.blk = blk && r.grp = grp) || rega }
  | _, _ => s

/-- R341, R376, R383: a resumed group stops again with the records raised since its image was written, but for those of lanes that have
ended or that the handler has sent elsewhere. -/
def leftRecs (more : Option (List TrapRec)) (ends : List Nat) (g : Group) : Group :=
  let left := (more.getD []).filter fun r =>
    r.src ≠ 0 || ((g.lane r.lane).live && (g.lane r.lane).npc = r.npc && !ends.contains r.lane)
  if left.isEmpty then g else g.addRecs left

/-- R347 to R353: a stopped group resumes with ACT 0 or 1. Of a group that has migrated meanwhile, the registers of both budgets are
reloaded, by their numbers. DESIGN CHOICE, log 145. -/
def resume (s : State) (b : Block) (q : StopSlot) (pl : Place) : State :=
  match groupOf s q.blk q.grp with
  | none => s
  | some old =>
    let nl := min q.nl (8 * old.budget)
    let at' := imageAt s b.core pl
    let one := fun i (l : Lane) =>
      let l := reloadLane s b q pl nl i ((q.recs.filter fun r => r.lane = i).any fun r => (wrongPc s b r).isSome) l
      let l := (q.recs.filter fun r => r.lane = i).foldl (applyRec s b) l
      if l.live then q.recs.foldl (fun l r => setOnce s b q old r i l) l else l
    let mode := q.recs.foldl (fun m r => if m.toNat < r.stepMode.toNat then r.stepMode else m) 0
    let lane := ((q.recs.filter fun r => r.stepMode = 1).map TrapRec.lane).min?.getD 0
    let ends := (q.recs.filter fun r => r.act = 1 && (old.lane r.lane).live).map TrapRec.lane
    let s := modGroup s q.blk q.grp fun g =>
      let g :=
        { g with
          stop := none
          ureg := ((List.range 64).map fun k => (k, BitVec.ofNat 64 (at' (0x240 + 8 * k) 8))).filter fun r => r.2 ≠ 0
          upred := BitVec.ofNat 7 (at' 4 1)
          lanes := g.lanes.mapIdx one }
      let pooled := lanesMask (g.live.filter fun i => (g.lane i).hold = .pool)
      leftRecs (old.stop.map Stop.more) ends
        { g with stepMode := mode, stepLane := lane, stepLanes := stepSet g mode lane, stepPool := pooled }
    let s := healRegs (forgetHolds s q.blk q.grp) q.blk q.grp nl
    let wrong := q.recs.filterMap fun r => (wrongPc s b r).map fun pc => (r.lane, { cause := 0x08, addr := pc, info := 4 : Trap })
    let s := trapLanes s q.blk q.grp false (wrong.filter fun t => !ends.contains t.1 && (old.lane t.1).live)
    if ends.isEmpty then checkRound s q.blk else exitBy s b q.grp ends

/-- R349: every record of a stop has been returned. -/
def StopSlot.allBack (q : StopSlot) : Bool := q.recs.all TrapRec.returned

/-- R349: the stopped group of a stop leaves it, its block resident, or its image in the place of it. -/
def leaveStop (s : State) (p c : Nat) (q : StopSlot) : State :=
  match blockOf s q.blk, groupOf s q.blk q.grp with
  | some b, some g =>
    let act := q.recs.foldl (fun m r => max m r.act.toNat) 0
    if (g.stop.bind Stop.slot) ≠ some q.slot then s
    else if act = 3 then killBlock s q.blk
    else if act = 2 then killGroup s q.blk q.grp
    else match supervisorOf s p c with
      | none => killBlock s q.blk
      | some v => match imagePlace s p c b.core q.slot v with
        | (s, .ok pl) =>
          if placePoisoned s pl (sectionBytes q.nl + 256) then
            (match pl with
              | .phys pa => uncontained s p c (memoryUnit pa) (BitVec.ofNat 64 pa)
              | _ => uncontained s p c (memoryUnit 0) 0)
          else resume s b q pl
        | (s, .error (.foreign t)) => isolate s p b.core t
        | (s, .error _) => killBlock s q.blk
  | _, _ => s

/-- R349, R371: once every record of a stop has been returned, its slot is free, and its group leaves the stop. -/
def finishStop (s : State) (p c slot : Nat) : State :=
  match stopOf s p c slot with
  | none => s
  | some q => if q.allBack then withParked (dropStop s p c slot) p q.blk fun s => leaveStop s p c q else s

/-- R349: a handler's record is returned. -/
def returnRec (s : State) (p c slot k : Nat) : State :=
  modCtx s p c fun x => { x with stops := x.stops.map fun q =>
    if q.slot = slot then { q with recs := q.recs.modify k fun r => { r with returned := true } } else q }

/-! ### The instructions -/

/-- R349, R397: `usys.rti`. -/
def execUsysRti (x : UExt) (s : State) : Out :=
  uniform x (privileged fun p s => match p.b.origin with
    | .handler slot k =>
      if familyBroken s p.g then closeTrap s p
      else
        let s := killGroup s p.iss.blk p.iss.grp
        .stay (finishStop (returnRec s p.b.part p.b.ctx slot k) p.b.part p.b.ctx slot)
    | .notice _ => if familyBroken s p.g then closeTrap s p else .stay (killGroup s p.iss.blk p.iss.grp)
    | _ => .stay (exitPath {} p s)) s

/-- R341: STOP_IMAGE_WRITE. -/
def execStopImageWrite (blk : Nat) (grp : Nat) (s : State) : Out := .next (deliverStop s blk grp)

end Sys2Proof.Machine
end

