-- ==== Sys2Proof/Machine/System.lean ====
section
/-! DEFINITION. Meanings of `sysr`, `sysw` and `perf` (R299, R300, R331 to R338, R397, R398), with the trap registers (Tables 19-3
and 19-4) and the sampling ring (Tables 18-1 and 18-2). -/

namespace Sys2Proof.Machine

open Sys2Proof

/-! ### Trap registers -/

/-- The record that a handler group serves, its stop slot and the number of records of its stop. -/
def servedRec (s : State) (b : Block) : Option (TrapRec × Nat × Nat) :=
  match b.origin with
  | .handler slot k => (stopOf s b.part b.ctx slot).bind fun q => (q.recs[k]?).map fun r => (r, slot, q.recs.length)
  | .notice r => some (r, 0, 1)
  | _ => none

/-- The record that a handler serves, changed. -/
def modServed (s : State) (b : Block) (f : TrapRec → TrapRec) : State :=
  match b.origin with
  | .handler slot k =>
    modCtx s b.part b.ctx fun x => { x with stops := x.stops.map fun q =>
      if q.slot = slot then { q with recs := q.recs.modify k f } else q }
  | .notice _ => modBlock s b.id fun b => { b with origin := match b.origin with
      | .notice r => .notice (f r)
      | o => o }
  | _ => s

/-- Table 19-3: TRAP_CAUSE. -/
def trapCause (r : TrapRec) (slot nrec : Nat) : DWord :=
  BitVec.ofNat 64 (slot * 2 ^ 56 + r.core * 2 ^ 40 + nrec * 2 ^ 32 + r.lane * 2 ^ 24 + r.src * 2 ^ 17 + r.rg.toNat * 2 ^ 16 +
    r.lbody.toNat * 2 ^ 15 + r.xk * 2 ^ 13 + r.stepMode.toNat * 2 ^ 10 + r.act.toNat * 2 ^ 8 + r.cause)

/-- Table 19-4: TRAP_TID. -/
def trapTid (r : TrapRec) : DWord :=
  BitVec.ofNat 64 (r.block % 2 ^ 32 * 2 ^ 32 + r.launch * 2 ^ 24 + r.grp * 2 ^ 16 + r.tid.toNat)

/-- System registers 0x041 to 0x048: a level-1 group that is no handler reads them as zero. -/
def trapReg (s : State) (b : Block) (num : Nat) : DWord :=
  match servedRec s b with
  | none => 0
  | some (r, slot, nrec) => match num with
    | 0x041 => trapCause r slot nrec
    | 0x042 => r.npcW.getD r.npc
    | 0x043 => r.xpc
    | 0x044 => r.gpcW.getD r.gpc
    | 0x045 => (r.gopW.getD r.gop).setWidth 64
    | 0x046 => trapTid r
    | 0x047 => r.addr
    | _ => r.info

/-- R348: a write of a trap register by a handler: ACT and STEP_MODE, TRAP_NPC but for a command's record (R376), TRAP_GPC and
TRAP_GOP; the rest is RO. -/
def TrapRec.write (r : TrapRec) (num : Nat) (v : DWord) : TrapRec :=
  match num with
  | 0x041 => { r with stepMode := v.extractLsb' 10 2, act := v.extractLsb' 8 2 }
  | 0x042 => if r.cmd.isSome then r else { r with npcW := some v }
  | 0x044 => { r with gpcW := some v }
  | 0x045 => { r with gopW := some (v.setWidth 8) }
  | _ => r

/-! ### System registers -/

/-- Table 13-4: the system registers' numbers. -/
def isSysReg (n : Nat) : Bool :=
  (0x010 ≤ n && n ≤ 0x013) || n = 0x020 || (0x030 ≤ n && n ≤ 0x032) || (0x034 ≤ n && n ≤ 0x037) || (0x040 ≤ n && n ≤ 0x048) ||
    n = 0x060 || n = 0x070 || n = 0x071 || n = 0x080 || (0x090 ≤ n && n ≤ 0x09F)

/-- R397: registers that level 0 may not read. -/
def readNeedsOne (n : Nat) : Bool := (0x040 ≤ n && n ≤ 0x048) || (0x090 ≤ n && n ≤ 0x09F)

/-- R397: the level that a write needs; level 2 never runs on a core. -/
def writeLevel (n : Nat) : Nat := if n = 0x060 || n = 0x071 then 2 else if 0x030 ≤ n && n ≤ 0x032 then 0 else 1

/-- R299: the value of a system register. -/
def readSys (s : State) (p : Path) (n : Nat) : DWord :=
  let c := ctxOf s p.b.part p.b.ctx
  match n with
  | 0x010 => c.quantum.setWidth 64
  | 0x011 => c.leaseCap.setWidth 64
  | 0x012 => c.grgWait.setWidth 64
  | 0x013 => c.migLive
  | 0x020 => c.ageSteal.setWidth 64
  | 0x030 => p.g.gcb
  | 0x031 => p.g.ght
  | 0x032 => p.g.grgMode.setWidth 64
  | 0x040 => c.trapVec
  | 0x060 => ptimeOf s
  | 0x070 => c.split.setWidth 64
  | 0x071 => c.splitLimit.setWidth 64
  | 0x080 => c.bfqWait.setWidth 64
  | n =>
    if 0x034 ≤ n && n ≤ 0x037 then c.gbp.getD (n - 0x034) 0
    else if 0x090 ≤ n then c.trc.getD (n - 0x090) 0
    else trapReg s p.b n

/-- R398: a value that is stored as 1 when it is 0. -/
def atLeastOne (v : BitVec 8) : BitVec 8 := if v = 0 then 1 else v

/-- R384: a SPLIT value breaks R114 for a class. -/
def splitBad (c : Ctx) (v : DWord) : Bool :=
  !splitOk c.splitLimit false 48 (bits v.toNat 0 8, bits v.toNat 8 8) ||
    !splitOk c.splitLimit true 64 (bits v.toNat 16 8, bits v.toNat 24 8)

/-- R7, R299: a partition-scope register written; reserved bits are ignored. -/
def Ctx.writeSys (c : Ctx) (n : Nat) (v : DWord) : Ctx :=
  match n with
  | 0x010 => { c with quantum := atLeastOne (v.setWidth 8) }
  | 0x011 => { c with leaseCap := atLeastOne (v.setWidth 8) }
  | 0x012 => { c with grgWait := v.setWidth 16 }
  | 0x013 => { c with migLive := v &&& 0x8000000007FF07FF }
  | 0x020 => { c with ageSteal := v.setWidth 20 }
  | 0x040 => { c with trapVec := v &&& 0xFFFFFFFFFFFF0FFF }
  | 0x070 => { c with split := v.setWidth 32 }
  | 0x080 => { c with bfqWait := v.setWidth 20 }
  | n =>
    if 0x034 ≤ n && n ≤ 0x037 then { c with gbp := c.gbp.set (n - 0x034) (v &&& 0x81FFFFFFFFFFFFFF) }
    else if 0x090 ≤ n && n ≤ 0x09F then { c with trc := c.trc.set (n - 0x090) (v &&& 0x000FFFFFFFFFF001) }
    else c

/-- R398: the values that raise RESERVED_FIELD. -/
def sysValueBad (s : State) (p : Path) (n : Nat) (v : DWord) : Bool :=
  (n = 0x032 && bits v.toNat 0 2 = 3) || (n = 0x041 && (servedRec s p.b).isSome && bits v.toNat 10 2 = 3) ||
    (n = 0x070 && splitBad (ctxOf s p.b.part p.b.ctx) v)

/-- R299, R398: a system register written. -/
def writeSys (s : State) (p : Path) (n : Nat) (v : DWord) : State :=
  match n with
  | 0x030 => pathGroup s p fun g => { g with gcb := v }
  | 0x031 => pathGroup s p fun g => { g with ght := v &&& 0xFFFFFFFFFFFFF800 }
  | 0x032 => pathGroup s p fun g => { g with grgMode := v.setWidth 2 }
  | n =>
    if 0x041 ≤ n && n ≤ 0x048 then modServed s p.b fun r => r.write n v
    else modCtx s p.b.part p.b.ctx fun c => c.writeSys n v

/-! ### The sampling ring -/

/-- Table 18-2: a sample or marker record. -/
structure RingRec where
  time : DWord
  noff : Nat
  core : Nat
  gslot : Nat
  flags : Nat
  part : Nat
  ctx : Nat
  launch : Nat
  live : BitVec 32
  value : DWord
  deriving DecidableEq, Repr

/-- Table 18-2: its 32 bytes. -/
def RingRec.bytes (r : RingRec) : List Byte :=
  leBytes 8 r.time.toNat ++ leBytes 4 r.noff ++ leBytes 2 r.core ++ leBytes 1 r.gslot ++ leBytes 1 r.flags ++ leBytes 1 r.part ++
    leBytes 1 r.ctx ++ leBytes 1 r.launch ++ [0] ++ leBytes 4 r.live.toNat ++ leBytes 8 r.value.toNat

/-- R333: the group slot of a group: 12 (or 16) times its sub-core, and its place there, active groups first. -/
def gslotOf (s : State) (core blk grp : Nat) : Nat :=
  match groupOf s blk grp with
  | none => 0
  | some g =>
    let mine := (residents s core).filter fun r => r.2.2.1 = g.sub
    let order := (mine.filter fun r => r.2.2.2) ++ mine.filter fun r => !r.2.2.2
    Config.groupsPerSub core * g.sub + order.findIdx fun r => r.1 = blk && r.2.1 = grp

/-- R334, R335: a record goes into the next slot of the ring when both its granules are empty; otherwise it is dropped and
counted. -/
def putRecord (s : State) (p c : Nat) (r : RingRec) : State :=
  let drop := bumpCounter s p c 63 1
  let sm := (ctxOf s p c).sampling
  match sm.ring with
  | none => drop
  | some (base, n) => match dspAddr (partOf s p).desc (base + 32 * (sm.widx % n)) 32 with
    | none => drop
    | some a =>
      if isFull s .dsp (a / 16) || isFull s .dsp (a / 16 + 1) then drop
      else engineLocal (modCtx s p c fun x => { x with sampling := { x.sampling with widx := x.sampling.widx + 1 } }) (.dsp a) false r.bytes

/-- Table 18-1: the ring that a descriptor of 16 bytes gives, when it keeps the limits. -/
def ringOf (d : Desc) (bs : List Byte) : Option (Nat × Nat) :=
  let base := fieldAt bs 0 4
  let n := fieldAt bs 4 4
  if base % 32 = 0 && 16 ≤ n && n ≤ 65536 && n = 2 ^ Nat.log2 n && (dspAddr d base (32 * n)).isSome then some (base, n) else none

/-- R332: `perf.sample` with an interval that is not 0. -/
def startSampling (s : State) (p : Path) (i desc : Nat) : UEnd :=
  let d := (partOf s p.b.part).desc
  match if desc % 16 = 0 then dspAddr d desc 16 else none with
  | none => .trap s (outTrap 3 desc)
  | some a => match ringOf d (readPlace s p.b.core 0 (.dsp a) 16) with
    | none => .trap s (outTrap 3 desc)
    | some ring =>
      if placePoisoned s (.dsp a) 16 then .trap s (poisonTrap desc)
      else .done (modCtx s p.b.part p.b.ctx fun x =>
        { x with sampling := { interval := max i 4096, ring := some ring, widx := 0 } })

/-- R337: the event codes of Table 18-4. -/
def isEventCode (n : Nat) : Bool :=
  n ≤ 0x005 || (0x010 ≤ n && n ≤ 0x01F) || n = 0x020 || (0x030 ≤ n && n ≤ 0x036) || (0x040 ≤ n && n ≤ 0x042) ||
    (0x050 ≤ n && n ≤ 0x054) || n = 0x070 || n = 0x071

/-! ### The instructions -/

/-- R299: `sysr`. -/
def execSysr (d : BitVec 6) (num : BitVec 12) (x : UExt) (s : State) : Out :=
  uniform x (fun p s =>
    let n := num.toNat
    if !isSysReg n then .trap s (wordTrap p 0x05)
    else if readNeedsOne n && !p.b.level1 then .trap s (wordTrap p 0x03)
    else .done (pathGroup s p fun g => g.udst d.toNat (readSys s p n))) s

/-- R299: `sysw`. -/
def execSysw (a : BitVec 6) (num : BitVec 12) (x : UExt) (s : State) : Out :=
  uniform x (fun p s =>
    let n := num.toNat
    let v := p.g.usrc a.toNat
    if !isSysReg n then .trap s (wordTrap p 0x05)
    else if p.b.level1.toNat < writeLevel n then .trap s (wordTrap p 0x03)
    else if sysValueBad s p n v then .trap s (wordTrap p 0x02)
    else .done (writeSys s p n v)) s

/-- R300, R338: `perf.rd`; counters of shared units read 0. -/
def execPerfRd (d : BitVec 6) (a : BitVec 6) (x : UExt) (s : State) : Out :=
  uniform x (fun p s =>
    let k := (p.g.usrc a.toNat).toNat % 64
    let c := ctxOf s p.b.part p.b.ctx
    let e := cget 0 c.sels k
    .done (pathGroup s p fun g =>
      g.udst d.toNat (if e = 0x070 || e = 0x071 then 0 else (cget 0 c.counters k).setWidth 64))) s

/-- R300, R337: `perf.sel`. -/
def execPerfSel (a : BitVec 6) (b : BitVec 6) (x : UExt) (s : State) : Out :=
  uniform x (fun p s =>
    let k := (p.g.usrc a.toNat).toNat % 64
    let v := (p.g.usrc b.toNat).toNat
    if 62 ≤ k || !isEventCode (bits v 0 12) then .trap s (wordTrap p 0x05)
    else .done (modCtx s p.b.part p.b.ctx fun c =>
      { c with
        sels := cput 0 c.sels k (bits v 0 12)
        armed := if bits v 15 1 = 1 then sinsert c.armed k else sremove c.armed k
        former := cset c.former k (s.clk, cget 0 c.sels k, c.armed.contains k) })) s

/-- R335: `perf.mark`. -/
def execPerfMark (a : BitVec 6) (x : UExt) (s : State) : Out :=
  uniform x (fun p s => .done (putRecord s p.b.part p.b.ctx
    { time := ptimeOf s, noff := (p.iss.pc - bodyStart s p.b).toNat % 2 ^ 32, core := p.b.core
      gslot := gslotOf s p.b.core p.iss.blk p.iss.grp, flags := 0x80 + (if p.b.lbody then 0x40 else 0), part := p.b.part
      ctx := p.b.ctx, launch := p.b.launch, live := lanesMask p.lanes, value := p.g.usrc a.toNat })) s

/-- R332: `perf.sample`. -/
def execPerfSample (a : BitVec 6) (x : UExt) (s : State) : Out :=
  uniform x (fun p s =>
    let v := (p.g.usrc a.toNat).toNat
    if bits v 0 32 = 0 then
      .done (modCtx s p.b.part p.b.ctx fun c => { c with sampling := { c.sampling with interval := 0 } })
    else startSampling s p (bits v 0 32) (bits v 32 32)) s

end Sys2Proof.Machine
end

