-- ==== Sys2Proof/Machine/Bfq.lean ====
section
/-! DEFINITION. The batch-forming queue (R98 to R102, R294, R386): binding, joining, closing, writing back and releasing; and the
report of a fault of a command under way (R376). -/

namespace Sys2Proof.Machine

open Sys2Proof

/-! ### Faults of commands under way -/

/-- R376: TRAP_INFO of a command's fault. -/
def commandInfo (major : Nat) (t : Trap) : DWord := BitVec.ofNat 64 (2 ^ 63 + major * 2 ^ 57 + t.info.toNat % 256)

/-- A block wherever it is: resident, or in an image of its context (R361, R387). -/
def anyBlock (s : State) (p c blk : Nat) : Option Block :=
  let images := ((ctxOf s p c).saved.map fun v => v.blocks ++ v.resume).getD []
  (s.blocks ++ (partOf s p).resume ++ images).find? fun b => b.id = blk

/-- The images of a context with one block changed. -/
def Saved.modBlock (v : Saved) (f : Block → Block) : Saved := { v with blocks := v.blocks.map f, resume := v.resume.map f }

/-- The state with one block changed, wherever it is. -/
def modAnyBlock (s : State) (p blk : Nat) (f : Block → Block) : State :=
  let one := fun (b : Block) => if b.id = blk then f b else b
  modPart { s with blocks := s.blocks.map one } p fun q =>
    { q with
      resume := q.resume.map one
      ctxs := q.ctxs.map fun x => (x.1, { x.2 with saved := x.2.saved.map fun v => v.modBlock one }) }

/-- R376: a fault of a command stops its group, or the lowest live group of its block; with the block ended it is a notice. -/
def reportFault (s : State) (p c blk grp core major : Nat) (pc : DWord) (cmd : Nat) (t : Trap) : State :=
  let t := { t with info := commandInfo major t }
  let notice := modCtx s p c fun x => { x with notices := x.notices ++ [(core, commandNotice t pc (some cmd))] }
  match anyBlock s p c blk with
  | none => notice
  | some b =>
    let live := b.liveGroups
    match if live.contains grp then some grp else live.head? with
    | none => notice
    | some k => match b.group k with
      | some g =>
        let r := cmdRec s b k g pc (some cmd) t
        modAnyBlock s p blk fun b => b.modGroup k fun g => g.addRecs [r]
      | none => notice

/-! ### Rows -/

/-- The context of a binding by its package number. -/
def bfqOf (s : State) (unit : Nat) : Option Bfq := cfind s.bfqs unit

/-- The state with one binding changed. -/
def modBfq (s : State) (unit : Nat) (f : Bfq → Bfq) : State :=
  match bfqOf s unit with
  | some q => { s with bfqs := cset s.bfqs unit (f q) }
  | none => s

/-- The first `n` pieces of 16 bytes of a command's work from offset `o` on, done one after another. -/
def copyRun (s : State) (c : Cmd) (o : Nat) : Nat → State × Except NoAccess Unit
  | 0 => (s, .ok ())
  | n + 1 => match putPiece s c o with
    | (s, .error e) => (s, .error e)
    | (s, .ok _) => copyRun s c (o + 16) n

/-- R376, R410: what follows when a row cannot be copied. -/
def rowFault (s : State) (unit cmd : Nat) (r : BfqRow) : NoAccess → State
  | .trap t => reportFault s r.part r.ctx r.blk r.grp r.core 0x18 r.pc cmd t
  | .foreign t => isolateEngine s r.part unit t
  | .wait => s

/-- The pairs of a binding that hold a row of a sequence. -/
def Bfq.holds (q : Bfq) (sequence : Word) : Bool := q.pairs.any fun p => p.rows.any fun r => r.sequence = sequence

/-- R98: pair `k` of a binding. -/
def Bfq.pair (q : Bfq) (k : Nat) : Option BfqPair := q.pairs[k]?

/-- R98, R100: a pair that gathering may go on in. -/
def BfqPair.free (p : BfqPair) : Bool := !p.closed && p.rows.isEmpty

/-- The granules of a staging tile set or cleared. -/
def setStaging (s : State) (q : Bfq) (h : Word) (v : Bool) : State :=
  match tileOf s q.part q.ctx h with
  | some t => setFulls s t.space t.granules v
  | none => s

/-- R132: a byte of a joined row that some thread has written since is read with either value: with that of the row's admission, or with
that of its batch's close, as a free value has it. DESIGN CHOICE, log 15. -/
def rereadRow (q : Bfq) (p : BfqPair) (s : State) (e : Nat × BfqRow) : State :=
  (List.range (q.ra / 16)).foldl (fun s k =>
    let at' := EngAddr.tile p.act (e.1 * q.ra + 16 * k)
    let c := e.2.source at'
    match engineRead s c at' 16, readPiece s c (16 * k) with
    | (_, .ok (old, bad)), (t, .ok (new, bad')) =>
      let draw := ((s.tick * 2 ^ 32 + p.act.toNat) * 64 + e.1) * 2 ^ 14 + 16 * k
      let bs := (List.range 16).map fun j => (if Config.rereads (draw + j) then new else old).getD j 0
      (engineWrite t c (bad || bad') at' bs).1
    | _, _ => s) s

/-- R100: the gathering batch of a context closes: its activation tile is full and its phase record is placed. -/
def closeBatch (s : State) (unit : Nat) : State :=
  match bfqOf s unit with
  | none => s
  | some q => match q.gathering, q.gathering.bind q.pair with
    | some k, some p =>
      if p.rows.isEmpty then s
      else
        let s := countEvent s q.part q.ctx 0x042 1
        let s := modBfq s unit fun q =>
          { q with
            pairs := q.pairs.modify k fun p => { p with closed := true }
            gathering := if ((q.pair (1 - k)).map BfqPair.free).getD false then some (1 - k) else none }
        let s := (p.rows.mapIdx fun j r => (j, r)).foldl (rereadRow q p) s
        let s := setStaging s q p.act true
        let r : TaskRec :=
          { id := 0, part := q.part, ctx := q.ctx, launch := q.launch, node := q.node, ver := q.ver, entry := q.entry,
            prio := q.prio, kind := .phase [p.act] [p.res], live := BitVec.allOnes 32, made := q.core, carry := []
            us := [BitVec.ofNat 64 p.rows.length, q.weight.setWidth 64, p.res ++ p.act, 0] }
        feRetry (addRec s r)
    | _, _ => s

/-- R99: a row is admitted to the gathering pair: copied to its next free row; the 64th closes the batch. A row that cannot be
read is dropped, and reported. -/
def admitRow (s : State) (unit : Nat) (r : BfqRow) : State × Option NoAccess :=
  match (bfqOf s unit).bind fun q => q.gathering.bind fun k => (q.pair k).map fun p => (q, k, p) with
  | none => (s, none)
  | some (q, k, p) =>
    match copyRun s (r.source (.tile p.act (p.rows.length * q.ra))) 0 (q.ra / 16) with
    | (_, .error .wait) => (s, some .wait)
    | (t, .error e) => (rowFault t unit 0 r e, some e)
    | (t, .ok _) =>
      let t := countDie t q.part ((unit - 32) / 4) 0 0 q.ra
      let t := modBfq t unit fun q =>
        { q with pairs := q.pairs.modify k fun p =>
            if p.rows.isEmpty then { p with rows := [r], start := t.clk, waited := 0 } else { p with rows := p.rows ++ [r] } }
      (if p.rows.length + 1 = 64 then closeBatch t unit else t, none)

/-- R99: the held rows, in the order received, that their sequences now allow are admitted. -/
def admitHeld (unit : Nat) (s : State) (r : BfqRow) : State :=
  match bfqOf s unit with
  | none => s
  | some q =>
    if q.holds r.sequence || q.gathering.isNone then s
    else match admitRow s unit r with
      | (s, some .wait) => s
      | (s, _) => modBfq s unit fun q => { q with held := q.held.erase r }

/-! ### Release -/

/-- R102: nothing of a binding is left to be written back. -/
def Bfq.idle (q : Bfq) : Bool := q.held.isEmpty && q.pairs.all BfqPair.free

/-- R98, R294: the binding is released: its four slots are retired, and the paths that wait for the context go on. -/
def releaseBfq (s : State) (unit : Nat) (q : Bfq) : State :=
  let hs := q.pairs.flatMap fun p => [p.act, p.res]
  let s := { s with bfqs := cdel s.bfqs unit }
  let s := settleFamilies (hs.foldl (fun s h => retireHandle s q.part q.ctx h) s)
  mapLanes (wakeRetry s (fun _ => true) .bfq) fun _ _ _ l => match l.hold with
    | .unbind u next => if u = unit then l.advance next |> fun l => { l with hold := .none } else l
    | _ => l

/-- R102, R294: the release goes on: what is held or gathering is closed, and an idle binding is released. -/
def pressRelease (s : State) (unit : Nat) : State :=
  let s := closeBatch s unit
  match bfqOf s unit with
  | some q => if q.releasing && q.idle then releaseBfq s unit q else s
  | none => s

/-- R102, R294: the release of a binding begins. -/
def beginRelease (s : State) (unit : Nat) : State := pressRelease (modBfq s unit fun q => { q with releasing := true }) unit

/-- R99, R102: what a binding holds is tried again, and its release, when one waits, goes on with what that admitted or dropped. -/
def retryHeld (s : State) (unit : Nat) : State :=
  match bfqOf s unit with
  | none => s
  | some q =>
    let s := q.held.foldl (admitHeld unit) s
    if q.releasing then pressRelease s unit else s

/-! ### Write-back -/

/-- R100: a batch began no later than another. -/
def BfqPair.first (p q : BfqPair) : Bool := p.start + q.waited ≤ q.start + p.waited

/-- R100: a closed pair whose result tile reads FULL, the batch that began first coming first. DESIGN CHOICE, log 144. -/
def Bfq.ready (s : State) (q : Bfq) : Option (Nat × BfqPair) :=
  let full := fun (p : BfqPair) => p.closed && (tileOf s q.part q.ctx p.res).any fun t => t.summary s = 2
  let ok := (q.pairs.mapIdx fun k p => (k, p)).filter fun e => full e.2
  ok.find? fun e => ok.all fun f => e.2.first f.2

/-- R100, R410: while its context is not frozen, result row `j` goes to its row's address, and RB is added to its slot. -/
def writeRow (unit : Nat) (q : Bfq) (p : BfqPair) (s : State) (e : Nat × BfqRow) : State :=
  if s.frozenEngs.contains unit then s
  else
    let id := s.fresh
    let s := { s with fresh := id + 1 }
    match copyRun s (e.2.cmd id (.tile p.res (e.1 * q.rb)) (.global e.2.res)) 0 (q.rb / 16) with
    | (s, .ok _) => countDie (addBytes s e.2.key q.rb id) q.part ((unit - 32) / 4) 0 0 q.rb
    | (s, .error n) => rowFault s unit id e.2 n

/-- R412, R413: the page at an address waits for a link. -/
def pageWaits (s : State) (r : BfqRow) (va : DWord) : Bool :=
  match globalPlace s (r.source (.global va)).who .write va (drawOf s 102 0) with
  | (_, .error .wait) => true
  | _ => false

/-- R412, R413: a page of some result row waits for a link: a row lies in one page or two, as long as a page is. -/
def rowsWait (s : State) (rb : Nat) (rows : List BfqRow) : Bool :=
  rows.any fun r => pageWaits s r r.res || pageWaits s r (r.res + BitVec.ofNat 64 (rb - 1))

/-- R100: the results of a full pair are written back, and both its tiles are empty. -/
def writeBack (s : State) (unit : Nat) : State :=
  match bfqOf s unit with
  | none => s
  | some q => match q.ready s with
    | none => s
    | some (k, p) =>
      if rowsWait s q.rb p.rows then s
      else
        let s := (p.rows.mapIdx fun j r => (j, r)).foldl (writeRow unit q p) s
        let s := setStaging (setStaging s q p.act false) q p.res false
        let s := modBfq s unit fun q =>
          { q with
            pairs := q.pairs.modify k fun p => { p with rows := [], closed := false, start := 0, waited := 0 }
            gathering := some (q.gathering.getD k) }
        retryHeld (wakeRetry (feRetry s) (fun _ => true) .bfq) unit

/-! ### Binding -/

/-- R98: the low part of a die's window, as byte addresses in the package. -/
def lowPart (d : Desc) (die : Nat) : Nat × Nat :=
  let b := die * 2 ^ 25 + (d.dspw[die]?.getD (0, 0)).1 * 2 ^ 20
  (b, b + d.dspr[die]?.getD 0 * 2 ^ 20)

/-- The staging tiles of a partition's bindings: base and size. -/
def stagingTiles (s : State) (p : Nat) : List (Nat × Nat) :=
  let saved := (partOf s p).ctxs.flatMap fun c => ((c.2.saved.map Saved.bfqs).getD [])
  (s.bfqs ++ saved).flatMap fun e => if e.2.part = p then
      (e.2.pairs.flatMap fun q => [q.act, q.res]).filterMap fun h => (tileOf s e.2.part e.2.ctx h).map fun t => (t.base, t.size)
    else []

/-- The lowest place of `n` bytes in a range, clear of the runs used. -/
def findLow (used : List (Nat × Nat)) (r : Nat × Nat) (n : Nat) : Option Nat :=
  let ok := (r.1 :: used.map fun u => u.1 + u.2).filter fun k =>
    r.1 ≤ k && k + n ≤ r.2 && used.all fun u => k + n ≤ u.1 || u.1 + u.2 ≤ k
  ok.min?

/-- Places for tiles of the sizes given, one after another. -/
def placeTiles (r : Nat × Nat) : List (Nat × Nat) → List Nat → Option (List (Nat × Nat))
  | _, [] => some []
  | used, n :: ns => (findLow used r n).bind fun k => (placeTiles r (used ++ [(k, n)]) ns).map fun l => (k, n) :: l

/-- R98, R126: staging tiles take slots: their handles. -/
def takeStaging (s : State) (p c : Nat) : List (Nat × Nat) → State × List Word
  | [] => (s, [])
  | (b, n) :: ts =>
    let r := allocHandle s p c (.tile .dsp b n true)
    let q := takeStaging r.1 p c ts
    (q.1, r.2.getD 0 :: q.2)

/-- Four more slots of a handle table can be issued (R127). -/
def fourSlots (s : State) (p c : Nat) : Bool :=
  match takeStaging s p c [(0, 16), (0, 16), (0, 16), (0, 16)] with
  | (_, hs) => hs.all fun h => h ≠ 0

/-- R98, R386: the places of a binding's four staging tiles, when there are slots and room: lowest first, in all of the low part of the
window of the context's die. DESIGN CHOICE, log 144. -/
def stagingRoom (s : State) (p : Path) (unit ra rb : Nat) : Option (List (Nat × Nat)) :=
  let d := (partOf s p.b.part).desc
  if !fourSlots s p.b.part p.b.ctx then none
  else placeTiles (lowPart d ((unit - 32) / 4)) (stagingTiles s p.b.part) [64 * ra, 64 * rb, 64 * ra, 64 * rb]

/-- R98: a context is bound, its tiles empty. The records of a binding that a handler's group makes have the handler's PRIO. DESIGN CHOICE,
log 39. -/
def bindBfq (s : State) (p : Path) (unit : Nat) (weight : Word) (entry ra rb : Nat) (places : List (Nat × Nat)) : State :=
  let r := takeStaging s p.b.part p.b.ctx places
  let h := fun k => r.2.getD k 0
  let q : Bfq :=
    { part := p.b.part, ctx := p.b.ctx, launch := p.b.launch, node := p.b.node, ver := p.b.ver, core := p.b.core,
      prio := p.b.prio, weight := weight, entry := entry, ra := ra, rb := rb, gathering := some 0
      pairs := [{ act := h 0, res := h 1 }, { act := h 2, res := h 3 }] }
  r.2.foldl (fun s h => setStaging s q h false) { r.1 with bfqs := cset r.1.bfqs unit q }

/-- R402: the context that a `bfq` instruction names, when the partition owns it. -/
def bfqUnit (s : State) (p : Path) (v : DWord) : Option Nat :=
  let u := bits v.toNat 32 8
  if 32 ≤ u && u ≤ 47 && (partOf s p.b.part).desc.eng.contains u then some u else none

/-- R386: HANDLE_STALE of a context that is not bound, or is. -/
def boundTrap : Trap := { cause := 0x38 }

/-- R98: a row geometry's row length is legal. -/
def rowBytesOk (n : Nat) : Bool := n ≠ 0 && n % 16 = 0 && n ≤ 16384

/-- R99: `bfq.join`, its checks made: the row is held for its sequence, waits for a pair, or is admitted. -/
def offerRow (s : State) (p : Path) (unit : Nat) (q : Bfq) (r : BfqRow) : UEnd :=
  if q.holds r.sequence || q.held.any fun k => k.sequence = r.sequence then
    .done (modBfq s unit fun q => { q with held := q.held ++ [r] })
  else if q.gathering.isNone then .stay (pathHold s p (.retry .bfq))
  else match admitRow (pathTo s p p.iss.next) unit r with
    | (_, some .wait) => .stay (pathHold s p (.retry .link))
    | (s, _) => .stay s

/-! ### The instructions -/

/-- R98, R294, R386: `bfq.bind`. -/
def execBfqBind (desc : BitVec 6) (addr : BitVec 6) (x : UExt) (s : State) : Out :=
  uniform x (fun p s =>
    let v := p.g.usrc addr.toNat
    let w := p.g.usrc desc.toNat
    let weight : Word := w.setWidth 32
    let entry := bits w.toNat 32 12
    let ra := bits v.toNat 0 16
    let rb := bits v.toNat 16 16
    match bfqUnit s p v with
    | none => .trap s (wordTrap p 0x05)
    | some u =>
      if !rowBytesOk ra || !rowBytesOk rb || ((versionOf s p.b.ver).bind fun v => v.entries[entry]?).isNone then
        .trap s (wordTrap p 0x02)
      else match stagingRoom s p u ra rb with
        | none => .trap s (outTrap 3 (128 * ra + 128 * rb))
        | some places =>
          if (bfqOf s u).isSome then .trap s boundTrap
          else if (objOf s p.b.part p.b.ctx weight).isNone then .trap s (staleTrap weight)
          else .done (bindBfq s p u weight entry ra rb places)) s

/-- R99, R294, R402: `bfq.join`, checked once, when it issues. One that is offered, or tries again, while a release waits is refused as to a
context that is not bound; the spec says so of the automatic release alone (R102). DESIGN CHOICE, log 144. -/
def execBfqJoin (desc : BitVec 6) (addr : BitVec 6) (slot : BitVec 4) (level : BitVec 2) (x : UExt) (s : State) : Out :=
  uniform x (fun p s =>
    let v := p.g.usrc addr.toNat
    let h : Word := v.setWidth 32
    let act := p.g.usrc desc.toNat
    let res := p.g.usrc (desc.toNat + 1)
    let w := whoOf s p.b
    match bfqUnit s p v with
    | none => .trap s (wordTrap p 0x05)
    | some u =>
      if !p.again && act.toNat % 16 ≠ 0 then .trap s (alignTrap act.toNat 16)
      else if !p.again && res.toNat % 16 ≠ 0 then .trap s (alignTrap res.toNat 16)
      else if !p.again && (level = 0 || level = 3) then .trap s (wordTrap p 0x05)
      else match (bfqOf s u).filter fun q => !q.releasing with
        | none => .trap s boundTrap
        | some q =>
          if !p.again && objOf s p.b.part p.b.ctx h ≠ some .seq then .trap s (staleTrap h)
          else if !p.g.stores.pend.isEmpty then .stay (pathHold s p (.retry .waitc))
          else offerRow s p u q
            { sequence := h, act := act, res := res, key := slotKey p level slot, part := w.part, ctx := w.ctx, trc := w.trc,
              level1 := w.level1, blk := p.iss.blk, grp := p.iss.grp, core := p.b.core, pc := p.iss.pc
              tids := p.lanes.map fun i => (p.g.lane i).tid }) s

/-- R294: `bfq.unbind`. -/
def execBfqUnbind (a : BitVec 6) (x : UExt) (s : State) : Out :=
  uniform x (fun p s => match bfqUnit s p (p.g.usrc a.toNat) with
    | none => .trap s (wordTrap p 0x05)
    | some u => match bfqOf s u with
      | none => .trap s boundTrap
      | some _ => .stay (beginRelease (pathHold s p (.unbind u p.iss.next)) u)) s

/-- R100: BFQ_WAIT_EXPIRY. A batch that gathers counts against BFQ_WAIT as it stands now (R299). DESIGN CHOICE, log 138. -/
def execBfqWaitExpiry (unit : Nat) (s : State) : Out :=
  match (bfqOf s unit).bind fun q => q.gathering.bind fun k => (q.pair k).map fun p => (q, p) with
  | some (q, p) =>
    let w := (ctxOf s q.part q.ctx).bfqWait.toNat
    .next (if w ≠ 0 && !p.rows.isEmpty && p.start + w ≤ s.clk + p.waited then closeBatch s unit else s)
  | none => .next s

/-- R100: BFQ_WRITEBACK. -/
def execBfqWriteback (unit : Nat) (s : State) : Out := .next (writeBack s unit)

/-- R102: nothing of a binding's node is left but rows that gather. -/
def nodeIdle (s : State) (q : Bfq) : Bool :=
  let mine := fun (p la n : Nat) => p = q.part && la = q.launch && n = q.node
  let run := ((partOf s q.part).launches.find? fun l => l.idx = q.launch).bind fun l => (l.nodes[q.node]?).map fun r => (l, r)
  let placed := run.all fun e => (((versionOf s e.1.ver).bind fun v => v.nodes[q.node]?).map Node.clusters).getD 0 ≤ e.2.placed
  placed && !(s.blocks.any fun b => mine b.part b.launch b.node && (match b.origin with
      | .handler _ _ | .notice _ => false
      | _ => true)) &&
    !(s.recs.any fun r => mine r.part r.launch r.node && (match r.kind with
      | .handler _ _ _ | .notice _ => false
      | _ => true)) &&
    !((partOf s q.part).resume.any fun b => mine b.part b.launch b.node) &&
    !(s.bfqs.any fun e => mine e.2.part e.2.launch e.2.node && e.2.running)

/-- R102: BFQ_AUTO_UNBIND. -/
def execBfqAutoUnbind (unit : Nat) (s : State) : Out :=
  match bfqOf s unit with
  | some q => .next (if !q.releasing && nodeIdle s q then beginRelease s unit else s)
  | none => .next s

end Sys2Proof.Machine
end

