-- ==== Sys2Proof/Machine/Image.lean ====
section
/-! DEFINITION. The byte images of state that programs cannot address: the migration record (R68, R69, Tables 3-3 to 3-6), the record of a
task (Table 4-1), matrix operations and engine commands (Tables 19-8, 19-9), and the context save image (R361, Table 19-7). -/

namespace Sys2Proof.Machine

open Sys2Proof

/-! ### The migration record -/

/-- Table 3-5: the lease image. -/
def Lease.bytes (l : Lease) (held : Bool) : List Byte :=
  leBytes 8 (l.baton * 2 ^ 48 + l.gang.toNat * 2 ^ 16 + l.ops % 256 * 2 ^ 8 + held.toNat)

/-- R68, R404: the image of accumulators a0 to a3: element (i, j) of aN at 16,384·N + 4·(64·i + j). -/
def accBytes (acc : Cells Word) : List Byte := (List.range 16384).flatMap fun k => leBytes 4 (cget 0 acc k).toNat

/-- Bytes of zero up to a multiple of 64. -/
def pad64 (bs : List Byte) : List Byte := bs ++ zeros (roundUp bs.length 64 - bs.length)

/-- R208: the block's number in its grid. -/
def gridNumber (s : State) (b : Block) : Nat := b.cnum * ((kernelOf s b).map Kernel.clblk).getD 1 + b.bnum

/-- R68, R364: the accumulators that go with a block: its core's while it holds the engine, or those that it took with it when it left a
core whose engine it held. DESIGN CHOICE, log 126. -/
def heldAcc (s : State) (b : Block) : Option (Cells Word) :=
  if (coreOf s b.core).holder = some b.id then some (coreOf s b.core).acc else if b.lease.carried then some b.lease.acc else none

/-- R68, Table 3-3: the migration record of a block: its header, slots and lease, a section for each group slot, and its accumulators while
it holds its core's engine. -/
def migrationRecord (s : State) (b : Block) (eqp : Nat) (toL : Bool) (m : Group → SlotMap) : List Byte :=
  leBytes 2 eqp ++ leBytes 1 b.lbody.toNat ++ leBytes 1 toL.toNat ++ leBytes 1 b.groups.length ++ zeros 3 ++
    leBytes 4 (gridNumber s b) ++ leBytes 4 b.scrBytes ++ zeros 48 ++ b.slots.flatMap BarSlot.bytes ++ b.lease.bytes (heldAcc s b).isSome ++ zeros 56 ++
    (b.groups.flatMap fun g => pad64 (slotSection g (m g))) ++ ((heldAcc s b).map accBytes).getD []

/-- Tables 3-1 and 3-2: what a state-mapping table carries from the source body. -/
def Eqp.slots (e : Eqp) (fromL : Bool) : SlotMap :=
  let of := fun k => (e.maps.filter fun m => m.kind = k).map fun m => if fromL then m.lreg else m.dreg
  { ls := of 0, us := of 1, ps := of 2, qs := of 3, priv := e.priv }

/-- Table 19-5: the execution sections of a block's groups. -/
def execSections (s : State) (b : Block) : List Byte :=
  b.groups.flatMap fun g =>
    execSection s b g ((g.stop.map Stop.recs).getD []) g.stop.isSome ((g.stop.bind Stop.slot).getD 0)

/-- R74: the record of a move within a class: every register, predicate and slice, with EQP 0xFFFF and FROM = TO, and the execution
sections after it. -/
def sameClassRecord (s : State) (b : Block) : List Byte :=
  migrationRecord s b 0xFFFF b.lbody (fun g => .all (8 * g.budget) b.privBytes) ++ execSections s b

/-- R68: a migration record is written to the source die's scratchpad. -/
def keepRecord (s : State) (b : Block) (bs : List Byte) : State := { s with migRecs := cset s.migRecs (Config.dieOf b.core) bs }

/-! ### Records, operations, commands -/

/-- R79, Table 4-1: a phase or child record; a family's handle is the low word of its number. -/
def TaskRec.bytes (r : TaskRec) : List Byte :=
  let word := fun (h : Word) => leBytes 4 h.toNat
  let pad := fun n (hs : List Word) => ((hs ++ List.replicate n 0).take n).flatMap word
  let head := fun shape => leBytes 2 (r.entry + r.prio * 2 ^ 12) ++ leBytes 1 r.launch ++ leBytes 1 shape ++ leBytes 4 r.live.toNat
  (match r.kind with
    | .phase ins outs => head (ins.length * 16 + outs.length * 4) ++ pad 4 ins ++ pad 2 outs
    | .child f i views _ =>
      head (128 + views.length * 16) ++ pad 4 (views.map Prod.fst) ++ leBytes 4 f ++
        leBytes 2 ((views.mapIdx fun k v => v.2 * 2 ^ (4 * k)).sum) ++ leBytes 1 i ++ zeros 1
    | _ => head 0 ++ zeros 24) ++
    ((List.range 4).flatMap fun k => leBytes 8 (r.us.getD k 0).toNat) ++
    (List.range 8).flatMap fun k => (List.range 32).flatMap fun i => word ((r.carry.getD k []).getD i 0)

/-- An exact value in units of 2^-280. -/
def Val.units : Val → Int
  | .fin neg n e => (if neg then -1 else 1) * (n * 2 ^ (e + 280).toNat : Nat)
  | _ => 0

/-- Table 19-8: the open part of a k-group for an element: the sum of the products so far, and the flags. -/
def partBytes (fn : Nat) (fa fb : Cells Word) (s15 : DWord) (shape g i j : Nat) : List Byte :=
  let ps := (maskedProducts fn fa fb s15 shape i j g).take 8
  let flag := (if ps.any Val.isNan then 1 else 0) + (if ps.any fun p => p = .inf false then 2 else 0) +
    if ps.any fun p => p = .inf true then 4 else 0
  leBytes 72 (BitVec.ofInt 576 (ps.map Val.units).sum).toNat ++ leBytes 1 flag ++ zeros 7

/-- Captured fragment registers: register f at 128·f, lane i at 4·i. -/
def fragBytes (f : Cells Word) : List Byte := (List.range 1056).flatMap fun k => leBytes 4 (cget 0 f k).toNat

/-- R362, R405, Table 19-8: a matrix operation image; PART while a k-group is open, after k-step 0 or 2 of a 16-bit shape. That of an
`mdrain` holds, in place of fragments, s[desc] and s[desc+1] as read at issue. -/
def MatOp.bytes (s : State) : MatOp → List Byte
  | .mma _ fn _ shape fa fb s15 word grp kdone =>
    leBytes 4 word.toNat ++ leBytes 1 kdone ++ leBytes 1 grp ++ zeros 2 ++ leBytes 8 s15.toNat ++ zeros 48 ++ fragBytes fa ++ fragBytes fb ++
      if shape ≤ 1 && kdone % 2 = 1 then
        (List.range 4096).flatMap fun k => partBytes fn fa fb s15 shape (kdone / 2) (k / 64) (k % 64)
      else []
  | .mdrain _ _ cmd word =>
    let c := cmdOf s cmd
    leBytes 4 word.toNat ++ zeros 1 ++ leBytes 1 ((c.map Cmd.grp).getD 0) ++ zeros 58 ++
      ((List.range 2).flatMap fun k => leBytes 8 (((c.map Cmd.regs).getD []).getD k 0).toNat) ++ zeros 8432

/-- Table 19-9: the number of the unit that owns a slot: of the group in its block, of the block or cluster in its grid (R208), or of the
grid among the image's; all ones for a unit that has ended. DESIGN CHOICE, log 126. -/
def Saved.unitOf (v : Saved) (s : State) : SlotKey → Nat
  | .grp _ g _ => g
  | .blk b _ => (((v.blocks ++ v.resume).find? fun k => k.id = b).map (gridNumber s)).getD (2 ^ 32 - 1)
  | .cls c _ => (((v.blocks ++ v.resume).find? fun k => k.cluster = c).map Block.cnum).getD (2 ^ 32 - 1)
  | .grd g _ => (v.grids.findIdx? fun k => k.id = g).getD (2 ^ 32 - 1)

/-- The level and number of a slot, as Table 19-9 shows them. -/
def SlotKey.levelNumber : SlotKey → Nat × Nat
  | .grp _ _ n => (0, n)
  | .blk _ n => (1, n)
  | .cls _ n => (2, n)
  | .grd _ n => (3, n)

/-- The level, number and owner of a slot, as Table 19-9 shows them. -/
def Saved.slotBytes (v : Saved) (s : State) (k : SlotKey) : List Byte :=
  leBytes 1 k.levelNumber.1 ++ leBytes 1 k.levelNumber.2 ++ leBytes 4 (v.unitOf s k)

/-- R363, Table 19-9: an engine command image. -/
def Saved.cmdBytes (v : Saved) (s : State) (c : Cmd) : List Byte :=
  leBytes 1 (if c.major = 0x0D then 1 else 0) ++ leBytes 1 (bits c.word.toNat 0 7) ++ v.slotBytes s c.key ++ leBytes 8 c.total ++
    leBytes 8 c.done ++ (c.regs.flatMap fun r => leBytes 8 r.toNat) ++ leBytes 4 (c.dstHandle.getD 0).toNat ++ zeros 4 ++
    (c.eng ++ zeros 128).take 128

/-! ### The context save image -/

/-- Full/empty bits of `n` granules, one a bit. -/
def fullBytes (full : List Nat) (first n : Nat) : List Byte :=
  (List.range ((n + 7) / 8)).map fun k =>
    BitVec.ofNat 8 (((List.range 8).map fun j => if full.contains (first + 8 * k + j) && 8 * k + j < n then 2 ^ j else 0).sum)

/-- A memory's first bytes with their full/empty bits. -/
def spaceBytes (m : Cells Byte) (full : List Nat) (n : Nat) : List Byte := mgets m 0 n ++ fullBytes full 0 (n / 16)

/-- R361: the context's system registers, in number order. -/
def Ctx.regBytes (c : Ctx) : List Byte :=
  ([c.quantum.setWidth 64, c.leaseCap.setWidth 64, c.grgWait.setWidth 64, c.migLive, c.ageSteal.setWidth 64] ++ c.gbp ++
    [c.trapVec, c.split.setWidth 64, c.bfqWait.setWidth 64] ++ c.trc).flatMap fun r => leBytes 8 r.toNat

/-- R361, R336: counters and selections; bit 15 arms a notice. -/
def Ctx.counterBytes (c : Ctx) : List Byte :=
  ((List.range 64).flatMap fun k => leBytes 8 (cget 0 c.counters k).toNat) ++
    (List.range 62).flatMap fun k => leBytes 2 (cget 0 c.sels k + if c.armed.contains k then 2 ^ 15 else 0)

/-- R361: the operations that a block has in its core's engine, then those that it still has to be performed. -/
def blockOps (s : State) (b : Block) : List MatOp := ((coreOf s b.core).ops.filter fun o => o.block = b.id) ++ b.lease.pending

/-- R361, R387: a block image. -/
def blockBytes (s : State) (b : Block) : List Byte :=
  sameClassRecord s b ++ spaceBytes b.scratch b.full b.scrBytes ++ (blockOps s b).flatMap (MatOp.bytes s)

/-- R361, R387: a cluster image. -/
def Cluster.image (k : Cluster) : List Byte := spaceBytes k.mem k.full k.bytes ++ k.slots.flatMap BarSlot.bytes

/-- R361: the rows of a binding in the order in which they were admitted. -/
def Bfq.admitted (q : Bfq) : List BfqRow :=
  match q.pairs with
  | [a, b] => if a.rows.isEmpty || b.rows.isEmpty || (a.first b && (a.closed || !b.closed)) then a.rows ++ b.rows else b.rows ++ a.rows
  | ps => ps.flatMap BfqPair.rows

/-- R361: a bound context's image: the binding, then its admitted rows in order. Table 19-7 names them and no layout. DESIGN CHOICE, log 126. -/
def Saved.bfqBytes (v : Saved) (s : State) (unit : Nat) (q : Bfq) : List Byte :=
  leBytes 1 unit ++ leBytes 4 q.weight.toNat ++ leBytes 2 q.entry ++ leBytes 2 q.ra ++ leBytes 2 q.rb ++
    (q.pairs.flatMap fun p => leBytes 4 p.act.toNat ++ leBytes 4 p.res.toNat) ++
    q.admitted.flatMap fun r => leBytes 4 r.sequence.toNat ++ leBytes 8 r.res.toNat ++ v.slotBytes s r.key

/-- R361: a stop slot's records as their trap registers show them, each with its disposition in TRAP_CAUSE. DESIGN CHOICE, log 126. -/
def stopBytes (c : Ctx) (slot : Nat) : List Byte :=
  match c.stops.find? fun q => q.slot = slot with
  | none => zeros 1
  | some q => leBytes 1 q.recs.length ++ q.recs.flatMap fun r =>
      [trapCause r slot q.recs.length, r.npcW.getD r.npc, r.xpc, r.gpcW.getD r.gpc, (r.gopW.getD r.gop).setWidth 64, trapTid r, r.addr,
        r.info].flatMap fun v => leBytes 8 v.toNat

/-- R361: the program space of a die's window with its full/empty bits, offsets counted from the window's start. -/
def programBytes (d : Desc) (v : Saved) (die : Nat) : List Byte :=
  let low := die * 2 ^ 25 + (d.dspr[die]?).getD 0 * 2 ^ 20
  let n := (((d.dspw[die]?).map Prod.snd).getD 0 - (d.dspr[die]?).getD 0) * 2 ^ 20
  mgets v.dsp low n ++ fullBytes v.dspFull (low / 16) (n / 16)

/-- R90, R382: an open family in the record pool: its views, its indices, and its leaves and node buffers. DESIGN CHOICE, log 126. -/
def Family.bytes (f : Family) : List Byte :=
  leBytes 4 f.id ++ leBytes 1 f.closed.toNat ++ leBytes 1 f.abandoned.toNat ++ leBytes 1 f.views.length ++ leBytes 1 f.used.length ++
    (f.views.flatMap fun v => leBytes 4 v.1.toNat ++ leBytes 1 v.2) ++ f.used.flatMap (leBytes 1) ++ leBytes 1 f.leaves.length ++
    f.leaves.flatMap fun l => leBytes 1 l.1 ++ l.2.flatMap Prod.fst

/-- R361, R382: the record pool: the records that are not queued yet, and the open families. -/
def recordPool (s : State) (p c : Nat) (v : Saved) : List Byte :=
  ((v.recs.filter fun r => !r.queued).flatMap TaskRec.bytes) ++
    (s.families.filter fun f => f.part = p && f.ctx = c).flatMap Family.bytes

/-- R361, Table 19-7: the context save image, whose CODE is 0x40 (PREEMPT). The blocks that wait to be placed again are in it, after those on
cores. A queued record has its home core and age after it. DESIGN
CHOICE, log 126. -/
def saveImage (s : State) (p c : Nat) (v : Saved) : List Byte :=
  let x := ctxOf s p c
  let cmds := v.cmds.filter fun k => k.major ≠ 0x0F
  let recs := v.recs.filter TaskRec.queued
  let blocks := v.blocks ++ v.resume
  let ops := (blocks.map fun b => (blockOps s b).length).sum
  leBytes 1 0x40 ++ leBytes 1 c ++ zeros 6 ++ leBytes 8 (ptimeOf s).toNat ++
    ([blocks.length, v.clusters.length, v.grids.length, recs.length, cmds.length, ops].flatMap (leBytes 4)) ++ zeros 24 ++
    x.regBytes ++ x.counterBytes ++ blocks.flatMap (blockBytes s) ++
    v.clusters.flatMap Cluster.image ++
    (v.grids.flatMap fun g => g.slots.flatMap BarSlot.bytes) ++
    (recs.flatMap fun r => r.bytes ++ leBytes 2 r.home ++ leBytes 8 (s.clk - r.queuedAt)) ++ cmds.flatMap (v.cmdBytes s) ++
    (v.bfqs.flatMap fun q => v.bfqBytes s q.1 q.2) ++ (List.range 256).flatMap (stopBytes x) ++
    (List.range Config.dies).flatMap (programBytes (partOf s p).desc v) ++ recordPool s p c v

end Sys2Proof.Machine
end

