-- ==== Sys2Proof/Machine/Placement.lean ====
section
/-! DEFINITION. Placing and moving blocks (R26 to R28, R64, R65, R70, R71, R74, R80, R89, R121, R346): room on a core and in a
constellation, the blocks of nodes and records, and what a move carries. -/

namespace Sys2Proof.Machine

open Sys2Proof

/-! ### Seats -/

/-- The groups of a block seated on a core (R26, R40, R41); groups that have ended take no seat. -/
def seatLive (s : State) (core : Nat) (gs : List Group) : List Group :=
  let seated := seatGroups s core (gs.filter fun g => !g.ended)
  gs.mapIdx fun i g =>
    if g.ended then g else seated.getD ((gs.take i).filter fun g => !g.ended).length g

/-! ### New blocks -/

/-- R80, R346: the address at which an entry starts in a body's class. -/
def entryPc (v : Version) (k : Kernel) (e : Entry) (lbody : Bool) : DWord :=
  v.imgva + BitVec.ofNat 64 (((k.body lbody).map Body.off).getD 0 + ((if lbody then e.loff else e.doff).getD 0))

/-- Groups of a block of a kernel. -/
def Kernel.groups (k : Kernel) : Nat := (k.threads + 31) / 32

/-- R27, R115, R120: a block of a kernel on a core, when it fits there at once: the core's allocations with it. -/
def kernelFits (s : State) (part ctx : Nat) (k : Kernel) (lbody : Bool) (blk core groups scr : Nat) : Option Core :=
  coreFits s core blk (splitOf s part ctx k lbody) ((List.range groups).map fun g => (g, k.budget lbody)) k.priv scr

/-- R24: a node block's groups. -/
def nodeGroups (v : Version) (k : Kernel) (e : Entry) (lbody : Bool) : List Group :=
  (List.range k.groups).map (newGroup k.threads (k.budget lbody) (entryPc v k e lbody))

/-- What a new block of a node needs to know. -/
structure NodeBlock where
  v : Version
  kern : Nat
  k : Kernel
  e : Entry
  entry : Nat
  l : Launch
  part : Nat
  node : Nat
  grid : Nat
  cluster : Nat
  cnum : Nat
  deriving DecidableEq, Repr

/-- R317: PRIO of a launch word. -/
def wordPrio (w : DWord) : Nat := bits w.toNat 48 4

/-- R27: block `j` of a cluster, placed on the best core of a constellation. -/
def placeNodeBlock (n : NodeBlock) (const : Nat) (s : State) (j : Nat) : Option State :=
  let fit := fun core => kernelFits s n.part n.l.ctx n.k n.k.startL s.fresh core n.k.groups n.k.scrb
  (bestCore s (fun c => (fit c).isSome) (classCores const n.k.startL)).bind fun core => (fit core).map fun c =>
    let b : Block :=
      { id := s.fresh, part := n.part, ctx := n.l.ctx, launch := n.l.idx, prio := wordPrio n.l.word, node := n.node,
        ver := n.v.id, kern := n.kern, entry := n.entry, core := core, lbody := n.k.startL, cluster := n.cluster,
        grid := n.grid, bnum := j, cnum := n.cnum, level1 := n.v.graph = 1,
        groups := seatGroups s core (nodeGroups n.v n.k n.e n.k.startL), slots := newSlots 16, scrBytes := n.k.scrb,
        privBytes := n.k.priv }
    { modCore s core (fun _ => c) with blocks := s.blocks ++ [b], fresh := s.fresh + 1 }

/-- The blocks of a cluster from `j` on. -/
def placeBlocks (n : NodeBlock) (const : Nat) (s : State) (j : Nat) : Nat → Option State
  | 0 => some s
  | m + 1 => (placeNodeBlock n const s j).bind fun s => placeBlocks n const s (j + 1) m

/-- R27, R121: a whole cluster in a constellation. -/
def placeCluster (n : NodeBlock) (const : Nat) (s : State) : Option State :=
  (findShared s const (cshSize s n.part n.l.ctx) n.k.cshb).bind fun base =>
    let id := s.fresh
    let c : Cluster :=
      { id := id, grid := n.grid, const := const, base := base, bytes := n.k.cshb, slots := newSlots 8,
        total := n.k.clblk * n.k.groups }
    placeBlocks { n with cluster := id } const { s with clusters := s.clusters ++ [c], fresh := id + 1 } 0 n.k.clblk

/-- The constellations of a partition, ascending. -/
def constsOf (s : State) (p : Nat) : List Nat :=
  (List.range (Config.dies * Config.constPerDie)).filter (partOf s p).desc.const.contains

/-- A launch of a partition by its index. -/
def launchOf (s : State) (p idx : Nat) : Option Launch := (partOf s p).launches.find? fun l => l.idx = idx

/-- The state with one launch changed. -/
def modLaunch (s : State) (p idx : Nat) (f : Launch → Launch) : State :=
  modPart s p fun q => { q with launches := q.launches.map fun l => if l.idx = idx then f l else l }

/-- What the next waiting cluster of a node is made of. -/
def nextCluster (s : State) (p : Nat) (l : Launch) (node : Nat) : Option NodeBlock :=
  match versionOf s l.ver, l.nodes[node]? with
  | some v, some r => (v.nodes[node]?).bind fun n => (v.entries[n.entry]?).bind fun e => (v.kernels[e.kern]?).bind fun k =>
      if r.started && r.placed < n.clusters then
        some { v := v, kern := e.kern, k := k, e := e, entry := n.entry, l := l, part := p, node := node, grid := r.grid,
               cluster := 0, cnum := r.placed }
      else none
  | _, _ => none

/-- R27: the next waiting cluster of a node in the lowest-numbered constellation that can hold it. -/
def tryCluster (s : State) (p : Nat) (l : Launch) (node : Nat) : Option State :=
  (nextCluster s p l node).bind fun n => ((constsOf s p).findSome? fun c => placeCluster n c s).map fun s =>
    modLaunch s p l.idx fun l => { l with nodes := l.nodes.modify node fun r => { r with placed := r.placed + 1 } }

/-- R28: launches of the running context in the order in which they are served: that of their start. DESIGN CHOICE, log 151. -/
def launchOrder (s : State) (p : Nat) : List Launch :=
  let q := partOf s p
  let ls := q.launches.filter fun l => l.ctx = q.running
  (List.range q.launchSeq).flatMap fun k => ls.filter fun l => l.seq = k

/-- R28: no cluster of an earlier launch, or of an earlier node of the launch, waits that fits now. -/
def noneBefore (s : State) (p : Nat) (l : Launch) (node : Nat) : Bool :=
  let earlier := (launchOrder s p).flatMap fun k =>
    if k.seq < l.seq then (List.range k.nodes.length).map fun n => (k, n)
    else if k.seq = l.seq then (List.range node).map fun n => (k, n)
    else []
  earlier.all fun e => (tryCluster s p e.1 e.2).isNone

/-! ### Record blocks -/

/-- R80, R88: a lane of a record's group with its carry slots loaded. -/
def recLane (r : TaskRec) (i : Nat) (l : Lane) : Lane :=
  if l.live then
    { l with regs := ((List.range 8).map fun k => (k, ((r.carry[k]?).bind fun w => w[i]?).getD 0)).filter fun e => e.2 ≠ 0 }
  else l

/-- R89: the views of a child: fresh handles, and where they lie. -/
def giveViews (s : State) (r : TaskRec) (blk : Nat) : List (Word × Nat) → List Nat → List Nat → State × List View
  | (_, op) :: vs, off :: offs, n :: ns =>
    let a := allocHandle s r.part r.ctx (.tile (.scr blk) off n false)
    let q := giveViews a.1 r blk vs offs ns
    (q.1, { off := off, size := n, handle := a.2.getD 0, op := op } :: q.2)
  | _, _, _ => (s, [])

/-- The views that a record's block gets, with their sizes. -/
def TaskRec.views (r : TaskRec) : List (Word × Nat) × List Nat :=
  match r.kind with
  | .child _ _ vs ns => (vs, ns)
  | _ => ([], [])

/-- R346: where a record's block comes from. -/
def TaskRec.origin (r : TaskRec) : Origin :=
  match r.kind with
  | .phase _ _ => .phase
  | .child f i _ _ => .child f i
  | .handler slot k _ => .handler slot k
  | .notice t => .notice t

/-- R89: a core scratch whose views are filled with their operators' identities. -/
def blankViews (views : List View) : Cells Byte :=
  views.foldl (fun m v => mputs m v.off (identityBytes v.op v.size)) []

/-- R80, R84: a record's block on a core, when it fits there at once. R84 names a group slot and the core store; a record whose kernel's
constellation-shared bytes find no room does not fit either. DESIGN CHOICE, log 115. -/
def placeRec (s : State) (r : TaskRec) (core : Nat) : Option State :=
  match versionOf s r.ver with
  | none => none
  | some v => (v.entries[r.entry]?).bind fun e => (v.kernels[e.kern]?).bind fun k =>
    let lbody := Config.isLCore core
    let lay := viewLayout r.views.2
    let id := s.fresh
    if (k.body lbody).isNone then none
    else (kernelFits s r.part r.ctx k lbody id core 1 (lay.2 + k.scrb)).bind fun c =>
      (findShared s (Config.constOf core) (cshSize s r.part r.ctx) k.cshb).bind fun base =>
      let q := giveViews s r id r.views.1 lay.1 r.views.2
      if q.2.any fun w => w.handle = 0 then none
      else
        let g := newMasked r.live (k.budget lbody) (entryPc v k e lbody)
        let g :=
          { g with
            lanes := g.lanes.mapIdx (recLane r)
            ureg := (((List.range 4).map fun n => (n, r.us.getD n 0)) ++
              q.2.mapIdx fun n w => (4 + n, w.handle ++ BitVec.ofNat 32 w.off)).filter fun e => e.2 ≠ 0 }
        let b : Block :=
          { id := id, part := r.part, ctx := r.ctx, launch := r.launch, prio := r.prio, node := r.node, ver := r.ver,
            kern := e.kern, entry := r.entry, core := core, lbody := lbody, cluster := id + 1, grid := id + 2,
            level1 := v.graph = 1, origin := r.origin, groups := seatGroups s core [g], slots := newSlots 16,
            scratch := blankViews q.2, scrBytes := lay.2 + k.scrb, privBytes := k.priv, views := q.2, viewArea := lay.2 }
        let cl : Cluster :=
          { id := id + 1, grid := id + 2, const := Config.constOf core, base := base, bytes := k.cshb, slots := newSlots 8,
            total := 1 }
        let gr : Grid :=
          { id := id + 2, part := r.part, ctx := r.ctx, launch := r.launch, node := r.node, slots := newSlots 4, total := 1 }
        let t := modCore q.1 core fun _ => c
        some
          { t with
            blocks := t.blocks ++ [b]
            clusters := t.clusters ++ [cl]
            grids := t.grids ++ [gr]
            recs := t.recs.filter fun x => x.id ≠ r.id
            fresh := id + 3 }

/-! ### Moves -/

/-- R70, R71, R95, R118: a block, as `b'` has it, goes to a core that can hold it: its allocations, its lease and its queued
requests go with it; the target's L1 leases are given up, so that nothing older than the block has seen is read there (R141).
Its groups issue there before the lease is restored. DESIGN CHOICE, log 146. A request that waits, and its waiting grows, stand last in the
target's queues. DESIGN CHOICE, log 48. -/
def relocate (s : State) (b b' : Block) (core : Nat) (c' : Core) (base : Nat) : State :=
  let c := coreOf s b.core
  let held := c.holder = some b.id
  let wants := held || c.leaseQueue.contains b.id
  let grows := c.regaQueue.filter fun r => r.blk = b.id
  let lease := if held then { b'.lease with acc := c.acc, everHeld := true, carried := true } else b'.lease
  let s := if held then modCore s b.core fun c => { c with acc := [] } else s
  let s := modCore (dropLeases (leaveCore s b) core) core fun _ =>
    { c' with
      leaseQueue := if held then b.id :: c'.leaseQueue else if wants then c'.leaseQueue ++ [b.id] else c'.leaseQueue
      regaQueue := c'.regaQueue ++ grows }
  let groups := seatLive { s with blocks := s.blocks.filter fun k => k.id ≠ b.id } core b'.groups
  let s := modBlock s b.id fun _ => { b' with core := core, lease := lease, groups := groups }
  let s := { s with cmds := s.cmds.map fun k => if k.blk = b.id then { k with core := core } else k }
  modCluster s b.cluster fun k => if k.const = Config.constOf core then k else { k with const := Config.constOf core, base := base }

/-- Number of words of the instruction at a body offset. -/
def instrWords (s : State) (v : Version) (d : Body) : Nat → Nat → Nat
  | 0, _ => 1
  | fuel + 1, off => if isExtWord (bodyWord s v d off) then instrWords s v d fuel (off + 4) + 1 else 1

/-- R59, Table 3-2: the entries of a kind, as registers of the source and of the target. -/
def Eqp.pairs (e : Eqp) (kind : Nat) (fromL : Bool) : List (Nat × Nat) :=
  (e.maps.filter fun m => m.kind = kind).map fun m => if fromL then (m.lreg, m.dreg) else (m.dreg, m.lreg)

/-- A sparse register file carried over a mapping. -/
def carryRegs {α : Type} [DecidableEq α] (z : α) (ps : List (Nat × Nat)) (rs : Cells α) : Cells α :=
  ps.foldl (fun m p => cput z m p.2 (cget z rs p.1)) []

/-- Predicate bits carried over a mapping. -/
def carryBits (ps : List (Nat × Nat)) (v : Nat) : Nat := (ps.map fun p => bits v p.1 1 * 2 ^ p.2).sum

/-- R65, R71: a lane restored in the target body. -/
def moveLane (e : Eqp) (fromL : Bool) (pc : DWord) (l : Lane) : Lane :=
  if !l.live then l
  else
    { l with
      npc := pc
      regs := carryRegs 0 (e.pairs 0 fromL) l.regs
      preds := BitVec.ofNat 24 (carryBits (e.pairs 2 fromL) l.preds.toNat)
      priv := l.priv.filter fun p => p.1 < e.priv
      hold := .none
      once := false
      cd := 0
      passes := 0 }

/-- R65, R71: a group restored in the target body. -/
def moveGroup (e : Eqp) (fromL : Bool) (pc : DWord) (budget : Nat) (g : Group) : Group :=
  if g.ended then g
  else
    { g with
      lanes := g.lanes.map (moveLane e fromL pc)
      ureg := carryRegs 0 (e.pairs 1 fromL) g.ureg
      upred := BitVec.ofNat 7 (carryBits (e.pairs 3 fromL) g.upred.toNat)
      budget := budget }

/-- R415, R71: the poison of registers and slices that a migration carries goes with them. -/
def migratePoison (s : State) (blk : Nat) (e : Eqp) (fromL : Bool) : State :=
  { s with poison := s.poison.filterMap fun u => match u.1 with
      | .reg b g l n =>
        if b ≠ blk then some u
        else ((e.pairs 0 fromL).find? fun p => p.1 = n).map fun p => (.reg b g l p.2, u.2)
      | .priv b _ _ o => if b ≠ blk || o * 16 < e.priv then some u else none
      | _ => some u }

/-- R65: the block migrates to the other class. -/
def migrateBlock (s : State) (b : Block) (v : Version) (k : Kernel) (e : Eqp) (core : Nat) : Option State :=
  let l := !b.lbody
  match k.body l, movedShared s b (Config.constOf core),
      coreFits s core b.id (splitOf s b.part b.ctx k l) (b.budgets fun _ => k.budget l) b.privBytes b.scrBytes with
  | some d, some base, some c =>
    let off := if l then e.loff else e.doff
    let pc := v.imgva + BitVec.ofNat 64 (d.off + off + 4 * instrWords s v d 8 off)
    let b' :=
      { b with
        lbody := l
        rdv := none
        groups := b.groups.map (moveGroup e b.lbody pc (k.budget l)) }
    let s := keepRecord s b (migrationRecord s b e.id l fun _ => e.slots b.lbody)
    some (countEvent (relocate (migratePoison s b.id e b.lbody) b b' core c base) b.part b.ctx 0x052 1)
  | _, _, _ => none

/-- R65, R74: no matrix instruction that the block's groups have had accepted is still to be performed. -/
def opsDone (s : State) (b : Block) : Bool := !((coreOf s b.core).ops.any fun o => o.block = b.id) && b.lease.pending.isEmpty

/-- R74: a running block may be taken now: no accepted matrix instruction, no open rendezvous or round. -/
def movable (s : State) (b : Block) : Bool := b.rdv.isNone && b.round.isNone && opsDone s b

/-- R74: the block as it is goes to another core of its class, when that core can hold it. -/
def moveSame (s : State) (b : Block) (core : Nat) : Option State :=
  match kernelOf s b with
  | none => none
  | some k =>
    match movedShared s b (Config.constOf core),
        coreFits s core b.id (splitOf s b.part b.ctx k b.lbody) (b.budgets Group.budget) b.privBytes b.scrBytes with
    | some base, some c => some (relocate (keepRecord s b (sameClassRecord s b)) b b core c base)
    | _, _ => none

/-- R64, steps 2 and 3: where a block goes that must leave its constellation. -/
def leaveTarget (s : State) (b : Block) (consts : List Nat) : Option Nat :=
  match kernelOf s b with
  | none => none
  | some k =>
    moveTarget s (fun core => (movedShared s b (Config.constOf core)).isSome &&
      (coreFits s core b.id (splitOf s b.part b.ctx k b.lbody) (b.budgets Group.budget) b.privBytes b.scrBytes).isSome)
      b.lbody consts

end Sys2Proof.Machine
end

