-- ==== Sys2Proof/Machine/Pair.lean ====
section
/-! DEFINITION. Which instruction of a path may issue in slot 1 beside the one before it (R37): the registers and predicates that
an instruction reads and writes, the transfers and barriers, and the memory pipe and matrix engine. -/

namespace Sys2Proof.Machine

open Sys2Proof

/-- R37: a register or predicate that an instruction of a path names; GPC and GOP are registers of each lane (Table 2-4). -/
inductive Res where
  | lane (n : Nat)
  | pred (n : Nat)
  | uni (n : Nat)
  | upred (n : Nat)
  | gpc
  | gop
  deriving DecidableEq, Repr

/-- Every predicate of a lane. -/
def allPreds : List Res := (List.range 24).map Res.pred

/-- A predicate field; values from 24 on name none. -/
def predRes (f : BitVec 5) : List Res := if f.toNat < 24 then [.pred f.toNat] else []

/-- A uniform predicate field; 7 names none. -/
def upredRes (q : BitVec 3) : List Res := if q.toNat < 7 then [.upred q.toNat] else []

/-- The registers of a lane operand. -/
def srcRes (f : BitVec 7) (n : Nat) : List Res :=
  if namesUniform f then [.uni (f.toNat - 112)] else (regRange f n).map Res.lane

/-- The predicates that a compare or a predicate operation reads of its own destination (PWR). -/
def combReads (pd : BitVec 5) (comb : BitVec 2) : List Res := if comb = 0 then [] else predRes pd

/-- R37: what an instruction reads through its guard. -/
def guardReads (i : Instr) : List Res :=
  ((i.lext.bind LExt.mod).map fun m => predRes m.p).getD [] ++ ((i.uext.bind UExt.mod).map fun m => upredRes m.q).getD []

/-- R37: the predicates that a lane instruction reads besides its guard. -/
def predReads : Instr → List Res
  | .icmpEq pd c _ _ _ | .icmpNe pd c _ _ _ | .icmpLts pd c _ _ _ | .icmpLes pd c _ _ _ | .icmpGts pd c _ _ _
  | .icmpGes pd c _ _ _ | .icmpLtn pd c _ _ _ | .icmpLen pd c _ _ _ | .icmpGtn pd c _ _ _ | .icmpGen pd c _ _ _
  | .fcmpEq pd c _ _ _ | .fcmpNe pd c _ _ _ | .fcmpLt pd c _ _ _ | .fcmpLe pd c _ _ _ | .fcmpGt pd c _ _ _
  | .fcmpGe pd c _ _ _ | .fcmpUn pd c _ _ _ | .fcmpOrd pd c _ _ _ => combReads pd c
  | .plogAnd pd c a b _ | .plogOr pd c a b _ | .plogXor pd c a b _ | .plogAndn pd c a b _ | .plogOrn pd c a b _ =>
    combReads pd c ++ predRes a ++ predRes b
  | .cmovRdp _ _ => allPreds
  | .lanexBallot _ p _ | .lanexAny _ p _ | .lanexAll _ p _ => predRes p
  | _ => []

/-- R37: the predicates that a lane instruction writes. -/
def predWrites : Instr → List Res
  | .icmpEq pd _ _ _ _ | .icmpNe pd _ _ _ _ | .icmpLts pd _ _ _ _ | .icmpLes pd _ _ _ _ | .icmpGts pd _ _ _ _
  | .icmpGes pd _ _ _ _ | .icmpLtn pd _ _ _ _ | .icmpLen pd _ _ _ _ | .icmpGtn pd _ _ _ _ | .icmpGen pd _ _ _ _
  | .fcmpEq pd _ _ _ _ | .fcmpNe pd _ _ _ _ | .fcmpLt pd _ _ _ _ | .fcmpLe pd _ _ _ _ | .fcmpGt pd _ _ _ _
  | .fcmpGe pd _ _ _ _ | .fcmpUn pd _ _ _ _ | .fcmpOrd pd _ _ _ _ => predRes pd
  | .plogAnd pd _ _ _ _ | .plogOr pd _ _ _ _ | .plogXor pd _ _ _ _ | .plogAndn pd _ _ _ _ | .plogOrn pd _ _ _ _ => predRes pd
  | .cmovWrp _ _ _ => allPreds
  | _ => []

/-- R37: the lane registers of a fragment's base. -/
def fragRes (v : BitVec 7) (shape : BitVec 4) : List Res :=
  (List.range (fragRegs shape.toNat)).map fun k => .lane (v.toNat + k)

/-- R37: the registers that a lane instruction reads, and the lane register that a uniform one reads. -/
def regReads : Instr → List Res
  | .mmaAdd va vb _ sh _ | .mmaSet va vb _ sh _ | .mmaTri va vb _ sh _ | .mmaTriset va vb _ sh _ =>
    .uni 15 :: (fragRes va sh ++ fragRes vb sh)
  | .umovlFirst _ a _ | .umovlLane _ a _ _ => [.lane a.toNat]
  | i => i.uses.flatMap fun u => match u with
    | .source f n => srcRes f n
    | .dest f n => if readsD i then srcRes f n else []
    | .laneOnly f => [.lane f.toNat]

/-- R37: the uniform registers that a uniform instruction writes, and its uniform predicate. -/
def uniWrites : Instr → List Res
  | .ualuAdd d _ _ _ | .ualuSub d _ _ _ | .ualuAnd d _ _ _ | .ualuOr d _ _ _ | .ualuXor d _ _ _ | .ualuShl d _ _ _
  | .ualuShr d _ _ _ | .ualuSar d _ _ _ | .ualuMul d _ _ _ | .ualuMins d _ _ _ | .ualuMaxs d _ _ _ | .ualuMinn d _ _ _
  | .ualuMaxn d _ _ _ | .umovlLane d _ _ _ | .handleAlloc d _ _ _ | .uaddi d _ _ _ | .uld d _ _ _ => [.uni d.toNat]
  | .umovi d _ _ | .umovhi d _ _ | .umovlFirst d _ _ | .handleSumm d _ _ | .handleShape d _ _ | .perfRd d _ _
  | .sysr d _ _ => [.uni d.toNat]
  | .regaGrowTry q _ _ => upredRes q
  | .ucmpEq q _ _ _ | .ucmpNe q _ _ _ | .ucmpLts q _ _ _ | .ucmpLes q _ _ _ | .ucmpGts q _ _ _ | .ucmpGes q _ _ _
  | .ucmpLtn q _ _ _ | .ucmpLen q _ _ _ | .ucmpGtn q _ _ _ | .ucmpGen q _ _ _ | .ucmpQand q _ _ _ | .ucmpQor q _ _ _
  | .ucmpQxor q _ _ _ => upredRes q
  | _ => []

/-- R37, R47: the guest registers that an instruction reads, and those that it writes. -/
def guestReads : Instr → List Res
  | .guestRdpc _ _ | .guestAddpc _ _ => [.gpc]
  | .guestRdop _ _ => [.gop]
  | _ => []
def guestWrites : Instr → List Res
  | .guestWrpc _ _ | .guestAddpc _ _ => [.gpc]
  | .guestWrop _ _ => [.gop]
  | _ => []

/-- R37, R88: the lane registers that a spawn copies into CARRY, as many as the descriptor in core scratch at s[a] says. -/
def spawnReads (s : State) (b : Block) (g : Group) : Instr → List Res
  | .taskSpawn a _ =>
    let off := (g.usrc a.toNat).toNat % 2 ^ 32
    (List.range (taskDesc (readPlace s b.core (drawOf s 0 0) (.scr b.id off) 32)).nc).map Res.lane
  | _ => []

/-- R37: what an instruction of a path reads, and what it writes. Two uniform instructions never issue together (R44), so the
uniform sources of uniform instructions are left out. -/
def resReads (i : Instr) : List Res := guardReads i ++ predReads i ++ regReads i ++ guestReads i
def resWrites (i : Instr) : List Res := predWrites i ++ (writtenRegs i).map Res.lane ++ uniWrites i ++ guestWrites i

/-- R37: the instruction transfers control, or is a barrier. The rule lists none: the model takes branches, calls, returns, exits,
dispatches, breaks, calls of the supervisor, the ends and moves of a task, `rega`, which is held as at a barrier (R292), words that are
no instruction, and `bar`. DESIGN CHOICE, log 128. -/
def leaves : Instr → Bool
  | .br _ _ _ _ | .call _ _ _ _ | .brxJmp _ _ | .brxCall _ _ | .ctlRet _ | .ctlExit _ | .guestDispatch _ | .guestDispatchRg _
  | .ubr _ _ _ _ | .usysSvc _ _ | .usysRti _ | .usysBrk _ | .lsysBrk _ | .taskPhase _ _ | .taskMerge _
  | .migL _ _ | .migD _ _ | .migAuto _ _ | .nonInstructionWord _ => true
  | .regaGrowWait _ _ | .regaGrowTry _ _ _ | .regaShrink _ _ => true
  | .barArrive _ _ _ _ | .barArriveCnt _ _ _ _ _ | .barWait _ _ _ _ | .barExpect _ _ _ _ | .barSync _ _ _ => true
  | _ => false

/-- Bits 31:25 of the base word: the scalar bit and the major opcode. -/
def majorOf (i : Instr) : Nat := (i.base.map fun w => (w.extractLsb' 25 7).toNat).getD 0

/-- R37: the instruction uses the memory pipe. The rule lists none: the model takes chapter 12's lane accesses, `pref` among them, and
`uld` and `ust`. DESIGN CHOICE, log 128. -/
def usesMemory (i : Instr) : Bool := (decide (0x17 ≤ majorOf i) && decide (majorOf i ≤ 0x1F)) || majorOf i = 0x47 || majorOf i = 0x48

/-- R37: the instruction uses the matrix engine: `mma`, `mfrag` and `mdrain`. -/
def usesMatrix (i : Instr) : Bool := majorOf i = 0x25 || majorOf i = 0x26 || majorOf i = 0x4F

/-- R37, R44: two instructions of a path in order may issue in one cycle. -/
def pairs (i j : Instr) : Bool :=
  !((resReads j).any (resWrites i).contains) && !leaves i && !leaves j && !(usesMemory i && usesMemory j) && !(usesMatrix i && usesMatrix j) &&
    !(i.uext.isSome && j.uext.isSome)

end Sys2Proof.Machine
end

