-- ==== Sys2Proof/Machine/Schedule.lean ====
section
/-! DEFINITION. Which step comes next: the fetch of an instruction (R110, R169, R389), the paths of a group (R30), the choice
of group and paths (R34 to R39, R44), stepping (R353), time (R5, R207, R340), and the placing of a word where it is fetched
next. -/

namespace Sys2Proof.Machine

open Sys2Proof

/-! ### Fetch -/

/-- R169: the words from a body offset on: extension words, and the first word that is none, as far as the body goes. -/
def fetchRun (s : State) (v : Version) (d : Body) : Nat → Nat → List Word
  | 0, _ => []
  | fuel + 1, off =>
    let w := bodyWord s v d off
    if isExtWord w then w :: fetchRun s v d fuel (off + 4) else [w]

/-- The words at an address of the body that a block runs; none outside it. -/
def fetchWords (s : State) (b : Block) (pc : DWord) : List Word :=
  match bodyOf s b with
  | some (v, d) =>
    let off := (pc - bodyStart s b).toNat
    fetchRun s v d ((d.len - off) / 4) off
  | none => []

/-- R415: a frame line from which the words come is poisoned. -/
def fetchPoisoned (s : State) (b : Block) (pc : DWord) (n : Nat) : Bool :=
  match bodyOf s b with
  | some (v, d) =>
    (List.range n).any fun k =>
      let off := d.off + (pc - bodyStart s b).toNat + 4 * k
      let pa := (v.frames[off / Config.pageBytes]?).getD 0 * Config.pageBytes + off % Config.pageBytes
      isPoisoned s (.line (pa / 64 * 64))
  | none => false

/-- R322: a frame from which the words come that the partition does not own any more. -/
def fetchForeign (s : State) (b : Block) (pc : DWord) (n : Nat) : Option Nat :=
  (bodyOf s b).bind fun (v, d) =>
    ((List.range n).map fun k =>
      let off := d.off + (pc - bodyStart s b).toNat + 4 * k
      (v.frames[off / Config.pageBytes]?).getD 0 * Config.pageBytes + off % Config.pageBytes).find? fun pa => !dramOwned (partOf s b.part).desc pa

/-! ### The choice of paths -/

/-- The first of a list under an order given as "comes before or equal". -/
def firstBy {α : Type} (le : α → α → Bool) (xs : List α) : Option α := xs.find? fun x => xs.all fun y => le x y

/-- R35: the most populous path first, the lower native PC on a tie. -/
def populous (x y : Ready) : Bool :=
  decide (y.size < x.size) || (x.size = y.size && decide (x.pc.toNat ≤ y.pc.toNat))

/-- R35: the highest pass count first, the lower native PC on a tie. -/
def oldest (x y : Ready) : Bool :=
  decide (y.passes < x.passes) || (x.passes = y.passes && decide (x.pc.toNat ≤ y.pc.toNat))

/-- Table 2-2: QUANTUM of a context. -/
def quantumOf (c : Ctx) : Nat := c.quantum.toNat

/-- R36: the outstanding memory operations of a path: the most that one of its lanes has issued and not seen complete. -/
def Group.outstanding (g : Group) (r : Ready) : Nat :=
  ((maskLanes r.lanes).map fun i => g.loads.openOf i + g.stores.openOf i).foldl max 0

/-- R36, step 3: the fewest outstanding memory operations first, then the most populous path. -/
def Group.lightest (g : Group) (x y : Ready) : Bool :=
  decide (g.outstanding x < g.outstanding y) || (g.outstanding x = g.outstanding y && populous x y)

/-- R35, R36: the path of slot 1 among the ready paths other than slot 0's. On an L-core, where the successor of the previous slot-1 path
is itself taken by slot 0, the next is promoted as when there is no holder. DESIGN CHOICE, log 141. -/
def slotOne (core : Nat) (q : Nat) (g : Group) (rest : List Ready) : Option Ready :=
  let due := rest.filter fun r => (if Config.isLCore core then Config.lCoreAge else q) ≤ r.passes
  match firstBy oldest due with
  | some r => some r
  | none =>
    if Config.isLCore core then
      (g.slot1Lane.bind fun k => rest.find? fun r => r.lanes.getLsbD k).or (firstBy g.lightest rest)
    else firstBy populous rest

/-- R35, R36: the two slots of an issue opportunity of a group, as far as its paths fill them. -/
def slots (core q : Nat) (g : Group) : Option (Ready × Option Ready) :=
  (firstBy populous g.ready).map fun r =>
    (r, if g.stepMode = 1 then none else slotOne core q g (g.ready.filter fun k => k ≠ r))

/-- R44: the path's next instruction is uniform, as its first word says. -/
def uniformAt (s : State) (b : Block) (pc : DWord) : Bool := ((fetchWords s b pc).head?.map isUniform).getD false

/-- R35, R38: the pass counts after an opportunity at which some paths issue. -/
def Group.passed (g : Group) (issued : BitVec 32) : Group :=
  let ready := g.ready
  { g with lanes := g.lanes.mapIdx fun i l =>
      if issued.getLsbD i then { l with passes := 0 }
      else match ready.find? fun r => r.lanes.getLsbD i with
        | some r => { l with passes := r.passes + 1 }
        | none => l }

/-! ### Groups -/

/-- The group is active, not stopped, has a ready path, and is past the two cycles after a swap (R34, R40, R341). -/
def canIssue (s : State) (b : Block) (g : Group) : Bool :=
  g.active && g.stop.isNone && decide (g.chooseAt ≤ s.clk) && issues s b && !g.ready.isEmpty

/-- The groups on a sub-core that meet a condition, with their blocks. -/
def onSub (s : State) (core sub : Nat) (f : Block → Group → Bool) : List (Nat × Nat × Group) :=
  s.blocks.flatMap fun b =>
    if b.core = core then ((b.groups.mapIdx fun k g => (b.id, k, g)).filter fun q => q.2.2.sub = sub && f b q.2.2) else []

/-- R231: a group has yielded, and some other active group of its sub-core with a ready path has had no opportunity since: it is not
chosen, for 8 cycles at most. -/
def yielding (s : State) (core sub blk grp : Nat) : Bool :=
  (coreOf s core).yields.any fun y =>
    y.sub = sub && y.blk = blk && y.grp = grp && decide (s.clk < y.cycle + 8) &&
      (onSub s core sub fun b g => g.active && g.stop.isNone && issues s b && !g.ready.isEmpty).any fun q =>
        (q.1, q.2.1) ≠ (blk, grp) && !y.had.contains (q.1, q.2.1)

/-- R34, R231: a group may be chosen. -/
def mayChoose (s : State) (b : Block) (k : Nat) (g : Group) : Bool := canIssue s b g && !yielding s b.core g.sub b.id k

/-- The groups that may be chosen, as (core, sub-core, block, group). -/
def candidates (s : State) : List (Nat × Nat × Nat × Nat) :=
  s.blocks.flatMap fun b =>
    (List.range b.groups.length).filterMap fun k => (b.group k).bind fun g =>
      if mayChoose s b k g then some (b.core, g.sub, b.id, k) else none

/-- The cyclic order of a sub-core's groups in the round-robin, which R34 leaves open: ascending block id, then group number.
DESIGN CHOICE, log 112. -/
def groupLe (x y : Nat × Nat) : Bool := decide (x.1 < y.1) || (x.1 = y.1 && decide (x.2 ≤ y.2))

/-- R34: round-robin: the first group of a sub-core after the one chosen last. -/
def nextGroup (last : Option (Nat × Nat)) (gs : List (Nat × Nat)) : Option (Nat × Nat) :=
  let after := gs.filter fun q => last.any fun l => !groupLe q l
  (firstBy groupLe after).or (firstBy groupLe gs)

/-- The sub-core whose turn it is in the model's order, and its group (R34, R231). -/
def chooseGroup (s : State) : Option (Nat × Nat × Nat × Nat) :=
  let cs := candidates s
  let subs := (cs.map fun q => (q.1, q.2.1)).eraseDups
  (subs[s.tick % subs.length]?).bind fun u =>
    let mine := (cs.filter fun q => (q.1, q.2.1) = u).map fun q => q.2.2
    (nextGroup (cfind (coreOf s u.1).chosen u.2) mine).map fun g => (u.1, u.2, g.1, g.2)

/-- R231: a group has an issue opportunity: other groups' yields to it are used up, and so is its own. -/
def noteChoice (sub blk grp : Nat) (c : Core) : Core :=
  { c with
    chosen := cset c.chosen sub (blk, grp)
    yields := (c.yields.filter fun y => !(y.blk = blk && y.grp = grp)).map fun y =>
      if y.sub = sub then { y with had := (blk, grp) :: y.had } else y }

/-! ### Swaps -/

/-- The base word of the instruction at a lane's native PC. -/
def wordAt (s : State) (b : Block) (pc : DWord) : Word := (fetchWords s b pc).getLast?.getD 0

/-- R40, R271: a `waitc` of a group waits for a global-space load, an atomic or a command of an engine. -/
def waitcBlocks (g : Group) (w : Word) : Bool :=
  let n := fun k => (w.extractLsb' k 4).toNat
  let waits := fun (c : CountList) (m : Nat) => c.pend.any fun k => decide (k + m < c.issued) && c.far.contains k
  waits g.loads (n 12) || waits g.stores (n 8) || !g.copies.done (n 4) || !g.tiles.done (n 0)

/-- R40: the path that waits at a native PC has global-space loads or atomics open in a list. -/
def Group.waitsFar (g : Group) (c : CountList) (pc : DWord) : Bool :=
  c.lanes.any fun q => c.far.contains q.1 && g.live.any fun i => (g.lane i).npc = pc && (g.lane i).hold = .retry .waitc && q.2.getLsbD i

/-- R40: a wait at a native PC for earlier accesses of the group is on the rule's list when global-space loads or atomics are among them: at
a `waitc` as it names them, at `bfq.join` for stores, at `guest.dispatch.rg` for the path's loads, at `rega` for loads, at an arrival for
the path's accesses, at a `mig`, `task.phase` or `task.merge` for all; a held `bar.sync` is blocked (R270), and so is an acquire fence,
which waits for such alone. -/
def accessBlocks (g : Group) (w : Word) (pc : DWord) : Bool :=
  let far := fun (c : CountList) => c.pend.any c.far.contains
  match (w.extractLsb' 25 7).toNat with
  | 0x4B => waitcBlocks g w
  | 0x58 => far g.stores
  | 0x24 => g.waitsFar g.loads pc
  | 0x53 => far g.loads
  | 0x4A => w.extractLsb' 0 7 = 4 || g.waitsFar g.loads pc || g.waitsFar g.stores pc
  | 0x56 => true
  | _ => far g.loads || far g.stores

/-- R40: what a lane waits for is on the rule's list: a global-space load or an atomic whose link is down, a full/empty operation, a
barrier, and so what is held as at one (R292), a lease, a pool, or an engine's completion, that of a queue's write-back among them. A
lane that is free is part of a ready path: in the model the result of a load or atomic has come when it has issued (log 49). -/
def waitsBlocked (s : State) (b : Block) (g : Group) (i : Nat) : Bool :=
  let l := g.lane i
  match l.hold with
  | .slot _ _ _ _ | .fe _ | .feDone _ | .pool | .latch _ | .mig _ | .rega _ | .reconv | .retry .lease | .retry .release | .lookup _ | .unbind _ _ |
    .retry .bfq => true
  | .retry .waitc => accessBlocks g (wordAt s b l.npc) l.npc
  | .retry .link => farWord (wordAt s b l.npc)
  | .none | .svc _ _ | .retry .fence => false

/-- R40, R62: an active group without a ready path, all of whose paths wait so. -/
def blocked (s : State) (b : Block) (g : Group) : Bool :=
  g.active && !g.ended && g.stop.isNone && g.live.all (waitsBlocked s b g)

/-- R40: a pending group with a ready path. -/
def Group.waiting (g : Group) : Bool := !g.active && !g.ended && g.stop.isNone && !g.ready.isEmpty

/-- R41: a pending group that has had a ready path for 256 cycles. -/
def Group.overdue (clk : Nat) (g : Group) : Bool := g.waiting && g.wasReady && decide (max g.mark g.since + 256 ≤ clk)

/-- The first of a list under two keys, the lower first; of equal ones the one listed first, in what R40, R41 and R84 order. DESIGN CHOICE,
logs 113 and 114. -/
def lowestBy {α : Type} (a b : α → Nat) (xs : List α) : Option α :=
  xs.find? fun x => xs.all fun y => decide (a x < a y) || (a x = a y && decide (b x ≤ b y))

/-- R40, R41: a sub-core has not swapped in this cycle. -/
def swapFree (s : State) (core sub : Nat) : Bool := (cfind (coreOf s core).swapAt sub).all fun k => decide (k < s.clk)

/-- R40, R41: a sub-core makes its swap of a cycle. -/
def noteSwap (s : State) (core sub cycle : Nat) : State :=
  modCore s core fun c => { c with swapAt := cset c.swapAt sub cycle }

/-- R40, R41: two groups of a sub-core change places between its active and pending sets; neither is chosen in this cycle or the
next. -/
def swapGroups (s : State) (core sub : Nat) (out inn : Nat × Nat × Group) : State :=
  let set := fun (v : Bool) (g : Group) => { g with active := v, since := s.clk, chooseAt := s.clk + 2 }
  noteSwap (modGroup (modGroup s out.1 out.2.1 (set false)) inn.1 inn.2.1 (set true)) core sub s.clk

/-- R40: the swap of a sub-core: the group blocked longest, then active longest, with the ready one pending longest. Of pending
groups that are still equal the model takes the lower block id, then the lower group number; of blocked ones the first in the list of
blocks. DESIGN CHOICE, log 113. -/
def groupSwap (s : State) (core sub : Nat) : State :=
  let out := lowestBy (fun q => q.2.2.blockedAt) (fun q => q.2.2.since) (onSub s core sub (blocked s))
  let inn := lowestBy (fun q => q.2.2.since) (fun q => q.1) (onSub s core sub fun _ g => g.waiting)
  match out, inn with
  | some o, some i => if swapFree s core sub then swapGroups s core sub o i else s
  | _, _ => s

/-- R41: the swap of a group that has been ready too long with the group active longest. Of several that are due the one pending
longest goes first, and of equals the lower block id, then the lower group number. DESIGN CHOICE, log 113. -/
def ageSwap (s : State) (core sub : Nat) : State :=
  let out := lowestBy (fun q => q.2.2.since) (fun q => q.1) (onSub s core sub fun _ g => g.active && !g.ended)
  let inn := lowestBy (fun q => q.2.2.since) (fun q => q.1) (onSub s core sub fun _ g => g.overdue s.clk)
  match out, inn with
  | some o, some i => if swapFree s core sub then swapGroups s core sub o i else s
  | _, _ => s

/-- The sub-cores on which a group pends, as core and sub-core. -/
def pendingSubs (s : State) : List (Nat × Nat) :=
  (s.blocks.flatMap fun b => (b.groups.filter fun g => !g.active && !g.ended).map fun g => (b.core, g.sub)).eraseDups

/-- R40, R41: the swaps that are due now, on every sub-core; of a swap of R41 and one of R40 that are both due, that of R41 is the one of
the cycle. DESIGN CHOICE, log 113. -/
def dueSwaps (s : State) : State :=
  (pendingSubs s).foldl (fun s u => groupSwap (ageSwap s u.1 u.2) u.1 u.2) s

/-- R41: in a cycle, the group pending longest on a sub-core enters a free place of its active set. -/
def enter (s : State) (core sub cycle : Nat) : State :=
  if Config.activePlaces ≤ (onSub s core sub fun _ g => g.active && !g.ended).length then s
  else match lowestBy (fun q => q.2.2.since) (fun q => q.1) (onSub s core sub fun _ g => !g.active && !g.ended) with
    | some q => noteSwap (modGroup s q.1 q.2.1 fun g => { g with active := true, since := cycle, chooseAt := cycle + 2 }) core sub cycle
    | none => s

/-- R41: the entries of the next `n` cycles, one to a sub-core and cycle. -/
def entries (s : State) (n : Nat) : State :=
  (pendingSubs s).foldl (fun s u => (List.range (min n Config.activePlaces)).foldl (fun s k => enter s u.1 u.2 (s.clk + 1 + k)) s) s

/-! ### Issue -/

/-- What issues: an instruction, with the state in which it does. -/
structure Issuing where
  instr : Instr
  state : State

/-! ### Time -/

/-- R333: the interval at which the context that runs on a core is sampled; 0 for none. -/
def samplingOf (s : State) (core : Nat) : Nat :=
  match ownerOf s core with
  | some p => if runs s p (partOf s p).running then (ctxOf s p (partOf s p).running).sampling.interval else 0
  | none => 0

/-- R333: the core takes a sample in this cycle, and has not yet. -/
def sampleDue (s : State) (core : Nat) : Bool :=
  let i := samplingOf s core
  i ≠ 0 && s.clk % i = core * i / Config.cores && (coreOf s core).sampledAt ≠ some s.clk

/-- The partitions some context of which is being sampled. -/
def sampledParts (s : State) : List (Nat × Nat) :=
  (s.parts.filter fun q => runs s q.1 q.2.running && (ctxOf s q.1 q.2.running).sampling.interval ≠ 0).map fun q =>
    (q.1, (ctxOf s q.1 q.2.running).sampling.interval)

/-- R333: the cores of the partitions that are sampled. -/
def sampledCores (s : State) : List Nat :=
  (sampledParts s).flatMap fun q => (List.range Config.cores).filter fun n => (partOf s q.1).desc.const.contains (Config.constOf n)

/-- R333: cycles to the next one in which some core takes a sample. -/
def sampleGap (s : State) : Option Nat :=
  ((sampledCores s).map fun n =>
    let i := samplingOf s n
    (n * i / Config.cores + i - (s.clk + 1) % i) % i + 1).min?

/-- Cycles of this step: no cycle in which a core takes a sample is passed over (R333). -/
def cyclesOf (s : State) : Nat :=
  let n := 1 + Config.stallCycles s.tick
  match sampleGap s with
  | some k => min n k
  | none => n

/-- R340: the rate error of PTIME in a step: none before the first lock, then as it is steered within 100 parts per million; R412: when
PTP is lost, as it was steered last. -/
def steerOf (s : State) : Int :=
  if s.ptpLost || !s.locked then s.steered else max (-16) (min 16 (Config.steer s.tick))

/-- R340: PTIME of a step: one third of a nanosecond a cycle, and the rate error. -/
def ptimeStep (rate : Int) (cycles : Nat) : Nat := (160000 * (cycles : Int) + rate * (cycles : Int)).toNat

/-- Table 18-3: the code of a path held for reconvergence, by the major of its instruction. At `mma` and `mfrag`, which the table does not
name, LEASE. DESIGN CHOICE, log 23. -/
def reconvStall (major : Nat) : Nat :=
  match major with
  | 0x0A => 6
  | 0x25 | 0x26 => 7
  | _ => 5

/-- Table 18-3: the code of a path that waits for earlier accesses of its group: WAITC at a `waitc`, PIPE at a `bfq.join`, RENDEZVOUS where
it is held as at a `mig` (R78, R292), and at `guest.dispatch.rg` the code of the loads that are to write its registers (R50). -/
def accessStall (g : Group) (w : Word) (pc : DWord) : Nat :=
  match (w.extractLsb' 25 7).toNat with
  | 0x4B | 0x56 => 8
  | 0x58 => 14
  | 0x4A => 6
  | 0x24 => if g.waitsFar g.loads pc then 10 else 11
  | _ => 5

/-- Table 18-3: the stall code of the path of a lane of group `k`, where the state decides it; a path whose group the engine serves waits for
room there. At `usys.svc`, `bfq.unbind` and `bfq.join`, which the table does not name, PIPE. DESIGN CHOICE, log 23. -/
def heldStall (s : State) (b : Block) (k : Nat) (g : Group) (i : Nat) : Option Nat :=
  let l := g.lane i
  if !g.active then some 1
  else match l.hold with
    | .pool => some 4
    | .mig _ | .rega _ => some 5
    | .reconv => some (reconvStall ((((fetchWords s b l.npc).getLast?).getD 0).extractLsb' 25 6).toNat)
    | .slot _ _ _ _ => some 6
    | .latch _ => some 7
    | .retry .lease => some (if engineServes s b k then 14 else 7)
    | .retry .waitc => some (accessStall g (wordAt s b l.npc) l.npc)
    | .retry .fence | .retry .release => some 8
    | .fe _ | .feDone _ => some 9
    | .retry .link | .lookup _ => some 10
    | .svc _ _ | .unbind _ _ | .retry .bfq => some 14
    | .none => none

/-- What issues in a cycle: the core, sub-core, block and group of the opportunity, and the lanes of both slots. -/
structure InCycle where
  core : Nat
  sub : Nat
  blk : Nat
  grp : Nat
  lanes : BitVec 32

/-- Table 18-3: codes that only timing decides: of a path that could issue, where others of its sub-core took the slots or not, and of one
that could not. -/
def timedCodes (ready taken : Bool) : List Nat :=
  if ready then [2, 3, 10, 11, 12, 13, 14] ++ (if taken then [15] else []) else [3, 10, 11, 12, 13, 14, 15]

/-- Table 18-3: the stall code of the path of a lane in a cycle: ISSUED when it issues, what holds it, or a code that timing decides. -/
def stallOf (s : State) (now : Option InCycle) (b : Block) (k : Nat) (g : Group) (i : Nat) : Nat :=
  if now.any fun n => n.blk = b.id && n.grp = k && n.lanes.getLsbD i then 0
  else
    let codes := timedCodes (g.stop.isNone && issues s b && g.mayStep i) (now.any fun n => n.core = b.core && n.sub = g.sub)
    (heldStall s b k g i).getD (codes.getD (Config.stallReason (drawOf s k b.id) % codes.length) 15)

/-- Table 18-3: the stall codes of the resident groups of a context, each by the path of its lowest live lane. -/
def groupStalls (s : State) (p c : Nat) (code : Block → Nat → Group → Option Nat) : List (Option Nat) :=
  (s.blocks.filter fun b => b.part = p && b.ctx = c).flatMap fun b =>
    b.liveGroups.filterMap fun k => (b.group k).map fun g => code b k g

/-- Some occurrences divided among codes, as `f` says within what is left; the last code has the rest. -/
def shareOut (f : Nat → Nat) : Nat → List Nat → List (Nat × Nat)
  | _, [] => []
  | left, [c] => [(c, left)]
  | left, c :: cs => (c, min (f c) left) :: shareOut f (left - min (f c) left) cs

/-- Table 18-4: how often each stall code occurs in cycles in which nothing issues: as the state decides, and for paths of which it
does not decide it, as free values that together make up the cycles. -/
def idleStalls (s : State) (p c cycles : Nat) : List (Nat × Nat) :=
  let gs := groupStalls s p c fun b k g => heldStall s b k g (g.live.headD 0)
  ((gs.filterMap id).map fun k => (k, cycles)) ++
    shareOut (fun k => Config.eventCount (0x010 + k) s.tick) (cycles * (gs.filter Option.isNone).length) (timedCodes true false)

/-- The contexts that run on the partitions. -/
def runningCtxs (s : State) : List (Nat × Nat) := s.parts.map fun q => (q.1, q.2.running)

/-- R337: stall codes of the partitions' running contexts are counted. -/
def countStalls (s : State) (f : State → Nat → Nat → List (Nat × Nat)) : State :=
  (runningCtxs s).foldl (fun s q => (f s q.1 q.2).foldl (fun s k => countEvent s q.1 q.2 (0x010 + k.1) k.2) s) s

/-- R337: the stall codes of one cycle. -/
def countCycle (s : State) (now : Option InCycle) : State :=
  countStalls s fun s p c => ((groupStalls s p c fun b k g => some (stallOf s now b k g (g.live.headD 0))).filterMap id).map fun k => (k, 1)

/-- R337: events that pass with time: cycles, the stall codes of all cycles but the last, and those that the model does not time. -/
def countTime (s : State) (cycles : Nat) : State :=
  let s := countStalls s fun s p c => idleStalls s p c (cycles - 1)
  (runningCtxs s).foldl (fun s q =>
    [0x030, 0x031, 0x032, 0x033, 0x034, 0x035, 0x036].foldl
      (fun s code => countEvent s q.1 q.2 code (Config.eventCount code s.tick)) (countEvent s q.1 q.2 0x001 cycles)) s

/-- R5, R207: time goes on by the cycles of a step; groups enter free places in them (R41). -/
def passTime (s : State) : State :=
  let n := cyclesOf s
  let r := steerOf s
  let s := entries s n
  countTime { s with clk := s.clk + n, ptime := s.ptime + ptimeStep r n, steered := r, tick := s.tick + 1 } n

/-- The model's counter goes on within a cycle. -/
def passTick (s : State) : State := { s with tick := s.tick + 1 }

/-- The state as a path issues: the path named, its lanes free, and stepping's lanes used up. -/
def startPath (s : State) (b : Block) (g : Nat) (lanes : BitVec 32) (pc : DWord) (len : Nat) (base : Word) (paths : Nat) : State :=
  let s := modGroup s b.id g fun gr =>
    { gr with
      stepLanes := gr.stepLanes &&& ~~~lanes
      stepPool := gr.stepPool &&& ~~~lanes
      lanes := gr.lanes.mapIdx fun i l => if lanes.getLsbD i then { l with hold := .none } else l }
  { s with cur :=
      { blk := b.id, grp := g, lanes := lanes, pc := pc, base := pc + BitVec.ofNat 64 (4 * (len - 1)),
        next := pc + BitVec.ofNat 64 (4 * len), word := base, paths := paths } }

/-- R337: an instruction issues: the counts of lane, uniform and thread instructions. -/
def countIssue (s : State) (b : Block) (uniform : Bool) (n : Nat) : State :=
  if uniform then countEvent s b.part b.ctx 0x003 1
  else countEvent (countEvent s b.part b.ctx 0x002 1) b.part b.ctx 0x004 n

/-- Table 18-4: executing lanes of a lane instruction, or of a word that is none: those whose guard holds. -/
def executing (i : Instr) (g : Group) (ls : List Nat) : Nat :=
  let x := match i with
    | .nonInstructionWord w => { mod := w.guard }
    | i => i.lext.getD {}
  (ls.filter fun k => guardHolds x (g.lane k)).length

/-- R325: bytes of memory that each executing lane of an instruction reads or writes; a uniform access moves 8. -/
def bytesMoved : Instr → Nat
  | .ld _ _ size _ _ _ | .st _ _ size _ _ _ | .ldl _ _ size _ _ _ | .stl _ _ size _ _ _ | .ldfe _ _ size _ _ _
  | .stfe _ _ size _ _ _ => sizeBytes size
  | .atomfxAdd _ _ _ | .atomfxFetch _ _ _ _ => 16
  | .atomAdd64 _ _ _ _ | .atomXchg64 _ _ _ _ | .atomCas64 _ _ _ _ | .uld _ _ _ _ | .ust _ _ _ _ => 8
  | .guestDispatch _ | .guestDispatchRg _ => 5
  | i => if 0x1D ≤ majorOf i && majorOf i ≤ 0x1E then 4 else 0

/-- R325: the vector operations and memory bytes of an instruction that issues. -/
def issueWork (s : State) (b : Block) (i : Instr) (n : Nat) : State :=
  if i.uext.isSome then countWork s b.part b.core 0 0 (bytesMoved i) else countWork s b.part b.core 0 n (n * bytesMoved i)

/-- R169, R389: the instruction at an address of a block's body, its length in words and its base word. -/
noncomputable def fetch (s : State) (b : Block) (pc : DWord) : Instr × Nat × Word :=
  let ws := fetchWords s b pc
  match decodeWords ws with
  | .ok (i, n) => (i, n, ws.getD (n - 1) 0)
  | .error bad => (.nonInstructionWord bad, bad.len, ws.getD (bad.len - 1) 0)

/-- R30, R410, R415: a path issues: what it executes and the state, or the state in which its core has reached for a frame that the partition
does not own, or its group has met a poisoned one. -/
noncomputable def issuePath (s : State) (blk grp : Nat) (lanes : BitVec 32) (paths : Nat) : Except State Issuing :=
  match blockOf s blk, groupOf s blk grp with
  | some b, some g =>
    let ls := (maskLanes lanes).filter fun i => (g.lane i).live
    match ls with
    | [] => .error s
    | i :: _ =>
      let pc := (g.lane i).npc
      let mask := lanesMask ls
      let (instr, n, w) := fetch s b pc
      if let some pa := fetchForeign s b pc n then .error (isolate s b.part b.core (BitVec.ofNat 64 pa))
      else if fetchPoisoned s b pc n then .error (trapGroup s blk grp i { cause := 0x3C, addr := pc })
      else
        let t := countIssue (startPath s b grp mask pc n w paths) b (((fetchWords s b pc).head?.map isUniform).getD false) (executing instr g ls)
        .ok { instr := instr, state := issueWork t b instr (executing instr g ls) }
  | _, _ => .error s

/-! ### Samples -/

/-- R333: the groups of a context on a core with their group slots. -/
def sampledGroups (s : State) (p c core : Nat) : List (Nat × Nat × Nat) :=
  (s.blocks.filter fun b => b.core = core && b.part = p && b.ctx = c).flatMap fun b =>
    b.liveGroups.map fun k => (gslotOf s core b.id k, b.id, k)

/-- R333: the next group in rotation, by ascending group slot. The first rotation of a core begins above slot 0, which comes last. DESIGN
CHOICE, log 23. -/
def nextSampled (last : Nat) (gs : List (Nat × Nat × Nat)) : Option (Nat × Nat × Nat) :=
  let first := lowestBy (fun q : Nat × Nat × Nat => q.1) (fun _ => 0)
  (first (gs.filter fun q => last < q.1)).or (first gs)

/-- R30: the live lanes of the path at a native PC, held or not. -/
def Group.pathMask (g : Group) (pc : DWord) : BitVec 32 := lanesMask (g.live.filter fun i => (g.lane i).npc = pc)

/-- R333: a core's sample, in a cycle in which something issues or not. -/
def takeSample (s : State) (now : Option InCycle) (p c core : Nat) : State :=
  match nextSampled (coreOf s core).sampled (sampledGroups s p c core) with
  | none => s
  | some (slot, blk, grp) => match blockOf s blk, groupOf s blk grp with
    | some b, some g =>
      let i := g.live.headD 0
      let l := g.lane i
      putRecord (modCore s core fun k => { k with sampled := slot }) p c
        { time := ptimeOf s, noff := noffOf s b l, core := core, gslot := slot
          flags := (if b.lbody then 0x40 else 0) + stallOf s now b grp g i, part := p, ctx := c, launch := b.launch
          live := g.pathMask l.npc, value := l.gpc }
    | _, _ => s

/-- R333: a core takes the sample that is due in this cycle. -/
def pcSample (s : State) (now : Option InCycle) (core : Nat) : State :=
  match ownerOf s core with
  | some p => if sampleDue s core then
      takeSample (modCore s core fun k => { k with sampledAt := some s.clk }) now p (partOf s p).running core else s
  | none => s

/-- R333, R334: the samples that are due in this cycle and not taken, by ascending core: those up to the core that issues, before it
does, or all. A core's own sample comes before the marker that it writes in the same cycle. DESIGN CHOICE, log 23. -/
def dueSamples (s : State) (now : Option InCycle) : State :=
  ((sampledCores s).filter fun n => now.all fun k => n ≤ k.core).foldl (fun s n => pcSample s now n) s

/-- A new cycle: the samples of the last one that are left are taken, and time goes on. -/
def newCycle (s : State) : State := passTime (dueSamples s none)

/-! ### The choice of a cycle -/

/-- The path of a lane, when it can issue now. -/
def pathOfLane (s : State) (blk grp lane : Nat) : Option Ready :=
  match blockOf s blk, groupOf s blk grp with
  | some b, some g => if mayChoose s b grp g then g.ready.find? fun r => r.lanes.getLsbD lane else none
  | _, _ => none

/-- An opportunity: the stall codes of its cycle and the samples that come before it, the group chosen, its pass counts, and what issues
in slot 1 (R34 to R36, R231, R333, R337). -/
def opportunity (s : State) (core sub blk grp : Nat) (r0 : Ready) (r1 : Option Ready) : State :=
  let l1 := (r1.map Ready.lanes).getD 0
  let paths := ((groupOf s blk grp).map pathCount).getD 0
  let now : InCycle := { core := core, sub := sub, blk := blk, grp := grp, lanes := r0.lanes ||| l1 }
  let s := dueSamples (countCycle s (some now)) (some now)
  let s := modGroup s blk grp fun g => { g.passed (r0.lanes ||| l1) with slot1Lane := (maskLanes l1).head? }
  let s := modCore s core (noteChoice sub blk grp)
  { s with slot1 := r1.map fun r => { blk := blk, grp := grp, lanes := r.lanes, pc := r.pc, paths := paths } }

/-- R37: the following instruction of the only ready path of a group on an L-core, when it may issue beside the path's own. -/
noncomputable def follower (s : State) (b : Block) (g : Group) (r0 : Ready) : Option Ready :=
  let x := fetch s b r0.pc
  let next := r0.pc + BitVec.ofNat 64 (4 * x.2.1)
  let y := (fetch s b next).1
  if Config.isLCore b.core && g.stepMode = 0 && (g.ready.filter fun k => k ≠ r0).isEmpty && pairs x.1 y &&
      !(spawnReads s b g y).any (resWrites x.1).contains then
    some { r0 with pc := next }
  else none

/-- R36, R37, R44: what issues in slot 1: another path, unless it and slot 0's are both uniform; or the only path's following
instruction. -/
noncomputable def secondSlot (s : State) (b : Block) (g : Group) (r0 : Ready) : Option Ready → Option Ready
  | some r => if uniformAt s b r0.pc && uniformAt s b r.pc then none else some r
  | none => follower s b g r0

/-- R34 to R37, R44: what the machine's own scheduler issues. -/
noncomputable def issueNext (s : State) : Except State Issuing :=
  match chooseGroup s with
  | none => .error (countCycle s none)
  | some (core, sub, blk, grp) =>
    match blockOf s blk, groupOf s blk grp with
    | some b, some g =>
      match slots core (quantumOf (ctxOf s b.part b.ctx)) g with
      | none => .error s
      | some (r0, r1) =>
        let r1 := secondSlot s b g r0 r1
        let s := if r1.isSome then countEvent s b.part b.ctx 0x005 1 else s
        issuePath (opportunity s core sub blk grp r0 r1) blk grp r0.lanes (pathCount g)
    | _, _ => .error s

/-- R37: the lanes that issue in slot 1: those still at the address, and none of a following instruction when slot 0 has stopped
their group. -/
def SlotOne.here (s : State) (x : SlotOne) : BitVec 32 :=
  match groupOf s x.blk x.grp with
  | some g =>
    if g.stop.isSome && s.cur.lanes = x.lanes then 0
    else lanesMask (g.live.filter fun i =>
      x.lanes.getLsbD i && (g.lane i).npc = x.pc && ((g.lane i).hold = .none || (g.lane i).hold = .reconv))
  | none => 0

/-- An event of the table, which no word encodes (R5). -/
def Turn.isEvent (i : Instr) : Bool :=
  i.base.isNone && (match i with
    | .nonInstructionWord _ => false
    | _ => true)

/-! ### Turns -/

/-- Time goes on for a turn of the table; a sample that is due in this cycle is taken in it. -/
def turnTime (i : Instr) (s : State) : State :=
  match i with
  | .pcSample core => if sampleDue s core then passTick s else countCycle (newCycle s) none
  | _ => countCycle (newCycle s) none

/-- The next turn: slot 1 of the cycle under way, then the agenda, then the machine's own scheduler, which makes the swaps
that are due; each takes the samples that are due. An event of the agenda is an instruction of the table that issues for no path. -/
noncomputable def nextTurn (s : State) : Except State Issuing :=
  match s.slot1 with
  | some x => issuePath (passTick { s with slot1 := none }) x.blk x.grp (x.here s) x.paths
  | none =>
    match s.agenda with
    | .issue blk grp lane :: rest =>
      let s := newCycle { s with agenda := rest }
      match pathOfLane s blk grp lane, blockOf s blk, groupOf s blk grp with
      | some r, some b, some g => issuePath (opportunity s b.core g.sub blk grp r none) blk grp r.lanes (pathCount g)
      | _, _, _ => .error (countCycle s none)
    | .event i :: rest =>
      let s := { s with agenda := rest }
      if Turn.isEvent i then .ok { instr := i, state := turnTime i s } else .error (countCycle (newCycle s) none)
    | [] => issueNext (dueSwaps (newCycle s))

/-! ### After an instruction -/

/-- R353: a lane that is to issue again as it is: it is free, or waits before its instruction has begun. -/
def Lane.goesOn (l : Lane) : Bool := match l.hold with
  | .none | .retry _ => true
  | _ => false

/-- R353, R359: the lanes of a stepped group have issued what they are to issue, and no round holds one that has. -/
def Group.stepped (g : Group) : Bool :=
  g.stepMode ≠ 0 && !g.live.isEmpty && g.stop.isNone &&
    g.live.all fun i => !(g.stepLanes.getLsbD i && (g.lane i).goesOn) && ((g.lane i).hold ≠ .pool || g.stepPool.getLsbD i)

/-- R353: the STEP of a group: the lane it names. -/
def Group.stepName (g : Group) : Nat :=
  if g.stepMode = 1 && (g.lane g.stepLane).live then g.stepLane else g.live.headD 0

/-- R353: STEP is raised; a stop for another cause has replaced it. -/
def settleStep (s : State) (blk grp : Nat) : State :=
  match groupOf s blk grp with
  | none => s
  | some g =>
    let off := fun (s : State) => modGroup s blk grp fun g => { g with stepMode := 0, stepLanes := 0, stepPool := 0 }
    if g.stepMode ≠ 0 && g.stop.isSome then off s
    else if g.stepped then
      trapGroup (off s) blk grp g.stepName { cause := 0x13, info := g.stepMode.setWidth 64 }
    else s

/-- R353: every stepped group is looked at. -/
def settleSteps (s : State) : State :=
  (s.blocks.flatMap fun b => (List.range b.groups.length).filterMap fun k =>
    (b.group k).bind fun g => if g.stepMode = 0 then none else some (b.id, k)).foldl (fun s q => settleStep s q.1 q.2) s

/-! ### A word where it is fetched next -/

/-- The partition, context and graph that `installWord` gives a program when there is none. -/
def installDesc : Desc := { const := [0], l2b := [0], chan := [0], eng := [0], dspw := [(0, 1), (0, 0), (0, 0), (0, 0)] }

/-- The kernel of the placed word: one group of 32 threads, both bodies of five words. -/
def installKernel : Kernel :=
  { threads := 32, clblk := 1, startL := false, dbud := 14, lbud := 14, dsplit := (8, 8), lsplit := (8, 8), priv := 64,
    scrb := 4096, cshb := 0, dbody := some { off := 0, len := 20 }, lbody := some { off := 0, len := 20 } }

/-- The code version that holds the placed word in frame `frame`. -/
def installVersion (id frame : Nat) : Version :=
  { id := id, part := 0, ctx := 0, graph := 2, num := 1, imgva := 0, size := 65536, frames := [frame],
    kernels := [installKernel], entries := [{ kern := 0, nc := 0, nuc := 0, nv := 0, ops := 0, doff := some 0, loff := some 0 }],
    nodes := [{ entry := 0, clusters := 1, deps := 0 }], trc := 0, narg := 0, args := 0, frame := 0, done := 0,
    digest := [] }

/-- The block that runs it on core 0: all 32 lanes live at the word, 112 registers, a private slice and core scratch. -/
def installBlock (id ver : Nat) : Block :=
  { id := id, part := 0, ctx := 0, launch := 0, ver := ver, kern := 0, entry := 0, core := 0, lbody := false,
    cluster := id, grid := id, groups := [newGroup 32 14 0 0], slots := newSlots 16, scrBytes := 4096, privBytes := 64 }

/-- The state with an instruction of at most five words loaded as a program of its own, whose first path issues next: the
model's stand-in for registering, launching and placing a program. -/
def installWord (s : State) (bytes : List Byte) : State :=
  let frame := 4096
  let id := s.fresh
  let s := if (cfind s.parts 0).isSome then s
    else { s with parts := cset s.parts 0 { desc := installDesc, en := true, ctxs := [(0, {})] } }
  let s := modPart s 0 fun q => { q with rung := .none, running := 0, desc := { q.desc with chan := sinsert q.desc.chan 0 } }
  let s := modCore s 0 fun c => { c with frozen := false }
  { s with
    dram := mputs s.dram (frame * Config.pageBytes) bytes
    poison := s.poison.filter fun u => u.1 ≠ .line (frame * Config.pageBytes)
    versions := s.versions ++ [installVersion id frame]
    grids := s.grids ++ [{ id := id, part := 0, ctx := 0, launch := 0, node := 0, slots := newSlots 4, total := 1 }]
    clusters := s.clusters ++ [{ id := id, grid := id, const := 0, slots := newSlots 8, total := 1 }]
    blocks := s.blocks ++ [installBlock id id]
    fresh := id + 1
    slot1 := none
    agenda := .issue id 0 0 :: s.agenda }

end Sys2Proof.Machine
end

