-- ==== Sys2Proof/Machine/Meridian.lean ====
section
/-! DEFINITION. Meanings of the steps that the Meridian and the cores make by themselves: launches, nodes and placement (R27,
R28, R196, R313, R318 to R320), moves (R65, R74), swaps (R40, R41), rounds (R51), records (R82 to R84), leases (R95, R96),
grows (R118) and the freeing of versions (R369). An event whose conditions do not hold changes nothing. -/

namespace Sys2Proof.Machine

open Sys2Proof

/-- R324: a context runs and its ladder is not being climbed: blocks and records may be placed. -/
def places (s : State) (p c : Nat) : Bool := (partOf s p).running = c && (partOf s p).rung = .none

/-- R410: the cores, engine contexts and endpoint contexts of a partition are thawed: its next context starts. -/
def thaw (s : State) (p : Nat) : State :=
  let s :=
    { s with
      frozenEngs := s.frozenEngs.filter fun u => !(partOf s p).desc.eng.contains u
      frozenCopies := s.frozenCopies.filter fun k => !(partOf s p).desc.const.contains k }
  let s := (coresOf s p).foldl (fun s n => if (coreOf s n).frozen then modCore s n fun c => { c with frozen := false } else s) s
  if (partOf s p).eps.any Endpoint.frozen then
    modPart s p fun q => { q with eps := q.eps.map fun e => { e with frozen := false } }
  else s

/-! ### Launches -/

/-- R317: the graph slot, generation and argument slot that a launch word names. -/
def wordSlot (w : DWord) : Nat := w.toNat % 2 ^ 20
def wordGen (w : DWord) : Nat := bits w.toNat 20 12
def wordAslot (w : DWord) : Nat := bits w.toNat 32 16
def wordNotify (w : DWord) : Bool := w.getLsbD 52

/-- R319: the argument slot is copied to the frame, whose granules become full. -/
def copyFrame (s : State) (p : Nat) (v : Version) (w : DWord) : State :=
  let d := (partOf s p).desc
  match dspAddr d (v.args + 256 * wordAslot w) 256, dspAddr d v.frame 256 with
  | some a, some f =>
    (List.range 16).foldl (fun s k =>
      engineLocal s (.dsp (f + 16 * k)) (placePoisoned s (.dsp (a + 16 * k)) 16) (mgets s.dsp (a + 16 * k) 16)) s
  | _, _ => s

/-- R318: the lowest free launch-table index. -/
def freeIndex (q : Part) : Nat := ((List.range 256).find? fun n => q.launches.all fun l => l.idx ≠ n).getD 0

/-- R318, R319: the first queued launch of a graph starts, when none of the graph runs (a graph that had the slot before is another),
bound to the graph's current version (R29). Launches are numbered by the moment they start. DESIGN CHOICE, log 151. -/
def startLaunch (s : State) (p c slot : Nat) : State :=
  let q := partOf s p
  match (cfind (ctxOf s p c).graphs slot).bind fun g => if g.live then versionOf s g.ver else none,
      q.queue.find? fun w => wordCtx w = c && wordSlot w = slot with
  | some v, some w =>
    if !places s p c || !q.en || q.launches.any fun l => l.ctx = c && l.graph = slot && wordGen l.word = wordGen w then s
    else
      let l : Launch :=
        { idx := freeIndex q, ctx := c, graph := slot, ver := v.id, word := w, seq := q.launchSeq,
          nodes := v.nodes.map fun _ => {} }
      let s := modPart s p fun q =>
        { q with
          queue := q.queue.erase w
          launches := q.launches ++ [l]
          launchSeq := q.launchSeq + 1 }
      copyFrame (if q.launches.isEmpty then thaw s p else s) p v w
  | _, _ => s

/-- R313: a block of a kernel fits an empty core of a class. -/
def kernelFitsEmpty (s : State) (p c : Nat) (k : Kernel) (lbody : Bool) : Bool :=
  let core := if lbody then 8 else 0
  k.groups ≤ Config.groupsPerSub core * Config.subCores core &&
    (allocBlock {} 0 (splitOf s p c k lbody) ((List.range k.groups).map fun g => (g, k.budget lbody)) k.priv k.scrb).isSome

/-- R313: blocks of a kernel that an empty core of a class holds together, counted up to `n`. -/
def blocksPerCore (s : State) (p c : Nat) (k : Kernel) (lbody : Bool) (core : Core) (slots : Nat) : Nat → Nat
  | 0 => 0
  | n + 1 =>
    if slots < k.groups then 0
    else match allocBlock core n (splitOf s p c k lbody) ((List.range k.groups).map fun g => (g, k.budget lbody)) k.priv k.scrb with
      | some core => blocksPerCore s p c k lbody core (slots - k.groups) n + 1
      | none => 0

/-- R313: one empty constellation holds a whole cluster of a kernel, on its start class. -/
def clusterFitsEmpty (s : State) (p c : Nat) (k : Kernel) : Bool :=
  let core := if k.startL then 8 else 0
  let per := blocksPerCore s p c k k.startL {} (Config.groupsPerSub core * Config.subCores core) k.clblk
  k.clblk ≤ (classCores 0 k.startL).length * per

/-- R313: the partition could place the kernel. -/
def placeable (s : State) (p c : Nat) (k : Kernel) : Bool :=
  let x := ctxOf s p c
  let owns := fun l => (coresOf s p).any fun n => Config.isLCore n = l
  let classes := [false, true].filter fun l => (k.body l).isSome
  (classes.all fun l => splitOk x.splitLimit l (if l then 64 else 48) (splitOf s p c k l) && kernelFitsEmpty s p c k l) &&
    k.cshb ≤ cshSize s p c && clusterFitsEmpty s p c k && classes.any owns

/-- R197: the tiles and shapes of a version are retired. -/
def retireVersion (s : State) (v : Version) : State :=
  v.handles.foldl (fun s h => if (objOf s v.part v.ctx h).isSome then retireHandle s v.part v.ctx h else s) s

/-- R312: a graph that is no longer registered and has no launch left gives back its tiles and shapes. -/
def retireGraph (s : State) (v : Version) : State :=
  let live := ((cfind (ctxOf s v.part v.ctx).graphs v.graph).map fun g => g.live && g.ver = v.id).getD false
  let used := (partOf s v.part).launches.any fun l => l.ctx = v.ctx && l.graph = v.graph && l.ver = v.id
  if live || used then s else settleFamilies (retireVersion s v)

/-- R313: a launch ends at once, its queued records and later nodes discarded, and is recorded as rejected; its graph may
have waited for it to end (R202, R312). Its blocks that run go on, and its index is free at once. DESIGN CHOICE, log 71. -/
def rejectLaunch (s : State) (p : Nat) (l : Launch) : State :=
  let s := modPart s p fun q => { q with launches := q.launches.filter fun k => k.idx ≠ l.idx }
  let s := { s with recs := s.recs.filter fun r => !(r.part = p && r.launch = l.idx && (match r.kind with
      | .phase _ _ | .child _ _ _ _ => true
      | _ => false)) }
  let s := logPart s p 0x68 l.ctx 0 0 1 l.word
  match versionOf s l.ver with
  | some v => retireGraph s v
  | none => s

/-- The nodes in a node's DEPS (R196). -/
def depsOf (v : Version) (node : Nat) : List Nat :=
  (List.range 64).filter fun k => bits (((v.nodes[node]?).map Node.deps).getD 0) k 1 = 1

/-- R196: the nodes that start when node `node` does: with node 0 every other node whose DEPS is zero. -/
def startsWith (v : Version) (node : Nat) : List Nat :=
  if node = 0 then 0 :: (List.range v.nodes.length).filter fun k => k ≠ 0 && (depsOf v k).isEmpty else [node]

/-- The kernel that a node runs. -/
def nodeKernel (v : Version) (node : Nat) : Option Kernel :=
  (v.nodes[node]?).bind fun n => (v.entries[n.entry]?).bind fun e => v.kernels[e.kern]?

/-- R196, R142: a node's grid begins. -/
def beginNode (p : Nat) (l : Launch) (v : Version) (s : State) (node : Nat) : State :=
  match nodeKernel v node with
  | none => s
  | some k =>
    let g : Grid :=
      { id := s.fresh, part := p, ctx := l.ctx, launch := l.idx, node := node, slots := newSlots 4,
        total := ((v.nodes[node]?).map Node.clusters).getD 0 * k.clblk * k.groups }
    modLaunch { s with grids := s.grids ++ [g], fresh := s.fresh + 1 } p l.idx fun l =>
      { l with nodes := l.nodes.modify node fun r => { r with started := true, grid := g.id } }

/-- R196, R313: a node starts once the nodes in its DEPS have ended, and a node without DEPS with node 0; one that can never be
placed ends its launch. -/
def startNode (s : State) (p idx node : Nat) : State :=
  match launchOf s p idx with
  | none => s
  | some l => match versionOf s l.ver, l.nodes[node]? with
    | some v, some r =>
      let deps := depsOf v node
      if r.started || !places s p l.ctx || (node ≠ 0 && deps.isEmpty) || !(deps.all fun k => nodeEnded s p l k) then s
      else
        let ns := startsWith v node
        if ns.all fun n => (nodeKernel v n).any (placeable s p l.ctx) then ns.foldl (beginNode p l v) s
        else rejectLaunch s p l
    | _, _ => s

/-- R363: slots of a block that is placed again, whose phases byte counts have completed meanwhile. -/
def settleBlock (s : State) (b : Block) : State :=
  let mine := (List.range 16).map fun j => SlotKey.blk b.id j
  let own := (List.range b.groups.length).flatMap fun g => [SlotKey.grp b.id g 0, SlotKey.grp b.id g 1]
  (mine ++ own).foldl settleSlot s

/-- R364: the lanes of a block that is placed again: held lanes execute their instruction again, and waits end whose phase has
completed. -/
def rewaitBlock (s : State) (blk : Nat) : State :=
  let s := modBlock s blk fun b => { b with groups := b.groups.map fun g =>
    if g.imaged then g else { g with lanes := g.lanes.map (Lane.rewait s) } }
  wakeLookups s fun n => n = blk

/-- R364: a lease request that is made again stands in the order of the original requests. -/
def askAgain (s : State) (b : Block) (queue : List Nat) : List Nat :=
  if b.lease.carried || b.lease.wants then
    let before := fun k => ((blockOf s k).map fun x => decide (x.lease.asked ≤ b.lease.asked)).getD true
    queue.takeWhile before ++ b.id :: queue.dropWhile before
  else queue

/-- R364, R387: a saved block is put on a core that can hold it. -/
def resumeOn (s : State) (b : Block) (core : Nat) : Option State :=
  (kernelOf s b).bind fun k =>
    match movedShared s b (Config.constOf core),
        coreFits s core b.id (splitOf s b.part b.ctx k b.lbody) (b.budgets Group.budget) b.privBytes b.scrBytes with
    | some base, some c' =>
      let s := modPart s b.part fun q => { q with resume := q.resume.filter fun x => x.id ≠ b.id }
      let s := { s with blocks := s.blocks ++ [b] }
      let s := modCore (dropLeases s core) core fun _ =>
        { c' with leaseQueue := askAgain s b c'.leaseQueue }
      let groups := seatLive { s with blocks := s.blocks.filter fun k => k.id ≠ b.id } core b.groups
      let s := modBlock s b.id fun _ => { b with core := core, groups := groups, parked := false, image := [], away := false }
      let s := { s with cmds := s.cmds.map fun k => if k.blk = b.id then { k with core := core } else k }
      let s := modCluster s b.cluster fun k =>
        if k.const = Config.constOf core then k else { k with const := Config.constOf core, base := base }
      some (rewaitBlock (settleBlock s b) b.id)
    | _, _ => none

/-- R27: a saved block on the best core of a constellation. -/
def resumeIn (const : Nat) (s : State) (b : Block) : Option State :=
  (bestCore s (fun core => (resumeOn s b core).isSome) (classCores const b.lbody)).bind (resumeOn s b)

/-- R23, R65: the block may leave its constellation: it is alone in its cluster. -/
def Block.alone (b : Block) (k : Kernel) : Bool := decide (k.clblk ≤ 1) || b.origin ≠ .node

/-- R365, R387: the saved block at the head of the resume queue is placed before any new block, with the saved blocks of its cluster,
all in one constellation: the cluster's while the partition has it, or else, for a block alone in its cluster, the first in R64's order,
and for a larger cluster the lowest-numbered, that can hold it. -/
def resumeBlock (s : State) (p : Nat) : Option State :=
  match (partOf s p).resume with
  | [] => none
  | b :: _ =>
    let mates := (partOf s p).resume.filter fun x => x.cluster = b.cluster
    let own := fun n => !((partOf s p).loans.any fun e => e.1 = n)
    let const := ((clusterOf s b.cluster).map Cluster.const).getD 64
    let alone := (kernelOf s b).all b.alone
    let consts :=
      if (constsOf s p).contains const then [const]
      else (if alone then moveConsts s p (Config.constOf b.core) true else constsOf s p).filter own
    consts.findSome? fun n => mates.foldl (fun (acc : Option State) m => acc.bind fun s => resumeIn n s m) (some s)

/-- R27, R28: the next waiting cluster of a node is placed, unless an earlier one that fits waits. -/
def placeNode (s : State) (p idx node : Nat) : State :=
  match resumeBlock s p with
  | some t => if (partOf s p).rung = .none then t else s
  | none => match launchOf s p idx with
    | none => s
    | some l =>
      if !places s p l.ctx || !noneBefore s p l node || !(partOf s p).resume.isEmpty then s else (tryCluster s p l node).getD s

/-- R320: what becomes of the completion word: it has a place in writable system-class memory, it is lost, or it waits for a link. -/
inductive DonePlace where
  | ok (p : Place)
  | lost
  | wait
  deriving DecidableEq, Repr

/-- R320: where DONE translates to. -/
def donePlace (s : State) (p c trc : Nat) (va : DWord) : State × DonePlace :=
  match translateMover s p c trc va (drawOf s 103 0) with
  | (s, .ok (pa, leaf)) =>
    (s, if leaf.getLsbD 3 && (paClass pa = 1 || paClass pa = 2) then
          (match physCheck s p pa va .write with
          | none => .ok (.phys pa)
          | some .wait => .wait
          | some _ => .lost)
        else .lost)
  | (s, .error _) => (s, .lost)

/-- R320: the completion word is written, or its loss recorded. -/
def writeDone (s : State) (p : Nat) (l : Launch) (v : Version) : DonePlace → State
  | .ok pl =>
    let s := if storeLost s p pl then s else coverPlace (writePlace s pl (leBytes 8 l.word.toNat)) pl 8
    { s with outward := s.outward ++ [(v.done, leBytes 8 l.word.toNat)] }
  | _ => logPart s p 0x6B l.ctx 0 0 1 v.done

/-- R320: a launch whose nodes have all ended, and whose system-class stores are visible, ends; a completion word whose link is down
makes it wait. -/
def endLaunch (s : State) (p idx : Nat) : State :=
  match launchOf s p idx with
  | none => s
  | some l => match versionOf s l.ver with
    | none => s
    | some v =>
      if !((List.range l.nodes.length).all fun n => nodeEnded s p l n) || unreleased s p then s
      else
        let r := if wordNotify l.word then donePlace s p l.ctx v.trc v.done else (s, .lost)
        if r.2 = .wait then s
        else
          let s := modPart r.1 p fun q =>
            { q with
              launches := q.launches.filter fun k => k.idx ≠ idx
              doneCnt := q.doneCnt + 1 }
          retireGraph (if wordNotify l.word then writeDone s p l v r.2 else s) v

/-! ### Leases -/

/-- R95, R96, R281: what a granted block finds in its lease: zeroed accumulators at first, and the baton with the group that
asked, unless the lease passed only because of LEASE_CAP; a lease that was carried goes on with its OPS (R71, Table 3-5), and with the
operations that a save found accepted (R362). A baton whose group has ended is the lowest live group's. DESIGN CHOICE, log 153. -/
def Lease.granted (l : Lease) (live : List Nat) : Lease :=
  let baton := if l.everHeld && !l.released then l.baton else l.asker
  { l with
    baton := if live.contains baton then baton else live.headD 0
    ops := if l.carried then l.ops else 0
    carried := false
    wants := false
    released := false
    pending := []
    acc := [] }

/-- R95: the request at the head of a core's queue is granted. -/
def grantLease (s : State) (core : Nat) : State :=
  let c := coreOf s core
  match c.holder, c.leaseQueue with
  | none, k :: rest => match blockOf s k with
    | some b =>
      if !issues s b then s
      else
        let s := modCore s core fun c =>
          { c with
            holder := some k
            leaseQueue := rest
            acc := if b.lease.everHeld then b.lease.acc else []
            ops := c.ops ++ b.lease.pending }
        let s := modBlock s k fun b => { b with lease := b.lease.granted b.liveGroups }
        tryLatch (wakeRetry s (fun n => n = k) .lease) k
    | none => s
  | _, _ => s

/-- R96: a lease that has reached LEASE_CAP passes, once the holder's accepted operations are done: the holder's request goes
to the tail of the queue. -/
def passLease (s : State) (core : Nat) : State :=
  let c := coreOf s core
  match c.holder.bind (blockOf s) with
  | some b =>
    if passDue s b && c.ops.isEmpty then
      let s := modBlock (spillLease s b.id core false) b.id fun b => { b with lease := { b.lease with asked := s.tick } }
      modCore s core fun c => { c with leaseQueue := c.leaseQueue ++ [b.id] }
    else s
  | none => s

/-- R279, R284: the operation at the head of a core's engine is performed, and paths that wait for the engine go on. -/
def completeOp (s : State) (core : Nat) : State :=
  match (coreOf s core).ops with
  | [] => s
  | o :: _ => match performOp s core o with
    | (s, true) =>
      let s := dropOp s core o
      match (coreOf s core).holder with
      | some k =>
        let s := wakeRetry (wakeRetry s (fun n => n = k) .lease) (fun n => n = k) .release
        tryLatch s k
      | none => s
    | (s, false) => s

/-! ### Records -/

/-- R84: records of the running context queued at cores of a partition. -/
def claimable (s : State) (p : Nat) : List TaskRec := s.recs.filter fun r => r.part = p && r.queued && places s p r.ctx

/-- R84: the head of a core's own queue: the highest PRIO, then the earliest queued; of records queued in the same cycle the one made
first. DESIGN CHOICE, log 114. -/
def ownHead (rs : List TaskRec) (core : Nat) : Option TaskRec :=
  lowestBy (fun r => 15 - r.prio) (fun r => r.queuedAt) (rs.filter fun r => r.home = core)

/-- R84: steps 2 to 4: the oldest stealable record that fits, among the queues nearest first; of equally old ones the one made first.
DESIGN CHOICE, log 114. -/
def stealFrom (s : State) (rs : List TaskRec) (core : Nat) : Option State :=
  let ok := rs.filter fun r => r.stealable && r.home ≠ core && (placeRec s r core).isSome
  let near : List (Nat → Bool) :=
    [fun n => decide (Config.constOf n = Config.constOf core), fun n => decide (Config.dieOf n = Config.dieOf core),
      fun _ => true]
  (near.findSome? fun f => lowestBy TaskRec.queuedAt TaskRec.id (ok.filter fun r => f r.home)).bind fun r => placeRec s r core

/-- R83, R346: what becomes of a queued record that no core of its partition can run any more. -/
def orphan (s : State) (r : TaskRec) : State :=
  let s := { s with recs := s.recs.filter fun x => x.id ≠ r.id }
  match r.kind with
  | .handler slot _ _ => actThree s r.part r.ctx slot
  | .notice _ => s
  | _ => match launchOf s r.part r.launch with
    | some l => rejectLaunch s r.part l
    | none => s

/-- R84: a core of a partition claims a record. -/
def claim (s : State) (core : Nat) : State :=
  match ownerOf s core with
  | none => s
  | some p =>
    let s := ((claimable s p).filter fun r => (recCores s r).isEmpty).foldl orphan s
    let rs := claimable s p
    let c := (partOf s p).running
    if !(partOf s p).resume.isEmpty then s
    else match (ownHead rs core).bind fun r => placeRec s r core with
      | some t => countEvent t p c 0x050 1
      | none => match stealFrom s rs core with
        | some t => countEvent (countEvent t p c 0x050 1) p c 0x051 1
        | none => s

/-! ### Versions -/

/-- R111, R369: something refers to a code version. -/
def versionUsed (s : State) (v : Nat) : Bool :=
  (s.blocks.any fun b => b.ver = v) || (s.recs.any fun r => r.ver = v) || (s.bfqs.any fun q => q.2.ver = v) ||
    s.parts.any fun p => (p.2.launches.any fun l => l.ver = v) || (p.2.resume.any fun b => b.ver = v) ||
      p.2.ctxs.any fun c => (c.2.graphs.any fun g => g.2.live && g.2.ver = v) ||
        c.2.saved.any fun w => ((w.blocks ++ w.resume).any fun b => b.ver = v) || (w.recs.any fun r => r.ver = v) ||
          w.bfqs.any fun q => q.2.ver = v

/-- The address of the leaf of a walk, for a page of 64 KiB, when every table above it is there. -/
def leafAddr (s : State) (d : Desc) (va : Nat) : List (Nat × Nat × Nat) → Nat → Option Nat
  | [], _ => none
  | (lvl, lo, n) :: rest, tab =>
    let ea := tab + 8 * bits va lo n
    if lvl = 4 then some ea
    else
      let e := leNat (mgets s.dram ea 8)
      let next := if lvl = 3 then bits e 8 44 * 256 else bits e 12 40 * 4096
      if e % 2 = 0 || bits e 1 1 = 1 || !dramOwned d next then none else leafAddr s d va rest next

/-- R367, R369: the leaf of a 64 KiB page under a TRC word, written; nothing where no table holds it. -/
def setLeaf (s : State) (p : Nat) (t va : DWord) (leaf : Nat) : State :=
  let d := (partOf s p).desc
  let root := bits t.toNat 12 40 * 4096
  match if dramOwned d root then leafAddr s d (va.toNat % 2 ^ 57) walkLevels root else none with
  | some ea => { s with dram := mputs s.dram ea (leBytes 8 leaf) }
  | none => s

/-- R369: the TRC words that lead to a version's leaves: the one they were written through, and the context's own now. -/
def Version.roots (s : State) (v : Version) : List DWord := [v.root, trcOf s v.part v.ctx v.trc].eraseDups

/-- R369: the leaf of a page of a version under a TRC word, removed while it still maps the version's frame and no other version
lies there. -/
def clearLeaf (s : State) (v : Version) (k : Nat) (t : DWord) : State :=
  let va := v.imgva + BitVec.ofNat 64 (k * Config.pageBytes)
  let frame := v.frames.getD k 0
  let kept := s.versions.any fun w => w.id ≠ v.id && w.part = v.part && (w.roots s).contains t &&
    (List.range w.frames.length).any fun k => w.frames.getD k 0 = frame && w.imgva + BitVec.ofNat 64 (k * Config.pageBytes) = va
  match walkBy s v.part t va with
  | .ok (base, size, _) => if size = Config.pageBytes && base = frame * Config.pageBytes && !kept then setLeaf s v.part t va 0 else s
  | .error _ => s

/-- R369: the leaves of a version are removed, with every translation that reaches its frames, and its frames are free. -/
def freeVersion (s : State) (v : Version) : State :=
  let s := (v.roots s).foldl (fun s t => (List.range v.frames.length).foldl (fun s k => clearLeaf s v k t) s) s
  let meets := fun (e : TlbEntry) => (v.frames.filter fun f => !(s.versions.any fun w => w.id ≠ v.id && w.frames.contains f)).any fun f =>
    decide (e.pa < f * Config.pageBytes + Config.pageBytes) && decide (f * Config.pageBytes < e.pa + e.size)
  { s with tlb := s.tlb.filter fun e => !meets e, versions := s.versions.filter fun w => w.id ≠ v.id }

/-! ### The events -/

/-- R318, R319: LAUNCH_START. -/
def execLaunchStart (part : Nat) (ctx : Nat) (slot : Nat) (s : State) : Out := .next (startLaunch s part ctx slot)

/-- R196, R313: NODE_START. -/
def execNodeStart (part : Nat) (launch : Nat) (node : Nat) (s : State) : Out := .next (startNode s part launch node)

/-- R27, R28, R387: BLOCK_PLACEMENT. -/
def execBlockPlacement (part : Nat) (launch : Nat) (node : Nat) (s : State) : Out := .next (placeNode s part launch node)

/-- Blocks of a waiting cluster, at most all of them, that a constellation could hold at once. -/
def roomFor (s : State) (n : NodeBlock) (const : Nat) : Nat → Nat
  | 0 => 0
  | m + 1 => match placeNodeBlock n const s m with
    | some s => roomFor s n const m + 1
    | none => 0

/-- R28: the move helps to gather room for a waiting cluster of another grid: it takes the block out of a constellation whose cores
of the cluster's class then have more free, or lets some constellation hold more of the cluster's blocks. -/
def gathers (s t : State) (b : Block) (core : Nat) : Bool :=
  (launchOrder s b.part).any fun l => (List.range l.nodes.length).any fun k => match nextCluster s b.part l k with
    | none => false
    | some n => n.grid ≠ b.grid && (tryCluster s b.part l k).isNone &&
        ((n.k.startL = b.lbody && Config.constOf core ≠ Config.constOf b.core) ||
          (constsOf s b.part).any fun c => decide (roomFor s n c n.k.clblk < roomFor t n c n.k.clblk))

/-- R28, R74: SAME_CLASS_MOVE, for a cluster of another grid of the partition that waits for room. -/
def execSameClassMove (blk : Nat) (core : Nat) (s : State) : Out :=
  match blockOf s blk with
  | none => .next s
  | some b =>
    let stays := Config.constOf core = Config.constOf b.core || (kernelOf s b).any b.alone
    let ok := places s b.part b.ctx && movable s b && stays && Config.isLCore core = b.lbody && (coresOf s b.part).contains core &&
      core ≠ b.core
    .next (match if ok then moveSame s b core else none with
      | some t => if gathers s t b core then t else s
      | none => s)

/-- R320: LAUNCH_END. -/
def execLaunchEnd (part : Nat) (launch : Nat) (s : State) : Out := .next (endLaunch s part launch)

/-- R40: GROUP_SWAP. -/
def execGroupSwap (core : Nat) (sub : Nat) (s : State) : Out := .next (groupSwap s core sub)

/-- R41: PENDING_AGE_SWAP. -/
def execPendingAgeSwap (core : Nat) (sub : Nat) (s : State) : Out := .next (ageSwap s core sub)

/-- R51: REGROUP_TIMEOUT. A round that is open counts against GRG_WAIT as it stands now (R299). DESIGN CHOICE, log 138. -/
def execRegroupTimeout (blk : Nat) (s : State) : Out :=
  match blockOf s blk with
  | some b =>
    let w := (ctxOf s b.part b.ctx).grgWait.toNat
    let due := w ≠ 0 && runs s b.part b.ctx && b.round.any fun r => decide (r.start + w ≤ s.clk)
    .next (if due then closeRound (countEvent s b.part b.ctx 0x054 1) blk else s)
  | none => .next s

/-- R64: where a block whose rendezvous is complete would go now. -/
def rdvTarget (s : State) (b : Block) : Option Nat := (kernelOf s b).bind fun k => classTarget s b k (!b.lbody)

/-- R64: an earlier waiting migration of the partition has room and no target yet, so that it is served first; one
without room holds no later one back. DESIGN CHOICE, log 143. -/
def servedBefore (s : State) (b : Block) (r : Rendezvous) : Bool :=
  s.blocks.any fun o => o.part = b.part &&
    o.rdv.any (fun q => q.ready && q.kind ≠ 2 && q.target.isNone && decide (q.order < r.order)) && issues s o && (rdvTarget s o).isSome

/-- R64: the core to which a block whose rendezvous is complete goes: the one chosen, while the partition has it, or the one that is
chosen now, in the order in which waiting rendezvous completed. -/
def rdvCore (s : State) (b : Block) (r : Rendezvous) : Option Nat :=
  match r.target.filter (coresOf s b.part).contains with
  | some n => some n
  | none => if r.kind ≠ 2 && servedBefore s b r then none else rdvTarget s b

/-- R64: the target of a block's migration is chosen, or given up. -/
def setTarget (s : State) (blk : Nat) (core : Option Nat) : State :=
  modBlock s blk fun b => { b with rdv := b.rdv.map fun r => { r with target := core } }

/-- R64 to R66: MIGRATE: the target is chosen; the block moves once its matrix instructions are complete; a `mig.auto` never waits for
room, and goes on where it is when it has found none. -/
def execMigrate (blk : Nat) (s : State) : Out :=
  match blockOf s blk with
  | none => .next s
  | some b => match b.rdv, versionOf s b.ver, kernelOf s b with
    | some r, some v, some k =>
      if !r.ready || !issues s b then .next s
      else match k.eqps.find? fun e => e.id = r.eqp, rdvCore s b r with
        | some e, some core =>
          .next (if opsDone s b then (migrateBlock s b v k e core).getD (setTarget s blk none) else setTarget s blk (some core))
        | _, _ => .next (if r.kind = 2 then rdvContinue s blk else s)
    | _, _, _ => .next s

/-- R84: RECORD_CLAIM. -/
def execRecordClaim (core : Nat) (s : State) : Out := .next (claim s core)

/-- R84: RECORD_STEALABLE. -/
def execRecordStealable (rec' : Nat) (s : State) : Out :=
  .next { s with recs := s.recs.map fun r =>
    if r.id = rec' && r.queued && places s r.part r.ctx && r.queuedAt + r.age ≤ s.clk then { r with stealable := true } else r }

/-- R95: LEASE_GRANT. -/
def execLeaseGrant (core : Nat) (s : State) : Out := .next (grantLease s core)

/-- R96: LEASE_PASS. -/
def execLeasePass (core : Nat) (s : State) : Out := .next (passLease s core)

/-- R279: MATRIX_OP_COMPLETE. -/
def execMatrixOpComplete (core : Nat) (s : State) : Out := .next (completeOp s core)

/-- R118: REGA_GRANT. -/
def execRegaGrant (core : Nat) (s : State) : Out :=
  match (coreOf s core).regaQueue with
  | [] => .next s
  | r :: rest => match grow s core r.blk r.grp r.units with
    | none => .next s
    | some s =>
      let s := modCore s core fun c => { c with regaQueue := rest }
      .next (modGroup s r.blk r.grp fun g => { g with lanes := g.lanes.map fun l => match l.hold with
        | .rega next => l.advance next |> fun l => { l with hold := .none }
        | _ => l })

/-- R369: VERSION_FREE. -/
def execVersionFree (ver : Nat) (s : State) : Out :=
  match versionOf s ver with
  | some v => .next (if versionUsed s ver then s else freeVersion s v)
  | none => .next s

end Sys2Proof.Machine
end

