-- ==== Sys2Proof/Machine/EngineEvents.lean ====
section
/-! DEFINITION. The engines at work: pieces written, commands completed or faulted (R123, R282, R376), collectives (R288, R289,
R403), full/empty waits that last too long (R357), accesses that complete (R271) and PC samples (R333, R334). -/

namespace Sys2Proof.Machine

open Sys2Proof

/-! ### Copies, gathers and drains -/

/-- R387: the command's block waits to be placed again, and the command with it. -/
def Cmd.parked (s : State) (c : Cmd) : Bool := (partOf s c.part).resume.any fun b => b.id = c.blk

/-- R363, R410: the command is not stopped, faulted or done, and its copy engine is not frozen. -/
def Cmd.goes (s : State) (c : Cmd) : Bool :=
  c.moves && !c.fault && decide (c.done < c.total) && runs s c.part c.ctx && !c.parked s && !s.frozenCopies.contains (Config.constOf c.core)

/-- The matrix engine has not performed the drain of this command. -/
def drainPending (s : State) (c : Cmd) : Bool :=
  (coreOf s c.core).ops.any fun o => match o with
    | .mdrain _ _ id _ => id = c.id
    | _ => false

/-- R376: a command's fault is reported, once. -/
def faultCmd (s : State) (c : Cmd) (t : Trap) : State :=
  reportFault (modCmd s c.id fun k => { k with fault := true }) c.part c.ctx c.blk c.grp c.core c.major c.pc c.id t

/-- R123, R325: the next 16 bytes of a copy or gather. -/
def writeNext (s : State) (c : Cmd) : State :=
  match movePiece s c with
  | (t, .ok _) => countWork (countEvent t c.part c.ctx 0x040 16) c.part c.core 0 0 16
  | (_, .error (.foreign t)) => isolateCopy s c.part c.core t
  | (_, .error _) => s

/-! ### Collectives -/

/-- Pieces of 16 bytes read from byte `o` of a command's source on, with the poison of each; bytes read ahead count as they were (R132). -/
def readRun (s : State) (c : Cmd) (o : Nat) : Nat → State × Except NoAccess (List Byte × List Bool)
  | 0 => (s, .ok ([], []))
  | n + 1 => match readPiece s c o with
    | (s, .error e) => (s, .error e)
    | (s, .ok (bs, bad)) => match readRun s c (o + 16) n with
      | (s, .error e) => (s, .error e)
      | (s, .ok (rest, bads)) => (s, .ok (bs ++ rest, bad :: bads))

/-- What a collective writes, in pieces of 16 bytes. -/
def collParts (dst : DWord) (bs : List Byte) (bad : Nat → Bool) : List (DWord × Part16) :=
  (List.range ((bs.length + 15) / 16)).map fun k =>
    (dst + BitVec.ofNat 64 (16 * k), { pa := 0, add := false, bytes := (bs.drop (16 * k)).take 16, bad := bad k : Part16 })

/-- R133, R376: the pieces of a collective that does not combine, written as far as no access fails. -/
def writeParts (c : Cmd) (s : State) (parts : List Part16) : State :=
  modCmd (parts.foldl (fun s q => globalWrite s c q.bad q.page q.va q.pa q.bytes) s) c.id fun k =>
    { k with done := (parts.map fun q => q.bytes.length).sum }

/-- R289: the pairs of a sparse source. -/
def sparsePairs (bs : List Byte) : List (Nat × Nat) :=
  (List.range (bs.length / 8)).map fun k => (leNat ((bs.drop (8 * k)).take 4), leNat ((bs.drop (8 * k + 4)).take 4))

/-- R289: the leaf L_q: each element folds the values of its index, in pair order, onto the identity. -/
def sparseLeaf (op dcount : Nat) (bs : List Byte) : List Byte :=
  let ps := sparsePairs bs
  (List.range dcount).flatMap fun x =>
    leBytes 4 ((ps.filter fun p => p.1 = x).foldl (fun acc p => opApply op acc p.2) (opIdentity op))

/-- A chunk of a list of bytes. -/
def chunkOf (n k : Nat) (bs : List Byte) : List Byte := (bs.drop (n * k)).take n

/-- R289: what a collective writes to the member of a rank, from the sources in ascending rank. -/
def collResult (fn op root count dcount rank : Nat) (srcs : List (List Byte)) : List Byte :=
  let n := srcs.length
  match fn with
  | 0 => mergeRoot op n srcs
  | 1 => chunkOf (count / n) rank (mergeRoot op n srcs)
  | 2 => srcs.flatten
  | 3 => srcs.getD root []
  | 4 => mergeRoot op n (srcs.map (sparseLeaf op dcount))
  | _ => srcs.flatMap fun q => chunkOf (count / n) rank q

/-- R415: whether piece `k` of what a collective writes to the member of a rank comes from poison in the source of member `q` of `n`. -/
def collTaint (fn root count rank n q : Nat) (src : List Byte) (bads : List Bool) (k : Nat) : Bool :=
  let at' := fun j => bads.getD j false
  let chunk := count / n / 16
  match fn with
  | 0 => at' k
  | 1 => at' (rank * chunk + k)
  | 2 => decide (q * (count / 16) ≤ k) && at' (k - q * (count / 16))
  | 3 => root = q && at' k
  | 4 => ((sparsePairs src).mapIdx fun j p => (j, p.1)).any fun p => p.2 / 4 = k && at' (p.1 / 2)
  | _ => decide (q * chunk ≤ k && k < (q + 1) * chunk) && at' (rank * chunk + k - q * chunk)

/-- R415: whether piece `k` of what a collective writes to the member of a rank is poisoned, by the sources in ascending rank, each with its
poisoned pieces. -/
def collPoison (fn root count rank : Nat) (srcs : List (List Byte × List Bool)) (k : Nat) : Bool :=
  (srcs.mapIdx fun q e => collTaint fn root count rank srcs.length q e.1 e.2 k).any id

/-- R376: a command's condition is reported. -/
def faultMet (s : State) (c : Cmd) : State :=
  match (cmdOf s c.id).bind Cmd.met with
  | some (k, a, i) => faultCmd s c { cause := k, addr := a, info := i }
  | none => s

/-- R289: the oldest collective of a context that is not performed, faulted or discarded. -/
def oldestColl (s : State) (unit : Nat) : Option Cmd :=
  s.cmds.find? fun c => !c.fault && decide (c.done < c.total) && c.ofUnit unit

/-- R289, R325, R376, R403: a collective performed with what the other members issued. Every member's SRC is read, also for a bcast whose
root is another. DESIGN CHOICE, log 140. -/
def exchange (s : State) (c : Cmd) (t : Coll) (peers : List PeerColl) : State :=
  match c.kind with
  | .coll fn unit op root _ dst count dcount =>
    if collBad fn op root count dcount (some t) || (peers.any fun p => p.fn ≠ fn || p.op ≠ op || p.count ≠ count) then
      faultCmd s c { cause := 0x02, addr := dst }
    else match readRun s c 0 (count / 16) with
      | (_, .error (.trap e)) => faultCmd s c e
      | (_, .error (.foreign e)) => isolateEngine s c.part unit e
      | (_, .error .wait) => s
      | (t', .ok (own, bads)) =>
        let others := peers.map fun p => (p.src, p.bads)
        let srcs := others.take t.rank ++ (own, bads) :: others.drop t.rank
        let out := collResult fn op root count dcount t.rank (srcs.map Prod.fst)
        let bad := collPoison fn root count t.rank srcs
        let put := if fn = 0 || fn = 1 || fn = 4 then makeUpdate c else writeParts c
        let t' := modCmd t' c.id fun k => { k with total := out.length }
        match putParts t' c put (fun s a => isolateEngine s c.part unit a) (gatherParts t' c (collParts dst out bad)) with
        | (_, false) => s
        | (t', true) =>
          let wrote := ((cmdOf t' c.id).map Cmd.done).getD 0
          faultMet (countDie (countEvent t' c.part c.ctx 0x041 wrote) c.part (unit / 8) 0 0 wrote) c
  | _ => s

/-! ### The events -/

/-- R132: a command may read ahead a byte of its source at an offset: it is under way, and has not come to that byte. -/
def Cmd.mayRead (s : State) (c : Cmd) (o : Nat) : Bool :=
  c.unread.contains o && (if c.moves then c.goes s else !c.fault)

/-- R132, R123, R363: ENGINE_WRITE: a command reads some bytes of its source ahead, or writes its next 16 bytes. -/
def execEngineWrite (cmd : EngineStep) (s : State) : Out :=
  match cmdOf s cmd.cmd with
  | some c =>
    .next (if cmd.early.isEmpty then (if c.goes s then writeNext s c else s)
      else (cmd.early.filter (c.mayRead s)).foldl (readAhead c.id) s)
  | none => .next s

/-- R282: ENGINE_COMMAND_COMPLETE. -/
def execEngineCommandComplete (cmd : Nat) (s : State) : Out :=
  match cmdOf s cmd with
  | some c =>
    .next (if c.total ≤ c.done && !c.fault && !drainPending s c && !c.parked s && (runs s c.part c.ctx || !c.moves) then finishCmd s c else s)
  | none => .next s

/-- R289, R403: COLLECTIVE_EXCHANGE; `peers` are the other members' commands in ascending rank. -/
def execCollectiveExchange (unit : Nat) (peers : List PeerColl) (s : State) : Out :=
  match oldestColl s unit, collTable s unit with
  | some c, some t =>
    .next (if peers.length + 1 = t.members && (peers.all fun p => p.src.length = p.count) then exchange s c t peers else s)
  | _, _ => .next s

/-- R376: ENGINE_COMMAND_FAULT. -/
def execEngineCommandFault (cmd : Nat) (s : State) : Out :=
  match cmdOf s cmd with
  | none => .next s
  | some c =>
    if c.fault || c.total ≤ c.done then .next s
    else match c.kind with
      | .mdrain _ _ _ _ => .next (faultMet s c)
      | .coll _ _ _ _ _ dst _ _ => match readPiece s c 0, globalParts s c .write dst (segments dst.toNat 16) with
        | (_, .error (.trap t)), _ => .next (faultCmd s c t)
        | _, (_, .error (.trap t)) => .next (faultCmd s c t)
        | _, _ => .next s
      | _ => match movePiece s c with
        | (_, .error (.trap t)) => .next (if c.goes s then faultCmd s c t else s)
        | _ => .next s

/-- R357: FE_WATCHDOG. -/
def execFeWatchdog (blk : Nat) (grp : Nat) (lane : Nat) (s : State) : Out :=
  match s.feq.find? fun w => w.blk = blk && w.grp = grp && w.lane = lane, blockOf s blk, groupOf s blk grp with
  | some w, some b, some g =>
    if w.start + 2 ^ 28 ≤ s.clk && g.stop.isNone && runs s b.part b.ctx then
      .next (feStop { s with feq := s.feq.erase w } w
        { cause := 0x1A, addr := BitVec.ofNat 64 w.addr, info := BitVec.ofNat 64 w.code })
    else .next s
  | _, _, _ => .next s

/-- R271: MEMORY_ACCESS_COMPLETE: an entry of a list of loads or stores, but for one whose full/empty operation still waits. -/
def execMemoryAccessComplete (blk : Nat) (grp : Nat) (store : Bool) (id : Nat) (s : State) : Out :=
  let waits := s.feq.any fun w => w.blk = blk && w.grp = grp && w.entry = id && (match w.op with
    | .load _ => !store
    | .store _ => store)
  if waits then .next s
  else
    let s := modGroup s blk grp fun g =>
      if store then { g with stores := g.stores.retire id } else { g with loads := g.loads.retire id }
    .next (wakeRetry s (fun k => k = blk) .waitc)

/-- R333, R334: PC_SAMPLE. -/
def execPcSample (core : Nat) (s : State) : Out := .next (pcSample s none core)

end Sys2Proof.Machine
end

