-- ==== Sys2Proof/Machine/World.lean ====
section
/-! DEFINITION. What reaches the module from outside and from its hardware: the pool's coherence (R131, R139, R140), power and
heat (R325, R326, R417), time (R340), links (R412, R413), soft errors (R414 to R416), isolation (R410), and words that are no
instruction (R389 to R393). An event whose conditions do not hold changes nothing. -/

namespace Sys2Proof.Machine

open Sys2Proof

/-! ### Coherence -/

/-- R138: a system agent's store to a pool byte: leases that show the byte go on showing what it was. -/
def agentByte (s : State) (a : Nat) (v : Byte) : State :=
  let old := poolHome s a
  let show' := fun (l : PoolLease) =>
    if l.line = a / 64 && (queued s.sysq a).isNone && (cfind l.stale a).isNone then { l with stale := cset l.stale a old } else l
  let s := { s with poolLeases := s.poolLeases.map show' }
  coverPoison { s with pool := mput s.pool a v } (.line (2 ^ 44 + a / 64 * 64)) (a % 64) 1

/-- R138: a system agent's store to bytes of a pool line, at offsets in it: it is one store, and enters the order whole. -/
def agentStore (s : State) (line : Nat) (bytes : List (Nat × Byte)) : State :=
  let own := ((bytes.map fun q => 64 * line + q.1).filter fun a => (queued s.sysq a).isNone)
  let s := bytes.foldl (fun s q => agentByte s (64 * line + q.1) q.2) s
  { s with poolLeases := s.poolLeases.map fun l => if l.line = line then { l with runs := l.runs ++ [own] } else l }

/-- Table 6-1: a line leaves the home L2, its merged stores written back. -/
def dropLine (s : State) (line : Nat) : State :=
  let s := poolWriteBack s line
  { s with poolLines := cdel s.poolLines line }

/-- R413: the pool can be reached. -/
def poolUp (s : State) : Bool := !s.cxlUp.isEmpty && !s.poolDead

/-- R141: paths that wait at a release fence try again. -/
def wakeFences (s : State) : State := wakeRetry s (fun _ => true) .fence

/-- R412, R413: paths whose access waits for a link try again, and so do rows that a binding holds and could not admit (R99), and with
them its release (R102). -/
def wakeLinks (s : State) : State :=
  let s := wakeLookups (wakeRetry s (fun _ => true) .link) fun _ => true
  s.bfqs.foldl (fun s e => retryHeld s e.1) s

/-! ### Links -/

/-- R412, R413: paths of a partition that wait at a fence raise DATA_POISON. -/
def poisonFences (s : State) (p : Nat) (addr : DWord) : State :=
  let held := (s.blocks.filter fun b => b.part = p).flatMap fun b => (List.range b.groups.length).flatMap fun k =>
    match b.group k with
    | some g => (((g.live.filter fun i => (g.lane i).hold = .retry .fence).map fun i => (g.lane i).npc).eraseDups).filterMap
        fun pc => (g.live.find? fun i => (g.lane i).npc = pc).map fun i => (b.id, k, pc, i)
    | none => []
  held.foldl (fun s q =>
    let free := fun (l : Lane) => if l.hold = .retry .fence && l.npc = q.2.2.1 then { l with hold := .none } else l
    let s := modGroup s q.1 q.2.1 fun g => { g with lanes := g.lanes.map free }
    trapGroup s q.1 q.2.1 q.2.2.2 { cause := 0x3C, addr := addr }) s

/-- R412: a host-visible window is lost: stores to it that wait, and what engines have written to it and not published, are discarded. -/
def loseWindow (s : State) (p idx : Nat) (w : Nat × Nat × DWord) : State :=
  let base := w.1 * 2 ^ 21
  let here := fun (a : Nat) => inWindows [(w.1, w.2.1)] a
  let waits := s.posted.find? fun e => here e.1
  let s := modPart s p fun q => { q with lost := q.lost ++ [idx] }
  let far := fun pa => paClass pa = 2 && here (pa % 2 ^ 44)
  let s :=
    { s with
      posted := s.posted.filter fun e => !here e.1
      unpub := s.unpub.filter fun u => !far u.pa
      atOnce := s.atOnce.map fun u => { u with parts := u.parts.filter fun q => !far q.pa } }
  let s := match waits with
    | some e => poisonFences s p (BitVec.ofNat 64 (2 * 2 ^ 44 + e.1))
    | none => s
  let port := (cfind (partOf s p).winPorts idx).getD 0
  wakeFences (wakeLinks (logUnit s p 0x62 0xFF port 5 1 (BitVec.ofNat 64 (2 * 2 ^ 44 + base))))

/-- R413: the pool is lost. -/
def losePool (s : State) : State :=
  let users := (s.parts.filter fun q => q.2.desc.poolw.any fun w => w.2 ≠ 0).map Prod.fst
  let waits := fun p => s.sysq.find? fun e => poolOwned (partOf s p).desc (2 ^ 44 + e.addr)
  let t := { s with poolDead := true, poolLines := [], sysq := [], poolLeases := [] }
  let t := users.foldl (fun t p => match waits p with
    | some e => poisonFences t p (BitVec.ofNat 64 (2 ^ 44 + e.addr))
    | none => t) t
  wakeFences (wakeLinks (users.foldl (fun t p => logTo t p 0x64 0xFF 0 6 1 0xFF 0xFF) t))

/-! ### Soft errors -/

/-- The cluster whose shared memory stands in a constellation: that of a parked cluster, or of a cluster of a halted context, stands in
an image, which `PoisonUnit.unowned` covers. -/
def residentCluster (s : State) (c : Nat) : Option Cluster := (clusterOf s c).filter fun k => decide (k.const < 64)

/-- The partition that owns a unit of R414. -/
def unitOwner (s : State) : PoisonUnit → Option Nat
  | .line pa | .l2 pa => (s.parts.find? fun q => dramOwned q.2.desc pa || poolOwned q.2.desc pa).map Prod.fst
  | .priv b _ _ _ | .scratch b _ | .reg b _ _ _ | .acc b _ _ => (blockOf s b).map Block.part
  | .shared c _ => ((residentCluster s c).bind fun k => gridOf s k.grid).map Grid.part
  | .dsp g =>
    let die := g * 16 / 2 ^ 25
    let mib := g * 16 % 2 ^ 25 / 2 ^ 20
    (s.parts.find? fun q => match q.2.desc.dspw[die]? with
      | some w => decide (w.1 ≤ mib && mib < w.1 + w.2)
      | none => false).map Prod.fst
  | .unowned p _ => some p

/-- R414: the L2 bank that holds a line: one of the partition's on the die of the line's channel; for a pool line, of any. -/
def bankOf (s : State) (pa : Nat) : Nat :=
  let d := (partOf s ((unitOwner s (.line pa)).getD 0)).desc
  let mine := if paClass pa = 0 then d.l2b.filter fun b => b / 64 = pa / 2 ^ 33 / 16 else d.l2b
  mine.getD (Config.l2Bank (pa / 64) % mine.length) 0

/-- Table 24-1: the unit number and its kind in the record of an error. A granule of shared memory lies in the core at its stripe's
position in the constellation (R121); state that no instruction owns is recorded under the partition's lowest channel, where its images
lie. DESIGN CHOICE, log 119. -/
def unitNumber (s : State) : PoisonUnit → Nat × Nat
  | .line pa => memoryUnit pa
  | .l2 pa => (bankOf s pa, 1)
  | .priv b _ _ _ | .scratch b _ | .reg b _ _ _ | .acc b _ _ => (((blockOf s b).map Block.core).getD 0, 0)
  | .shared c o => (((residentCluster s c).map fun k => Config.coresPerConst * k.const + (k.base + 16 * o) / 4096 % Config.coresPerConst).getD 0, 0)
  | .dsp g => (g * 16 / 2 ^ 25, 7)
  | .unowned p _ => ((partOf s p).desc.chan.headD 0, 2)

/-- R414: the unit is there. -/
def unitThere (s : State) : PoisonUnit → Bool
  | .line pa | .l2 pa => pa % 64 = 0 && (unitOwner s (.line pa)).isSome
  | .priv b g l o => match blockOf s b, groupOf s b g with
    | some k, some gr => decide (16 * o < k.privBytes) && (gr.lane l).live
    | _, _ => false
  | .scratch b o => (blockOf s b).any fun k => decide (16 * o < k.scrBytes)
  | .shared c o => (residentCluster s c).any fun k => decide (16 * o < k.bytes)
  | .dsp g => decide (g < 2 ^ 23)
  | .reg b g l n => (groupOf s b g).any fun k => (k.lane l).live && decide (n < 8 * k.budget)
  | .acc b a i => (blockOf s b).isSome && decide (a < 4) && decide (i < 4096)
  | .unowned p c => (cfind (partOf s p).ctxs c).isSome

/-- Table 24-2: INFO of a POISON record: the physical address, where the unit has one. -/
def unitAddr : PoisonUnit → DWord
  | .line pa | .l2 pa => BitVec.ofNat 64 pa
  | .dsp g => BitVec.ofNat 64 (16 * g)
  | _ => 0

/-- R414: corrected errors of a recorded unit since its last record. -/
def correctedOf (s : State) (k : Nat × Nat) : Nat := ((s.corrected.find? fun q => q.1 = k).map Prod.snd).getD 0

/-! ### Power -/

/-- R325: an estimate from the work of a window on some dies, by fixed coefficients. -/
def estimateOf (coef : Nat → Nat) (ws : List Work) : Nat :=
  (ws.map fun w => coef 0 * w.ksteps + coef 1 * w.vops + coef 2 * w.bytes).sum / 2 ^ 20

/-- R326: what a partition may have in a window: its share, and in shared mode a part of what others left unused, in proportion to
excess demand. -/
def allowanceOf (s : State) (share est : Nat → Nat) (p : Nat) : Nat :=
  let ps := s.parts.map Prod.fst
  let unused := (ps.map fun n => share n - est n).sum
  let excess := (ps.map fun n => est n - share n).sum
  if s.budgetMode || excess = 0 then share p else share p + unused * (est p - share p) / excess

/-- R417: an allowance as a lowered cap scales it. -/
def watted (s : State) (own : Nat) : Nat := if s.capBefore = 0 then own else own * s.cap / s.capBefore

/-- R20: a partition's current allowance shared among the dies: in proportion to its work of the last window on each, or evenly among
the dies that it has cores on when it did none. R20 does not say how. DESIGN CHOICE, log 25. -/
def dieShares (q : Part) (allowed : Nat) : Cells Nat :=
  let dies := (List.range Config.dies).filter fun d => q.desc.const.any fun c => c / Config.constPerDie = d
  let est := fun d => estimateOf Config.currentOf [(cfind q.work d).getD {}]
  let all := (dies.map est).sum
  dies.map fun d => (d, if all = 0 then allowed / dies.length else allowed * est d / all)

/-- The number of a free value for partition `p` of this step. -/
def partDraw (s : State) (p : Nat) : Nat := s.tick * 32 + p

/-- R417: the partitions that have a unit on a die. -/
def onDie (s : State) (die : Nat) : List Nat :=
  (s.parts.filter fun q => q.2.desc.const.any fun c => c / Config.constPerDie = die).map Prod.fst

/-! ### Coherence events -/

/-- R131, R139: L1_LEASE_EXPIRY. -/
def execL1LeaseExpiry (core : Nat) (pa : Nat) (s : State) : Out :=
  .next { s with poolLeases := s.poolLeases.filter fun l => !(paClass pa = 1 && l.core = core && l.line = pa % 2 ^ 44 / 64) }

/-- R139, Table 6-1: BISNPDATA. -/
def execBisnpdata (line : Nat) (s : State) : Out :=
  match cfind s.poolLines line with
  | some _ =>
    .next (if poolUp s then
      let s := poolWriteBack s line
      { s with poolLines := cset s.poolLines line { st := .S } }
    else s)
  | none => .next s

/-- R138, R139, Table 6-1: BISNPINV, and the store of the agent that asked. -/
def execBisnpinv (line : Nat) (bytes : List (Nat × Byte)) (s : State) : Out :=
  .next (if poolUp s then
    agentStore (dropLine s line) line (bytes.filter fun q => q.1 < 64)
  else s)

/-- R139, Table 6-1: L2_EVICTION. -/
def execL2Eviction (line : Nat) (s : State) : Out := .next (if poolUp s then dropLine s line else s)

/-- R139, Table 6-1: POOL_STORE_MERGE. -/
def execPoolStoreMerge (line : Nat) (s : State) : Out :=
  let owned := (cfind s.poolLines line).any fun l => l.st ≠ .S
  let any := s.sysq.any fun e => e.addr / 64 = line
  .next (if any && !s.poolDead && (owned || !s.cxlUp.isEmpty) then wakeFences (poolMerge s line) else s)

/-- R138: a host agent's own stores to memory of the host-visible windows. -/
def hostAgent (s : State) : State :=
  let mine := (Config.hostStores s.tick).filter fun e => s.parts.any fun q => hostOwned q.2.desc (2 * 2 ^ 44 + e.1 % 2 ^ 44)
  { s with hostMem := mine.foldl (fun m e => mput m (e.1 % 2 ^ 44) e.2) s.hostMem }

/-- R412: the port of a host-visible window: once its own is down and its outstanding accesses have been resolved, the lowest-numbered
that works. A window is served by port 0 at first, which the spec leaves open. DESIGN CHOICE, log 120. -/
def portOf (s : State) (q : Part) (low k : Nat) (w : Nat × Nat × DWord) : Nat :=
  let port := (cfind q.winPorts k).getD 0
  let waits := s.posted.any fun p => inWindows [(w.1, w.2.1)] p.1
  if s.portsUp.contains port || waits then port else low

/-- R412: windows are moved away from ports that are down. -/
def moveWindowPorts (s : State) : State :=
  match s.portsUp with
  | [] => s
  | low :: _ =>
    let ports := fun (q : Part) => (q.desc.hostw.mapIdx fun k w => (k, portOf s q low k w)).filter fun e => e.2 ≠ 0
    { s with parts := s.parts.map fun q => (q.1, { q.2 with winPorts := ports q.2 }) }

/-- R138, R140: HOST_WRITE_ACK: what hosts have stored since is there, and the oldest posted access reaches the host. -/
def execHostWriteAck (s : State) : Out :=
  if s.portsUp.isEmpty then .next s
  else
    let s := hostAgent s
    match s.posted with
    | e :: rest => .next (wakeFences (moveWindowPorts
        { s with posted := rest, hostMem := (e.2.mapIdx fun k b => (e.1 + k, b)).foldl (fun m q => mput m q.1 q.2) s.hostMem }))
    | [] => .next s

/-! ### Power events -/

/-- R20, R325, R326: a partition in the next window: its estimates, its allowances, and its current on each die. -/
def nextWindow (s : State) (p : Nat) (q : Part) : Part :=
  let ws := fun n => (partOf s n).work.map Prod.snd
  let watts := fun n => estimateOf Config.powerOf (ws n)
  let amps := fun n => estimateOf Config.currentOf (ws n)
  let allowed := allowanceOf s (fun n => (partOf s n).desc.amp) amps p
  { q with
    work := []
    estimate := watts p
    allowance := watted s (allowanceOf s (fun n => (partOf s n).desc.pwr) watts p)
    currentEst := amps p
    currentAllowed := allowed
    dieAllowed := dieShares q allowed
    clamped := false }

/-- R20, R325, R326: ARBITER_WINDOW. -/
def execArbiterWindow (s : State) : Out :=
  if s.clk < s.windowAt + 3000 then .next s
  else .next { s with parts := s.parts.map fun q => (q.1, nextWindow s q.1 q.2), windowAt := s.clk }

/-- R417: the current that a partition draws on a die, over what the arbiter allowed there for the window. -/
def overCurrent (s : State) (die p : Nat) : Nat :=
  Config.supplyCurrent (partDraw s p) - (cfind (partOf s p).dieAllowed die).getD 0

/-- R417: the die draws more than was allowed for the window. -/
def dieOver (s : State) (die : Nat) : Bool :=
  let ps := onDie s die
  decide ((ps.map fun p => (cfind (partOf s p).dieAllowed die).getD 0).sum < (ps.map fun p => Config.supplyCurrent (partDraw s p)).sum)

/-- R417: CURRENT_CLAMP: in partitioned-budget mode the partitions over their share, in shared mode the whole die. -/
def execCurrentClamp (die : Nat) (s : State) : Out :=
  let hit := (onDie s die).filter fun p => !s.budgetMode || 0 < overCurrent s die p
  .next (if dieOver s die then hit.foldl (fun s p =>
      logPart (modPart s p fun q => { q with clamped := true }) p 0x78 0xFF die 7 1 (BitVec.ofNat 64 (overCurrent s die p))) s
    else s)

/-- R417: the cap goes down by 5%, and every allowance with it. -/
def lowerCap (s : State) : State :=
  { s with
    cap := s.cap * 95 / 100
    coolAt := s.clk
    parts := s.parts.map fun q => (q.1, { q.2 with allowance := q.2.allowance * 95 / 100 }) }

/-- R417: a reading of a die's temperature of 100 °C or more. -/
def noteHot (s : State) (die temp : Nat) : State := if 100 ≤ temp then { s with hotAt := cset s.hotAt die s.clk } else s

/-- R417: THERMAL_THROTTLE: the cap goes down once a millisecond while some die is above 105 °C. -/
def execThermalThrottle (die : Nat) (temp : Nat) (s : State) : Out :=
  if Config.dies ≤ die then .next s
  else if temp ≤ 105 then .next (noteHot s die temp)
  else
    let t := { noteHot s die temp with hotDies := sinsert s.hotDies die }
    if !s.hotDies.isEmpty && s.clk < s.coolAt + 3000000 then .next t
    else .next (logAll (lowerCap t) 0x79 die 7 1 (BitVec.ofNat 64 temp))

/-- R417: THERMAL_CAP_RESTORE, after 100 ms below 100 °C. -/
def execThermalCapRestore (die : Nat) (s : State) : Out :=
  if !s.hotDies.contains die || s.clk < (cfind s.hotAt die).getD 0 + 300000000 then .next s
  else
    let hot := sremove s.hotDies die
    .next { s with hotDies := hot, cap := if hot.isEmpty then s.capBefore else s.cap }

/-! ### Time -/

/-- R340: PTP_MESSAGE: the first lock sets PTIME; later ones steer it, as `Config.steer` says. -/
def execPtpMessage (time : DWord) (s : State) : Out :=
  .next (if s.portsUp.isEmpty then s
    else if s.locked then { s with ptpLost := false }
    else { s with locked := true, ptpLost := false, ptime := time.toNat * 30000 })

/-- R340, R412: PTP_LOST: PTIME goes on at the rate to which it was steered last. -/
def execPtpLost (s : State) : Out := .next { s with ptpLost := true }

/-! ### Link events -/

/-- R412: PORT_DOWN. -/
def execPortDown (port : Nat) (s : State) : Out :=
  if !s.portsUp.contains port then .next s
  else
    let s := moveWindowPorts { s with portsUp := sremove s.portsUp port, portsAt := s.clk }
    .next (logAll s 0x60 port 5 1 (BitVec.ofNat 64 port))

/-- R412: PORT_UP. -/
def execPortUp (port : Nat) (s : State) : Out :=
  if s.portsUp.contains port || 16 ≤ port then .next s
  else .next (wakeLinks (logAll (moveWindowPorts { s with portsUp := sinsert s.portsUp port }) 0x61 port 5 1 (BitVec.ofNat 64 port)))

/-- R412: HOST_WINDOW_LOST. -/
def execHostWindowLost (part : Nat) (idx : Nat) (s : State) : Out :=
  let q := partOf s part
  match q.desc.hostw[idx]? with
  | some w =>
    .next (if w.2.1 ≠ 0 && s.portsUp.isEmpty && s.portsAt + 3000000 ≤ s.clk && !q.lost.contains idx then loseWindow s part idx w
      else s)
  | none => .next s

/-- R413: CXL_PORT_FAIL. -/
def execCxlPortFail (port : Nat) (s : State) : Out :=
  if !s.cxlUp.contains port then .next s
  else
    let s := { s with cxlUp := sremove s.cxlUp port, cxlAt := s.clk }
    .next (logAll s 0x63 port 6 1 (if s.cxlUp.isEmpty then 0xFF else BitVec.ofNat 64 port))

/-- R413: CXL_PORT_RECOVER: pool accesses that waited go on. -/
def execCxlPortRecover (port : Nat) (s : State) : Out :=
  if s.cxlUp.contains port || 2 ≤ port then .next s
  else .next (wakeLinks { s with cxlUp := sinsert s.cxlUp port })

/-- R413: POOL_LOST. -/
def execPoolLost (s : State) : Out :=
  .next (if s.cxlUp.isEmpty && s.cxlAt + 30000000 ≤ s.clk && !s.poolDead then losePool s else s)

/-! ### Error events -/

/-- R414: CORRECTABLE_ERROR: every thousandth correction of a recorded unit is recorded. -/
def execCorrectableError (u : PoisonUnit) (s : State) : Out :=
  match unitOwner s u with
  | none => .next s
  | some p =>
    let k := unitNumber s u
    let n := correctedOf s k + 1
    let rest := s.corrected.filter fun q => q.1 ≠ k
    if n < 1000 then .next { s with corrected := rest ++ [(k, n)] }
    else .next (logUnit { s with corrected := rest } p 0x70 0xFF k.1 k.2 n (BitVec.ofNat 64 n))

/-- R414, R416: UNCORRECTABLE_ERROR. -/
def execUncorrectableError (u : PoisonUnit) (s : State) : Out :=
  match unitOwner s u with
  | none => .next s
  | some p =>
    if !unitThere s u then .next s
    else
      let k := unitNumber s u
      match u with
      | .unowned _ c => .next (uncontained (logUnit s p 0x71 c k.1 k.2 1 0) p c k 0)
      | _ => .next (logUnit (addPoison s (heldUnit u)) p 0x71 0xFF k.1 k.2 1 (unitAddr u))

/-- R414: DRAM_SCRUB: what it finds are errors of their own. -/
def execDramScrub (s : State) : Out := .next s

/-- R410: ISOLATION_VIOLATION. -/
def execIsolationViolation (core : Nat) (target : Nat) (s : State) : Out :=
  match ownerOf s core with
  | some p => .next (isolate s p core (BitVec.ofNat 64 target))
  | none => .next s

/-! ### Words that are no instruction -/

/-- R391: the lanes of a path in which a lane word that breaks a rule traps. -/
def badLanes (p : Path) (m : Option LMod) : List Nat :=
  match m with
  | some g => if 24 ≤ g.p.toNat && g.p.toNat ≤ 30 then p.lanes else p.lanes.filter fun i => guardHolds { mod := some g } (p.g.lane i)
  | none => p.lanes

/-- R389 to R393: NON_INSTRUCTION_WORD. -/
def execNonInstructionWord (w : BadWord) (s : State) : Out :=
  let t : Trap := { cause := w.cause, info := w.info.setWidth 64 }
  if w.uniform then uniform { mod := w.uguard } (fun _ s => .trap s t) s
  else match pathOf s with
    | none => .fault .noIssuer
    | some p =>
      let bad := badLanes p w.guard
      let s := modGroup s p.iss.blk p.iss.grp fun g =>
        g.modLanes (p.lanes.filter fun i => !bad.contains i) fun _ l => l.advance p.iss.next
      .next (raiseLanes s p (bad.map fun i => (i, t)))

end Sys2Proof.Machine
end

