-- ==== Sys2Proof/Machine/Ladder.lean ====
section
/-! DEFINITION. Contexts that stop and go on: the ladder (R324, R411), the save of a context (R359, R361 to R363), its restore
(R364, R365), kills (R366), the resets (R8, R122, R316, R328, R418) and the emergency of R417. An event whose conditions do not
hold changes nothing. -/

namespace Sys2Proof.Machine

open Sys2Proof

/-! ### Ages -/

/-- R382: the ages of a context's queued records have not advanced since cycle `start`, or since they were queued. -/
def holdAges (s : State) (p c start : Nat) : State :=
  { s with recs := s.recs.map fun r =>
      if r.part = p && r.ctx = c && r.queued then { r with queuedAt := r.queuedAt + (s.clk - max start r.queuedAt) } else r }

/-- Blocks of a context are resident. -/
def resident (s : State) (p c : Nat) : Bool := s.blocks.any fun b => b.part = p && b.ctx = c

/-! ### The die scratchpad of a context -/

/-- R122: a package address as die and offset in a partition's window, when it lies in it. -/
def windowRel (d : Desc) (a : Nat) : Option Nat :=
  let die := a / 2 ^ 25
  match d.dspw[die]? with
  | some w => if w.1 * 2 ^ 20 ≤ a % 2 ^ 25 && a % 2 ^ 25 < (w.1 + w.2) * 2 ^ 20 then some (a - w.1 * 2 ^ 20) else none
  | none => none

/-- The package address of a die and an offset in a partition's window. -/
def windowAbs (d : Desc) (r : Nat) : Nat := r + (((d.dspw[r / 2 ^ 25]?).map Prod.fst).getD 0) * 2 ^ 20

/-- R122: a package address in the program space of a partition. -/
def inProgram (d : Desc) (a : Nat) : Bool :=
  match windowRel d a with
  | some r => decide ((d.dspr[r / 2 ^ 25]?).getD 0 * 2 ^ 20 ≤ r % 2 ^ 25)
  | none => false

/-- The poisoned granules of the die scratchpad that lie in a partition's program space. -/
def programPoison (d : Desc) (u : PoisonUnit) : Bool :=
  match u with
  | .dsp g => inProgram d (16 * g)
  | _ => false

/-- A poisoned granule moved with its window. -/
def moveUnit (f : Nat → Nat) : PoisonUnit → PoisonUnit
  | .dsp g => .dsp (f (16 * g) / 16)
  | u => u

/-! ### Halt and save -/

/-- R359: an open round is cancelled: its lanes are no longer held, each at its `guest.dispatch.rg`. -/
def cancelRound (b : Block) : Block :=
  if b.round.isNone then b
  else
    { b with
      round := none
      groups := b.groups.map fun g => { g with lanes := g.lanes.map fun l => if l.hold = .pool then { l with hold := .none } else l } }

/-- R361: what the cores and engines of a context complete or cancel before its state is saved. -/
def settleHalt (s : State) (p c : Nat) : State :=
  let mine := s.blocks.filter fun b => b.part = p && b.ctx = c
  let s := { s with blocks := s.blocks.map fun b => if b.part = p && b.ctx = c then cancelRound b else b }
  let s := mine.foldl (fun s b => (List.range b.groups.length).foldl (fun s k => cancelFe s b.id k) s) s
  let s := ((mine.map Block.core).eraseDups).foldl haltOp s
  let done := s.cmds.filter fun k => k.part = p && k.ctx = c && !k.fault && decide (k.total ≤ k.done) && !drainPending s k
  let s := done.foldl finishCmd s
  let units := (s.bfqs.filter fun q => q.2.part = p && q.2.ctx = c).map Prod.fst
  (units ++ units).foldl writeBack s

/-- A command that a save stops (R363): any but a collective. -/
def Cmd.stops (p c : Nat) (k : Cmd) : Bool :=
  k.part = p && k.ctx = c && (match k.kind with
    | .coll _ _ _ _ _ _ _ _ => false
    | _ => true)

/-- Table 19-7: the save image of a context. -/
def imageOf (s : State) (p c : Nat) : Saved :=
  let d := (partOf s p).desc
  let bl := s.blocks.filter fun b => b.part = p && b.ctx = c
  let gr := s.grids.filter fun g => g.part = p && g.ctx = c
  { blocks := bl
    grids := gr
    clusters := s.clusters.filter fun k => gr.any fun g => g.id = k.grid
    recs := s.recs.filter fun r => r.part = p && r.ctx = c
    cmds := s.cmds.filter (Cmd.stops p c)
    cores := ((bl.map Block.core).eraseDups).map fun n => (n, coreOf s n)
    dsp := s.dsp.filterMap fun e => if inProgram d e.1 then (windowRel d e.1).map fun r => (r, e.2) else none
    dspFull := s.dspFull.filterMap fun g => if inProgram d (16 * g) then (windowRel d (16 * g)).map fun r => r / 16 else none
    bfqs := s.bfqs.filter fun q => q.2.part = p && q.2.ctx = c
    resume := ((partOf s p).resume.filter fun b => b.ctx = c).map fun b => { b with away := true }
    dspPoison := (s.poison.filter fun u => programPoison d u.1).map fun u =>
      (moveUnit (fun a => (windowRel d a).getD 0) u.1, u.2)
    since := s.clk }

/-- R361: the state of a context that an image holds is no longer in the machine; the cores are reset. -/
def dropCtx (s : State) (p c : Nat) : State :=
  let d := (partOf s p).desc
  let gr := (s.grids.filter fun g => g.part = p && g.ctx = c).map Grid.id
  let bl := s.blocks.filter fun b => b.part = p && b.ctx = c
  let s := ((bl.map Block.core).eraseDups).foldl (fun s n => modCore s n fun k => { frozen := k.frozen, sampled := k.sampled }) s
  let s :=
    { s with
      blocks := s.blocks.filter fun b => !(b.part = p && b.ctx = c)
      clusters := s.clusters.filter fun k => !gr.contains k.grid
      grids := s.grids.filter fun g => !gr.contains g.id
      recs := s.recs.filter fun r => !(r.part = p && r.ctx = c)
      cmds := s.cmds.filter fun k => !k.stops p c
      bfqs := s.bfqs.filter fun q => !(q.2.part = p && q.2.ctx = c)
      dsp := s.dsp.filter fun e => !inProgram d e.1
      dspFull := s.dspFull.filter fun g => !inProgram d (16 * g)
      poison := s.poison.filter fun u => !programPoison d u.1 }
  modPart s p fun q => { q with resume := q.resume.filter fun b => b.ctx ≠ c }

/-- R361: a context is saved. -/
def saveCtx (s : State) (p c : Nat) : State :=
  let s := settleHalt s p c
  let v := imageOf s p c
  let img := { v with image := saveImage s p c v }
  modCtx (dropCtx s p c) p c fun x => { x with saved := some img }

/-! ### Restore -/

/-- R365: the core is the partition's, and free to take back what it held. -/
def takesBack (s : State) (p n : Nat) : Bool := (coresOf s p).contains n && (coreOf s n).allocs.isEmpty

/-- R364, R365: a block that leaves its core takes its lease, with OPS, the accumulators and the accepted operations with it, or its
request. -/
def takeLease (cores : List (Nat × Core)) (b : Block) : Block :=
  match cores.find? fun k => k.1 = b.core with
  | some k =>
    if k.2.holder = some b.id then
      { b with lease :=
          { b.lease with
            acc := k.2.acc
            everHeld := true
            carried := true
            pending := b.lease.pending ++ k.2.ops.filter fun o => o.block = b.id } }
    else { b with lease := { b.lease with wants := k.2.leaseQueue.contains b.id } }
  | none => b

/-- R282: a list without entries whose commands have ended while the context was saved. -/
def CountList.prune (l : CountList) (alive : Nat → Bool) : CountList :=
  { l with pend := l.pend.filter fun e => match l.cmds.find? fun q => q.1 = e with
      | some q => alive q.2
      | none => true }

/-- The lists of a group without commands that have ended. -/
def Group.prune (g : Group) (alive : Nat → Bool) : Group :=
  { g with copies := g.copies.prune alive, tiles := g.tiles.prune alive }

/-- R364, R382: a record goes back to its home queue, its age as it was; R365: one whose home is gone takes a new one. -/
def backRec (s : State) (since : Nat) (r : TaskRec) : TaskRec :=
  let r := if r.queued then { r with queuedAt := r.queuedAt + s.clk - since } else r
  if r.queued && !(coresOf s r.part).contains r.home then { r with home := homeOf s r } else r

/-- R78, R322, R365: a copy or gather of a constellation that its partition has no longer goes on in the copy engine of the partition's first.
DESIGN CHOICE, log 149. -/
def Cmd.rehome (s : State) (p : Nat) (c : Cmd) : Cmd :=
  if c.moves && c.part = p && !(constsOf s p).contains (Config.constOf c.core) then { c with core := (coresOf s p).headD c.core } else c

/-- R364: an image's state is in the machine again: the program space of the window holds what it held (R122). -/
def unpack (s : State) (p : Nat) (v : Saved) : State :=
  let d := (partOf s p).desc
  let stay := v.blocks.filter fun b => takesBack s p b.core
  let gone := (v.blocks.filter fun b => !takesBack s p b.core).map fun b => (takeLease v.cores b).reask
  let kept := fun (k : Core) => { k with frozen := false }
  let s := (v.cores.filter fun k => takesBack s p k.1).foldl (fun s k => modCore (dropLeases s k.1) k.1 fun _ => kept k.2) s
  let s :=
    { s with
      blocks := s.blocks ++ stay
      clusters := s.clusters ++ v.clusters.map (place s)
      grids := s.grids ++ v.grids
      cmds := s.cmds ++ v.cmds.map (Cmd.rehome s p)
      bfqs := v.bfqs.foldl (fun (m : Cells Bfq) (q : Nat × Bfq) => cset m q.1 q.2) s.bfqs
      dsp := (v.dsp.filter fun (e : Nat × Byte) => inProgram d (windowAbs d e.1)).foldl
        (fun (m : Cells Byte) (e : Nat × Byte) => mput m (windowAbs d e.1) e.2) (s.dsp.filter fun e => !inProgram d e.1)
      dspFull := (v.dspFull.filter fun (g : Nat) => inProgram d (windowAbs d (16 * g))).foldl
        (fun l g => sinsert l (windowAbs d (16 * g) / 16)) (s.dspFull.filter fun g => !inProgram d (16 * g))
      poison := (s.poison.filter fun (u : PoisonUnit × List Nat) => !programPoison d u.1) ++
        v.dspPoison.map fun (u : PoisonUnit × List Nat) => (moveUnit (windowAbs d) u.1, u.2) }
  let s := { s with recs := s.recs ++ v.recs.map (backRec s v.since) }
  modPart s p fun q => { q with resume := gone ++ v.resume ++ q.resume }
where
  /-- R365: a cluster whose constellation the partition no longer owns lies in none until a block of it is placed. -/
  place (s : State) (c : Cluster) : Cluster := if (constsOf s p).contains c.const then c else { c with const := 64 }

/-- R363, R364: the byte counts that came meanwhile, the lanes of the blocks that are back, and the rows that the bindings hold, a link
that they wait for being back perhaps (R99). -/
def settleBack (s : State) (v : Saved) : State :=
  let alive := fun n => s.cmds.any fun k => k.id = n
  let s := { s with blocks := s.blocks.map fun b =>
      if v.blocks.any fun x => x.id = b.id then { b with groups := b.groups.map fun g => g.prune alive } else b }
  let s := modAllResume s alive
  let s := v.clusters.foldl (fun s k => (List.range 8).foldl (fun s j => settleSlot s (.cls k.id j)) s) s
  let s := v.grids.foldl (fun s g => (List.range 4).foldl (fun s j => settleSlot s (.grd g.id j)) s) s
  let s := v.blocks.foldl (fun s b => rewaitBlock (settleBlock s b) b.id) s
  v.bfqs.foldl (fun s e => retryHeld s e.1) s
where
  /-- The same for blocks that wait to be placed again. -/
  modAllResume (s : State) (alive : Nat → Bool) : State :=
    let one := fun (b : Block) => { b with groups := b.groups.map fun g => g.prune alive }
    { s with parts := s.parts.map fun q => (q.1, { q.2 with resume := q.2.resume.map one }) }

/-- R365: blocks of the resume queue that find room at once; `fuel` bounds them. -/
def resumeAll (s : State) (p : Nat) : Nat → State
  | 0 => s
  | fuel + 1 => match resumeBlock s p with
    | some t => resumeAll t p fuel
    | none => s

/-- R364: a context is restored, when it was saved. -/
def restoreCtx (s : State) (p c : Nat) : State :=
  match (ctxOf s p c).saved with
  | none => s
  | some v =>
    let s := unpack (modCtx s p c fun x => { x with saved := none }) p v
    resumeAll (settleBack s v) p (v.blocks.length + v.resume.length)

/-- R324: the partition runs a context. -/
def startCtx (s : State) (p c : Nat) : State :=
  let s := modPart (thaw s p) p fun q => { q with running := c, rung := .none, sliceAt := s.clk }
  if (cfind (partOf s p).ctxs c).isSome then restoreCtx s p c else s

/-- R324: the context after a context, in rotation. -/
def nextCtx (q : Part) (c : Nat) : Nat :=
  let cs := q.ctxs.map Prod.fst
  ((cs.find? fun k => c < k).or cs.head?).getD c

/-- R324, R411, R417: what runs after a save or a kill: with EN = 0, or in an emergency, nothing, until EN is set; after a climb that EN started the same
context, after a slice the next. -/
def goOn (s : State) (p : Nat) (byEn : Bool) : State :=
  let q := partOf s p
  if !q.en || !s.boot.powered || s.emergency.isSome then modPart s p fun q => { q with rung := .halt byEn }
  else startCtx s p (if byEn then q.running else nextCtx q q.running)

/-- The running context exists, and is not saved. -/
def liveCtx (s : State) (p : Nat) : Bool :=
  let q := partOf s p
  (cfind q.ctxs q.running).any fun c => c.saved.isNone

/-! ### The ladder's events -/

/-- R324, R309: EN = 0, and the climb begins unless one is under way. -/
def clearEn (s : State) (part : Nat) : State :=
  modPart s part fun q =>
    if q.en && q.rung = .none then { q with en := false, rung := .soft true, rungAt := s.clk } else { q with en := false }

/-- R324, R411: EN = 1: a climb that EN started stops at the soft request; a saved context is restored. -/
def setEn (s : State) (part : Nat) : State :=
  let q := partOf s part
  let s := modPart s part fun q => { q with en := true }
  match if s.emergency.isSome then .none else q.rung with
  | .soft true => modPart (holdAges s part q.running q.rungAt) part fun q => { q with rung := .none }
  | .halt byEn => if liveCtx s part then s else goOn s part byEn
  | _ => s

/-- R324: SLICE_EXPIRY: the climb begins; with no block left the next context is restored at once. -/
def execSliceExpiry (part : Nat) (s : State) : Out :=
  let q := partOf s part
  if q.desc.slice = 0 || !q.en || q.rung ≠ .none || s.clk < q.sliceAt + 3000 * q.desc.slice || !liveCtx s part then .next s
  else if resident s part q.running then .next (modPart s part fun q => { q with rung := .soft false, rungAt := s.clk })
  else .next (goOn (saveCtx s part q.running) part false)

/-- R324: GRACE_EXPIRY: the halt begins when GRACE has passed, or when no group is left. -/
def execGraceExpiry (part : Nat) (s : State) : Out :=
  let q := partOf s part
  match q.rung with
  | .soft byEn =>
    if s.clk < q.rungAt + q.desc.grace && resident s part q.running then .next s
    else .next (modPart (holdAges s part q.running q.rungAt) part fun q => { q with rung := .halt byEn, rungAt := s.clk })
  | _ => .next s

/-- R361: HALT_COMPLETE: the context is saved, and what is to run next is restored. -/
def execHaltComplete (part : Nat) (s : State) : Out :=
  let q := partOf s part
  match q.rung with
  | .halt byEn =>
    if !liveCtx s part then .next s
    else .next (goOn (saveCtx (holdAges s part q.running q.rungAt) part q.running) part byEn)
  | _ => .next s

/-- R122: a killed context leaves the cores to the next one, with its program space kept, which only a partition reset clears. It has no
save image, whose time would be `since`. -/
def setAside (s : State) (p c : Nat) : State :=
  let v := (imageOf s p c).program
  modCtx (dropCtx s p c) p c fun x => { x with saved := some v }

/-- R324, R366: KILL_EXPIRY: the context is killed and recorded. -/
def execKillExpiry (part : Nat) (s : State) : Out :=
  let q := partOf s part
  match q.rung with
  | .halt byEn =>
    if !liveCtx s part || s.clk < q.rungAt + q.desc.kill then .next s
    else
      let s := killLogged s part q.running 0 0 (if s.emergency.isSome then 4 else 1)
      .next (goOn (setAside s part q.running) part byEn)
  | _ => .next s

/-! ### Emergencies and resets -/

/-- R417: a partition begins the climb that an emergency asks for, unless one is under way. -/
def climb (s : State) (p : Nat) : State :=
  modPart s p fun q => if q.rung = .none then { q with rung := .soft true, rungAt := s.clk } else q

/-- R417: THERMAL_SHUTDOWN: every partition climbs the ladder. -/
def execThermalShutdown (die : Nat) (temp : Nat) (s : State) : Out :=
  if !s.boot.powered || Config.dies ≤ die || s.emergency.isSome then .next s
  else .next ((s.parts.map Prod.fst).foldl climb { s with emergency := some (die, temp) })

/-- R417: once no partition's running context is left that is not saved or killed, the core supply is removed. -/
def settleEmergency (s : State) : State :=
  match s.emergency with
  | some (die, temp) =>
    if (s.parts.map Prod.fst).any (liveCtx s) then s
    else logAll { s with boot := { s.boot with powered := false }, emergency := none } 0x7A die 7 1 (BitVec.ofNat 64 temp)
  | none => s

/-- R8, R17: the timers of Table 17-4 at their reset values. -/
def Desc.timersReset (d : Desc) : Desc := { d with grace := 9000, kill := 60000, slice := 0 }

/-- R8, R122, R316: a partition at its reset: no tenant context, EN = 0, its window of each die zero and empty, its format windows at
reset (Table 5-5). Where no chapter names a reset the model keeps the descriptor but for its timers, the event log with SEQ, the
control endpoint context, the loans and the registers of the management window (Table 17-5), and drops data endpoint contexts and grants.
DESIGN CHOICE, log 116. -/
def resetPart (s : State) (p : Nat) : State :=
  let d := (partOf s p).desc
  let s := (s.versions.filter fun v => v.part = p).foldl freeVersion s
  let s := ((partOf s p).ctxs.map Prod.fst).foldl (fun s c => killCtx s p c) s
  let s := (coresOf s p).foldl (fun s n => if (cfind s.cores n).isSome then modCore s n fun _ => {} else s) s
  let s :=
    { s with
      colls := s.colls.filter fun k => !d.eng.contains k.1
      fmt := s.fmt.filter fun w => w.2.part ≠ p
      dsp := s.dsp.filter fun e => (windowRel d e.1).isNone
      dspFull := s.dspFull.filter fun g => (windowRel d (16 * g)).isNone
      poison := s.poison.filter fun u => match u.1 with
        | .dsp g => (windowRel d (16 * g)).isNone
        | _ => true }
  modPart s p fun q =>
    { desc := d.timersReset, log := q.log, seq := q.seq, eps := q.eps.filter fun e => e.control, loans := q.loans }

/-- R8: PARTITION_RESET. -/
def execPartitionReset (part : Nat) (s : State) : Out :=
  .next (if (cfind s.parts part).isSome then resetPart s part else s)

/-- R328, R418: the boot status that the checks of an image slot end with; 0 when it passes them. -/
def slotStatus (b : Boot) (k : Nat) : Nat :=
  let image := b.slots.getD k []
  if !b.readable.getD k true then 4
  else if !Config.imageDigestOk image then 1
  else if !Config.mldsaVerify image then 2
  else if Config.imageVersion image < b.rollback then 3
  else 0

/-- R328, R418: the boot ROM tries the first image slot and then the second. -/
def bootUp (b : Boot) : Boot :=
  let b := { b with powered := true, staged := [] }
  if slotStatus b 0 = 0 then { b with image := b.slots[0]?, status := 0 }
  else if slotStatus b 1 = 0 then { b with image := b.slots[1]?, status := 0 }
  else { b with image := none, status := BitVec.ofNat 8 (slotStatus b 1) }

/-- R417, R100: a batch after a power-on reset goes on with the cycles that have passed since its first row, `clk` being the cycle count
that the reset ends. -/
def BfqPair.rebase (clk : Nat) (p : BfqPair) : BfqPair :=
  if p.rows.isEmpty then p else { p with start := 0, waited := p.waited + (clk - p.start) }

/-- R417, R382: a saved image after a power-on reset: its records keep their ages, and its batches theirs, although the cycle count starts
again. -/
def Saved.rebase (clk : Nat) (v : Saved) : Saved :=
  let ages := v.recs.map fun r => v.since - r.queuedAt
  let most := ages.foldl max 0
  { v with
    recs := v.recs.map fun r => { r with queuedAt := most + r.queuedAt - v.since }
    bfqs := v.bfqs.map fun q => (q.1, { q.2 with pairs := q.2.pairs.map (BfqPair.rebase clk) })
    since := most }

/-- R417: a partition whose saved contexts outlast the power-on reset; EN, DONECNT, QUEUED and SPLIT_LIMIT are at reset (R8). -/
def Part.afterShutdown (clk : Nat) (q : Part) : Part :=
  { q with
    desc := q.desc.timersReset
    en := false
    doneCnt := 0
    rung := .halt true
    rungAt := 0
    sliceAt := 0
    reqs := q.reqs.filter fun r => !r.host
    queue := []
    log := []
    seq := 0
    clamped := false
    ctxs := q.ctxs.map fun c => (c.1, { c.2 with saved := c.2.saved.map (Saved.rebase clk), splitLimit := ({} : Ctx).splitLimit }) }

/-- R417: the poison of a register, a scratch or shared granule, or an accumulator that an image of a context holds. -/
def savedUnit (s : State) (u : PoisonUnit) : Bool :=
  let vs := s.parts.flatMap fun q => q.2.ctxs.filterMap fun c => c.2.saved
  let block := fun b => vs.any fun v => (v.blocks ++ v.resume).any fun x => x.id = b
  let cluster := fun c => vs.any fun v => v.clusters.any fun x => x.id = c
  match u with
  | .reg b _ _ _ | .priv b _ _ _ | .scratch b _ | .acc b _ _ => block b || s.shades.any fun h => h.space = .scr b
  | .shared c _ => cluster c || s.shades.any fun h => h.space = .csh c
  | _ => false

/-- R328, R417, R418: the module after a power-on reset. What lies outside it, and DRAM, are as they were; after an emergency
the saved contexts are too. -/
def powerOn (s : State) : State :=
  let b := bootUp s.boot
  let keep := !s.boot.powered && b.status = 0
  { dram := s.dram
    pool := s.pool
    hostMem := s.hostMem
    poison := s.poison.filter fun u => match u.1 with
      | .line _ => true
      | v => keep && savedUnit s v
    parts := if keep then s.parts.map fun q => (q.1, q.2.afterShutdown s.clk) else []
    versions := if keep then s.versions else []
    families := if keep then s.families else []
    unpub := if keep then s.unpub else []
    atOnce := if keep then s.atOnce else []
    shades := if keep then s.shades else []
    portsUp := s.portsUp
    cxlUp := s.cxlUp
    boot := b
    replies := s.replies
    outward := s.outward
    fresh := s.fresh
    agenda := s.agenda
    tick := s.tick
    laneOrder := s.laneOrder }

/-- R8, R328: POWER_ON_RESET. -/
def execPowerOnReset (s : State) : Out := .next (powerOn s)

end Sys2Proof.Machine
end

