-- ==== Sys2Proof/Machine/Bodies.lean ====
section
/-! DEFINITION. The check of a body at registration (R201, R389, R390): how a body is cut into instructions (R169), whether each
is one for its class (R57), and where direct branches go. It reads words only, by the tables of the decoder. -/

namespace Sys2Proof.Machine

open Sys2Proof

/-- R169: a body's instructions: the offset of the first word, the extension words, the base word. -/
abbrev Cut := List (Nat × List Word × Word)

/-- R169: the cut of words from a body offset on, after extension words `es`; none when extension words end the body. -/
def cutBody (off : Nat) (es : List Word) : List Word → Option Cut
  | [] => if es.isEmpty then some [] else none
  | w :: ws =>
    if isExt w then cutBody off (es ++ [w]) ws
    else (cutBody (off + 4 * (es.length + 1)) [] ws).map fun c => (off, es, w) :: c

/-- Tables 8-8, 22-1, 22-3: a uniform base word of majors 0x11 to 0x19 breaks no static condition of its own. -/
def tailOk (w : Word) : Bool :=
  let d : BitVec 6 := w.extractLsb' 19 6
  let a : BitVec 6 := w.extractLsb' 13 6
  let b : BitVec 6 := w.extractLsb' 7 6
  let fn : BitVec 7 := w.extractLsb' 0 7
  let imm : BitVec 13 := w.extractLsb' 0 13
  match (w.extractLsb' 25 6).toNat with
  | 0x11 => d = 0 && (imm = 0 || imm = 1 || (imm = 2 && a = 0))
  | 0x12 => d.toNat ≤ 2 && a = 0 && imm.toNat < 4096
  | 0x13 => ((d = 0 || d = 2) && a = 0) || (d = 1 && a.toNat < 8)
  | 0x14 => a = 0 && imm.toNat < 4096 && sysregListed (imm.setWidth 12)
  | 0x15 => d = 0 && imm.toNat < 4096 && sysregListed (imm.setWidth 12)
  | 0x16 => d = 0 && a = 0 && imm.toNat ≤ 2
  | 0x17 => fn = 0 || (d = 0 && (imm = 1 || imm = 2 || imm = 3)) || imm = 4 || imm = 5
  | 0x18 =>
    let level : BitVec 2 := w.extractLsb' 7 2
    imm = 0 || (fn = 1 && slotOk level (w.extractLsb' 9 4) && (level = 1 || level = 2) && evenS d) || (d = 0 && imm = 2)
  | 0x19 => imm = 0 || (d = 0 && fn = 1) || (d = 0 && b = 0 && (fn = 2 || fn = 3))
  | _ => false

/-- The base word belongs to majors 0x11 to 0x19 of the uniform half. -/
def inTail (w : Word) : Bool := isUniform w && 0x11 ≤ (w.extractLsb' 25 6).toNat && (w.extractLsb' 25 6).toNat ≤ 0x19

/-- R57, Table 22-3: lane registers of a class. -/
def classRegs (lbody : Bool) : Nat := if lbody then 112 else 64

/-- R57: a register field names registers of the class only. -/
def LaneUse.inClass (lbody : Bool) : LaneUse → Bool
  | .source f n => 112 ≤ f.toNat || f.toNat + n / 32 ≤ classRegs lbody
  | .dest f n => f.toNat + n / 32 ≤ classRegs lbody
  | .laneOnly f => f.toNat < classRegs lbody

/-- The instruction of majors that the compiler can build, by its words, if no static condition is broken. -/
def plainInstr (es : List Word) (w : Word) : Option Instr :=
  match judge es w (if isUniform w then decodeHeadBase w (uextOf es) else decodeLaneBase w (lextOf es)) with
  | .ok i => some i
  | .error _ => none

/-- The displacement of a direct branch or call, in words. -/
def directDisp : Instr → Option Int
  | .br _ _ disp _ | .call _ _ disp _ => some disp.toInt
  | .ubr _ _ disp _ => some disp.toInt
  | _ => none

/-- R390: one instruction of a body: its words break no static condition, and a direct target is among `starts`. -/
def instrOk (lbody : Bool) (starts : List Nat) (c : Nat × List Word × Word) : Bool :=
  (seqFault c.2.1 (some c.2.2)).isNone &&
    (if inTail c.2.2 then tailOk c.2.2 && (extOf c.2.1 0).isNone && c.2.1.all extReservedOk
    else match plainInstr c.2.1 c.2.2 with
      | none => false
      | some i => i.uses.all (LaneUse.inClass lbody) && (match directDisp i with
          | none => true
          | some k =>
            let t := ((c.1 + 4 * c.2.1.length : Nat) : Int) + 4 * k
            0 ≤ t && starts.contains t.toNat))

/-- R201: every word of a body belongs to an instruction for its class. -/
def cutOk (lbody : Bool) (c : Cut) : Bool := c.all (instrOk lbody (c.map Prod.fst))

/-- R58: the equivalence points of a body: the EQP ID and offset of each `mig`. -/
def migPoints (c : Cut) : List (Nat × Nat) :=
  (c.filter fun k => isUniform k.2.2 && k.2.2.extractLsb' 25 6 = 0x12#6).map fun k => ((k.2.2.extractLsb' 0 12).toNat, k.1)

end Sys2Proof.Machine
end

