-- ==== Sys2Proof/Machine/Sha3.lean ====
section
/-! DEFINITION. SHA3-256 (FIPS 202), the digest of R191, R202 and R330, on lists of bytes: Keccak-f[1600] on 25 lanes of 64 bits,
lane (x, y) at place x + 5y. -/

namespace Sys2Proof.Machine

open Sys2Proof

/-- The 25 lanes of a Keccak state. -/
abbrev Keccak := List DWord

/-- A lane by its coordinates, modulo 5. -/
def kLane (a : Keccak) (x y : Nat) : DWord := a.getD (x % 5 + 5 * (y % 5)) 0

/-- FIPS 202: the rotation of each lane in ρ. -/
def rhoOffsets : List Nat := [0, 1, 62, 28, 27, 36, 44, 6, 55, 20, 3, 10, 43, 25, 39, 41, 45, 15, 21, 8, 18, 2, 61, 56, 14]

/-- FIPS 202: the constants of ι. -/
def roundConstants : List DWord :=
  [0x0000000000000001, 0x0000000000008082, 0x800000000000808A, 0x8000000080008000, 0x000000000000808B, 0x0000000080000001,
    0x8000000080008081, 0x8000000000008009, 0x000000000000008A, 0x0000000000000088, 0x0000000080008009, 0x000000008000000A] ++
  [0x000000008000808B, 0x800000000000008B, 0x8000000000008089, 0x8000000000008003, 0x8000000000008002, 0x8000000000000080,
    0x000000000000800A, 0x800000008000000A, 0x8000000080008081, 0x8000000000008080, 0x0000000080000001, 0x8000000080008008]

/-- Each lane of a state from its coordinates. -/
def kMake (f : Nat → Nat → DWord) : Keccak := (List.range 25).map fun i => f (i % 5) (i / 5)

/-- θ. -/
def theta (a : Keccak) : Keccak :=
  let c := (List.range 5).map fun x => (List.range 5).foldl (fun v y => v ^^^ kLane a x y) 0
  let col := fun x => c.getD (x % 5) 0
  kMake fun x y => kLane a x y ^^^ col (x + 4) ^^^ (col (x + 1)).rotateLeft 1

/-- ρ and π: lane (x, y) comes from (x + 3y, x). -/
def rhoPi (a : Keccak) : Keccak :=
  kMake fun x y => (kLane a (x + 3 * y) x).rotateLeft (rhoOffsets.getD ((x + 3 * y) % 5 + 5 * x) 0)

/-- χ. -/
def chi (a : Keccak) : Keccak := kMake fun x y => kLane a x y ^^^ (~~~(kLane a (x + 1) y) &&& kLane a (x + 2) y)

/-- ι. -/
def iota (c : DWord) (a : Keccak) : Keccak := a.mapIdx fun i v => if i = 0 then v ^^^ c else v

/-- Keccak-f[1600]. -/
def keccakF (a : Keccak) : Keccak := roundConstants.foldl (fun a c => iota c (chi (rhoPi (theta a)))) a

/-- A block of 136 bytes absorbed. -/
def absorb (a : Keccak) (b : List Byte) : Keccak :=
  keccakF (a.mapIdx fun i v => v ^^^ BitVec.ofNat 64 (leNat ((b.drop (8 * i)).take 8)))

/-- FIPS 202: the message with SHA3's suffix and padding, in blocks of 136 bytes. -/
def sha3Pad (m : List Byte) : List Byte :=
  let n := 136 - m.length % 136
  m ++ (List.range n).map fun k => (if k = 0 then 0x06 else 0) ||| if k + 1 = n then 0x80 else 0

/-- The blocks absorbed in order; `n` counts them. -/
def absorbAll (a : Keccak) (m : List Byte) : Nat → Keccak
  | 0 => a
  | n + 1 => absorbAll (absorb a (m.take 136)) (m.drop 136) n

/-- SHA3-256. -/
def sha3 (m : List Byte) : List Byte :=
  let p := sha3Pad m
  ((absorbAll (kMake fun _ _ => 0) p (p.length / 136)).take 4).flatMap fun v => leBytes 8 v.toNat

end Sys2Proof.Machine
end

