-- ==== Sys2Proof/Machine/Object.lean ====
section
/-! DEFINITION. The Dareodel object (R191 to R202): its sections and records read from bytes, the checks of registration with the
refusal code of each (Table 17-3), and the image with its relocations. -/

namespace Sys2Proof.Machine

open Sys2Proof

/-- R4: the number in `n` bytes from an offset on; bytes beyond the end are not there. -/
def num (o : List Byte) (off n : Nat) : Nat := leNat ((o.drop off).take n)

/-- R7: bytes of a record that must be zero. -/
def zeroAt (o : List Byte) (off n : Nat) : Bool := ((o.drop off).take n).all fun b => b = 0

/-- The records of a fixed size in a list of bytes. -/
def records (n : Nat) (o : List Byte) : List (List Byte) := (List.range (o.length / n)).map fun k => (o.drop (n * k)).take n

/-- Values are pairwise different. -/
def distinct {α : Type} [DecidableEq α] : List α → Bool
  | [] => true
  | x :: xs => !xs.contains x && distinct xs

/-- Numbers strictly rise. -/
def rising : List Nat → Bool
  | [] => true
  | [_] => true
  | a :: b :: xs => decide (a < b) && rising (b :: xs)

/-! ### Header and sections -/

/-- A section (Table 9-2). -/
structure Sect where
  type : Nat
  kern : Nat
  off : Nat
  size : Nat
  align : Nat
  clean : Bool
  bytes : List Byte
  deriving DecidableEq, Repr

/-- An object as its header and section table describe it (Table 9-1). -/
structure ObjFile where
  file : List Byte
  nkern : Nat
  nent : Nat
  nnode : Nat
  sects : List Sect
  deriving DecidableEq, Repr

/-- Table 9-2: a section table entry. -/
def sectOf (o r : List Byte) : Sect :=
  { type := num r 0 2, kern := num r 2 2, off := num r 4 4, size := num r 8 4, align := num r 12 1, clean := zeroAt r 13 3,
    bytes := (o.drop (num r 4 4)).take (num r 8 4) }

/-- The object that a file's header describes. -/
def objectOf (o : List Byte) : ObjFile :=
  { file := o, nkern := num o 0x14 4, nent := num o 0x18 4, nnode := num o 0x1C 4,
    sects := (records 16 ((o.drop (num o 0x10 4)).take (16 * num o 6 2))).map (sectOf o) }

/-- R191: the DIGEST field. -/
def digestOf (o : List Byte) : List Byte := (o.drop 0x20).take 32

/-- R191: the file with DIGEST taken as zero. -/
def undigested (o : List Byte) : List Byte := o.take 0x20 ++ List.replicate 32 0 ++ o.drop 0x40

/-- R191, R201: the digest matches. -/
def digestOk (o : List Byte) : Bool := o.length ≥ 64 && digestOf o = sha3 (undigested o)

/-- R192, R193, R201: FMT, the feature bits and the section types are known. -/
def known (x : ObjFile) : Bool := num x.file 4 2 = 1 && num x.file 8 8 < 512 && x.sects.all fun t => 1 ≤ t.type && t.type ≤ 15

/-- Table 9-4: the least ALIGN of a type. -/
def alignMin (type : Nat) : Nat :=
  match type with
  | 1 | 2 => 8
  | 3 | 10 => 6
  | 6 => 11
  | 7 | 8 | 9 | 13 | 15 => 4
  | 11 => 3
  | _ => 2

/-- Table 9-4: the section belongs to a kernel. -/
def ofKernel (type : Nat) : Bool := type = 1 || type = 2 || type = 4 || type = 5 || type = 6

/-- Tables 9-2, 9-4: one section. -/
def sectOk (x : ObjFile) (t : Sect) : Bool :=
  t.clean && t.off + t.size ≤ x.file.length && 2 ≤ t.align && t.align ≤ 16 && alignMin t.type ≤ t.align &&
    (t.type ≠ 6 || (t.align = 11 && t.size = 2048)) && t.off % 2 ^ t.align = 0 &&
    (if ofKernel t.type then t.kern < x.nkern else t.kern = 0xFFFF) && (t.type ≠ 1 || t.size % 4 = 0) && (t.type ≠ 2 || t.size % 4 = 0)

/-- The sections of a type. -/
def ObjFile.typed (x : ObjFile) (type : Nat) : List Sect := x.sects.filter fun t => t.type = type

/-- The bytes of the one section of a type; none are there without it. -/
def ObjFile.only (x : ObjFile) (type : Nat) : List Byte := ((x.typed type).head?.map Sect.bytes).getD []

/-- R191: two sections do not overlap. -/
def apart (a b : Sect) : Bool := a.size = 0 || b.size = 0 || a.off + a.size ≤ b.off || b.off + b.size ≤ a.off

/-- R191, R193: the sections together: where they lie, how many of each type, and how long the record sections are. -/
def sectsOk (x : ObjFile) : Bool :=
  (x.sects.all (sectOk x)) && ((x.sects.mapIdx fun k t => (x.sects.drop (k + 1)).all (apart t)).all id) &&
    ([3, 7, 8, 13, 14].all fun n => (x.typed n).length = 1) && ([9, 10, 11, 15].all fun n => (x.typed n).length ≤ 1) &&
    ([1, 2, 4, 5].all fun n => distinct ((x.typed n).map Sect.kern)) &&
    (x.only 3).length = 64 * x.nkern && (x.only 7).length = 16 * x.nent && (x.only 8).length = 16 * x.nnode &&
    (x.only 9).length % 16 = 0 && (x.only 10).length % 64 = 0 && (x.only 11).length % 8 = 0 && (x.only 13).length % 16 = 0 &&
    (x.only 15).length % 16 = 0

/-- Table 9-1: MAGIC, the header's counts and the section table's place. A wrong MAGIC, for which R201 and Table 17-3 name no code, is
refused like them. DESIGN CHOICE, log 121. -/
def headerOk (x : ObjFile) : Bool :=
  let o := x.file
  num o 0 4 = 0x4C445244 && 1 ≤ num o 6 2 && num o 6 2 ≤ 4096 && num o 0x10 4 % 16 = 0 &&
    num o 0x10 4 + 16 * num o 6 2 ≤ o.length && 1 ≤ x.nkern && x.nkern ≤ 1024 && 1 ≤ x.nent && x.nent ≤ 4096 && 1 ≤ x.nnode &&
    x.nnode ≤ 64

/-! ### Records -/

/-- Table 9-5: a kernel record's section index, absent at 0xFFFF. -/
def sectIdx (r : List Byte) (off : Nat) : Option Nat := if num r off 2 = 0xFFFF then none else some (num r off 2)

/-- R194: an index names a section of a type of kernel `k`, or none. -/
def namesSect (x : ObjFile) (k type : Nat) : Option Nat → Bool
  | none => true
  | some n => (x.sects[n]?).any fun t => t.type = type && t.kern = k

/-- R194: kernel record `k`. -/
def krecOk (x : ObjFile) (k : Nat) (r : List Byte) : Bool :=
  let two := (sectIdx r 0x1C).isSome && (sectIdx r 0x1E).isSome
  num r 0 4 < (x.only 14).length && num r 4 2 ≤ 1 && 1 ≤ num r 6 2 && num r 6 2 ≤ 1024 && 1 ≤ num r 8 1 && num r 8 1 ≤ 10 &&
    1 ≤ num r 9 1 && num r 9 1 ≤ 8 && 1 ≤ num r 10 1 && num r 10 1 ≤ 14 && zeroAt r 0x0B 1 && num r 0x10 2 % 16 = 0 &&
    num r 0x10 2 ≤ 4096 && zeroAt r 0x12 2 && num r 0x14 4 % 256 = 0 && num r 0x18 4 % 4096 = 0 && zeroAt r 0x24 28 &&
    namesSect x k 1 (sectIdx r 0x1C) && namesSect x k 2 (sectIdx r 0x1E) && namesSect x k 4 (sectIdx r 0x20) &&
    namesSect x k 5 (sectIdx r 0x22) && (sectIdx r (if num r 4 2 = 1 then 0x1E else 0x1C)).isSome &&
    (sectIdx r 0x20).isSome = two && (sectIdx r 0x22).isSome = two

/-- Table 9-6: a body offset, absent at 0xFFFFFFFF. -/
def offIdx (r : List Byte) (off : Nat) : Option Nat := if num r off 4 = 0xFFFFFFFF then none else some (num r off 4)

/-- The kernel records. -/
def ObjFile.krecs (x : ObjFile) : List (List Byte) := records 64 (x.only 3)

/-- R195: an entry record. -/
def entryOk (x : ObjFile) (r : List Byte) : Bool :=
  let nv := bits (num r 3 1) 0 3
  num r 2 1 % 16 ≤ 8 && bits (num r 2 1) 4 3 ≤ 4 && num r 2 1 < 128 && nv ≤ 4 && num r 3 1 < 8 && num r 4 2 < 16 ^ nv &&
    zeroAt r 6 2 && (match x.krecs[num r 0 2]? with
      | some k => (offIdx r 8).isSome = (sectIdx k 0x1C).isSome && (offIdx r 12).isSome = (sectIdx k 0x1E).isSome
      | none => false)

/-- R196: node record `j`. -/
def nodeOk (x : ObjFile) (j : Nat) (r : List Byte) : Bool :=
  num r 0 2 < x.nent && zeroAt r 2 2 && 1 ≤ num r 4 4 && num r 4 4 ≤ 2 ^ 24 && num r 8 8 < 2 ^ j

/-- Table 9-8. -/
def tileOk (r : List Byte) : Bool :=
  num r 0 1 ≤ 3 && num r 1 1 ≤ 1 && zeroAt r 2 2 && num r 4 4 % 16 = 0 && 16 ≤ num r 8 4 && num r 8 4 ≤ 65536 &&
    num r 8 4 % 16 = 0 && zeroAt r 12 4

/-- R198, Table 9-9: an entry of unknown KIND is ignored. -/
def schedOk (x : ObjFile) (r : List Byte) : Bool :=
  2 < num r 2 1 || (zeroAt r 3 1 && (num r 0 2 < x.nkern || num r 0 2 = 0xFFFF))

/-- R201: sections that the image holds. -/
def imaged (type : Nat) : Bool := ofKernel type || type = 12

/-- R199, Table 9-10: a symbol. -/
def symOk (x : ObjFile) (r : List Byte) : Bool :=
  let v := num r 8 4
  num r 0 4 < (x.only 14).length && num r 6 1 ≤ 1 && (match num r 7 1 with
    | 0 | 1 | 2 => (x.sects[num r 4 2]?).any fun t => imaged t.type && v ≤ t.size
    | 3 => num r 4 2 = 0xFFFF && v < (x.only 9).length / 16
    | 4 => num r 4 2 = 0xFFFF && v < (x.only 10).length / 64
    | 5 => num r 4 2 = 0xFFFF && v < x.nent
    | 6 => num r 4 2 = 0xFFFF
    | 7 => num r 4 2 = 0xFFFF && v < x.nkern
    | _ => false)

/-- R199, Table 9-11: a relocation's fields. -/
def relocFieldsOk (x : ObjFile) (r : List Byte) : Bool :=
  let site := num r 2 1
  site ≤ 2 && zeroAt r 3 1 && num r 4 4 % (if site = 1 then 8 else 4) = 0 &&
    ((x.sects[num r 0 2]?).any fun t => t.type = 1 || t.type = 2 || t.type = 12) &&
    num r 8 4 < (records 16 (x.only 13)).length

/-- R61: the pairs of a PC correspondence table. -/
def pcPairs (o : List Byte) : List (Nat × Nat) := (records 8 ((o.drop 4).take (8 * num o 0 4))).map fun r => (num r 0 4, num r 4 4)

/-- R61: a PC correspondence table lies in its section, sorted, with no offset twice. -/
def pcmapOk (t : Sect) : Bool :=
  let ps := pcPairs t.bytes
  4 + 8 * num t.bytes 0 4 ≤ t.size && rising (ps.map Prod.fst) && distinct (ps.map Prod.snd)

/-- R201, code 4: every count, range, alignment and reserved-zero rule. -/
def formOk (x : ObjFile) : Bool :=
  headerOk x && sectsOk x && ((x.krecs.mapIdx (krecOk x)).all id) && (records 16 (x.only 7)).all (entryOk x) &&
    (((records 16 (x.only 8)).mapIdx (nodeOk x)).all id) && (records 16 (x.only 9)).all tileOk &&
    (records 8 (x.only 11)).all (schedOk x) && (records 16 (x.only 13)).all (symOk x) &&
    (records 16 (x.only 15)).all (relocFieldsOk x) && (x.typed 5).all pcmapOk

/-! ### Bodies -/

/-- The cut of the section that an index names. -/
def ObjFile.cut (x : ObjFile) (n : Option Nat) : Option Cut :=
  match n.bind fun k => x.sects[k]? with
  | some t => cutBody 0 [] (wordsOfBytes t.bytes)
  | none => some []

/-- The offsets of the first words of the instructions of a section. -/
def ObjFile.starts (x : ObjFile) (n : Option Nat) : List Nat := ((x.cut n).getD []).map Prod.fst

/-- The section index of a kernel's body. -/
def bodyIdx (r : List Byte) (lbody : Bool) : Option Nat := sectIdx r (if lbody then 0x1E else 0x1C)

/-- R47, R201: the offsets that a handler table holds. -/
def htabOffsets (t : Sect) (lbody : Bool) : List Nat :=
  (records 4 ((t.bytes.drop (if lbody then 1024 else 0)).take 1024)).filterMap fun r => offIdx r 0

/-- R201, code 5: every body of the kernels, and every offset that is to name an instruction. -/
def bodiesOk (x : ObjFile) : Bool :=
  (x.typed 1 ++ x.typed 2).all (fun t => match cutBody 0 [] (wordsOfBytes t.bytes) with
    | some c => cutOk (t.type = 2) c
    | none => false) &&
  (x.krecs.mapIdx fun k r =>
    let d := x.starts (bodyIdx r false)
    let l := x.starts (bodyIdx r true)
    ((records 16 (x.only 7)).all fun e => num e 0 2 ≠ k || ((offIdx e 8).all d.contains && (offIdx e 12).all l.contains)) &&
      ((x.typed 5).all fun t => t.kern ≠ k || (pcPairs t.bytes).all fun p => d.contains p.1 && l.contains p.2) &&
      ((x.typed 6).all fun t => t.kern ≠ k || ((htabOffsets t false).all d.contains && (htabOffsets t true).all l.contains))).all id

/-! ### Equivalence points -/

/-- Table 3-2: a state-mapping entry. -/
def mapEntry (r : List Byte) : MapEntry :=
  { kind := bits (num r 0 4) 30 2, slot := bits (num r 0 4) 16 8, dreg := bits (num r 0 4) 8 8, lreg := bits (num r 0 4) 0 8 }

/-- Table 3-1: the state-mapping table at an offset of a directory. -/
def eqpAt (o : List Byte) (off : Nat) : Eqp :=
  let h := o.drop off
  { id := bits (num h 0 2) 0 12, doff := num h 8 4, loff := num h 12 4, priv := num h 16 4,
    maps := (records 4 ((h.drop 32).take (4 * (num h 4 1 + num h 5 1 + num h 6 1 + num h 7 1)))).map mapEntry }

/-- R59: the entries of an EQP directory: ID and offset. -/
def eqpDir (o : List Byte) : List (Nat × Nat) := (records 8 ((o.drop 4).take (8 * num o 0 4))).map fun r => (num r 0 2, num r 4 4)

/-- Table 3-2: the registers of a kind: how many in the D-body and the L-body. -/
def mapLimit (kind : Nat) : Nat × Nat :=
  match kind with
  | 0 => (64, 112)
  | 1 => (64, 64)
  | 2 => (24, 24)
  | _ => (7, 7)

/-- R60: the entries of one kind: slots from 0 on in order, no register twice, each within its bound. -/
def kindOk (ms : List MapEntry) (kind n : Nat) : Bool :=
  let mine := ms.filter fun m => m.kind = kind
  mine.map MapEntry.slot = List.range n && distinct (mine.map MapEntry.dreg) && distinct (mine.map MapEntry.lreg) &&
    mine.all fun m => m.dreg < (mapLimit kind).1 && m.lreg < (mapLimit kind).2

/-- R60: the state-mapping table of an ID at an offset of a directory. -/
def eqpOk (o : List Byte) (kpriv : Nat) (dm lm : List (Nat × Nat)) (e : Nat × Nat) : Bool :=
  let h := o.drop e.2
  let q := eqpAt o e.2
  let ns := (List.range 4).map fun k => num h (4 + k) 1
  e.1 < 4096 && e.2 + 32 + 4 * ns.sum ≤ o.length && num h 0 2 = e.1 && zeroAt h 2 2 && zeroAt h 20 12 &&
    num h 4 1 ≤ 112 && num h 5 1 ≤ 64 && num h 6 1 ≤ 24 && num h 7 1 ≤ 7 && q.priv % 16 = 0 && q.priv ≤ kpriv &&
    q.maps.map MapEntry.kind = (ns.mapIdx fun k n => List.replicate n k).flatten &&
    ((List.range 4).all fun k => kindOk q.maps k (ns.getD k 0)) &&
    ((records 4 ((h.drop 32).take (4 * ns.sum))).all fun r => bits (num r 0 4) 24 6 = 0) &&
    (dm.filter fun p => p.1 = e.1) = [(e.1, q.doff)] && (lm.filter fun p => p.1 = e.1) = [(e.1, q.loff)]

/-- R58: each ID appears at most once in each body. -/
def eqpIdsOk (dm lm : List (Nat × Nat)) : Bool := distinct (dm.map Prod.fst) && distinct (lm.map Prod.fst)

/-- R169, R201, code 5: the DOFF and LOFF of a kernel's state-mapping tables name first words. -/
def eqpOffsetsOk (x : ObjFile) : Bool :=
  x.krecs.all fun r => match (sectIdx r 0x20).bind fun n => x.sects[n]? with
    | none => true
    | some t => (eqpDir t.bytes).all fun e => t.bytes.length < e.2 + 32 ||
        ((x.starts (bodyIdx r false)).contains (eqpAt t.bytes e.2).doff && (x.starts (bodyIdx r true)).contains (eqpAt t.bytes e.2).loff)

/-- R58 to R60, code 6: the IDs of a kernel's bodies, and the equivalence points of one with both bodies. -/
def eqpsOk (x : ObjFile) : Bool :=
  x.krecs.all fun r =>
    let dm := migPoints ((x.cut (bodyIdx r false)).getD [])
    let lm := migPoints ((x.cut (bodyIdx r true)).getD [])
    eqpIdsOk dm lm && match (sectIdx r 0x20).bind fun n => x.sects[n]? with
    | none => true
    | some t =>
      let dir := eqpDir t.bytes
      4 + 8 * num t.bytes 0 4 ≤ t.size && rising (dir.map Prod.fst) &&
        ((records 8 ((t.bytes.drop 4).take (8 * num t.bytes 0 4))).all fun e => zeroAt e 2 2) &&
        dir.all (eqpOk t.bytes (num r 0x10 2) dm lm)

/-! ### The image -/

/-- R201, step 1: the image offset of each section of the table; none for one that the image does not hold. -/
def layOut (pos : Nat) : List Sect → List (Option Nat)
  | [] => []
  | t :: ts =>
    if imaged t.type then
      let p := roundUp pos (2 ^ t.align)
      some p :: layOut (p + t.size) ts
    else none :: layOut pos ts

/-- Where the image ends. -/
def imageEnd (ts : List Sect) (offs : List (Option Nat)) : Nat :=
  ((ts.zip offs).map fun q => match q.2 with
    | some p => p + q.1.size
    | none => 0).foldl max 0

/-- R201, step 1: the image's bytes before relocation, gaps zero. -/
def imageBase (ts : List Sect) (offs : List (Option Nat)) : List Byte :=
  (ts.zip offs).foldl (fun o q => match q.2 with
    | some p => o ++ List.replicate (p - o.length) 0 ++ q.1.bytes
    | none => o) []

/-- R199: the value of a symbol; tiles' and shapes' handles are given in order. -/
def symValue (offs : List (Option Nat)) (imgva : DWord) (tiles shapes : List Word) (y : List Byte) : Int :=
  let v := num y 8 4
  match num y 7 1 with
  | 3 => ((tiles.getD v 0).toNat : Int)
  | 4 => ((shapes.getD v 0).toNat : Int)
  | 5 | 7 => (v : Int)
  | _ => ((imgva.toNat + ((offs.getD (num y 4 2) none).getD 0) + v : Nat) : Int)

/-- R176, R200: the width of the base word's immediate, and whether the widened field is read signed: formats LI, LW, UI and UW
where an IMM word may stand. -/
def immForm (w : Word) : Option (Nat × Bool) :=
  match isUniform w, (w.extractLsb' 25 6).toNat with
  | false, 0x02 | false, 0x03 | false, 0x04 | false, 0x05 => some (11, true)
  | false, 0x07 => some (18, true)
  | false, 0x08 => some (18, false)
  | true, 0x02 | true, 0x07 | true, 0x08 => some (13, true)
  | true, 0x03 => some (19, true)
  | true, 0x04 => some (19, false)
  | _, _ => none

/-- R200: an IMM word and the base word after it, patched with a value; none when the site or the value does not allow it. -/
def patchImm (e w : Word) (v : Int) : Option (Word × Word) :=
  match immForm w with
  | none => none
  | some (n, signed) =>
    let fits := if signed then -(2 ^ (n + 22) : Int) ≤ v && v < (2 ^ (n + 22) : Int) else 0 ≤ v && v < (2 ^ (n + 23) : Int)
    if !isExt e || extKind e ≠ 0 || isUniform e ≠ isUniform w || isExt w || !fits then none
    else
      let u := (v % (2 ^ (n + 23) : Int)).toNat
      some (BitVec.ofNat 32 (e.toNat / 2 ^ 23 * 2 ^ 23 + u / 2 ^ n), BitVec.ofNat 32 (w.toNat / 2 ^ n * 2 ^ n + u % 2 ^ n))

/-- Bytes replaced in a list from an offset on. -/
def splice (o : List Byte) (at' : Nat) (bs : List Byte) : List Byte := o.take at' ++ bs ++ o.drop (at' + bs.length)

/-- R199, R200: a relocation's site lies in its section, and its symbol is no constant. -/
def siteOk (x : ObjFile) (r y : List Byte) : Bool :=
  num y 7 1 ≠ 6 && (x.sects[num r 0 2]?).any fun t => num r 4 4 + (if num r 2 1 = 0 then 4 else 8) ≤ t.size

/-- R199, R200: one relocation applied to the image. An `IMMW` site lies in an instruction: one in RODATA, which Table 9-11 does not forbid,
is refused. DESIGN CHOICE, log 122. -/
def relocate1 (x : ObjFile) (offs : List (Option Nat)) (imgva : DWord) (tiles shapes : List Word) (img r : List Byte) :
    Option (List Byte) :=
  let y := ((records 16 (x.only 13))[num r 8 4]?).getD []
  let v := symValue offs imgva tiles shapes y + sext (num r 12 4) 32
  let site := ((offs.getD (num r 0 2) none).getD 0) + num r 4 4
  if !siteOk x r y then none
  else match num r 2 1 with
  | 0 => if -(2 ^ 31 : Int) ≤ v && v < (2 ^ 32 : Int) then some (splice img site (leBytes 4 (v % (2 ^ 32 : Int)).toNat)) else none
  | 1 => some (splice img site (leBytes 8 (v % (2 ^ 64 : Int)).toNat))
  | _ =>
    if ((x.sects[num r 0 2]?).map Sect.type) = some 12 then none
    else (patchImm (BitVec.ofNat 32 (num img site 4)) (BitVec.ofNat 32 (num img (site + 4) 4)) v).map fun q =>
      splice img site (leBytes 4 q.1.toNat ++ leBytes 4 q.2.toNat)

/-- R199, R200, code 7: the image with every relocation applied, when none breaks R200. -/
def relocateAll (x : ObjFile) (offs : List (Option Nat)) (imgva : DWord) (tiles shapes : List Word) : Option (List Byte) :=
  let rs := records 16 (x.only 15)
  if !distinct (rs.map fun r => (num r 0 2, num r 4 4)) then none
  else rs.foldl (fun o r => o.bind fun img => relocate1 x offs imgva tiles shapes img r) (some (imageBase x.sects offs))

/-! ### The records of the version -/

/-- The body of a section index. -/
def bodyAt (x : ObjFile) (offs : List (Option Nat)) (n : Option Nat) : Option Body :=
  n.bind fun k => (x.sects[k]?).map fun t => { off := (offs.getD k none).getD 0, len := t.size }

/-- Table 9-5: a kernel as the version holds it. -/
def kernelAt (x : ObjFile) (offs : List (Option Nat)) (r : List Byte) : Kernel :=
  let sect := fun off => (((sectIdx r off).bind fun n => x.sects[n]?).map Sect.bytes).getD []
  { threads := num r 6 2, clblk := num r 8 1, startL := num r 4 2 = 1, dbud := num r 9 1, lbud := num r 10 1,
    dsplit := (num r 12 1, num r 13 1), lsplit := (num r 14 1, num r 15 1), priv := num r 16 2, scrb := num r 20 4,
    cshb := num r 24 4, dbody := bodyAt x offs (sectIdx r 0x1C), lbody := bodyAt x offs (sectIdx r 0x1E),
    eqps := (eqpDir (sect 0x20)).map fun e => eqpAt (sect 0x20) e.2, pcmap := pcPairs (sect 0x22) }

/-- Table 9-6. -/
def entryAt (r : List Byte) : Entry :=
  { kern := num r 0 2, nc := bits (num r 2 1) 0 4, nuc := bits (num r 2 1) 4 3, nv := bits (num r 3 1) 0 3, ops := num r 4 2,
    doff := offIdx r 8, loff := offIdx r 12 }

/-- Table 9-7. -/
def nodeAt (r : List Byte) : Node := { entry := num r 0 2, clusters := num r 4 4, deps := num r 8 8 }

/-- R201: the lowest refusal code of 2 to 6 that an object earns. -/
def objectCode (o : List Byte) : Option Nat :=
  let x := objectOf o
  if !digestOk o then some 2
  else if !known x then some 3
  else if !formOk x then some 4
  else if !(bodiesOk x && eqpOffsetsOk x) then some 5
  else if !eqpsOk x then some 6
  else none

end Sys2Proof.Machine
end

