-- ==== Sys2Proof/Machine/Host.lean ====
section
/-! DEFINITION. What hosts do: RMA through data endpoints (R307, R308), the control window (R309, R317, R409), and the requests to
the device manager (R310 to R313, R330, R408, R112, R288). An event whose conditions do not hold changes nothing. -/

namespace Sys2Proof.Machine

open Sys2Proof

/-! ### Memory by virtual address -/

/-- The parts of a run of bytes that no 64 KiB boundary divides: offset and length; `fuel` bounds them. -/
def pageRuns (va n o : Nat) : Nat → List (Nat × Nat)
  | 0 => []
  | fuel + 1 =>
    if n = 0 then []
    else
      let h := min n (Config.pageBytes - va % Config.pageBytes)
      (o, h) :: pageRuns (va + h) (n - h) (o + h) fuel

/-- Who reads or writes device memory: a host by RMA, or the device manager. -/
inductive Mover where
  | rma | manager
  deriving DecidableEq, Repr

/-- R308: what a leaf and the page allow a mover; the device manager works in device memory only (R310). -/
def moverOk (s : State) (p : Nat) (m : Mover) (write : Bool) (pa : Nat) (leaf : DWord) : Bool :=
  bits leaf.toNat 8 2 = 0 && leaf.getLsbD (if write then 3 else 2) &&
    (match m with
    | .rma => !leaf.getLsbD 5 && (paClass pa = 0 || (!write && (windowOf s pa).any (viewOwned (partOf s p) p pa)))
    | .manager => paClass pa = 0) &&
    !(write && versionFrame s p pa)

/-- How the check of a run of bytes ends: with the physical runs, at a virtual address that may not be touched, or at a unit of
another partition. -/
inductive Pages where
  | ok (rs : List (Nat × Nat))
  | bad (va : DWord)
  | foreign (va target : DWord)
  deriving DecidableEq, Repr

/-- R308: every page of a run is checked: the physical address and length of each part. -/
def pagesOf (s : State) (p c trc : Nat) (m : Mover) (write : Bool) (va : DWord) : List (Nat × Nat) → State × Pages
  | [] => (s, .ok [])
  | (o, n) :: rest =>
    let a := va + BitVec.ofNat 64 o
    match translateMover s p c trc a (drawOf s 300 (o / Config.pageBytes)) with
    | (s, .error _) => (s, .bad a)
    | (s, .ok (pa, leaf)) =>
      if (paClass pa = 0 && !dramOwned (partOf s p).desc pa) || (paClass pa = 3 && (windowOf s pa).any fun w => !viewOwned (partOf s p) p pa w) then
        (s, .foreign a (BitVec.ofNat 64 pa))
      else if !moverOk s p m write pa leaf then (s, .bad a)
      else match pagesOf s p c trc m write va rest with
        | (s, .ok rs) => (s, .ok ((pa, n) :: rs))
        | r => r

/-- The runs of `n` bytes at a virtual address, checked. -/
def checkPages (s : State) (p c trc : Nat) (m : Mover) (write : Bool) (va : DWord) (n : Nat) : State × Pages :=
  pagesOf s p c trc m write va (pageRuns va.toNat n 0 (n / Config.pageBytes + 2))

/-- The bytes of physical runs. -/
def readRuns (s : State) (rs : List (Nat × Nat)) : List Byte :=
  rs.flatMap fun r => readPlace s Config.cores (drawOf s 301 0) (.phys r.1) r.2

/-- Bytes written to physical runs, in order. -/
def writeRuns (s : State) (bs : List Byte) : List (Nat × Nat) → State
  | [] => s
  | (pa, n) :: rest => writeRuns (coverPlace (writePlace s (.phys pa) (bs.take n)) (.phys pa) n) (bs.drop n) rest

/-- R414: the first poisoned byte of physical runs that begin at offset `o`. -/
def poisonIn (s : State) (o : Nat) : List (Nat × Nat) → Option Nat
  | [] => none
  | (pa, n) :: rest =>
    match (List.range n).find? fun k => placePoisoned s (.phys (pa + k)) 1 with
    | some k => some (o + k)
    | none => poisonIn s (o + n) rest

/-! ### RMA -/

/-- The module answers RMA: a port is up, and the module has power. -/
def answers (s : State) : Bool := s.boot.powered && !s.portsUp.isEmpty

/-- R418: without a booted image only the management context answers. -/
def answersParts (s : State) : Bool := answers s && s.boot.status = 0

/-- R314: the management context answers a peer. -/
def answersOperator (s : State) (peer : Nat) : Bool := answers s && peer = Config.operatorPeer (s.boot.image.getD [])

/-- An RMA operation completes. -/
def replyWith (s : State) (ok : Bool) (data : List Byte) : State := { s with replies := s.replies ++ [{ ok := ok, data := data }] }

/-- R316, R410: the endpoint answers a peer. -/
def Endpoint.serves (e : Endpoint) (peer : Nat) : Bool := e.enabled && !e.frozen && e.peer = peer

/-- R316: data endpoint `ep` of a partition, which is 64 times its tenant context and its index. -/
def dataEndpoint (s : State) (p ep : Nat) : Option Endpoint := (partOf s p).eps.find? fun e => !e.control && 64 * e.ctx + e.index = ep

/-- R307: the control endpoint of a partition. -/
def controlEndpoint (s : State) (p : Nat) : Option Endpoint := (partOf s p).eps.find? Endpoint.control

/-- R309, R316: the control endpoint of a partition is enabled, not frozen, and its peer is the one that asks. -/
def controlled (s : State) (p peer : Nat) : Bool := (controlEndpoint s p).any fun e => e.serves peer

/-- R308: a failed RMA operation is recorded and answered with an access error. -/
def rmaError (s : State) (p : Nat) (e : Endpoint) (va : DWord) : State :=
  replyWith (logPart s p 0x6A e.ctx e.index 4 1 va) false []

/-- R410: an endpoint context that reaches a unit of another partition is frozen, and its owner's running context killed. -/
def isolateEndpoint (s : State) (p : Nat) (e : Endpoint) (target : DWord) : State :=
  let c := (partOf s p).running
  let s := modPart s p fun q => { q with eps := q.eps.map fun k => if k = e then { k with frozen := true } else k }
  killLogged (logPart (replyWith s false []) p 0x50 c e.index 4 1 target) p c e.index 4 3

/-- R308, R316: RMA_WRITE. -/
def execRmaWrite (part : Nat) (ep : Nat) (peer : Nat) (va : DWord) (data : List Byte) (s : State) : Out :=
  if !answersParts s then .next s
  else match (dataEndpoint s part ep).filter fun e => e.serves peer with
    | none => .next (replyWith s false [])
    | some e => match checkPages s part e.ctx e.trc .rma true va data.length with
      | (s, .ok rs) => .next (replyWith (writeRuns s data rs) true [])
      | (s, .bad a) => .next (rmaError s part e a)
      | (s, .foreign _ t) => .next (isolateEndpoint s part e t)

/-- R308, R316: RMA_READ. -/
def execRmaRead (part : Nat) (ep : Nat) (peer : Nat) (va : DWord) (len : Nat) (s : State) : Out :=
  if !answersParts s then .next s
  else match (dataEndpoint s part ep).filter fun e => e.serves peer with
    | none => .next (replyWith s false [])
    | some e => match checkPages s part e.ctx e.trc .rma false va len with
      | (s, .bad a) => .next (rmaError s part e a)
      | (s, .foreign _ t) => .next (isolateEndpoint s part e t)
      | (s, .ok rs) => match poisonIn s 0 rs with
        | some k => .next (rmaError s part e (va + BitVec.ofNat 64 k))
        | none => .next (replyWith s true (readRuns s rs))

/-! ### The control window -/

/-- R317: the graph that a launch word, or a request, names, when its handle is current. -/
def graphNamed (s : State) (p c slot gen : Nat) : Option Graph :=
  if slot = 0 then none else (cfind (ctxOf s p c).graphs slot).filter fun g => g.live && g.gen = gen

/-- R318: launch words that a partition holds, running or waiting. -/
def heldWords (q : Part) : Nat := q.queue.length + q.launches.length

/-- R409: a launch word is dropped. -/
def wordBad (s : State) (p : Nat) (w : DWord) : Bool :=
  let q := partOf s p
  w.toNat / 2 ^ 55 ≠ 0 || (cfind q.ctxs (wordCtx w)).isNone || 256 ≤ heldWords q ||
    match (graphNamed s p (wordCtx w) (wordSlot w) (wordGen w)).bind fun g => versionOf s g.ver with
    | some v => v.narg ≤ wordAslot w
    | none => true

/-- R317, R318, R409: a launch word is queued, or dropped. -/
def putLaunch (s : State) (part : Nat) (word : DWord) : State :=
  let s := replyWith s true []
  if wordBad s part word then
    logPart s part 0x68 (if (cfind (partOf s part).ctxs (wordCtx word)).isSome then wordCtx word else 0xFF) 0 4 1 word
  else modPart s part fun q => { q with queue := q.queue ++ [word] }

/-- R309, R316: an access of a peer to a partition's control window: what it does, or the transport's access error. -/
def controlAccess (s : State) (part peer : Nat) (f : State → State) : State :=
  if !answersParts s || (cfind s.parts part).isNone then s
  else if controlled s part peer then f s
  else replyWith s false []

/-- R309, R314, R316: an access of a peer to a window. -/
def windowAccess (s : State) (w : WindowAccess) (f : State → State) : State :=
  match w.window with
  | .control p => controlAccess s p w.peer f
  | .management => if answersOperator s w.peer then f s else if answers s then replyWith s false [] else s

/-- R317, R318, R409: LAUNCH_WORD. -/
def execLaunchWord (part : Nat) (peer : Nat) (word : DWord) (s : State) : Out :=
  .next (controlAccess s part peer fun s => putLaunch s part word)

/-- R324, R309: PCTL_EN_CLEAR. -/
def execPctlEnClear (part : ControlAccess) (s : State) : Out :=
  .next (controlAccess s part.part part.peer fun s => clearEn (replyWith s true []) part.part)

/-- R324, R411: PCTL_EN_SET. -/
def execPctlEnSet (part : ControlAccess) (s : State) : Out :=
  .next (controlAccess s part.part part.peer fun s => setEn (replyWith s true []) part.part)

/-- R409, R314: a control error is recorded: in the partition's log, or for the management window in every log. -/
def controlError (s : State) (w : Window) (info : DWord) : State :=
  match w with
  | .control p => logPart s p 0x69 0xFF 0 4 1 info
  | .management => logAll s 0x69 0 4 1 info

/-- R409, R314: an access that its window does not allow. -/
def invalidAccess (s : State) (w : Window) (off : Nat) (isRead : Bool) : State :=
  controlError (replyWith s false []) w (BitVec.ofNat 64 (off % 65536 + if isRead then 65536 else 0))

/-- R409, R314: INVALID_CONTROL_ACCESS. -/
def execInvalidControlAccess (w : WindowAccess) (off : Nat) (isRead : Bool) (s : State) : Out :=
  .next (windowAccess s w fun s => invalidAccess s w.window off isRead)

/-- R309: REQ: a host's request joins the partition's; one that names no tenant context is not served. -/
def putRequest (s : State) (part : Nat) (value : DWord) : State :=
  let c := value.toNat % 4
  let s := replyWith s true []
  if (cfind (partOf s part).ctxs c).isNone then s
  else modPart s part fun q => { q with reqs := q.reqs ++ [{ host := true, ctx := c, va := value &&& 0xFFFFFFFFFFFFFFC0 }] }

/-- Table 17-1: a control register written: LAUNCH, PCTL, PSTAT, which is read-only, REQ; R409: any other offset, or other than 8 bytes. -/
def writeControl (s : State) (part off : Nat) (value : List DWord) : State :=
  match off, value with
  | 0x000, [v] => putLaunch s part v
  | 0x008, [v] => (if v.getLsbD 0 then setEn else clearEn) (replyWith s true []) part
  | 0x010, [_] => replyWith s true []
  | 0x018, [v] => putRequest s part v
  | _, _ => invalidAccess s (.control part) off false

/-- R314: where the management window takes an aligned write of `n` words of 8 bytes: of any number within MBOX or within STAGE, of one at
any other register. -/
def mgmtOffset (off n : Nat) : Bool :=
  off % 8 = 0 && ((decide (off < 0x40) && decide (off + 8 * n ≤ 0x40)) || (n = 1 && [0x40, 0x48, 0x50, 0x58].contains off) ||
    (decide (0x1000 ≤ off) && decide (off < 0x2000) && decide (off + 8 * n ≤ 0x2000)))

/-- The bytes of words of 8 bytes, the first at the lowest address. -/
def wordBytes (value : List DWord) : List Byte := value.flatMap fun v => leBytes 8 v.toNat

/-- R6, R314: management registers written; read-only ones keep their values. -/
def writeMgmt (m : Mgmt) (off : Nat) (value : List DWord) : Mgmt :=
  if off < 0x40 then { m with mbox := splice m.mbox off (wordBytes value) }
  else if off = 0x40 then { m with busy := true }
  else if off = 0x50 then { m with evaddr := value.headD 0 }
  else if 0x1000 ≤ off then { m with stage := mputs m.stage (off - 0x1000) (wordBytes value) }
  else m

/-- R314, Table 17-5: a write to the management window, but for MGO while BUSY is 1. -/
def writeManagement (s : State) (off : Nat) (value : List DWord) : State :=
  if !mgmtOffset off value.length then invalidAccess s .management off false
  else if off = 0x40 && s.mgmt.busy then s
  else replyWith { s with mgmt := writeMgmt s.mgmt off value } true []

/-- R6, R309, R314: REGISTER_WRITE: an access of some words of 8 bytes that is answered once. -/
def execRegisterWrite (w : WindowAccess) (off : Nat) (value : List DWord) (s : State) : Out :=
  .next (windowAccess s w fun s => match w.window with
    | .control p => writeControl s p off value
    | .management => writeManagement s off value)

/-! ### Requests to the device manager -/

/-- R309: the translation context of data endpoint 0 of a tenant context. -/
def requestTrc (s : State) (p c : Nat) : Option Nat :=
  ((partOf s p).eps.find? fun e => !e.control && e.ctx = c && e.index = 0).map Endpoint.trc

/-- R310: the physical address of a request block. -/
def blockAddr (s : State) (p c : Nat) (va : DWord) : State × Option Nat :=
  match requestTrc s p c with
  | none => (s, none)
  | some trc => match checkPages s p c trc .manager true va 64 with
    | (s, .ok [(pa, _)]) => (s, some pa)
    | (s, _) => (s, none)

/-- A block whose level-1 paths held for a request go on (R310). -/
def Block.answered (c : Nat) (va : DWord) (b : Block) : Block :=
  if b.ctx = c then
    { b with groups := b.groups.map fun g => { g with lanes := g.lanes.map fun l => match l.hold with
        | .svc next a => if a = va then { l with npc := next, hold := .none, once := false } else l
        | _ => l } }
  else b

/-- R310: a supervisor's request is answered: its path goes on, wherever its block is. -/
def releaseAsker (s : State) (p c : Nat) (va : DWord) : State :=
  let s := { s with blocks := s.blocks.map fun b => if b.part = p then b.answered c va else b }
  modPart s p fun q =>
    { q with
      reqs := q.reqs.drop 1
      resume := q.resume.map (Block.answered c va)
      ctxs := q.ctxs.map fun x => (x.1, { x.2 with saved := x.2.saved.map fun v =>
        { v with blocks := v.blocks.map (Block.answered c va), resume := v.resume.map (Block.answered c va) } }) }

/-- What serving a request comes to: the state, STATUS, and the results written into the block: offset and bytes. -/
structure Served where
  state : State
  code : Nat
  outs : List (Nat × List Byte) := []

/-- R310: the request at the head of a partition's is no longer pending. -/
def dropRequest (s : State) (p : Nat) : State := modPart s p fun q => { q with reqs := q.reqs.drop 1 }

/-- R310: a partition's requests are served one at a time, in the order received: the first, when it is tenant context `ctx`'s with
its block at `va` and KIND `k`. It is refused with code 10 when its maker, a host or a supervisor, may not make it; results are
written, then STATUS. A block that cannot be read or written is not answered. -/
def serve (part ctx : Nat) (va : DWord) (k : Nat → Bool) (may : Bool → Bool) (f : List Byte → State → Served) (s : State) : State :=
  match (partOf s part).reqs with
  | [] => s
  | q :: _ =>
    if q.ctx ≠ ctx || q.va ≠ va || !s.boot.powered then s
    else match blockAddr s part ctx va with
      | (t, none) => dropRequest t part
      | (t, some pa) =>
        let blk := readRuns t [(pa, 64)]
        if !k (num blk 0 2) then s
        else
          let r : Served := if may q.host then f blk t else { state := t, code := 10 }
          let u := (r.outs ++ [(2, leBytes 2 r.code)]).foldl (fun (s : State) (o : Nat × List Byte) => writeRuns s o.2 [(pa + o.1, o.2.length)]) r.state
          if q.host then dropRequest u part else releaseAsker u part ctx va

/-- A buffer of `n` bytes in device memory, by data endpoint 0's translation. -/
def bufferAt (s : State) (p c : Nat) (va : DWord) (n : Nat) (write : Bool) : State × Option (List (Nat × Nat)) :=
  match requestTrc s p c with
  | none => (s, none)
  | some trc => match checkPages s p c trc .manager write va n with
    | (s, .ok rs) => (s, some rs)
    | (s, _) => (s, none)

/-! ### Registration -/

/-- R311: the fields of a KIND 1 block. -/
structure RegReq where
  graph : Nat
  objva : DWord
  objlen : Nat
  trc : Nat
  narg : Nat
  imgva : DWord
  args : Nat
  frame : Nat
  done : DWord
  deriving DecidableEq, Repr

def regReq (b : List Byte) : RegReq :=
  { graph := num b 4 4, objva := BitVec.ofNat 64 (num b 8 8), objlen := num b 16 4, trc := num b 20 1, narg := num b 22 2,
    imgva := BitVec.ofNat 64 (num b 24 8), args := num b 32 4, frame := num b 36 4, done := BitVec.ofNat 64 (num b 40 8) }

/-- R311: DONE translates through TRC to a writable leaf with MT 1 or MT 2. -/
def doneOk (s : State) (p c trc : Nat) (va : DWord) : State × Bool :=
  match translateMover s p c trc va (drawOf s 103 1) with
  | (s, .ok (_, leaf)) => (s, leaf.getLsbD 3 && (bits leaf.toNat 8 2 = 1 || bits leaf.toNat 8 2 = 2))
  | (s, .error _) => (s, false)

/-- R311, code 9: a field out of range, but for DONE's translation. -/
def fieldsBad (s : State) (p c : Nat) (r : RegReq) : Bool :=
  let d := (partOf s p).desc
  (r.graph ≠ 0 && (graphNamed s p c (r.graph % 2 ^ 20) (r.graph / 2 ^ 20)).isNone) || 16 ≤ r.trc ||
    !(trcOf s p c r.trc).getLsbD 0 || r.narg = 0 || r.imgva.toNat % 65536 ≠ 0 || !canonical r.imgva ||
    r.args % 256 ≠ 0 || r.frame % 256 ≠ 0 || (dspAddr d r.args (256 * r.narg)).isNone || (dspAddr d r.frame 256).isNone ||
    r.done.toNat % 8 ≠ 0

/-- R370: the lowest free slot of a graph table, 1 to 1,023; a slot that has used up its generations stays out of use. -/
def freeGraph (c : Ctx) : Option Nat :=
  (List.range 1024).find? fun k => k ≠ 0 && (match cfind c.graphs k with
    | none => true
    | some g => !g.live && g.gen < 4096)

/-- R197: the tile and shape objects that an object asks for, in order; none when a tile has no room in the program space. -/
def objectTiles (d : Desc) (x : ObjFile) : Option (List Obj) :=
  (records 16 (x.only 9)).foldr (fun r acc =>
    match acc, if num r 4 4 + num r 8 4 ≤ 2 ^ 25 then dspAddr d (num r 0 1 * 2 ^ 25 + num r 4 4) (num r 8 4) else none with
    | some os, some a => some (.tile .dsp a (num r 8 4) false :: os)
    | _, _ => none) (some [])

/-- Objects take handle slots, lowest first; none when the table is full. -/
def allocAll (s : State) (p c : Nat) : List Obj → State × Option (List Word)
  | [] => (s, some [])
  | o :: os => match allocHandle s p c o with
    | (s, none) => (s, none)
    | (s, some h) => match allocAll s p c os with
      | (s, some hs) => (s, some (h :: hs))
      | r => r

/-- R197: the granules of a tile take its STATE, in the machine, where waiters are retried (R124), or in the image of a saved
context. -/
def stateTile (s : State) (p c : Nat) (r : List Byte) : State :=
  let d := (partOf s p).desc
  match dspAddr d (num r 0 1 * 2 ^ 25 + num r 4 4) (num r 8 4) with
  | none => s
  | some a =>
    let gs := (List.range (num r 8 4 / 16)).map fun k => a / 16 + k
    let full := num r 1 1 = 1
    match (ctxOf s p c).saved with
    | none => feRetry (setFulls s .dsp gs full)
    | some v =>
      let rel := gs.filterMap fun g => (windowRel d (16 * g)).map fun k => k / 16
      let dspFull := rel.foldl (fun l g => if full then sinsert l g else sremove l g) v.dspFull
      modCtx s p c fun x => { x with saved := some { v with dspFull := dspFull } }

/-- Page `k` of an image, the rest of the last one zero. -/
def pageOf (img : List Byte) (k : Nat) : List Byte :=
  let page := (img.drop (k * Config.pageBytes)).take Config.pageBytes
  page ++ List.replicate (Config.pageBytes - page.length) 0

/-- A physical address lies in a frame. -/
def inFrame (f pa : Nat) : Bool := decide (f * Config.pageBytes ≤ pa) && decide (pa < f * Config.pageBytes + Config.pageBytes)

/-- R416: some line of a frame is poisoned. -/
def framePoisoned (s : State) (f : Nat) : Bool := s.poison.any fun u => match u.1 with
  | .line pa => inFrame f pa
  | _ => false

/-- R111, R202, R416: the frame of the version replaced that holds the bytes of page `k` unchanged, and whole. -/
def sharedFrame (s : State) (old : Option Version) (img : List Byte) (k : Nat) : Option Nat :=
  (old.bind fun v => v.frames[k]?).filter fun f =>
    !framePoisoned s f && mgets s.dram (f * Config.pageBytes) Config.pageBytes = pageOf img k

/-- R202, R367: the frames that the device manager takes for an image: those of unchanged pages of the version replaced, and others in
channels of the partition that hold no version. -/
def framesOk (s : State) (p : Nat) (old : Option Version) (img : List Byte) (n : Nat) (frames : List Nat) : Bool :=
  frames.length = n && distinct frames && (List.range n).all fun k =>
    let f := frames.getD k 0
    match sharedFrame s old img k with
    | some g => f = g
    | none => dramOwned (partOf s p).desc (f * Config.pageBytes) &&
        dramOwned (partOf s p).desc (f * Config.pageBytes + Config.pageBytes - 1) && !versionFrame s p (f * Config.pageBytes)

/-- R110: engine writes to a frame take their place in the order, so that none changes it once it is a version's. -/
def landFrame (s : State) (f : Nat) : State := landWhere s (fun u => inFrame f u.pa) fun u => u.parts.any fun q => inFrame f q.pa

/-- R201, R202, R416: a page of an image in its frame. -/
def fillFrame (s : State) (f : Nat) (page : List Byte) : State :=
  let s := landFrame s f
  let clean := fun (u : PoisonUnit × List Nat) => match u.1 with
    | .line pa => !inFrame f pa
    | _ => true
  { s with dram := mputs s.dram (f * Config.pageBytes) page, poison := s.poison.filter clean }

/-- R201, R202: the image in its frames, but for pages that are shared. -/
def fillFrames (s : State) (old : Option Version) (img : List Byte) (frames : List Nat) : State :=
  (List.range frames.length).foldl (fun s k =>
    if (sharedFrame s old img k).isSome then s else fillFrame s (frames.getD k 0) (pageOf img k)) s

/-- R111, R202, R367: the version is built and becomes the graph's current one. -/
def install (s : State) (p c slot gen num9 : Nat) (r : RegReq) (x : ObjFile) (old : Option Version) (img : List Byte)
    (frames : List Nat) (handles : List Word) : State :=
  let offs := layOut 0 x.sects
  let v : Version :=
    { id := s.fresh, part := p, ctx := c, graph := slot, num := num9, imgva := r.imgva, size := img.length, frames := frames,
      kernels := x.krecs.map (kernelAt x offs), entries := (records 16 (x.only 7)).map entryAt,
      nodes := (records 16 (x.only 8)).map nodeAt, trc := r.trc, narg := r.narg, args := r.args, frame := r.frame, done := r.done,
      digest := digestOf x.file, handles := handles, root := trcOf s p c r.trc }
  let s := { fillFrames s old img frames with versions := s.versions ++ [v], fresh := s.fresh + 1 }
  let leaf := fun (s : State) (k : Nat) =>
    setLeaf s p v.root (r.imgva + BitVec.ofNat 64 (k * Config.pageBytes)) (frames.getD k 0 * Config.pageBytes + 0x15)
  let s := (List.range frames.length).foldl leaf s
  modCtx s p c fun y => { y with graphs := cset y.graphs slot { gen := gen, live := true, ver := v.id, nver := num9 } }

/-- R311: what a registration has found: its request, object, slot, handles and image. -/
structure Building where
  r : RegReq
  x : ObjFile
  slot : Nat
  gen : Nat
  nver : Nat
  handles : List Word
  img : List Byte

/-- R311, R202: the new version takes its place: granules, frames, leaves and handles; the version replaced may be retired. -/
def build (p c : Nat) (frames : List Nat) (y : Building) (old : Option Version) (s : State) : Served :=
  let t := (records 16 (y.x.only 9)).foldl (fun t q => stateTile t p c q) s
  let t := install t p c y.slot y.gen y.nver y.r y.x old y.img frames y.handles
  let t := match old with
    | some v => retireGraph t v
    | none => t
  { state := t, code := 1, outs := [(4, leBytes 4 (y.gen * 2 ^ 20 + y.slot)), (0x30, leBytes 4 y.nver)] }

/-- R311, R201, R202, Table 17-3: a KIND 1 request; the lowest code that applies. -/
def registerObject (p c : Nat) (frames : List Nat) (b : List Byte) (s : State) : Served :=
  let r := regReq b
  let old := if r.graph = 0 then none else graphNamed s p c (r.graph % 2 ^ 20) (r.graph / 2 ^ 20)
  let slot := if r.graph = 0 then freeGraph (ctxOf s p c) else some (r.graph % 2 ^ 20)
  let full := if slot.isNone then 8 else 9
  match bufferAt s p c r.objva r.objlen false with
  | (s, none) => { state := s, code := full }
  | (s, some rs) =>
    if (poisonIn s 0 rs).isSome then { state := s, code := full }
    else
      let o := readRuns s rs
      let x := objectOf o
      let offs := layOut 0 x.sects
      let tiles := objectTiles (partOf s p).desc x
      let n := (x.only 9).length / 16
      let taken := allocAll s p c (tiles.getD [] ++ (records 64 (x.only 10)).map Obj.shape)
      let hs := taken.2.getD []
      match objectCode o, relocateAll x offs r.imgva (hs.take n) (hs.drop n), slot with
      | some k, _, _ => { state := s, code := k }
      | none, none, _ => { state := s, code := 7 }
      | none, some _, none => { state := s, code := 8 }
      | none, some img, some slot =>
        let size := max 1 ((img.length + Config.pageBytes - 1) / Config.pageBytes)
        let oldV := old.bind fun g => versionOf s g.ver
        let d := doneOk s p c r.trc r.done
        if tiles.isNone || taken.2.isNone || !((x.krecs.map (kernelAt x offs)).all (placeable s p c)) || !framesOk s p oldV img size frames then
          { state := s, code := 8 }
        else if fieldsBad s p c r || !d.2 then { state := d.1, code := 9 }
        else
          build p c frames
            { r := r, x := x, slot := slot, gen := (old.map Graph.gen).getD (((cfind (ctxOf s p c).graphs slot).map Graph.gen).getD 1)
              nver := (old.map Graph.nver).getD 0 + 1, handles := hs, img := img } oldV taken.1

/-- R310, R311: REGISTER_GRAPH. -/
def execRegisterGraph (part : Nat) (ctx : Nat) (va : DWord) (frames : List Nat) (s : State) : Out :=
  .next (serve part ctx va (fun k => k = 1) (fun host => host) (registerObject part ctx frames) s)

/-- R312: a KIND 2 request. -/
def unregister (p c : Nat) (b : List Byte) (s : State) : Served :=
  let h := num b 4 4
  let slot := h % 2 ^ 20
  match graphNamed s p c slot (h / 2 ^ 20) with
  | none => { state := s, code := 9 }
  | some g =>
    let s := modCtx s p c fun x => { x with graphs := cset x.graphs slot { g with gen := g.gen + 1, live := false } }
    let mine := fun (w : DWord) => wordCtx w = c && wordSlot w = slot
    let gone := (partOf s p).queue.filter mine
    let s := modPart s p fun q => { q with queue := q.queue.filter fun w => !mine w }
    let s := match gone with
      | [] => s
      | w :: _ => logPart s p 0x68 c 0 4 gone.length w
    { state := match versionOf s g.ver with
        | some v => retireGraph s v
        | none => s
      code := 1 }

/-- R312: UNREGISTER_GRAPH. -/
def execUnregisterGraph (part : Nat) (ctx : Nat) (va : DWord) (s : State) : Out :=
  .next (serve part ctx va (fun k => k = 2) (fun host => host) (unregister part ctx) s)

/-! ### Attestation -/

/-- A bitmap of `n` bytes. -/
def bitmap (n : Nat) (ks : List Nat) : List Byte := leBytes n ((ks.eraseDups.map fun k => 2 ^ k).sum)

/-- Table 17-7: a partition descriptor's image. -/
def Desc.image (d : Desc) : List Byte :=
  let pad := fun (n : Nat) (bs : List Byte) => bs ++ List.replicate (n - bs.length) 0
  bitmap 8 d.const ++ bitmap 32 d.l2b ++ bitmap 8 d.chan ++ bitmap 8 d.eng ++
    pad 16 (d.dspw.flatMap fun w => leBytes 2 w.1 ++ leBytes 2 w.2) ++
    pad 64 (d.poolw.flatMap fun w => leBytes 4 w.1 ++ leBytes 4 w.2) ++
    pad 128 (d.hostw.flatMap fun w => leBytes 4 w.1 ++ leBytes 4 w.2.1 ++ leBytes 8 w.2.2.toNat) ++
    leBytes 2 d.grace ++ leBytes 2 d.slice ++ leBytes 4 d.kill ++ leBytes 4 d.pwr ++ leBytes 4 d.amp ++ leBytes 4 d.wt ++
    pad 4 (d.dspr.flatMap fun n => leBytes 1 n) ++ List.replicate 32 0

/-- The characters of the ordering number (R329). -/
def orderNumber : List Byte := "GR-VX640-A0".toList.map fun c => BitVec.ofNat 8 c.toNat

/-- R329: the identity record. -/
def identity (s : State) : List Byte :=
  let img := s.boot.image.getD []
  orderNumber ++ List.replicate (16 - orderNumber.length) 0 ++ [0xA0] ++ List.replicate 7 0 ++ leBytes 8 Config.serialNumber.toNat ++
    leBytes 4 (Config.imageVersion img) ++ sha3 img ++ (List.range 1312).map Config.identityKey

/-- R330: the graphs that a partition's contexts have registered: handle, version and digest of each. -/
def graphLines (s : State) (p : Nat) : List (List Byte) :=
  (partOf s p).ctxs.flatMap fun c => (c.2.graphs.filter fun g => g.2.live).filterMap fun g =>
    (versionOf s g.2.ver).map fun v => leBytes 4 (g.2.gen * 2 ^ 20 + g.1) ++ leBytes 4 v.num ++ v.digest

/-- R330: the bytes of a report, with its signature. -/
def report (s : State) (p : Nat) (nonce : List Byte) : List Byte :=
  let gs := graphLines s p
  let body := identity s ++ nonce ++ sha3 (partOf s p).desc.image ++ leBytes 4 gs.length ++ gs.flatten
  body ++ Config.mldsaSign body

/-- R330, R418: a KIND 3 request. -/
def attest (p c : Nat) (b : List Byte) (s : State) : Served :=
  match bufferAt s p c (BitVec.ofNat 64 (num b 0x28 8)) 16384 true with
  | (s, none) => { state := s, code := 9 }
  | (s, some rs) =>
    if !Config.identityUsable s.tick then { state := logUnit s p 0x72 c 0 7 1 0, code := 11 }
    else
      let out := report s p ((b.drop 8).take 32)
      if 16384 < out.length then { state := s, code := 9 }
      else { state := writeRuns s out (cutRuns out.length rs), code := 1 }
where
  /-- The runs of the first `n` bytes. -/
  cutRuns (n : Nat) : List (Nat × Nat) → List (Nat × Nat)
    | [] => []
    | (pa, m) :: rest => (pa, min m n) :: cutRuns (n - m) rest

/-- R330: ATTESTATION_REPORT. -/
def execAttestationReport (part : Nat) (ctx : Nat) (va : DWord) (s : State) : Out :=
  .next (serve part ctx va (fun k => k = 3) (fun host => host) (attest part ctx) s)

/-! ### A supervisor's requests -/

/-- R112: a run of bytes lies in one channel that the partition owns. -/
def rangeOwned (d : Desc) (a n : Nat) : Bool := dramOwned d a && dramOwned d (a + n - 1) && a / 2 ^ 33 = (a + n - 1) / 2 ^ 33

/-- R112, Table 5-5: the arrays that a window of `n` elements reads: address and bytes of each. -/
def windowRanges (w : FmtWindow) (n : Nat) : List (Nat × Nat) :=
  match bits w.ctl.toNat 0 4 with
  | 0 => [(w.src.toNat, n / 2), (w.kscl.toNat, n / 64), (w.sscl.toNat, 4 * ((n + 16383) / 16384))]
  | 1 => [(w.src.toNat, n), (w.kscl.toNat, n / 32)]
  | _ => [(w.src.toNat, n)]

/-- R112, Table 5-5: an enabled window's fields are in range, and what it reads lies in its die's stack, in the partition's channels. -/
def windowOk (d : Desc) (die : Nat) (w : FmtWindow) : Bool :=
  let base := w.view.toNat / 2 ^ 16 * 2 ^ 16
  let size := w.view.toNat % 2 ^ 16 * 2 ^ 16
  size ≠ 0 && base / 2 ^ 44 = 3 && bits base 42 2 = die && bits (base + size - 1) 42 10 = bits base 42 10 && w.src.toNat % 16 = 0 &&
    w.sscl.toNat % 4 = 0 && bits w.ctl.toNat 4 4 ≤ 2 && bits w.ctl.toNat 0 4 ≤ 3 &&
    (windowRanges w (size / fmtBytes w)).all fun r => rangeOwned d r.1 r.2 && r.1 / 2 ^ 33 / 16 = die

/-- The views of two windows overlap. -/
def viewsMeet (a b : FmtWindow) : Bool :=
  let lo := fun (w : FmtWindow) => w.view.toNat / 2 ^ 16
  let hi := fun (w : FmtWindow) => w.view.toNat / 2 ^ 16 + w.view.toNat % 2 ^ 16
  lo a < hi b && lo b < hi a

/-- R112: a KIND 4 request (its layout PRESUMED, log 95); a window that serves another partition, or a view that another window has, is
refused. -/
def setWindow (p : Nat) (b : List Byte) (s : State) : Served :=
  let d := (partOf s p).desc
  let die := num b 4 1
  let n := num b 5 1
  let w : FmtWindow :=
    { part := p, view := BitVec.ofNat 64 (num b 0x08 8), src := BitVec.ofNat 64 (num b 0x10 8), kscl := BitVec.ofNat 64 (num b 0x18 8)
      sscl := BitVec.ofNat 64 (num b 0x20 8), ctl := BitVec.ofNat 64 (num b 0x28 8) &&& 0x80000000000000FF }
  let others := (s.fmt.filter fun q => q.1 ≠ 16 * die + n && q.2.ctl.getLsbD 63).map Prod.snd
  let mine := match cfind s.fmt (16 * die + n) with
    | some o => !o.ctl.getLsbD 63 || o.part = p
    | none => true
  if 4 ≤ die || 16 ≤ n || !mine || (w.ctl.getLsbD 63 && (!windowOk d die w || others.any (viewsMeet w))) then { state := s, code := 9 }
  else { state := { s with fmt := cset s.fmt (16 * die + n) w }, code := 1 }

/-- R112: FORMAT_WINDOW_SETUP. -/
def execFormatWindowSetup (part : Nat) (ctx : Nat) (va : DWord) (s : State) : Out :=
  .next (serve part ctx va (fun k => k = 4) (fun host => !host) (setWindow part) s)

/-- R288: a KIND 5 request (its layout PRESUMED, log 95). -/
def setMembers (p : Nat) (b : List Byte) (s : State) : Served :=
  let unit := num b 4 1
  let n := num b 6 2
  let rank := num b 8 2
  if 32 ≤ unit || !((partOf s p).desc.eng.contains unit) || n = 0 || n ≤ rank then { state := s, code := 9 }
  else { state := { s with colls := cset s.colls unit { members := n, rank := rank } }, code := 1 }

/-- R288: COLLECTIVE_MEMBER_TABLE. -/
def execCollectiveMemberTable (part : Nat) (ctx : Nat) (va : DWord) (s : State) : Out :=
  .next (serve part ctx va (fun k => k = 5) (fun host => !host) (setMembers part) s)

/-- R310: a KIND 6 request (its layout PRESUMED, log 95): a window that the descriptor has is granted to the supervisor's context. -/
def grantWindow (p c : Nat) (b : List Byte) (s : State) : Served :=
  let d := (partOf s p).desc
  let k := num b 5 1
  let there := match num b 4 1 with
    | 0 => (d.poolw[k]?).any fun w => w.2 ≠ 0
    | 1 => (d.hostw[k]?).any fun w => w.2.1 ≠ 0
    | _ => false
  let g : Bool × Nat × Nat := (num b 4 1 = 1, c, k)
  if !there then { state := s, code := 9 }
  else { state := modPart s p fun q => { q with grants := if q.grants.contains g then q.grants else q.grants ++ [g] }, code := 1 }

/-- R310: WINDOW_GRANT. -/
def execWindowGrant (part : Nat) (ctx : Nat) (va : DWord) (s : State) : Out :=
  .next (serve part ctx va (fun k => k = 6) (fun host => !host) (grantWindow part ctx) s)

/-! ### The event log -/

/-- R408: what a reader that wants the records from `want` on gets, at most `most`: the records, the next number, and how many
are lost. -/
def logFrom (q : Part) (want most : Nat) : List EventRec × Nat × Nat :=
  let age := (q.seq % 2 ^ 32 + 2 ^ 32 - want) % 2 ^ 32
  if q.seq < age then ([], want, 0)
  else
    let first := q.seq - q.log.length
    let start := max (q.seq - age) first
    let rs := (q.log.drop (start - first)).take most
    (rs, (start + rs.length) % 2 ^ 32, start - (q.seq - age))

/-- R408: a KIND 7 request. -/
def readLog (p c : Nat) (b : List Byte) (s : State) : Served :=
  let most := num b 0x10 2
  if most = 0 || 256 < most then { state := s, code := 9 }
  else
    let (rs, next, lost) := logFrom (partOf s p) (num b 4 4) most
    match bufferAt s p c (BitVec.ofNat 64 (num b 8 8)) (32 * rs.length) true with
    | (s, none) => { state := s, code := 9 }
    | (s, some runs) =>
      { state := writeRuns s (rs.flatMap EventRec.bytes) runs, code := 1
        outs := [(4, leBytes 4 next), (0x12, leBytes 2 rs.length), (0x14, leBytes 4 lost)] }

/-- R408: EVENT_LOG_READ. -/
def execEventLogRead (part : Nat) (ctx : Nat) (va : DWord) (s : State) : Out :=
  .next (serve part ctx va (fun k => k = 7) (fun _ => true) (readLog part ctx) s)

end Sys2Proof.Machine
end

