-- ==== Sys2Proof/Machine/Management.lean ====
section
/-! DEFINITION. The management context's requests (R314 to R316, R321, R326, R327, R387, R418). A request that has been submitted
(BUSY = 1) is served by the event of its KIND; any other event changes nothing. -/

namespace Sys2Proof.Machine

open Sys2Proof

/-! ### Serving -/

/-- R315: STATUS is written and BUSY cleared. -/
def finishMgmt (s : State) (code : Nat) : State :=
  { s with mgmt := { s.mgmt with busy := false, status := BitVec.ofNat 16 code } }

/-- R315: the request in MBOX is served when it has KIND `k`; what MBOX holds in bytes that Table 17-6 does not name is ignored (R7).
Without a booted image only an image upload is served (R418). -/
def serveMgmt (k : Nat) (f : List Byte → State → State × Nat) (s : State) : State :=
  let m := s.mgmt.mbox
  if !answers s || !s.mgmt.busy || num m 0 2 ≠ k then s
  else if s.boot.status ≠ 0 && k ≠ 0x87 then finishMgmt s 10
  else
    let r := f m s
    finishMgmt r.1 r.2

/-! ### Partition descriptors -/

/-- The numbers of the bits set in `n` bytes. -/
def bitList (b : List Byte) (off n : Nat) : List Nat := (List.range (8 * n)).filter fun k => bits (num b off n) k 1 = 1

/-- Table 17-7: the descriptor that an image gives; its reserved fields are ignored (R7). -/
def descOf (b : List Byte) : Desc :=
  { const := bitList b 0 8, l2b := bitList b 8 32, chan := bitList b 0x28 8, eng := bitList b 0x30 6,
    dspw := (List.range 4).map fun d => (num b (0x38 + 4 * d) 2, num b (0x3A + 4 * d) 2),
    dspr := (List.range 4).map fun d => num b (0x11C + d) 1,
    poolw := (List.range 8).map fun k => (num b (0x48 + 8 * k) 4, num b (0x4C + 8 * k) 4),
    hostw := (List.range 8).map fun k =>
      (num b (0x88 + 16 * k) 4, num b (0x8C + 16 * k) 4, BitVec.ofNat 64 (num b (0x90 + 16 * k) 8)),
    grace := num b 0x108 2, slice := num b 0x10A 2, kill := num b 0x10C 3, pwr := num b 0x110 4, amp := num b 0x114 4,
    wt := num b 0x118 1 }

/-- R321: the die of an L2 bank and of a channel. -/
def bankDie (b : Nat) : Nat := b / 64
def chanDie (c : Nat) : Nat := c / 16

/-- R321: the descriptor is legal, and its fields are in range (Tables 17-4, 17-7). -/
def descLegal (d : Desc) : Bool :=
  !d.const.isEmpty && !d.chan.isEmpty && (d.chan.all fun c => d.l2b.any fun b => bankDie b = chanDie c) &&
    ((d.dspw.zip d.dspr).all fun w => w.1.1 + w.1.2 ≤ 32 && (if w.1.2 = 0 then w.2 = 0 else 1 ≤ w.2 && w.2 ≤ w.1.2)) &&
    (d.poolw.all fun w => w.1 + w.2 ≤ 2 ^ 23) && (d.hostw.all fun w => w.1 + w.2.1 ≤ 2 ^ 23) &&
    d.grace ≤ 9000 && d.kill < 2 ^ 24 && 1 ≤ d.wt && d.wt ≤ 255

/-- R327: the shares of a descriptor with those of the other partitions. -/
def sharesOk (s : State) (p : Nat) (d : Desc) : Bool :=
  let others := s.parts.filter fun q => q.1 ≠ p
  (others.map fun q => q.2.desc.pwr).sum + d.pwr + 200 ≤ s.cap && (others.map fun q => q.2.desc.amp).sum + d.amp ≤ 4400

/-- R365: engine contexts that the saved state of a partition names: its bindings' and its saved collectives'. -/
def savedEngines (s : State) (p : Nat) : List Nat :=
  let q := partOf s p
  let held := (q.ctxs.filter fun c => c.2.saved.isSome).map Prod.fst
  (q.ctxs.flatMap fun c => ((c.2.saved.map Saved.bfqs).getD []).map Prod.fst) ++
    s.cmds.filterMap fun k => match k.kind with
      | .coll _ unit _ _ _ _ _ _ => if k.part = p && held.contains k.ctx then some unit else none
      | _ => none

/-- R365: the change takes a unit from the partition that a saved context uses. -/
def takesSaved (s : State) (p : Nat) (d : Desc) : Bool :=
  let q := partOf s p
  let o := q.desc
  let saved := (q.ctxs.any fun c => c.2.saved.any fun v => !v.blocks.isEmpty || !v.resume.isEmpty || !v.recs.isEmpty || v.since ≠ 0) ||
    !q.resume.isEmpty
  saved && ((o.chan.any fun c => !d.chan.contains c) || ((o.dspw.zip d.dspw).any fun w => w.2.2 < w.1.2) || o.dspr ≠ d.dspr ||
    (savedEngines s p).any fun e => !d.eng.contains e)

/-- R122: a package address moved from a partition's old windows to its new ones; none when it lies in neither. -/
def moveAddr (o d : Desc) (a : Nat) : Option Nat :=
  (windowRel o a).bind fun r => match d.dspw[r / 2 ^ 25]? with
    | some w => if r % 2 ^ 25 < w.2 * 2 ^ 20 then some (windowAbs d r) else none
    | none => none

/-- An engine address after its partition's windows have moved. -/
def EngAddr.moved (f : Nat → Option Nat) : EngAddr → EngAddr
  | .loc .dsp a => .loc .dsp ((f a).getD a)
  | e => e

/-- A command after its partition's windows have moved. -/
def Cmd.moved (f : Nat → Option Nat) (c : Cmd) : Cmd :=
  { c with kind := match c.kind with
      | .rect dst src n r sp dp => .rect (dst.moved f) (src.moved f) n r sp dp
      | .tens a t b => .tens (a.moved f) t b
      | .gather dst base n pitch blk idx wide => .gather (dst.moved f) base n pitch blk idx wide
      | .mdrain dst fmt pitch add => .mdrain (dst.moved f) fmt pitch add
      | k => k }

/-- R126: a handle slot after its partition's windows have moved; a tile that lies in none any more is retired. -/
def HSlot.moved (f : Nat → Option Nat) (h : HSlot) : HSlot :=
  match h.obj with
  | some (.tile .dsp b n st) => match f b, f (b + n - 1) with
    | some a, some _ => { h with obj := some (.tile .dsp a n st) }
    | _, _ => h.retire
  | _ => h

/-- R122: the contents of the die scratchpads go with the windows of a partition. -/
def moveWindows (s : State) (p : Nat) (o d : Desc) : State :=
  let f := moveAddr o d
  let mine := fun (a : Nat) => (windowRel o a).isSome
  let data := s.dsp.filter fun e => mine e.1
  let full := s.dspFull.filter fun g => mine (16 * g)
  let gran := fun (u : PoisonUnit) => match u with
    | .dsp g => mine (16 * g)
    | _ => false
  let bad := s.poison.filter fun u => gran u.1
  let s :=
    { s with
      dsp := data.foldl (fun (m : Cells Byte) (e : Nat × Byte) => match f e.1 with
        | some a => mput m a e.2
        | none => m) (s.dsp.filter fun e => !mine e.1)
      dspFull := full.foldl (fun (l : List Nat) (g : Nat) => match f (16 * g) with
        | some a => sinsert l (a / 16)
        | none => l) (s.dspFull.filter fun g => !mine (16 * g))
      poison := (s.poison.filter fun u => !gran u.1) ++
        bad.filterMap fun (u : PoisonUnit × List Nat) => match u.1 with
          | .dsp g => (f (16 * g)).map fun a => (PoisonUnit.dsp (a / 16), u.2)
          | _ => none
      cmds := s.cmds.map fun c => if c.part = p then c.moved f else c }
  let gone := (partOf s p).ctxs.flatMap fun c => (c.2.handles.filter fun h => h.2.obj.isSome && (h.2.moved f).obj.isNone).map fun h =>
    (c.1, mkHandle h.1 h.2.gen)
  let s := modPart s p fun q => { q with ctxs := q.ctxs.map fun c =>
    (c.1, { c.2 with
      handles := c.2.handles.map fun h => (h.1, h.2.moved f)
      saved := c.2.saved.map fun v => { v with cmds := v.cmds.map (Cmd.moved f) } }) }
  settleFamilies (gone.foldl (fun s h => dropRecs s p h.1 h.2) s)

/-- R114: SPLIT_LIMIT as the device manager sets it when it takes a descriptor, when it does. A context with saved blocks, or whose SPLIT or
registered bodies would break the value, keeps its own. DESIGN CHOICE, log 124. -/
def Ctx.limited (s : State) (p c : Nat) (v : BitVec 36) (x : Ctx) : Ctx :=
  let y := { x with splitLimit := v }
  let fits := fun (k : Kernel) (l : Bool) => (k.body l).isNone || splitOk v l (if l then 64 else 48) (splitOf s p c k l)
  let ks := (s.versions.filter fun w => w.part = p && w.ctx = c).flatMap Version.kernels
  if (x.saved.any fun w => !w.blocks.isEmpty || !w.resume.isEmpty) || splitBad y (y.split.setWidth 64) ||
    !(ks.all fun k => fits k false && fits k true) then x else y

/-- R114: the device manager's setting of SPLIT_LIMIT with a descriptor, its CSH at most 8 (Table 5-7). -/
def limitSplits (s : State) (p : Nat) : State :=
  match (Config.splitLimitSet (drawOf s 204 p)).filter fun v => bits v.toNat 32 4 ≤ 8 with
  | none => s
  | some v => modPart s p fun q => { q with ctxs := q.ctxs.map fun c => (c.1, c.2.limited s p c.1 v) }

/-- R321: a block of the partition is resident: it is on a core, or a reclaim has halted it and it has neither been placed again nor been
saved with its context. -/
def hasResident (s : State) (p : Nat) : Bool :=
  (s.blocks.any fun k => k.part = p) || (partOf s p).resume.any fun b => b.parked && !b.away

/-- R10, R322: engine contexts that leave a partition lose what it has in them: their member tables, its commands and its bindings; and
they are frozen for it no more. DESIGN CHOICE, log 149. -/
def clearEngines (s : State) (p : Nat) (o d : Desc) : State :=
  let gone := o.eng.filter fun u => !d.eng.contains u
  let s := discardCmds s fun k => k.part = p && gone.any fun u => k.ofUnit u
  let s := { s with colls := s.colls.filter fun k => !gone.contains k.1 }
  let free := gone.filter fun u => !s.parts.any fun q => q.1 ≠ p && q.2.desc.eng.contains u
  let s := { s with frozenEngs := s.frozenEngs.filter fun u => !free.contains u }
  (s.bfqs.filter fun q => q.2.part = p && gone.contains q.1).foldl (fun s q => releaseBfq s q.1 q.2) s

/-- R322, R323: constellations have left a partition. Its copies that they had go on elsewhere; the cores and copy engines of those that no
partition has now, which hold no block, are at reset, frozen no more. DESIGN CHOICE, log 149. -/
def vacate (s : State) (p : Nat) (ks : List Nat) : State :=
  let free := ks.filter fun k => !s.parts.any fun q => q.2.desc.const.contains k
  let s := { s with
    cmds := s.cmds.map (Cmd.rehome s p)
    frozenCopies := s.frozenCopies.filter fun k => !free.contains k
    poolLeases := s.poolLeases.filter fun l => !free.contains (Config.constOf l.core) }
  ((s.cores.map Prod.fst).filter fun n => free.contains (Config.constOf n) && (coreOf s n).allocs.isEmpty).foldl
    (fun s n => modCore s n fun _ => {}) s

/-- R10, R323: an address that one descriptor covers and another does not any more. -/
def leftBehind (o d : Desc) (own : Desc → Nat → Bool) (pa : Nat) : Bool := own o pa && !own d pa

/-- R10, R323, R139, R140: what is queued or posted for the pool and host-visible windows that leave a partition reaches them first. DEDUCED,
log 134. -/
def leaveWindows (s : State) (o d : Desc) : State :=
  let goes := fun (e : Nat × List Byte) => leftBehind o d hostOwned (2 * 2 ^ 44 + e.1)
  let lines := (s.sysq.map fun e => e.addr / 64) ++ s.poolLines.map Prod.fst
  let s :=
    { s with
      posted := s.posted.filter fun e => !goes e
      hostMem := ((s.posted.filter goes).flatMap fun e => e.2.mapIdx fun k b => (e.1 + k, b)).foldl
        (fun (m : Cells Byte) (e : Nat × Byte) => mput m e.1 e.2) s.hostMem }
  (lines.eraseDups.filter fun n => leftBehind o d poolOwned (2 ^ 44 + 64 * n)).foldl (fun s n => dropLine (poolMerge s n) n) s

/-- R321: a KIND 0x80 request. What engines have written takes its place in the order before the units change hands (R10), engine contexts
that leave it are cleared, and a format window whose ranges the descriptor does not cover any more is at reset (R112); DESIGN CHOICE,
log 136. DRAM channels, pool windows and host-visible windows keep their contents when they change hands; DESIGN CHOICE, log 150. What a
partition is allowed before its first window of the arbiter the spec leaves open: nothing. DESIGN CHOICE, log 25. -/
def putDescriptor (m : List Byte) (s : State) : State × Nat :=
  let p := num m 4 1
  let off := num m 8 4
  let b := mgets s.mgmt.stage off 320
  let d := descOf b
  if Config.partitions ≤ p || off % 64 ≠ 0 || 4096 < off + 320 || !descLegal d || !sharesOk s p d then
    (s, 9)
  else if takesSaved s p d then (s, 12)
  else if hasResident s p then (s, 13)
  else
    let o := (partOf s p).desc
    let s := clearEngines (leaveWindows (landAll s p fun _ => true) o d) p o d
    let s := if o.dspw = d.dspw then s else moveWindows s p o d
    let q := partOf s p
    let q := { q with
      desc := d
      lost := if o.hostw = d.hostw then q.lost else []
      loans := q.loans.filter fun e => d.const.contains e.1 }
    let fmt := s.fmt.filter fun w => w.2.part ≠ p || !w.2.ctl.getLsbD 63 || windowOk d (w.1 / 16) w.2
    let s := vacate { s with parts := cset s.parts p q, fmt := fmt } p (o.const.filter fun k => !d.const.contains k)
    (limitSplits s p, 1)

/-- R321: WRITE_PARTITION_DESCRIPTOR. -/
def execWritePartitionDescriptor (s : State) : Out := .next (serveMgmt 0x80 putDescriptor s)

/-! ### Tenant contexts -/

/-- R316: a KIND 0x81 request: the context starts with everything at its reset value, its program space zero and empty (log 80). -/
def addContext (m : List Byte) (s : State) : State × Nat :=
  let p := num m 4 1
  let c := num m 5 1
  if Config.partitions ≤ p || Config.contexts ≤ c then (s, 9)
  else match cfind s.parts p with
    | none => (s, 13)
    | some q =>
      if (cfind q.ctxs c).isSome then (s, 13)
      else if (cfind q.ctxs q.running).isSome then
        (modPart s p fun q => { q with ctxs := cset q.ctxs c { saved := some {} } }, 1)
      else (startCtx (modPart s p fun q => { q with ctxs := cset q.ctxs c { saved := some {} } }) p c, 1)

/-- R316: CREATE_TENANT_CONTEXT. -/
def execCreateTenantContext (s : State) : Out := .next (serveMgmt 0x81 addContext s)

/-- R316: a KIND 0x82 request: what the context holds is killed, and it is no more. -/
def dropContext (m : List Byte) (s : State) : State × Nat :=
  let p := num m 4 1
  let c := num m 5 1
  if Config.partitions ≤ p || Config.contexts ≤ c then (s, 9)
  else if (cfind (partOf s p).ctxs c).isNone then (s, 13)
  else
    let was := (partOf s p).running = c
    let s := modPart (killCtx s p c) p fun q =>
      { q with
        ctxs := cdel q.ctxs c
        eps := q.eps.filter fun e => e.control || e.ctx ≠ c
        grants := q.grants.filter fun g => g.2.1 ≠ c }
    (if was then goOn s p false else s, 1)

/-- R316: DESTROY_TENANT_CONTEXT. -/
def execDestroyTenantContext (s : State) : Out := .next (serveMgmt 0x82 dropContext s)

/-- R307, R315: a KIND 0x83 request; a partition has at most 64 data endpoint contexts. -/
def putEndpoint (m : List Byte) (s : State) : State × Nat :=
  let p := num m 4 1
  let data := num m 6 1 = 1
  let c := if data then num m 5 1 else 0
  let idx := if data then num m 7 1 else 0
  let e : Endpoint :=
    { control := !data, index := idx, ctx := c, trc := if data then num m 8 1 else 0, enabled := num m 9 1 = 1, peer := num m 16 16 }
  let same := fun (k : Endpoint) => k.control = e.control && k.index = e.index && k.ctx = e.ctx
  let rest := (partOf s p).eps.filter fun k => !same k
  if Config.partitions ≤ p || 1 < num m 6 1 || 1 < num m 9 1 || Config.contexts ≤ c || 64 ≤ idx || 16 ≤ e.trc ||
      (data && 64 ≤ (rest.filter fun k => !k.control).length) then (s, 9)
  else if (cfind s.parts p).isNone || (data && (cfind (partOf s p).ctxs c).isNone) then (s, 13)
  else (modPart s p fun q => { q with eps := rest ++ [e] }, 1)

/-- R316: CONFIGURE_ENDPOINT_CONTEXT. -/
def execConfigureEndpointContext (s : State) : Out :=
  .next (serveMgmt 0x83 putEndpoint s)

/-! ### Lending -/

/-- R316: a KIND 0x84 request: a constellation of X's own passes to Y. -/
def lend (m : List Byte) (s : State) : State × Nat :=
  let x := num m 4 1
  let y := num m 5 1
  let k := num m 6 1
  let own := (partOf s x).desc.const.contains k && !((partOf s x).loans.any fun e => e.1 = k)
  let there := (cfind s.parts x).isSome
  if Config.partitions ≤ x || Config.partitions ≤ y || x = y || 64 ≤ k || (there && (!own || (partOf s x).desc.const.length ≤ 1)) then (s, 9)
  else if !there || (cfind s.parts y).isNone then (s, 13)
  else if s.blocks.any fun b => b.part = x && Config.constOf b.core = k then (s, 13)
  else
    let s := vacate (modPart s x fun q => { q with desc := { q.desc with const := sremove q.desc.const k } }) x [k]
    (modPart s y fun q => { q with desc := { q.desc with const := sinsert q.desc.const k }, loans := q.loans ++ [(k, x)] }, 1)

/-- R316: LEND_CONSTELLATION. -/
def execLendConstellation (s : State) : Out := .next (serveMgmt 0x84 lend s)

/-- R361, R387, R388: a block is halted, its image is laid out with its cluster's, and it waits to be placed again, after those that earlier reclaims halted and before all
others, its waits cancelled, its accumulators with it. -/
def parkBlock (s : State) (b : Block) : State :=
  let s := (List.range b.groups.length).foldl (fun s k => cancelFe s b.id k) s
  let s := if (coreOf s b.core).holder = some b.id then haltOp s b.core else s
  match blockOf s b.id with
  | none => s
  | some b =>
    let b := cancelRound b
    let image := blockBytes s b ++ ((clusterOf s b.cluster).map Cluster.image).getD []
    let b := { (takeLease [(b.core, coreOf s b.core)] b).reask with parked := true, image := image }
    let s := leaveCore s b
    let s := { s with blocks := s.blocks.filter fun k => k.id ≠ b.id }
    let s := modCluster s b.cluster fun c => { c with const := 64 }
    modPart s b.part fun q => { q with resume := (q.resume.filter Block.parked) ++ [b] ++ q.resume.filter fun x => !x.parked }

/-- R387: a resident block leaves a lent constellation: moved when it can be, or else parked. -/
def evict (s : State) (y : Nat) (id : Nat) : State :=
  match blockOf s id with
  | none => s
  | some b =>
    let own := (moveConsts s y (Config.constOf b.core) false).filter fun n => !((partOf s y).loans.any fun e => e.1 = n)
    let alone := (kernelOf s b).all b.alone
    let moved := if alone && movable s b then (leaveTarget s b own).bind fun core => moveSame s b core else none
    moved.getD (parkBlock s b)

/-- R387: a KIND 0x85 request: the constellation returns to its owner, and the borrower's blocks and records leave it. -/
def reclaim (m : List Byte) (s : State) : State × Nat :=
  let x := num m 4 1
  let k := num m 6 1
  if Config.partitions ≤ x || 64 ≤ k then (s, 9)
  else if (cfind s.parts x).isNone then (s, 13)
  else match (s.parts.find? fun q => q.2.loans.contains (k, x)).map Prod.fst with
    | none => (s, 9)
    | some y =>
      let mine := (s.blocks.filter fun b => b.part = y && Config.constOf b.core = k).map Block.id
      let s := mine.foldl (fun s id => evict s y id) s
      let s := modPart s y fun q =>
        { q with desc := { q.desc with const := sremove q.desc.const k }, loans := q.loans.filter fun e => e ≠ (k, x) }
      let s := modPart (vacate s y [k]) x fun q => { q with desc := { q.desc with const := sinsert q.desc.const k } }
      let home := fun (r : TaskRec) => if r.part = y && r.queued && Config.constOf r.home = k then { r with home := homeOf s r } else r
      ({ s with recs := s.recs.map home }, 1)

/-- R387: RECLAIM_CONSTELLATION. -/
def execReclaimConstellation (s : State) : Out := .next (serveMgmt 0x85 reclaim s)

/-! ### Power and firmware -/

/-- R326: a KIND 0x86 request. -/
def setCap (m : List Byte) (s : State) : State × Nat :=
  let cap := num m 8 4
  let mode := num m 12 1
  if 3200 < cap || cap < (s.parts.map fun q => q.2.desc.pwr).sum + 200 || 1 < mode then (s, 9)
  else ({ s with cap := cap, capBefore := cap, budgetMode := mode = 1 }, 1)

/-- R326: SET_CAP_AND_MODE. -/
def execSetCapAndMode (s : State) : Out := .next (serveMgmt 0x86 setCap s)

/-- R315, R328, R418: a KIND 0x87 request: a chunk of an image; the last one verifies it, and stores it when it passes. A refused
request changes nothing. -/
def putChunk (m : List Byte) (s : State) : State × Nat :=
  let off := num m 8 4
  let len := num m 12 4
  let last := num m 16 1
  if len < 8 || 4096 < len || len % 8 ≠ 0 || 1 < last then (s, 9)
  else
    let b := s.boot
    let staged := splice (b.staged ++ List.replicate (off - b.staged.length) 0) off (mgets s.mgmt.stage 0 len)
    let b := { b with staged := staged }
    if last = 0 then ({ s with boot := b }, 1)
    else
      let tried := { b with slots := b.slots.set 0 staged, readable := b.readable.set 0 true }
      if slotStatus tried 0 = 0 then ({ s with boot := { tried with staged := [] } }, 1)
      else (s, 9)

/-- R315: WRITE_FIRMWARE_CHUNK. -/
def execWriteFirmwareChunk (s : State) : Out := .next (serveMgmt 0x87 putChunk s)

/-! ### Other events -/

/-- R314: MGO_WRITE_WHILE_BUSY. -/
def execMgoWriteWhileBusy (s : State) : Out :=
  .next (if answers s && s.mgmt.busy then controlError (replyWith s true []) .management 0x40 else s)

/-- R310, R315: UNKNOWN_REQUEST_KIND. -/
def execUnknownRequestKind (w : Window) (ctx : Nat) (va : DWord) (s : State) : Out :=
  match w with
  | .control p =>
    .next (serve p ctx va (fun k => k = 0 || 7 < k) (fun _ => true) (fun _ t => { state := t, code := 10 }) s)
  | .management =>
    let k := num s.mgmt.mbox 0 2
    .next (if answers s && s.mgmt.busy && (k < 0x80 || 0x87 < k) then finishMgmt s 10 else s)

end Sys2Proof.Machine
end

