-- ==== Sys2Proof/Machine/Dispatch.lean ====
section
/-! DEFINITION. The one match over the instructions: each arm is a call of that instruction's meaning. -/

namespace Sys2Proof.Machine

open Sys2Proof

def exec (i : Instr) (s : State) : Host.Outcome State Fault Refusal :=
  match i with
  | .lsysNop x => Sys2Proof.Machine.execLsysNop x s
  | .lsysLane d x => Sys2Proof.Machine.execLsysLane d x s
  | .lsysTid d x => Sys2Proof.Machine.execLsysTid d x s
  | .lsysGrp d sel x => Sys2Proof.Machine.execLsysGrp d sel x s
  | .lsysClk d x => Sys2Proof.Machine.execLsysClk d x s
  | .lsysBrk x => Sys2Proof.Machine.execLsysBrk x s
  | .ialuAdd d a b x => Sys2Proof.Machine.execIaluAdd d a b x s
  | .ialuSub d a b x => Sys2Proof.Machine.execIaluSub d a b x s
  | .ialuAnd d a b x => Sys2Proof.Machine.execIaluAnd d a b x s
  | .ialuOr d a b x => Sys2Proof.Machine.execIaluOr d a b x s
  | .ialuXor d a b x => Sys2Proof.Machine.execIaluXor d a b x s
  | .ialuAndn d a b x => Sys2Proof.Machine.execIaluAndn d a b x s
  | .ialuShl d a b x => Sys2Proof.Machine.execIaluShl d a b x s
  | .ialuShr d a b x => Sys2Proof.Machine.execIaluShr d a b x s
  | .ialuSar d a b x => Sys2Proof.Machine.execIaluSar d a b x s
  | .ialuMins d a b x => Sys2Proof.Machine.execIaluMins d a b x s
  | .ialuMaxs d a b x => Sys2Proof.Machine.execIaluMaxs d a b x s
  | .ialuMinn d a b x => Sys2Proof.Machine.execIaluMinn d a b x s
  | .ialuMaxn d a b x => Sys2Proof.Machine.execIaluMaxn d a b x s
  | .ialuAbs d a x => Sys2Proof.Machine.execIaluAbs d a x s
  | .iaddi d a imm x => Sys2Proof.Machine.execIaddi d a imm x s
  | .andi d a imm x => Sys2Proof.Machine.execAndi d a imm x s
  | .ori d a imm x => Sys2Proof.Machine.execOri d a imm x s
  | .xori d a imm x => Sys2Proof.Machine.execXori d a imm x s
  | .ishiShl d a n x => Sys2Proof.Machine.execIshiShl d a n x s
  | .ishiShr d a n x => Sys2Proof.Machine.execIshiShr d a n x s
  | .ishiSar d a n x => Sys2Proof.Machine.execIshiSar d a n x s
  | .ishiRol d a n x => Sys2Proof.Machine.execIshiRol d a n x s
  | .movi d imm x => Sys2Proof.Machine.execMovi d imm x s
  | .movhi d imm x => Sys2Proof.Machine.execMovhi d imm x s
  | .imulLo d a b x => Sys2Proof.Machine.execImulLo d a b x s
  | .imulHis d a b x => Sys2Proof.Machine.execImulHis d a b x s
  | .imulHin d a b x => Sys2Proof.Machine.execImulHin d a b x s
  | .imulWides d a b x => Sys2Proof.Machine.execImulWides d a b x s
  | .imulWiden d a b x => Sys2Proof.Machine.execImulWiden d a b x s
  | .imulMad d a b x => Sys2Proof.Machine.execImulMad d a b x s
  | .ibitPopc d a x => Sys2Proof.Machine.execIbitPopc d a x s
  | .ibitClz d a x => Sys2Proof.Machine.execIbitClz d a x s
  | .ibitCtz d a x => Sys2Proof.Machine.execIbitCtz d a x s
  | .ibitBrev d a x => Sys2Proof.Machine.execIbitBrev d a x s
  | .ibitBfxs d a b x => Sys2Proof.Machine.execIbitBfxs d a b x s
  | .ibitBfxn d a b x => Sys2Proof.Machine.execIbitBfxn d a b x s
  | .ibitBfi d a b x => Sys2Proof.Machine.execIbitBfi d a b x s
  | .icmpEq pd comb a b x => Sys2Proof.Machine.execIcmpEq pd comb a b x s
  | .icmpNe pd comb a b x => Sys2Proof.Machine.execIcmpNe pd comb a b x s
  | .icmpLts pd comb a b x => Sys2Proof.Machine.execIcmpLts pd comb a b x s
  | .icmpLes pd comb a b x => Sys2Proof.Machine.execIcmpLes pd comb a b x s
  | .icmpGts pd comb a b x => Sys2Proof.Machine.execIcmpGts pd comb a b x s
  | .icmpGes pd comb a b x => Sys2Proof.Machine.execIcmpGes pd comb a b x s
  | .icmpLtn pd comb a b x => Sys2Proof.Machine.execIcmpLtn pd comb a b x s
  | .icmpLen pd comb a b x => Sys2Proof.Machine.execIcmpLen pd comb a b x s
  | .icmpGtn pd comb a b x => Sys2Proof.Machine.execIcmpGtn pd comb a b x s
  | .icmpGen pd comb a b x => Sys2Proof.Machine.execIcmpGen pd comb a b x s
  | .plogAnd pd comb a b x => Sys2Proof.Machine.execPlogAnd pd comb a b x s
  | .plogOr pd comb a b x => Sys2Proof.Machine.execPlogOr pd comb a b x s
  | .plogXor pd comb a b x => Sys2Proof.Machine.execPlogXor pd comb a b x s
  | .plogAndn pd comb a b x => Sys2Proof.Machine.execPlogAndn pd comb a b x s
  | .plogOrn pd comb a b x => Sys2Proof.Machine.execPlogOrn pd comb a b x s
  | .cmovNz d a b x => Sys2Proof.Machine.execCmovNz d a b x s
  | .cmovZ d a b x => Sys2Proof.Machine.execCmovZ d a b x s
  | .cmovRdp d x => Sys2Proof.Machine.execCmovRdp d x s
  | .cmovWrp a b x => Sys2Proof.Machine.execCmovWrp a b x s
  | .lanexShfl d a b x => Sys2Proof.Machine.execLanexShfl d a b x s
  | .lanexShflx d a b x => Sys2Proof.Machine.execLanexShflx d a b x s
  | .lanexShflup d a b x => Sys2Proof.Machine.execLanexShflup d a b x s
  | .lanexShfldn d a b x => Sys2Proof.Machine.execLanexShfldn d a b x s
  | .lanexBallot d p x => Sys2Proof.Machine.execLanexBallot d p x s
  | .lanexAny d p x => Sys2Proof.Machine.execLanexAny d p x s
  | .lanexAll d p x => Sys2Proof.Machine.execLanexAll d p x s
  | .lanexMatch d a x => Sys2Proof.Machine.execLanexMatch d a x s
  | .lanexRedadd d a x => Sys2Proof.Machine.execLanexRedadd d a x s
  | .lanexRedmins d a x => Sys2Proof.Machine.execLanexRedmins d a x s
  | .lanexRedmaxs d a x => Sys2Proof.Machine.execLanexRedmaxs d a x s
  | .lanexRedand d a x => Sys2Proof.Machine.execLanexRedand d a x s
  | .lanexRedor d a x => Sys2Proof.Machine.execLanexRedor d a x s
  | .lanexRedxor d a x => Sys2Proof.Machine.execLanexRedxor d a x s
  | .lanexNpath d x => Sys2Proof.Machine.execLanexNpath d x s
  | .faddAdd d a b x => Sys2Proof.Machine.execFaddAdd d a b x s
  | .faddSub d a b x => Sys2Proof.Machine.execFaddSub d a b x s
  | .faddMin d a b x => Sys2Proof.Machine.execFaddMin d a b x s
  | .faddMax d a b x => Sys2Proof.Machine.execFaddMax d a b x s
  | .faddAdd2h d a b x => Sys2Proof.Machine.execFaddAdd2h d a b x s
  | .faddSub2h d a b x => Sys2Proof.Machine.execFaddSub2h d a b x s
  | .faddAdd2b d a b x => Sys2Proof.Machine.execFaddAdd2b d a b x s
  | .faddSub2b d a b x => Sys2Proof.Machine.execFaddSub2b d a b x s
  | .faddAbs d a x => Sys2Proof.Machine.execFaddAbs d a x s
  | .faddNeg d a x => Sys2Proof.Machine.execFaddNeg d a x s
  | .faddCsgn d a b x => Sys2Proof.Machine.execFaddCsgn d a b x s
  | .fmulMul d a b x => Sys2Proof.Machine.execFmulMul d a b x s
  | .fmulMul2h d a b x => Sys2Proof.Machine.execFmulMul2h d a b x s
  | .fmulMul2b d a b x => Sys2Proof.Machine.execFmulMul2b d a b x s
  | .ffmaFma d a b x => Sys2Proof.Machine.execFfmaFma d a b x s
  | .ffmaFma2h d a b x => Sys2Proof.Machine.execFfmaFma2h d a b x s
  | .ffmaFma2b d a b x => Sys2Proof.Machine.execFfmaFma2b d a b x s
  | .ffmaFms d a b x => Sys2Proof.Machine.execFfmaFms d a b x s
  | .ffmaFnma d a b x => Sys2Proof.Machine.execFfmaFnma d a b x s
  | .fcmpEq pd comb a b x => Sys2Proof.Machine.execFcmpEq pd comb a b x s
  | .fcmpNe pd comb a b x => Sys2Proof.Machine.execFcmpNe pd comb a b x s
  | .fcmpLt pd comb a b x => Sys2Proof.Machine.execFcmpLt pd comb a b x s
  | .fcmpLe pd comb a b x => Sys2Proof.Machine.execFcmpLe pd comb a b x s
  | .fcmpGt pd comb a b x => Sys2Proof.Machine.execFcmpGt pd comb a b x s
  | .fcmpGe pd comb a b x => Sys2Proof.Machine.execFcmpGe pd comb a b x s
  | .fcmpUn pd comb a b x => Sys2Proof.Machine.execFcmpUn pd comb a b x s
  | .fcmpOrd pd comb a b x => Sys2Proof.Machine.execFcmpOrd pd comb a b x s
  | .fspecRcp d a x => Sys2Proof.Machine.execFspecRcp d a x s
  | .fspecRsqrt d a x => Sys2Proof.Machine.execFspecRsqrt d a x s
  | .fspecSqrt d a x => Sys2Proof.Machine.execFspecSqrt d a x s
  | .fspecExp2 d a x => Sys2Proof.Machine.execFspecExp2 d a x s
  | .fspecLog2 d a x => Sys2Proof.Machine.execFspecLog2 d a x s
  | .fspecSin d a x => Sys2Proof.Machine.execFspecSin d a x s
  | .fspecCos d a x => Sys2Proof.Machine.execFspecCos d a x s
  | .fspecTanh d a x => Sys2Proof.Machine.execFspecTanh d a x s
  | .cvt d a src tgt x => Sys2Proof.Machine.execCvt d a src tgt x s
  | .narrowDot4s d a b x => Sys2Proof.Machine.execNarrowDot4s d a b x s
  | .narrowDot4n d a b x => Sys2Proof.Machine.execNarrowDot4n d a b x s
  | .narrowDot4e4 d a b x => Sys2Proof.Machine.execNarrowDot4e4 d a b x s
  | .narrowDot4e5 d a b x => Sys2Proof.Machine.execNarrowDot4e5 d a b x s
  | .narrowDot2b d a b x => Sys2Proof.Machine.execNarrowDot2b d a b x s
  | .narrowDot2h d a b x => Sys2Proof.Machine.execNarrowDot2h d a b x s
  | .narrowCbdecb d a b x => Sys2Proof.Machine.execNarrowCbdecb d a b x s
  | .narrowCbdech d a b x => Sys2Proof.Machine.execNarrowCbdech d a b x s
  | .narrowCbdecf d a b x => Sys2Proof.Machine.execNarrowCbdecf d a b x s
  | .narrowPke4 d a b x => Sys2Proof.Machine.execNarrowPke4 d a b x s
  | .narrowPke5 d a b x => Sys2Proof.Machine.execNarrowPke5 d a b x s
  | .narrowMxpk d a x => Sys2Proof.Machine.execNarrowMxpk d a x s
  | .narrowMxunpk d a b x => Sys2Proof.Machine.execNarrowMxunpk d a b x s
  | .narrowUpke4 d a x => Sys2Proof.Machine.execNarrowUpke4 d a x s
  | .narrowUpke5 d a x => Sys2Proof.Machine.execNarrowUpke5 d a x s
  | .f64Add d a b x => Sys2Proof.Machine.execF64Add d a b x s
  | .f64Sub d a b x => Sys2Proof.Machine.execF64Sub d a b x s
  | .f64Mul d a b x => Sys2Proof.Machine.execF64Mul d a b x s
  | .f64Fma d a b x => Sys2Proof.Machine.execF64Fma d a b x s
  | .f64Min d a b x => Sys2Proof.Machine.execF64Min d a b x s
  | .f64Max d a b x => Sys2Proof.Machine.execF64Max d a b x s
  | .f64Abs d a x => Sys2Proof.Machine.execF64Abs d a x s
  | .f64Neg d a x => Sys2Proof.Machine.execF64Neg d a x s
  | .ld d a size hs off x => Sys2Proof.Machine.execLd d a size hs off x s
  | .st d a size hs off x => Sys2Proof.Machine.execSt d a size hs off x s
  | .ldl d a size hs off x => Sys2Proof.Machine.execLdl d a size hs off x s
  | .stl d a size hs off x => Sys2Proof.Machine.execStl d a size hs off x s
  | .ldfe d a size hs off x => Sys2Proof.Machine.execLdfe d a size hs off x s
  | .stfe d a size hs off x => Sys2Proof.Machine.execStfe d a size hs off x s
  | .atomAdd d a b x => Sys2Proof.Machine.execAtomAdd d a b x s
  | .atomAnd d a b x => Sys2Proof.Machine.execAtomAnd d a b x s
  | .atomOr d a b x => Sys2Proof.Machine.execAtomOr d a b x s
  | .atomXor d a b x => Sys2Proof.Machine.execAtomXor d a b x s
  | .atomXchg d a b x => Sys2Proof.Machine.execAtomXchg d a b x s
  | .atomMins d a b x => Sys2Proof.Machine.execAtomMins d a b x s
  | .atomMaxs d a b x => Sys2Proof.Machine.execAtomMaxs d a b x s
  | .atomMinn d a b x => Sys2Proof.Machine.execAtomMinn d a b x s
  | .atomMaxn d a b x => Sys2Proof.Machine.execAtomMaxn d a b x s
  | .atomAddf d a b x => Sys2Proof.Machine.execAtomAddf d a b x s
  | .atomCas d a b x => Sys2Proof.Machine.execAtomCas d a b x s
  | .atomAdd64 d a b x => Sys2Proof.Machine.execAtomAdd64 d a b x s
  | .atomXchg64 d a b x => Sys2Proof.Machine.execAtomXchg64 d a b x s
  | .atomCas64 d a b x => Sys2Proof.Machine.execAtomCas64 d a b x s
  | .atomfxAdd a b x => Sys2Proof.Machine.execAtomfxAdd a b x s
  | .atomfxFetch d a b x => Sys2Proof.Machine.execAtomfxFetch d a b x s
  | .pref a size hs off x => Sys2Proof.Machine.execPref a size hs off x s
  | .br p neg disp x => Sys2Proof.Machine.execBr p neg disp x s
  | .brxJmp a x => Sys2Proof.Machine.execBrxJmp a x s
  | .brxCall a x => Sys2Proof.Machine.execBrxCall a x s
  | .call p neg disp x => Sys2Proof.Machine.execCall p neg disp x s
  | .ctlRet x => Sys2Proof.Machine.execCtlRet x s
  | .ctlExit x => Sys2Proof.Machine.execCtlExit x s
  | .ctlYield x => Sys2Proof.Machine.execCtlYield x s
  | .guestDispatch x => Sys2Proof.Machine.execGuestDispatch x s
  | .guestDispatchRg x => Sys2Proof.Machine.execGuestDispatchRg x s
  | .guestRdpc d x => Sys2Proof.Machine.execGuestRdpc d x s
  | .guestWrpc a x => Sys2Proof.Machine.execGuestWrpc a x s
  | .guestAddpc a x => Sys2Proof.Machine.execGuestAddpc a x s
  | .guestRdop d x => Sys2Proof.Machine.execGuestRdop d x s
  | .guestWrop a x => Sys2Proof.Machine.execGuestWrop a x s
  | .mmaAdd va vb acc shape x => Sys2Proof.Machine.execMmaAdd va vb acc shape x s
  | .mmaSet va vb acc shape x => Sys2Proof.Machine.execMmaSet va vb acc shape x s
  | .mmaTri va vb acc shape x => Sys2Proof.Machine.execMmaTri va vb acc shape x s
  | .mmaTriset va vb acc shape x => Sys2Proof.Machine.execMmaTriset va vb acc shape x s
  | .mfragRd d acc b x => Sys2Proof.Machine.execMfragRd d acc b x s
  | .mfragWr d acc b x => Sys2Proof.Machine.execMfragWr d acc b x s
  | .mfragZero acc x => Sys2Proof.Machine.execMfragZero acc x s
  | .usysNop x => Sys2Proof.Machine.execUsysNop x s
  | .usysSvc a x => Sys2Proof.Machine.execUsysSvc a x s
  | .usysTlbiva a b x => Sys2Proof.Machine.execUsysTlbiva a b x s
  | .usysTlbictx a x => Sys2Proof.Machine.execUsysTlbictx a x s
  | .usysRti x => Sys2Proof.Machine.execUsysRti x s
  | .usysBrk x => Sys2Proof.Machine.execUsysBrk x s
  | .ualuAdd d a b x => Sys2Proof.Machine.execUaluAdd d a b x s
  | .ualuSub d a b x => Sys2Proof.Machine.execUaluSub d a b x s
  | .ualuAnd d a b x => Sys2Proof.Machine.execUaluAnd d a b x s
  | .ualuOr d a b x => Sys2Proof.Machine.execUaluOr d a b x s
  | .ualuXor d a b x => Sys2Proof.Machine.execUaluXor d a b x s
  | .ualuShl d a b x => Sys2Proof.Machine.execUaluShl d a b x s
  | .ualuShr d a b x => Sys2Proof.Machine.execUaluShr d a b x s
  | .ualuSar d a b x => Sys2Proof.Machine.execUaluSar d a b x s
  | .ualuMul d a b x => Sys2Proof.Machine.execUaluMul d a b x s
  | .ualuMins d a b x => Sys2Proof.Machine.execUaluMins d a b x s
  | .ualuMaxs d a b x => Sys2Proof.Machine.execUaluMaxs d a b x s
  | .ualuMinn d a b x => Sys2Proof.Machine.execUaluMinn d a b x s
  | .ualuMaxn d a b x => Sys2Proof.Machine.execUaluMaxn d a b x s
  | .uaddi d a imm x => Sys2Proof.Machine.execUaddi d a imm x s
  | .umovi d imm x => Sys2Proof.Machine.execUmovi d imm x s
  | .umovhi d imm x => Sys2Proof.Machine.execUmovhi d imm x s
  | .ucmpEq q a b x => Sys2Proof.Machine.execUcmpEq q a b x s
  | .ucmpNe q a b x => Sys2Proof.Machine.execUcmpNe q a b x s
  | .ucmpLts q a b x => Sys2Proof.Machine.execUcmpLts q a b x s
  | .ucmpLes q a b x => Sys2Proof.Machine.execUcmpLes q a b x s
  | .ucmpGts q a b x => Sys2Proof.Machine.execUcmpGts q a b x s
  | .ucmpGes q a b x => Sys2Proof.Machine.execUcmpGes q a b x s
  | .ucmpLtn q a b x => Sys2Proof.Machine.execUcmpLtn q a b x s
  | .ucmpLen q a b x => Sys2Proof.Machine.execUcmpLen q a b x s
  | .ucmpGtn q a b x => Sys2Proof.Machine.execUcmpGtn q a b x s
  | .ucmpGen q a b x => Sys2Proof.Machine.execUcmpGen q a b x s
  | .ucmpQand q a b x => Sys2Proof.Machine.execUcmpQand q a b x s
  | .ucmpQor q a b x => Sys2Proof.Machine.execUcmpQor q a b x s
  | .ucmpQxor q a b x => Sys2Proof.Machine.execUcmpQxor q a b x s
  | .ubr q neg disp x => Sys2Proof.Machine.execUbr q neg disp x s
  | .uld d a imm x => Sys2Proof.Machine.execUld d a imm x s
  | .ust d a imm x => Sys2Proof.Machine.execUst d a imm x s
  | .umovlFirst d a x => Sys2Proof.Machine.execUmovlFirst d a x s
  | .umovlLane d a b x => Sys2Proof.Machine.execUmovlLane d a b x s
  | .barArrive desc slot level x => Sys2Proof.Machine.execBarArrive desc slot level x s
  | .barArriveCnt desc addr slot level x => Sys2Proof.Machine.execBarArriveCnt desc addr slot level x s
  | .barWait desc slot level x => Sys2Proof.Machine.execBarWait desc slot level x s
  | .barExpect desc slot level x => Sys2Proof.Machine.execBarExpect desc slot level x s
  | .barSync slot level x => Sys2Proof.Machine.execBarSync slot level x s
  | .waitc nl ns nc nt x => Sys2Proof.Machine.execWaitc nl ns nc nt x s
  | .cpyLin desc addr slot level x => Sys2Proof.Machine.execCpyLin desc addr slot level x s
  | .cpyRect desc addr slot level x => Sys2Proof.Machine.execCpyRect desc addr slot level x s
  | .cpyTens desc addr slot level x => Sys2Proof.Machine.execCpyTens desc addr slot level x s
  | .gatherIdx32 desc addr slot level x => Sys2Proof.Machine.execGatherIdx32 desc addr slot level x s
  | .gatherIdx64 desc addr slot level x => Sys2Proof.Machine.execGatherIdx64 desc addr slot level x s
  | .collAllred desc slot level x => Sys2Proof.Machine.execCollAllred desc slot level x s
  | .collRedsc desc slot level x => Sys2Proof.Machine.execCollRedsc desc slot level x s
  | .collAllgat desc slot level x => Sys2Proof.Machine.execCollAllgat desc slot level x s
  | .collBcast desc slot level x => Sys2Proof.Machine.execCollBcast desc slot level x s
  | .collSparse desc slot level x => Sys2Proof.Machine.execCollSparse desc slot level x s
  | .collAlltoall desc slot level x => Sys2Proof.Machine.execCollAlltoall desc slot level x s
  | .mdrainSt desc acc slot level x => Sys2Proof.Machine.execMdrainSt desc acc slot level x s
  | .mdrainAdd desc acc slot level x => Sys2Proof.Machine.execMdrainAdd desc acc slot level x s
  | .gangList a x => Sys2Proof.Machine.execGangList a x s
  | .gangLease x => Sys2Proof.Machine.execGangLease x s
  | .gangRelease x => Sys2Proof.Machine.execGangRelease x s
  | .gangBaton a x => Sys2Proof.Machine.execGangBaton a x s
  | .taskSpawn a x => Sys2Proof.Machine.execTaskSpawn a x s
  | .taskPhase a x => Sys2Proof.Machine.execTaskPhase a x s
  | .taskMerge x => Sys2Proof.Machine.execTaskMerge x s
  | .migL imm x => Sys2Proof.Machine.execMigL imm x s
  | .migD imm x => Sys2Proof.Machine.execMigD imm x s
  | .migAuto imm x => Sys2Proof.Machine.execMigAuto imm x s
  | .regaGrowWait n x => Sys2Proof.Machine.execRegaGrowWait n x s
  | .regaGrowTry q n x => Sys2Proof.Machine.execRegaGrowTry q n x s
  | .regaShrink n x => Sys2Proof.Machine.execRegaShrink n x s
  | .sysr d num x => Sys2Proof.Machine.execSysr d num x s
  | .sysw a num x => Sys2Proof.Machine.execSysw a num x s
  | .fenceSysRel x => Sys2Proof.Machine.execFenceSysRel x s
  | .fenceSysAcq x => Sys2Proof.Machine.execFenceSysAcq x s
  | .fenceSysFull x => Sys2Proof.Machine.execFenceSysFull x s
  | .handleAlloc d a b x => Sys2Proof.Machine.execHandleAlloc d a b x s
  | .handleRetire a x => Sys2Proof.Machine.execHandleRetire a x s
  | .handleFill a x => Sys2Proof.Machine.execHandleFill a x s
  | .handleClear a x => Sys2Proof.Machine.execHandleClear a x s
  | .handleSumm d a x => Sys2Proof.Machine.execHandleSumm d a x s
  | .handleShape d a x => Sys2Proof.Machine.execHandleShape d a x s
  | .bfqBind desc addr x => Sys2Proof.Machine.execBfqBind desc addr x s
  | .bfqJoin desc addr slot level x => Sys2Proof.Machine.execBfqJoin desc addr slot level x s
  | .bfqUnbind a x => Sys2Proof.Machine.execBfqUnbind a x s
  | .perfRd d a x => Sys2Proof.Machine.execPerfRd d a x s
  | .perfSel a b x => Sys2Proof.Machine.execPerfSel a b x s
  | .perfMark a x => Sys2Proof.Machine.execPerfMark a x s
  | .perfSample a x => Sys2Proof.Machine.execPerfSample a x s
  | .rmaWrite part ep peer va data => Sys2Proof.Machine.execRmaWrite part ep peer va data s
  | .rmaRead part ep peer va len => Sys2Proof.Machine.execRmaRead part ep peer va len s
  | .launchWord part peer word => Sys2Proof.Machine.execLaunchWord part peer word s
  | .invalidControlAccess w off isRead => Sys2Proof.Machine.execInvalidControlAccess w off isRead s
  | .pctlEnClear part => Sys2Proof.Machine.execPctlEnClear part s
  | .pctlEnSet part => Sys2Proof.Machine.execPctlEnSet part s
  | .registerGraph part ctx va frames => Sys2Proof.Machine.execRegisterGraph part ctx va frames s
  | .unregisterGraph part ctx va => Sys2Proof.Machine.execUnregisterGraph part ctx va s
  | .attestationReport part ctx va => Sys2Proof.Machine.execAttestationReport part ctx va s
  | .formatWindowSetup part ctx va => Sys2Proof.Machine.execFormatWindowSetup part ctx va s
  | .collectiveMemberTable part ctx va => Sys2Proof.Machine.execCollectiveMemberTable part ctx va s
  | .windowGrant part ctx va => Sys2Proof.Machine.execWindowGrant part ctx va s
  | .eventLogRead part ctx va => Sys2Proof.Machine.execEventLogRead part ctx va s
  | .writePartitionDescriptor => Sys2Proof.Machine.execWritePartitionDescriptor s
  | .createTenantContext => Sys2Proof.Machine.execCreateTenantContext s
  | .destroyTenantContext => Sys2Proof.Machine.execDestroyTenantContext s
  | .configureEndpointContext => Sys2Proof.Machine.execConfigureEndpointContext s
  | .lendConstellation => Sys2Proof.Machine.execLendConstellation s
  | .reclaimConstellation => Sys2Proof.Machine.execReclaimConstellation s
  | .setCapAndMode => Sys2Proof.Machine.execSetCapAndMode s
  | .writeFirmwareChunk => Sys2Proof.Machine.execWriteFirmwareChunk s
  | .registerWrite w off value => Sys2Proof.Machine.execRegisterWrite w off value s
  | .launchStart part ctx slot => Sys2Proof.Machine.execLaunchStart part ctx slot s
  | .nodeStart part launch node => Sys2Proof.Machine.execNodeStart part launch node s
  | .blockPlacement part launch node => Sys2Proof.Machine.execBlockPlacement part launch node s
  | .sameClassMove blk core => Sys2Proof.Machine.execSameClassMove blk core s
  | .launchEnd part launch => Sys2Proof.Machine.execLaunchEnd part launch s
  | .groupSwap core sub => Sys2Proof.Machine.execGroupSwap core sub s
  | .pendingAgeSwap core sub => Sys2Proof.Machine.execPendingAgeSwap core sub s
  | .regroupTimeout blk => Sys2Proof.Machine.execRegroupTimeout blk s
  | .migrate blk => Sys2Proof.Machine.execMigrate blk s
  | .recordClaim core => Sys2Proof.Machine.execRecordClaim core s
  | .recordStealable rec' => Sys2Proof.Machine.execRecordStealable rec' s
  | .leaseGrant core => Sys2Proof.Machine.execLeaseGrant core s
  | .leasePass core => Sys2Proof.Machine.execLeasePass core s
  | .matrixOpComplete core => Sys2Proof.Machine.execMatrixOpComplete core s
  | .bfqWaitExpiry unit => Sys2Proof.Machine.execBfqWaitExpiry unit s
  | .bfqWriteback unit => Sys2Proof.Machine.execBfqWriteback unit s
  | .bfqAutoUnbind unit => Sys2Proof.Machine.execBfqAutoUnbind unit s
  | .engineWrite cmd => Sys2Proof.Machine.execEngineWrite cmd s
  | .engineCommandComplete cmd => Sys2Proof.Machine.execEngineCommandComplete cmd s
  | .collectiveExchange unit peers => Sys2Proof.Machine.execCollectiveExchange unit peers s
  | .engineCommandFault cmd => Sys2Proof.Machine.execEngineCommandFault cmd s
  | .feWatchdog blk grp lane => Sys2Proof.Machine.execFeWatchdog blk grp lane s
  | .stopImageWrite blk grp => Sys2Proof.Machine.execStopImageWrite blk grp s
  | .regaGrant core => Sys2Proof.Machine.execRegaGrant core s
  | .pcSample core => Sys2Proof.Machine.execPcSample core s
  | .l1LeaseExpiry core pa => Sys2Proof.Machine.execL1LeaseExpiry core pa s
  | .bisnpdata line => Sys2Proof.Machine.execBisnpdata line s
  | .bisnpinv line bytes => Sys2Proof.Machine.execBisnpinv line bytes s
  | .l2Eviction line => Sys2Proof.Machine.execL2Eviction line s
  | .poolStoreMerge line => Sys2Proof.Machine.execPoolStoreMerge line s
  | .hostWriteAck => Sys2Proof.Machine.execHostWriteAck s
  | .arbiterWindow => Sys2Proof.Machine.execArbiterWindow s
  | .currentClamp die => Sys2Proof.Machine.execCurrentClamp die s
  | .thermalThrottle die temp => Sys2Proof.Machine.execThermalThrottle die temp s
  | .thermalCapRestore die => Sys2Proof.Machine.execThermalCapRestore die s
  | .thermalShutdown die temp => Sys2Proof.Machine.execThermalShutdown die temp s
  | .sliceExpiry part => Sys2Proof.Machine.execSliceExpiry part s
  | .graceExpiry part => Sys2Proof.Machine.execGraceExpiry part s
  | .haltComplete part => Sys2Proof.Machine.execHaltComplete part s
  | .killExpiry part => Sys2Proof.Machine.execKillExpiry part s
  | .ptpMessage time => Sys2Proof.Machine.execPtpMessage time s
  | .portDown port => Sys2Proof.Machine.execPortDown port s
  | .portUp port => Sys2Proof.Machine.execPortUp port s
  | .hostWindowLost part idx => Sys2Proof.Machine.execHostWindowLost part idx s
  | .cxlPortFail port => Sys2Proof.Machine.execCxlPortFail port s
  | .poolLost => Sys2Proof.Machine.execPoolLost s
  | .correctableError u => Sys2Proof.Machine.execCorrectableError u s
  | .uncorrectableError u => Sys2Proof.Machine.execUncorrectableError u s
  | .dramScrub => Sys2Proof.Machine.execDramScrub s
  | .isolationViolation core target => Sys2Proof.Machine.execIsolationViolation core target s
  | .powerOnReset => Sys2Proof.Machine.execPowerOnReset s
  | .partitionReset part => Sys2Proof.Machine.execPartitionReset part s
  | .versionFree ver => Sys2Proof.Machine.execVersionFree ver s
  | .memoryAccessComplete blk grp store id => Sys2Proof.Machine.execMemoryAccessComplete blk grp store id s
  | .nonInstructionWord w => Sys2Proof.Machine.execNonInstructionWord w s
  | .ptpLost => Sys2Proof.Machine.execPtpLost s
  | .cxlPortRecover port => Sys2Proof.Machine.execCxlPortRecover port s
  | .mgoWriteWhileBusy => Sys2Proof.Machine.execMgoWriteWhileBusy s
  | .unknownRequestKind w ctx va => Sys2Proof.Machine.execUnknownRequestKind w ctx va s

end Sys2Proof.Machine
end

