-- ==== Sys2Proof/Machine/Settle.lean ====
section
/-! DEFINITION. What every step looks at when its turn has been executed: stepped groups (R353), counter notices (R339, R346),
the end of an
emergency (R417), and since when each group is ready or blocked (R40, R41). -/

namespace Sys2Proof.Machine

open Sys2Proof

/-- R40, R41: the cycles since which a group has a ready path, or has none, and since which it is blocked or not. -/
def Group.marked (s : State) (b : Block) (g : Group) : Group :=
  let r := !g.ready.isEmpty
  let k := blocked s b g
  { g with
    wasReady := r
    mark := if r = g.wasReady then g.mark else s.clk
    wasBlocked := k
    blockedAt := if k = g.wasBlocked then g.blockedAt else s.clk }

/-- R40, R41: every group is looked at. -/
def settleMarks (s : State) : State :=
  { s with blocks := s.blocks.map fun b => { b with groups := b.groups.map (Group.marked s b) } }

/-- What follows the turn of a step. -/
def settle (s : State) : State := settleMarks (settleEmergency (settleNotices (settleSteps s)))

end Sys2Proof.Machine
end

