-- ==== Sys2Proof/Machine/Step.lean ====
section
/-! DEFINITION. One step of the module: the next turn of `Schedule` is executed, and `Settle` looks at what follows from it. -/

namespace Sys2Proof.Machine

open Sys2Proof

/-- One step. When no path can issue and the agenda is empty, only time goes on. -/
noncomputable def step (s : State) : Host.Outcome State Fault Refusal :=
  match nextTurn s with
  | .error t => .next (settle t)
  | .ok n =>
    match exec n.instr n.state with
    | .next t => .next (settle t)
    | o => o

/-- The state with an instruction of at most five words, numbered as the opcode table numbers it, placed where the next
step fetches. -/
def State.withFetchWord (s : State) (nbits w : Nat) : State :=
  installWord s ((List.range 20).map fun k => BitVec.ofNat 8 (w % 2 ^ nbits / 2 ^ (8 * k)))

end Sys2Proof.Machine
end

