-- ==== Sys2Proof/Safety.lean ====
section
/-! DEFINITION. What counts as safe, and the terms in which the claims are stated: a step that goes on, the canonical form of
the byte memories, the state after a lane or uniform instruction given what it does to each lane or to the group, and the
parts of the machine that an instruction leaves as they are. -/

namespace Sys2Proof

open Sys2Proof.Machine

/-! ### Steps and memories -/

/-- The memories of a lane: its private slice and its registers (R119). -/
def laneWf (l : Machine.Lane) : Bool := Memory.wf l.priv && cwf (0 : Word) l.regs

/-- The memories of a group's lanes. -/
def groupWf (g : Machine.Group) : Bool := g.lanes.all laneWf

/-- The memories of a block: its core scratch, and its groups' (R119, R120). -/
def blockWf (b : Machine.Block) : Bool := Memory.wf b.scratch && b.groups.all groupWf

/-- The byte memories of blocks and clusters that a context's save image holds (R361). -/
def savedWf (v : Machine.Saved) : Bool :=
  v.blocks.all blockWf && v.resume.all blockWf && v.clusters.all fun c => Memory.wf c.mem

/-- The byte memories that a partition holds beside its resident blocks: parked blocks, and saved contexts. -/
def partWf (q : Machine.Part) : Bool := q.resume.all blockWf && q.ctxs.all fun c => (c.2.saved.map savedWf).getD true

/-- Every byte memory of the module is in its canonical form: DRAM, the die scratchpads, the pool, host memory, the management
window's staging area, every block's core scratch, every lane's private slice, every cluster's memory, and what is left of ended ones. -/
def memWf (s : Machine.State) : Bool :=
  Memory.wf s.dram && Memory.wf s.dsp && Memory.wf s.pool && Memory.wf s.hostMem && Memory.wf s.mgmt.stage &&
    s.blocks.all blockWf && (s.clusters.all fun c => Memory.wf c.mem) && (s.shades.all fun h => Memory.wf h.mem) &&
    s.parts.all fun q => partWf q.2

/-- A step goes on: it neither faults nor refuses. -/
def goesOn (s : Machine.State) : Prop := ∃ t, Machine.step s = .next t

/-- A step does not refuse. -/
def neverRefuses (s : Machine.State) : Prop := ∀ r, Machine.step s ≠ .refused r

namespace Claims

/-! ### Immediates and saturation -/

/-- R176: an immediate of `n` bits, with the 23 bits of the IMM word above it when there is one, read signed. -/
def simm {n : Nat} (e : Option (BitVec 23)) (imm : BitVec n) : Int :=
  match e with
  | some k => (k ++ imm).toInt
  | none => imm.toInt

/-- R176: the same, read unsigned. -/
def nimm {n : Nat} (e : Option (BitVec 23)) (imm : BitVec n) : Nat :=
  match e with
  | some k => (k ++ imm).toNat
  | none => imm.toNat

/-- R147: SAT to s32 when the instruction carries `.sat`, then the low 32 bits. -/
def sat32 (x : LExt) (v : Int) : Word :=
  BitVec.ofInt 32 (if satOf x then max (-2147483648) (min 2147483647 v) else v)

/-! ### The state after an instruction -/

/-- The state with the issuing group changed, and nothing else. -/
def withGroup (s : State) (p : Path) (f : Group → Group) : State :=
  { s with blocks := s.blocks.map fun b =>
      if b.id = p.iss.blk then { b with groups := b.groups.modify p.iss.grp f } else b }

/-- The group with the lanes of the path changed, and nothing else. -/
def withLanes (p : Path) (f : Nat → Lane → Lane) (g : Group) : Group :=
  { g with lanes := g.lanes.mapIdx fun n l => if n ∈ p.lanes then f n l else l }

/-- The lane goes to an address, its ONCE bit cleared (R190, R352), and keeps nothing that its instruction has read (R274). -/
def goTo (l : Lane) (pc : DWord) : Lane := { l with npc := pc, once := false, seen := none }

/-- R396, R415: path `p` issues in `s`, and every executing lane passes the checks on lane instruction `i`: its registers lie
below the group's budget, and none that it reads is poisoned. -/
structure Runs (s : State) (p : Path) (i : Instr) (x : LExt) : Prop where
  path : pathOf s = some p
  budget : inBudget i p.g = true
  clean : ∀ n ∈ p.exec x, poisonedReg s p i n = none

/-- The state after a lane instruction that acts on its own lanes: every lane of the path goes to NEXT; an executing lane
`n` becomes `f n l m`, from the lane `l` before the instruction and that lane `m` at NEXT; registers written whole are
poisoned no more; nothing else changes. -/
def laneNext (s : State) (p : Path) (i : Instr) (x : LExt) (f : Nat → Lane → Lane → Lane) : State :=
  { withGroup s p (withLanes p fun n _ =>
      let l := p.g.lane n
      if guardHolds x l then f n l (goTo l p.iss.next) else goTo l p.iss.next) with
    poison := s.poison.filter fun u => match u.1 with
      | .reg b g l n => !(b == p.iss.blk && g == p.iss.grp && (p.exec x).contains l && (writtenRegs i).contains n)
      | _ => true }

/-- A lane instruction has the effect `f` on each executing lane, and no other effect. -/
def Own (mk : LExt → Instr) (f : LExt → Path → Nat → Lane → Lane → Lane) : Prop :=
  ∀ x s p, Runs s p (mk x) x → exec (mk x) s = .next (laneNext s p (mk x) x (f x p))

/-- d ← a word of the path, the lane's number and the lane. -/
def Word0 (mk : BitVec 7 → LExt → Instr) (v : LExt → Path → Nat → Lane → Word) : Prop :=
  ∀ d, Own (mk d) fun x p n l m => m.dst32 d (v x p n l)

/-- d ← a word of source a. -/
def Word1 (mk : BitVec 7 → BitVec 7 → LExt → Instr) (v : LExt → Word → Word) : Prop :=
  ∀ d a, Own (mk d a) fun x p _ l m => m.dst32 d (v x (src32 p.g l a))

/-- d ← a word of sources a and b. -/
def Word2 (mk : BitVec 7 → BitVec 7 → BitVec 7 → LExt → Instr) (v : LExt → Word → Word → Word) : Prop :=
  ∀ d a b, Own (mk d a b) fun x p _ l m => m.dst32 d (v x (src32 p.g l a) (src32 p.g l b))

/-- d ← a word of sources a, b and d. -/
def Word3 (mk : BitVec 7 → BitVec 7 → BitVec 7 → LExt → Instr) (v : LExt → Word → Word → Word → Word) : Prop :=
  ∀ d a b, Own (mk d a b) fun x p _ l m => m.dst32 d (v x (src32 p.g l a) (src32 p.g l b) (src32 p.g l d))

/-- d pair ← a double word of sources a and b, each of 32 bits. -/
def Pair2 (mk : BitVec 7 → BitVec 7 → BitVec 7 → LExt → Instr) (v : Word → Word → DWord) : Prop :=
  ∀ d a b, Own (mk d a b) fun _ p _ l m => m.dst64 d (v (src32 p.g l a) (src32 p.g l b))

/-- PWR of a truth value of sources a and b. -/
def Pred2 (mk : BitVec 5 → BitVec 2 → BitVec 7 → BitVec 7 → LExt → Instr) (t : Word → Word → Bool) : Prop :=
  ∀ pd comb a b, Own (mk pd comb a b) fun _ p _ l m => m.pwr pd comb (t (src32 p.g l a) (src32 p.g l b))

/-- The participating lanes of a `lanex` instruction (R219). -/
def party (p : Path) (x : LExt) : List Nat := p.exec x

/-- The sum of 2^j over some lanes. -/
def laneSum (ls : List Nat) : Word := BitVec.ofNat 32 ((ls.map fun j => 2 ^ j).sum)

/-- Path `p` issues in `s`, and the guard of the uniform instruction holds. -/
structure URuns (s : State) (p : Path) (x : UExt) : Prop where
  path : pathOf s = some p
  guard : uguardHolds x p.g = true

/-- The state with the live lanes of the path at an address and free of holds, and the group's own registers changed by `f`. -/
def uniNext (s : State) (p : Path) (pc : DWord) (f : Group → Group) : State :=
  withGroup s p fun g => withLanes p (fun _ l => if l.live then { goTo l pc with hold := .none } else l) (f g)

/-- A uniform instruction changes the group's own registers by `f` and goes to NEXT. -/
def UOwn (mk : UExt → Instr) (f : UExt → Group → Group) : Prop :=
  ∀ x s p, URuns s p x → exec (mk x) s = .next (uniNext s p p.iss.next (f x))

/-- d ← a double word of uniform registers a and b. -/
def UWord2 (mk : BitVec 6 → BitVec 6 → BitVec 6 → UExt → Instr) (v : DWord → DWord → DWord) : Prop :=
  ∀ d a b, UOwn (mk d a b) fun _ g => g.udst d.toNat (v (g.usrc a.toNat) (g.usrc b.toNat))

/-- q ← a truth value of uniform registers a and b. -/
def UPred2 (mk : BitVec 3 → BitVec 6 → BitVec 6 → UExt → Instr) (t : DWord → DWord → Bool) : Prop :=
  ∀ q a b, UOwn (mk q a b) fun _ g => g.qwr q.toNat (t (g.usrc a.toNat) (g.usrc b.toNat))

/-- The state with the live lanes of the path at NEXT and nothing else changed but their holds. -/
def atNext (s : State) (p : Path) : State := uniNext s p p.iss.next id

/-- The lanes of the path free of holds, at their instruction. -/
def freed (s : State) (p : Path) : State :=
  withGroup s p (withLanes p fun _ l => { l with hold := .none, once := false, seen := none })

/-- The lanes of the path held at their instruction; where it is to execute again, it keeps the uniform registers and predicates that it
has read (R274). -/
def held (s : State) (p : Path) (h : Hold) : State :=
  withGroup s p (withLanes p fun _ l =>
    { l with
      hold := h
      once := false
      seen := match h with
        | .retry _ => some (p.g.ureg, p.g.upred)
        | _ => none })

/-- The group stops with some trap records, after those of a stop that it is in; at most 32 are kept, but reports of commands' faults
and, once the stop image is written, all of them wait for the next stop (R341, R375, R376). -/
def stopIn (s : State) (p : Path) (rs : List TrapRec) : State :=
  withGroup s p fun g => { g with stop := some (match g.stop with
    | some st =>
      if st.slot.isSome then { st with more := st.more ++ rs }
      else
        { st with
          recs := (st.recs ++ rs).take 32
          more := st.more ++ ((st.recs ++ rs).drop 32).filter fun r => r.cmd.isSome }
    | none => { recs := rs.take 32 }) }

/-- A record of a trap for the group: cause, TRAP_ADDR, TRAP_INFO, source G, the lowest live lane of the path, and where that
lane resumes (R344, Table 19-1). -/
def GroupRec (p : Path) (r : TrapRec) (cause : Nat) (addr info npc : DWord) : Prop :=
  r.cause = cause ∧ r.addr = addr ∧ r.info = info ∧ r.src = 1 ∧ r.lane = p.lead ∧ r.grp = p.iss.grp ∧ r.npc = npc

/-- The state after a lane instruction that acts on memory: lanes of the path go to NEXT, executing lanes changed by `f`. -/
def memNext (s : State) (p : Path) (x : LExt) (f : Nat → Lane → Lane) : State :=
  withGroup s p (withLanes p fun n l =>
    if guardHolds x (p.g.lane n) then f n (goTo l p.iss.next) else goTo l p.iss.next)

/-- An operation joins a list of counted operations (R271). -/
def oneMore (c : CountList) : CountList := { c with issued := c.issued + 1, pend := c.pend ++ [c.issued] }

/-- The same, of an access of some lanes, whose word is a global-space load's or an atomic's or not (R36, R40). -/
def oneMoreOf (c : CountList) (m : BitVec 32) (w : Word) : CountList :=
  { oneMore c with lanes := c.lanes ++ [(c.issued, m)], far := if farWord w then c.far ++ [c.issued] else c.far }

/-- The group's list of loads, or of stores, is one longer by an access of the executing lanes. -/
def counted (store : Bool) (s : State) (p : Path) (x : LExt) : State :=
  let m := lanesMask (p.exec x)
  let w := p.iss.word
  withGroup s p fun g => if store then { g with stores := oneMoreOf g.stores m w } else { g with loads := oneMoreOf g.loads m w }

/-- Table 6-2: the entry that joins a list next is marked as one of system-class memory when its place is in the pool or a host-visible
window. -/
def sysMark (pl : Place) (c : CountList) : CountList :=
  if pl.sysClass = true ∧ c.issued ∉ c.sys then { c with sys := c.sys ++ [c.issued] } else c

/-- The same for the loads of the issuing group. -/
def sysNoted (s : State) (p : Path) (pl : Place) : State := withGroup s p fun g => { g with loads := sysMark pl g.loads }

/-- Lane registers written whole by lane `n` are poisoned no more (R415). -/
def cleaned (s : State) (p : Path) (i : Instr) (n : Nat) : State :=
  { s with poison := s.poison.filter fun u => match u.1 with
      | .reg b g l r => !(b == p.iss.blk && g == p.iss.grp && l == n && (writtenRegs i).contains r)
      | _ => true }

/-- No granule of a lane-private slice of the issuing group is poisoned. -/
def slicesClean (s : State) (p : Path) : Prop :=
  ∀ u ∈ s.poison, ∀ l k, u.1 ≠ .priv p.iss.blk p.iss.grp l k

/-- Bytes of an access by its size code (Table 12-2). -/
def accessBytes (size : BitVec 3) : Nat := [1, 2, 4, 8, 16, 1, 2, 0].getD size.toNat 0

/-- The register bits of `k` bytes. -/
def regBits (k : Nat) : Nat := if k ≤ 4 then 32 else 8 * k

/-- What a load writes for the number that its bytes hold (Table 12-2). -/
def loaded (size : BitVec 3) (v : Nat) : Nat :=
  if size = 5 then ((BitVec.ofNat 8 v).signExtend 32).toNat
  else if size = 6 then ((BitVec.ofNat 16 v).signExtend 32).toNat else v

/-- R254: the global address of a lane's access. -/
def globalAt (x : LExt) (p : Path) (l : Lane) (a : BitVec 7) (off : BitVec 6) (size : BitVec 3) : Target :=
  .global (src64 p.g l a + BitVec.ofInt 64 (simm x.imm off * accessBytes size))

/-- R254: the local offset of a lane's access. -/
def localAt (x : LExt) (p : Path) (l : Lane) (a : BitVec 7) (off : BitVec 6) (hs : BitVec 2) (size : BitVec 3) : Target :=
  .loc hs.toNat (src32 p.g l a + BitVec.ofInt 32 (simm x.imm off * accessBytes size)).toNat

/-- The number that the bytes at a place hold, little-endian, as lane `n` reads them (R4). -/
def valueAt (s : State) (p : Path) (n : Nat) (pl : Place) (k : Nat) : Nat :=
  ((List.range k).map fun j => ((pl.shift j).byte s p.b.core (drawOf s n 0 + j)).toNat * 256 ^ j).sum

/-- R145, Note 1 (log 135): what the access of lane `n` finds: its thread's commands have read their sources before. -/
def sealed (s : State) (p : Path) (n : Nat) : State := sealSources s p.iss.blk [(p.g.lane n).tid]

/-- R262: an atomic of `w` bytes: memory gets `f old operand-lane` when that is a value, and d gets the old value. -/
def AtomIs (mk : BitVec 7 → BitVec 7 → BitVec 7 → LExt → Instr) (w : Nat) (f : Group → Lane → BitVec 7 → Nat → Option Nat) :
    Prop :=
  ∀ d a b x s p n s1 pl, Runs s p (mk d a b x) x → p.exec x = [n] →
    checkAccess s p.b p.iss.grp n .rmw (atomTarget x p.g (p.g.lane n) a) w = (s1, .ok pl) →
    (∀ pa, pl = .phys pa → paClass pa = 0) → (∀ bl g r o, pl ≠ .window bl g r o) →
    let s2 := sealed s1 p n
    let old := valueAt s2 p n pl w
    let s2 := match f p.g (p.g.lane n) b old with
      | some v => coverPlace (writePlace s2 pl (leBytes w v)) pl w
      | none => s2
    exec (mk d a b x) s = .next (counted false (cleaned (memNext s2 p x fun _ l => l.dstBits d (regBits w) old) p
      (mk d a b x) n) p x)

/-- R215: the position of the bit field that a control word names. -/
def fieldPos (c : Word) : Nat := (c.extractLsb' 0 5).toNat

/-- R215: its length. -/
def fieldLen (c : Word) : Nat := min (c.extractLsb' 8 6).toNat (32 - fieldPos c)

/-! ### Lane exchange -/

/-- R220: a shuffle: the lane gets a of source lane `j n c` when that takes part, else its own. -/
def Shuffles (mk : BitVec 7 → BitVec 7 → BitVec 7 → LExt → Instr) (j : Nat → Word → Int) : Prop :=
  ∀ d a b, Own (mk d a b) fun x p n l m =>
    let k := j n (src32 p.g l b)
    m.dst32 d (if 0 ≤ k ∧ k.toNat ∈ party p x then src32 p.g (p.g.lane k.toNat) a else src32 p.g l a)

/-- R222: a reduction: every participating lane gets the same word of the participating lanes' sources. -/
def Reduces (mk : BitVec 7 → BitVec 7 → LExt → Instr) (f : List Word → Word) : Prop :=
  ∀ a, Word0 (fun d => mk d a) fun x p _ _ => f ((party p x).map fun j => src32 p.g (p.g.lane j) a)

/-! ### Floating instructions -/

/-- FIN of R189: the value of a code of a format under the instruction's `.ftz`. -/
def fin (f : Fl) (x : LExt) (code : Nat) : Val := f.decode (ftzOf x) code

/-- ROUND of R189: a value rounded once to a format in the instruction's mode, flushed under `.ftz`. -/
def rnd (f : Fl) (x : LExt) (rm : RMode) (v : Val) : Nat := f.round rm (ftzOf x) false v

/-- R154: the exact sum, an exact zero of addends that are not zeros of one sign being −0 in mode RD alone. -/
def plus (rm : RMode) (u v : Val) : Val := u.add (rm.code == 3) v

/-- d ← the code of an f32 operation on the codes of a, b and d. -/
def Float3 (mk : BitVec 7 → BitVec 7 → BitVec 7 → LExt → Instr) (v : LExt → RMode → Nat → Nat → Nat → Nat) : Prop :=
  ∀ d a b, Own (mk d a b) fun x p _ l m => m.dst32 d (BitVec.ofNat 32
    (v x (rmode x p.g l) (src32 p.g l a).toNat (src32 p.g l b).toNat (l.reg d.toNat).toNat))

/-- R153: the packed form: element 0 in bits 15:0, element 1 in bits 31:16, each an operation of its own. -/
def Packed3 (mk : BitVec 7 → BitVec 7 → BitVec 7 → LExt → Instr) (v : LExt → RMode → Nat → Nat → Nat → Nat) : Prop :=
  ∀ d a b, Own (mk d a b) fun x p _ l m =>
    let e := fun k => v x (rmode x p.g l) ((src32 p.g l a).extractLsb' (16 * k) 16).toNat
      ((src32 p.g l b).extractLsb' (16 * k) 16).toNat ((l.reg d.toNat).extractLsb' (16 * k) 16).toNat
    m.dst32 d (BitVec.ofNat 16 (e 1) ++ BitVec.ofNat 16 (e 0))

/-- d pair ← the code of an f64 operation on the codes of the pairs a, b and d. -/
def Double3 (mk : BitVec 7 → BitVec 7 → BitVec 7 → LExt → Instr) (v : RMode → Nat → Nat → Nat → Nat) : Prop :=
  ∀ d a b, Own (mk d a b) fun x p _ l m => m.dst64 d (BitVec.ofNat 64
    (v (rmode x p.g l) (src64 p.g l a).toNat (src64 p.g l b).toNat (src64 p.g l d).toNat))

/-- R238: the smaller of two codes' values with −0 < +0, or the larger, as the operand's own code; the canonical NaN if
either is one. -/
def pickCode (f : Fl) (x : LExt) (larger : Bool) (u v : Nat) : Nat :=
  let a := fin f x u
  let b := fin f x v
  if a.isNan || b.isNan then f.nan
  else rnd f x {} (if (b.lt a || (b.eqv a && b.sign && !a.sign)) == larger then a else b)

/-- PWR of a relation of the f32 values of a and b. -/
def FPred2 (mk : BitVec 5 → BitVec 2 → BitVec 7 → BitVec 7 → LExt → Instr) (t : Val → Val → Bool) : Prop :=
  ∀ pd comb a b, Own (mk pd comb a b) fun x p _ l m =>
    m.pwr pd comb (t (fin f32 x (src32 p.g l a).toNat) (fin f32 x (src32 p.g l b).toNat))

/-- Table 8-9: the bits of a value of a format code. -/
def fmtBits (code : BitVec 4) : Nat :=
  match code.toNat with
  | 3 | 8 | 9 => 64
  | 10 => 128
  | 1 | 2 | 11 | 12 => 16
  | 4 | 5 | 13 | 14 => 8
  | _ => 32

/-- Table 8-9: the floating format of a format code below 6. -/
def flFmt (code : BitVec 4) : Fl := [f32, f16, bf16, f64, e4m3, e5m2].getD code.toNat f32

/-- Table 8-9: an integer format code names a signed format. -/
def signedFmt (code : BitVec 4) : Bool := code = 6 || code = 8 || code = 11 || code = 13

/-- Table 7-1: the least and the greatest value of an integer format code. -/
def intRange (code : BitVec 4) : Int × Int :=
  if signedFmt code then (-(2 ^ (fmtBits code - 1)), 2 ^ (fmtBits code - 1) - 1) else (0, 2 ^ fmtBits code - 1)

/-- The value of an integer code of a format. -/
def intValue (code : BitVec 4) (c : Nat) : Int :=
  if signedFmt code && decide (2 ^ (fmtBits code - 1) ≤ c) then (c : Int) - 2 ^ fmtBits code else c

/-- R245, Table 11-3: the value that `cvt` writes, from a source code of the source's bits. -/
def cvtResult (x : LExt) (rm : RMode) (src tgt : BitVec 4) (c : Nat) : Int :=
  let v : Val :=
    if src.toNat ≤ 5 then (flFmt src).decode (ftzOf x && src.toNat ≤ 2) c
    else if src = 10 then .ofInt (if 2 ^ 127 ≤ c then (c : Int) - 2 ^ 128 else c) (-64)
    else .ofInt (intValue src c) 0
  if tgt.toNat ≤ 5 then ((flFmt tgt).round rm (ftzOf x && tgt.toNat ≤ 2) (satOf x && (tgt = 4 || tgt = 5)) v : Nat)
  else if tgt = 10 then v.toFx
  else if src.toNat ≤ 5 then v.toInt rm (intRange tgt).1 (intRange tgt).2
  else if satOf x then max (intRange tgt).1 (min (intRange tgt).2 (intValue src c)) else intValue src c

/-- R246: the register bits of a converted value: sign-extended from s16 and s8, zero-extended from the others. -/
def cvtBits (tgt : BitVec 4) (v : Int) : Nat :=
  if tgt = 11 || tgt = 13 then ((BitVec.ofInt (fmtBits tgt) v).signExtend 32).toNat else (BitVec.ofInt (fmtBits tgt) v).toNat

/-- R164, R165: the result of a dot product: addend c, products ps and their exact sum S. -/
def dotCode (x : LExt) (rm : RMode) (c : Val) (ps : List Val) (sum : Val) : Nat :=
  if ps.any Val.isNan || (ps.contains (.inf false) && ps.contains (.inf true)) then f32.nan
  else rnd f32 x rm (plus rm c
    (if ps.contains (.inf false) then .inf false else if ps.contains (.inf true) then .inf true else sum))

/-- R247: a floating dot product of `n` elements of a format, its exact products summed by `tree`. -/
def Dots (mk : BitVec 7 → BitVec 7 → BitVec 7 → LExt → Instr) (f : Fl) (n : Nat) (tree : (Nat → Val) → Val) : Prop :=
  ∀ d a b, Own (mk d a b) fun x p _ l m =>
    let e := fun (w : Word) t => f.decode false (w.extractLsb' (32 / n * t) (32 / n)).toNat
    let ps := fun t => (e (src32 p.g l a) t).mul (e (src32 p.g l b) t)
    m.dst32 d (BitVec.ofNat 32 (dotCode x (rmode x p.g l) (fin f32 x (l.reg d.toNat).toNat)
      ((List.range n).map ps) (tree ps)))

/-- R248: the decode of code `n` of a word under a scale operand: block scale in bits 39:32, super-scale in bits 31:0. -/
def cbCode (f : Fl) (w : Word) (sc : DWord) (n : Nat) : Nat :=
  cb4Decode f (w.extractLsb' (4 * n) 4).toNat (sc.extractLsb' 32 8).toNat (sc.extractLsb' 0 32).toNat

/-- R249: the random operand of a packing instruction. -/
def auxWord (x : LExt) (g : Group) (l : Lane) : Word :=
  match x.mod with
  | some k => src32 g l k.aux
  | none => 0

end Claims

end Sys2Proof
end

