-- ==== Sys2Proof/Certificates/Slice0/Obligations.lean ====
section
/-! DEFINITION. What is claimed of the model: the statements for the provers, from the numbered rules of spec/. -/

open Sys2Proof Sys2Proof.Machine Sys2Proof.Claims

/-! ### Integer lane instructions (chapter 10) -/

/-- R209: the fourteen `ialu` functions: d gets the value of Table 10-3, clamped to s32 in add, sub and abs with `.sat`;
a shift amount is the whole word. Every other register, lane, group and memory is as before. -/
def Obligations.IaluResults : Prop :=
  Word2 .ialuAdd (fun x u v => if satOf x then sat32 x (u.toInt + v.toInt) else u + v) ∧
  Word2 .ialuSub (fun x u v => if satOf x then sat32 x (u.toInt - v.toInt) else u - v) ∧
  Word2 .ialuAnd (fun _ u v => u &&& v) ∧
  Word2 .ialuOr (fun _ u v => u ||| v) ∧
  Word2 .ialuXor (fun _ u v => u ^^^ v) ∧
  Word2 .ialuAndn (fun _ u v => u &&& ~~~v) ∧
  Word2 .ialuShl (fun _ u v => if v.toNat < 32 then BitVec.ofNat 32 (u.toNat * 2 ^ v.toNat) else 0) ∧
  Word2 .ialuShr (fun _ u v => if v.toNat < 32 then BitVec.ofNat 32 (u.toNat / 2 ^ v.toNat) else 0) ∧
  Word2 .ialuSar (fun _ u v => if v.toNat < 32 then BitVec.ofInt 32 (u.toInt / 2 ^ v.toNat)
    else if u.toInt < 0 then BitVec.ofInt 32 (-1) else 0) ∧
  Word2 .ialuMins (fun _ u v => BitVec.ofInt 32 (min u.toInt v.toInt)) ∧
  Word2 .ialuMaxs (fun _ u v => BitVec.ofInt 32 (max u.toInt v.toInt)) ∧
  Word2 .ialuMinn (fun _ u v => BitVec.ofNat 32 (min u.toNat v.toNat)) ∧
  Word2 .ialuMaxn (fun _ u v => BitVec.ofNat 32 (max u.toNat v.toNat)) ∧
  Word1 .ialuAbs (fun x u => sat32 x |u.toInt|)

/-- R210, R211, R212: the immediate forms; an IMM word gives the immediate 23 more bits. -/
def Obligations.ImmediateResults : Prop :=
  (∀ imm, Word1 (fun d a => .iaddi d a imm) fun x u => sat32 x (u.toInt + simm x.imm imm)) ∧
  (∀ imm, Word1 (fun d a => .andi d a imm) fun x u => u &&& BitVec.ofInt 32 (simm x.imm imm)) ∧
  (∀ imm, Word1 (fun d a => .ori d a imm) fun x u => u ||| BitVec.ofInt 32 (simm x.imm imm)) ∧
  (∀ imm, Word1 (fun d a => .xori d a imm) fun x u => u ^^^ BitVec.ofInt 32 (simm x.imm imm)) ∧
  (∀ n, Word1 (fun d a => .ishiShl d a n) fun _ u => u <<< n) ∧
  (∀ n, Word1 (fun d a => .ishiShr d a n) fun _ u => u >>> n) ∧
  (∀ n, Word1 (fun d a => .ishiSar d a n) fun _ u => BitVec.ofInt 32 (u.toInt / 2 ^ n.toNat)) ∧
  (∀ n, Word1 (fun d a => .ishiRol d a n) fun _ u => u <<< n.toNat ||| u >>> (32 - n.toNat)) ∧
  (∀ imm, Word0 (fun d => .movi d imm) fun x _ _ _ => BitVec.ofInt 32 (simm x.imm imm)) ∧
  (∀ imm, Word0 (fun d => .movhi d imm) fun x _ _ _ => BitVec.ofNat 32 (nimm x.imm imm * 2 ^ 14))

/-- R213: the six multiplications. -/
def Sys2Proof.Claims.MultiplyResults : Prop :=
  Word2 .imulLo (fun x u v => if satOf x then sat32 x (u.toInt * v.toInt) else u * v) ∧
  Word2 .imulHis (fun _ u v => (u.signExtend 64 * v.signExtend 64).extractLsb' 32 32) ∧
  Word2 .imulHin (fun _ u v => (u.setWidth 64 * v.setWidth 64).extractLsb' 32 32) ∧
  Pair2 .imulWides (fun u v => u.signExtend 64 * v.signExtend 64) ∧
  Pair2 .imulWiden (fun u v => u.setWidth 64 * v.setWidth 64) ∧
  Word3 .imulMad (fun x u v z => if satOf x then sat32 x (u.toInt * v.toInt + z.toInt) else u * v + z)

/-- R214, R215: bit counts, reversal and bit fields. -/
def Sys2Proof.Claims.BitResults : Prop :=
  Word1 .ibitPopc (fun _ u => BitVec.ofNat 32 ((List.range 32).countP fun k => u.getLsbD k)) ∧
  Word1 .ibitClz (fun _ u => BitVec.ofNat 32 ((List.range 32).reverse.takeWhile fun k => !u.getLsbD k).length) ∧
  Word1 .ibitCtz (fun _ u => BitVec.ofNat 32 ((List.range 32).takeWhile fun k => !u.getLsbD k).length) ∧
  Word1 .ibitBrev (fun _ u => u.reverse) ∧
  Word2 .ibitBfxs (fun _ u c => (u.extractLsb' (fieldPos c) (fieldLen c)).signExtend 32) ∧
  Word2 .ibitBfxn (fun _ u c => (u.extractLsb' (fieldPos c) (fieldLen c)).setWidth 32) ∧
  Word3 .ibitBfi (fun _ u c w =>
    let mask := (BitVec.allOnes (fieldLen c)).setWidth 32 <<< fieldPos c
    (w &&& ~~~mask) ||| (u <<< fieldPos c &&& mask))

/-- R213 to R215: the six multiplications; bit counts, reversal and bit fields. -/
def Obligations.MultiplyBitResults : Prop := MultiplyResults ∧ BitResults

/-- R216: the ten integer compares: PWR of the relation, signed or unsigned. -/
def Obligations.CompareResults : Prop :=
  Pred2 .icmpEq (fun u v => u == v) ∧ Pred2 .icmpNe (fun u v => u != v) ∧
  Pred2 .icmpLts (fun u v => u.slt v) ∧ Pred2 .icmpLes (fun u v => u.sle v) ∧
  Pred2 .icmpGts (fun u v => v.slt u) ∧ Pred2 .icmpGes (fun u v => v.sle u) ∧
  Pred2 .icmpLtn (fun u v => u.ult v) ∧ Pred2 .icmpLen (fun u v => u.ule v) ∧
  Pred2 .icmpGtn (fun u v => v.ult u) ∧ Pred2 .icmpGen (fun u v => v.ule u) ∧
  ∀ (m : Lane) comb t, m.pwr 31 comb t = m

/-- R217, R218: predicate logic, the conditional moves, and the reading and writing of all 24 predicates. -/
def Obligations.PredicateResults : Prop :=
  (∀ pd comb a b, Own (.plogAnd pd comb a b) fun _ _ _ l m => m.pwr pd comb (l.prd a && l.prd b)) ∧
  (∀ pd comb a b, Own (.plogOr pd comb a b) fun _ _ _ l m => m.pwr pd comb (l.prd a || l.prd b)) ∧
  (∀ pd comb a b, Own (.plogXor pd comb a b) fun _ _ _ l m => m.pwr pd comb (l.prd a != l.prd b)) ∧
  (∀ pd comb a b, Own (.plogAndn pd comb a b) fun _ _ _ l m => m.pwr pd comb (l.prd a && !l.prd b)) ∧
  (∀ pd comb a b, Own (.plogOrn pd comb a b) fun _ _ _ l m => m.pwr pd comb (l.prd a || !l.prd b)) ∧
  (∀ d a b, Own (.cmovNz d a b) fun _ p _ l m => if src32 p.g l b = 0 then m else m.dst32 d (src32 p.g l a)) ∧
  (∀ d a b, Own (.cmovZ d a b) fun _ p _ l m => if src32 p.g l b = 0 then m.dst32 d (src32 p.g l a) else m) ∧
  Word0 .cmovRdp (fun _ _ _ l => 0#8 ++ l.preds) ∧
  (∀ a b, Own (.cmovWrp a b) fun _ p _ l m =>
    let w := (src32 p.g l a).extractLsb' 0 24
    let k := (src32 p.g l b).extractLsb' 0 24
    { m with preds := (w &&& k) ||| (l.preds &&& ~~~k) })

/-- R219 to R223: the lane exchanges, among the live lanes of the path whose guard holds; `lanex.npath` gives the paths that the group
had in the cycle in which it issues, which `StepRunsDecoded` says are its native PCs. -/
def Obligations.ExchangeResults : Prop :=
  Shuffles .lanexShfl (fun _ c => c.toNat % 32) ∧
  Shuffles .lanexShflx (fun n c => (n ^^^ c.toNat % 32 : Nat)) ∧
  Shuffles .lanexShflup (fun n c => (n : Int) - c.toNat) ∧
  Shuffles .lanexShfldn (fun n c => (n : Int) + c.toNat) ∧
  (∀ q, Word0 (fun d => .lanexBallot d q) fun x p _ _ => laneSum ((party p x).filter fun j => (p.g.lane j).prd q)) ∧
  (∀ q, Word0 (fun d => .lanexAny d q) fun x p _ _ => if ∃ j ∈ party p x, (p.g.lane j).prd q = true then 1 else 0) ∧
  (∀ q, Word0 (fun d => .lanexAll d q) fun x p _ _ => if ∀ j ∈ party p x, (p.g.lane j).prd q = true then 1 else 0) ∧
  (∀ a, Word0 (fun d => .lanexMatch d a) fun x p _ l =>
    laneSum ((party p x).filter fun j => src32 p.g (p.g.lane j) a = src32 p.g l a)) ∧
  Reduces .lanexRedadd (fun vs => vs.foldl (· + ·) 0) ∧
  Reduces .lanexRedmins (fun vs => BitVec.ofInt 32 ((vs.map BitVec.toInt).foldl min 2147483647)) ∧
  Reduces .lanexRedmaxs (fun vs => BitVec.ofInt 32 ((vs.map BitVec.toInt).foldl max (-2147483648))) ∧
  Reduces .lanexRedand (fun vs => vs.foldl (· &&& ·) (BitVec.allOnes 32)) ∧
  Reduces .lanexRedor (fun vs => vs.foldl (· ||| ·) 0) ∧
  Reduces .lanexRedxor (fun vs => vs.foldl (· ^^^ ·) 0) ∧
  Word0 .lanexNpath (fun _ p _ _ => BitVec.ofNat 32 p.iss.paths)

/-- R207, R208, R231, R232, R264: what a lane reads of itself and its place, its guest state, and the lane instructions
without an effect on architectural state. -/
def Sys2Proof.Claims.LaneValueResults : Prop :=
  Own .lsysNop (fun _ _ _ _ m => m) ∧
  Word0 .lsysLane (fun _ _ n _ => BitVec.ofNat 32 n) ∧
  Word0 .lsysTid (fun _ _ _ l => 0#16 ++ l.tid) ∧
  (∀ d x s p, Runs s p (.lsysClk d x) x → exec (.lsysClk d x) s =
    .next (laneNext s p (.lsysClk d x) x fun _ _ m => m.dst64 d (BitVec.ofNat 64 s.clk))) ∧
  (∀ x s p, Runs s p (.ctlYield x) x → ∃ t, exec (.ctlYield x) s = .next t ∧
    { t with cores := s.cores } = laneNext s p (.ctlYield x) x (fun _ _ m => m) ∧
    coreOf t p.b.core = { coreOf s p.b.core with
      yields := ((coreOf s p.b.core).yields.filter fun y => !(y.blk == p.iss.blk && y.grp == p.iss.grp)) ++
        [{ sub := p.g.sub, blk := p.iss.blk, grp := p.iss.grp, cycle := s.clk }] }) ∧
  (∀ a size hs off, Own (.pref a size hs off) fun _ _ _ _ m => m) ∧
  (∀ d, Own (.guestRdpc d) fun _ _ _ l m => m.dst64 d l.gpc) ∧
  (∀ a, Own (.guestWrpc a) fun _ p _ l m => { m with gpc := src64 p.g l a }) ∧
  (∀ a, Own (.guestAddpc a) fun _ p _ l m =>
    { m with gpc := BitVec.ofInt 64 (l.gpc.toNat + (src32 p.g l a).toInt) }) ∧
  Word0 .guestRdop (fun _ _ _ l => 0#24 ++ l.gop) ∧
  (∀ a, Own (.guestWrop a) fun _ p _ l m => { m with gop := (src32 p.g l a).extractLsb' 0 8 })

/-- R208: `lsys.grp`: group, block, cluster, group count and core; a block from a phase or child record reads 0, 0, 0, 1. -/
def Sys2Proof.Claims.PlaceResults : Prop :=
  ∀ sel : BitVec 7, sel.toNat ≤ 4 → Word0 (fun d => .lsysGrp d sel) fun _ p _ _ => BitVec.ofNat 32 (
    if sel = 4 then p.b.core
    else match p.b.origin with
      | .phase | .child _ _ => if sel = 3 then 1 else 0
      | _ => if sel = 0 then p.iss.grp else if sel = 1 then p.b.bnum else if sel = 2 then p.b.cnum else p.b.groups.length)

/-- R207, R208, R231, R232, R264: what a lane reads of itself and its place, and `lsys.grp`. -/
def Obligations.LanePlaceResults : Prop := LaneValueResults ∧ PlaceResults

/-! ### Floating lane instructions (chapter 11) -/

/-- R238, R239, R240, R241: sums, products and fused products of f32 and of packed f16 and bf16: one rounding of the exact
value; min and max; the sign operations. -/
def Sys2Proof.Claims.FloatResults : Prop :=
  Float3 .faddAdd (fun x rm u v _ => rnd f32 x rm (plus rm (fin f32 x u) (fin f32 x v))) ∧
  Float3 .faddSub (fun x rm u v _ => rnd f32 x rm (plus rm (fin f32 x u) (fin f32 x v).neg)) ∧
  Float3 .faddMin (fun x _ u v _ => pickCode f32 x false u v) ∧
  Float3 .faddMax (fun x _ u v _ => pickCode f32 x true u v) ∧
  Packed3 .faddAdd2h (fun x rm u v _ => rnd f16 x rm (plus rm (fin f16 x u) (fin f16 x v))) ∧
  Packed3 .faddSub2h (fun x rm u v _ => rnd f16 x rm (plus rm (fin f16 x u) (fin f16 x v).neg)) ∧
  Packed3 .faddAdd2b (fun x rm u v _ => rnd bf16 x rm (plus rm (fin bf16 x u) (fin bf16 x v))) ∧
  Packed3 .faddSub2b (fun x rm u v _ => rnd bf16 x rm (plus rm (fin bf16 x u) (fin bf16 x v).neg)) ∧
  Word1 .faddAbs (fun _ u => 0#1 ++ u.extractLsb' 0 31) ∧
  Word1 .faddNeg (fun _ u => ~~~(u.extractLsb' 31 1) ++ u.extractLsb' 0 31) ∧
  Word2 .faddCsgn (fun _ u v => v.extractLsb' 31 1 ++ u.extractLsb' 0 31) ∧
  Float3 .fmulMul (fun x rm u v _ => rnd f32 x rm ((fin f32 x u).mul (fin f32 x v))) ∧
  Packed3 .fmulMul2h (fun x rm u v _ => rnd f16 x rm ((fin f16 x u).mul (fin f16 x v))) ∧
  Packed3 .fmulMul2b (fun x rm u v _ => rnd bf16 x rm ((fin bf16 x u).mul (fin bf16 x v))) ∧
  Float3 .ffmaFma (fun x rm u v z => rnd f32 x rm (plus rm ((fin f32 x u).mul (fin f32 x v)) (fin f32 x z))) ∧
  Packed3 .ffmaFma2h (fun x rm u v z => rnd f16 x rm (plus rm ((fin f16 x u).mul (fin f16 x v)) (fin f16 x z))) ∧
  Packed3 .ffmaFma2b (fun x rm u v z => rnd bf16 x rm (plus rm ((fin bf16 x u).mul (fin bf16 x v)) (fin bf16 x z))) ∧
  Float3 .ffmaFms (fun x rm u v z => rnd f32 x rm (plus rm ((fin f32 x u).mul (fin f32 x v)) (fin f32 x z).neg)) ∧
  Float3 .ffmaFnma (fun x rm u v z => rnd f32 x rm (plus rm ((fin f32 x u).mul (fin f32 x v)).neg (fin f32 x z)))

/-- R243: the eight f32 compares. -/
def Obligations.FloatCompareResults : Prop :=
  FPred2 .fcmpEq (fun u v => !u.isNan && !v.isNan && u.eqv v) ∧
  FPred2 .fcmpNe (fun u v => u.isNan || v.isNan || !u.eqv v) ∧
  FPred2 .fcmpLt (fun u v => !u.isNan && !v.isNan && u.lt v) ∧
  FPred2 .fcmpLe (fun u v => !u.isNan && !v.isNan && (u.lt v || u.eqv v)) ∧
  FPred2 .fcmpGt (fun u v => !u.isNan && !v.isNan && v.lt u) ∧
  FPred2 .fcmpGe (fun u v => !u.isNan && !v.isNan && (v.lt u || v.eqv u)) ∧
  FPred2 .fcmpUn (fun u v => u.isNan || v.isNan) ∧
  FPred2 .fcmpOrd (fun u v => !(u.isNan || v.isNan)) ∧
  (∀ ftz, (f32.decode ftz 0x80000000).eqv (f32.decode ftz 0) = true) ∧
  ∀ (m : Lane) comb t, m.pwr 31 comb t = m

/-- R242: the special functions write f32 results of their source; other registers and lanes are as before. The values at the
edges are stated by `SpecialEdges`. -/
def Sys2Proof.Claims.SpecialResults : Prop :=
  ∀ e : (BitVec 7 → BitVec 7 → LExt → Instr) × Spec,
    e ∈ [(Instr.fspecRcp, Spec.rcp), (.fspecRsqrt, .rsqrt), (.fspecSqrt, .sqrt), (.fspecExp2, .exp2), (.fspecLog2, .log2),
      (.fspecSin, .sin), (.fspecCos, .cos), (.fspecTanh, .tanh)] →
    ∀ d a, Own (e.1 d a) fun x p _ l m =>
      m.dst32 d (BitVec.ofNat 32 (e.2.eval (rmode x p.g l) (ftzOf x) (src32 p.g l a).toNat))

/-- Table 7-5: the special functions at −∞, −0, +0, +∞ and at a NaN, in every rounding mode, with `.ftz` or not. -/
def Sys2Proof.Claims.SpecialEdges : Prop :=
  ∀ (rm : RMode) (ftz : Bool),
    [0xFF800000, 0x80000000, 0, 0x7F800000].map (Spec.rcp.eval rm ftz) = [0x80000000, 0xFF800000, 0x7F800000, 0] ∧
    [0xFF800000, 0x80000000, 0, 0x7F800000].map (Spec.rsqrt.eval rm ftz) = [0x7FC00000, 0xFF800000, 0x7F800000, 0] ∧
    [0xFF800000, 0x80000000, 0, 0x7F800000].map (Spec.sqrt.eval rm ftz) = [0x7FC00000, 0x80000000, 0, 0x7F800000] ∧
    [0xFF800000, 0x80000000, 0, 0x7F800000].map (Spec.exp2.eval rm ftz) = [0, 0x3F800000, 0x3F800000, 0x7F800000] ∧
    [0xFF800000, 0x80000000, 0, 0x7F800000].map (Spec.log2.eval rm ftz) = [0x7FC00000, 0xFF800000, 0xFF800000, 0x7F800000] ∧
    [0xFF800000, 0x80000000, 0, 0x7F800000].map (Spec.sin.eval rm ftz) = [0x7FC00000, 0x80000000, 0, 0x7FC00000] ∧
    [0xFF800000, 0x80000000, 0, 0x7F800000].map (Spec.cos.eval rm ftz) = [0x7FC00000, 0x3F800000, 0x3F800000, 0x7FC00000] ∧
    [0xFF800000, 0x80000000, 0, 0x7F800000].map (Spec.tanh.eval rm ftz) = [0xBF800000, 0x80000000, 0, 0x3F800000] ∧
    ∀ (f : Spec) (code : Nat), code < 2 ^ 32 → (f32.decode ftz code).isNan = true → f.eval rm ftz code = 0x7FC00000

/-- R242, Table 7-5: the special functions, and their values at the edges. -/
def Obligations.SpecialFunctionResults : Prop := SpecialResults ∧ SpecialEdges

/-- R154: a value that a format represents is unchanged by rounding to it, in every mode; so each rounding gives a code
whose value is rounded no further. -/
def Obligations.RoundingExact : Prop :=
  ∀ f ∈ [f32, f16, bf16, f64, e4m3, e5m2], ∀ (rm : RMode) (code : Nat), code < 2 * f.signBit →
    (f.decode false code).isNan = false → f.round rm false false (f.decode false code) = code

/-- R244: the f64 functions, which never flush. -/
def Sys2Proof.Claims.DoubleResults : Prop :=
  Double3 .f64Add (fun rm u v _ => rnd f64 {} rm (plus rm (fin f64 {} u) (fin f64 {} v))) ∧
  Double3 .f64Sub (fun rm u v _ => rnd f64 {} rm (plus rm (fin f64 {} u) (fin f64 {} v).neg)) ∧
  Double3 .f64Mul (fun rm u v _ => rnd f64 {} rm ((fin f64 {} u).mul (fin f64 {} v))) ∧
  Double3 .f64Fma (fun rm u v z => rnd f64 {} rm (plus rm ((fin f64 {} u).mul (fin f64 {} v)) (fin f64 {} z))) ∧
  Double3 .f64Min (fun _ u v _ => pickCode f64 {} false u v) ∧
  Double3 .f64Max (fun _ u v _ => pickCode f64 {} true u v) ∧
  (∀ d a, Own (.f64Abs d a) fun _ p _ l m => m.dst64 d (0#1 ++ (src64 p.g l a).extractLsb' 0 63)) ∧
  (∀ d a, Own (.f64Neg d a) fun _ p _ l m =>
    m.dst64 d (~~~((src64 p.g l a).extractLsb' 63 1) ++ (src64 p.g l a).extractLsb' 0 63))

/-- R238 to R241, R244: the arithmetic of f32, of packed f16 and bf16, and of f64. -/
def Obligations.FloatArithmeticResults : Prop := FloatResults ∧ DoubleResults

/-- R245, R246: `cvt` between every two formats that an encoding assigns. -/
def Obligations.ConvertResults : Prop :=
  ∀ (d a : BitVec 7) (src tgt : BitVec 4) (x : LExt) (s : State) (p : Path),
    Instr.unassigned (.cvt d a src tgt x) = false → Runs s p (.cvt d a src tgt x) x →
    exec (.cvt d a src tgt x) s = .next (laneNext s p (.cvt d a src tgt x) x fun _ l m =>
      m.dstBits d (fmtRegBits tgt) (cvtBits tgt (cvtResult x (rmode x p.g l) src tgt
        (srcBits p.g l a (fmtRegBits src) % 2 ^ fmtBits src))))

/-- R247, R163, R164, R165: the dot products of packed elements. -/
def Obligations.DotResults : Prop :=
  (∀ d a b, Own (.narrowDot4s d a b) fun x p _ l m =>
    let at' := fun (w : Word) t => (w.extractLsb' (8 * t) 8).toInt
    m.dst32 d (sat32 x (((List.range 4).map fun t => at' (src32 p.g l a) t * at' (src32 p.g l b) t).sum
      + (l.reg d.toNat).toInt))) ∧
  (∀ d a b, Own (.narrowDot4n d a b) fun x p _ l m =>
    let at' := fun (w : Word) t => (w.extractLsb' (8 * t) 8).toNat
    let v := ((List.range 4).map fun t => at' (src32 p.g l a) t * at' (src32 p.g l b) t).sum + (l.reg d.toNat).toNat
    m.dst32 d (BitVec.ofNat 32 (if satOf x then min v 4294967295 else v))) ∧
  Dots .narrowDot4e4 e4m3 4 (fun q => ((q 0).add false (q 1)).add false ((q 2).add false (q 3))) ∧
  Dots .narrowDot4e5 e5m2 4 (fun q => ((q 0).add false (q 1)).add false ((q 2).add false (q 3))) ∧
  Dots .narrowDot2b bf16 2 (fun q => (q 0).add false (q 1)) ∧
  Dots .narrowDot2h f16 2 (fun q => (q 0).add false (q 1))

/-- R248 to R252: the codebook decodes, the packing of f32 to e4m3 and e5m2, the MXINT8 block of a path and its unpacking, and
the unpacking of 8-bit formats to f16. -/
def Obligations.NarrowResults : Prop :=
  (∀ e ∈ [(Instr.narrowCbdecb, bf16), (.narrowCbdech, f16)], ∀ d a b, Own (e.1 d a b) fun _ p _ l m =>
    let sc := src64 p.g l b
    let n := 2 * (sc.extractLsb' 40 2).toNat
    m.dst32 d (BitVec.ofNat 16 (cbCode e.2 (src32 p.g l a) sc (n + 1)) ++ BitVec.ofNat 16 (cbCode e.2 (src32 p.g l a) sc n))) ∧
  (∀ d a b, Own (.narrowCbdecf d a b) fun _ p _ l m =>
    m.dst32 d (BitVec.ofNat 32 (cbCode f32 (src32 p.g l a) (src64 p.g l b) ((src64 p.g l b).extractLsb' 40 3).toNat))) ∧
  (∀ e ∈ [(Instr.narrowPke4, e4m3), (.narrowPke5, e5m2)], ∀ d a b, Own (e.1 d a b) fun x p _ l m =>
    let c := fun t => BitVec.ofNat 8 (e.2.round
      { code := (rmode x p.g l).code, r := ((auxWord x p.g l).rotateRight (8 * t)).toNat % 65536 } false (satOf x)
      (fin f32 x (((src64 p.g l b ++ src64 p.g l a).extractLsb' (32 * t) 32).toNat)))
    m.dst32 d (c 3 ++ c 2 ++ c 1 ++ c 0)) ∧
  (∀ a, Word0 (fun d => .narrowMxpk d a) fun x p _ l =>
    let scale := mxScale ((party p x).map fun j => (src32 p.g (p.g.lane j) a).toNat)
    0#16 ++ BitVec.ofNat 8 scale ++ BitVec.ofInt 8 (mxPack scale (src32 p.g l a).toNat)) ∧
  Word2 .narrowMxunpk (fun _ u v => BitVec.ofNat 32 (f32.round rne false false
    (mxVal (v.extractLsb' 0 8).toNat (u.extractLsb' 0 8).toNat))) ∧
  (∀ e ∈ [(Instr.narrowUpke4, e4m3), (.narrowUpke5, e5m2)], ∀ d a, Own (e.1 d a) fun _ p _ l m =>
    let h := fun t => BitVec.ofNat 16 (f16.round rne false false
      (e.2.decode false ((src32 p.g l a).extractLsb' (8 * t) 8).toNat))
    m.dst64 d (h 3 ++ h 2 ++ h 1 ++ h 0))

/-! ### Control transfers and guest execution (chapter 10) -/

/-- The address that a displacement of `n` bits, in words, names from the base word (R224). -/
def Sys2Proof.Claims.dispAddr {n : Nat} (p : Path) (disp : BitVec n) : DWord := p.iss.base + BitVec.ofInt 64 (4 * disp.toInt)

/-- R224, R225, R228: `br` and `brx.jmp` to the first word of an instruction of the running body. -/
def Sys2Proof.Claims.JumpResults : Prop :=
  (∀ c neg disp x s p, Runs s p (.br c neg disp x) x → targetOk s p.b (dispAddr p disp - bodyStart s p.b).toNat = true →
    exec (.br c neg disp x) s = .next (laneNext s p (.br c neg disp x) x fun _ l m =>
      if l.prd c != (neg == 1) then { m with npc := dispAddr p disp } else m)) ∧
  (∀ a x s p, Runs s p (.brxJmp a x) x →
    (∀ n ∈ p.exec x, targetOk s p.b (src32 p.g (p.g.lane n) a).toNat = true) →
    exec (.brxJmp a x) s = .next (laneNext s p (.brxJmp a x) x fun _ l m =>
      { m with npc := bodyStart s p.b + (src32 p.g l a).setWidth 64 }))

/-- The lane after a push: the return offset stored as four bytes below the older ones, the depth one more (R226, R227). -/
def Sys2Proof.Claims.pushed (s : State) (p : Path) (n : Nat) (l : Lane) (pc : DWord) : Lane :=
  { l with
    cd := l.cd + 1
    npc := pc
    priv := mputs l.priv (p.b.privBytes - 4 * ((p.g.lane n).cd + 1))
      (leBytes 4 ((p.iss.next - bodyStart s p.b).setWidth 32).toNat) }

/-- R226, R227, R228: `call` and `brx.call` where the slice has room for one more return address. -/
def Sys2Proof.Claims.CallResults : Prop :=
  (∀ c neg disp x s p, Runs s p (.call c neg disp x) x → slicesClean s p →
    targetOk s p.b (dispAddr p disp - bodyStart s p.b).toNat = true →
    (∀ n ∈ p.exec x, 4 * ((p.g.lane n).cd + 1) ≤ p.b.privBytes) →
    exec (.call c neg disp x) s = .next (memNext s p x fun n l =>
      if (p.g.lane n).prd c != (neg == 1) then pushed s p n l (dispAddr p disp) else l)) ∧
  (∀ a x s p, Runs s p (.brxCall a x) x → slicesClean s p →
    (∀ n ∈ p.exec x, targetOk s p.b (src32 p.g (p.g.lane n) a).toNat = true ∧
      4 * ((p.g.lane n).cd + 1) ≤ p.b.privBytes) →
    exec (.brxCall a x) s = .next (memNext s p x fun n l =>
      pushed s p n l (bodyStart s p.b + (src32 p.g (p.g.lane n) a).setWidth 64)))

/-- The return offset that a lane's slice holds on top (R226). -/
def Sys2Proof.Claims.topReturn (p : Path) (n : Nat) : Nat :=
  ((List.range 4).map fun j =>
    (mget (p.g.lane n).priv (p.b.privBytes - 4 * (p.g.lane n).cd + j)).toNat * 256 ^ j).sum

/-- R229: `ctl.ret` at a depth above 0, to the first word of an instruction. -/
def Sys2Proof.Claims.ReturnResults : Prop :=
  ∀ x s p, Runs s p (.ctlRet x) x → slicesClean s p →
    (∀ n ∈ p.exec x, 0 < (p.g.lane n).cd ∧ targetOk s p.b (topReturn p n) = true) →
    exec (.ctlRet x) s = .next (memNext s p x fun n l =>
      { l with cd := l.cd - 1, npc := bodyStart s p.b + BitVec.ofNat 64 (topReturn p n) })

/-- R224 to R229: branches, calls and returns of the lane half. -/
def Obligations.BranchResults : Prop := JumpResults ∧ CallResults ∧ ReturnResults

/-- R48, R352: a dispatch of one lane: no breakpoint matches, the byte at GCB + GPC is read into GOP, and the lane goes to the
body offset that the handler table gives for it. `s1` and `s2` hold what the two translations add to the TLB; each read comes after
what the thread's commands read of their sources, which is the model's choice (log 135). -/
def Obligations.DispatchResults : Prop :=
  ∀ i x s p n s1 s2 pl pe, (i = Instr.guestDispatch x ∨ i = .guestDispatchRg x ∧ p.g.grgMode = 0) →
    Runs s p i x → p.exec x = [n] →
    (p.g.lane n).once = true ∨ breakpoint (ctxOf s p.b.part p.b.ctx) (p.g.lane n).gpc = none →
    checkAccess s p.b p.iss.grp n .read (.global (p.g.gcb + (p.g.lane n).gpc)) 1 = (s1, .ok pl) →
    let gop := BitVec.ofNat 8 (valueAt (sealed s1 p n) p n pl 1)
    let t1 := touchPlace (sealed s1 p n) p.b.core (drawOf s n 900) pl 1
    checkAccess t1 p.b p.iss.grp (n + 64) .read
      (.global (p.g.ght + BitVec.ofNat 64 ((if p.b.lbody then 1024 else 0) + 4 * gop.toNat))) 4 = (s2, .ok pe) →
    let t := valueAt (sealed s2 p n) p (n + 64) pe 4
    t ≠ 0xFFFFFFFF → targetOk s p.b t = true →
    exec i s = .next (memNext (touchPlace (sealed s2 p n) p.b.core (drawOf s (n + 64) 900) pe 4) p x fun _ l =>
      { l with gop := gop, npc := bodyStart s p.b + BitVec.ofNat 64 t })

/-- R50, R353: with GRG_MODE 1 or 2, `guest.dispatch.rg` of a path of one lane fetches the byte into GOP and enters the block's
regroup pool, which opens a round unless one is open; while some other live lane of a group that is not stopped has not
entered, the round stays open. A lane whose loads are not complete waits before it enters, with its ONCE bit. -/
def Obligations.PoolEntryResults : Prop :=
  ∀ x s p n, pathOf s = some p → p.lanes = [n] → p.g.grgMode ≠ 0 →
    (∃ k g j, p.b.group k = some g ∧ g.stop = none ∧ (g.lane j).live = true ∧ j < 32 ∧ (g.lane j).hold ≠ .pool ∧
      (k, j) ≠ (p.iss.grp, n)) →
    (∀ s1 pl, p.g.loads.openOf n = 0 →
      (p.g.lane n).once = true ∨ breakpoint (ctxOf s p.b.part p.b.ctx) (p.g.lane n).gpc = none →
      checkAccess s p.b p.iss.grp n .read (.global (p.g.gcb + (p.g.lane n).gpc)) 1 = (s1, .ok pl) →
      exec (.guestDispatchRg x) s = .next
        (let t := withGroup (touchPlace (sealed s1 p n) p.b.core (drawOf s n 900) pl 1) p (withLanes p fun _ l =>
          { l with gop := BitVec.ofNat 8 (valueAt (sealed s1 p n) p n pl 1), hold := .pool, once := false, seen := none })
        { t with blocks := t.blocks.map fun b => if b.id = p.iss.blk then
            { b with round := some (b.round.getD { mode := p.g.grgMode, start := s.clk }) } else b })) ∧
    (p.g.loads.openOf n ≠ 0 → exec (.guestDispatchRg x) s = .next (withGroup s p fun g =>
      { withLanes p (fun _ l => { l with hold := .retry .waitc }) g with
        stepLanes := if g.stepMode = 0 then g.stepLanes else g.stepLanes ||| lanesMask [n] }))

/-! ### Memory (chapter 12) -/

/-- R254, R256: a load of one executing lane, at a place that the checks of R374 give: d gets the bytes there, widened as the
size code says, memory keeps its bytes, and the load is counted, one of the pool or a host-visible window as such (Table 6-2). What the commands of the lane's thread have not read of their
sources they read before it: the model's choice (log 135). -/
def Obligations.LoadResults : Prop :=
  ∀ d a size hs off x s p n s1 pl, (size.toNat ≠ 7) → p.exec x = [n] →
    (Runs s p (.ld d a size hs off x) x →
      checkAccess s p.b p.iss.grp n .read (globalAt x p (p.g.lane n) a off size) (accessBytes size) = (s1, .ok pl) →
      exec (.ld d a size hs off x) s = .next (counted false (sysNoted (cleaned (memNext (touchPlace (sealed s1 p n) p.b.core
        (drawOf s n 900) pl (accessBytes size)) p x fun _ l => l.dstBits d (regBits (accessBytes size))
          (loaded size (valueAt (sealed s1 p n) p n pl (accessBytes size)))) p (.ld d a size hs off x) n) p pl) p x)) ∧
    (Runs s p (.ldl d a size hs off x) x →
      checkAccess s p.b p.iss.grp n .read (localAt x p (p.g.lane n) a off hs size) (accessBytes size) = (s1, .ok pl) →
      exec (.ldl d a size hs off x) s = .next (counted false (cleaned (memNext (sealed s p n) p x fun _ l =>
        l.dstBits d (regBits (accessBytes size)) (loaded size (valueAt (sealed s p n) p n pl (accessBytes size)))) p
          (.ldl d a size hs off x) n) p x))

/-- R254, R256: a store of one executing lane, at a place that the checks of R374 give: the low bytes of d go there,
little-endian; nothing else of memory is written. What the commands of the lane's thread have not read of their sources they read
before it: the model's choice (log 135). -/
def Obligations.StoreResults : Prop :=
  ∀ d a size hs off x s p n s1 pl, (size.toNat ≤ 4) → p.exec x = [n] →
    let k := accessBytes size
    let bytes := leBytes k (srcBits p.g (p.g.lane n) d (regBits k))
    (Runs s p (.st d a size hs off x) x →
      checkAccess s p.b p.iss.grp n .write (globalAt x p (p.g.lane n) a off size) k = (s1, .ok pl) →
      storeLost s p.b.part pl = false →
      exec (.st d a size hs off x) s =
        .next (counted true (memNext (coverPlace (writePlace (sealed s1 p n) pl bytes) pl k) p x fun _ l => l) p x)) ∧
    (Runs s p (.stl d a size hs off x) x →
      checkAccess s p.b p.iss.grp n .write (localAt x p (p.g.lane n) a off hs size) k = (s1, .ok pl) →
      exec (.stl d a size hs off x) s =
        .next (counted true (memNext (coverPlace (writePlace (sealed s p n) pl bytes) pl k) p x fun _ l => l) p x))

/-- A byte memory and its addresses: what a byte reads as after some bytes are written from an address on. -/
def Sys2Proof.Claims.ByteRule (before after : Cells Byte) (a : Nat) (bs : List Byte) : Prop :=
  ∀ q, mget after q = if a ≤ q ∧ q < a + bs.length then bs.getD (q - a) 0 else mget before q

/-- R189, R122, R105: bytes written to a place are the bytes read there, and every byte outside them reads as before, in DRAM,
in the die scratchpads, in a block's core scratch, in a cluster's shared memory, in what is left of an ended block's scratch, and in a
lane's private slice; every other block, cluster and lane, and all the rest of the machine, is as before. -/
def Sys2Proof.Claims.MemoryWrites : Prop :=
  (∀ s a bs, ByteRule s.dsp (writePlace s (.dsp a) bs).dsp a bs ∧
    { writePlace s (.dsp a) bs with dsp := s.dsp } = s) ∧
  (∀ s pa bs, pa + bs.length ≤ 2 ^ 44 → ByteRule s.dram (writePlace s (.phys pa) bs).dram pa bs ∧
    { writePlace s (.phys pa) bs with dram := s.dram } = s) ∧
  (∀ s id b o bs, blockOf s id = some b →
    let t := writePlace s (.scr id o) bs
    (∃ b', blockOf t id = some b' ∧ ByteRule b.scratch b'.scratch o bs ∧ { b' with scratch := b.scratch } = b) ∧
    (∀ k, k ≠ id → blockOf t k = blockOf s k) ∧ (∀ sp, sp ≠ .scr id → shadeOf t sp = shadeOf s sp) ∧
    { t with blocks := s.blocks, shades := s.shades } = s) ∧
  (∀ s id h o bs, blockOf s id = none → shadeOf s (.scr id) = some h →
    let t := writePlace s (.scr id o) bs
    (∃ h', shadeOf t (.scr id) = some h' ∧ ByteRule h.mem h'.mem o bs ∧ { h' with mem := h.mem } = h) ∧
    (∀ sp, sp ≠ .scr id → shadeOf t sp = shadeOf s sp) ∧ { t with shades := s.shades } = s) ∧
  (∀ s id c o bs, clusterOf s id = some c →
    let t := writePlace s (.csh id o) bs
    (∃ c', clusterOf t id = some c' ∧ ByteRule c.mem c'.mem o bs ∧ { c' with mem := c.mem } = c) ∧
    (∀ k, k ≠ id → clusterOf t k = clusterOf s k) ∧ (∀ sp, sp ≠ .csh id → shadeOf t sp = shadeOf s sp) ∧
    { t with clusters := s.clusters, shades := s.shades } = s) ∧
  (∀ s id gi g n o bs, groupOf s id gi = some g → n < g.lanes.length →
    let t := writePlace s (.priv id gi n o) bs
    (∃ g', groupOf t id gi = some g' ∧ ByteRule (g.lane n).priv (g'.lane n).priv o bs ∧
      { g'.lane n with priv := (g.lane n).priv } = g.lane n ∧ (∀ m, m ≠ n → g'.lane m = g.lane m) ∧
      { g' with lanes := g.lanes } = g) ∧
    (∀ k j, ¬(k = id ∧ j = gi) → groupOf t k j = groupOf s k j) ∧
    (∀ k b, blockOf s k = some b → ∃ b', blockOf t k = some b' ∧ { b' with groups := b.groups } = b) ∧
    { t with blocks := s.blocks } = s)

/-- R173, R174, R189: a result of 32, 64 or 128 bits that a lane's register, pair or quad gets is what is read there, the low word in the
first, and every other register of the lane, and all else of it, is as before; a lane predicate gets the truth value, or what it was
combined with it by AND, OR or XOR (`comb` 0 to 3), and no other one changes, where the fields 24 to 31 are discarded and read true; a
uniform register and a uniform predicate alike, where the field 7 is discarded and reads true. What a field of 112 to 127 reads is a
uniform register, its low 32 bits for a word. -/
def Sys2Proof.Claims.RegisterWrites : Prop :=
  (∀ (l : Lane) (d : BitVec 7) (v : Word) n, (l.dst32 d v).reg n = (if n = d.toNat then v else l.reg n) ∧
    { l.dst32 d v with regs := l.regs } = l) ∧
  (∀ (l : Lane) (d : BitVec 7) (v : DWord) n, (l.dst64 d v).reg n =
      (if n = d.toNat then v.extractLsb' 0 32 else if n = d.toNat + 1 then v.extractLsb' 32 32 else l.reg n) ∧
    { l.dst64 d v with regs := l.regs } = l) ∧
  (∀ (l : Lane) (d : BitVec 7) (v : BitVec 128) n, (l.dst128 d v).reg n =
      (if d.toNat ≤ n ∧ n < d.toNat + 4 then v.extractLsb' (32 * (n - d.toNat)) 32 else l.reg n) ∧
    { l.dst128 d v with regs := l.regs } = l) ∧
  (∀ (l : Lane) (d : BitVec 7) v, l.dstBits d 32 v = l.dst32 d (BitVec.ofNat 32 v) ∧ l.dstBits d 64 v = l.dst64 d (BitVec.ofNat 64 v) ∧
    l.dstBits d 128 v = l.dst128 d (BitVec.ofNat 128 v)) ∧
  (∀ (g : Group) (l : Lane) (f : BitVec 7), f.toNat < 112 → src32 g l f = l.reg f.toNat ∧
    (src64 g l f).extractLsb' 0 32 = l.reg f.toNat ∧ (src64 g l f).extractLsb' 32 32 = l.reg (f.toNat + 1) ∧
    ∀ k, k < 4 → (src128 l f).extractLsb' (32 * k) 32 = l.reg (f.toNat + k)) ∧
  (∀ (g : Group) (l : Lane) (f : BitVec 7), 112 ≤ f.toNat →
    src32 g l f = (g.usrc (f.toNat - 112)).extractLsb' 0 32 ∧ src64 g l f = g.usrc (f.toNat - 112)) ∧
  (∀ (l : Lane) (pd p : BitVec 5) (comb : BitVec 2) t,
    (l.pwr pd comb t).prd p = (if p = pd ∧ pd.toNat < 24 then
        (match comb.toNat with
          | 0 => t
          | 1 => l.prd pd && t
          | 2 => l.prd pd || t
          | _ => l.prd pd != t)
      else l.prd p) ∧
    (24 ≤ pd.toNat → l.prd pd = true) ∧ { l.pwr pd comb t with preds := l.preds } = l) ∧
  (∀ (g : Group) n k v, (g.udst n v).usrc k = (if k = n then v else g.usrc k) ∧ { g.udst n v with ureg := g.ureg } = g) ∧
  (∀ (g : Group) n k v, (g.qwr n v).qrd k = (if k = n ∧ n < 7 then v else g.qrd k) ∧ g.qrd 7 = true ∧
    { g.qwr n v with upred := g.upred } = g)

/-- R122, R173, R174, R189: what is written to memory, and to the registers and predicates of lanes and groups, is read there, and nothing else changes. -/
def Obligations.WriteThenRead : Prop := MemoryWrites ∧ RegisterWrites

/-- The store's frame, for one executing lane: for every place that the checks give, every byte outside the stored bytes reads as
before, on every core: in DRAM, the pool, host-visible memory, the die scratchpads, and the core scratch, shared memory, register window and
private slices of every block, cluster and lane; a view's bytes follow their source. The canonical form that it takes is kept by every step
(`StepKeepsMemory`). -/
def Obligations.StoreFrame : Prop :=
  ∀ d a size hs off x s p n s1 pl t, (size.toNat ≤ 4) → p.exec x = [n] → memWf s = true →
    ((Runs s p (.st d a size hs off x) x ∧ exec (.st d a size hs off x) s = .next t ∧
        checkAccess s p.b p.iss.grp n .write (globalAt x p (p.g.lane n) a off size) (accessBytes size) = (s1, .ok pl)) ∨
      (Runs s p (.stl d a size hs off x) x ∧ exec (.stl d a size hs off x) s = .next t ∧
        checkAccess s p.b p.iss.grp n .write (localAt x p (p.g.lane n) a off hs size) (accessBytes size) = (s1, .ok pl))) →
    (∀ (q : Place) core draw, (∀ pa, q = .phys pa → paClass pa ≠ 3) → (∀ j, j < accessBytes size → q ≠ pl.shift j) →
      q.byte t core draw = q.byte s core draw) ∧
    t.mgmt = s.mgmt ∧ t.parts = s.parts

/-- R342: every lane of the path that executes stays at the instruction, and every other one of it goes on. -/
def Sys2Proof.Claims.lanesBack (s : State) (p : Path) (x : LExt) : State :=
  withGroup s p (withLanes p fun n l =>
    if guardHolds x (p.g.lane n) then
      { l with npc := p.iss.pc, hold := .none, once := (p.g.lane n).once, seen := (p.g.lane n).seen }
    else goTo l p.iss.next)

/-- Every byte of every memory reads as before, on every core: of DRAM, the pool, host-visible memory and the die scratchpads, and of the
core scratch, shared memory, register window and private slices of every block, cluster and lane. -/
def Sys2Proof.Claims.BytesKept (s t : State) : Prop :=
  ∀ (q : Place) core draw, (∀ pa, q = .phys pa → paClass pa ≠ 3) → q.byte t core draw = q.byte s core draw

/-- R342, R344: the one executing lane `n` traps with the record `r` at the instruction: the lane is as it was, the group stops, nothing is
stored, and nothing else changes. -/
def Sys2Proof.Claims.LaneTraps (s : State) (p : Path) (x : LExt) (i : Instr) (n : Nat) (ok : TrapRec → Prop) : Prop :=
  ∃ t g' r, exec i s = .next t ∧ t = stopIn (lanesBack s p x) p [r] ∧ groupOf t p.iss.blk p.iss.grp = some g' ∧
    (∃ st, g'.stop = some st ∧ st.recs = [r]) ∧ g'.lane n = p.g.lane n ∧ BytesKept s t ∧
    r.src = 0 ∧ r.lane = n ∧ r.grp = p.iss.grp ∧ r.npc = p.iss.pc ∧ ok r

/-- Table 12-3: the bytes of a full/empty access. -/
def Sys2Proof.Claims.feLen (size : BitVec 3) : Nat := [4, 8, 4, 8, 16, 4, 8, 16].getD size.toNat 0

/-- R254: where a full/empty access goes. -/
def Sys2Proof.Claims.feAt (x : LExt) (p : Path) (l : Lane) (a : BitVec 7) (off : BitVec 6) (hs : BitVec 2) (size : BitVec 3) :
    Target := .loc hs.toNat (src32 p.g l a + BitVec.ofInt 32 (simm x.imm off * feLen size)).toNat

/-- Table 12-4: the atomics, with the bytes that they access. -/
def Sys2Proof.Claims.atomics (d a b : BitVec 7) (x : LExt) : List (Instr × Nat) :=
  [(.atomAdd d a b x, 4), (.atomAnd d a b x, 4), (.atomOr d a b x, 4), (.atomXor d a b x, 4), (.atomXchg d a b x, 4),
    (.atomMins d a b x, 4), (.atomMaxs d a b x, 4), (.atomMinn d a b x, 4), (.atomMaxn d a b x, 4), (.atomAddf d a b x, 4),
    (.atomCas d a b x, 4), (.atomAdd64 d a b x, 8), (.atomXchg64 d a b x, 8), (.atomCas64 d a b x, 8), (.atomfxAdd a b x, 16),
    (.atomfxFetch d a b x, 16)]

/-- R254, R399: a misaligned access of the one executing lane, of every size that can be misaligned, raises ALIGN (0x08) with the address
in TRAP_ADDR and the access's bytes in TRAP_INFO; nothing is stored, and the lane is as it was: loads and stores, the atomics and the
full/empty accesses; and so does a misaligned access of the uniform half, for the group. -/
def Sys2Proof.Claims.AlignTraps : Prop :=
  (∀ d a (size : BitVec 3) hs off x s p n, p.exec x = [n] → (p.g.lane n).npc = p.iss.pc → (p.g.lane n).hold = .none → p.g.stop = none →
    (∀ i tg, (size.toNat ≤ 6 ∧ i = Instr.ld d a size hs off x ∨ size.toNat ≤ 4 ∧ i = .st d a size hs off x) ∧
          tg = globalAt x p (p.g.lane n) a off size ∨
        (size.toNat ≤ 6 ∧ i = .ldl d a size hs off x ∨ size.toNat ≤ 4 ∧ i = .stl d a size hs off x) ∧
          tg = localAt x p (p.g.lane n) a off hs size →
      Runs s p i x → tg.addr.toNat % accessBytes size ≠ 0 →
      LaneTraps s p x i n fun r => r.cause = 0x08 ∧ r.addr = tg.addr ∧ r.info = BitVec.ofNat 64 (accessBytes size))) ∧
  (∀ d a b x s p n, p.exec x = [n] → (p.g.lane n).npc = p.iss.pc → (p.g.lane n).hold = .none → p.g.stop = none →
    ∀ e ∈ atomics d a b x, Runs s p e.1 x → (atomTarget x p.g (p.g.lane n) a).addr.toNat % e.2 ≠ 0 →
      LaneTraps s p x e.1 n fun r =>
        r.cause = 0x08 ∧ r.addr = (atomTarget x p.g (p.g.lane n) a).addr ∧ r.info = BitVec.ofNat 64 e.2) ∧
  (∀ d a (size : BitVec 3) hs off x s p n i, 2 ≤ size.toNat → (i = Instr.ldfe d a size hs off x ∨ i = .stfe d a size hs off x) →
    Runs s p i x → p.lanes = [n] → p.exec x = [n] → s.feq = [] → (p.g.lane n).hold = .none →
    (feAt x p (p.g.lane n) a off hs size).addr.toNat % feLen size ≠ 0 → ∃ r,
    exec i s = .next (stopIn (feRelease s p.iss.blk p.iss.grp p.iss.pc) p [r]) ∧ r.cause = 0x08 ∧ r.src = 0 ∧ r.lane = n ∧
    r.grp = p.iss.grp ∧ r.addr = (feAt x p (p.g.lane n) a off hs size).addr ∧ r.info = BitVec.ofNat 64 (feLen size) ∧
    r.npc = (p.g.lane n).npc) ∧
  (∀ d a imm x s p, URuns s p x →
    let va := p.g.usrc a.toNat + BitVec.ofInt 64 (simm x.imm imm * 8)
    va.toNat % 8 ≠ 0 → ∀ i ∈ [Instr.uld d a imm x, .ust d a imm x], ∃ r,
      exec i s = .next (stopIn s p [r]) ∧ GroupRec p r 0x08 va 8 (p.g.lane p.lead).npc)

/-- R261, R262: the atomics of 32 and 64 bits, one executing lane, in a local space or in DRAM. Model choice: log 135. -/
def Sys2Proof.Claims.AtomResults : Prop :=
  let word := fun (f : Word → Word → Word) (g : Group) (l : Lane) (b : BitVec 7) (m : Nat) =>
    some (f (BitVec.ofNat 32 m) (src32 g l b)).toNat
  let pair := fun (f : DWord → DWord → DWord) (g : Group) (l : Lane) (b : BitVec 7) (m : Nat) =>
    some (f (BitVec.ofNat 64 m) (src64 g l b)).toNat
  AtomIs .atomAdd 4 (word fun m y => m + y) ∧
  AtomIs .atomAnd 4 (word fun m y => m &&& y) ∧
  AtomIs .atomOr 4 (word fun m y => m ||| y) ∧
  AtomIs .atomXor 4 (word fun m y => m ^^^ y) ∧
  AtomIs .atomXchg 4 (word fun _ y => y) ∧
  AtomIs .atomMins 4 (word fun m y => BitVec.ofInt 32 (min m.toInt y.toInt)) ∧
  AtomIs .atomMaxs 4 (word fun m y => BitVec.ofInt 32 (max m.toInt y.toInt)) ∧
  AtomIs .atomMinn 4 (word fun m y => BitVec.ofNat 32 (min m.toNat y.toNat)) ∧
  AtomIs .atomMaxn 4 (word fun m y => BitVec.ofNat 32 (max m.toNat y.toNat)) ∧
  AtomIs .atomAddf 4 (word fun m y => BitVec.ofNat 32
    (f32.round rne false false ((f32.decode false m.toNat).add false (f32.decode false y.toNat)))) ∧
  AtomIs .atomCas 4 (fun g l b m =>
    if m = ((src64 g l b).extractLsb' 0 32).toNat then some ((src64 g l b).extractLsb' 32 32).toNat else none) ∧
  AtomIs .atomAdd64 8 (pair fun m y => m + y) ∧
  AtomIs .atomXchg64 8 (pair fun _ y => y) ∧
  AtomIs .atomCas64 8 (fun _ l b m =>
    if m = ((src128 l b).extractLsb' 0 64).toNat then some ((src128 l b).extractLsb' 64 64).toNat else none)

/-- R263: the fixed-point atomics: the sum modulo 2^128; `fetch` writes the old value, `add` writes none and counts as a
store. Model choice: log 135. -/
def Sys2Proof.Claims.FixedAtomResults : Prop :=
  (∀ d a b x s p n s1 pl, Runs s p (.atomfxFetch d a b x) x → p.exec x = [n] →
    checkAccess s p.b p.iss.grp n .rmw (atomTarget x p.g (p.g.lane n) a) 16 = (s1, .ok pl) →
    (∀ pa, pl = .phys pa → paClass pa = 0) → (∀ bl g r o, pl ≠ .window bl g r o) →
    let old := valueAt (sealed s1 p n) p n pl 16
    let new := (BitVec.ofNat 128 old + src128 (p.g.lane n) b).toNat
    exec (.atomfxFetch d a b x) s = .next (counted false (cleaned (memNext
      (coverPlace (writePlace (sealed s1 p n) pl (leBytes 16 new)) pl 16) p x fun _ l => l.dst128 d (BitVec.ofNat 128 old)) p
      (.atomfxFetch d a b x) n) p x)) ∧
  (∀ a b x s p n s1 pl, Runs s p (.atomfxAdd a b x) x → p.exec x = [n] →
    checkAccess s p.b p.iss.grp n .rmw (atomTarget x p.g (p.g.lane n) a) 16 = (s1, .ok pl) →
    (∀ pa, pl = .phys pa → paClass pa = 0) → (∀ bl g r o, pl ≠ .window bl g r o) →
    let new := (BitVec.ofNat 128 (valueAt (sealed s1 p n) p n pl 16) + src128 (p.g.lane n) b).toNat
    exec (.atomfxAdd a b x) s = .next (counted true (memNext
      (coverPlace (writePlace (sealed s1 p n) pl (leBytes 16 new)) pl 16) p x fun _ l => l) p x))

/-- R261 to R263: the atomics. -/
def Obligations.AtomicResults : Prop := AtomResults ∧ FixedAtomResults

/-! ### Traps (chapters 19 and 22) -/

/-- R208, R298, R342, R344: the breakpoints `lsys.brk`, one record for each executing lane, and `usys.brk`, one for the group;
and `usys.svc` at level 0: the path stands at NEXT, and the group stops. -/
def Sys2Proof.Claims.BreakTraps : Prop :=
  (∀ x s p, Runs s p (.lsysBrk x) x → p.exec x ≠ [] → ∃ rs,
    exec (.lsysBrk x) s = .next (stopIn (laneNext s p (.lsysBrk x) x fun _ _ m => m) p rs) ∧
    rs.map TrapRec.lane = p.exec x ∧
    ∀ r ∈ rs, r.cause = 0x12 ∧ r.src = 0 ∧ r.grp = p.iss.grp ∧ r.npc = p.iss.next ∧ r.addr = 0 ∧ r.info = 0) ∧
  (∀ x s p, URuns s p x → p.lanes ≠ [] → ∃ r,
    exec (.usysBrk x) s = .next (stopIn (atNext s p) p [r]) ∧ GroupRec p r 0x12 0 0 p.iss.next) ∧
  (∀ a x s p, URuns s p x → p.lanes ≠ [] → p.b.level1 = false → ∃ r,
    exec (.usysSvc a x) s = .next (stopIn (atNext s p) p [r]) ∧ GroupRec p r 0x04 0 (p.g.usrc a.toNat) p.iss.next)

/-- The lane instructions whose effect is beyond their own lanes' registers, predicates and guest state: memory, control transfers,
dispatches and the matrix instructions. -/
def Sys2Proof.Claims.actsBeyond : Instr → Bool
  | .ld _ _ _ _ _ _ | .st _ _ _ _ _ _ | .ldl _ _ _ _ _ _ | .stl _ _ _ _ _ _ | .ldfe _ _ _ _ _ _ | .stfe _ _ _ _ _ _
  | .atomAdd _ _ _ _ | .atomAnd _ _ _ _ | .atomOr _ _ _ _ | .atomXor _ _ _ _ | .atomXchg _ _ _ _ | .atomMins _ _ _ _
  | .atomMaxs _ _ _ _ | .atomMinn _ _ _ _ | .atomMaxn _ _ _ _ | .atomAddf _ _ _ _ | .atomCas _ _ _ _ | .atomAdd64 _ _ _ _
  | .atomXchg64 _ _ _ _ | .atomCas64 _ _ _ _ | .atomfxAdd _ _ _ | .atomfxFetch _ _ _ _ | .lsysBrk _ | .br _ _ _ _
  | .brxJmp _ _ | .brxCall _ _ | .call _ _ _ _ | .ctlRet _ | .ctlExit _ | .ctlYield _ | .guestDispatch _ | .guestDispatchRg _
  | .mmaAdd _ _ _ _ _ | .mmaSet _ _ _ _ _ | .mmaTri _ _ _ _ _ | .mmaTriset _ _ _ _ _ | .mfragRd _ _ _ _ | .mfragWr _ _ _ _
  | .mfragZero _ _ => true
  | _ => false

/-- The loads, the stores and the atomics, and the call through a register. -/
def Sys2Proof.Claims.accesses : Instr → Bool
  | .ld _ _ _ _ _ _ | .st _ _ _ _ _ _ | .ldl _ _ _ _ _ _ | .stl _ _ _ _ _ _
  | .atomAdd _ _ _ _ | .atomAnd _ _ _ _ | .atomOr _ _ _ _ | .atomXor _ _ _ _ | .atomXchg _ _ _ _ | .atomMins _ _ _ _
  | .atomMaxs _ _ _ _ | .atomMinn _ _ _ _ | .atomMaxn _ _ _ _ | .atomAddf _ _ _ _ | .atomCas _ _ _ _ | .atomAdd64 _ _ _ _
  | .atomXchg64 _ _ _ _ | .atomCas64 _ _ _ _ | .atomfxAdd _ _ _ | .atomfxFetch _ _ _ _ | .brxCall _ _ => true
  | _ => false

/-- R342: the executing lanes of the path are as they were, and its other lanes stand at NEXT. -/
def Sys2Proof.Claims.lanesStay (s : State) (p : Path) (x : LExt) : State :=
  withGroup s p (withLanes p fun n _ => if guardHolds x (p.g.lane n) then p.g.lane n else goTo (p.g.lane n) p.iss.next)

/-- R396: every executing lane of the path traps with REG_FIELD, and TRAP_INFO is a word of the instruction. -/
def Sys2Proof.Claims.BeyondBudget (s : State) (p : Path) (x : LExt) (i : Instr) (word : Word) : Prop :=
  ∃ rs, exec i s = .next (stopIn (lanesStay s p x) p rs) ∧ rs.map TrapRec.lane = p.exec x ∧
    ∀ r ∈ rs, r.cause = 0x05 ∧ r.src = 0 ∧ r.grp = p.iss.grp ∧ r.addr = 0 ∧ r.info = word.setWidth 64 ∧ r.npc = (p.g.lane r.lane).npc

/-- R391, R396, R415, R342: EVERY lane instruction that acts on its own lanes alone and names a register beyond the group's budget traps
with REG_FIELD in every executing lane, and the one executing lane of a path whose source register is poisoned with DATA_POISON; a lane that
traps is as it was. TRAP_INFO is the base word, but the MOD word where only the random operand that it names lies beyond the budget:
`narrow.pke4`, `narrow.pke5` and `cvt` take one. The one executing lane of `ld`, `st`, `ldl`, `stl`, an atomic or `brx.call` raises
REG_FIELD alike. -/
def Sys2Proof.Claims.OperandTraps : Prop :=
  (∀ (i : Instr) (x : LExt) s p, i.lext = some x → actsBeyond i = false → pathOf s = some p →
    ((∀ m, x.mod = some m → m.rnd ≠ 4) → inBudget i p.g = false → p.exec x ≠ [] → BeyondBudget s p x i p.iss.word) ∧
    (∀ n k, inBudget i p.g = true → p.exec x = [n] → poisonedReg s p i n = some k → ∃ r,
      exec i s = .next (stopIn (lanesStay s p x) p [r]) ∧ r.cause = 0x3C ∧ r.src = 0 ∧ r.grp = p.iss.grp ∧ r.lane = n ∧
      r.addr = BitVec.ofNat 64 (0x40000000 + 0x4000 * p.iss.grp + (k * 32 + n) * 4) ∧ r.npc = (p.g.lane n).npc)) ∧
  (∀ (d a b : BitVec 7) (src tgt : BitVec 4), ∀ mk ∈ [Instr.narrowPke4 d a b, .narrowPke5 d a b, .cvt d a src tgt], ∀ (x : LExt) m s p,
    pathOf s = some p → x.mod = some m → m.rnd = 4 → inBudget (mk x) p.g = false → p.exec x ≠ [] →
    BeyondBudget s p x (mk x) (if inBudget (mk { x with mod := none }) p.g then m.word else p.iss.word)) ∧
  (∀ (i : Instr) (x : LExt) s p n, i.lext = some x → accesses i = true → pathOf s = some p → inBudget i p.g = false → p.exec x = [n] →
    (p.g.lane n).npc = p.iss.pc → (p.g.lane n).hold = .none → p.g.stop = none → (∀ m, x.mod = some m → m.rnd ≠ 4) →
    LaneTraps s p x i n fun r => r.cause = 0x05 ∧ r.addr = 0 ∧ r.info = p.iss.word.setWidth 64)

/-- R396, R399, R415: traps of a register beyond the budget, of a poisoned source and of a misaligned access. -/
def Obligations.OperandAndAlignTraps : Prop := OperandTraps ∧ AlignTraps

/-- The system registers of Table 13-4 that level 0 may not read, and those that it may not write. -/
def Sys2Proof.Claims.ReadsAbove (n : Nat) : Prop := (0x040 ≤ n ∧ n ≤ 0x048) ∨ (0x090 ≤ n ∧ n ≤ 0x09F)

/-- The system registers of Table 13-4 that level 0 may not write. -/
def Sys2Proof.Claims.WritesAbove (n : Nat) : Prop :=
  (0x010 ≤ n ∧ n ≤ 0x013) ∨ n = 0x020 ∨ (0x034 ≤ n ∧ n ≤ 0x037) ∨ (0x040 ≤ n ∧ n ≤ 0x048) ∨ n = 0x060 ∨ n = 0x070 ∨ n = 0x071 ∨
    n = 0x080 ∨ (0x090 ≤ n ∧ n ≤ 0x09F)

/-- R397: at level 0 the privileged instructions raise PRIVILEGE, with the base word in TRAP_INFO, and change nothing else;
system registers 0x060 and 0x071 are written at no level that runs. -/
def Obligations.PrivilegeTraps : Prop :=
  ∀ i x s p, URuns s p x →
    (p.b.level1 = false ∧ ((∃ a b, i = Instr.usysTlbiva a b x) ∨ (∃ a, i = .usysTlbictx a x) ∨ i = .usysRti x ∨
        (∃ d num, ReadsAbove num.toNat ∧ i = .sysr d num x) ∨ (∃ a num, WritesAbove num.toNat ∧ i = .sysw a num x)) ∨
      (∃ a, i = .sysw a 0x060 x ∨ i = .sysw a 0x071 x)) →
    ∃ r, exec i s = .next (stopIn s p [r]) ∧ GroupRec p r 0x03 0 (p.iss.word.setWidth 64) (p.g.lane p.lead).npc

/-- R400, R401: a `call` or `brx.call` that the slice has no room for raises CALL_DEPTH with the target and the depth, and `ctl.ret` at
depth 0 raises it with neither; nothing is stored, and the lane is as it was. -/
def Sys2Proof.Claims.CallTraps : Prop :=
  (∀ c neg disp x s p n, Runs s p (.call c neg disp x) x → p.exec x = [n] → (p.g.lane n).npc = p.iss.pc → (p.g.lane n).hold = .none →
    p.g.stop = none → targetOk s p.b (dispAddr p disp - bodyStart s p.b).toNat = true → (p.g.lane n).prd c ≠ (neg == 1) →
    p.b.privBytes < 4 * ((p.g.lane n).cd + 1) →
    LaneTraps s p x (.call c neg disp x) n fun r =>
      r.cause = 0x0D ∧ r.addr = dispAddr p disp - bodyStart s p.b ∧ r.info = BitVec.ofNat 64 (p.g.lane n).cd) ∧
  (∀ a x s p n, Runs s p (.brxCall a x) x → p.exec x = [n] → (p.g.lane n).npc = p.iss.pc → (p.g.lane n).hold = .none →
    p.g.stop = none → targetOk s p.b (src32 p.g (p.g.lane n) a).toNat = true → p.b.privBytes < 4 * ((p.g.lane n).cd + 1) →
    LaneTraps s p x (.brxCall a x) n fun r =>
      r.cause = 0x0D ∧ r.addr = (src32 p.g (p.g.lane n) a).setWidth 64 ∧ r.info = BitVec.ofNat 64 (p.g.lane n).cd) ∧
  (∀ x s p n, Runs s p (.ctlRet x) x → p.exec x = [n] → (p.g.lane n).npc = p.iss.pc → (p.g.lane n).hold = .none → p.g.stop = none →
    (p.g.lane n).cd = 0 →
    LaneTraps s p x (.ctlRet x) n fun r => r.cause = 0x0D ∧ r.addr = 0 ∧ r.info = 0)

/-- R400: a body offset that is no multiple of 4, lies at or beyond the end of the running body, or stands after an extension word is no
target. The one executing lane of `brx.jmp`, `brx.call` or `ctl.ret` with such a target `t` raises ALIGN (0x08) with BODY + `t` in TRAP_ADDR
and 4 in TRAP_INFO; the lane is as it was, and nothing is stored. -/
def Sys2Proof.Claims.TargetTraps : Prop :=
  (∀ s b t, (t % 4 ≠ 0 ∨ ∀ v d, bodyOf s b = some (v, d) → d.len ≤ t ∨
      4 ≤ t ∧ (bodyWord s v d (t - 4)).extractLsb' 25 6 = 0x3F#6) → targetOk s b t = false) ∧
  (∀ a x s p n, Runs s p (.brxJmp a x) x → p.exec x = [n] → targetOk s p.b (src32 p.g (p.g.lane n) a).toNat = false → ∃ r,
    exec (.brxJmp a x) s = .next (stopIn (lanesStay s p x) p [r]) ∧ r.cause = 0x08 ∧ r.src = 0 ∧ r.grp = p.iss.grp ∧ r.lane = n ∧
    r.addr = bodyStart s p.b + (src32 p.g (p.g.lane n) a).setWidth 64 ∧ r.info = 4 ∧ r.npc = (p.g.lane n).npc) ∧
  (∀ a x s p n, Runs s p (.brxCall a x) x → p.exec x = [n] → (p.g.lane n).npc = p.iss.pc → (p.g.lane n).hold = .none →
    p.g.stop = none → targetOk s p.b (src32 p.g (p.g.lane n) a).toNat = false →
    LaneTraps s p x (.brxCall a x) n fun r =>
      r.cause = 0x08 ∧ r.addr = bodyStart s p.b + (src32 p.g (p.g.lane n) a).setWidth 64 ∧ r.info = 4) ∧
  (∀ x s p n, Runs s p (.ctlRet x) x → p.exec x = [n] → (p.g.lane n).npc = p.iss.pc → (p.g.lane n).hold = .none → p.g.stop = none →
    slicesClean s p → 0 < (p.g.lane n).cd → targetOk s p.b (topReturn p n) = false →
    LaneTraps s p x (.ctlRet x) n fun r =>
      r.cause = 0x08 ∧ r.addr = bodyStart s p.b + BitVec.ofNat 64 (topReturn p n) ∧ r.info = 4)

/-- R48, R233, R352, R358, R400: the traps of a dispatch of one lane. A guest breakpoint that matches raises GUEST_BREAK (0x11) before the fetch, with
GCB + GPC and its number, at either dispatch, before a lane enters the pool too. An entry of all ones raises GUEST_UNDEF (0x10), with the
address of the entry and the opcode, and an entry that is no target ALIGN (0x08): at a dispatch the lane stays at its instruction with the
opcode in GOP; at the end of a round, in its new group, its record has RG set. What the thread's commands read of their sources first is the
model's choice (log 135). -/
def Sys2Proof.Claims.GuestTraps : Prop :=
  let entryTrap := fun (s : State) (b : Block) (va : DWord) (gop : Byte) (t : Nat) (r : TrapRec) =>
    if t = 0xFFFFFFFF then r.cause = 0x10 ∧ r.addr = va ∧ r.info = gop.setWidth 64
    else r.cause = 0x08 ∧ r.addr = bodyStart s b + BitVec.ofNat 64 t ∧ r.info = 4
  (∀ i x s p n k, (i = Instr.guestDispatch x ∨ i = .guestDispatchRg x ∧ p.g.grgMode = 0) → Runs s p i x → p.exec x = [n] →
    (p.g.lane n).npc = p.iss.pc → (p.g.lane n).hold = .none → p.g.stop = none → (p.g.lane n).once = false →
    breakpoint (ctxOf s p.b.part p.b.ctx) (p.g.lane n).gpc = some k →
    LaneTraps s p x i n fun r => r.cause = 0x11 ∧ r.addr = p.g.gcb + (p.g.lane n).gpc ∧ r.info = BitVec.ofNat 64 k ∧ r.rg = false) ∧
  (∀ x s p n k, pathOf s = some p → p.lanes = [n] → p.g.grgMode ≠ 0 → p.g.loads.openOf n = 0 → (p.g.lane n).once = false →
    (∃ q g j, p.b.group q = some g ∧ g.stop = none ∧ (g.lane j).live = true ∧ j < 32 ∧ (g.lane j).hold ≠ .pool ∧ q ≠ p.iss.grp) →
    breakpoint (ctxOf s p.b.part p.b.ctx) (p.g.lane n).gpc = some k → ∃ r,
    exec (.guestDispatchRg x) s = .next (stopIn (withGroup s p (withLanes p fun _ l => { l with once := false })) p [r]) ∧
    r.cause = 0x11 ∧ r.src = 0 ∧ r.grp = p.iss.grp ∧ r.lane = n ∧ r.addr = p.g.gcb + (p.g.lane n).gpc ∧ r.info = BitVec.ofNat 64 k ∧
    r.npc = (p.g.lane n).npc ∧ r.rg = false) ∧
  (∀ i x s p n s1 s2 pl pe, (i = Instr.guestDispatch x ∨ i = .guestDispatchRg x ∧ p.g.grgMode = 0) →
    Runs s p i x → p.exec x = [n] →
    (p.g.lane n).once = true ∨ breakpoint (ctxOf s p.b.part p.b.ctx) (p.g.lane n).gpc = none →
    checkAccess s p.b p.iss.grp n .read (.global (p.g.gcb + (p.g.lane n).gpc)) 1 = (s1, .ok pl) →
    let gop := BitVec.ofNat 8 (valueAt (sealed s1 p n) p n pl 1)
    let t1 := touchPlace (sealed s1 p n) p.b.core (drawOf s n 900) pl 1
    let va := p.g.ght + BitVec.ofNat 64 ((if p.b.lbody then 1024 else 0) + 4 * gop.toNat)
    checkAccess t1 p.b p.iss.grp (n + 64) .read (.global va) 4 = (s2, .ok pe) →
    let t := valueAt (sealed s2 p n) p (n + 64) pe 4
    t = 0xFFFFFFFF ∨ targetOk s p.b t = false → ∃ r,
    exec i s = .next (stopIn (withGroup (touchPlace (sealed s2 p n) p.b.core (drawOf s (n + 64) 900) pe 4) p (withLanes p fun m l =>
      if guardHolds x (p.g.lane m) then
        { l with gop := gop, npc := p.iss.pc, hold := .none, once := false, seen := (p.g.lane m).seen }
      else goTo l p.iss.next)) p [r]) ∧
    entryTrap s p.b va gop t r ∧ r.src = 0 ∧ r.grp = p.iss.grp ∧ r.lane = n ∧ r.npc = p.iss.pc ∧ r.gop = gop ∧ r.rg = false) ∧
  (∀ s blk k n b g s1 pl, blockOf s blk = some b → b.group k = some g → g.stop = none → n < g.lanes.length →
    let va := g.ght + BitVec.ofNat 64 ((if b.lbody then 1024 else 0) + 4 * (g.lane n).gop.toNat)
    checkAccess s b k (n + 64) .read (.global va) 4 = (s1, .ok pl) →
    let t := (loadAt (sealSources s1 b.id [(g.lane n).tid]) b (n + 64) pl 4).2
    t = 0xFFFFFFFF ∨ targetOk s b t = false → ∃ g' st r, groupOf (poolLookup true blk s (k, n)) blk k = some g' ∧
      g'.stop = some st ∧ st.recs = [r] ∧ g'.lane n = { g.lane n with hold := .none } ∧
      entryTrap s b va (g.lane n).gop t r ∧ r.src = 0 ∧ r.grp = k ∧ r.lane = n ∧ r.npc = (g.lane n).npc ∧ r.rg = true)

/-- R48, R208, R298, R352, R400, R401: breakpoints, `usys.svc` at level 0, and the traps of calls, returns, indirect targets and dispatches. -/
def Obligations.BreakAndCallTraps : Prop := BreakTraps ∧ CallTraps ∧ TargetTraps ∧ GuestTraps

/-! ### Exit (R25, R230) -/

/-- R230: `ctl.exit` of executing lanes of a block without views, whose group spawns nothing: while free lanes remain, the
executing lanes are live no more, their depth 0, and every other lane goes on or is as it was; when none remains and no other
group of the block is live, the block is resident no more. -/
def Obligations.ExitResults : Prop :=
  ∀ x s p, pathOf s = some p → p.exec x ≠ [] → p.b.views = [] → p.g.family = none → p.b.round = none →
    ((∃ n ∈ p.g.live, n ∉ p.exec x) → (∀ n ∈ p.g.live, (p.g.lane n).hold = .none) → ∃ t g',
      exec (.ctlExit x) s = .next t ∧ groupOf t p.iss.blk p.iss.grp = some g' ∧
      (∀ n ∈ p.exec x, (g'.lane n).live = false ∧ (g'.lane n).cd = 0 ∧ (g'.lane n).priv = []) ∧
      (∀ n ∈ p.g.live, n ∉ p.exec x →
        g'.lane n = if n ∈ p.lanes then goTo (p.g.lane n) p.iss.next else p.g.lane n) ∧
      (∀ g, groupOf s p.iss.blk p.iss.grp = some g → g'.ureg = g.ureg ∧ g'.upred = g.upred) ∧ t.dram = s.dram ∧ t.dsp = s.dsp ∧ t.clusters = s.clusters) ∧
    ((∀ n ∈ p.g.live, n ∈ p.exec x) → p.b.liveGroups = [p.iss.grp] → ∃ t,
      exec (.ctlExit x) s = .next t ∧ ∀ b ∈ t.blocks, b.id ≠ p.iss.blk)

/-! ### Full/empty accesses (R123, R124, R258) -/

/-- One lane issues a full/empty instruction to granule `k` of space `sp`, and nothing else waits on a granule. -/
def Sys2Proof.Claims.FeAlone (s : State) (p : Path) (i : Instr) (x : LExt) (n : Nat) (t : Target) (len : Nat) (pl : Place)
    (sp : FeSpace) (k : Nat) : Prop :=
  Runs s p i x ∧ p.lanes = [n] ∧ p.exec x = [n] ∧ (p.g.lane n).npc = p.iss.pc ∧ s.feq = [] ∧
    (∀ m next, (p.g.lane m).hold ≠ .fe next) ∧ checkRange s p.b p.iss.grp n .rmw t len = (s, .ok pl) ∧
    placePoisoned s pl len = false ∧ pl.granule = some (sp, k)

/-- R123, R124, R258: `ldfe` on a full granule loads and goes on, the granule then empty for the codes from 5 on; `stfe` on an
empty granule stores, fills it and goes on; on a granule that does not allow it the lane waits at the instruction. -/
def Obligations.FullEmptyResults : Prop :=
  ∀ d a size hs off x s p n pl sp k, 2 ≤ size.toNat →
    (FeAlone s p (.ldfe d a size hs off x) x n (feAt x p (p.g.lane n) a off hs size) (feLen size) pl sp k →
      if isFull s sp k then ∃ t g', exec (.ldfe d a size hs off x) s = .next t ∧ groupOf t p.iss.blk p.iss.grp = some g' ∧
          g'.lane n = { (p.g.lane n).dstBits d (regBits (feLen size)) (valueAt s p n pl (feLen size)) with
            npc := p.iss.next, once := false, hold := .none } ∧
          isFull t sp k = decide (size.toNat < 5) ∧ t.feq = []
      else ∃ t g', exec (.ldfe d a size hs off x) s = .next t ∧ groupOf t p.iss.blk p.iss.grp = some g' ∧
          g'.lane n = { p.g.lane n with hold := .fe p.iss.next } ∧ t.feq.map FeWait.lane = [n] ∧ isFull t sp k = false) ∧
    (FeAlone s p (.stfe d a size hs off x) x n (feAt x p (p.g.lane n) a off hs size) (feLen size) pl sp k →
      if isFull s sp k then ∃ t g', exec (.stfe d a size hs off x) s = .next t ∧ groupOf t p.iss.blk p.iss.grp = some g' ∧
          g'.lane n = { p.g.lane n with hold := .fe p.iss.next } ∧ t.feq.map FeWait.lane = [n] ∧ isFull t sp k = true
      else ∃ t g', exec (.stfe d a size hs off x) s = .next t ∧ groupOf t p.iss.blk p.iss.grp = some g' ∧
          g'.lane n = { p.g.lane n with npc := p.iss.next, once := false, hold := .none } ∧ isFull t sp k = true ∧
          t.feq = [] ∧ ∀ j, (pl.shift j).byte t 0 0 = (pl.shift j).byte (writePlace s pl (leBytes (feLen size)
            (srcBits p.g (p.g.lane n) d (8 * feLen size)))) 0 0)

/-! ### Uniform instructions (chapter 13) -/

/-- R295, R296, R297: the 64-bit arithmetic and moves, the compares, the predicate logic and the branch of the uniform half:
one execution for the path; the group's other registers, its lanes' registers and all memory are as before. -/
def Sys2Proof.Claims.UniformResults : Prop :=
  UWord2 .ualuAdd (fun u v => u + v) ∧ UWord2 .ualuSub (fun u v => u - v) ∧ UWord2 .ualuAnd (fun u v => u &&& v) ∧
  UWord2 .ualuOr (fun u v => u ||| v) ∧ UWord2 .ualuXor (fun u v => u ^^^ v) ∧ UWord2 .ualuMul (fun u v => u * v) ∧
  UWord2 .ualuShl (fun u v => if v.toNat < 64 then BitVec.ofNat 64 (u.toNat * 2 ^ v.toNat) else 0) ∧
  UWord2 .ualuShr (fun u v => if v.toNat < 64 then BitVec.ofNat 64 (u.toNat / 2 ^ v.toNat) else 0) ∧
  UWord2 .ualuSar (fun u v => if v.toNat < 64 then BitVec.ofInt 64 (u.toInt / 2 ^ v.toNat)
    else if u.toInt < 0 then BitVec.ofInt 64 (-1) else 0) ∧
  UWord2 .ualuMins (fun u v => BitVec.ofInt 64 (min u.toInt v.toInt)) ∧
  UWord2 .ualuMaxs (fun u v => BitVec.ofInt 64 (max u.toInt v.toInt)) ∧
  UWord2 .ualuMinn (fun u v => BitVec.ofNat 64 (min u.toNat v.toNat)) ∧
  UWord2 .ualuMaxn (fun u v => BitVec.ofNat 64 (max u.toNat v.toNat)) ∧
  (∀ d a imm, UOwn (.uaddi d a imm) fun x g => g.udst d.toNat (BitVec.ofInt 64 ((g.usrc a.toNat).toInt + simm x.imm imm))) ∧
  (∀ d imm, UOwn (.umovi d imm) fun x g => g.udst d.toNat (BitVec.ofInt 64 (simm x.imm imm))) ∧
  (∀ d imm, UOwn (.umovhi d imm) fun x g =>
    g.udst d.toNat (BitVec.ofNat 32 (nimm x.imm imm) ++ (g.usrc d.toNat).extractLsb' 0 32)) ∧
  UPred2 .ucmpEq (fun u v => u == v) ∧ UPred2 .ucmpNe (fun u v => u != v) ∧
  UPred2 .ucmpLts (fun u v => u.slt v) ∧ UPred2 .ucmpLes (fun u v => u.sle v) ∧
  UPred2 .ucmpGts (fun u v => v.slt u) ∧ UPred2 .ucmpGes (fun u v => v.sle u) ∧
  UPred2 .ucmpLtn (fun u v => u.ult v) ∧ UPred2 .ucmpLen (fun u v => u.ule v) ∧
  UPred2 .ucmpGtn (fun u v => v.ult u) ∧ UPred2 .ucmpGen (fun u v => v.ule u) ∧
  (∀ q a b, UOwn (.ucmpQand q a b) fun _ g => g.qwr q.toNat (g.qrd a.toNat && g.qrd b.toNat)) ∧
  (∀ q a b, UOwn (.ucmpQor q a b) fun _ g => g.qwr q.toNat (g.qrd a.toNat || g.qrd b.toNat)) ∧
  (∀ q a b, UOwn (.ucmpQxor q a b) fun _ g => g.qwr q.toNat (g.qrd a.toNat != g.qrd b.toNat)) ∧
  (∀ q neg disp x s p, URuns s p x → targetOk s p.b (dispAddr p disp - bodyStart s p.b).toNat = true →
    exec (.ubr q neg disp x) s =
      .next (uniNext s p (if p.g.qrd q.toNat != (neg == 1) then dispAddr p disp else p.iss.next) id))

/-- R268, R62, R78, R91, R118: the uniform instructions that their path executes only when every live lane of its group is in it: arrivals
above level 0, phases, merges, moves and budgets. -/
def Sys2Proof.Claims.meets : Instr → Bool
  | .barArrive _ _ level _ | .barArriveCnt _ _ _ level _ | .barSync _ level _ => level != 0
  | .taskPhase _ _ | .taskMerge _ | .migL _ _ | .migD _ _ | .migAuto _ _
  | .regaGrowWait _ _ | .regaGrowTry _ _ _ | .regaShrink _ _ => true
  | _ => false

/-- R177, R268: EVERY uniform instruction whose guard does not hold moves its path to NEXT and has no other effect; one that needs
reconvergence does so once every live lane of its group is in the path, and the lanes' holds end. -/
def Sys2Proof.Claims.UniformGuard : Prop :=
  ∀ (i : Instr) (x : UExt) s p, i.uext = some x → pathOf s = some p → uguardHolds x p.g = false →
    (meets i = true → ∀ n ∈ p.g.live, n ∈ p.lanes) →
    exec i s = .next (atNext (if meets i then freed s p else s) p)

/-- R177, R295 to R297: the uniform arithmetic, compares, predicates and branch; and a guard that does not hold. -/
def Obligations.UniformInstructionResults : Prop := UniformResults ∧ UniformGuard

/-- R265, R266: uniform loads and stores of eight bytes at a place that the checks give, and the copy of a lane register of
the path's lowest lane, or of a lane that a register names, 0 where that lane is not of the path.
Model choices: logs 110, 135. -/
def Obligations.UniformMoves : Prop :=
  (∀ d a imm x s p s1 pl, URuns s p x →
    checkAccess s p.b p.iss.grp p.lead .read (.global (p.g.usrc a.toNat + BitVec.ofInt 64 (simm x.imm imm * 8))) 8 =
      (s1, .ok pl) →
    let s2 := sealSources s1 p.iss.blk (p.lanes.map fun i => (p.g.lane i).tid)
    exec (.uld d a imm x) s = .next (uniNext (touchPlace s2 p.b.core (drawOf s1 p.lead 900) pl 8) p p.iss.next fun g =>
      { g.udst d.toNat (BitVec.ofNat 64 (valueAt s2 p p.lead pl 8)) with loads := oneMoreOf (sysMark pl g.loads) p.iss.lanes p.iss.word })) ∧
  (∀ d a imm x s p s1 pl, URuns s p x →
    checkAccess s p.b p.iss.grp p.lead .write (.global (p.g.usrc a.toNat + BitVec.ofInt 64 (simm x.imm imm * 8))) 8 =
      (s1, .ok pl) → storeLost s1 p.b.part pl = false →
    exec (.ust d a imm x) s = .next (uniNext (coverPlace (writePlace
      (sealSources s1 p.iss.blk (p.lanes.map fun i => (p.g.lane i).tid)) pl (leBytes 8 (p.g.usrc d.toNat).toNat)) pl 8) p
      p.iss.next fun g => { g with stores := oneMoreOf g.stores p.iss.lanes p.iss.word })) ∧
  (∀ d a x s p, URuns s p x → p.lanes ≠ [] → a.toNat < 8 * p.g.budget →
    isPoisoned s (.reg p.iss.blk p.iss.grp p.lead a.toNat) = false →
    exec (.umovlFirst d a x) s = .next (uniNext s p p.iss.next fun g =>
      g.udst d.toNat (0#32 ++ (p.g.lane p.lead).reg a.toNat))) ∧
  (∀ d a b x s p, URuns s p x → a.toNat < 8 * p.g.budget →
    let k := (p.g.usrc b.toNat).toNat % 32
    (k ∈ p.lanes → isPoisoned s (.reg p.iss.blk p.iss.grp k a.toNat) = false) →
    exec (.umovlLane d a b x) s = .next (uniNext s p p.iss.next fun g =>
      g.udst d.toNat (if k ∈ p.lanes then 0#32 ++ (p.g.lane k).reg a.toNat else 0)))

/-- R298, R109, R310, R349: `usys.nop`; `usys.svc` at level 1, which leaves a request and holds its path; the TLB
invalidations, which drop just the translations that they name, in every TLB, once what engines have still to write in the range has
landed (log 134); `usys.rti` of a handler whose stop has other records that are
not returned yet, of a handler of a notice, and of a level-1 group that is no handler. -/
def Sys2Proof.Claims.SupervisorResults : Prop :=
  (∀ x s p, URuns s p x → exec (.usysNop x) s = .next (atNext s p)) ∧
  (∀ a x s p, URuns s p x → p.b.level1 = true → (p.g.usrc a.toNat).toNat % 64 = 0 →
    exec (.usysSvc a x) s = .next (modPart (held s p (.svc p.iss.next (p.g.usrc a.toNat))) p.b.part fun q =>
      { q with reqs := q.reqs ++ [{ host := false, ctx := p.b.ctx, va := p.g.usrc a.toNat }] })) ∧
  (∀ a b x s p, URuns s p x → p.b.level1 = true → canonical (p.g.usrc a.toNat) = true →
    let va := (p.g.usrc a.toNat).toNat % 2 ^ 57
    let c := p.g.usrc b.toNat
    va % 65536 = 0 → c.extractLsb' 4 12 = 0 →
    let high := va + (c.extractLsb' 16 48).toNat * 65536
    let t := landRange s p.b.part p.b.ctx (c.extractLsb' 0 4).toNat va high
    exec (.usysTlbiva a b x) s = .next (atNext { t with tlb := s.tlb.filter fun e =>
      !(e.part == p.b.part && e.ctx == p.b.ctx && e.trc == (c.extractLsb' 0 4).toNat && decide (e.va < high) &&
        decide (va < e.va + e.size)) } p)) ∧
  (∀ a x s p, URuns s p x → p.b.level1 = true → (p.g.usrc a.toNat).toNat < 16 →
    exec (.usysTlbictx a x) s = .next (atNext { landRange s p.b.part p.b.ctx (p.g.usrc a.toNat).toNat 0 (2 ^ 57) with
      tlb := s.tlb.filter fun e =>
        !(e.part == p.b.part && e.ctx == p.b.ctx && e.trc == (p.g.usrc a.toNat).toNat) } p)) ∧
  (∀ x s p, URuns s p x → p.b.level1 = true →
    (∀ slot k, p.b.origin = .handler slot k → familyBroken s p.g = false →
      (∀ q, stopOf (returnRec (killGroup s p.iss.blk p.iss.grp) p.b.part p.b.ctx slot k) p.b.part p.b.ctx slot = some q →
        ∃ r ∈ q.recs, r.returned = false) →
      exec (.usysRti x) s = .next (returnRec (killGroup s p.iss.blk p.iss.grp) p.b.part p.b.ctx slot k)) ∧
    (∀ r, p.b.origin = .notice r → familyBroken s p.g = false →
      exec (.usysRti x) s = .next (killGroup s p.iss.blk p.iss.grp)) ∧
    (p.b.origin = .node → p.lanes ≠ [] → p.b.views = [] → p.g.family = none →
      exec (.usysRti x) s = .next (exitLanes s p.iss.blk p.iss.grp p.lanes)))

/-- R349: a stop whose records have all been returned, the stopped group's block being gone, holds its slot no longer; with
ACT 2 or 3, the stopped group being the only live one of its block, the block is resident no more. No block of that id waits to be
placed again (R387). -/
def Sys2Proof.Claims.StopReturns : Prop :=
  ∀ s p c slot q, stopOf s p c slot = some q → (∀ r ∈ q.recs, r.returned = true) →
    (∀ b ∈ (partOf s p).resume, b.id ≠ q.blk) →
    (blockOf s q.blk = none → (cfind s.parts p).isSome = true → (cfind (partOf s p).ctxs c).isSome = true →
      stopOf (finishStop s p c slot) p c slot = none) ∧
    (∀ b g, blockOf s q.blk = some b → b.group q.grp = some g → g.stop.bind Stop.slot = some slot →
      b.liveGroups = [q.grp] → g.family = none → (∃ r ∈ q.recs, 2 ≤ r.act.toNat) →
      ∀ b' ∈ (finishStop s p c slot).blocks, b'.id ≠ q.blk)

/-- R109, R298, R310, R349: `usys`, and the end of a stop. -/
def Obligations.SupervisorAndStopResults : Prop := SupervisorResults ∧ StopReturns

/-! ### Barriers, counted completion and fences (chapter 12) -/

/-- R45: a path that a barrier instruction of its level lets go on: level 0, or every live lane of its group is there. -/
def Sys2Proof.Claims.Together (p : Path) (level : BitVec 2) : Prop := level = 0 ∨ ∀ n ∈ p.g.live, n ∈ p.lanes

/-- The state in which such an instruction acts: at the levels above 0 the path's lanes are held no more. -/
def Sys2Proof.Claims.gathered (s : State) (p : Path) (level : BitVec 2) : State := if level = 0 then s else freed s p

/-- R45: at a level above 0 a path that has not every live lane of its group is held for reconvergence. -/
def Sys2Proof.Claims.BarrierHolds : Prop :=
  ∀ desc slot (level : BitVec 2) x s p m, level ≠ 0 → pathOf s = some p → m ∈ p.g.live → m ∉ p.lanes →
    (p.g.lane m).hold ≠ .reconv →
    exec (.barArrive desc slot level x) s = .next (held s p .reconv) ∧ exec (.barSync slot level x) s = .next (held s p .reconv)

/-- R270: every earlier access of the path's lanes is complete. -/
def Sys2Proof.Claims.Settled (p : Path) : Prop := ∀ n ∈ p.lanes, p.g.loads.openOf n = 0 ∧ p.g.stores.openOf n = 0

/-- R142, R267, R270: `bar.arrive`, with the member count, and `bar.arrive.cnt`, with a count that agrees, write the slot's parity
and arrive; while an earlier access of a lane of the path is not complete, an arrival waits and has no effect. -/
def Sys2Proof.Claims.ArriveResults : Prop :=
  (∀ desc addr slot level x s p, URuns s p x → Together p level → ¬Settled p →
    ∀ i ∈ [Instr.barArrive desc slot level x, .barArriveCnt desc addr slot level x, .barSync slot level x],
      exec i s = .next (held s p (.retry .waitc))) ∧
  ∀ desc addr slot level x s p, URuns s p x → Together p level → Settled p →
    let k := slotKey p level slot
    let latch := (slotOf s k).bind BarSlot.latch
    let t := withGroup (gathered s p level) p fun g => g.udst desc.toNat (if parityOf s k then 1 else 0)
    (latch ≠ none ∨ members s k < 2 ^ 31 →
      exec (.barArrive desc slot level x) s = .next (atNext (arriveSlot t k (members s k)) p)) ∧
    (∀ n, n = ((p.g.usrc addr.toNat).extractLsb' 0 32).toNat → latch = some n ∨ latch = none ∧ 0 < n ∧ n ≤ members s k ∧ n < 2 ^ 31 →
      exec (.barArriveCnt desc addr slot level x) s = .next (atNext (arriveSlot t k n) p))

/-- R144, R267: `bar.wait` goes on when the slot's parity is not the one named and waits on the slot else; `bar.expect` adds
to the expected byte count; `bar.sync` arrives and waits for the phase it arrived in. -/
def Sys2Proof.Claims.WaitResults : Prop :=
  ∀ desc slot level x s p, URuns s p x →
    let k := slotKey p level slot
    (exec (.barWait desc slot level x) s = .next (
      let named := (p.g.usrc desc.toNat).getLsbD 0
      if parityOf s k = named then held s p (.slot k p.iss.next false named) else atNext s p)) ∧
    (∀ b n, slotOf s k = some b → n = ((p.g.usrc desc.toNat).extractLsb' 0 32).toNat →
      b.expected + n < 2 ^ 32 → exec (.barExpect desc slot level x) s = .next (atNext (expectSlot s k n) p)) ∧
    (Together p level → Settled p → (slotOf s k).bind BarSlot.latch ≠ none ∨ members s k < 2 ^ 31 →
      let t := arriveSlot (gathered s p level) k (members s k)
      exec (.barSync slot level x) s = .next (
        if parityOf t k = parityOf s k then held t p (.slot k p.iss.next true (parityOf s k)) else atNext t p))

/-- R45, R142, R144, R267: the barrier instructions. -/
def Obligations.BarrierResults : Prop := BarrierHolds ∧ ArriveResults ∧ WaitResults

/-- R69, R142, R385: the phases of a slot: an arrival counts, in 31 bits, and latches a count when it is the first; a byte count accrues and
saturates; an expectation adds. Once the arrivals are the latched count and the expected bytes have accrued, the phase
completes: no arrivals, no latch, nothing expected, the surplus kept, the parity turned, and no lane that waited on the slot
waits any more. That a full count of arrivals wraps is the model's choice (DESIGN CHOICE, log 142). -/
def Obligations.SlotPhases : Prop :=
  ∀ s k b, slotOf s k = some b →
    (∀ (t : State) (b1 : BarSlot),
      (∃ n, t = arriveSlot s k n ∧ b1 = { b with arrivals := (b.arrivals + 1) % 2 ^ 31, latch := some (b.latch.getD n) }) ∨
      (∃ n, t = expectSlot s k n ∧ b1 = { b with expected := b.expected + n }) ∨
      (∃ n c, t = addBytes s k n c ∧ b1 = { b with accrued := min (b.accrued + n) (2 ^ 32 - 1), cmds := b.cmds ++ [c] }) →
      if b1.latch = some b1.arrivals ∧ b1.expected ≤ b1.accrued then
        slotOf t k = some { accrued := b1.accrued - b1.expected, parity := !b.parity } ∧
        ∀ bl ∈ t.blocks, ∀ g ∈ bl.groups, g.imaged = false → ∀ l ∈ g.lanes, ∀ next sy pa, l.hold ≠ .slot k next sy pa
      else slotOf t k = some b1)

/-- R271, R133: `waitc` goes on when at most the named number of each list's last operations are incomplete, the writes of the commands that
it requires then published, and waits else; R141, R272, Table 6-2: the fences: an acquire waits while an earlier load or atomic of the path's
lanes to system-class memory is not complete, and then drops the leases of its core; a release waits while a store of the partition to
system-class memory is not visible. That a fence which is executed again waits also for stores made since it first
issued, where Table 6-2 names those that precede it, is the model's choice (DESIGN CHOICE, log 117). -/
def Obligations.CompletionResults : Prop :=
  ∀ x s p, URuns s p x →
    (∀ (nl ns nc nt : BitVec 4),
      let few := fun (c : CountList) (n : Nat) => ∀ e ∈ c.pend, c.issued ≤ e + n
      let due := fun (c : CountList) (n : Nat) => (c.cmds.filter fun q => q.1 + n < c.issued).map Prod.snd
      let keep := fun (c : CountList) (n : Nat) => { c with cmds := c.cmds.filter fun q => c.issued ≤ q.1 + n }
      (few p.g.loads nl.toNat ∧ few p.g.stores ns.toNat ∧ few p.g.copies nc.toNat ∧ few p.g.tiles nt.toNat →
        exec (.waitc nl ns nc nt x) s = .next (atNext (withGroup
          ((due p.g.copies nc.toNat ++ due p.g.tiles nt.toNat).foldl publish s) p fun g =>
            { g with copies := keep g.copies nc.toNat, tiles := keep g.tiles nt.toNat }) p)) ∧
      (¬(few p.g.loads nl.toNat ∧ few p.g.stores ns.toNat ∧ few p.g.copies nc.toNat ∧ few p.g.tiles nt.toNat) →
        exec (.waitc nl ns nc nt x) s = .next (held s p (.retry .waitc)))) ∧
    let acquired := (.next (atNext { s with poolLeases := s.poolLeases.filter fun l => l.core != p.b.core } p) : Out)
    let waits := (.next (held s p (.retry .waitc)) : Out)
    let far := fun (c : CountList) n => ∃ e ∈ c.lanes, e.1 ∈ c.sys ∧ e.2.getLsbD n = true
    (unreleased s p.b.part = false → exec (.fenceSysRel x) s = .next (atNext s p)) ∧
    ((∀ n ∈ p.lanes, ¬far p.g.loads n ∧ ¬far p.g.stores n) → exec (.fenceSysAcq x) s = acquired ∧
      (unreleased s p.b.part = false → exec (.fenceSysFull x) s = acquired)) ∧
    ((∃ n ∈ p.lanes, far p.g.loads n ∨ far p.g.stores n) → exec (.fenceSysAcq x) s = waits ∧
      (unreleased s p.b.part = false → exec (.fenceSysFull x) s = waits)) ∧
    (unreleased s p.b.part = true → exec (.fenceSysRel x) s = .next (held s p (.retry .fence)) ∧
      exec (.fenceSysFull x) s = .next (held s p (.retry .fence)))

/-! ### Matrix engine, leases and gangs (chapter 13) -/

/-- R277: a path of one member group that the engine serves alone, and whose fragments lie in its budget and are not
poisoned. -/
structure Sys2Proof.Claims.Solo (s : State) (p : Path) (va vb : BitVec 7) (shape : BitVec 4) : Prop where
  path : pathOf s = some p
  whole : ∀ n ∈ p.g.live, n ∈ p.lanes
  serves : engineServes s p.b p.iss.grp = true
  alone : jointFor p.b p.iss.grp = false
  budget : va.toNat + fragRegs shape.toNat ≤ 8 * p.g.budget ∧ vb.toNat + fragRegs shape.toNat ≤ 8 * p.g.budget
  clean : ∀ n k, isPoisoned s (.reg p.iss.blk p.iss.grp n k) = false

/-- R276, R277, R96: the four solo `mma`: with room the engine accepts an operation that holds every register of the 32 lanes
of both fragments, and s15 for the two triangular functions, no k-step done, OPS counts it, no accumulator changes yet, and the path goes on; without room the path waits. -/
def Obligations.MmaResults : Prop :=
  ∀ mk : (BitVec 7 → BitVec 7 → BitVec 2 → BitVec 4 → LExt → Instr) × Nat,
    mk ∈ [(Instr.mmaAdd, 0), (.mmaSet, 1), (.mmaTri, 2), (.mmaTriset, 3)] →
    ∀ va vb acc shape x s p g0, Solo s p va vb shape → groupOf s p.iss.blk p.iss.grp = some g0 →
      ((coreOf s p.b.core).ops.length ≤ 2 → ∃ t fa fb g',
        exec (mk.1 va vb acc shape x) s = .next t ∧ groupOf t p.iss.blk p.iss.grp = some g' ∧
        (coreOf t p.b.core).ops = (coreOf s p.b.core).ops ++
          [.mma p.b.id mk.2 acc.toNat shape.toNat fa fb (if 2 ≤ mk.2 then g0.usrc 15 else 0) p.iss.word p.iss.grp 0] ∧
        (coreOf t p.b.core).acc = (coreOf s p.b.core).acc ∧
        (∀ r n, r < fragRegs shape.toNat → n < 32 → cget 0 fa (32 * r + n) = (p.g.lane n).reg (va.toNat + r) ∧
          cget 0 fb (32 * r + n) = (p.g.lane n).reg (vb.toNat + r)) ∧
        (∀ n ∈ p.g.live, (g'.lane n).npc = p.iss.next ∧ (g'.lane n).hold = .none ∧ (g'.lane n).regs = (p.g.lane n).regs) ∧
        ∀ b', blockOf t p.iss.blk = some b' →
          b'.lease.ops = if leaseCapOf s p.b ≤ p.b.lease.ops + 1 ∧ (coreOf s p.b.core).leaseQueue = [] then 0
            else p.b.lease.ops + 1) ∧
      (2 < (coreOf s p.b.core).ops.length →
        exec (mk.1 va vb acc shape x) s = .next (held s p (.retry .lease)))

/-- R280: the accumulator element that chunk `c` names in lane `n`: row c/2, column 32·(c mod 2) + n of 64. -/
def Sys2Proof.Claims.elemOf (acc : BitVec 2) (c : Word) (n : Nat) : Nat :=
  let k := (c.extractLsb' 0 7).toNat
  4096 * acc.toNat + 64 * (k / 2) + 32 * (k % 2) + n

/-- R280: `mfrag` of one executing lane while the engine serves its group and has nothing left to perform: a read, a write,
and the zeroing of an accumulator, which changes no element of the other three. -/
def Obligations.FragmentResults : Prop :=
  ∀ (d b : BitVec 7) (acc : BitVec 2) x s p, engineServes s p.b p.iss.grp = true → (coreOf s p.b.core).ops = [] →
    (∀ n, Runs s p (.mfragRd d acc b x) x → p.exec x = [n] → n < 32 →
      let k := elemOf acc (src32 p.g (p.g.lane n) b) n
      isPoisoned s (.acc p.iss.blk acc.toNat (k % 4096)) = false →
      exec (.mfragRd d acc b x) s = .next (cleaned (memNext s p x fun _ l => l.dst32 d (cget 0 (coreOf s p.b.core).acc k)) p
        (.mfragRd d acc b x) n)) ∧
    (∀ n, Runs s p (.mfragWr d acc b x) x → p.exec x = [n] → n < 32 → csorted (coreOf s p.b.core).acc = true → ∃ t g',
      exec (.mfragWr d acc b x) s = .next t ∧ groupOf t p.iss.blk p.iss.grp = some g' ∧
      (∀ k, cget 0 (coreOf t p.b.core).acc k = if k = elemOf acc (src32 p.g (p.g.lane n) b) n
        then src32 p.g (p.g.lane n) d else cget 0 (coreOf s p.b.core).acc k) ∧
      (g'.lane n).npc = p.iss.next ∧ (g'.lane n).regs = (p.g.lane n).regs) ∧
    (pathOf s = some p → p.exec x ≠ [] → ∃ t g',
      exec (.mfragZero acc x) s = .next t ∧ groupOf t p.iss.blk p.iss.grp = some g' ∧
      (∀ k, k / 4096 = acc.toNat → cget 0 (coreOf t p.b.core).acc k = 0) ∧
      (csorted (coreOf s p.b.core).acc = true → ∀ k, k / 4096 ≠ acc.toNat →
        cget 0 (coreOf t p.b.core).acc k = cget 0 (coreOf s p.b.core).acc k) ∧
      (∀ n ∈ p.lanes, (g'.lane n).npc = p.iss.next) ∧ ∀ n, (g'.lane n).regs = (p.g.lane n).regs)

/-- R95, R96, R281: the gang instructions, in a block whose latch is empty: a legal list and a baton passed to a live group
are taken, and paths of the block that wait for the engine issue again; a lease is asked for once; a release gives the engine
up, its accumulators saved, once every accepted operation is done. -/
def Obligations.GangResults : Prop :=
  ∀ a x s p, URuns s p x →
    let v := p.g.usrc a.toNat
    let again := fun t => wakeRetry t (fun k => k = p.iss.blk) .lease
    let lease := fun (f : Lease → Lease) => modBlock s p.iss.blk fun b => { b with lease := f b.lease }
    ((∀ b ∈ s.blocks, b.id = p.iss.blk → b.latch = []) →
      (v.toNat < 2 ^ 32 → (maskLanes (v.setWidth 32) = [] ∨ 2 ≤ (maskLanes (v.setWidth 32)).length ∧
          (maskLanes (v.setWidth 32)).length ≤ 6) → (∀ g ∈ maskLanes (v.setWidth 32), g ∈ p.b.liveGroups) →
        exec (.gangList a x) s = .next (atNext (again (lease fun l => { l with gang := v.setWidth 32 })) p)) ∧
      (p.iss.grp = p.b.lease.baton → v.toNat < 32 → v.toNat ∈ p.b.liveGroups →
        exec (.gangBaton a x) s = .next (atNext (again (lease fun l => { l with baton := v.toNat })) p))) ∧
    (exec (.gangLease x) s = .next (atNext (
      if (coreOf s p.b.core).holder = some p.iss.blk ∨ p.iss.blk ∈ (coreOf s p.b.core).leaseQueue then s
      else modCore (lease fun l => { l with asker := p.iss.grp, asked := s.tick }) p.b.core fun c =>
        { c with leaseQueue := c.leaseQueue ++ [p.iss.blk] }) p)) ∧
    ((coreOf s p.b.core).holder ≠ some p.iss.blk → exec (.gangRelease x) s = .next (atNext s p)) ∧
    ((coreOf s p.b.core).holder = some p.iss.blk → (coreOf s p.b.core).ops = [] → ∃ t,
      exec (.gangRelease x) s = .next t ∧ (coreOf t p.b.core).holder = none ∧ (coreOf t p.b.core).acc = [] ∧
      ∀ b', blockOf t p.iss.blk = some b' → b'.lease = { p.b.lease with
        acc := (coreOf s p.b.core).acc, released := true, everHeld := true })

/-! ### Engine commands (chapter 13) -/

/-- R282, R271: the state after a path has handed a command to an engine: the command is under way with nothing done, and its
group's list of copies, of tiles, or none, is one longer. The command keeps what its image shows of its issue (Table 19-9). -/
def Sys2Proof.Claims.handed (s : State) (p : Path) (major : Nat) (key : SlotKey) (kind : CmdKind) (total : Nat)
    (copies tiles : Bool) : State :=
  let list := fun (on : Bool) (c : CountList) => if on then { oneMore c with cmds := c.cmds ++ [(c.issued, s.fresh)] } else c
  let t := withGroup s p fun g => { g with copies := list copies g.copies, tiles := list tiles g.tiles }
  { t with
    fresh := s.fresh + 1
    cmds := s.cmds ++ [{
      id := s.fresh, part := p.b.part, ctx := p.b.ctx, blk := p.iss.blk, grp := p.iss.grp, core := p.b.core
      trc := ((versionOf s p.b.ver).map Version.trc).getD 0, level1 := p.b.level1, major := major, pc := p.iss.pc, key := key
      kind := kind, total := total, cluster := p.b.cluster
      word := p.iss.word, regs := engineRegs p, eng := engineRecords s p kind, tids := p.lanes.map fun n => (p.g.lane n).tid
      copy := if copies then some p.g.copies.issued else none
      tile := if tiles then some p.g.tiles.issued else none }] }

/-- R285, R283: `cpy.lin` and `cpy.rect` with legal control words, pitches and addresses: the command moves LEN bytes of one
row, or of ROWS rows at the pitches given. -/
def Sys2Proof.Claims.CopyResults : Prop :=
  ∀ desc addr slot level x s p d f, URuns s p x →
    let dst := p.g.usrc desc.toNat
    let ctl := p.g.usrc (desc.toNat + 1)
    let src := p.g.usrc addr.toNat
    let dsp := (ctl.extractLsb' 0 3).toNat
    let ssp := (ctl.extractLsb' 3 3).toNat
    let len := (ctl.extractLsb' 8 24).toNat
    dsp ≤ 4 → ssp ≤ 4 → ctl.extractLsb' 6 2 = 0 → addrValue dsp dst % 16 = 0 → addrValue ssp src % 16 = 0 → len % 16 = 0 →
    len ≠ 0 →
    (ctl.extractLsb' 32 32 = 0 → engAddr s p true dsp dst len = .ok d → engAddr s p false ssp src len = .ok f →
      exec (.cpyLin desc addr slot level x) s =
        .next (atNext (handed s p 0x0C (slotKey p level slot) (.rect d f len 1 0 0) len true false) p)) ∧
    (let rows := (ctl.extractLsb' 32 16).toNat
      let sp := ((p.g.usrc (addr.toNat + 1)).extractLsb' 0 32).toNat
      let dp := ((p.g.usrc (addr.toNat + 1)).extractLsb' 32 32).toNat
      ctl.extractLsb' 48 16 = 0 → rows ≠ 0 → sp % 16 = 0 → dp % 16 = 0 →
      engAddr s p true dsp dst ((rows - 1) * dp + len) = .ok d → engAddr s p false ssp src ((rows - 1) * sp + len) = .ok f →
      exec (.cpyRect desc addr slot level x) s =
        .next (atNext (handed s p 0x0C (slotKey p level slot) (.rect d f len rows sp dp) (len * rows) true false) p))

/-- R286, R287: `cpy.tens` of a box within its tensor and `gather` of rows by indices of 32 and of 64 bits. -/
def Sys2Proof.Claims.GatherResults : Prop :=
  ∀ desc addr slot level x s p d, URuns s p x →
    let dst := p.g.usrc desc.toNat
    let ctl := p.g.usrc (desc.toNat + 1)
    let v := p.g.usrc addr.toNat
    let w := p.g.usrc (addr.toNat + 1)
    let dsp := (ctl.extractLsb' 0 3).toNat
    dsp ≤ 4 → ctl.extractLsb' 3 3 = 0 → ctl.extractLsb' 6 2 = 0 → addrValue dsp dst % 16 = 0 →
    (∀ bs, let off := (v.extractLsb' 32 32).toNat
      let t := tensorOf bs (scratchBytes s p off 48)
      ctl.extractLsb' 8 40 = 0 → ctl.extractLsb' 49 15 = 0 → off % 16 = 0 → off + 48 ≤ p.b.scrBytes →
      scratchPoisoned s p off 48 = false → objOf s p.b.part p.b.ctx (v.setWidth 32) = some (.shape bs) →
      tensorBad (fieldAt bs 8 1) t = false → t.extent.getD 0 1 * 2 ^ t.esz % 16 = 0 → t.base.toNat % 16 = 0 →
      engAddr s p (!ctl.getLsbD 48) dsp dst t.bytes = .ok d →
      exec (.cpyTens desc addr slot level x) s =
        .next (atNext (handed s p 0x0C (slotKey p level slot) (.tens d t (ctl.getLsbD 48)) t.bytes true false) p)) ∧
    ∀ e : (BitVec 6 → BitVec 6 → BitVec 4 → BitVec 2 → UExt → Instr) × Bool,
      e ∈ [(Instr.gatherIdx32, false), (.gatherIdx64, true)] →
      let len := (ctl.extractLsb' 8 24).toNat
      let rows := (ctl.extractLsb' 32 16).toNat
      let idx := (w.extractLsb' 0 32).toNat
      let pitch := (w.extractLsb' 32 32).toNat
      let each := if e.2 then 8 else 4
      ctl.extractLsb' 48 16 = 0 → v.toNat % 16 = 0 → len % 16 = 0 → len ≠ 0 → rows ≠ 0 → pitch % 16 = 0 →
      idx + rows * each ≤ p.b.scrBytes → idx % each = 0 → engAddr s p true dsp dst (rows * len) = .ok d →
      exec (e.1 desc addr slot level x) s = .next (atNext (handed s p 0x0D (slotKey p level slot)
        (.gather d v len pitch p.iss.blk idx e.2) (rows * len) true false) p)

/-- R283 to R287: copies and gathers. -/
def Obligations.CopyAndGatherResults : Prop := CopyResults ∧ GatherResults

/-- R284: `mdrain` with a legal control word, whose group the engine serves and for which it has room: the engine accepts the
drain behind its earlier operations; without room the path waits. -/
def Sys2Proof.Claims.DrainResults : Prop :=
  ∀ desc acc slot level x s p d, URuns s p x → engineServes s p.b p.iss.grp = true →
    let dst := p.g.usrc desc.toNat
    let ctl := p.g.usrc (desc.toNat + 1)
    let dsp := (ctl.extractLsb' 0 3).toNat
    let fmt := (ctl.extractLsb' 6 2).toNat
    let pitch := (ctl.extractLsb' 8 24).toNat
    let row := if fmt = 0 then 256 else 128
    dsp ≤ 4 → ctl.extractLsb' 3 3 = 0 → ctl.extractLsb' 32 32 = 0 → addrValue dsp dst % 16 = 0 → pitch % 16 = 0 → row ≤ pitch →
    engAddr s p true dsp dst (63 * pitch + row) = .ok d →
    ∀ e : (BitVec 6 → BitVec 2 → BitVec 4 → BitVec 2 → UExt → Instr) × Bool,
      e ∈ [(Instr.mdrainSt, false), (.mdrainAdd, true)] → fmt < (if e.2 then 1 else 3) →
      ((coreOf s p.b.core).ops.length ≤ 2 →
        exec (e.1 desc acc slot level x) s = .next (
          let t := handed s p 0x0F (slotKey p level slot) (.mdrain d fmt pitch e.2) (64 * row) false true
          atNext (modCore t p.b.core fun c => { c with ops := c.ops ++ [.mdrain p.iss.blk acc.toNat s.fresh p.iss.word] }) p)) ∧
      (2 < (coreOf s p.b.core).ops.length → exec (e.1 desc acc slot level x) s = .next (held s p (.retry .lease)))

/-- R288, R289, R402: the six collectives with a descriptor in core scratch, on a unit that the partition owns and whose
member table is set: DST gets the bytes of Table 13-2. -/
def Sys2Proof.Claims.CollectiveResults : Prop :=
  ∀ desc slot level x s p c, URuns s p x →
    let off := ((p.g.usrc desc.toNat).extractLsb' 0 32).toNat
    let bs := scratchBytes s p off 32
    let field := fun o n => leNat ((bs.drop o).take n)
    let unit := field 0 1
    let op := field 1 1
    let root := field 2 2
    let count := field 0x18 4
    let dcount := field 0x1C 4
    let n := c.members
    off % 16 = 0 → off + 32 ≤ p.b.scrBytes → scratchPoisoned s p off 32 = false → field 8 8 % 16 = 0 → field 0x10 8 % 16 = 0 →
    unit ≤ 31 → unit ∈ (partOf s p.b.part).desc.eng → cfind s.colls unit = some c → count ≠ 0 → count % 16 = 0 →
    let gives := fun (mk : BitVec 6 → BitVec 4 → BitVec 2 → UExt → Instr) (fn bytes : Nat) =>
      exec (mk desc slot level x) s = .next (atNext (handed s p 0x0E (slotKey p level slot)
        (.coll fn unit op root (BitVec.ofNat 64 (field 8 8)) (BitVec.ofNat 64 (field 0x10 8)) count dcount) bytes false false) p)
    (op ≤ 9 → gives .collAllred 0 count ∧ (count % (16 * n) = 0 → gives .collRedsc 1 (count / n)) ∧
      (op ≠ 1 → dcount ≠ 0 → gives .collSparse 4 (4 * dcount))) ∧
    (op = 0xFF → gives .collAllgat 2 (n * count) ∧ (root < n → gives .collBcast 3 count) ∧
      (count % (16 * n) = 0 → gives .collAlltoall 5 count))

/-- R283, R284, R288, R289: drains and collectives. -/
def Obligations.DrainAndCollectiveResults : Prop := DrainResults ∧ CollectiveResults

/-! ### Tasks, migration, register budgets and handles (chapters 4 and 13) -/

/-- R45, R78: the issuing path is its whole group, whose earlier accesses are complete, and the guard holds. -/
structure Sys2Proof.Claims.Quiet (s : State) (p : Path) (x : UExt) : Prop where
  runs : URuns s p x
  whole : ∀ n ∈ p.g.live, n ∈ p.lanes
  loads : p.g.loads.pend = []
  stores : p.g.stores.pend = []

/-- R77, R81, Table 4-1: what a task record made from a descriptor holds: the entry named, the maker's place and priority, the
lanes given, u0 to u3 and c0 to c7 from the maker's registers, slots not named being zero. -/
def Sys2Proof.Claims.RecordOf (p : Path) (d : TaskDesc) (lanes : List Nat) (r : TaskRec) : Prop :=
  r.part = p.b.part ∧ r.ctx = p.b.ctx ∧ r.launch = p.b.launch ∧ r.node = p.b.node ∧ r.ver = p.b.ver ∧ r.entry = d.entry ∧
  r.prio = p.b.prio ∧ r.made = p.b.core ∧ (∀ n < 32, r.live.getLsbD n = decide (n ∈ lanes)) ∧
  (∀ k < 4, r.us[k]? = some (if k < d.nuc then p.g.usrc k else 0)) ∧
  ∀ k < 8, ∀ n < 32, ((r.carry.getD k []).getD n 0) = if k < d.nc ∧ n ∈ lanes then (p.g.lane n).reg k else 0

/-- R78, R87, R88, R91: `task.spawn` makes a child's record and opens its group's family or joins it with the child's index;
`task.phase` makes a phase's record and ends its group; `task.merge` of a child gives the contents of its views to the family
as the leaf of its index, and ends its group. -/
def Obligations.TaskResults : Prop :=
  (∀ a x s p, URuns s p x →
    let off := ((p.g.usrc a.toNat).extractLsb' 0 32).toNat
    let d := taskDesc (scratchBytes s p off 32)
    taskTrap s p true off d = none → ∃ t r g', exec (.taskSpawn a x) s = .next t ∧ r ∈ t.recs ∧ RecordOf p d p.lanes r ∧
      groupOf t p.iss.blk p.iss.grp = some g' ∧ (∀ n ∈ p.lanes, (g'.lane n).npc = p.iss.next) ∧
      ∃ f, r.kind = .child f d.index d.viewList (d.ins.map fun h => ((tileOf s p.b.part p.b.ctx h).map Tile.size).getD 0) ∧
        (p.g.family = none → f = s.fresh ∧ g'.family = some f ∧ ∃ m ∈ t.families, m =
          { id := f, part := p.b.part, ctx := p.b.ctx, views := d.viewList, used := [d.index] }) ∧
        ∀ k, p.g.family = some k → f = k ∧ g'.family = some k ∧ ∀ m ∈ s.families, m.id = k →
          { m with used := m.used ++ [d.index] } ∈ t.families) ∧
  (∀ a x s p, Quiet s p x → p.g.family = none → p.b.origin = .node → p.b.views = [] → p.b.round = none → p.b.rdv = none →
    p.lanes ≠ [] →
    let off := ((p.g.usrc a.toNat).extractLsb' 0 32).toNat
    let d := taskDesc (scratchBytes s p off 32)
    taskTrap s p false off d = none → ∃ t r, exec (.taskPhase a x) s = .next t ∧ r ∈ t.recs ∧ RecordOf p d p.g.live r ∧
      r.kind = .phase d.ins (d.outs false) ∧ ∀ g', groupOf t p.iss.blk p.iss.grp = some g' → g'.live = []) ∧
  (∀ x s p f k, Quiet s p x → p.b.origin = .child f k → p.g.family = none →
    exec (.taskMerge x) s = .next (
      let t := putLeaf (freed s p) f k (p.b.views.map fun v =>
        (readPlace s p.b.core 0 (.scr p.b.id v.off) v.size, (List.range (v.size / opBytes v.op)).filter fun j =>
          placePoisoned s (.scr p.b.id (v.off + j * opBytes v.op)) (opBytes v.op)))
      exitLanes (mergeUp (t.families.length + 1) t f) p.iss.blk p.iss.grp p.g.live))

/-- R62, R291: a group arrives at a rendezvous while another live group of its block has not: its lanes wait at the `mig`, and
the rendezvous lists the group. -/
def Obligations.MigrateResults : Prop :=
  ∀ e : (BitVec 12 → UExt → Instr) × Nat, e ∈ [(Instr.migL, 0), (.migD, 1), (.migAuto, 2)] →
    ∀ imm x s p k j, Quiet s p x → migFault s p e.2 imm.toNat = none → kernelOf s p.b = some k →
      j ∈ p.b.liveGroups → j ≠ p.iss.grp → (∀ r, p.b.rdv = some r → j ∉ r.arrived ∧ r.ready = false) →
      exec (e.1 imm x) s = .next (
        let t := held s p (.mig p.iss.next)
        { t with blocks := t.blocks.map fun b => if b.id = p.iss.blk then { b with rdv := some (match b.rdv with
          | some r => { r with arrived := r.arrived ++ [p.iss.grp] }
          | none => { eqp := imm.toNat, kind := e.2, arrived := [p.iss.grp] }) } else b })

/-- R118, R292, R384: register budgets: a shrink releases the highest chunks and what they hold; a grow that the store can serve now, no
other waiting, adds chunks whose registers read 0 and leaves every other register, group and memory as it was; else the waiting form
queues, behind the others, and the trying form writes false. One that could never be served, and a shrink that leaves nothing, raise REG_GROW;
a grow or shrink by 0 does nothing. -/
def Obligations.BudgetResults : Prop :=
  ∀ (q : BitVec 3) (n : BitVec 13) x s p, Quiet s p x →
    (n ≠ 0 → n.toNat < p.g.budget → ∃ t g', exec (.regaShrink n x) s = .next t ∧ groupOf t p.iss.blk p.iss.grp = some g' ∧
      g'.budget = p.g.budget - n.toNat ∧ ∀ m r, (g'.lane m).reg r = if r < 8 * g'.budget then (p.g.lane m).reg r else 0) ∧
    (∀ c, n ≠ 0 → growTooFar s p n.toNat = false → (coreOf s p.b.core).regaQueue = [] →
      allocChunks (coreOf s p.b.core) p.iss.blk p.iss.grp p.g.budget n.toNat = some c →
      ∀ e : Instr × (Group → BitVec 7), e ∈ [(Instr.regaGrowWait n x, fun g => g.upred), (.regaGrowTry q n x, fun g => (g.qwr q.toNat true).upred)] →
        ∃ t g0 g', exec e.1 s = .next t ∧ groupOf s p.iss.blk p.iss.grp = some g0 ∧ groupOf t p.iss.blk p.iss.grp = some g' ∧
          coreOf t p.b.core = c ∧ g'.budget = p.g.budget + n.toNat ∧ g'.upred = e.2 g0 ∧ g'.ureg = g0.ureg ∧
          (∀ m r, (g'.lane m).reg r = if r < 8 * p.g.budget then (p.g.lane m).reg r else 0) ∧
          (∀ m ∈ p.lanes, (g'.lane m).npc = p.iss.next ∧ (g'.lane m).hold = .none) ∧
          (∀ k j, ¬(k = p.iss.blk ∧ j = p.iss.grp) → groupOf t k j = groupOf s k j) ∧
          { t with blocks := s.blocks, cores := s.cores } = s) ∧
    (n ≠ 0 → growTooFar s p n.toNat = false →
      (coreOf s p.b.core).regaQueue ≠ [] ∨ allocChunks (coreOf s p.b.core) p.iss.blk p.iss.grp p.g.budget n.toNat = none →
      exec (.regaGrowWait n x) s = .next (modCore (held s p (.rega p.iss.next)) p.b.core fun c =>
        { c with regaQueue := c.regaQueue ++ [{ blk := p.iss.blk, grp := p.iss.grp, units := n.toNat }] }) ∧
      exec (.regaGrowTry q n x) s = .next (uniNext s p p.iss.next fun g => g.qwr q.toNat false)) ∧
    (n ≠ 0 → growTooFar s p n.toNat = true →
      (∃ r, exec (.regaGrowWait n x) s = .next (stopIn (freed s p) p [r]) ∧
        GroupRec p r 0x30 0 (BitVec.ofNat 64 n.toNat) (p.g.lane p.lead).npc) ∧
      exec (.regaGrowTry q n x) s = .next (uniNext s p p.iss.next fun g => g.qwr q.toNat false)) ∧
    (n ≠ 0 → p.g.budget ≤ n.toNat → ∃ r, exec (.regaShrink n x) s = .next (stopIn (freed s p) p [r]) ∧
      GroupRec p r 0x30 0 (BitVec.ofNat 64 n.toNat) (p.g.lane p.lead).npc) ∧
    (n = 0 → exec (.regaGrowWait n x) s = .next (atNext s p) ∧ exec (.regaShrink n x) s = .next (atNext s p) ∧
      exec (.regaGrowTry q n x) s = .next (uniNext s p p.iss.next fun g => g.qwr q.toNat true))

/-- A slot of a handle table that may be issued: unlisted, or empty and not past its last generation (R127). -/
def Sys2Proof.Claims.slotFree (hs : Cells HSlot) (k : Nat) : Prop := ∀ e, cfind hs k = some e → e.obj = none ∧ e.gen < 4096

/-- R126, R127, R293: handles: a tile of a block's core scratch, of its cluster's shared memory or of a die scratchpad, and a sequence, take
the lowest free slot and give its handle, 0 when none is free; a retired slot goes a generation on, its handle naming nothing any more; fill and
clear set every granule; the summary reads EMPTY, MIXED or FULL; a shape copies 64 bytes of core scratch. -/
def Obligations.HandleResults : Prop :=
  ∀ d a b x s p, URuns s p x →
    let v := p.g.usrc a.toNat
    let w := p.g.usrc b.toNat
    let h := v.extractLsb' 0 32
    let hs := (ctxOf s p.b.part p.b.ctx).handles
    let gives := fun (o : Obj) => let r := allocHandle s p.b.part p.b.ctx o
      Host.Outcome.next (uniNext r.1 p p.iss.next fun g => g.udst d.toNat (0#32 ++ r.2.getD 0))
    let off := h.toNat
    (∀ o k, (cfind s.parts p.b.part).isSome = true → (cfind (partOf s p.b.part).ctxs p.b.ctx).isSome = true →
      1 ≤ k → k < 2 ^ 20 → slotFree hs k → (∀ j, 1 ≤ j → j < k → ¬slotFree hs j) →
      let r := allocHandle s p.b.part p.b.ctx o
      r.2 = some (BitVec.ofNat 32 (((cfind hs k).map HSlot.gen).getD 1 * 2 ^ 20 + k)) ∧
      cfind (ctxOf r.1 p.b.part p.b.ctx).handles k = some { gen := ((cfind hs k).map HSlot.gen).getD 1, obj := some o } ∧
      ∀ j, j ≠ k → cfind (ctxOf r.1 p.b.part p.b.ctx).handles j = cfind hs j) ∧
    (∀ o, (∀ k, 1 ≤ k → k < 2 ^ 20 → ¬slotFree hs k) → allocHandle s p.b.part p.b.ctx o = (s, none)) ∧
    (w.extractLsb' 60 4 = 0 → w.extractLsb' 17 43 = 0 → v.extractLsb' 35 29 = 0 →
      let size := (w.extractLsb' 0 17).toNat
      16 ≤ size → size ≤ 65536 → size % 16 = 0 → off % 16 = 0 →
      (v.extractLsb' 32 3 = 1 → off + size ≤ p.b.scrBytes →
        exec (.handleAlloc d a b x) s = gives (.tile (.scr p.iss.blk) off size false)) ∧
      (∀ c, v.extractLsb' 32 3 = 2 → clusterOf s p.b.cluster = some c → off + size ≤ c.bytes →
        exec (.handleAlloc d a b x) s = gives (.tile (.csh p.b.cluster) off size false)) ∧
      (∀ m, v.extractLsb' 32 3 = 3 → dspAddr (partOf s p.b.part).desc off size = some m →
        exec (.handleAlloc d a b x) s = gives (.tile .dsp m size false))) ∧
    (w.extractLsb' 60 4 = 1 → exec (.handleAlloc d a b x) s = gives .seq) ∧
    (off % 16 = 0 → off + 64 ≤ p.b.scrBytes → scratchPoisoned s p off 64 = false →
      exec (.handleShape d a x) s = gives (.shape (scratchBytes s p off 64))) ∧
    (∀ o, objOf s p.b.part p.b.ctx h = some o → (∀ sp k n, o ≠ .tile sp k n true) → s.families = [] →
      ∃ t, exec (.handleRetire a x) s = .next t ∧ objOf t p.b.part p.b.ctx h = none ∧
        cfind (ctxOf t p.b.part p.b.ctx).handles (h.toNat % 2 ^ 20) = some { gen := h.toNat / 2 ^ 20 + 1, obj := none } ∧
        ∀ j, j ≠ h.toNat % 2 ^ 20 → cfind (ctxOf t p.b.part p.b.ctx).handles j = cfind hs j) ∧
    (∀ t, tileOf s p.b.part p.b.ctx h = some t →
      exec (.handleSumm d a x) s = .next (uniNext s p p.iss.next fun g => g.udst d.toNat (
        if ∀ k ∈ t.granules, isFull s t.space k = true then 2
        else if ∃ k ∈ t.granules, isFull s t.space k = true then 1 else 0)) ∧
      (t.staging = false → s.feq = [] → ∀ e : (BitVec 6 → UExt → Instr) × Bool,
        e ∈ [(Instr.handleFill, true), (.handleClear, false)] → ∃ u g', exec (e.1 a x) s = .next u ∧
          groupOf u p.iss.blk p.iss.grp = some g' ∧ (∀ n ∈ p.lanes, (g'.lane n).npc = p.iss.next) ∧
          g'.tiles.issued = p.g.tiles.issued + 1 ∧
          (unitLives s t.space = true → ∀ k ∈ t.granules, isFull u t.space k = e.2)))

/-! ### System registers, counters and the batch-forming queue (chapters 4, 13, 18) -/

/-- R299: the values of the system registers outside the trap registers. -/
def Sys2Proof.Claims.sysValue (s : State) (p : Path) (n : Nat) : Option DWord :=
  let c := ctxOf s p.b.part p.b.ctx
  if 0x034 ≤ n ∧ n ≤ 0x037 then some (c.gbp.getD (n - 0x034) 0)
  else if 0x090 ≤ n ∧ n ≤ 0x09F then some (c.trc.getD (n - 0x090) 0)
  else [(0x010, 0#56 ++ c.quantum), (0x011, 0#56 ++ c.leaseCap), (0x012, 0#48 ++ c.grgWait), (0x013, c.migLive),
    (0x020, 0#44 ++ c.ageSteal), (0x030, p.g.gcb), (0x031, p.g.ght), (0x032, 0#62 ++ p.g.grgMode), (0x040, c.trapVec),
    (0x060, BitVec.ofNat 64 (s.ptime / 30000)), (0x070, 0#32 ++ c.split), (0x071, 0#28 ++ c.splitLimit),
    (0x080, 0#44 ++ c.bfqWait)].lookup n

/-- R299: `sysr` reads every system register outside the trap registers at a level that may read it. -/
def Sys2Proof.Claims.SystemReads : Prop :=
  ∀ d num x s p v, URuns s p x → sysValue s p num.toNat = some v → (p.b.level1 = true ∨ ¬ReadsAbove num.toNat) →
    exec (.sysr d num x) s = .next (uniNext s p p.iss.next fun g => g.udst d.toNat v)

/-- R299, R398: the value that a written system register holds: reserved bits are ignored, and a quantum or a lease cap of 0
is 1. -/
def Sys2Proof.Claims.keptOf (n : Nat) (v : DWord) : DWord :=
  if n = 0x010 ∨ n = 0x011 then (if v.extractLsb' 0 8 = 0 then 1 else v &&& 0xFF)
  else if 0x034 ≤ n ∧ n ≤ 0x037 then v &&& 0x81FFFFFFFFFFFFFF
  else if 0x090 ≤ n ∧ n ≤ 0x09F then v &&& 0x000FFFFFFFFFF001
  else ([(0x012, 0xFFFF), (0x013, 0x8000000007FF07FF), (0x020, 0xFFFFF), (0x030, 0xFFFFFFFFFFFFFFFF),
    (0x031, 0xFFFFFFFFFFFFF800), (0x032, 3), (0x040, 0xFFFFFFFFFFFF0FFF), (0x070, 0xFFFFFFFF), (0x080, 0xFFFFF)].lookup n).getD 0
    &&& v

/-- R299, R398: `sysw` of a register that the level may write, with a value that is not reserved: the path goes on, the
register then reads the value kept, and every other register outside the trap registers reads as before. -/
def Sys2Proof.Claims.SystemWrites : Prop :=
  ∀ a num x s p, URuns s p x → (p.b.level1 = true ∨ ¬WritesAbove num.toNat) →
    ¬(0x041 ≤ num.toNat ∧ num.toNat ≤ 0x048) → num ≠ 0x060 → num ≠ 0x071 → (sysValue s p num.toNat).isSome = true →
    (cfind s.parts p.b.part).isSome = true → (cfind (partOf s p.b.part).ctxs p.b.ctx).isSome = true →
    (ctxOf s p.b.part p.b.ctx).gbp.length = 4 → (ctxOf s p.b.part p.b.ctx).trc.length = 16 →
    sysValueBad s p num.toNat (p.g.usrc a.toNat) = false → ∃ t p',
      exec (.sysw a num x) s = .next t ∧ pathOf t = some p' ∧
      sysValue t p' num.toNat = some (keptOf num.toNat (p.g.usrc a.toNat)) ∧
      (∀ n, n ≠ num.toNat → sysValue t p' n = sysValue s p n) ∧ (∀ n ∈ p.lanes, (p'.g.lane n).npc = p.iss.next) ∧
      (∀ g g', groupOf s p.iss.blk p.iss.grp = some g → groupOf t p.iss.blk p.iss.grp = some g' → g'.ureg = g.ureg) ∧
      t.dram = s.dram

/-- R348, Tables 19-3 and 19-4: what a write of value `v` to a trap register leaves in the record that its handler serves: ACT and STEP_MODE,
TRAP_NPC but in a record of a command's fault (R376), TRAP_GPC, TRAP_GOP; the other trap registers are read only. -/
def Sys2Proof.Claims.writtenRec (r : TrapRec) (num : Nat) (v : DWord) : TrapRec :=
  if num = 0x041 then { r with stepMode := v.extractLsb' 10 2, act := v.extractLsb' 8 2 }
  else if num = 0x042 ∧ r.cmd = none then { r with npcW := some v }
  else if num = 0x044 then { r with gpcW := some v }
  else if num = 0x045 then { r with gopW := some (v.extractLsb' 0 8) }
  else r

/-- R299, R348, Tables 19-3 and 19-4: a handler, of a stop's record or of a notice, reads the record that it serves in the trap registers, and
what it writes to ACT, STEP_MODE, TRAP_NPC, TRAP_GPC and TRAP_GOP is in its record from then on; a level-1 group that is no handler reads 0.
So does a handler whose stop has gone: the model's choice, log 40 (DEDUCED). -/
def Sys2Proof.Claims.TrapRegisters : Prop :=
  (∀ d x s p r slot k, URuns s p x → p.b.level1 = true → servedRec s p.b = some (r, slot, k) →
    ∀ e ∈ [((0x041 : BitVec 12), trapCause r slot k), (0x042, r.npcW.getD r.npc), (0x043, r.xpc), (0x044, r.gpcW.getD r.gpc),
        (0x045, 0#56 ++ r.gopW.getD r.gop), (0x046, trapTid r), (0x047, r.addr), (0x048, r.info)],
      exec (.sysr d e.1 x) s = .next (uniNext s p p.iss.next fun g => g.udst d.toNat e.2)) ∧
  (∀ d (num : BitVec 12) x s p, URuns s p x → p.b.level1 = true → servedRec s p.b = none → 0x041 ≤ num.toNat → num.toNat ≤ 0x048 →
    exec (.sysr d num x) s = .next (uniNext s p p.iss.next fun g => g.udst d.toNat 0)) ∧
  (∀ a (num : BitVec 12) x s p, URuns s p x → p.b.level1 = true → 0x041 ≤ num.toNat → num.toNat ≤ 0x048 →
    let v := p.g.usrc a.toNat
    (num = 0x041 → v.extractLsb' 10 2 ≠ 3) →
    (∀ slot k q r, p.b.origin = .handler slot k → stopOf s p.b.part p.b.ctx slot = some q → q.recs[k]? = some r → ∃ t g',
      exec (.sysw a num x) s = .next t ∧
      stopOf t p.b.part p.b.ctx slot = some { q with recs := q.recs.set k (writtenRec r num.toNat v) } ∧
      groupOf t p.iss.blk p.iss.grp = some g' ∧ ∀ n ∈ p.lanes, (g'.lane n).npc = p.iss.next) ∧
    (∀ r, p.b.origin = .notice r → ∃ t b' g',
      exec (.sysw a num x) s = .next t ∧ blockOf t p.iss.blk = some b' ∧ b'.origin = .notice (writtenRec r num.toNat v) ∧
      b'.group p.iss.grp = some g' ∧ ∀ n ∈ p.lanes, (g'.lane n).npc = p.iss.next))

/-- R299, R348, R398: system registers read and written. -/
def Obligations.SystemRegisterResults : Prop := SystemReads ∧ SystemWrites ∧ TrapRegisters

/-- R337, Table 18-4: the events that a counter can select. -/
def Sys2Proof.Claims.EventCode (n : Nat) : Prop :=
  n ≤ 0x005 ∨ (0x010 ≤ n ∧ n ≤ 0x01F) ∨ n = 0x020 ∨ (0x030 ≤ n ∧ n ≤ 0x036) ∨ (0x040 ≤ n ∧ n ≤ 0x042) ∨ (0x050 ≤ n ∧ n ≤ 0x054) ∨
    n = 0x070 ∨ n = 0x071

/-- The number that `k` bytes of the die scratchpads hold. -/
def Sys2Proof.Claims.dspNum (s : State) (a k : Nat) : Nat := ((List.range k).map fun j => (mget s.dsp (a + j)).toNat * 256 ^ j).sum

/-- Table 18-2: the 32 bytes of a marker of path `p` with value `v`. -/
def Sys2Proof.Claims.markBytes (s : State) (p : Path) (v : DWord) : List Byte :=
  leBytes 8 (s.ptime / 30000) ++ leBytes 4 (p.iss.pc - bodyStart s p.b).toNat ++ leBytes 2 p.b.core ++
    leBytes 1 (gslotOf s p.b.core p.iss.blk p.iss.grp) ++ [if p.b.lbody then 0xC0 else 0x80] ++ leBytes 1 p.b.part ++
    leBytes 1 p.b.ctx ++ leBytes 1 p.b.launch ++ [0] ++ leBytes 4 (lanesMask p.lanes).toNat ++ leBytes 8 v.toNat

/-- R300, R332, R334 to R338: the counters: a read, 0 for the events of shared units; a selection of any event of Table 18-4, which arms or
disarms the counter's notice and applies from the cycle after, and cause 0x05, REG_FIELD, for another; the start of sampling with a ring
that keeps its limits, and the end of it; a marker, which goes into the next slot of the ring when both its granules are empty, and is
dropped and counted otherwise. The places that GSLOT numbers are the model's choice: log 45; others: logs 20, 21. -/
def Obligations.CounterResults : Prop :=
  ∀ d a b x s p, URuns s p x →
    let c := ctxOf s p.b.part p.b.ctx
    let u := p.g.usrc a.toNat
    let k := u.toNat % 64
    let v := p.g.usrc b.toNat
    let e := (v.extractLsb' 0 12).toNat
    let upd := fun (f : Ctx → Ctx) => Host.Outcome.next (atNext (modCtx s p.b.part p.b.ctx f) p)
    let drop := upd fun c => c.addCounter 63 1
    exec (.perfRd d a x) s = .next (uniNext s p p.iss.next fun g => g.udst d.toNat
      (if cget 0 c.sels k = 0x070 ∨ cget 0 c.sels k = 0x071 then 0 else 0#16 ++ cget 0 c.counters k)) ∧
    (k < 62 → EventCode e → exec (.perfSel a b x) s = upd fun c =>
      { c with
        sels := cput 0 c.sels k e
        armed := if v.getLsbD 15 then sinsert c.armed k else sremove c.armed k
        former := cset c.former k (s.clk, cget 0 c.sels k, c.armed.contains k) }) ∧
    (∀ q e' arm code n, csorted c.counters = true → cfind c.former k = some (q, e', arm) →
      code ≠ (if q = s.clk then e' else cget 0 c.sels k) →
        cget 0 (ctxOf (countEvent s p.b.part p.b.ctx code n) p.b.part p.b.ctx).counters k = cget 0 c.counters k) ∧
    (62 ≤ k ∨ ¬EventCode e → ∃ r, exec (.perfSel a b x) s = .next (stopIn s p [r]) ∧
      GroupRec p r 0x05 0 (p.iss.word.setWidth 64) (p.g.lane p.lead).npc) ∧
    (u.extractLsb' 0 32 = 0 →
      exec (.perfSample a x) s = upd fun c => { c with sampling := { c.sampling with interval := 0 } }) ∧
    (u.extractLsb' 0 32 ≠ 0 →
      let at' := (u.extractLsb' 32 32).toNat
      let desc := dspAddr (partOf s p.b.part).desc at' 16
      (∀ m n, at' % 16 = 0 → desc = some m → placePoisoned s (.dsp m) 16 = false →
        let base := dspNum s m 4
        dspNum s (m + 4) 4 = 2 ^ n → 4 ≤ n → n ≤ 16 → base % 32 = 0 →
        (dspAddr (partOf s p.b.part).desc base (32 * 2 ^ n)).isSome = true →
        exec (.perfSample a x) s = upd fun c =>
          { c with sampling := { interval := max (u.extractLsb' 0 32).toNat 4096, ring := some (base, 2 ^ n), widx := 0 } }) ∧
      (at' % 16 ≠ 0 ∨ desc = none → ∃ r, exec (.perfSample a x) s = .next (stopIn s p [r]) ∧
        GroupRec p r 0x0C (BitVec.ofNat 64 at') 3 (p.g.lane p.lead).npc)) ∧
    (∃ t g', exec (.perfMark a x) s = .next t ∧ groupOf t p.iss.blk p.iss.grp = some g' ∧
      ∀ n ∈ p.lanes, (g'.lane n).npc = p.iss.next) ∧
    (c.sampling.ring = none → exec (.perfMark a x) s = drop) ∧
    (∀ base n m, c.sampling.ring = some (base, n) →
      dspAddr (partOf s p.b.part).desc (base + 32 * (c.sampling.widx % n)) 32 = some m →
      (isFull s .dsp (m / 16) = true ∨ isFull s .dsp (m / 16 + 1) = true → exec (.perfMark a x) s = drop) ∧
      (isFull s .dsp (m / 16) = false → isFull s .dsp (m / 16 + 1) = false → base % 32 = 0 → s.feq = [] → csorted s.dsp = true → ∃ t,
        exec (.perfMark a x) s = .next t ∧ ByteRule s.dsp t.dsp m (markBytes s p u) ∧
        (∀ j, isFull t .dsp j = (isFull s .dsp j || j == m / 16 || j == m / 16 + 1)) ∧
        (ctxOf t p.b.part p.b.ctx).sampling = { c.sampling with widx := c.sampling.widx + 1 }))

/-- R98, R99, R102, R294: the batch-forming queue: a bind of a free unit takes four staging tiles for the node; a row whose
sequence has a row in the batch is held in order, and one whose sequence has none joins the gathering batch; an unbind begins the release and holds its path. Model
choices: logs 14, 15, 56. -/
def Obligations.BatchResults : Prop :=
  ∀ desc addr slot level x s p, URuns s p x →
    let v := p.g.usrc addr.toNat
    let w := p.g.usrc desc.toNat
    let u := (v.extractLsb' 32 8).toNat
    32 ≤ u → u ≤ 47 → u ∈ (partOf s p.b.part).desc.eng →
    (∀ places, let ra := (v.extractLsb' 0 16).toNat
      let rb := (v.extractLsb' 16 16).toNat
      rowBytesOk ra = true → rowBytesOk rb = true → cfind s.bfqs u = none → stagingRoom s p u ra rb = some places →
      ((versionOf s p.b.ver).bind fun k => k.entries[(w.extractLsb' 32 12).toNat]?).isSome = true →
      (objOf s p.b.part p.b.ctx (w.extractLsb' 0 32)).isSome = true → ∃ t q g',
        exec (.bfqBind desc addr x) s = .next t ∧ cfind t.bfqs u = some q ∧
        q.part = p.b.part ∧ q.ctx = p.b.ctx ∧ q.launch = p.b.launch ∧ q.node = p.b.node ∧ q.ver = p.b.ver ∧ q.prio = p.b.prio ∧
        q.weight = w.extractLsb' 0 32 ∧ q.entry = (w.extractLsb' 32 12).toNat ∧ q.ra = ra ∧ q.rb = rb ∧
        q.pairs.length = 2 ∧ q.gathering = some 0 ∧ q.held = [] ∧ q.releasing = false ∧ (∀ e ∈ q.pairs, e.rows = [] ∧ e.closed = false) ∧
        groupOf t p.iss.blk p.iss.grp = some g' ∧ ∀ n ∈ p.lanes, (g'.lane n).npc = p.iss.next) ∧
    (∀ q, cfind s.bfqs u = some q → q.releasing = false → w.toNat % 16 = 0 → (p.g.usrc (desc.toNat + 1)).toNat % 16 = 0 →
      level = 1 ∨ level = 2 → objOf s p.b.part p.b.ctx (v.extractLsb' 0 32) = some .seq → p.g.stores.pend = [] →
      (∃ e ∈ q.pairs, ∃ r ∈ e.rows, r.sequence = v.extractLsb' 0 32) → ∃ t r q',
        exec (.bfqJoin desc addr slot level x) s = .next (atNext t p) ∧ cfind t.bfqs u = some q' ∧
        q' = { q with held := q.held ++ [r] } ∧ r.sequence = v.extractLsb' 0 32 ∧ r.act = w ∧
        r.res = p.g.usrc (desc.toNat + 1) ∧ r.key = slotKey p level slot ∧ { t with bfqs := s.bfqs } = s) ∧
    (∀ q k e t (r : BfqRow), cfind s.bfqs u = some q → q.releasing = false → w.toNat % 16 = 0 →
      (p.g.usrc (desc.toNat + 1)).toNat % 16 = 0 → level = 1 ∨ level = 2 →
      objOf s p.b.part p.b.ctx (v.extractLsb' 0 32) = some .seq → p.g.stores.pend = [] →
      (∀ e ∈ q.pairs, ∀ r ∈ e.rows, r.sequence ≠ v.extractLsb' 0 32) → (∀ r ∈ q.held, r.sequence ≠ v.extractLsb' 0 32) →
      q.gathering = some k → q.pairs[k]? = some e → e.rows.length < 63 →
      r = { sequence := v.extractLsb' 0 32, act := w, res := p.g.usrc (desc.toNat + 1), key := slotKey p level slot, part := p.b.part
            ctx := p.b.ctx, trc := ((versionOf s p.b.ver).map Version.trc).getD 0, level1 := p.b.level1, blk := p.iss.blk
            grp := p.iss.grp, core := p.b.core, pc := p.iss.pc, tids := p.lanes.map fun n => (p.g.lane n).tid } →
      copyRun (atNext s p) (r.source (.tile e.act (e.rows.length * q.ra))) 0 (q.ra / 16) = (t, .ok ()) → ∃ t',
        exec (.bfqJoin desc addr slot level x) s = .next t' ∧ ∀ q1, cfind t.bfqs u = some q1 → cfind t'.bfqs u = some { q1 with
          pairs := q1.pairs.modify k fun f =>
            if f.rows = [] then { f with rows := [r], start := t.clk, waited := 0 } else { f with rows := f.rows ++ [r] } }) ∧
    (∀ q, cfind s.bfqs u = some q → exec (.bfqUnbind addr x) s = .next (beginRelease (held s p (.unbind u p.iss.next)) u)) ∧
    (cfind s.bfqs u = none → ∃ r, exec (.bfqUnbind addr x) s = .next (stopIn s p [r]) ∧ r.cause = 0x38)

/-! ### Events of the module and its surroundings (chapter 24, R5) -/

/-- R131, R139, R140, Table 6-1: a lease ends and no other goes; a line that is snooped for data is written back and stays, in
S; a line that is invalidated or evicted is written back and goes, and the asking agent's bytes are stored; the queued stores of
a line merge into it, in M; what hosts have stored of their own is there, and the oldest posted access reaches the host; an
agent's store to the pool leaves what a lease shows as it was, until some byte of that store has been read at its home: then the lease
shows all of it. Model choices:
logs 16, 17, 64, 65. -/
def Sys2Proof.Claims.CoherenceEvents : Prop :=
  (∀ core pa s, paClass pa = 1 → exec (.l1LeaseExpiry core pa) s =
    .next { s with poolLeases := s.poolLeases.filter fun l => !(l.core == core && l.line == pa % 2 ^ 44 / 64) }) ∧
  (∀ line l s, cfind s.poolLines line = some l → poolUp s = true →
    let home := l.dirty.foldl (fun m e => mput m e.1 e.2) s.pool
    exec (.bisnpdata line) s = .next { s with pool := home, poolLines := cset s.poolLines line { st := .S } } ∧
    exec (.l2Eviction line) s = .next { s with pool := home, poolLines := cdel s.poolLines line } ∧
    ∀ bytes, (∀ q ∈ bytes, q.1 < 64) → exec (.bisnpinv line bytes) s =
      .next (agentStore { s with pool := home, poolLines := cdel s.poolLines line } line bytes)) ∧
  (∀ line e s, e ∈ s.sysq → e.addr / 64 = line → s.poolDead = false → s.cxlUp ≠ [] →
    let fresh := (s.sysq.filter fun e => e.addr / 64 == line).foldl (fun t e => dropStale t e.addr) s
    exec (.poolStoreMerge line) s = .next (wakeRetry
      { fresh with
        sysq := s.sysq.filter fun e => e.addr / 64 != line
        poolLines := cset s.poolLines line
          { st := .M, dirty := (s.sysq.filter fun e => e.addr / 64 == line).foldl (fun d e => cset d e.addr e.byte)
              (((cfind s.poolLines line).map PoolLine.dirty).getD []) } } (fun _ => true) .fence)) ∧
  (∀ s, s.portsUp ≠ [] →
    let own := (Config.hostStores s.tick).filter fun e => s.parts.any fun q => hostOwned q.2.desc (2 * 2 ^ 44 + e.1 % 2 ^ 44)
    let mem := own.foldl (fun m e => mput m (e.1 % 2 ^ 44) e.2) s.hostMem
    (s.posted = [] → exec .hostWriteAck s = .next { s with hostMem := mem }) ∧
    ∀ e rest, s.posted = e :: rest → exec .hostWriteAck s = .next (wakeRetry
      (moveWindowPorts
        { s with posted := rest, hostMem := (e.2.mapIdx fun k b => (e.1 + k, b)).foldl (fun m q => mput m q.1 q.2) mem })
      (fun _ => true) .fence)) ∧
  (∀ a v s, (agentByte s a v).pool = mput s.pool a v ∧ ∀ l ∈ s.poolLeases, l.line = a / 64 → cfind l.stale a = none →
    (if (queued s.sysq a).isSome then l else { l with stale := cset l.stale a (poolHome s a) }) ∈ (agentByte s a v).poolLeases) ∧
  (∀ line bytes s, (agentStore s line bytes).pool = bytes.foldl (fun m q => mput m (64 * line + q.1) q.2) s.pool) ∧
  (∀ (l : PoolLease) a b r, csorted l.stale = true → r ∈ l.runs → a ∈ r → b ∈ r → cfind (l.seen a).stale b = none)

/-- R20, R325, R326, R340, R412, R413, R417: the arbiter's window, which forms a partition's estimates and allowances of power and of
current from the work it has done: in partitioned-budget mode its shares, in shared mode at least them; the clamp, the throttle and its
end; the first PTP lock, what steers PTIME later, and its loss; links that fail and come back, each recorded in every log, with the port
that serves a window; and the loss of a host-visible window and of the pool. Model choices: logs 24, 25, 68, 70, 120. -/
def Sys2Proof.Claims.PowerAndLinkEvents : Prop :=
  (∀ s, s.windowAt + 3000 ≤ s.clk →
    let ws := fun p => (partOf s p).work.map Prod.snd
    let watts := fun p => estimateOf Config.powerOf (ws p)
    let amps := fun p => estimateOf Config.currentOf (ws p)
    let power := fun p => (partOf s p).desc.pwr
    let current := fun p => (partOf s p).desc.amp
    exec .arbiterWindow s = .next { s with
      windowAt := s.clk
      parts := s.parts.map fun q => (q.1, { q.2 with
        work := []
        estimate := watts q.1
        allowance := watted s (allowanceOf s power watts q.1)
        currentEst := amps q.1
        currentAllowed := allowanceOf s current amps q.1
        dieAllowed := dieShares q.2 (allowanceOf s current amps q.1)
        clamped := false }) } ∧
    (∀ n, s.capBefore = s.cap → 0 < s.cap → watted s n = n) ∧
    ∀ share est p, share p ≤ allowanceOf s share est p ∧
      (s.budgetMode = true ∨ est p ≤ share p → allowanceOf s share est p = share p)) ∧
  (∀ die s,
    let allowed := fun p => (cfind (partOf s p).dieAllowed die).getD 0
    let drawn := fun p => Config.supplyCurrent (s.tick * 32 + p)
    (((onDie s die).map allowed).sum < ((onDie s die).map drawn).sum →
      exec (.currentClamp die) s = .next (((onDie s die).filter fun p => !s.budgetMode || decide (allowed p < drawn p)).foldl (fun t p =>
        logPart (modPart t p fun q => { q with clamped := true }) p 0x78 0xFF die 7 1 (BitVec.ofNat 64 (drawn p - allowed p))) s)) ∧
    (((onDie s die).map drawn).sum ≤ ((onDie s die).map allowed).sum → exec (.currentClamp die) s = .next s)) ∧
  (∀ die temp s, die < Config.dies →
    let read := { s with hotAt := cset s.hotAt die s.clk }
    (temp < 100 → exec (.thermalThrottle die temp) s = .next s) ∧
    (100 ≤ temp → temp ≤ 105 → exec (.thermalThrottle die temp) s = .next read) ∧
    (105 < temp →
      let hot := sinsert s.hotDies die
      (s.hotDies = [] ∨ s.coolAt + 3000000 ≤ s.clk →
        exec (.thermalThrottle die temp) s = .next (logAll
          { read with
            cap := s.cap * 95 / 100
            hotDies := hot
            coolAt := s.clk
            parts := s.parts.map fun q => (q.1, { q.2 with allowance := q.2.allowance * 95 / 100 }) }
          0x79 die 7 1 (BitVec.ofNat 64 temp))) ∧
      (s.hotDies ≠ [] → s.clk < s.coolAt + 3000000 →
        exec (.thermalThrottle die temp) s = .next { read with hotDies := hot }))) ∧
  (∀ die s, die ∈ s.hotDies → (cfind s.hotAt die).getD 0 + 300000000 ≤ s.clk → exec (.thermalCapRestore die) s =
    .next { s with hotDies := sremove s.hotDies die, cap := if sremove s.hotDies die = [] then s.capBefore else s.cap }) ∧
  (∀ time s, s.portsUp ≠ [] →
    (s.locked = false → exec (.ptpMessage time) s =
      .next { s with locked := true, ptpLost := false, ptime := time.toNat * 30000 }) ∧
    (s.locked = true → exec (.ptpMessage time) s = .next { s with ptpLost := false })) ∧
  (∀ s, exec .ptpLost s = .next { s with ptpLost := true } ∧ exec .dramScrub s = .next s) ∧
  (∀ s, s.ptpLost = true → steerOf s = s.steered ∧ (passTime s).steered = s.steered) ∧
  (∀ port s, port ∈ s.portsUp → exec (.portDown port) s = .next (logAll
    (moveWindowPorts { s with portsUp := sremove s.portsUp port, portsAt := s.clk }) 0x60 port 5 1 (BitVec.ofNat 64 port))) ∧
  (∀ port s, port ∉ s.portsUp → port < 16 → exec (.portUp port) s = .next (wakeLinks
    (logAll (moveWindowPorts { s with portsUp := sinsert s.portsUp port }) 0x61 port 5 1 (BitVec.ofNat 64 port)))) ∧
  (∀ s p q k w, s.portsUp ≠ [] → cfind s.parts p = some q → q.desc.hostw[k]? = some w →
    let was := (cfind q.winPorts k).getD 0
    let waits := ∃ e ∈ s.posted, inWindows [(w.1, w.2.1)] e.1 = true
    (was ∈ s.portsUp ∨ waits → (cfind (partOf (moveWindowPorts s) p).winPorts k).getD 0 = was) ∧
    (was ∉ s.portsUp → ¬waits → (cfind (partOf (moveWindowPorts s) p).winPorts k).getD 0 = s.portsUp.headD 0)) ∧
  (∀ p idx w s, (partOf s p).desc.hostw[idx]? = some w → w.2.1 ≠ 0 → s.portsUp = [] → s.portsAt + 3000000 ≤ s.clk →
    idx ∉ (partOf s p).lost → exec (.hostWindowLost p idx) s = .next (loseWindow s p idx w)) ∧
  (∀ port s, port ∈ s.cxlUp → exec (.cxlPortFail port) s = .next (logAll { s with cxlUp := sremove s.cxlUp port, cxlAt := s.clk }
    0x63 port 6 1 (if sremove s.cxlUp port = [] then 0xFF else BitVec.ofNat 64 port))) ∧
  (∀ port s, port ∉ s.cxlUp → port < 2 → exec (.cxlPortRecover port) s =
    .next (wakeLinks { s with cxlUp := sinsert s.cxlUp port })) ∧
  (∀ s, s.cxlUp = [] → s.cxlAt + 30000000 ≤ s.clk → s.poolDead = false → exec .poolLost s = .next (losePool s))

/-- Chapters 6, 17, 18 and 24: what the pool, the power arbiter, the clocks and the links do. -/
def Obligations.WorldEvents : Prop := CoherenceEvents ∧ PowerAndLinkEvents

/-- R366, R389 to R393, R410, R414, R416: a corrected error is counted for its recorded unit, and each thousandth recorded; an
uncorrected one poisons its unit, or kills the context of the state when no unit owns it; an isolation violation freezes the core and
kills the owner's running context; a lane word that is no instruction traps in the lanes whose guard holds, a uniform one in its group.
Model choices: logs 28, 30, 67, 69, 81, 119. -/
def Obligations.ErrorEvents : Prop :=
  (∀ u p s, unitOwner s u = some p →
    let k := unitNumber s u
    let n := correctedOf s k + 1
    let rest := s.corrected.filter fun q => q.1 ≠ k
    (n < 1000 → exec (.correctableError u) s = .next { s with corrected := rest ++ [(k, n)] }) ∧
    (1000 ≤ n → exec (.correctableError u) s =
      .next (logUnit { s with corrected := rest } p 0x70 0xFF k.1 k.2 n (BitVec.ofNat 64 n)))) ∧
  (∀ u p s, unitOwner s u = some p → unitThere s u = true →
    let k := unitNumber s u
    (∀ pa, u = .l2 pa → exec (.uncorrectableError u) s =
      .next (logUnit (addPoison s (.line pa)) p 0x71 0xFF k.1 k.2 1 (BitVec.ofNat 64 pa))) ∧
    (∀ q c, u = .unowned q c → exec (.uncorrectableError u) s =
      .next (uncontained (logUnit s p 0x71 c k.1 k.2 1 0) p c k 0)) ∧
    ((∀ pa, u ≠ .l2 pa) → (∀ q c, u ≠ .unowned q c) → exec (.uncorrectableError u) s =
      .next (logUnit (addPoison s u) p 0x71 0xFF k.1 k.2 1 (unitAddr u)))) ∧
  (∀ c o s k, clusterOf s c = some k → k.const < 64 →
    unitNumber s (.shared c o) = (10 * k.const + (k.base + 16 * o) / 4096 % 10, 0)) ∧
  (∀ core target p s, ownerOf s core = some p →
    exec (.isolationViolation core target) s = .next (
      let t := modCore s core fun k => { k with frozen := true }
      let c := (partOf s p).running
      killLogged (logPart t p 0x50 c core 0 1 (BitVec.ofNat 64 target)) p c core 0 3)) ∧
  (∀ w s p, w.uniform = false → pathOf s = some p →
    let bad := badLanes p w.guard
    exec (.nonInstructionWord w) s = .next (raiseLanes (withGroup s p (Group.modLanes · (p.lanes.filter fun i => !bad.contains i)
      fun _ l => l.advance p.iss.next)) p (bad.map fun i => (i, { cause := w.cause, info := w.info.setWidth 64 })))) ∧
  (∀ w s p, w.uniform = true → URuns s p { mod := w.uguard } →
    ∃ r, exec (.nonInstructionWord w) s = .next (stopIn s p [r]) ∧
      GroupRec p r w.cause 0 (w.info.setWidth 64) (p.g.lane p.lead).npc)

/-- R8, R309, R316, R324, R361, R366, R382, R411, R417, R418: the ladder: EN = 0 begins the climb by the soft request, EN = 1 ends it
there, each from the peer of the partition's control endpoint alone; a slice or GRACE that is over takes the next rung; a halt that
completes saves the context, and KILL kills it; then what is to run next goes on. The emergency, in which every partition climbs, and
the resets. Model choices: logs 26, 47, 75, 76, 79 to 82, 116. -/
def Obligations.LadderEvents : Prop :=
  (∀ a s, answersParts s = true →
    (∀ q, cfind s.parts a.part = some q → controlled s a.part a.peer = true →
      let t : State := { s with replies := s.replies ++ [{ ok := true }] }
      (q.en = true → q.rung = .none → exec (.pctlEnClear a) s =
        .next { t with parts := cset s.parts a.part { q with en := false, rung := .soft true, rungAt := s.clk } }) ∧
      (q.en = false ∨ q.rung ≠ .none → exec (.pctlEnClear a) s = .next { t with parts := cset s.parts a.part { q with en := false } }) ∧
      (q.rung = .none → exec (.pctlEnSet a) s = .next { t with parts := cset s.parts a.part { q with en := true } }) ∧
      (q.rung = .soft true → s.emergency = none → exec (.pctlEnSet a) s = .next (modPart (holdAges
        { t with parts := cset s.parts a.part { q with en := true } } a.part q.running q.rungAt) a.part fun q =>
          { q with rung := .none })) ∧
      (q.rung = .soft true → s.emergency ≠ none →
        exec (.pctlEnSet a) s = .next { t with parts := cset s.parts a.part { q with en := true } })) ∧
    ((cfind s.parts a.part).isSome = true → controlled s a.part a.peer = false →
      exec (.pctlEnClear a) s = .next { s with replies := s.replies ++ [{ ok := false }] } ∧
      exec (.pctlEnSet a) s = .next { s with replies := s.replies ++ [{ ok := false }] })) ∧
  (∀ p q s, cfind s.parts p = some q →
    (q.en = true → q.rung = .none → q.desc.slice ≠ 0 → q.sliceAt + 3000 * q.desc.slice ≤ s.clk → liveCtx s p = true →
      resident s p q.running = true → exec (.sliceExpiry p) s =
        .next { s with parts := cset s.parts p { q with rung := .soft false, rungAt := s.clk } }) ∧
    (q.en = true → q.rung = .none → q.desc.slice ≠ 0 → q.sliceAt + 3000 * q.desc.slice ≤ s.clk → liveCtx s p = true →
      resident s p q.running = false → exec (.sliceExpiry p) s = .next (goOn (saveCtx s p q.running) p false)) ∧
    (∀ byEn, q.rung = .soft byEn → q.rungAt + q.desc.grace ≤ s.clk ∨ resident s p q.running = false →
      exec (.graceExpiry p) s = .next (modPart (holdAges s p q.running q.rungAt) p fun q =>
        { q with rung := .halt byEn, rungAt := s.clk })) ∧
    (∀ byEn, q.rung = .halt byEn → liveCtx s p = true →
      exec (.haltComplete p) s = .next (goOn (saveCtx (holdAges s p q.running q.rungAt) p q.running) p byEn) ∧
      (q.rungAt + q.desc.kill ≤ s.clk → exec (.killExpiry p) s =
        .next (let k := killLogged s p q.running 0 0 (if s.emergency = none then 1 else 4)
          goOn (modCtx (dropCtx k p q.running) p q.running fun x =>
            { x with saved := some { dsp := (imageOf k p q.running).dsp, dspFull := (imageOf k p q.running).dspFull
                                     dspPoison := (imageOf k p q.running).dspPoison } }) p byEn)))) ∧
  (∀ s p c start (r : TaskRec), r ∈ s.recs → r.part = p → r.ctx = c → r.queued = true →
    { r with queuedAt := r.queuedAt + (s.clk - max start r.queuedAt) } ∈ (holdAges s p c start).recs) ∧
  (∀ s p byEn, (partOf s p).en = false ∨ s.boot.powered = false ∨ s.emergency ≠ none →
    goOn s p byEn = modPart s p fun q => { q with rung := .halt byEn }) ∧
  (∀ die temp s, s.boot.powered = true → die < Config.dies → s.emergency = none →
    ∃ t, exec (.thermalShutdown die temp) s = .next t ∧ t = (s.parts.map Prod.fst).foldl climb { s with emergency := some (die, temp) } ∧
      ((s.parts.map Prod.fst).any (liveCtx t) = false → settleEmergency t = logAll
        { t with boot := { t.boot with powered := false }, emergency := none } 0x7A die 7 1 (BitVec.ofNat 64 temp))) ∧
  (∀ s p q, cfind s.parts p = some q → climb s p =
    { s with parts := cset s.parts p (if q.rung = .none then { q with rung := .soft true, rungAt := s.clk } else q) }) ∧
  (∀ s, ∃ t, exec .powerOnReset s = .next t ∧ t.blocks = [] ∧ t.cores = [] ∧ t.clk = 0 ∧ t.dram = s.dram ∧ t.dsp = [] ∧
    (slotStatus s.boot 0 = 0 → t.boot.image = s.boot.slots[0]? ∧ t.boot.status = 0) ∧
    (slotStatus s.boot 0 ≠ 0 → slotStatus s.boot 1 = 0 → t.boot.image = s.boot.slots[1]? ∧ t.boot.status = 0) ∧
    (slotStatus s.boot 0 ≠ 0 → slotStatus s.boot 1 ≠ 0 → t.boot.image = none) ∧
    ∀ q ∈ t.parts, q.2.desc.grace = 9000 ∧ q.2.desc.kill = 60000 ∧ q.2.desc.slice = 0 ∧ q.2.en = false ∧ q.2.doneCnt = 0) ∧
  (∀ p s, (cfind s.parts p).isSome = true → ∃ t, exec (.partitionReset p) s = .next t ∧ (partOf t p).en = false ∧
    (partOf t p).ctxs = [] ∧ (partOf t p).queue = [] ∧ (∀ v ∈ t.versions, v.part ≠ p) ∧
    (partOf t p).desc = { (partOf s p).desc with grace := 9000, kill := 60000, slice := 0 } ∧
    (∀ w ∈ t.fmt, w.2.part ≠ p) ∧ ∀ e ∈ t.dsp, windowRel (partOf s p).desc e.1 = none)

/-- R27, R28, R29, R196, R318 to R320, R111, R369: a queued launch of a graph that has none running starts, bound to its graph's version,
its arguments copied; a node whose DEPS have ended starts, with node 0 every node that has none, or ends its launch when it can never be
placed; a cluster that fits is placed, a saved block before it; a launch whose nodes have ended ends, its completion word written, lost,
or waiting for a link; a version that nothing uses is freed, with every translation that reaches its frames alone. Model choices: logs
2, 71 to 75, 91, 111. -/
def Sys2Proof.Claims.LaunchEvents : Prop :=
  (∀ p c slot s v w g, places s p c = true → (partOf s p).en = true →
    (∀ l ∈ (partOf s p).launches, ¬(l.ctx = c ∧ l.graph = slot ∧ wordGen l.word = wordGen w)) →
    cfind (ctxOf s p c).graphs slot = some g → g.live = true →
    versionOf s g.ver = some v → (partOf s p).queue.find? (fun w => wordCtx w = c && wordSlot w = slot) = some w →
    let q := partOf s p
    let l : Launch := { idx := freeIndex q, ctx := c, graph := slot, ver := v.id, word := w, seq := q.launchSeq,
                        nodes := v.nodes.map fun _ => {} }
    let t := modPart s p fun q =>
      { q with queue := q.queue.erase w, launches := q.launches ++ [l], launchSeq := q.launchSeq + 1 }
    exec (.launchStart p c slot) s = .next (copyFrame (if q.launches = [] then thaw t p else t) p v w)) ∧
  (∀ p idx node s l v r, launchOf s p idx = some l → versionOf s l.ver = some v → l.nodes[node]? = some r → r.started = false →
    places s p l.ctx = true → node = 0 ∨ depsOf v node ≠ [] → (∀ j ∈ depsOf v node, nodeEnded s p l j = true) →
    let ns := if node = 0 then 0 :: (List.range v.nodes.length).filter fun k => k ≠ 0 && (depsOf v k).isEmpty else [node]
    ((∀ n ∈ ns, ∃ k, nodeKernel v n = some k ∧ placeable s p l.ctx k = true) →
      exec (.nodeStart p idx node) s = .next (ns.foldl (beginNode p l v) s)) ∧
    ((∃ n ∈ ns, ∀ k, nodeKernel v n = some k → placeable s p l.ctx k = false) →
      exec (.nodeStart p idx node) s = .next (rejectLaunch s p l))) ∧
  (∀ v node (n : Node) k, v.nodes[node]? = some n → (k ∈ depsOf v node ↔ k < 64 ∧ n.deps.testBit k = true)) ∧
  (∀ p l v s node n k, v.nodes[node]? = some n → nodeKernel v node = some k → beginNode p l v s node = modLaunch
    { s with
      grids := s.grids ++ [{ id := s.fresh, part := p, ctx := l.ctx, launch := l.idx, node := node, slots := newSlots 4,
                             total := n.clusters * k.clblk * k.groups }]
      fresh := s.fresh + 1 } p l.idx fun l =>
        { l with nodes := l.nodes.modify node fun r => { r with started := true, grid := s.fresh } }) ∧
  (∀ p idx node s t, resumeBlock s p = some t → (partOf s p).rung = .none → exec (.blockPlacement p idx node) s = .next t) ∧
  (∀ p idx node s l t, (partOf s p).resume = [] → launchOf s p idx = some l → places s p l.ctx = true →
    noneBefore s p l node = true → tryCluster s p l node = some t → exec (.blockPlacement p idx node) s = .next t) ∧
  (∀ p idx s l v, launchOf s p idx = some l → versionOf s l.ver = some v →
    (∀ n, n < l.nodes.length → nodeEnded s p l n = true) → unreleased s p = false →
    let ended := fun (t : State) => modPart t p fun q =>
      { q with launches := q.launches.filter fun k => k.idx ≠ idx, doneCnt := q.doneCnt + 1 }
    (wordNotify l.word = false → exec (.launchEnd p idx) s = .next (retireGraph (ended s) v)) ∧
    (∀ u pl, wordNotify l.word = true → donePlace s p l.ctx v.trc v.done = (u, .ok pl) →
      let t := ended u
      let w := if storeLost t p pl then t else coverPlace (writePlace t pl (leBytes 8 l.word.toNat)) pl 8
      exec (.launchEnd p idx) s = .next (retireGraph
        { w with outward := w.outward ++ [(v.done, leBytes 8 l.word.toNat)] } v)) ∧
    (∀ u, wordNotify l.word = true → donePlace s p l.ctx v.trc v.done = (u, .lost) →
      exec (.launchEnd p idx) s = .next (retireGraph (logPart (ended u) p 0x6B l.ctx 0 0 1 v.done) v)) ∧
    (∀ u, wordNotify l.word = true → donePlace s p l.ctx v.trc v.done = (u, .wait) → exec (.launchEnd p idx) s = .next s)) ∧
  (∀ ver v s, versionOf s ver = some v → versionUsed s ver = false →
    ∃ t, exec (.versionFree ver) s = .next t ∧ t = freeVersion s v ∧ (∀ w ∈ t.versions, w.id ≠ ver) ∧
      ∀ f ∈ v.frames, (∀ w ∈ s.versions, w.id ≠ v.id → f ∉ w.frames) → ∀ e ∈ t.tlb,
        e.pa + e.size ≤ f * 65536 ∨ f * 65536 + 65536 ≤ e.pa)

/-- R28, R40, R41, R51, R64, R65, R74, R82 to R84, R118, R292: swaps between the active and the pending groups of a sub-core, one in a cycle,
after which neither group is chosen in that cycle or the next, and what blocks a group; a round that its wait closes; a
move within the class, when it helps to gather room, and a migration, whose target is chosen in the order of waiting ones and which then
waits for its matrix instructions; a core that claims the record at the head of its queue; a record that may be stolen from now on; a grow
that the store can serve. Model choices: logs 10, 12, 48 to 50, 112 to 115, 129, 138, 143. -/
def Sys2Proof.Claims.ScheduleEvents : Prop :=
  (∀ core sub s (out inn : Nat × Nat × Group),
    let set := fun (v : Bool) (g : Group) => { g with active := v, since := s.clk, chooseAt := s.clk + 2 }
    let swapped := modCore (modGroup (modGroup s out.1 out.2.1 (set false)) inn.1 inn.2.1 (set true)) core fun c =>
      { c with swapAt := cset c.swapAt sub s.clk }
    (lowestBy (fun q => q.2.2.blockedAt) (fun q => q.2.2.since) (onSub s core sub (blocked s)) = some out →
      lowestBy (fun q => q.2.2.since) (fun q => q.1) (onSub s core sub fun _ g => g.waiting) = some inn →
      ((∀ k, cfind (coreOf s core).swapAt sub = some k → k < s.clk) → exec (.groupSwap core sub) s = .next swapped) ∧
      ((∃ k, cfind (coreOf s core).swapAt sub = some k ∧ s.clk ≤ k) → exec (.groupSwap core sub) s = .next s)) ∧
    (lowestBy (fun q => q.2.2.since) (fun q => q.1) (onSub s core sub fun _ g => g.active && !g.ended) = some out →
      lowestBy (fun q => q.2.2.since) (fun q => q.1) (onSub s core sub fun _ g =>
        g.waiting && g.wasReady && decide (max g.mark g.since + 256 ≤ s.clk)) = some inn →
      ((∀ k, cfind (coreOf s core).swapAt sub = some k → k < s.clk) → exec (.pendingAgeSwap core sub) s = .next swapped) ∧
      ((∃ k, cfind (coreOf s core).swapAt sub = some k ∧ s.clk ≤ k) → exec (.pendingAgeSwap core sub) s = .next s))) ∧
  (∀ s b (g : Group) i, i ∈ g.live → (g.lane i).hold = .none ∨ (∃ next va, (g.lane i).hold = .svc next va) ∨
      (g.lane i).hold = .retry .fence → blocked s b g = false) ∧
  (∀ s b (g : Group), g.active = true → g.ended = false → g.stop = none →
    (∀ i ∈ g.live, (∃ k next y q, (g.lane i).hold = .slot k next y q) ∨ (∃ next, (g.lane i).hold = .fe next) ∨ (g.lane i).hold = .pool ∨
      (g.lane i).hold = .retry .lease ∨ (∃ next, (g.lane i).hold = .rega next)) → blocked s b g = true) ∧
  (∀ blk s b r, blockOf s blk = some b → b.round = some r → (ctxOf s b.part b.ctx).grgWait ≠ 0 → runs s b.part b.ctx = true →
    r.start + (ctxOf s b.part b.ctx).grgWait.toNat ≤ s.clk →
    exec (.regroupTimeout blk) s = .next (closeRound (countEvent s b.part b.ctx 0x054 1) blk)) ∧
  (∀ blk core s b t k, blockOf s blk = some b → kernelOf s b = some k → places s b.part b.ctx = true → movable s b = true →
    Config.constOf core = Config.constOf b.core ∨ b.alone k = true → Config.isLCore core = b.lbody → core ∈ coresOf s b.part →
    core ≠ b.core → moveSame s b core = some t →
    exec (.sameClassMove blk core) s = .next (if gathers s t b core = true then t else s)) ∧
  (∀ blk s b (r : Rendezvous) v k, blockOf s blk = some b → b.rdv = some r → versionOf s b.ver = some v → kernelOf s b = some k →
    r.ready = true → issues s b = true →
    (∀ n, r.target = some n → n ∈ coresOf s b.part → rdvCore s b r = some n) ∧
    (r.target = none → r.kind = 2 ∨ (∀ o ∈ s.blocks, o.part = b.part → ∀ q, o.rdv = some q → q.ready = true → q.kind ≠ 2 →
        q.target = none → q.order < r.order → issues s o = true → rdvTarget s o = none) →
      rdvCore s b r = moveTarget s (classFits s b k (!b.lbody)) (!b.lbody) (moveScope s b k)) ∧
    (∀ e n, k.eqps.find? (fun e => e.id = r.eqp) = some e → rdvCore s b r = some n →
      (∀ t, opsDone s b = true → migrateBlock s b v k e n = some t → exec (.migrate blk) s = .next t) ∧
      (opsDone s b = false → exec (.migrate blk) s = .next (modBlock s blk fun b =>
        { b with rdv := b.rdv.map fun r => { r with target := some n } }))) ∧
    (rdvCore s b r = none → exec (.migrate blk) s = .next (if r.kind = 2 then rdvContinue s blk else s))) ∧
  (∀ core p r s t, ownerOf s core = some p → (partOf s p).resume = [] → (∀ r ∈ claimable s p, recCores s r ≠ []) →
    ownHead (claimable s p) core = some r → placeRec s r core = some t →
    exec (.recordClaim core) s = .next (countEvent t p (partOf s p).running 0x050 1)) ∧
  (∀ core p s t, ownerOf s core = some p → (partOf s p).resume = [] → (∀ r ∈ claimable s p, recCores s r ≠ []) →
    (∀ r, ownHead (claimable s p) core = some r → placeRec s r core = none) → stealFrom s (claimable s p) core = some t →
    let c := (partOf s p).running
    exec (.recordClaim core) s = .next (countEvent (countEvent t p c 0x050 1) p c 0x051 1)) ∧
  (∀ n s, ∃ t : State, exec (.recordStealable n) s = .next t ∧ t.recs.length = s.recs.length ∧ ∀ (k : Nat) (r : TaskRec),
    s.recs[k]? = some r → t.recs[k]? = some (if r.id = n ∧ r.queued = true ∧ places s r.part r.ctx = true ∧ r.queuedAt + r.age ≤ s.clk
      then { r with stealable := true } else r)) ∧
  (∀ core r rest s t, (coreOf s core).regaQueue = r :: rest → grow s core r.blk r.grp r.units = some t →
    exec (.regaGrant core) s = .next (modGroup (modCore t core fun c => { c with regaQueue := rest }) r.blk r.grp fun g =>
      { g with lanes := g.lanes.map fun l => match l.hold with
          | .rega next => l.advance next |> fun l => { l with hold := .none }
          | _ => l }))

/-- Chapters 2 to 4: launches, placement, swaps, rounds, moves and records. -/
def Obligations.LaunchAndScheduleEvents : Prop := LaunchEvents ∧ ScheduleEvents

/-- R95, R96, R100, R102, R123, R132, R271, R279, R282, R289, R333, R341, R357, R376, R403, R410: the lease of a core is granted, with the
operations it carries, and passes on; the engine performs the operation at its head; batches close by their wait, are written back, and
bindings are released when their node has no more work; engines read ahead, write their next 16 bytes, complete and fault; a collective
writes what its members' sources give, or as much as lies before a condition; a full/empty wait of 2^28 cycles without a change traps; a
stop is delivered; a counted access completes; a core's PC sample. Model choices: logs 14, 15, 18,
23, 45, 47 to 49, 52 to 56, 81, 133, 138, 140, 144. -/
def Obligations.EngineEvents : Prop :=
  (∀ core k rest b s, (coreOf s core).holder = none → (coreOf s core).leaseQueue = k :: rest → blockOf s k = some b →
    issues s b = true → exec (.leaseGrant core) s = .next (
      let t := modCore s core fun c =>
        { c with
          holder := some k
          leaseQueue := rest
          acc := if b.lease.everHeld then b.lease.acc else []
          ops := c.ops ++ b.lease.pending }
      let t := modBlock t k fun b => { b with lease := b.lease.granted b.liveGroups }
      tryLatch (wakeRetry t (fun n => n = k) .lease) k)) ∧
  (∀ (l : Lease) live, (l.granted live).ops = (if l.carried then l.ops else 0) ∧ (l.granted live).pending = []) ∧
  (∀ core k b s, (coreOf s core).holder = some k → blockOf s k = some b → passDue s b = true → (coreOf s core).ops = [] →
    exec (.leasePass core) s =
      .next (modCore (modBlock (spillLease s b.id core false) b.id fun x => { x with lease := { x.lease with asked := s.tick } })
        core fun c => { c with leaseQueue := c.leaseQueue ++ [b.id] })) ∧
  (∀ core o rest s t, (coreOf s core).ops = o :: rest → performOp s core o = (t, true) →
    let u := dropOp t core o
    ((coreOf u core).holder = none → exec (.matrixOpComplete core) s = .next u) ∧
    (∀ k, (coreOf u core).holder = some k → exec (.matrixOpComplete core) s =
      .next (tryLatch (wakeRetry (wakeRetry u (fun n => n = k) .lease) (fun n => n = k) .release) k))) ∧
  (∀ core o rest s t, (coreOf s core).ops = o :: rest → performOp s core o = (t, false) →
    exec (.matrixOpComplete core) s = .next s) ∧
  (∀ s core o rest, (coreOf s core).ops = o :: rest → dropOp s core o = modCore s core fun c => { c with ops := rest }) ∧
  (∀ u s q k p, bfqOf s u = some q → q.gathering = some k → q.pair k = some p → p.rows ≠ [] → (ctxOf s q.part q.ctx).bfqWait ≠ 0 →
    p.start + (ctxOf s q.part q.ctx).bfqWait.toNat ≤ s.clk + p.waited → exec (.bfqWaitExpiry u) s = .next (closeBatch s u)) ∧
  (∀ u s q k p, bfqOf s u = some q → q.ready s = some (k, p) →
    (rowsWait s q.rb p.rows = true → exec (.bfqWriteback u) s = .next s) ∧
    (rowsWait s q.rb p.rows = false →
      let t := (p.rows.mapIdx fun j r => (j, r)).foldl (writeRow u q p) s
      let t := modBfq (setStaging (setStaging t q p.act false) q p.res false) u fun q =>
        { q with
          pairs := q.pairs.modify k fun p => { p with rows := [], closed := false, start := 0, waited := 0 }
          gathering := some (q.gathering.getD k) }
      exec (.bfqWriteback u) s = .next (retryHeld (wakeRetry (feRetry t) (fun _ => true) .bfq) u))) ∧
  (∀ u s q, bfqOf s u = some q → retryHeld s u =
    if q.releasing then pressRelease (q.held.foldl (admitHeld u) s) u else q.held.foldl (admitHeld u) s) ∧
  (∀ u s q, bfqOf s u = some q → q.releasing = false → nodeIdle s q = true →
    exec (.bfqAutoUnbind u) s = .next (beginRelease s u)) ∧
  (∀ n c s t, cmdOf s n = some c → c.goes s = true →
    (∀ r, movePiece s c = (t, .ok r) → exec (.engineWrite { cmd := n }) s =
      .next (countWork (countEvent t c.part c.ctx 0x040 16) c.part c.core 0 0 16)) ∧
    (∀ a, movePiece s c = (t, .error (.foreign a)) → exec (.engineWrite { cmd := n }) s = .next (isolateCopy s c.part c.core a)) ∧
    (movePiece s c = (t, .error .wait) → exec (.engineWrite { cmd := n }) s = .next s)) ∧
  (∀ n c s os, cmdOf s n = some c → os ≠ [] →
    exec (.engineWrite { cmd := n, early := os }) s = .next ((os.filter (c.mayRead s)).foldl (readAhead c.id) s)) ∧
  (∀ n c s, cmdOf s n = some c → c.total ≤ c.done → c.fault = false → drainPending s c = false → c.parked s = false →
    runs s c.part c.ctx = true ∨ c.moves = false → exec (.engineCommandComplete n) s = .next (finishCmd s c)) ∧
  (∀ u s c m peers fn op root src dst count dcount, oldestColl s u = some c → collTable s u = some m →
    c.kind = .coll fn u op root src dst count dcount → peers.length + 1 = m.members → (∀ q ∈ peers, q.src.length = q.count) →
    (collBad fn op root count dcount (some m) = true ∨ (∃ q ∈ peers, q.fn ≠ fn ∨ q.op ≠ op ∨ q.count ≠ count) →
      exec (.collectiveExchange u peers) s = .next (faultCmd s c { cause := 0x02, addr := dst })) ∧
    (collBad fn op root count dcount (some m) = false → (∀ q ∈ peers, q.fn = fn ∧ q.op = op ∧ q.count = count) →
      (∀ t e, readRun s c 0 (count / 16) = (t, .error (.trap e)) →
        exec (.collectiveExchange u peers) s = .next (faultCmd s c e)) ∧
      (∀ t a, readRun s c 0 (count / 16) = (t, .error (.foreign a)) →
        exec (.collectiveExchange u peers) s = .next (isolateEngine s c.part u a)) ∧
      ∀ s1 own bads, readRun s c 0 (count / 16) = (s1, .ok (own, bads)) →
        let others := peers.map fun q => (q.src, q.bads)
        let srcs := others.take m.rank ++ (own, bads) :: others.drop m.rank
        let out := collResult fn op root count dcount m.rank (srcs.map Prod.fst)
        let s2 := modCmd s1 c.id fun k => { k with total := out.length }
        let put := if fn = 0 ∨ fn = 1 ∨ fn = 4 then makeUpdate c else writeParts c
        let run := gatherParts s2 c (collParts dst out (collPoison fn root count m.rank srcs))
        let done' := fun (t : State) =>
          let wrote := ((cmdOf t c.id).map Cmd.done).getD 0
          (.next (faultMet (countDie (countEvent t c.part c.ctx 0x041 wrote) c.part (u / 8) 0 0 wrote) c) : Out)
        (run.2.2 = none → exec (.collectiveExchange u peers) s = done' (put run.1 run.2.1)) ∧
        (∀ e, run.2.2 = some (.trap e) → exec (.collectiveExchange u peers) s = done' (meetFault (put run.1 run.2.1) c e)) ∧
        (∀ a, run.2.2 = some (.foreign a) → exec (.collectiveExchange u peers) s = done' (isolateEngine run.1 c.part u a)) ∧
        (run.2.2 = some .wait → exec (.collectiveExchange u peers) s = .next s))) ∧
  (∀ n c s t e, cmdOf s n = some c → c.goes s = true → movePiece s c = (t, .error (.trap e)) →
    exec (.engineCommandFault n) s = .next (faultCmd s c e)) ∧
  (∀ n c s k a i dst fmt pitch add, cmdOf s n = some c → c.fault = false → c.done < c.total → c.kind = .mdrain dst fmt pitch add →
    c.met = some (k, a, i) → exec (.engineCommandFault n) s = .next (faultCmd s c { cause := k, addr := a, info := i })) ∧
  (∀ n c s t e fn u op root src dst count dcount, cmdOf s n = some c → c.fault = false → c.done < c.total →
    c.kind = .coll fn u op root src dst count dcount →
    readPiece s c 0 = (t, .error (.trap e)) ∨
      ((∀ t e, readPiece s c 0 ≠ (t, .error (.trap e))) ∧
        globalParts s c .write dst (segments dst.toNat 16) = (t, .error (.trap e))) →
    exec (.engineCommandFault n) s = .next (faultCmd s c e)) ∧
  (∀ blk grp lane w b g s, s.feq.find? (fun w => w.blk = blk && w.grp = grp && w.lane = lane) = some w →
    blockOf s blk = some b → groupOf s blk grp = some g → w.start + 2 ^ 28 ≤ s.clk → g.stop = none →
    runs s b.part b.ctx = true → exec (.feWatchdog blk grp lane) s = .next (feStop { s with feq := s.feq.erase w } w
      { cause := 0x1A, addr := BitVec.ofNat 64 w.addr, info := BitVec.ofNat 64 w.code })) ∧
  (∀ s w v, w ∈ s.feq → isFull s w.space (w.off / 16) ≠ v →
    { w with start := s.clk } ∈ (setFull s w.space (w.off / 16) v).feq) ∧
  (∀ blk grp b g st s, blockOf s blk = some b → groupOf s blk grp = some g → g.stop = some st → st.slot = none → issues s b = true →
    let gone := killBlock (discardStop s blk grp st) blk
    ((∀ slot k, b.origin ≠ .handler slot k) → (∀ r, b.origin ≠ .notice r) →
      exec (.stopImageWrite blk grp) s = .next (writeStop s b grp st)) ∧
    (∀ r, b.origin = .notice r → exec (.stopImageWrite blk grp) s = .next gone) ∧
    (∀ slot k, b.origin = .handler slot k → exec (.stopImageWrite blk grp) s = .next (actThree gone b.part b.ctx slot))) ∧
  (∀ blk grp id s,
    ((∀ w ∈ s.feq, w.blk = blk → w.grp = grp → w.entry = id → ∃ v, w.op = .store v) →
      exec (.memoryAccessComplete blk grp false id) s = .next (wakeRetry (modGroup s blk grp fun g =>
        { g with loads := g.loads.retire id }) (fun k => k = blk) .waitc)) ∧
    ((∀ w ∈ s.feq, w.blk = blk → w.grp = grp → w.entry = id → ∃ v, w.op = .load v) →
      exec (.memoryAccessComplete blk grp true id) s = .next (wakeRetry (modGroup s blk grp fun g =>
        { g with stores := g.stores.retire id }) (fun k => k = blk) .waitc))) ∧
  (∀ core p s, ownerOf s core = some p →
    let c := (partOf s p).running
    let i := (ctxOf s p c).sampling.interval
    i ≠ 0 → runs s p c = true → s.clk % i = core * i / 640 →
      ((coreOf s core).sampledAt ≠ some s.clk → exec (.pcSample core) s =
        .next (takeSample (modCore s core fun k => { k with sampledAt := some s.clk }) none p c core)) ∧
      ((coreOf s core).sampledAt = some s.clk → exec (.pcSample core) s = .next s))

/-- The request at the head of a partition's is served (R310): a host's or a supervisor's, of tenant context `c`, its block at `va`, which
is accessible in `t` at physical address `pa`. -/
structure Sys2Proof.Claims.Asks (host : Bool) (s : State) (p c : Nat) (va : DWord) (t : State) (pa : Nat) : Prop where
  first : (partOf s p).reqs.head? = some { host := host, ctx := c, va := va }
  up : s.boot.powered = true
  at' : blockAddr s p c va = (t, some pa)

/-- The 64 bytes of the block. -/
def Sys2Proof.Claims.blockAt (t : State) (pa : Nat) : List Byte := readRuns t [(pa, 64)]

/-- R310: results are written into the block, and STATUS last; the request is over, and a supervisor's path goes on. -/
def Sys2Proof.Claims.answerTo (host : Bool) (t : State) (p c : Nat) (va : DWord) (pa code : Nat) (outs : List (Nat × List Byte)) : State :=
  let u := (outs ++ [(2, leBytes 2 code)]).foldl (fun (s : State) (o : Nat × List Byte) => writeRuns s o.2 [(pa + o.1, o.2.length)]) t
  if host then modPart u p fun q => { q with reqs := q.reqs.drop 1 } else releaseAsker u p c va

/-- R307 to R310, R314, R316 to R318, R322, R409, R410: RMA by a data endpoint that serves the peer writes, and reads, the bytes of the
pages checked, or is refused whole; the control window answers the peer of its enabled endpoint alone, and the management window its
operator: a launch word that is good is queued, another is dropped and recorded; a host's request joins the partition's; a wrong access
is answered with an error and recorded. Model choices: logs 26, 66, 67, 81. -/
def Obligations.WindowEvents : Prop :=
  (∀ p ep peer va data s e, answersParts s = true → dataEndpoint s p ep = some e → e.serves peer = true →
    (∀ t rs, checkPages s p e.ctx e.trc .rma true va data.length = (t, .ok rs) →
      exec (.rmaWrite p ep peer va data) s = .next (replyWith (writeRuns t data rs) true [])) ∧
    (∀ t a, checkPages s p e.ctx e.trc .rma true va data.length = (t, .bad a) →
      exec (.rmaWrite p ep peer va data) s = .next (replyWith (logPart t p 0x6A e.ctx e.index 4 1 a) false [])) ∧
    (∀ t a u, checkPages s p e.ctx e.trc .rma true va data.length = (t, .foreign a u) →
      exec (.rmaWrite p ep peer va data) s = .next (isolateEndpoint t p e u))) ∧
  (∀ p ep peer va len s e, answersParts s = true → dataEndpoint s p ep = some e → e.serves peer = true →
    (∀ t rs, checkPages s p e.ctx e.trc .rma false va len = (t, .ok rs) →
      (poisonIn t 0 rs = none → exec (.rmaRead p ep peer va len) s = .next (replyWith t true (readRuns t rs))) ∧
      (∀ k, poisonIn t 0 rs = some k → exec (.rmaRead p ep peer va len) s =
        .next (replyWith (logPart t p 0x6A e.ctx e.index 4 1 (va + BitVec.ofNat 64 k)) false []))) ∧
    (∀ t a, checkPages s p e.ctx e.trc .rma false va len = (t, .bad a) →
      exec (.rmaRead p ep peer va len) s = .next (replyWith (logPart t p 0x6A e.ctx e.index 4 1 a) false [])) ∧
    (∀ t a u, checkPages s p e.ctx e.trc .rma false va len = (t, .foreign a u) →
      exec (.rmaRead p ep peer va len) s = .next (isolateEndpoint t p e u))) ∧
  (∀ p ep peer va data len s, answersParts s = true → (∀ e, dataEndpoint s p ep = some e → e.serves peer = false) →
    exec (.rmaWrite p ep peer va data) s = .next (replyWith s false []) ∧
    exec (.rmaRead p ep peer va len) s = .next (replyWith s false [])) ∧
  (∀ p peer s, answersParts s = true → (cfind s.parts p).isSome = true →
    let t := replyWith s true []
    let no := replyWith s false []
    let put := fun (off : Nat) (v : DWord) => exec (.registerWrite { window := .control p, peer := peer } off [v]) s
    (controlled s p peer = true →
      (∀ word, wordBad t p word = false →
        let u := modPart t p fun q => { q with queue := q.queue ++ [word] }
        exec (.launchWord p peer word) s = .next u ∧ put 0x000 word = .next u) ∧
      (∀ word, wordBad t p word = true →
        let u := logPart t p 0x68 (if (cfind (partOf s p).ctxs (wordCtx word)).isSome then wordCtx word else 0xFF) 0 4 1 word
        exec (.launchWord p peer word) s = .next u ∧ put 0x000 word = .next u) ∧
      (∀ v, put 0x008 v = .next (if v.getLsbD 0 then setEn t p else clearEn t p)) ∧
      (∀ v, put 0x010 v = .next t) ∧
      (∀ v : DWord, (cfind (partOf s p).ctxs (v.toNat % 4)).isSome = true → put 0x018 v = .next (modPart t p fun q =>
        { q with reqs := q.reqs ++ [{ host := true, ctx := v.toNat % 4, va := v &&& 0xFFFFFFFFFFFFFFC0 }] })) ∧
      (∀ off isRead, exec (.invalidControlAccess { window := .control p, peer := peer } off isRead) s =
        .next (logPart no p 0x69 0xFF 0 4 1 (BitVec.ofNat 64 (off % 65536 + if isRead then 65536 else 0)))) ∧
      (∀ off v, off ∉ [0x000, 0x008, 0x010, 0x018] →
        put off v = .next (logPart no p 0x69 0xFF 0 4 1 (BitVec.ofNat 64 (off % 65536))))) ∧
    (controlled s p peer = true → ∀ off vs, vs.length ≠ 1 → exec (.registerWrite { window := .control p, peer := peer } off vs) s =
      .next (logPart no p 0x69 0xFF 0 4 1 (BitVec.ofNat 64 (off % 65536)))) ∧
    (controlled s p peer = false →
      (∀ word, exec (.launchWord p peer word) s = .next no) ∧
      (∀ off vs, exec (.registerWrite { window := .control p, peer := peer } off vs) s = .next no) ∧
      ∀ off isRead, exec (.invalidControlAccess { window := .control p, peer := peer } off isRead) s = .next no)) ∧
  (∀ p s, (∃ e, controlEndpoint s p = some e ∧ e.enabled = true ∧ e.frozen = false ∧ ∀ peer, controlled s p peer = decide (e.peer = peer)) ∨
    ∀ peer, controlled s p peer = false) ∧
  (∀ s peer off v, answers s = true → answersOperator s peer = false →
    exec (.registerWrite { window := .management, peer := peer } off v) s = .next { s with replies := s.replies ++ [{ ok := false }] }) ∧
  (∀ s peer, answersOperator s peer = true →
    let put := fun (off : Nat) (vs : List DWord) => exec (.registerWrite { window := .management, peer := peer } off vs) s
    let wr := fun (m : Mgmt) => (.next (replyWith { s with mgmt := m } true []) : Out)
    let bytes := fun (vs : List DWord) => vs.flatMap fun v => leBytes 8 v.toNat
    (∀ v, (s.mgmt.busy = false → put 0x40 [v] = wr { s.mgmt with busy := true }) ∧
      put 0x50 [v] = wr { s.mgmt with evaddr := v } ∧ put 0x48 [v] = wr s.mgmt ∧ put 0x58 [v] = wr s.mgmt) ∧
    (∀ k vs, k < 8 → k + vs.length ≤ 8 → put (8 * k) vs = wr { s.mgmt with mbox := splice s.mgmt.mbox (8 * k) (bytes vs) }) ∧
    (∀ k vs, k < 512 → k + vs.length ≤ 512 →
      put (0x1000 + 8 * k) vs = wr { s.mgmt with stage := mputs s.mgmt.stage (8 * k) (bytes vs) }) ∧
    (∀ off vs, off % 8 ≠ 0 ∨ (0x60 ≤ off ∧ off < 0x1000) ∨ 0x2000 ≤ off ∨ (off < 0x40 ∧ 0x40 < off + 8 * vs.length) ∨
        (0x40 ≤ off ∧ off < 0x60 ∧ vs.length ≠ 1) ∨ (0x1000 ≤ off ∧ 0x2000 < off + 8 * vs.length) →
      put off vs = .next (logAll (replyWith s false []) 0x69 0 4 1 (BitVec.ofNat 64 (off % 65536)))) ∧
    (∀ off isRead, exec (.invalidControlAccess { window := .management, peer := peer } off isRead) s =
      .next (logAll (replyWith s false []) 0x69 0 4 1 (BitVec.ofNat 64 (off % 65536 + if isRead then 65536 else 0))))) ∧
  (∀ s, answers s = true → s.mgmt.busy = true →
    exec .mgoWriteWhileBusy s = .next (logAll (replyWith s true []) 0x69 0 4 1 0x40))

/-- R201, R202, R310 to R312, R330, R408, R418: the requests at the head of a partition's, a host's: a graph is registered in a free slot
with handle and version in the block, and its old handle gone, or refused with the lowest code that applies; one is unregistered; a
report is written, if the device's identity is usable; records of the event log are read; a KIND that no request has, and one that only a
supervisor may make, get code 10. A request that is not at the head, or has another KIND, is not served by an event; a block that cannot
be reached is not answered. Model choices: logs 26, 63, 84 to 88,
91 to 94, 98, 121, 122. -/
def Sys2Proof.Claims.RequestEvents : Prop :=
  (∀ p c va s t pa, Asks true s p c va t pa →
    let b := blockAt t pa
    let gives := fun (u : State) code outs => (.next (answerTo true u p c va pa code outs) : Out)
    (∀ frames r, num b 0 2 = 1 → registerObject p c frames b t = r →
      exec (.registerGraph p c va frames) s = gives r.state r.code r.outs) ∧
    (∀ g, num b 0 2 = 2 →
      let h := num b 4 4
      let slot := h % 2 ^ 20
      graphNamed t p c slot (h / 2 ^ 20) = some g →
      let mine := fun (w : DWord) => wordCtx w = c && wordSlot w = slot
      let u := modCtx t p c fun x => { x with graphs := cset x.graphs slot { g with gen := g.gen + 1, live := false } }
      let gone := (partOf u p).queue.filter mine
      let v := modPart u p fun q => { q with queue := q.queue.filter fun w => !mine w }
      let w := match gone.head? with
        | some d => logPart v p 0x68 c 0 4 gone.length d
        | none => v
      exec (.unregisterGraph p c va) s = gives (match versionOf w g.ver with
        | some k => retireGraph w k
        | none => w) 1 []) ∧
    (∀ u rs, num b 0 2 = 3 → bufferAt t p c (BitVec.ofNat 64 (num b 0x28 8)) 16384 true = (u, some rs) →
      let out := report u p ((b.drop 8).take 32)
      exec (.attestationReport p c va) s =
        if Config.identityUsable u.tick = true then
          if out.length ≤ 16384 then gives (writeRuns u out (attest.cutRuns out.length rs)) 1 [] else gives u 9 []
        else gives (logAll u 0x72 0 7 1 0) 11 []) ∧
    (∀ most rs next lost u runs, num b 0 2 = 7 → most = num b 0x10 2 → 0 < most → most ≤ 256 →
      logFrom (partOf t p) (num b 4 4) most = (rs, next, lost) →
      bufferAt t p c (BitVec.ofNat 64 (num b 8 8)) (32 * rs.length) true = (u, some runs) →
      exec (.eventLogRead p c va) s = gives (writeRuns u (rs.flatMap EventRec.bytes) runs) 1
        [(4, leBytes 4 next), (0x12, leBytes 2 rs.length), (0x14, leBytes 4 lost)]) ∧
    (num b 0 2 = 0 ∨ 7 < num b 0 2 → exec (.unknownRequestKind (.control p) c va) s = gives t 10 []) ∧
    (num b 0 2 = 4 → exec (.formatWindowSetup p c va) s = gives t 10 []) ∧
    (num b 0 2 = 5 → exec (.collectiveMemberTable p c va) s = gives t 10 []) ∧
    (num b 0 2 = 6 → exec (.windowGrant p c va) s = gives t 10 [])) ∧
  (∀ p c va s, (∀ host, (partOf s p).reqs.head? ≠ some { host := host, ctx := c, va := va }) →
    (∀ frames, exec (.registerGraph p c va frames) s = .next s) ∧ exec (.unregisterGraph p c va) s = .next s ∧
    exec (.attestationReport p c va) s = .next s ∧ exec (.formatWindowSetup p c va) s = .next s ∧
    exec (.collectiveMemberTable p c va) s = .next s ∧ exec (.windowGrant p c va) s = .next s ∧
    exec (.eventLogRead p c va) s = .next s ∧ exec (.unknownRequestKind (.control p) c va) s = .next s) ∧
  (∀ p c va s t host, (partOf s p).reqs.head? = some { host := host, ctx := c, va := va } → s.boot.powered = true →
    blockAddr s p c va = (t, none) →
    exec (.eventLogRead p c va) s = .next (modPart t p fun q => { q with reqs := q.reqs.drop 1 })) ∧
  (∀ p c frames blk s t,
    let r := regReq blk
    let slot := if r.graph = 0 then freeGraph (ctxOf s p c) else some (r.graph % 2 ^ 20)
    (bufferAt s p c r.objva r.objlen false = (t, none) →
      registerObject p c frames blk s = { state := t, code := if slot = none then 8 else 9 }) ∧
    (∀ rs k, bufferAt s p c r.objva r.objlen false = (t, some rs) → poisonIn t 0 rs = some k →
      registerObject p c frames blk s = { state := t, code := if slot = none then 8 else 9 }) ∧
    ∀ rs, bufferAt s p c r.objva r.objlen false = (t, some rs) → poisonIn t 0 rs = none →
      let x := objectOf (readRuns t rs)
      let old := if r.graph = 0 then none else graphNamed s p c (r.graph % 2 ^ 20) (r.graph / 2 ^ 20)
      let version := old.bind fun g => versionOf t g.ver
      (∀ k, objectCode (readRuns t rs) = some k → registerObject p c frames blk s = { state := t, code := k }) ∧
      ∀ n tiles u hs img, objectCode (readRuns t rs) = none → slot = some n → objectTiles (partOf t p).desc x = some tiles →
        allocAll t p c (tiles ++ (records 64 (x.only 10)).map Obj.shape) = (u, some hs) →
        relocateAll x (layOut 0 x.sects) r.imgva (hs.take ((x.only 9).length / 16)) (hs.drop ((x.only 9).length / 16)) = some img →
        (∀ k ∈ x.krecs, placeable t p c (kernelAt x (layOut 0 x.sects) k) = true) →
        (framesOk t p version img (max 1 ((img.length + 65535) / 65536)) frames = false →
          registerObject p c frames blk s = { state := t, code := 8 }) ∧
        (framesOk t p version img (max 1 ((img.length + 65535) / 65536)) frames = true →
          (fieldsBad t p c r = true ∨ (doneOk t p c r.trc r.done).2 = false →
            registerObject p c frames blk s = { state := (doneOk t p c r.trc r.done).1, code := 9 }) ∧
          (fieldsBad t p c r = false → (doneOk t p c r.trc r.done).2 = true →
            let gen := (old.map Graph.gen).getD (((cfind (ctxOf t p c).graphs n).map Graph.gen).getD 1)
            let nver := (old.map Graph.nver).getD 0 + 1
            let y := install ((records 16 (x.only 9)).foldl (fun t q => stateTile t p c q) u) p c n gen nver r x version img frames hs
            registerObject p c frames blk s =
              { state := match version with
                  | some v => retireGraph y v
                  | none => y
                code := 1, outs := [(4, leBytes 4 (gen * 2 ^ 20 + n)), (0x30, leBytes 4 nver)] })))

/-- R112, R288, R310, R408: a supervisor's requests, in the order received: a format window, a collective's member table and a grant are
written, records of the event log read, STATUS 1; one that only a host may make gets code 10; and the path that waits goes on. The
layouts of KINDs 4 to 6 are the model's choice: log 95; others: logs 84 to 86, 96 to 98. -/
def Sys2Proof.Claims.SupervisorRequestEvents : Prop :=
  ∀ p c va s t pa, Asks false s p c va t pa →
    let b := blockAt t pa
    let gives := fun (u : State) code outs => (.next (answerTo false u p c va pa code outs) : Out)
    (∀ r, num b 0 2 = 4 → setWindow p b t = r → exec (.formatWindowSetup p c va) s = gives r.state r.code r.outs) ∧
    (∀ unit n rank, num b 0 2 = 5 → unit = num b 4 1 → n = num b 6 2 → rank = num b 8 2 → unit < 32 →
      unit ∈ (partOf t p).desc.eng → rank < n →
      exec (.collectiveMemberTable p c va) s = gives { t with colls := cset t.colls unit { members := n, rank := rank } } 1 []) ∧
    (∀ k w, num b 0 2 = 6 → num b 4 1 = 0 → k = num b 5 1 → (partOf t p).desc.poolw[k]? = some w → w.2 ≠ 0 →
      (false, c, k) ∉ (partOf t p).grants →
      exec (.windowGrant p c va) s = gives (modPart t p fun q => { q with grants := q.grants ++ [(false, c, k)] }) 1 []) ∧
    (∀ k w, num b 0 2 = 6 → num b 4 1 = 1 → k = num b 5 1 → (partOf t p).desc.hostw[k]? = some w → w.2.1 ≠ 0 →
      (true, c, k) ∉ (partOf t p).grants →
      exec (.windowGrant p c va) s = gives (modPart t p fun q => { q with grants := q.grants ++ [(true, c, k)] }) 1 []) ∧
    (∀ most rs next lost u runs, num b 0 2 = 7 → most = num b 0x10 2 → 0 < most → most ≤ 256 →
      logFrom (partOf t p) (num b 4 4) most = (rs, next, lost) →
      bufferAt t p c (BitVec.ofNat 64 (num b 8 8)) (32 * rs.length) true = (u, some runs) →
      exec (.eventLogRead p c va) s = gives (writeRuns u (rs.flatMap EventRec.bytes) runs) 1
        [(4, leBytes 4 next), (0x12, leBytes 2 rs.length), (0x14, leBytes 4 lost)]) ∧
    (num b 0 2 = 1 → ∀ frames, exec (.registerGraph p c va frames) s = gives t 10 []) ∧
    (num b 0 2 = 2 → exec (.unregisterGraph p c va) s = gives t 10 []) ∧
    (num b 0 2 = 3 → exec (.attestationReport p c va) s = gives t 10 []) ∧
    (num b 0 2 = 0 ∨ 7 < num b 0 2 → exec (.unknownRequestKind (.control p) c va) s = gives t 10 []) ∧
    ∀ d die (w : FmtWindow), windowOk d die w = true → ∀ r ∈ windowRanges w ((w.view.toNat % 2 ^ 16 * 2 ^ 16) / fmtBytes w),
      dramOwned d r.1 = true ∧ dramOwned d (r.1 + r.2 - 1) = true ∧ r.1 / 2 ^ 33 / 16 = die

/-- R310 to R312: the requests of hosts and of supervisors to the device manager. -/
def Obligations.ManagerRequestEvents : Prop := RequestEvents ∧ SupervisorRequestEvents

/-- The management context has a request of KIND `k` in MBOX that may be served (R315, R418). -/
structure Sys2Proof.Claims.ManagerAsks (s : State) (k : Nat) : Prop where
  up : answers s = true
  busy : s.mgmt.busy = true
  kind : num s.mgmt.mbox 0 2 = k
  booted : s.boot.status = 0 ∨ k = 0x87

/-- R7, R314 to R316, R321, R326, R327, R387, R418: the management context's requests: STATUS is written and BUSY cleared, and reserved
bytes are ignored. A legal descriptor of a partition with no resident block is taken, what its engines have written having taken its
place in the order and engine contexts that leave it being cleared; a context is made and destroyed; an endpoint context
is set; a constellation is lent and comes back; the cap and the mode are set; a chunk of an image is staged, and the last one stores an
image that its checks pass, or changes nothing. Model choices: logs 25, 26, 77 to 80, 99 to 103, 124, 134, 136, 149. -/
def Obligations.ManagerEvents : Prop :=
  ∀ s m, m = s.mgmt.mbox →
    (ManagerAsks s 0x80 →
      let p := num m 4 1
      let b := mgets s.mgmt.stage (num m 8 4) 320
      let d := descOf b
      p < Config.partitions → num m 8 4 % 64 = 0 → num m 8 4 + 320 ≤ 4096 → descLegal d = true → sharesOk s p d = true →
      takesSaved s p d = false → (∀ k ∈ s.blocks, k.part ≠ p) →
      (∀ k ∈ (partOf s p).resume, k.parked = true → k.away = true) →
      let o := (partOf s p).desc
      let t := clearEngines (leaveWindows (landAll s p fun _ => true) o d) p o d
      let t := if o.dspw = d.dspw then t else moveWindows t p o d
      let q := partOf t p
      let q :=
        { q with
          desc := d
          lost := if o.hostw = d.hostw then q.lost else []
          loans := q.loans.filter fun e => d.const.contains e.1 }
      let fmt := t.fmt.filter fun w => w.2.part ≠ p || !w.2.ctl.getLsbD 63 || windowOk d (w.1 / 16) w.2
      let t := vacate { t with parts := cset t.parts p q, fmt := fmt } p (o.const.filter fun k => !d.const.contains k)
      exec .writePartitionDescriptor s = .next (finishMgmt (limitSplits t p) 1)) ∧
    (∀ p k, let t := vacate s p [k]
      t.parts = s.parts ∧ t.blocks = s.blocks ∧ (∀ n, Config.constOf n ≠ k → coreOf t n = coreOf s n) ∧
      t.cmds = s.cmds.map (Cmd.rehome s p) ∧
      ((∃ q ∈ s.parts, k ∈ q.2.desc.const) → t.cores = s.cores ∧ t.frozenCopies = s.frozenCopies) ∧
      ((∀ q ∈ s.parts, k ∉ q.2.desc.const) → k ∉ t.frozenCopies ∧
        ∀ n, Config.constOf n = k → (coreOf s n).allocs = [] → coreOf t n = {})) ∧
    (∀ p c, ctxOf (limitSplits s p) p c = { ctxOf s p c with splitLimit := (ctxOf (limitSplits s p) p c).splitLimit }) ∧
    (ManagerAsks s 0x81 →
      let p := num m 4 1
      let c := num m 5 1
      ∀ q, p < Config.partitions → c < Config.contexts → cfind s.parts p = some q → cfind q.ctxs c = none →
        ((cfind q.ctxs q.running).isSome = true → exec .createTenantContext s = .next (finishMgmt
          { s with parts := cset s.parts p { q with ctxs := cset q.ctxs c { saved := some {} } } } 1)) ∧
        (cfind q.ctxs q.running = none → exec .createTenantContext s = .next (finishMgmt (startCtx
          { s with parts := cset s.parts p { q with ctxs := cset q.ctxs c { saved := some {} } } } p c) 1))) ∧
    (ManagerAsks s 0x82 →
      let p := num m 4 1
      let c := num m 5 1
      p < Config.partitions → c < Config.contexts → (cfind (partOf s p).ctxs c).isSome = true →
      let t := modPart (killCtx s p c) p fun q =>
        { q with
          ctxs := cdel q.ctxs c
          eps := q.eps.filter fun e => e.control || e.ctx ≠ c
          grants := q.grants.filter fun g => g.2.1 ≠ c }
      exec .destroyTenantContext s = .next (finishMgmt (if (partOf s p).running = c then goOn t p false else t) 1)) ∧
    (ManagerAsks s 0x83 →
      let p := num m 4 1
      let data := num m 6 1 = 1
      let e : Endpoint :=
        { control := !decide data, index := if data then num m 7 1 else 0, ctx := if data then num m 5 1 else 0,
          trc := if data then num m 8 1 else 0, enabled := num m 9 1 = 1, peer := num m 16 16 }
      let rest := (partOf s p).eps.filter fun k => !(k.control = e.control && k.index = e.index && k.ctx = e.ctx)
      p < Config.partitions → num m 6 1 ≤ 1 → num m 9 1 ≤ 1 → e.ctx < Config.contexts → e.index < 64 → e.trc < 16 →
      (data → (rest.filter fun k => !k.control).length < 64 ∧ (cfind (partOf s p).ctxs e.ctx).isSome = true) →
      (cfind s.parts p).isSome = true →
      exec .configureEndpointContext s = .next (finishMgmt (modPart s p fun q => { q with eps := rest ++ [e] }) 1)) ∧
    (ManagerAsks s 0x84 →
      let x := num m 4 1
      let y := num m 5 1
      let k := num m 6 1
      x < Config.partitions → y < Config.partitions → x ≠ y → k < 64 → (cfind s.parts x).isSome = true →
      k ∈ (partOf s x).desc.const → (∀ e ∈ (partOf s x).loans, e.1 ≠ k) → 2 ≤ (partOf s x).desc.const.length →
      ((cfind s.parts y).isSome = true → (∀ b ∈ s.blocks, ¬(b.part = x ∧ Config.constOf b.core = k)) →
        exec .lendConstellation s = .next (finishMgmt (modPart (vacate (modPart s x fun q =>
          { q with desc := { q.desc with const := sremove q.desc.const k } }) x [k]) y fun q =>
          { q with desc := { q.desc with const := sinsert q.desc.const k }, loans := q.loans ++ [(k, x)] }) 1)) ∧
      (cfind s.parts y = none → exec .lendConstellation s = .next (finishMgmt s 13))) ∧
    (ManagerAsks s 0x84 →
      num m 4 1 < Config.partitions → num m 5 1 < Config.partitions → (cfind s.parts (num m 4 1)).isSome = true →
      num m 6 1 ∉ (partOf s (num m 4 1)).desc.const → exec .lendConstellation s = .next (finishMgmt s 9)) ∧
    (ManagerAsks s 0x85 →
      let x := num m 4 1
      let k := num m 6 1
      ∀ y q, x < Config.partitions → k < 64 → (cfind s.parts x).isSome = true →
        s.parts.find? (fun e => e.2.loans.contains (k, x)) = some (y, q) →
        let t := ((s.blocks.filter fun b => b.part = y && Config.constOf b.core = k).map Block.id).foldl (fun s b => evict s y b) s
        let t := modPart t y fun q =>
          { q with desc := { q.desc with const := sremove q.desc.const k }, loans := q.loans.filter fun e => e ≠ (k, x) }
        let t := modPart (vacate t y [k]) x fun q => { q with desc := { q.desc with const := sinsert q.desc.const k } }
        let home := fun (r : TaskRec) => if r.part = y ∧ r.queued = true ∧ Config.constOf r.home = k then { r with home := homeOf t r } else r
        exec .reclaimConstellation s = .next (finishMgmt { t with recs := t.recs.map home } 1)) ∧
    (ManagerAsks s 0x86 → num m 8 4 ≤ 3200 → (s.parts.map fun q => q.2.desc.pwr).sum + 200 ≤ num m 8 4 →
      num m 12 1 ≤ 1 → exec .setCapAndMode s = .next (finishMgmt
        { s with cap := num m 8 4, capBefore := num m 8 4, budgetMode := num m 12 1 = 1 } 1)) ∧
    (ManagerAsks s 0x87 →
      let off := num m 8 4
      let len := num m 12 4
      8 ≤ len → len ≤ 4096 → len % 8 = 0 →
      let staged := splice (s.boot.staged ++ List.replicate (off - s.boot.staged.length) 0) off (mgets s.mgmt.stage 0 len)
      (num m 16 1 = 0 → exec .writeFirmwareChunk s = .next (finishMgmt { s with boot := { s.boot with staged := staged } } 1)) ∧
      (num m 16 1 = 1 →
        let b := { s.boot with staged := staged, slots := s.boot.slots.set 0 staged, readable := s.boot.readable.set 0 true }
        exec .writeFirmwareChunk s = .next (if slotStatus b 0 = 0 then finishMgmt { s with boot := { b with staged := [] } } 1
          else finishMgmt s 9))) ∧
    (answers s = true → s.mgmt.busy = true → num m 0 2 < 0x80 ∨ 0x87 < num m 0 2 →
      ∀ c va, exec (.unknownRequestKind .management c va) s = .next (finishMgmt s 10))

/-! ### Decoding, the step, reset and the memories -/

/-- Words that the chapters give, bit by bit, and the instructions that they stand for. -/
def Obligations.DecodeWords : Prop :=
  decodeWords [0x021048A8] = .ok (.ialuSar 4 9 10 {}, 1) ∧
  decodeWords [0x040817FF] = .ok (.iaddi 2 2 0x7FF {}, 1) ∧
  decodeWords [0x0C081C05] = .ok (.ishiSar 2 3 5 {}, 1) ∧
  decodeWords [0x1004FE00] = .ok (.movhi 1 0xFE00 {}, 1) ∧
  decodeWords [0x16440822] = .ok (.icmpLts 4 1 1 2 {}, 1) ∧
  decodeWords [0x1E041030] = .ok (.faddAdd 1 2 3 {}, 1) ∧
  decodeWords [0x7EFD00E0, 0x28081802] = .ok (.cvt 2 3 0 2 { mod := some { p := 31, neg := false, rnd := 4, sat := false, ftz := false, aux := 7 } }, 2) ∧
  decodeWords [0x45F00008] = .ok (.call 31 0 8 {}, 1) ∧
  decodeWords [0x46000000] = .ok (.ctlRet {}, 1) ∧
  decodeWords [0xAA006070] = .ok (.sysw 3 0x070 {}, 1)

/-- R389: a word of a major that Table 8-1 or Table 8-2 assigns to no instruction is none: cause 0x01, with the word. -/
def Obligations.UnassignedMajors : Prop :=
  ∀ (w : Word) rest, (w.getLsbD 31 = false ∧ 0x27 ≤ (w.extractLsb' 25 6).toNat ∧ (w.extractLsb' 25 6).toNat ≤ 0x3E ∨
      w.getLsbD 31 = true ∧ 0x1A ≤ (w.extractLsb' 25 6).toNat ∧ (w.extractLsb' 25 6).toNat ≤ 0x3E) →
    ∃ b, decodeWords (w :: rest) = .error b ∧ b.cause = 0x01 ∧ b.info = w ∧ b.len = 1 ∧ b.uniform = w.getLsbD 31

/-- Decoding the words of a well-formed instruction gives it back, with every operand and every extension, whatever words
follow. -/
def Obligations.RoundTrip : Prop :=
  ∀ i rest, i.wf = true → i.base.isSome = true → decodeWords (encode i ++ rest) = .ok (i, (encode i).length)

/-- What follows the meaning of a turn: `settle`, where it answers a next state. -/
def Sys2Proof.Claims.settled : Out → Out
  | .next t => .next (settle t)
  | o => o

/-- The path of some lanes of a group, one of `paths`, issues in `s`: the words at its native PC are instruction `i`, or none (R389), from
frames that the partition owns and that are not poisoned; and `t` is the state in which it issues: the path named, its lanes free, the
instruction and its work
counted. -/
def Sys2Proof.Claims.IssuesIn (s : State) (blk grp : Nat) (lanes : BitVec 32) (paths : Nat) (i : Instr) (t : State) : Prop :=
  ∃ b g l ls n, blockOf s blk = some b ∧ groupOf s blk grp = some g ∧
    (maskLanes lanes).filter (fun i => (g.lane i).live) = l :: ls ∧ fetchForeign s b (g.lane l).npc n = none ∧
    fetchPoisoned s b (g.lane l).npc n = false ∧
    (decodeWords (fetchWords s b (g.lane l).npc) = .ok (i, n) ∨
      ∃ w, decodeWords (fetchWords s b (g.lane l).npc) = .error w ∧ i = .nonInstructionWord w ∧ n = w.len) ∧
    t = issueWork (countIssue (startPath s b grp (lanesMask (l :: ls)) (g.lane l).npc n
        ((fetchWords s b (g.lane l).npc).getD (n - 1) 0) paths) b
      (((fetchWords s b (g.lane l).npc).head?.map isUniform).getD false) (executing i g (l :: ls))) b i (executing i g (l :: ls))

/-- R30, R34 to R37, R44, R169, R389: a step executes the instruction that the words at the native PC of the path whose turn it is are: what
issues in slot 1 of the cycle, the path that the agenda names, or the one that the scheduler chooses after the swaps that are due, each
with the samples of the cycle that come before it; a word that is none raises its cause; an event of the agenda takes place. Slot 1
takes another path, unless both instructions are uniform, or on an L-core the following instruction of the only ready path, when the two may pair. Model choices: logs 3 to 6, 9, 10,
12, 23, 111 to 113, 128. -/
def Obligations.StepRunsDecoded : Prop :=
  (∀ s x i t, s.slot1 = some x → IssuesIn (passTick { s with slot1 := none }) x.blk x.grp (x.here s) x.paths i t →
    step s = settled (exec i t)) ∧
  (∀ s blk grp lane rest r b g i t, s.slot1 = none → s.agenda = .issue blk grp lane :: rest →
    let u := newCycle { s with agenda := rest }
    pathOfLane u blk grp lane = some r → blockOf u blk = some b → groupOf u blk grp = some g →
    IssuesIn (opportunity u b.core g.sub blk grp r none) blk grp r.lanes (pathCount g) i t → step s = settled (exec i t)) ∧
  (∀ s core sub blk grp b g r0 r1 i t, s.slot1 = none → s.agenda = [] →
    let u := dueSwaps (newCycle s)
    chooseGroup u = some (core, sub, blk, grp) → blockOf u blk = some b → groupOf u blk grp = some g →
    slots core (quantumOf (ctxOf u b.part b.ctx)) g = some (r0, r1) →
    let r1 := secondSlot u b g r0 r1
    let v := if r1.isSome then countEvent u b.part b.ctx 0x005 1 else u
    IssuesIn (opportunity v core sub blk grp r0 r1) blk grp r0.lanes (pathCount g) i t → step s = settled (exec i t)) ∧
  (∀ s b g r0 r, secondSlot s b g r0 (some r) = if uniformAt s b r0.pc && uniformAt s b r.pc then none else some r) ∧
  (∀ s b g r0 x, secondSlot s b g r0 none = some x → Config.isLCore b.core = true ∧ g.stepMode = 0 ∧ (∀ r ∈ g.ready, r = r0) ∧
    x.lanes = r0.lanes ∧ x.pc = r0.pc + BitVec.ofNat 64 (4 * (fetch s b r0.pc).2.1) ∧
    pairs (fetch s b r0.pc).1 (fetch s b x.pc).1 = true ∧
    ∀ r ∈ spawnReads s b g (fetch s b x.pc).1, r ∉ resWrites (fetch s b r0.pc).1) ∧
  (∀ s e rest, s.slot1 = none → s.agenda = .event e :: rest → Turn.isEvent e = true →
    step s = settled (exec e (turnTime e { s with agenda := rest })))

/-- R8, R20, R122, R316, R326, Table 13-4: the module after reset: no partition, and so no context and no launch; no block,
cluster, grid, record, family, command, binding, collective or program version, and nothing left of ended blocks; DRAM, the die
scratchpads, the pool, host memory and the staging area read 0 everywhere; nothing is queued, posted, poisoned, translated or held in
lines; the cap is 2,800 W, the arbiter in shared mode; and a tenant context has its reset values. That DRAM, the pool and host memory
read 0 is the model's choice: log 2; others: logs 7, 8. -/
def Obligations.ResetState : Prop :=
  let s := State.reset
  memWf s = true ∧ s.parts = [] ∧ s.blocks = [] ∧ s.clusters = [] ∧ s.grids = [] ∧ s.cores = [] ∧ s.versions = [] ∧ s.recs = [] ∧
    s.families = [] ∧ s.cmds = [] ∧ s.feq = [] ∧ s.bfqs = [] ∧ s.colls = [] ∧ s.shades = [] ∧ s.unpub = [] ∧ s.atOnce = [] ∧
    s.sysq = [] ∧ s.posted = [] ∧ s.poison = [] ∧ s.tlb = [] ∧ s.fmt = [] ∧ s.poolLines = [] ∧ s.poolLeases = [] ∧ s.dspFull = [] ∧
    s.clk = 0 ∧ s.ptime = 0 ∧ s.cap = 2800 ∧ s.budgetMode = false ∧
    (∀ a, mget s.dram a = 0 ∧ mget s.dsp a = 0 ∧ mget s.pool a = 0 ∧ mget s.hostMem a = 0 ∧ mget s.mgmt.stage a = 0) ∧
    s.mgmt.mbox = List.replicate 64 0 ∧ s.mgmt.busy = false ∧ s.mgmt.status = 0 ∧
  let c : Ctx := {}
  c.quantum = 16 ∧ c.leaseCap = 64 ∧ c.grgWait = 4096 ∧ c.migLive = 0x8000000001000020 ∧ c.ageSteal = 3000 ∧
    c.gbp = [0, 0, 0, 0] ∧ c.trapVec = 0 ∧ c.split = 0x10200C18 ∧ c.splitLimit = 0x228302024 ∧ c.bfqWait = 6000 ∧
    c.trc = List.replicate 16 0

/-- Every step keeps every byte memory in its canonical form: DRAM, the die scratchpads, the pool, host memory, the management staging
area, each block's core scratch, each cluster's shared memory, each lane's private slice, resident or saved, and what is left of ended
blocks; and so for the lanes' registers. -/
def Obligations.StepKeepsMemory : Prop := ∀ s t, memWf s = true → step s = .next t → memWf t = true
end

