-- ==== Sys2Proof/Laws/Cells.lean ====
section
/-! SUPPORT. Sparse tables and byte memories: a read after a write, the canonical form kept by every operation, and equal
memories that read alike. -/

namespace Sys2Proof.Laws

open Sys2Proof.Machine

variable {α : Type}

/-- Every key of a table is above `j`. -/
def Above (j : Nat) (c : Cells α) : Prop := ∀ p ∈ c, j < p.1

theorem csorted_cons (k : Nat) (v : α) (c : Cells α) : csorted ((k, v) :: c) = true ↔ Above k c ∧ csorted c = true := by
  induction c generalizing k v with
  | nil => simp [csorted, Above]
  | cons q c ih =>
    obtain ⟨j, w⟩ := q
    simp only [csorted, Bool.and_eq_true, decide_eq_true_eq]
    rw [ih]
    constructor
    · rintro ⟨h, ha, hc⟩
      refine ⟨fun p hp => ?_, ha, hc⟩
      rcases List.mem_cons.1 hp with rfl | hp
      · exact h
      · exact Nat.lt_trans h (ha p hp)
    · rintro ⟨h, ha, hc⟩
      exact ⟨h _ List.mem_cons_self, ha, hc⟩

theorem cfind_above {j : Nat} {c : Cells α} (h : Above j c) {k : Nat} (hk : k ≤ j) : cfind c k = none := by
  induction c with
  | nil => rfl
  | cons q c ih =>
    have := h q List.mem_cons_self
    rw [cfind, if_neg (by omega)]
    exact ih fun p hp => h p (List.mem_cons_of_mem _ hp)

/-- A read after a write, at the key written and at any other. -/
theorem cfind_cset (c : Cells α) (j k : Nat) (v : α) : cfind (cset c j v) k = if k = j then some v else cfind c k := by
  induction c with
  | nil => rfl
  | cons q c ih => simp only [cset]; split_ifs <;> grind [cfind]

/-- A read after a removal. -/
theorem cfind_cdel (c : Cells α) (j k : Nat) : cfind (cdel c j) k = if k = j then none else cfind c k := by
  induction c with
  | nil => simp [cdel, cfind]
  | cons q c ih => simp only [cdel]; split_ifs <;> grind [cfind]

theorem mem_cset {c : Cells α} {j : Nat} {v : α} {p : Nat × α} (h : p ∈ cset c j v) : p = (j, v) ∨ p ∈ c := by
  induction c with
  | nil => simpa [cset] using h
  | cons q c ih =>
    simp only [cset] at h
    split at h
    · simpa using h
    · split at h
      · rcases List.mem_cons.1 h with h | h
        · exact .inl h
        · exact .inr (List.mem_cons_of_mem _ h)
      · rcases List.mem_cons.1 h with h | h
        · exact .inr (h ▸ List.mem_cons_self)
        · exact (ih h).imp id (List.mem_cons_of_mem _)

theorem mem_cdel {c : Cells α} {j : Nat} {p : Nat × α} (h : p ∈ cdel c j) : p ∈ c := by
  induction c with
  | nil => cases h
  | cons q c ih =>
    simp only [cdel] at h
    split at h
    · exact List.mem_cons_of_mem _ (ih h)
    · rcases List.mem_cons.1 h with h | h
      · exact h ▸ List.mem_cons_self
      · exact List.mem_cons_of_mem _ (ih h)

/-- A write keeps the order of the keys. -/
theorem csorted_cset (c : Cells α) (j : Nat) (v : α) (h : csorted c = true) : csorted (cset c j v) = true := by
  induction c with
  | nil => rfl
  | cons q c ih =>
    obtain ⟨i, u⟩ := q
    obtain ⟨ha, hc⟩ := (csorted_cons i u c).1 h
    simp only [cset]
    split
    · rename_i hj
      refine (csorted_cons _ _ _).2 ⟨fun p hp => ?_, h⟩
      rcases List.mem_cons.1 hp with rfl | hp
      · exact hj
      · exact Nat.lt_trans hj (ha p hp)
    · split
      · rename_i _ e; subst e
        exact (csorted_cons _ _ _).2 ⟨ha, hc⟩
      · refine (csorted_cons _ _ _).2 ⟨fun p hp => ?_, ih hc⟩
        rcases mem_cset hp with rfl | hp
        · simp only; omega
        · exact ha p hp

/-- A removal keeps the order of the keys. -/
theorem csorted_cdel (c : Cells α) (j : Nat) (h : csorted c = true) : csorted (cdel c j) = true := by
  induction c with
  | nil => rfl
  | cons q c ih =>
    obtain ⟨i, u⟩ := q
    obtain ⟨ha, hc⟩ := (csorted_cons i u c).1 h
    simp only [cdel]
    split
    · exact ih hc
    · exact (csorted_cons _ _ _).2 ⟨fun p hp => ha p (mem_cdel hp), ih hc⟩

/-- A part of a table is in order when the table is. -/
theorem csorted_filter (c : Cells α) (f : Nat × α → Bool) (h : csorted c = true) : csorted (c.filter f) = true := by
  induction c with
  | nil => rfl
  | cons q c ih =>
    obtain ⟨i, u⟩ := q
    obtain ⟨ha, hc⟩ := (csorted_cons i u c).1 h
    by_cases e : f (i, u) = true
    · rw [List.filter_cons_of_pos e]
      exact (csorted_cons _ _ _).2 ⟨fun p hp => ha p (List.mem_filter.1 hp).1, ih hc⟩
    · rw [List.filter_cons_of_neg e]; exact ih hc

section
variable [DecidableEq α]

/-- A write keeps the canonical form. -/
theorem cwf_cput (d : α) (c : Cells α) (k : Nat) (v : α) (h : cwf d c = true) : cwf d (cput d c k v) = true := by
  simp only [cwf, Bool.and_eq_true, List.all_eq_true] at h ⊢
  unfold cput
  split
  · exact ⟨csorted_cdel _ _ h.1, fun p hp => h.2 p (mem_cdel hp)⟩
  · rename_i hv
    refine ⟨csorted_cset _ _ _ h.1, fun p hp => ?_⟩
    rcases mem_cset hp with rfl | hp
    · simpa using hv
    · exact h.2 p hp

/-- A part of a table is canonical when the table is. -/
theorem cwf_filter (d : α) (c : Cells α) (f : Nat × α → Bool) (h : cwf d c = true) : cwf d (c.filter f) = true := by
  simp only [cwf, Bool.and_eq_true, List.all_eq_true] at h ⊢
  exact ⟨csorted_filter _ _ h.1, fun p hp => h.2 p (List.mem_filter.1 hp).1⟩

/-- A read after a write. -/
theorem cget_cput (d : α) (c : Cells α) (j k : Nat) (v : α) :
    cget d (cput d c j v) k = if k = j then v else cget d c k := by
  unfold cget cput
  split
  · rename_i e
    rw [cfind_cdel]
    split
    · simp [e]
    · rfl
  · rw [cfind_cset]
    split <;> rfl

end

/-! ### Byte memories -/

theorem wf_sorted {m : Cells Byte} (h : Memory.wf m = true) : csorted m = true := by
  simp only [Memory.wf, cwf, Bool.and_eq_true] at h; exact h.1

/-- A byte reads as it was written, and every other byte as before. -/
theorem mget_mput (m : Cells Byte) (a b : Nat) (v : Byte) :
    mget (mput m a v) b = if b = a then v else mget m b := cget_cput _ _ _ _ _

@[simp] theorem wf_nil : Memory.wf [] = true := rfl

/-- Writing a byte keeps the canonical form. -/
theorem wf_mput (m : Cells Byte) (a : Nat) (v : Byte) (h : Memory.wf m = true) : Memory.wf (mput m a v) = true :=
  cwf_cput _ _ _ _ h

/-- Writing bytes keeps the canonical form. -/
theorem wf_mputs (m : Cells Byte) (a : Nat) (bs : List Byte) (h : Memory.wf m = true) : Memory.wf (mputs m a bs) = true := by
  induction bs generalizing m a with
  | nil => exact h
  | cons b bs ih => exact ih _ _ (wf_mput _ _ _ h)

/-- Dropping bytes keeps the canonical form. -/
theorem wf_filter (m : Cells Byte) (f : Nat × Byte → Bool) (h : Memory.wf m = true) : Memory.wf (m.filter f) = true :=
  cwf_filter _ _ _ h

/-- Writing bytes one after another keeps the canonical form. -/
theorem wf_foldl {β : Type} (f : Cells Byte → β → Cells Byte) (hf : ∀ m x, Memory.wf m = true → Memory.wf (f m x) = true)
    (xs : List β) (m : Cells Byte) (h : Memory.wf m = true) : Memory.wf (xs.foldl f m) = true := by
  induction xs generalizing m with
  | nil => exact h
  | cons x xs ih => exact ih _ (hf _ _ h)

/-- A byte outside those written reads as before. -/
theorem mget_mputs (m : Cells Byte) (a b : Nat) (bs : List Byte) (h : Memory.wf m = true) (hb : b < a ∨ a + bs.length ≤ b) :
    mget (mputs m a bs) b = mget m b := by
  induction bs generalizing m a with
  | nil => rfl
  | cons v bs ih =>
    simp only [List.length_cons] at hb
    rw [mputs, ih _ _ (wf_mput _ _ _ h) (by omega), mget_mput, if_neg (by omega)]

/-- The canonical form of the module's memories, after reset. -/
theorem memWf_reset : memWf State.reset = true := by decide

end Sys2Proof.Laws
end

