-- ==== Sys2Proof/Laws/Words.lean ====
section
/-! SUPPORT. Fields of words that are put together from fields. -/

namespace Sys2Proof.Laws

/-- A field that lies in the low part. -/
theorem cut_lo {m n : Nat} (a : BitVec m) (b : BitVec n) (lo len : Nat) (h : lo + len ≤ n) :
    (a ++ b).extractLsb' lo len = b.extractLsb' lo len := by
  ext i hi
  have : lo + i < n := by omega
  simp [BitVec.getLsbD_append, this]

/-- A field that lies in the high part. -/
theorem cut_hi {m n : Nat} (a : BitVec m) (b : BitVec n) (lo len : Nat) (h : n ≤ lo) :
    (a ++ b).extractLsb' lo len = a.extractLsb' (lo - n) len := by
  ext i hi
  have : ¬ lo + i < n := by omega
  have e : lo + i - n = lo - n + i := by omega
  simp [BitVec.getLsbD_append, this, e]

/-- A bit of the low part. -/
theorem bit_lo {m n : Nat} (a : BitVec m) (b : BitVec n) (k : Nat) (h : k < n) : (a ++ b).getLsbD k = b.getLsbD k := by
  simp [BitVec.getLsbD_append, h]

/-- A bit of the high part. -/
theorem bit_hi {m n : Nat} (a : BitVec m) (b : BitVec n) (k : Nat) (h : n ≤ k) : (a ++ b).getLsbD k = a.getLsbD (k - n) := by
  simp [BitVec.getLsbD_append, Nat.not_lt.2 h]

end Sys2Proof.Laws
end

