-- ==== Sys2Proof/Laws/PerInstr.lean ====
section
/-! SUPPORT. One lemma per constructor: the decoder reads the base word of an instruction as that instruction. -/

namespace Sys2Proof.Laws.BaseDecodes

open Sys2Proof

/-- The base word of an instruction stands in its half, the only one the instruction has extensions of, is no extension word,
and decodes, with the instruction's extension
words, to the instruction. -/
def Statement (i : Instr) : Prop :=
  ∀ w, i.base = some w → isExt w = false ∧ isUniform w = i.uext.isSome ∧ i.lext.isSome = !i.uext.isSome ∧
    (∀ x, i.lext = some x → decodeLaneBase w x = some i) ∧ ∀ x, i.uext = some x → decodeUniformBase w x = some i

theorem event {i : Instr} (h : i.base = none) : Statement i := by
  intro w hw; rw [h] at hw; cases hw

theorem lane {i : Instr} {w : Word} {x : LExt} (hw : i.base = some w) (hx : i.lext = some x) (hu : i.uext = none)
    (h : decodeLaneBase w x = some i ∧ isExt w = false ∧ isUniform w = false) : Statement i := by
  intro v hv
  cases hw.symm.trans hv
  refine ⟨h.2.1, by rw [hu]; exact h.2.2, by simp [hx, hu], ?_, ?_⟩
  · intro y hy; cases hx.symm.trans hy; exact h.1
  · intro y hy; rw [hu] at hy; cases hy

theorem uni {i : Instr} {w : Word} {x : UExt} (hw : i.base = some w) (hx : i.uext = some x) (hl : i.lext = none)
    (h : decodeUniformBase w x = some i ∧ isExt w = false ∧ isUniform w = true) : Statement i := by
  intro v hv
  cases hw.symm.trans hv
  refine ⟨h.2.1, by rw [hx]; exact h.2.2, by simp [hx, hl], ?_, ?_⟩
  · intro y hy; rw [hl] at hy; cases hy
  · intro y hy; cases hx.symm.trans hy; exact h.1

theorem lsysNop (x : LExt) : Statement (.lsysNop x) :=
  lane rfl rfl rfl (by simp (disch := decide) only [isExt, isUniform, decodeLaneBase, decL00, cut_lo, cut_hi]; simp)

theorem lsysLane (d : BitVec 7) (x : LExt) : Statement (.lsysLane d x) :=
  lane rfl rfl rfl (by simp (disch := decide) only [isExt, isUniform, decodeLaneBase, decL00, cut_lo, cut_hi]; simp)

theorem lsysTid (d : BitVec 7) (x : LExt) : Statement (.lsysTid d x) :=
  lane rfl rfl rfl (by simp (disch := decide) only [isExt, isUniform, decodeLaneBase, decL00, cut_lo, cut_hi]; simp)

theorem lsysGrp (d : BitVec 7) (sel : BitVec 7) (x : LExt) : Statement (.lsysGrp d sel x) :=
  lane rfl rfl rfl (by simp (disch := decide) only [isExt, isUniform, decodeLaneBase, decL00, cut_lo, cut_hi]; simp)

theorem lsysClk (d : BitVec 7) (x : LExt) : Statement (.lsysClk d x) :=
  lane rfl rfl rfl (by simp (disch := decide) only [isExt, isUniform, decodeLaneBase, decL00, cut_lo, cut_hi]; simp)

theorem lsysBrk (x : LExt) : Statement (.lsysBrk x) :=
  lane rfl rfl rfl (by simp (disch := decide) only [isExt, isUniform, decodeLaneBase, decL00, cut_lo, cut_hi]; simp)

theorem ialuAdd (d : BitVec 7) (a : BitVec 7) (b : BitVec 7) (x : LExt) : Statement (.ialuAdd d a b x) :=
  lane rfl rfl rfl (by simp (disch := decide) only [isExt, isUniform, decodeLaneBase, decL01, cut_lo, cut_hi]; simp)

theorem ialuSub (d : BitVec 7) (a : BitVec 7) (b : BitVec 7) (x : LExt) : Statement (.ialuSub d a b x) :=
  lane rfl rfl rfl (by simp (disch := decide) only [isExt, isUniform, decodeLaneBase, decL01, cut_lo, cut_hi]; simp)

theorem ialuAnd (d : BitVec 7) (a : BitVec 7) (b : BitVec 7) (x : LExt) : Statement (.ialuAnd d a b x) :=
  lane rfl rfl rfl (by simp (disch := decide) only [isExt, isUniform, decodeLaneBase, decL01, cut_lo, cut_hi]; simp)

theorem ialuOr (d : BitVec 7) (a : BitVec 7) (b : BitVec 7) (x : LExt) : Statement (.ialuOr d a b x) :=
  lane rfl rfl rfl (by simp (disch := decide) only [isExt, isUniform, decodeLaneBase, decL01, cut_lo, cut_hi]; simp)

theorem ialuXor (d : BitVec 7) (a : BitVec 7) (b : BitVec 7) (x : LExt) : Statement (.ialuXor d a b x) :=
  lane rfl rfl rfl (by simp (disch := decide) only [isExt, isUniform, decodeLaneBase, decL01, cut_lo, cut_hi]; simp)

theorem ialuAndn (d : BitVec 7) (a : BitVec 7) (b : BitVec 7) (x : LExt) : Statement (.ialuAndn d a b x) :=
  lane rfl rfl rfl (by simp (disch := decide) only [isExt, isUniform, decodeLaneBase, decL01, cut_lo, cut_hi]; simp)

theorem ialuShl (d : BitVec 7) (a : BitVec 7) (b : BitVec 7) (x : LExt) : Statement (.ialuShl d a b x) :=
  lane rfl rfl rfl (by simp (disch := decide) only [isExt, isUniform, decodeLaneBase, decL01, cut_lo, cut_hi]; simp)

theorem ialuShr (d : BitVec 7) (a : BitVec 7) (b : BitVec 7) (x : LExt) : Statement (.ialuShr d a b x) :=
  lane rfl rfl rfl (by simp (disch := decide) only [isExt, isUniform, decodeLaneBase, decL01, cut_lo, cut_hi]; simp)

theorem ialuSar (d : BitVec 7) (a : BitVec 7) (b : BitVec 7) (x : LExt) : Statement (.ialuSar d a b x) :=
  lane rfl rfl rfl (by simp (disch := decide) only [isExt, isUniform, decodeLaneBase, decL01, cut_lo, cut_hi]; simp)

theorem ialuMins (d : BitVec 7) (a : BitVec 7) (b : BitVec 7) (x : LExt) : Statement (.ialuMins d a b x) :=
  lane rfl rfl rfl (by simp (disch := decide) only [isExt, isUniform, decodeLaneBase, decL01, cut_lo, cut_hi]; simp)

theorem ialuMaxs (d : BitVec 7) (a : BitVec 7) (b : BitVec 7) (x : LExt) : Statement (.ialuMaxs d a b x) :=
  lane rfl rfl rfl (by simp (disch := decide) only [isExt, isUniform, decodeLaneBase, decL01, cut_lo, cut_hi]; simp)

theorem ialuMinn (d : BitVec 7) (a : BitVec 7) (b : BitVec 7) (x : LExt) : Statement (.ialuMinn d a b x) :=
  lane rfl rfl rfl (by simp (disch := decide) only [isExt, isUniform, decodeLaneBase, decL01, cut_lo, cut_hi]; simp)

theorem ialuMaxn (d : BitVec 7) (a : BitVec 7) (b : BitVec 7) (x : LExt) : Statement (.ialuMaxn d a b x) :=
  lane rfl rfl rfl (by simp (disch := decide) only [isExt, isUniform, decodeLaneBase, decL01, cut_lo, cut_hi]; simp)

theorem ialuAbs (d : BitVec 7) (a : BitVec 7) (x : LExt) : Statement (.ialuAbs d a x) :=
  lane rfl rfl rfl (by simp (disch := decide) only [isExt, isUniform, decodeLaneBase, decL01, cut_lo, cut_hi]; simp)

theorem iaddi (d : BitVec 7) (a : BitVec 7) (imm : BitVec 11) (x : LExt) : Statement (.iaddi d a imm x) :=
  lane rfl rfl rfl (by simp (disch := decide) only [isExt, isUniform, decodeLaneBase, decL02, cut_lo, cut_hi]; simp)

theorem andi (d : BitVec 7) (a : BitVec 7) (imm : BitVec 11) (x : LExt) : Statement (.andi d a imm x) :=
  lane rfl rfl rfl (by simp (disch := decide) only [isExt, isUniform, decodeLaneBase, decL03, cut_lo, cut_hi]; simp)

theorem ori (d : BitVec 7) (a : BitVec 7) (imm : BitVec 11) (x : LExt) : Statement (.ori d a imm x) :=
  lane rfl rfl rfl (by simp (disch := decide) only [isExt, isUniform, decodeLaneBase, decL04, cut_lo, cut_hi]; simp)

theorem xori (d : BitVec 7) (a : BitVec 7) (imm : BitVec 11) (x : LExt) : Statement (.xori d a imm x) :=
  lane rfl rfl rfl (by simp (disch := decide) only [isExt, isUniform, decodeLaneBase, decL05, cut_lo, cut_hi]; simp)

theorem ishiShl (d : BitVec 7) (a : BitVec 7) (n : BitVec 5) (x : LExt) : Statement (.ishiShl d a n x) :=
  lane rfl rfl rfl (by simp (disch := decide) only [isExt, isUniform, decodeLaneBase, decL06, cut_lo, cut_hi]; simp)

theorem ishiShr (d : BitVec 7) (a : BitVec 7) (n : BitVec 5) (x : LExt) : Statement (.ishiShr d a n x) :=
  lane rfl rfl rfl (by simp (disch := decide) only [isExt, isUniform, decodeLaneBase, decL06, cut_lo, cut_hi]; simp)

theorem ishiSar (d : BitVec 7) (a : BitVec 7) (n : BitVec 5) (x : LExt) : Statement (.ishiSar d a n x) :=
  lane rfl rfl rfl (by simp (disch := decide) only [isExt, isUniform, decodeLaneBase, decL06, cut_lo, cut_hi]; simp)

theorem ishiRol (d : BitVec 7) (a : BitVec 7) (n : BitVec 5) (x : LExt) : Statement (.ishiRol d a n x) :=
  lane rfl rfl rfl (by simp (disch := decide) only [isExt, isUniform, decodeLaneBase, decL06, cut_lo, cut_hi]; simp)

theorem movi (d : BitVec 7) (imm : BitVec 18) (x : LExt) : Statement (.movi d imm x) :=
  lane rfl rfl rfl (by simp (disch := decide) only [isExt, isUniform, decodeLaneBase, decL07, cut_lo, cut_hi]; simp)

theorem movhi (d : BitVec 7) (imm : BitVec 18) (x : LExt) : Statement (.movhi d imm x) :=
  lane rfl rfl rfl (by simp (disch := decide) only [isExt, isUniform, decodeLaneBase, decL08, cut_lo, cut_hi]; simp)

theorem imulLo (d : BitVec 7) (a : BitVec 7) (b : BitVec 7) (x : LExt) : Statement (.imulLo d a b x) :=
  lane rfl rfl rfl (by simp (disch := decide) only [isExt, isUniform, decodeLaneBase, decL09, cut_lo, cut_hi]; simp)

theorem imulHis (d : BitVec 7) (a : BitVec 7) (b : BitVec 7) (x : LExt) : Statement (.imulHis d a b x) :=
  lane rfl rfl rfl (by simp (disch := decide) only [isExt, isUniform, decodeLaneBase, decL09, cut_lo, cut_hi]; simp)

theorem imulHin (d : BitVec 7) (a : BitVec 7) (b : BitVec 7) (x : LExt) : Statement (.imulHin d a b x) :=
  lane rfl rfl rfl (by simp (disch := decide) only [isExt, isUniform, decodeLaneBase, decL09, cut_lo, cut_hi]; simp)

theorem imulWides (d : BitVec 7) (a : BitVec 7) (b : BitVec 7) (x : LExt) : Statement (.imulWides d a b x) :=
  lane rfl rfl rfl (by simp (disch := decide) only [isExt, isUniform, decodeLaneBase, decL09, cut_lo, cut_hi]; simp)

theorem imulWiden (d : BitVec 7) (a : BitVec 7) (b : BitVec 7) (x : LExt) : Statement (.imulWiden d a b x) :=
  lane rfl rfl rfl (by simp (disch := decide) only [isExt, isUniform, decodeLaneBase, decL09, cut_lo, cut_hi]; simp)

theorem imulMad (d : BitVec 7) (a : BitVec 7) (b : BitVec 7) (x : LExt) : Statement (.imulMad d a b x) :=
  lane rfl rfl rfl (by simp (disch := decide) only [isExt, isUniform, decodeLaneBase, decL09, cut_lo, cut_hi]; simp)

theorem ibitPopc (d : BitVec 7) (a : BitVec 7) (x : LExt) : Statement (.ibitPopc d a x) :=
  lane rfl rfl rfl (by simp (disch := decide) only [isExt, isUniform, decodeLaneBase, decL0A, cut_lo, cut_hi]; simp)

theorem ibitClz (d : BitVec 7) (a : BitVec 7) (x : LExt) : Statement (.ibitClz d a x) :=
  lane rfl rfl rfl (by simp (disch := decide) only [isExt, isUniform, decodeLaneBase, decL0A, cut_lo, cut_hi]; simp)

theorem ibitCtz (d : BitVec 7) (a : BitVec 7) (x : LExt) : Statement (.ibitCtz d a x) :=
  lane rfl rfl rfl (by simp (disch := decide) only [isExt, isUniform, decodeLaneBase, decL0A, cut_lo, cut_hi]; simp)

theorem ibitBrev (d : BitVec 7) (a : BitVec 7) (x : LExt) : Statement (.ibitBrev d a x) :=
  lane rfl rfl rfl (by simp (disch := decide) only [isExt, isUniform, decodeLaneBase, decL0A, cut_lo, cut_hi]; simp)

theorem ibitBfxs (d : BitVec 7) (a : BitVec 7) (b : BitVec 7) (x : LExt) : Statement (.ibitBfxs d a b x) :=
  lane rfl rfl rfl (by simp (disch := decide) only [isExt, isUniform, decodeLaneBase, decL0A, cut_lo, cut_hi]; simp)

theorem ibitBfxn (d : BitVec 7) (a : BitVec 7) (b : BitVec 7) (x : LExt) : Statement (.ibitBfxn d a b x) :=
  lane rfl rfl rfl (by simp (disch := decide) only [isExt, isUniform, decodeLaneBase, decL0A, cut_lo, cut_hi]; simp)

theorem ibitBfi (d : BitVec 7) (a : BitVec 7) (b : BitVec 7) (x : LExt) : Statement (.ibitBfi d a b x) :=
  lane rfl rfl rfl (by simp (disch := decide) only [isExt, isUniform, decodeLaneBase, decL0A, cut_lo, cut_hi]; simp)

theorem icmpEq (pd : BitVec 5) (comb : BitVec 2) (a : BitVec 7) (b : BitVec 7) (x : LExt) : Statement (.icmpEq pd comb a b x) :=
  lane rfl rfl rfl (by simp (disch := decide) only [isExt, isUniform, decodeLaneBase, decL0B, cut_lo, cut_hi]; simp)

theorem icmpNe (pd : BitVec 5) (comb : BitVec 2) (a : BitVec 7) (b : BitVec 7) (x : LExt) : Statement (.icmpNe pd comb a b x) :=
  lane rfl rfl rfl (by simp (disch := decide) only [isExt, isUniform, decodeLaneBase, decL0B, cut_lo, cut_hi]; simp)

theorem icmpLts (pd : BitVec 5) (comb : BitVec 2) (a : BitVec 7) (b : BitVec 7) (x : LExt) : Statement (.icmpLts pd comb a b x) :=
  lane rfl rfl rfl (by simp (disch := decide) only [isExt, isUniform, decodeLaneBase, decL0B, cut_lo, cut_hi]; simp)

theorem icmpLes (pd : BitVec 5) (comb : BitVec 2) (a : BitVec 7) (b : BitVec 7) (x : LExt) : Statement (.icmpLes pd comb a b x) :=
  lane rfl rfl rfl (by simp (disch := decide) only [isExt, isUniform, decodeLaneBase, decL0B, cut_lo, cut_hi]; simp)

theorem icmpGts (pd : BitVec 5) (comb : BitVec 2) (a : BitVec 7) (b : BitVec 7) (x : LExt) : Statement (.icmpGts pd comb a b x) :=
  lane rfl rfl rfl (by simp (disch := decide) only [isExt, isUniform, decodeLaneBase, decL0B, cut_lo, cut_hi]; simp)

theorem icmpGes (pd : BitVec 5) (comb : BitVec 2) (a : BitVec 7) (b : BitVec 7) (x : LExt) : Statement (.icmpGes pd comb a b x) :=
  lane rfl rfl rfl (by simp (disch := decide) only [isExt, isUniform, decodeLaneBase, decL0B, cut_lo, cut_hi]; simp)

theorem icmpLtn (pd : BitVec 5) (comb : BitVec 2) (a : BitVec 7) (b : BitVec 7) (x : LExt) : Statement (.icmpLtn pd comb a b x) :=
  lane rfl rfl rfl (by simp (disch := decide) only [isExt, isUniform, decodeLaneBase, decL0B, cut_lo, cut_hi]; simp)

theorem icmpLen (pd : BitVec 5) (comb : BitVec 2) (a : BitVec 7) (b : BitVec 7) (x : LExt) : Statement (.icmpLen pd comb a b x) :=
  lane rfl rfl rfl (by simp (disch := decide) only [isExt, isUniform, decodeLaneBase, decL0B, cut_lo, cut_hi]; simp)

theorem icmpGtn (pd : BitVec 5) (comb : BitVec 2) (a : BitVec 7) (b : BitVec 7) (x : LExt) : Statement (.icmpGtn pd comb a b x) :=
  lane rfl rfl rfl (by simp (disch := decide) only [isExt, isUniform, decodeLaneBase, decL0B, cut_lo, cut_hi]; simp)

theorem icmpGen (pd : BitVec 5) (comb : BitVec 2) (a : BitVec 7) (b : BitVec 7) (x : LExt) : Statement (.icmpGen pd comb a b x) :=
  lane rfl rfl rfl (by simp (disch := decide) only [isExt, isUniform, decodeLaneBase, decL0B, cut_lo, cut_hi]; simp)

theorem plogAnd (pd : BitVec 5) (comb : BitVec 2) (a : BitVec 5) (b : BitVec 5) (x : LExt) : Statement (.plogAnd pd comb a b x) :=
  lane rfl rfl rfl (by simp (disch := decide) only [isExt, isUniform, decodeLaneBase, decL0C, cut_lo, cut_hi]; simp)

theorem plogOr (pd : BitVec 5) (comb : BitVec 2) (a : BitVec 5) (b : BitVec 5) (x : LExt) : Statement (.plogOr pd comb a b x) :=
  lane rfl rfl rfl (by simp (disch := decide) only [isExt, isUniform, decodeLaneBase, decL0C, cut_lo, cut_hi]; simp)

theorem plogXor (pd : BitVec 5) (comb : BitVec 2) (a : BitVec 5) (b : BitVec 5) (x : LExt) : Statement (.plogXor pd comb a b x) :=
  lane rfl rfl rfl (by simp (disch := decide) only [isExt, isUniform, decodeLaneBase, decL0C, cut_lo, cut_hi]; simp)

theorem plogAndn (pd : BitVec 5) (comb : BitVec 2) (a : BitVec 5) (b : BitVec 5) (x : LExt) : Statement (.plogAndn pd comb a b x) :=
  lane rfl rfl rfl (by simp (disch := decide) only [isExt, isUniform, decodeLaneBase, decL0C, cut_lo, cut_hi]; simp)

theorem plogOrn (pd : BitVec 5) (comb : BitVec 2) (a : BitVec 5) (b : BitVec 5) (x : LExt) : Statement (.plogOrn pd comb a b x) :=
  lane rfl rfl rfl (by simp (disch := decide) only [isExt, isUniform, decodeLaneBase, decL0C, cut_lo, cut_hi]; simp)

theorem cmovNz (d : BitVec 7) (a : BitVec 7) (b : BitVec 7) (x : LExt) : Statement (.cmovNz d a b x) :=
  lane rfl rfl rfl (by simp (disch := decide) only [isExt, isUniform, decodeLaneBase, decL0D, cut_lo, cut_hi]; simp)

theorem cmovZ (d : BitVec 7) (a : BitVec 7) (b : BitVec 7) (x : LExt) : Statement (.cmovZ d a b x) :=
  lane rfl rfl rfl (by simp (disch := decide) only [isExt, isUniform, decodeLaneBase, decL0D, cut_lo, cut_hi]; simp)

theorem cmovRdp (d : BitVec 7) (x : LExt) : Statement (.cmovRdp d x) :=
  lane rfl rfl rfl (by simp (disch := decide) only [isExt, isUniform, decodeLaneBase, decL0D, cut_lo, cut_hi]; simp)

theorem cmovWrp (a : BitVec 7) (b : BitVec 7) (x : LExt) : Statement (.cmovWrp a b x) :=
  lane rfl rfl rfl (by simp (disch := decide) only [isExt, isUniform, decodeLaneBase, decL0D, cut_lo, cut_hi]; simp)

theorem lanexShfl (d : BitVec 7) (a : BitVec 7) (b : BitVec 7) (x : LExt) : Statement (.lanexShfl d a b x) :=
  lane rfl rfl rfl (by simp (disch := decide) only [isExt, isUniform, decodeLaneBase, decL0E, cut_lo, cut_hi]; simp)

theorem lanexShflx (d : BitVec 7) (a : BitVec 7) (b : BitVec 7) (x : LExt) : Statement (.lanexShflx d a b x) :=
  lane rfl rfl rfl (by simp (disch := decide) only [isExt, isUniform, decodeLaneBase, decL0E, cut_lo, cut_hi]; simp)

theorem lanexShflup (d : BitVec 7) (a : BitVec 7) (b : BitVec 7) (x : LExt) : Statement (.lanexShflup d a b x) :=
  lane rfl rfl rfl (by simp (disch := decide) only [isExt, isUniform, decodeLaneBase, decL0E, cut_lo, cut_hi]; simp)

theorem lanexShfldn (d : BitVec 7) (a : BitVec 7) (b : BitVec 7) (x : LExt) : Statement (.lanexShfldn d a b x) :=
  lane rfl rfl rfl (by simp (disch := decide) only [isExt, isUniform, decodeLaneBase, decL0E, cut_lo, cut_hi]; simp)

theorem lanexBallot (d : BitVec 7) (p : BitVec 5) (x : LExt) : Statement (.lanexBallot d p x) :=
  lane rfl rfl rfl (by simp (disch := decide) only [isExt, isUniform, decodeLaneBase, decL0E, cut_lo, cut_hi]; simp)

theorem lanexAny (d : BitVec 7) (p : BitVec 5) (x : LExt) : Statement (.lanexAny d p x) :=
  lane rfl rfl rfl (by simp (disch := decide) only [isExt, isUniform, decodeLaneBase, decL0E, cut_lo, cut_hi]; simp)

theorem lanexAll (d : BitVec 7) (p : BitVec 5) (x : LExt) : Statement (.lanexAll d p x) :=
  lane rfl rfl rfl (by simp (disch := decide) only [isExt, isUniform, decodeLaneBase, decL0E, cut_lo, cut_hi]; simp)

theorem lanexMatch (d : BitVec 7) (a : BitVec 7) (x : LExt) : Statement (.lanexMatch d a x) :=
  lane rfl rfl rfl (by simp (disch := decide) only [isExt, isUniform, decodeLaneBase, decL0E, cut_lo, cut_hi]; simp)

theorem lanexRedadd (d : BitVec 7) (a : BitVec 7) (x : LExt) : Statement (.lanexRedadd d a x) :=
  lane rfl rfl rfl (by simp (disch := decide) only [isExt, isUniform, decodeLaneBase, decL0E, cut_lo, cut_hi]; simp)

theorem lanexRedmins (d : BitVec 7) (a : BitVec 7) (x : LExt) : Statement (.lanexRedmins d a x) :=
  lane rfl rfl rfl (by simp (disch := decide) only [isExt, isUniform, decodeLaneBase, decL0E, cut_lo, cut_hi]; simp)

theorem lanexRedmaxs (d : BitVec 7) (a : BitVec 7) (x : LExt) : Statement (.lanexRedmaxs d a x) :=
  lane rfl rfl rfl (by simp (disch := decide) only [isExt, isUniform, decodeLaneBase, decL0E, cut_lo, cut_hi]; simp)

theorem lanexRedand (d : BitVec 7) (a : BitVec 7) (x : LExt) : Statement (.lanexRedand d a x) :=
  lane rfl rfl rfl (by simp (disch := decide) only [isExt, isUniform, decodeLaneBase, decL0E, cut_lo, cut_hi]; simp)

theorem lanexRedor (d : BitVec 7) (a : BitVec 7) (x : LExt) : Statement (.lanexRedor d a x) :=
  lane rfl rfl rfl (by simp (disch := decide) only [isExt, isUniform, decodeLaneBase, decL0E, cut_lo, cut_hi]; simp)

theorem lanexRedxor (d : BitVec 7) (a : BitVec 7) (x : LExt) : Statement (.lanexRedxor d a x) :=
  lane rfl rfl rfl (by simp (disch := decide) only [isExt, isUniform, decodeLaneBase, decL0E, cut_lo, cut_hi]; simp)

theorem lanexNpath (d : BitVec 7) (x : LExt) : Statement (.lanexNpath d x) :=
  lane rfl rfl rfl (by simp (disch := decide) only [isExt, isUniform, decodeLaneBase, decL0E, cut_lo, cut_hi]; simp)

theorem faddAdd (d : BitVec 7) (a : BitVec 7) (b : BitVec 7) (x : LExt) : Statement (.faddAdd d a b x) :=
  lane rfl rfl rfl (by simp (disch := decide) only [isExt, isUniform, decodeLaneBase, decL0F, cut_lo, cut_hi]; simp)

theorem faddSub (d : BitVec 7) (a : BitVec 7) (b : BitVec 7) (x : LExt) : Statement (.faddSub d a b x) :=
  lane rfl rfl rfl (by simp (disch := decide) only [isExt, isUniform, decodeLaneBase, decL0F, cut_lo, cut_hi]; simp)

theorem faddMin (d : BitVec 7) (a : BitVec 7) (b : BitVec 7) (x : LExt) : Statement (.faddMin d a b x) :=
  lane rfl rfl rfl (by simp (disch := decide) only [isExt, isUniform, decodeLaneBase, decL0F, cut_lo, cut_hi]; simp)

theorem faddMax (d : BitVec 7) (a : BitVec 7) (b : BitVec 7) (x : LExt) : Statement (.faddMax d a b x) :=
  lane rfl rfl rfl (by simp (disch := decide) only [isExt, isUniform, decodeLaneBase, decL0F, cut_lo, cut_hi]; simp)

theorem faddAdd2h (d : BitVec 7) (a : BitVec 7) (b : BitVec 7) (x : LExt) : Statement (.faddAdd2h d a b x) :=
  lane rfl rfl rfl (by simp (disch := decide) only [isExt, isUniform, decodeLaneBase, decL0F, cut_lo, cut_hi]; simp)

theorem faddSub2h (d : BitVec 7) (a : BitVec 7) (b : BitVec 7) (x : LExt) : Statement (.faddSub2h d a b x) :=
  lane rfl rfl rfl (by simp (disch := decide) only [isExt, isUniform, decodeLaneBase, decL0F, cut_lo, cut_hi]; simp)

theorem faddAdd2b (d : BitVec 7) (a : BitVec 7) (b : BitVec 7) (x : LExt) : Statement (.faddAdd2b d a b x) :=
  lane rfl rfl rfl (by simp (disch := decide) only [isExt, isUniform, decodeLaneBase, decL0F, cut_lo, cut_hi]; simp)

theorem faddSub2b (d : BitVec 7) (a : BitVec 7) (b : BitVec 7) (x : LExt) : Statement (.faddSub2b d a b x) :=
  lane rfl rfl rfl (by simp (disch := decide) only [isExt, isUniform, decodeLaneBase, decL0F, cut_lo, cut_hi]; simp)

theorem faddAbs (d : BitVec 7) (a : BitVec 7) (x : LExt) : Statement (.faddAbs d a x) :=
  lane rfl rfl rfl (by simp (disch := decide) only [isExt, isUniform, decodeLaneBase, decL0F, cut_lo, cut_hi]; simp)

theorem faddNeg (d : BitVec 7) (a : BitVec 7) (x : LExt) : Statement (.faddNeg d a x) :=
  lane rfl rfl rfl (by simp (disch := decide) only [isExt, isUniform, decodeLaneBase, decL0F, cut_lo, cut_hi]; simp)

theorem faddCsgn (d : BitVec 7) (a : BitVec 7) (b : BitVec 7) (x : LExt) : Statement (.faddCsgn d a b x) :=
  lane rfl rfl rfl (by simp (disch := decide) only [isExt, isUniform, decodeLaneBase, decL0F, cut_lo, cut_hi]; simp)

theorem fmulMul (d : BitVec 7) (a : BitVec 7) (b : BitVec 7) (x : LExt) : Statement (.fmulMul d a b x) :=
  lane rfl rfl rfl (by simp (disch := decide) only [isExt, isUniform, decodeLaneBase, decL10, cut_lo, cut_hi]; simp)

theorem fmulMul2h (d : BitVec 7) (a : BitVec 7) (b : BitVec 7) (x : LExt) : Statement (.fmulMul2h d a b x) :=
  lane rfl rfl rfl (by simp (disch := decide) only [isExt, isUniform, decodeLaneBase, decL10, cut_lo, cut_hi]; simp)

theorem fmulMul2b (d : BitVec 7) (a : BitVec 7) (b : BitVec 7) (x : LExt) : Statement (.fmulMul2b d a b x) :=
  lane rfl rfl rfl (by simp (disch := decide) only [isExt, isUniform, decodeLaneBase, decL10, cut_lo, cut_hi]; simp)

theorem ffmaFma (d : BitVec 7) (a : BitVec 7) (b : BitVec 7) (x : LExt) : Statement (.ffmaFma d a b x) :=
  lane rfl rfl rfl (by simp (disch := decide) only [isExt, isUniform, decodeLaneBase, decL11, cut_lo, cut_hi]; simp)

theorem ffmaFma2h (d : BitVec 7) (a : BitVec 7) (b : BitVec 7) (x : LExt) : Statement (.ffmaFma2h d a b x) :=
  lane rfl rfl rfl (by simp (disch := decide) only [isExt, isUniform, decodeLaneBase, decL11, cut_lo, cut_hi]; simp)

theorem ffmaFma2b (d : BitVec 7) (a : BitVec 7) (b : BitVec 7) (x : LExt) : Statement (.ffmaFma2b d a b x) :=
  lane rfl rfl rfl (by simp (disch := decide) only [isExt, isUniform, decodeLaneBase, decL11, cut_lo, cut_hi]; simp)

theorem ffmaFms (d : BitVec 7) (a : BitVec 7) (b : BitVec 7) (x : LExt) : Statement (.ffmaFms d a b x) :=
  lane rfl rfl rfl (by simp (disch := decide) only [isExt, isUniform, decodeLaneBase, decL11, cut_lo, cut_hi]; simp)

theorem ffmaFnma (d : BitVec 7) (a : BitVec 7) (b : BitVec 7) (x : LExt) : Statement (.ffmaFnma d a b x) :=
  lane rfl rfl rfl (by simp (disch := decide) only [isExt, isUniform, decodeLaneBase, decL11, cut_lo, cut_hi]; simp)

theorem fcmpEq (pd : BitVec 5) (comb : BitVec 2) (a : BitVec 7) (b : BitVec 7) (x : LExt) : Statement (.fcmpEq pd comb a b x) :=
  lane rfl rfl rfl (by simp (disch := decide) only [isExt, isUniform, decodeLaneBase, decL12, cut_lo, cut_hi]; simp)

theorem fcmpNe (pd : BitVec 5) (comb : BitVec 2) (a : BitVec 7) (b : BitVec 7) (x : LExt) : Statement (.fcmpNe pd comb a b x) :=
  lane rfl rfl rfl (by simp (disch := decide) only [isExt, isUniform, decodeLaneBase, decL12, cut_lo, cut_hi]; simp)

theorem fcmpLt (pd : BitVec 5) (comb : BitVec 2) (a : BitVec 7) (b : BitVec 7) (x : LExt) : Statement (.fcmpLt pd comb a b x) :=
  lane rfl rfl rfl (by simp (disch := decide) only [isExt, isUniform, decodeLaneBase, decL12, cut_lo, cut_hi]; simp)

theorem fcmpLe (pd : BitVec 5) (comb : BitVec 2) (a : BitVec 7) (b : BitVec 7) (x : LExt) : Statement (.fcmpLe pd comb a b x) :=
  lane rfl rfl rfl (by simp (disch := decide) only [isExt, isUniform, decodeLaneBase, decL12, cut_lo, cut_hi]; simp)

theorem fcmpGt (pd : BitVec 5) (comb : BitVec 2) (a : BitVec 7) (b : BitVec 7) (x : LExt) : Statement (.fcmpGt pd comb a b x) :=
  lane rfl rfl rfl (by simp (disch := decide) only [isExt, isUniform, decodeLaneBase, decL12, cut_lo, cut_hi]; simp)

theorem fcmpGe (pd : BitVec 5) (comb : BitVec 2) (a : BitVec 7) (b : BitVec 7) (x : LExt) : Statement (.fcmpGe pd comb a b x) :=
  lane rfl rfl rfl (by simp (disch := decide) only [isExt, isUniform, decodeLaneBase, decL12, cut_lo, cut_hi]; simp)

theorem fcmpUn (pd : BitVec 5) (comb : BitVec 2) (a : BitVec 7) (b : BitVec 7) (x : LExt) : Statement (.fcmpUn pd comb a b x) :=
  lane rfl rfl rfl (by simp (disch := decide) only [isExt, isUniform, decodeLaneBase, decL12, cut_lo, cut_hi]; simp)

theorem fcmpOrd (pd : BitVec 5) (comb : BitVec 2) (a : BitVec 7) (b : BitVec 7) (x : LExt) : Statement (.fcmpOrd pd comb a b x) :=
  lane rfl rfl rfl (by simp (disch := decide) only [isExt, isUniform, decodeLaneBase, decL12, cut_lo, cut_hi]; simp)

theorem fspecRcp (d : BitVec 7) (a : BitVec 7) (x : LExt) : Statement (.fspecRcp d a x) :=
  lane rfl rfl rfl (by simp (disch := decide) only [isExt, isUniform, decodeLaneBase, decL13, cut_lo, cut_hi]; simp)

theorem fspecRsqrt (d : BitVec 7) (a : BitVec 7) (x : LExt) : Statement (.fspecRsqrt d a x) :=
  lane rfl rfl rfl (by simp (disch := decide) only [isExt, isUniform, decodeLaneBase, decL13, cut_lo, cut_hi]; simp)

theorem fspecSqrt (d : BitVec 7) (a : BitVec 7) (x : LExt) : Statement (.fspecSqrt d a x) :=
  lane rfl rfl rfl (by simp (disch := decide) only [isExt, isUniform, decodeLaneBase, decL13, cut_lo, cut_hi]; simp)

theorem fspecExp2 (d : BitVec 7) (a : BitVec 7) (x : LExt) : Statement (.fspecExp2 d a x) :=
  lane rfl rfl rfl (by simp (disch := decide) only [isExt, isUniform, decodeLaneBase, decL13, cut_lo, cut_hi]; simp)

theorem fspecLog2 (d : BitVec 7) (a : BitVec 7) (x : LExt) : Statement (.fspecLog2 d a x) :=
  lane rfl rfl rfl (by simp (disch := decide) only [isExt, isUniform, decodeLaneBase, decL13, cut_lo, cut_hi]; simp)

theorem fspecSin (d : BitVec 7) (a : BitVec 7) (x : LExt) : Statement (.fspecSin d a x) :=
  lane rfl rfl rfl (by simp (disch := decide) only [isExt, isUniform, decodeLaneBase, decL13, cut_lo, cut_hi]; simp)

theorem fspecCos (d : BitVec 7) (a : BitVec 7) (x : LExt) : Statement (.fspecCos d a x) :=
  lane rfl rfl rfl (by simp (disch := decide) only [isExt, isUniform, decodeLaneBase, decL13, cut_lo, cut_hi]; simp)

theorem fspecTanh (d : BitVec 7) (a : BitVec 7) (x : LExt) : Statement (.fspecTanh d a x) :=
  lane rfl rfl rfl (by simp (disch := decide) only [isExt, isUniform, decodeLaneBase, decL13, cut_lo, cut_hi]; simp)

theorem cvt (d : BitVec 7) (a : BitVec 7) (src : BitVec 4) (tgt : BitVec 4) (x : LExt) : Statement (.cvt d a src tgt x) :=
  lane rfl rfl rfl (by simp (disch := decide) only [isExt, isUniform, decodeLaneBase, decL14, cut_lo, cut_hi]; simp)

theorem narrowDot4s (d : BitVec 7) (a : BitVec 7) (b : BitVec 7) (x : LExt) : Statement (.narrowDot4s d a b x) :=
  lane rfl rfl rfl (by simp (disch := decide) only [isExt, isUniform, decodeLaneBase, decL15, cut_lo, cut_hi]; simp)

theorem narrowDot4n (d : BitVec 7) (a : BitVec 7) (b : BitVec 7) (x : LExt) : Statement (.narrowDot4n d a b x) :=
  lane rfl rfl rfl (by simp (disch := decide) only [isExt, isUniform, decodeLaneBase, decL15, cut_lo, cut_hi]; simp)

theorem narrowDot4e4 (d : BitVec 7) (a : BitVec 7) (b : BitVec 7) (x : LExt) : Statement (.narrowDot4e4 d a b x) :=
  lane rfl rfl rfl (by simp (disch := decide) only [isExt, isUniform, decodeLaneBase, decL15, cut_lo, cut_hi]; simp)

theorem narrowDot4e5 (d : BitVec 7) (a : BitVec 7) (b : BitVec 7) (x : LExt) : Statement (.narrowDot4e5 d a b x) :=
  lane rfl rfl rfl (by simp (disch := decide) only [isExt, isUniform, decodeLaneBase, decL15, cut_lo, cut_hi]; simp)

theorem narrowDot2b (d : BitVec 7) (a : BitVec 7) (b : BitVec 7) (x : LExt) : Statement (.narrowDot2b d a b x) :=
  lane rfl rfl rfl (by simp (disch := decide) only [isExt, isUniform, decodeLaneBase, decL15, cut_lo, cut_hi]; simp)

theorem narrowDot2h (d : BitVec 7) (a : BitVec 7) (b : BitVec 7) (x : LExt) : Statement (.narrowDot2h d a b x) :=
  lane rfl rfl rfl (by simp (disch := decide) only [isExt, isUniform, decodeLaneBase, decL15, cut_lo, cut_hi]; simp)

theorem narrowCbdecb (d : BitVec 7) (a : BitVec 7) (b : BitVec 7) (x : LExt) : Statement (.narrowCbdecb d a b x) :=
  lane rfl rfl rfl (by simp (disch := decide) only [isExt, isUniform, decodeLaneBase, decL15, cut_lo, cut_hi]; simp)

theorem narrowCbdech (d : BitVec 7) (a : BitVec 7) (b : BitVec 7) (x : LExt) : Statement (.narrowCbdech d a b x) :=
  lane rfl rfl rfl (by simp (disch := decide) only [isExt, isUniform, decodeLaneBase, decL15, cut_lo, cut_hi]; simp)

theorem narrowCbdecf (d : BitVec 7) (a : BitVec 7) (b : BitVec 7) (x : LExt) : Statement (.narrowCbdecf d a b x) :=
  lane rfl rfl rfl (by simp (disch := decide) only [isExt, isUniform, decodeLaneBase, decL15, cut_lo, cut_hi]; simp)

theorem narrowPke4 (d : BitVec 7) (a : BitVec 7) (b : BitVec 7) (x : LExt) : Statement (.narrowPke4 d a b x) :=
  lane rfl rfl rfl (by simp (disch := decide) only [isExt, isUniform, decodeLaneBase, decL15, cut_lo, cut_hi]; simp)

theorem narrowPke5 (d : BitVec 7) (a : BitVec 7) (b : BitVec 7) (x : LExt) : Statement (.narrowPke5 d a b x) :=
  lane rfl rfl rfl (by simp (disch := decide) only [isExt, isUniform, decodeLaneBase, decL15, cut_lo, cut_hi]; simp)

theorem narrowMxpk (d : BitVec 7) (a : BitVec 7) (x : LExt) : Statement (.narrowMxpk d a x) :=
  lane rfl rfl rfl (by simp (disch := decide) only [isExt, isUniform, decodeLaneBase, decL15, cut_lo, cut_hi]; simp)

theorem narrowMxunpk (d : BitVec 7) (a : BitVec 7) (b : BitVec 7) (x : LExt) : Statement (.narrowMxunpk d a b x) :=
  lane rfl rfl rfl (by simp (disch := decide) only [isExt, isUniform, decodeLaneBase, decL15, cut_lo, cut_hi]; simp)

theorem narrowUpke4 (d : BitVec 7) (a : BitVec 7) (x : LExt) : Statement (.narrowUpke4 d a x) :=
  lane rfl rfl rfl (by simp (disch := decide) only [isExt, isUniform, decodeLaneBase, decL15, cut_lo, cut_hi]; simp)

theorem narrowUpke5 (d : BitVec 7) (a : BitVec 7) (x : LExt) : Statement (.narrowUpke5 d a x) :=
  lane rfl rfl rfl (by simp (disch := decide) only [isExt, isUniform, decodeLaneBase, decL15, cut_lo, cut_hi]; simp)

theorem f64Add (d : BitVec 7) (a : BitVec 7) (b : BitVec 7) (x : LExt) : Statement (.f64Add d a b x) :=
  lane rfl rfl rfl (by simp (disch := decide) only [isExt, isUniform, decodeLaneBase, decL16, cut_lo, cut_hi]; simp)

theorem f64Sub (d : BitVec 7) (a : BitVec 7) (b : BitVec 7) (x : LExt) : Statement (.f64Sub d a b x) :=
  lane rfl rfl rfl (by simp (disch := decide) only [isExt, isUniform, decodeLaneBase, decL16, cut_lo, cut_hi]; simp)

theorem f64Mul (d : BitVec 7) (a : BitVec 7) (b : BitVec 7) (x : LExt) : Statement (.f64Mul d a b x) :=
  lane rfl rfl rfl (by simp (disch := decide) only [isExt, isUniform, decodeLaneBase, decL16, cut_lo, cut_hi]; simp)

theorem f64Fma (d : BitVec 7) (a : BitVec 7) (b : BitVec 7) (x : LExt) : Statement (.f64Fma d a b x) :=
  lane rfl rfl rfl (by simp (disch := decide) only [isExt, isUniform, decodeLaneBase, decL16, cut_lo, cut_hi]; simp)

theorem f64Min (d : BitVec 7) (a : BitVec 7) (b : BitVec 7) (x : LExt) : Statement (.f64Min d a b x) :=
  lane rfl rfl rfl (by simp (disch := decide) only [isExt, isUniform, decodeLaneBase, decL16, cut_lo, cut_hi]; simp)

theorem f64Max (d : BitVec 7) (a : BitVec 7) (b : BitVec 7) (x : LExt) : Statement (.f64Max d a b x) :=
  lane rfl rfl rfl (by simp (disch := decide) only [isExt, isUniform, decodeLaneBase, decL16, cut_lo, cut_hi]; simp)

theorem f64Abs (d : BitVec 7) (a : BitVec 7) (x : LExt) : Statement (.f64Abs d a x) :=
  lane rfl rfl rfl (by simp (disch := decide) only [isExt, isUniform, decodeLaneBase, decL16, cut_lo, cut_hi]; simp)

theorem f64Neg (d : BitVec 7) (a : BitVec 7) (x : LExt) : Statement (.f64Neg d a x) :=
  lane rfl rfl rfl (by simp (disch := decide) only [isExt, isUniform, decodeLaneBase, decL16, cut_lo, cut_hi]; simp)

theorem ld (d : BitVec 7) (a : BitVec 7) (size : BitVec 3) (hs : BitVec 2) (off : BitVec 6) (x : LExt) : Statement (.ld d a size hs off x) :=
  lane rfl rfl rfl (by simp (disch := decide) only [isExt, isUniform, decodeLaneBase, decL17, cut_lo, cut_hi]; simp)

theorem st (d : BitVec 7) (a : BitVec 7) (size : BitVec 3) (hs : BitVec 2) (off : BitVec 6) (x : LExt) : Statement (.st d a size hs off x) :=
  lane rfl rfl rfl (by simp (disch := decide) only [isExt, isUniform, decodeLaneBase, decL18, cut_lo, cut_hi]; simp)

theorem ldl (d : BitVec 7) (a : BitVec 7) (size : BitVec 3) (hs : BitVec 2) (off : BitVec 6) (x : LExt) : Statement (.ldl d a size hs off x) :=
  lane rfl rfl rfl (by simp (disch := decide) only [isExt, isUniform, decodeLaneBase, decL19, cut_lo, cut_hi]; simp)

theorem stl (d : BitVec 7) (a : BitVec 7) (size : BitVec 3) (hs : BitVec 2) (off : BitVec 6) (x : LExt) : Statement (.stl d a size hs off x) :=
  lane rfl rfl rfl (by simp (disch := decide) only [isExt, isUniform, decodeLaneBase, decL1A, cut_lo, cut_hi]; simp)

theorem ldfe (d : BitVec 7) (a : BitVec 7) (size : BitVec 3) (hs : BitVec 2) (off : BitVec 6) (x : LExt) : Statement (.ldfe d a size hs off x) :=
  lane rfl rfl rfl (by simp (disch := decide) only [isExt, isUniform, decodeLaneBase, decL1B, cut_lo, cut_hi]; simp)

theorem stfe (d : BitVec 7) (a : BitVec 7) (size : BitVec 3) (hs : BitVec 2) (off : BitVec 6) (x : LExt) : Statement (.stfe d a size hs off x) :=
  lane rfl rfl rfl (by simp (disch := decide) only [isExt, isUniform, decodeLaneBase, decL1C, cut_lo, cut_hi]; simp)

theorem atomAdd (d : BitVec 7) (a : BitVec 7) (b : BitVec 7) (x : LExt) : Statement (.atomAdd d a b x) :=
  lane rfl rfl rfl (by simp (disch := decide) only [isExt, isUniform, decodeLaneBase, decL1D, cut_lo, cut_hi]; simp)

theorem atomAnd (d : BitVec 7) (a : BitVec 7) (b : BitVec 7) (x : LExt) : Statement (.atomAnd d a b x) :=
  lane rfl rfl rfl (by simp (disch := decide) only [isExt, isUniform, decodeLaneBase, decL1D, cut_lo, cut_hi]; simp)

theorem atomOr (d : BitVec 7) (a : BitVec 7) (b : BitVec 7) (x : LExt) : Statement (.atomOr d a b x) :=
  lane rfl rfl rfl (by simp (disch := decide) only [isExt, isUniform, decodeLaneBase, decL1D, cut_lo, cut_hi]; simp)

theorem atomXor (d : BitVec 7) (a : BitVec 7) (b : BitVec 7) (x : LExt) : Statement (.atomXor d a b x) :=
  lane rfl rfl rfl (by simp (disch := decide) only [isExt, isUniform, decodeLaneBase, decL1D, cut_lo, cut_hi]; simp)

theorem atomXchg (d : BitVec 7) (a : BitVec 7) (b : BitVec 7) (x : LExt) : Statement (.atomXchg d a b x) :=
  lane rfl rfl rfl (by simp (disch := decide) only [isExt, isUniform, decodeLaneBase, decL1D, cut_lo, cut_hi]; simp)

theorem atomMins (d : BitVec 7) (a : BitVec 7) (b : BitVec 7) (x : LExt) : Statement (.atomMins d a b x) :=
  lane rfl rfl rfl (by simp (disch := decide) only [isExt, isUniform, decodeLaneBase, decL1D, cut_lo, cut_hi]; simp)

theorem atomMaxs (d : BitVec 7) (a : BitVec 7) (b : BitVec 7) (x : LExt) : Statement (.atomMaxs d a b x) :=
  lane rfl rfl rfl (by simp (disch := decide) only [isExt, isUniform, decodeLaneBase, decL1D, cut_lo, cut_hi]; simp)

theorem atomMinn (d : BitVec 7) (a : BitVec 7) (b : BitVec 7) (x : LExt) : Statement (.atomMinn d a b x) :=
  lane rfl rfl rfl (by simp (disch := decide) only [isExt, isUniform, decodeLaneBase, decL1D, cut_lo, cut_hi]; simp)

theorem atomMaxn (d : BitVec 7) (a : BitVec 7) (b : BitVec 7) (x : LExt) : Statement (.atomMaxn d a b x) :=
  lane rfl rfl rfl (by simp (disch := decide) only [isExt, isUniform, decodeLaneBase, decL1D, cut_lo, cut_hi]; simp)

theorem atomAddf (d : BitVec 7) (a : BitVec 7) (b : BitVec 7) (x : LExt) : Statement (.atomAddf d a b x) :=
  lane rfl rfl rfl (by simp (disch := decide) only [isExt, isUniform, decodeLaneBase, decL1D, cut_lo, cut_hi]; simp)

theorem atomCas (d : BitVec 7) (a : BitVec 7) (b : BitVec 7) (x : LExt) : Statement (.atomCas d a b x) :=
  lane rfl rfl rfl (by simp (disch := decide) only [isExt, isUniform, decodeLaneBase, decL1D, cut_lo, cut_hi]; simp)

theorem atomAdd64 (d : BitVec 7) (a : BitVec 7) (b : BitVec 7) (x : LExt) : Statement (.atomAdd64 d a b x) :=
  lane rfl rfl rfl (by simp (disch := decide) only [isExt, isUniform, decodeLaneBase, decL1D, cut_lo, cut_hi]; simp)

theorem atomXchg64 (d : BitVec 7) (a : BitVec 7) (b : BitVec 7) (x : LExt) : Statement (.atomXchg64 d a b x) :=
  lane rfl rfl rfl (by simp (disch := decide) only [isExt, isUniform, decodeLaneBase, decL1D, cut_lo, cut_hi]; simp)

theorem atomCas64 (d : BitVec 7) (a : BitVec 7) (b : BitVec 7) (x : LExt) : Statement (.atomCas64 d a b x) :=
  lane rfl rfl rfl (by simp (disch := decide) only [isExt, isUniform, decodeLaneBase, decL1D, cut_lo, cut_hi]; simp)

theorem atomfxAdd (a : BitVec 7) (b : BitVec 7) (x : LExt) : Statement (.atomfxAdd a b x) :=
  lane rfl rfl rfl (by simp (disch := decide) only [isExt, isUniform, decodeLaneBase, decL1E, cut_lo, cut_hi]; simp)

theorem atomfxFetch (d : BitVec 7) (a : BitVec 7) (b : BitVec 7) (x : LExt) : Statement (.atomfxFetch d a b x) :=
  lane rfl rfl rfl (by simp (disch := decide) only [isExt, isUniform, decodeLaneBase, decL1E, cut_lo, cut_hi]; simp)

theorem pref (a : BitVec 7) (size : BitVec 3) (hs : BitVec 2) (off : BitVec 6) (x : LExt) : Statement (.pref a size hs off x) :=
  lane rfl rfl rfl (by simp (disch := decide) only [isExt, isUniform, decodeLaneBase, decL1F, cut_lo, cut_hi]; simp)

theorem br (p : BitVec 5) (neg : BitVec 1) (disp : BitVec 19) (x : LExt) : Statement (.br p neg disp x) :=
  lane rfl rfl rfl (by simp (disch := decide) only [isExt, isUniform, decodeLaneBase, decL20, cut_lo, cut_hi]; simp)

theorem brxJmp (a : BitVec 7) (x : LExt) : Statement (.brxJmp a x) :=
  lane rfl rfl rfl (by simp (disch := decide) only [isExt, isUniform, decodeLaneBase, decL21, cut_lo, cut_hi]; simp)

theorem brxCall (a : BitVec 7) (x : LExt) : Statement (.brxCall a x) :=
  lane rfl rfl rfl (by simp (disch := decide) only [isExt, isUniform, decodeLaneBase, decL21, cut_lo, cut_hi]; simp)

theorem call (p : BitVec 5) (neg : BitVec 1) (disp : BitVec 19) (x : LExt) : Statement (.call p neg disp x) :=
  lane rfl rfl rfl (by simp (disch := decide) only [isExt, isUniform, decodeLaneBase, decL22, cut_lo, cut_hi]; simp)

theorem ctlRet (x : LExt) : Statement (.ctlRet x) :=
  lane rfl rfl rfl (by simp (disch := decide) only [isExt, isUniform, decodeLaneBase, decL23, cut_lo, cut_hi]; simp)

theorem ctlExit (x : LExt) : Statement (.ctlExit x) :=
  lane rfl rfl rfl (by simp (disch := decide) only [isExt, isUniform, decodeLaneBase, decL23, cut_lo, cut_hi]; simp)

theorem ctlYield (x : LExt) : Statement (.ctlYield x) :=
  lane rfl rfl rfl (by simp (disch := decide) only [isExt, isUniform, decodeLaneBase, decL23, cut_lo, cut_hi]; simp)

theorem guestDispatch (x : LExt) : Statement (.guestDispatch x) :=
  lane rfl rfl rfl (by simp (disch := decide) only [isExt, isUniform, decodeLaneBase, decL24, cut_lo, cut_hi]; simp)

theorem guestDispatchRg (x : LExt) : Statement (.guestDispatchRg x) :=
  lane rfl rfl rfl (by simp (disch := decide) only [isExt, isUniform, decodeLaneBase, decL24, cut_lo, cut_hi]; simp)

theorem guestRdpc (d : BitVec 7) (x : LExt) : Statement (.guestRdpc d x) :=
  lane rfl rfl rfl (by simp (disch := decide) only [isExt, isUniform, decodeLaneBase, decL24, cut_lo, cut_hi]; simp)

theorem guestWrpc (a : BitVec 7) (x : LExt) : Statement (.guestWrpc a x) :=
  lane rfl rfl rfl (by simp (disch := decide) only [isExt, isUniform, decodeLaneBase, decL24, cut_lo, cut_hi]; simp)

theorem guestAddpc (a : BitVec 7) (x : LExt) : Statement (.guestAddpc a x) :=
  lane rfl rfl rfl (by simp (disch := decide) only [isExt, isUniform, decodeLaneBase, decL24, cut_lo, cut_hi]; simp)

theorem guestRdop (d : BitVec 7) (x : LExt) : Statement (.guestRdop d x) :=
  lane rfl rfl rfl (by simp (disch := decide) only [isExt, isUniform, decodeLaneBase, decL24, cut_lo, cut_hi]; simp)

theorem guestWrop (a : BitVec 7) (x : LExt) : Statement (.guestWrop a x) :=
  lane rfl rfl rfl (by simp (disch := decide) only [isExt, isUniform, decodeLaneBase, decL24, cut_lo, cut_hi]; simp)

theorem mmaAdd (va : BitVec 7) (vb : BitVec 7) (acc : BitVec 2) (shape : BitVec 4) (x : LExt) : Statement (.mmaAdd va vb acc shape x) :=
  lane rfl rfl rfl (by simp (disch := decide) only [isExt, isUniform, decodeLaneBase, decL25, cut_lo, cut_hi]; simp)

theorem mmaSet (va : BitVec 7) (vb : BitVec 7) (acc : BitVec 2) (shape : BitVec 4) (x : LExt) : Statement (.mmaSet va vb acc shape x) :=
  lane rfl rfl rfl (by simp (disch := decide) only [isExt, isUniform, decodeLaneBase, decL25, cut_lo, cut_hi]; simp)

theorem mmaTri (va : BitVec 7) (vb : BitVec 7) (acc : BitVec 2) (shape : BitVec 4) (x : LExt) : Statement (.mmaTri va vb acc shape x) :=
  lane rfl rfl rfl (by simp (disch := decide) only [isExt, isUniform, decodeLaneBase, decL25, cut_lo, cut_hi]; simp)

theorem mmaTriset (va : BitVec 7) (vb : BitVec 7) (acc : BitVec 2) (shape : BitVec 4) (x : LExt) : Statement (.mmaTriset va vb acc shape x) :=
  lane rfl rfl rfl (by simp (disch := decide) only [isExt, isUniform, decodeLaneBase, decL25, cut_lo, cut_hi]; simp)

theorem mfragRd (d : BitVec 7) (acc : BitVec 2) (b : BitVec 7) (x : LExt) : Statement (.mfragRd d acc b x) :=
  lane rfl rfl rfl (by simp (disch := decide) only [isExt, isUniform, decodeLaneBase, decL26, cut_lo, cut_hi]; simp)

theorem mfragWr (d : BitVec 7) (acc : BitVec 2) (b : BitVec 7) (x : LExt) : Statement (.mfragWr d acc b x) :=
  lane rfl rfl rfl (by simp (disch := decide) only [isExt, isUniform, decodeLaneBase, decL26, cut_lo, cut_hi]; simp)

theorem mfragZero (acc : BitVec 2) (x : LExt) : Statement (.mfragZero acc x) :=
  lane rfl rfl rfl (by simp (disch := decide) only [isExt, isUniform, decodeLaneBase, decL26, cut_lo, cut_hi]; simp)

theorem usysNop (x : UExt) : Statement (.usysNop x) :=
  uni rfl rfl rfl (by simp (disch := decide) only [isExt, isUniform, decodeUniformBase, decodeHeadBase, decU00, cut_lo, cut_hi]; simp)

theorem usysSvc (a : BitVec 6) (x : UExt) : Statement (.usysSvc a x) :=
  uni rfl rfl rfl (by simp (disch := decide) only [isExt, isUniform, decodeUniformBase, decodeHeadBase, decU00, cut_lo, cut_hi]; simp)

theorem usysTlbiva (a : BitVec 6) (b : BitVec 6) (x : UExt) : Statement (.usysTlbiva a b x) :=
  uni rfl rfl rfl (by simp (disch := decide) only [isExt, isUniform, decodeUniformBase, decodeHeadBase, decU00, cut_lo, cut_hi]; simp)

theorem usysTlbictx (a : BitVec 6) (x : UExt) : Statement (.usysTlbictx a x) :=
  uni rfl rfl rfl (by simp (disch := decide) only [isExt, isUniform, decodeUniformBase, decodeHeadBase, decU00, cut_lo, cut_hi]; simp)

theorem usysRti (x : UExt) : Statement (.usysRti x) :=
  uni rfl rfl rfl (by simp (disch := decide) only [isExt, isUniform, decodeUniformBase, decodeHeadBase, decU00, cut_lo, cut_hi]; simp)

theorem usysBrk (x : UExt) : Statement (.usysBrk x) :=
  uni rfl rfl rfl (by simp (disch := decide) only [isExt, isUniform, decodeUniformBase, decodeHeadBase, decU00, cut_lo, cut_hi]; simp)

theorem ualuAdd (d : BitVec 6) (a : BitVec 6) (b : BitVec 6) (x : UExt) : Statement (.ualuAdd d a b x) :=
  uni rfl rfl rfl (by simp (disch := decide) only [isExt, isUniform, decodeUniformBase, decodeHeadBase, decU01, cut_lo, cut_hi]; simp)

theorem ualuSub (d : BitVec 6) (a : BitVec 6) (b : BitVec 6) (x : UExt) : Statement (.ualuSub d a b x) :=
  uni rfl rfl rfl (by simp (disch := decide) only [isExt, isUniform, decodeUniformBase, decodeHeadBase, decU01, cut_lo, cut_hi]; simp)

theorem ualuAnd (d : BitVec 6) (a : BitVec 6) (b : BitVec 6) (x : UExt) : Statement (.ualuAnd d a b x) :=
  uni rfl rfl rfl (by simp (disch := decide) only [isExt, isUniform, decodeUniformBase, decodeHeadBase, decU01, cut_lo, cut_hi]; simp)

theorem ualuOr (d : BitVec 6) (a : BitVec 6) (b : BitVec 6) (x : UExt) : Statement (.ualuOr d a b x) :=
  uni rfl rfl rfl (by simp (disch := decide) only [isExt, isUniform, decodeUniformBase, decodeHeadBase, decU01, cut_lo, cut_hi]; simp)

theorem ualuXor (d : BitVec 6) (a : BitVec 6) (b : BitVec 6) (x : UExt) : Statement (.ualuXor d a b x) :=
  uni rfl rfl rfl (by simp (disch := decide) only [isExt, isUniform, decodeUniformBase, decodeHeadBase, decU01, cut_lo, cut_hi]; simp)

theorem ualuShl (d : BitVec 6) (a : BitVec 6) (b : BitVec 6) (x : UExt) : Statement (.ualuShl d a b x) :=
  uni rfl rfl rfl (by simp (disch := decide) only [isExt, isUniform, decodeUniformBase, decodeHeadBase, decU01, cut_lo, cut_hi]; simp)

theorem ualuShr (d : BitVec 6) (a : BitVec 6) (b : BitVec 6) (x : UExt) : Statement (.ualuShr d a b x) :=
  uni rfl rfl rfl (by simp (disch := decide) only [isExt, isUniform, decodeUniformBase, decodeHeadBase, decU01, cut_lo, cut_hi]; simp)

theorem ualuSar (d : BitVec 6) (a : BitVec 6) (b : BitVec 6) (x : UExt) : Statement (.ualuSar d a b x) :=
  uni rfl rfl rfl (by simp (disch := decide) only [isExt, isUniform, decodeUniformBase, decodeHeadBase, decU01, cut_lo, cut_hi]; simp)

theorem ualuMul (d : BitVec 6) (a : BitVec 6) (b : BitVec 6) (x : UExt) : Statement (.ualuMul d a b x) :=
  uni rfl rfl rfl (by simp (disch := decide) only [isExt, isUniform, decodeUniformBase, decodeHeadBase, decU01, cut_lo, cut_hi]; simp)

theorem ualuMins (d : BitVec 6) (a : BitVec 6) (b : BitVec 6) (x : UExt) : Statement (.ualuMins d a b x) :=
  uni rfl rfl rfl (by simp (disch := decide) only [isExt, isUniform, decodeUniformBase, decodeHeadBase, decU01, cut_lo, cut_hi]; simp)

theorem ualuMaxs (d : BitVec 6) (a : BitVec 6) (b : BitVec 6) (x : UExt) : Statement (.ualuMaxs d a b x) :=
  uni rfl rfl rfl (by simp (disch := decide) only [isExt, isUniform, decodeUniformBase, decodeHeadBase, decU01, cut_lo, cut_hi]; simp)

theorem ualuMinn (d : BitVec 6) (a : BitVec 6) (b : BitVec 6) (x : UExt) : Statement (.ualuMinn d a b x) :=
  uni rfl rfl rfl (by simp (disch := decide) only [isExt, isUniform, decodeUniformBase, decodeHeadBase, decU01, cut_lo, cut_hi]; simp)

theorem ualuMaxn (d : BitVec 6) (a : BitVec 6) (b : BitVec 6) (x : UExt) : Statement (.ualuMaxn d a b x) :=
  uni rfl rfl rfl (by simp (disch := decide) only [isExt, isUniform, decodeUniformBase, decodeHeadBase, decU01, cut_lo, cut_hi]; simp)

theorem uaddi (d : BitVec 6) (a : BitVec 6) (imm : BitVec 13) (x : UExt) : Statement (.uaddi d a imm x) :=
  uni rfl rfl rfl (by simp (disch := decide) only [isExt, isUniform, decodeUniformBase, decodeHeadBase, decU02, cut_lo, cut_hi]; simp)

theorem umovi (d : BitVec 6) (imm : BitVec 19) (x : UExt) : Statement (.umovi d imm x) :=
  uni rfl rfl rfl (by simp (disch := decide) only [isExt, isUniform, decodeUniformBase, decodeHeadBase, decU03, cut_lo, cut_hi]; simp)

theorem umovhi (d : BitVec 6) (imm : BitVec 19) (x : UExt) : Statement (.umovhi d imm x) :=
  uni rfl rfl rfl (by simp (disch := decide) only [isExt, isUniform, decodeUniformBase, decodeHeadBase, decU04, cut_lo, cut_hi]; simp)

theorem ucmpEq (q : BitVec 3) (a : BitVec 6) (b : BitVec 6) (x : UExt) : Statement (.ucmpEq q a b x) :=
  uni rfl rfl rfl (by simp (disch := decide) only [isExt, isUniform, decodeUniformBase, decodeHeadBase, decU05, cut_lo, cut_hi]; simp)

theorem ucmpNe (q : BitVec 3) (a : BitVec 6) (b : BitVec 6) (x : UExt) : Statement (.ucmpNe q a b x) :=
  uni rfl rfl rfl (by simp (disch := decide) only [isExt, isUniform, decodeUniformBase, decodeHeadBase, decU05, cut_lo, cut_hi]; simp)

theorem ucmpLts (q : BitVec 3) (a : BitVec 6) (b : BitVec 6) (x : UExt) : Statement (.ucmpLts q a b x) :=
  uni rfl rfl rfl (by simp (disch := decide) only [isExt, isUniform, decodeUniformBase, decodeHeadBase, decU05, cut_lo, cut_hi]; simp)

theorem ucmpLes (q : BitVec 3) (a : BitVec 6) (b : BitVec 6) (x : UExt) : Statement (.ucmpLes q a b x) :=
  uni rfl rfl rfl (by simp (disch := decide) only [isExt, isUniform, decodeUniformBase, decodeHeadBase, decU05, cut_lo, cut_hi]; simp)

theorem ucmpGts (q : BitVec 3) (a : BitVec 6) (b : BitVec 6) (x : UExt) : Statement (.ucmpGts q a b x) :=
  uni rfl rfl rfl (by simp (disch := decide) only [isExt, isUniform, decodeUniformBase, decodeHeadBase, decU05, cut_lo, cut_hi]; simp)

theorem ucmpGes (q : BitVec 3) (a : BitVec 6) (b : BitVec 6) (x : UExt) : Statement (.ucmpGes q a b x) :=
  uni rfl rfl rfl (by simp (disch := decide) only [isExt, isUniform, decodeUniformBase, decodeHeadBase, decU05, cut_lo, cut_hi]; simp)

theorem ucmpLtn (q : BitVec 3) (a : BitVec 6) (b : BitVec 6) (x : UExt) : Statement (.ucmpLtn q a b x) :=
  uni rfl rfl rfl (by simp (disch := decide) only [isExt, isUniform, decodeUniformBase, decodeHeadBase, decU05, cut_lo, cut_hi]; simp)

theorem ucmpLen (q : BitVec 3) (a : BitVec 6) (b : BitVec 6) (x : UExt) : Statement (.ucmpLen q a b x) :=
  uni rfl rfl rfl (by simp (disch := decide) only [isExt, isUniform, decodeUniformBase, decodeHeadBase, decU05, cut_lo, cut_hi]; simp)

theorem ucmpGtn (q : BitVec 3) (a : BitVec 6) (b : BitVec 6) (x : UExt) : Statement (.ucmpGtn q a b x) :=
  uni rfl rfl rfl (by simp (disch := decide) only [isExt, isUniform, decodeUniformBase, decodeHeadBase, decU05, cut_lo, cut_hi]; simp)

theorem ucmpGen (q : BitVec 3) (a : BitVec 6) (b : BitVec 6) (x : UExt) : Statement (.ucmpGen q a b x) :=
  uni rfl rfl rfl (by simp (disch := decide) only [isExt, isUniform, decodeUniformBase, decodeHeadBase, decU05, cut_lo, cut_hi]; simp)

theorem ucmpQand (q : BitVec 3) (a : BitVec 3) (b : BitVec 3) (x : UExt) : Statement (.ucmpQand q a b x) :=
  uni rfl rfl rfl (by simp (disch := decide) only [isExt, isUniform, decodeUniformBase, decodeHeadBase, decU05, cut_lo, cut_hi]; simp)

theorem ucmpQor (q : BitVec 3) (a : BitVec 3) (b : BitVec 3) (x : UExt) : Statement (.ucmpQor q a b x) :=
  uni rfl rfl rfl (by simp (disch := decide) only [isExt, isUniform, decodeUniformBase, decodeHeadBase, decU05, cut_lo, cut_hi]; simp)

theorem ucmpQxor (q : BitVec 3) (a : BitVec 3) (b : BitVec 3) (x : UExt) : Statement (.ucmpQxor q a b x) :=
  uni rfl rfl rfl (by simp (disch := decide) only [isExt, isUniform, decodeUniformBase, decodeHeadBase, decU05, cut_lo, cut_hi]; simp)

theorem ubr (q : BitVec 3) (neg : BitVec 1) (disp : BitVec 21) (x : UExt) : Statement (.ubr q neg disp x) :=
  uni rfl rfl rfl (by simp (disch := decide) only [isExt, isUniform, decodeUniformBase, decodeHeadBase, decU06, cut_lo, cut_hi]; simp)

theorem uld (d : BitVec 6) (a : BitVec 6) (imm : BitVec 13) (x : UExt) : Statement (.uld d a imm x) :=
  uni rfl rfl rfl (by simp (disch := decide) only [isExt, isUniform, decodeUniformBase, decodeHeadBase, decU07, cut_lo, cut_hi]; simp)

theorem ust (d : BitVec 6) (a : BitVec 6) (imm : BitVec 13) (x : UExt) : Statement (.ust d a imm x) :=
  uni rfl rfl rfl (by simp (disch := decide) only [isExt, isUniform, decodeUniformBase, decodeHeadBase, decU08, cut_lo, cut_hi]; simp)

theorem umovlFirst (d : BitVec 6) (a : BitVec 6) (x : UExt) : Statement (.umovlFirst d a x) :=
  uni rfl rfl rfl (by simp (disch := decide) only [isExt, isUniform, decodeUniformBase, decodeHeadBase, decU09, cut_lo, cut_hi]; simp)

theorem umovlLane (d : BitVec 6) (a : BitVec 6) (b : BitVec 6) (x : UExt) : Statement (.umovlLane d a b x) :=
  uni rfl rfl rfl (by simp (disch := decide) only [isExt, isUniform, decodeUniformBase, decodeHeadBase, decU09, cut_lo, cut_hi]; simp)

theorem barArrive (desc : BitVec 6) (slot : BitVec 4) (level : BitVec 2) (x : UExt) : Statement (.barArrive desc slot level x) :=
  uni rfl rfl rfl (by simp (disch := decide) only [isExt, isUniform, decodeUniformBase, decodeHeadBase, decU0A, cut_lo, cut_hi]; simp)

theorem barArriveCnt (desc : BitVec 6) (addr : BitVec 6) (slot : BitVec 4) (level : BitVec 2) (x : UExt) : Statement (.barArriveCnt desc addr slot level x) :=
  uni rfl rfl rfl (by simp (disch := decide) only [isExt, isUniform, decodeUniformBase, decodeHeadBase, decU0A, cut_lo, cut_hi]; simp)

theorem barWait (desc : BitVec 6) (slot : BitVec 4) (level : BitVec 2) (x : UExt) : Statement (.barWait desc slot level x) :=
  uni rfl rfl rfl (by simp (disch := decide) only [isExt, isUniform, decodeUniformBase, decodeHeadBase, decU0A, cut_lo, cut_hi]; simp)

theorem barExpect (desc : BitVec 6) (slot : BitVec 4) (level : BitVec 2) (x : UExt) : Statement (.barExpect desc slot level x) :=
  uni rfl rfl rfl (by simp (disch := decide) only [isExt, isUniform, decodeUniformBase, decodeHeadBase, decU0A, cut_lo, cut_hi]; simp)

theorem barSync (slot : BitVec 4) (level : BitVec 2) (x : UExt) : Statement (.barSync slot level x) :=
  uni rfl rfl rfl (by simp (disch := decide) only [isExt, isUniform, decodeUniformBase, decodeHeadBase, decU0A, cut_lo, cut_hi]; simp)

theorem waitc (nl : BitVec 4) (ns : BitVec 4) (nc : BitVec 4) (nt : BitVec 4) (x : UExt) : Statement (.waitc nl ns nc nt x) :=
  uni rfl rfl rfl (by simp (disch := decide) only [isExt, isUniform, decodeUniformBase, decodeHeadBase, decU0B, cut_lo, cut_hi]; simp)

theorem cpyLin (desc : BitVec 6) (addr : BitVec 6) (slot : BitVec 4) (level : BitVec 2) (x : UExt) : Statement (.cpyLin desc addr slot level x) :=
  uni rfl rfl rfl (by simp (disch := decide) only [isExt, isUniform, decodeUniformBase, decodeHeadBase, decU0C, cut_lo, cut_hi]; simp)

theorem cpyRect (desc : BitVec 6) (addr : BitVec 6) (slot : BitVec 4) (level : BitVec 2) (x : UExt) : Statement (.cpyRect desc addr slot level x) :=
  uni rfl rfl rfl (by simp (disch := decide) only [isExt, isUniform, decodeUniformBase, decodeHeadBase, decU0C, cut_lo, cut_hi]; simp)

theorem cpyTens (desc : BitVec 6) (addr : BitVec 6) (slot : BitVec 4) (level : BitVec 2) (x : UExt) : Statement (.cpyTens desc addr slot level x) :=
  uni rfl rfl rfl (by simp (disch := decide) only [isExt, isUniform, decodeUniformBase, decodeHeadBase, decU0C, cut_lo, cut_hi]; simp)

theorem gatherIdx32 (desc : BitVec 6) (addr : BitVec 6) (slot : BitVec 4) (level : BitVec 2) (x : UExt) : Statement (.gatherIdx32 desc addr slot level x) :=
  uni rfl rfl rfl (by simp (disch := decide) only [isExt, isUniform, decodeUniformBase, decodeHeadBase, decU0D, cut_lo, cut_hi]; simp)

theorem gatherIdx64 (desc : BitVec 6) (addr : BitVec 6) (slot : BitVec 4) (level : BitVec 2) (x : UExt) : Statement (.gatherIdx64 desc addr slot level x) :=
  uni rfl rfl rfl (by simp (disch := decide) only [isExt, isUniform, decodeUniformBase, decodeHeadBase, decU0D, cut_lo, cut_hi]; simp)

theorem collAllred (desc : BitVec 6) (slot : BitVec 4) (level : BitVec 2) (x : UExt) : Statement (.collAllred desc slot level x) :=
  uni rfl rfl rfl (by simp (disch := decide) only [isExt, isUniform, decodeUniformBase, decodeHeadBase, decU0E, cut_lo, cut_hi]; simp)

theorem collRedsc (desc : BitVec 6) (slot : BitVec 4) (level : BitVec 2) (x : UExt) : Statement (.collRedsc desc slot level x) :=
  uni rfl rfl rfl (by simp (disch := decide) only [isExt, isUniform, decodeUniformBase, decodeHeadBase, decU0E, cut_lo, cut_hi]; simp)

theorem collAllgat (desc : BitVec 6) (slot : BitVec 4) (level : BitVec 2) (x : UExt) : Statement (.collAllgat desc slot level x) :=
  uni rfl rfl rfl (by simp (disch := decide) only [isExt, isUniform, decodeUniformBase, decodeHeadBase, decU0E, cut_lo, cut_hi]; simp)

theorem collBcast (desc : BitVec 6) (slot : BitVec 4) (level : BitVec 2) (x : UExt) : Statement (.collBcast desc slot level x) :=
  uni rfl rfl rfl (by simp (disch := decide) only [isExt, isUniform, decodeUniformBase, decodeHeadBase, decU0E, cut_lo, cut_hi]; simp)

theorem collSparse (desc : BitVec 6) (slot : BitVec 4) (level : BitVec 2) (x : UExt) : Statement (.collSparse desc slot level x) :=
  uni rfl rfl rfl (by simp (disch := decide) only [isExt, isUniform, decodeUniformBase, decodeHeadBase, decU0E, cut_lo, cut_hi]; simp)

theorem collAlltoall (desc : BitVec 6) (slot : BitVec 4) (level : BitVec 2) (x : UExt) : Statement (.collAlltoall desc slot level x) :=
  uni rfl rfl rfl (by simp (disch := decide) only [isExt, isUniform, decodeUniformBase, decodeHeadBase, decU0E, cut_lo, cut_hi]; simp)

theorem mdrainSt (desc : BitVec 6) (acc : BitVec 2) (slot : BitVec 4) (level : BitVec 2) (x : UExt) : Statement (.mdrainSt desc acc slot level x) :=
  uni rfl rfl rfl (by simp (disch := decide) only [isExt, isUniform, decodeUniformBase, decodeHeadBase, decU0F, cut_lo, cut_hi]; simp)

theorem mdrainAdd (desc : BitVec 6) (acc : BitVec 2) (slot : BitVec 4) (level : BitVec 2) (x : UExt) : Statement (.mdrainAdd desc acc slot level x) :=
  uni rfl rfl rfl (by simp (disch := decide) only [isExt, isUniform, decodeUniformBase, decodeHeadBase, decU0F, cut_lo, cut_hi]; simp)

theorem gangList (a : BitVec 6) (x : UExt) : Statement (.gangList a x) :=
  uni rfl rfl rfl (by simp (disch := decide) only [isExt, isUniform, decodeUniformBase, decodeHeadBase, decU10, cut_lo, cut_hi]; simp)

theorem gangLease (x : UExt) : Statement (.gangLease x) :=
  uni rfl rfl rfl (by simp (disch := decide) only [isExt, isUniform, decodeUniformBase, decodeHeadBase, decU10, cut_lo, cut_hi]; simp)

theorem gangRelease (x : UExt) : Statement (.gangRelease x) :=
  uni rfl rfl rfl (by simp (disch := decide) only [isExt, isUniform, decodeUniformBase, decodeHeadBase, decU10, cut_lo, cut_hi]; simp)

theorem gangBaton (a : BitVec 6) (x : UExt) : Statement (.gangBaton a x) :=
  uni rfl rfl rfl (by simp (disch := decide) only [isExt, isUniform, decodeUniformBase, decodeHeadBase, decU10, cut_lo, cut_hi]; simp)

theorem taskSpawn (a : BitVec 6) (x : UExt) : Statement (.taskSpawn a x) :=
  uni rfl rfl rfl (by simp (disch := decide) only [isExt, isUniform, decodeUniformBase, decU11, cut_lo, cut_hi]; simp)

theorem taskPhase (a : BitVec 6) (x : UExt) : Statement (.taskPhase a x) :=
  uni rfl rfl rfl (by simp (disch := decide) only [isExt, isUniform, decodeUniformBase, decU11, cut_lo, cut_hi]; simp)

theorem taskMerge (x : UExt) : Statement (.taskMerge x) :=
  uni rfl rfl rfl (by simp (disch := decide) only [isExt, isUniform, decodeUniformBase, decU11, cut_lo, cut_hi]; simp)

theorem migL (imm : BitVec 12) (x : UExt) : Statement (.migL imm x) :=
  uni rfl rfl rfl (by simp (disch := decide) only [isExt, isUniform, decodeUniformBase, decU12, cut_lo, cut_hi]; simp)

theorem migD (imm : BitVec 12) (x : UExt) : Statement (.migD imm x) :=
  uni rfl rfl rfl (by simp (disch := decide) only [isExt, isUniform, decodeUniformBase, decU12, cut_lo, cut_hi]; simp)

theorem migAuto (imm : BitVec 12) (x : UExt) : Statement (.migAuto imm x) :=
  uni rfl rfl rfl (by simp (disch := decide) only [isExt, isUniform, decodeUniformBase, decU12, cut_lo, cut_hi]; simp)

theorem regaGrowWait (n : BitVec 13) (x : UExt) : Statement (.regaGrowWait n x) :=
  uni rfl rfl rfl (by simp (disch := decide) only [isExt, isUniform, decodeUniformBase, decU13, cut_lo, cut_hi]; simp)

theorem regaGrowTry (q : BitVec 3) (n : BitVec 13) (x : UExt) : Statement (.regaGrowTry q n x) :=
  uni rfl rfl rfl (by simp (disch := decide) only [isExt, isUniform, decodeUniformBase, decU13, cut_lo, cut_hi]; simp)

theorem regaShrink (n : BitVec 13) (x : UExt) : Statement (.regaShrink n x) :=
  uni rfl rfl rfl (by simp (disch := decide) only [isExt, isUniform, decodeUniformBase, decU13, cut_lo, cut_hi]; simp)

theorem sysr (d : BitVec 6) (num : BitVec 12) (x : UExt) : Statement (.sysr d num x) :=
  uni rfl rfl rfl (by simp (disch := decide) only [isExt, isUniform, decodeUniformBase, decU14, cut_lo, cut_hi]; simp)

theorem sysw (a : BitVec 6) (num : BitVec 12) (x : UExt) : Statement (.sysw a num x) :=
  uni rfl rfl rfl (by simp (disch := decide) only [isExt, isUniform, decodeUniformBase, decU15, cut_lo, cut_hi]; simp)

theorem fenceSysRel (x : UExt) : Statement (.fenceSysRel x) :=
  uni rfl rfl rfl (by simp (disch := decide) only [isExt, isUniform, decodeUniformBase, decU16, cut_lo, cut_hi]; simp)

theorem fenceSysAcq (x : UExt) : Statement (.fenceSysAcq x) :=
  uni rfl rfl rfl (by simp (disch := decide) only [isExt, isUniform, decodeUniformBase, decU16, cut_lo, cut_hi]; simp)

theorem fenceSysFull (x : UExt) : Statement (.fenceSysFull x) :=
  uni rfl rfl rfl (by simp (disch := decide) only [isExt, isUniform, decodeUniformBase, decU16, cut_lo, cut_hi]; simp)

theorem handleAlloc (d : BitVec 6) (a : BitVec 6) (b : BitVec 6) (x : UExt) : Statement (.handleAlloc d a b x) :=
  uni rfl rfl rfl (by simp (disch := decide) only [isExt, isUniform, decodeUniformBase, decU17, cut_lo, cut_hi]; simp)

theorem handleRetire (a : BitVec 6) (x : UExt) : Statement (.handleRetire a x) :=
  uni rfl rfl rfl (by simp (disch := decide) only [isExt, isUniform, decodeUniformBase, decU17, cut_lo, cut_hi]; simp)

theorem handleFill (a : BitVec 6) (x : UExt) : Statement (.handleFill a x) :=
  uni rfl rfl rfl (by simp (disch := decide) only [isExt, isUniform, decodeUniformBase, decU17, cut_lo, cut_hi]; simp)

theorem handleClear (a : BitVec 6) (x : UExt) : Statement (.handleClear a x) :=
  uni rfl rfl rfl (by simp (disch := decide) only [isExt, isUniform, decodeUniformBase, decU17, cut_lo, cut_hi]; simp)

theorem handleSumm (d : BitVec 6) (a : BitVec 6) (x : UExt) : Statement (.handleSumm d a x) :=
  uni rfl rfl rfl (by simp (disch := decide) only [isExt, isUniform, decodeUniformBase, decU17, cut_lo, cut_hi]; simp)

theorem handleShape (d : BitVec 6) (a : BitVec 6) (x : UExt) : Statement (.handleShape d a x) :=
  uni rfl rfl rfl (by simp (disch := decide) only [isExt, isUniform, decodeUniformBase, decU17, cut_lo, cut_hi]; simp)

theorem bfqBind (desc : BitVec 6) (addr : BitVec 6) (x : UExt) : Statement (.bfqBind desc addr x) :=
  uni rfl rfl rfl (by simp (disch := decide) only [isExt, isUniform, decodeUniformBase, decU18, cut_lo, cut_hi]; simp)

theorem bfqJoin (desc : BitVec 6) (addr : BitVec 6) (slot : BitVec 4) (level : BitVec 2) (x : UExt) : Statement (.bfqJoin desc addr slot level x) :=
  uni rfl rfl rfl (by simp (disch := decide) only [isExt, isUniform, decodeUniformBase, decU18, cut_lo, cut_hi]; simp)

theorem bfqUnbind (a : BitVec 6) (x : UExt) : Statement (.bfqUnbind a x) :=
  uni rfl rfl rfl (by simp (disch := decide) only [isExt, isUniform, decodeUniformBase, decU18, cut_lo, cut_hi]; simp)

theorem perfRd (d : BitVec 6) (a : BitVec 6) (x : UExt) : Statement (.perfRd d a x) :=
  uni rfl rfl rfl (by simp (disch := decide) only [isExt, isUniform, decodeUniformBase, decU19, cut_lo, cut_hi]; simp)

theorem perfSel (a : BitVec 6) (b : BitVec 6) (x : UExt) : Statement (.perfSel a b x) :=
  uni rfl rfl rfl (by simp (disch := decide) only [isExt, isUniform, decodeUniformBase, decU19, cut_lo, cut_hi]; simp)

theorem perfMark (a : BitVec 6) (x : UExt) : Statement (.perfMark a x) :=
  uni rfl rfl rfl (by simp (disch := decide) only [isExt, isUniform, decodeUniformBase, decU19, cut_lo, cut_hi]; simp)

theorem perfSample (a : BitVec 6) (x : UExt) : Statement (.perfSample a x) :=
  uni rfl rfl rfl (by simp (disch := decide) only [isExt, isUniform, decodeUniformBase, decU19, cut_lo, cut_hi]; simp)

theorem rmaWrite (part ep peer : Nat) (va : DWord) (data : List Byte) : Statement (.rmaWrite part ep peer va data) :=
  event rfl

theorem rmaRead (part ep peer : Nat) (va : DWord) (len : Nat) : Statement (.rmaRead part ep peer va len) :=
  event rfl

theorem launchWord (part peer : Nat) (word : DWord) : Statement (.launchWord part peer word) :=
  event rfl

theorem invalidControlAccess (w : WindowAccess) (off : Nat) (isRead : Bool) : Statement (.invalidControlAccess w off isRead) :=
  event rfl

theorem pctlEnClear (part : ControlAccess) : Statement (.pctlEnClear part) :=
  event rfl

theorem pctlEnSet (part : ControlAccess) : Statement (.pctlEnSet part) :=
  event rfl

theorem registerGraph (part ctx : Nat) (va : DWord) (frames : List Nat) : Statement (.registerGraph part ctx va frames) :=
  event rfl

theorem unregisterGraph (part ctx : Nat) (va : DWord) : Statement (.unregisterGraph part ctx va) :=
  event rfl

theorem attestationReport (part ctx : Nat) (va : DWord) : Statement (.attestationReport part ctx va) :=
  event rfl

theorem formatWindowSetup (part ctx : Nat) (va : DWord) : Statement (.formatWindowSetup part ctx va) :=
  event rfl

theorem collectiveMemberTable (part ctx : Nat) (va : DWord) : Statement (.collectiveMemberTable part ctx va) :=
  event rfl

theorem windowGrant (part ctx : Nat) (va : DWord) : Statement (.windowGrant part ctx va) :=
  event rfl

theorem eventLogRead (part ctx : Nat) (va : DWord) : Statement (.eventLogRead part ctx va) :=
  event rfl

theorem writePartitionDescriptor : Statement .writePartitionDescriptor :=
  event rfl

theorem createTenantContext : Statement .createTenantContext :=
  event rfl

theorem destroyTenantContext : Statement .destroyTenantContext :=
  event rfl

theorem configureEndpointContext : Statement .configureEndpointContext :=
  event rfl

theorem lendConstellation : Statement .lendConstellation :=
  event rfl

theorem reclaimConstellation : Statement .reclaimConstellation :=
  event rfl

theorem setCapAndMode : Statement .setCapAndMode :=
  event rfl

theorem writeFirmwareChunk : Statement .writeFirmwareChunk :=
  event rfl

theorem registerWrite (w : WindowAccess) (off : Nat) (value : List DWord) : Statement (.registerWrite w off value) :=
  event rfl

theorem launchStart (part ctx slot : Nat) : Statement (.launchStart part ctx slot) :=
  event rfl

theorem nodeStart (part launch node : Nat) : Statement (.nodeStart part launch node) :=
  event rfl

theorem blockPlacement (part launch node : Nat) : Statement (.blockPlacement part launch node) :=
  event rfl

theorem sameClassMove (blk core : Nat) : Statement (.sameClassMove blk core) :=
  event rfl

theorem launchEnd (part launch : Nat) : Statement (.launchEnd part launch) :=
  event rfl

theorem groupSwap (core sub : Nat) : Statement (.groupSwap core sub) :=
  event rfl

theorem pendingAgeSwap (core sub : Nat) : Statement (.pendingAgeSwap core sub) :=
  event rfl

theorem regroupTimeout (blk : Nat) : Statement (.regroupTimeout blk) :=
  event rfl

theorem migrate (blk : Nat) : Statement (.migrate blk) :=
  event rfl

theorem recordClaim (core : Nat) : Statement (.recordClaim core) :=
  event rfl

theorem recordStealable (rec' : Nat) : Statement (.recordStealable rec') :=
  event rfl

theorem leaseGrant (core : Nat) : Statement (.leaseGrant core) :=
  event rfl

theorem leasePass (core : Nat) : Statement (.leasePass core) :=
  event rfl

theorem matrixOpComplete (core : Nat) : Statement (.matrixOpComplete core) :=
  event rfl

theorem bfqWaitExpiry (unit : Nat) : Statement (.bfqWaitExpiry unit) :=
  event rfl

theorem bfqWriteback (unit : Nat) : Statement (.bfqWriteback unit) :=
  event rfl

theorem bfqAutoUnbind (unit : Nat) : Statement (.bfqAutoUnbind unit) :=
  event rfl

theorem engineWrite (cmd : EngineStep) : Statement (.engineWrite cmd) :=
  event rfl

theorem engineCommandComplete (cmd : Nat) : Statement (.engineCommandComplete cmd) :=
  event rfl

theorem collectiveExchange (unit : Nat) (peers : List PeerColl) : Statement (.collectiveExchange unit peers) :=
  event rfl

theorem engineCommandFault (cmd : Nat) : Statement (.engineCommandFault cmd) :=
  event rfl

theorem feWatchdog (blk grp lane : Nat) : Statement (.feWatchdog blk grp lane) :=
  event rfl

theorem stopImageWrite (blk grp : Nat) : Statement (.stopImageWrite blk grp) :=
  event rfl

theorem regaGrant (core : Nat) : Statement (.regaGrant core) :=
  event rfl

theorem pcSample (core : Nat) : Statement (.pcSample core) :=
  event rfl

theorem l1LeaseExpiry (core pa : Nat) : Statement (.l1LeaseExpiry core pa) :=
  event rfl

theorem bisnpdata (line : Nat) : Statement (.bisnpdata line) :=
  event rfl

theorem bisnpinv (line : Nat) (bytes : List (Nat × Byte)) : Statement (.bisnpinv line bytes) :=
  event rfl

theorem l2Eviction (line : Nat) : Statement (.l2Eviction line) :=
  event rfl

theorem poolStoreMerge (line : Nat) : Statement (.poolStoreMerge line) :=
  event rfl

theorem hostWriteAck : Statement .hostWriteAck :=
  event rfl

theorem arbiterWindow : Statement .arbiterWindow :=
  event rfl

theorem currentClamp (die : Nat) : Statement (.currentClamp die) :=
  event rfl

theorem thermalThrottle (die temp : Nat) : Statement (.thermalThrottle die temp) :=
  event rfl

theorem thermalCapRestore (die : Nat) : Statement (.thermalCapRestore die) :=
  event rfl

theorem thermalShutdown (die temp : Nat) : Statement (.thermalShutdown die temp) :=
  event rfl

theorem sliceExpiry (part : Nat) : Statement (.sliceExpiry part) :=
  event rfl

theorem graceExpiry (part : Nat) : Statement (.graceExpiry part) :=
  event rfl

theorem haltComplete (part : Nat) : Statement (.haltComplete part) :=
  event rfl

theorem killExpiry (part : Nat) : Statement (.killExpiry part) :=
  event rfl

theorem ptpMessage (time : DWord) : Statement (.ptpMessage time) :=
  event rfl

theorem portDown (port : Nat) : Statement (.portDown port) :=
  event rfl

theorem portUp (port : Nat) : Statement (.portUp port) :=
  event rfl

theorem hostWindowLost (part idx : Nat) : Statement (.hostWindowLost part idx) :=
  event rfl

theorem cxlPortFail (port : Nat) : Statement (.cxlPortFail port) :=
  event rfl

theorem poolLost : Statement .poolLost :=
  event rfl

theorem correctableError (u : PoisonUnit) : Statement (.correctableError u) :=
  event rfl

theorem uncorrectableError (u : PoisonUnit) : Statement (.uncorrectableError u) :=
  event rfl

theorem dramScrub : Statement .dramScrub :=
  event rfl

theorem isolationViolation (core target : Nat) : Statement (.isolationViolation core target) :=
  event rfl

theorem powerOnReset : Statement .powerOnReset :=
  event rfl

theorem partitionReset (part : Nat) : Statement (.partitionReset part) :=
  event rfl

theorem versionFree (ver : Nat) : Statement (.versionFree ver) :=
  event rfl

theorem memoryAccessComplete (blk grp : Nat) (store : Bool) (id : Nat) : Statement (.memoryAccessComplete blk grp store id) :=
  event rfl

theorem nonInstructionWord (w : BadWord) : Statement (.nonInstructionWord w) :=
  event rfl

theorem ptpLost : Statement .ptpLost :=
  event rfl

theorem cxlPortRecover (port : Nat) : Statement (.cxlPortRecover port) :=
  event rfl

theorem mgoWriteWhileBusy : Statement .mgoWriteWhileBusy :=
  event rfl

theorem unknownRequestKind (w : Window) (ctx : Nat) (va : DWord) : Statement (.unknownRequestKind w ctx va) :=
  event rfl

end Sys2Proof.Laws.BaseDecodes
end

