-- ==== Sys2Proof/Laws/Exts.lean ====
section
/-! SUPPORT. Extension words: what the encoder writes is what the decoder reads (R169, R175, R188, Table 8-4). -/

namespace Sys2Proof.Laws

open Sys2Proof

/-- What the decoder asks of an extension word before it takes its fields: major, kind, half, reserved bits. -/
structure ExtWord (w : Word) (k : BitVec 2) (u : Bool) : Prop where
  ext : isExt w = true
  kind : extKind w = k
  half : isUniform w = u
  ok : extReservedOk w = true

theorem imm_l (k : BitVec 23) : ExtWord (immWord 63#7 k) 0#2 false ∧ (immWord 63#7 k).extractLsb' 0 23 = k := by
  refine ⟨⟨?_, ?_, ?_, ?_⟩, ?_⟩ <;>
    simp (disch := decide) only [isExt, extKind, isUniform, immWord, cut_lo, cut_hi, extReservedOk] <;> simp

theorem imm_u (k : BitVec 23) : ExtWord (immWord 127#7 k) 0#2 true ∧ (immWord 127#7 k).extractLsb' 0 23 = k := by
  refine ⟨⟨?_, ?_, ?_, ?_⟩, ?_⟩ <;>
    simp (disch := decide) only [isExt, extKind, isUniform, immWord, cut_lo, cut_hi, extReservedOk] <;> simp

theorem mem_w (m : LMem) : ExtWord m.word 3#2 false ∧ lmemOf m.word = m := by
  obtain ⟨a, b⟩ := m
  refine ⟨⟨?_, ?_, ?_, ?_⟩, ?_⟩ <;>
    simp (disch := decide) only [isExt, extKind, isUniform, LMem.word, cut_lo, cut_hi, extReservedOk, lmemOf, bitAt,
      bit_lo, bit_hi] <;> simp

theorem mod_l (m : LMod) : ExtWord m.word 1#2 false ∧ lmodOf m.word = m := by
  obtain ⟨p, neg, rnd, sat, ftz, aux⟩ := m
  refine ⟨⟨?_, ?_, ?_, ?_⟩, ?_⟩ <;>
    simp (disch := decide) only [isExt, extKind, isUniform, LMod.word, cut_lo, cut_hi, extReservedOk, lmodOf, bitAt,
      bit_lo, bit_hi] <;> simp

theorem mod_u (m : UMod) : ExtWord m.word 1#2 true ∧ umodOf m.word = m := by
  obtain ⟨q, neg⟩ := m
  refine ⟨⟨?_, ?_, ?_, ?_⟩, ?_⟩ <;>
    simp (disch := decide) only [isExt, extKind, isUniform, UMod.word, cut_lo, cut_hi, extReservedOk, umodOf, bitAt,
      bit_lo, bit_hi] <;> simp

theorem hint_l (h : Hint) : ExtWord (h.word 63#7) 2#2 false ∧ hintOf (h.word 63#7) = h := by
  obtain ⟨a, b, c⟩ := h
  refine ⟨⟨?_, ?_, ?_, ?_⟩, ?_⟩ <;>
    simp (disch := decide) only [isExt, extKind, isUniform, Hint.word, cut_lo, cut_hi, extReservedOk, hintOf, bitAt,
      bit_lo, bit_hi] <;> simp

theorem hint_u (h : Hint) : ExtWord (h.word 127#7) 2#2 true ∧ hintOf (h.word 127#7) = h := by
  obtain ⟨a, b, c⟩ := h
  refine ⟨⟨?_, ?_, ?_, ?_⟩, ?_⟩ <;>
    simp (disch := decide) only [isExt, extKind, isUniform, Hint.word, cut_lo, cut_hi, extReservedOk, hintOf, bitAt,
      bit_lo, bit_hi] <;> simp

/-- Extension words are read up to the first word that is none. -/
theorem splitExts_append (es : List Word) (w : Word) (ws : List Word) (h : ∀ e ∈ es, isExt e = true)
    (hw : isExt w = false) : splitExts (es ++ w :: ws) = (es, w :: ws) := by
  induction es with
  | nil => simp [splitExts, hw]
  | cons e es ih =>
    have := ih fun f hf => h f (List.mem_cons_of_mem _ hf)
    simp [splitExts, h e List.mem_cons_self, this]

/-- What the words of an instruction's lane extensions are. -/
theorem lext_words (x : LExt) :
    (∀ e ∈ x.words, isExt e = true ∧ isUniform e = false ∧ extReservedOk e = true) ∧ extRepeated x.words = none ∧
      lextOf x.words = x := by
  obtain ⟨im, me, mo, hi⟩ := x
  rcases im with _ | im <;> rcases me with _ | me <;> rcases mo with _ | mo <;> rcases hi with _ | hi <;>
    simp [LExt.words, extRepeated, extRepeatedFrom, lextOf, extOf, (imm_l _).1.ext, (imm_l _).1.kind, (imm_l _).1.half,
      (imm_l _).1.ok, (imm_l _).2, (mem_w _).1.ext, (mem_w _).1.kind, (mem_w _).1.half, (mem_w _).1.ok, (mem_w _).2,
      (mod_l _).1.ext, (mod_l _).1.kind, (mod_l _).1.half, (mod_l _).1.ok, (mod_l _).2, (hint_l _).1.ext,
      (hint_l _).1.kind, (hint_l _).1.half, (hint_l _).1.ok, (hint_l _).2]

/-- What the words of an instruction's uniform extensions are. -/
theorem uext_words (x : UExt) :
    (∀ e ∈ x.words, isExt e = true ∧ isUniform e = true ∧ extReservedOk e = true ∧ extKind e ≠ 3#2) ∧
      extRepeated x.words = none ∧ uextOf x.words = x := by
  obtain ⟨im, mo, hi⟩ := x
  rcases im with _ | im <;> rcases mo with _ | mo <;> rcases hi with _ | hi <;>
    simp [UExt.words, extRepeated, extRepeatedFrom, uextOf, extOf, (imm_u _).1.ext, (imm_u _).1.kind, (imm_u _).1.half,
      (imm_u _).1.ok, (imm_u _).2, (mod_u _).1.ext, (mod_u _).1.kind, (mod_u _).1.half, (mod_u _).1.ok, (mod_u _).2,
      (hint_u _).1.ext, (hint_u _).1.kind, (hint_u _).1.half, (hint_u _).1.ok, (hint_u _).2]

/-- Words of one half, of no kind twice and of no kind 3 in the uniform half, break no rule of Table 22-2 on the run. -/
theorem seqFault_none (es : List Word) (w : Word) (h : ∀ e ∈ es, isUniform e = isUniform w)
    (h3 : ∀ e ∈ es, isUniform e = true → extKind e ≠ 3#2) (hr : extRepeated es = none) :
    seqFault es (some w) = none := by
  have a : (es.find? fun f => isUniform f ≠ isUniform w) = none := by
    simp only [List.find?_eq_none]; intro e he; simp [h e he]
  have b : (es.find? fun f => isUniform f && extKind f = 3) = none := by
    simp only [List.find?_eq_none]; intro e he
    cases hu : isUniform e with
    | false => simp
    | true => simp; exact h3 e he hu
  cases es with
  | nil => rfl
  | cons e es => simp only [seqFault]; rw [a]; simp only [hr]; rw [b]; rfl

/-- A well-formed instruction passes every check of the decoder on its own words (R343, R389 to R395). -/
theorem judge_ok (es : List Word) (w : Word) (i : Instr) (h : i.wf = true) (hb : i.base = some w)
    (he : ∀ e ∈ es, extReservedOk e = true) : judge es w (some i) = .ok i := by
  have hc : i.staticCause = none := by simpa [Instr.wf] using h
  have hf : (es.find? fun e => !extReservedOk e) = none := by
    simp only [List.find?_eq_none]; intro e hh; simp [he e hh]
  simp [judge, hc, hf, hb]

/-- A run of extension words of one half and a base word of that half, which break no rule on the run, decodes to what the
base word is judged to be. -/
theorem decode_run (es : List Word) (w : Word) (ws : List Word) (i : Instr) (u : Bool) (he : ∀ e ∈ es, isExt e = true)
    (hw : isExt w = false) (hu : ∀ e ∈ es, isUniform e = u) (huw : isUniform w = u) (hs : seqFault es (some w) = none)
    (hj : judge es w (if u then decodeUniformBase w (uextOf es) else decodeLaneBase w (lextOf es)) = .ok i) :
    decodeWords (es ++ w :: ws) = .ok (i, es.length + 1) := by
  unfold decodeWords
  rw [splitExts_append es w ws he hw]
  cases es with
  | nil => simp only [hs, huw, hj]
  | cons e es => simp only [hs, hu e List.mem_cons_self, hj]

end Sys2Proof.Laws
end

