-- ==== Sys2Proof/Laws/Lane.lean ====
section
/-! SUPPORT. What the shared operations behind lane and uniform instructions do, each said once: finding a lane's end,
trapping nobody, and the next state of a lane instruction and of a uniform one. -/

namespace Sys2Proof.Laws

open Sys2Proof.Machine Sys2Proof.Claims

/-- The entry found for a number in a list that pairs each number with a value. -/
theorem find_pair {α : Type} (ls : List Nat) (h : Nat → α) (n : Nat) :
    (ls.map fun k => (k, h k)).find? (fun e => e.1 = n) = if n ∈ ls then some (n, h n) else none := by
  induction ls with
  | nil => simp
  | cons k ks ih =>
    by_cases hk : k = n
    · subst hk; simp
    · simp only [List.map_cons, List.find?_cons, hk, decide_false, ih, List.mem_cons]
      have : ¬ n = k := fun e => hk e.symm
      simp [this]

/-- No trap, no stop. -/
theorem stopWith_nil (s : State) (b g : Nat) : stopWith s b g [] = s := rfl

/-- No trap, no stop. -/
theorem trapLanes_nil (s : State) (b g : Nat) (rg : Bool) : trapLanes s b g rg [] = s := by
  unfold trapLanes
  split
  · rfl
  · split
    · rfl
    · exact stopWith_nil _ _ _

/-- Changing a group is changing it in its block. -/
theorem modGroup_eq (s : State) (p : Path) (f : Group → Group) : modGroup s p.iss.blk p.iss.grp f = withGroup s p f := rfl

/-- A change of one group after another is one change. -/
theorem withGroup_comp (s : State) (p : Path) (f h : Group → Group) :
    withGroup (withGroup s p f) p h = withGroup s p (h ∘ f) := by
  simp only [withGroup, List.map_map]
  congr 1
  refine List.map_congr_left fun b _ => ?_
  by_cases hb : b.id = p.iss.blk <;> simp [hb, Function.comp, List.modify_modify_eq]

/-- A lane that passes the checks ends as its effect says. -/
theorem laneEnd_ok {s : State} {p : Path} {i : Instr} {x : LExt} {f : Nat → Lane → Lane → LaneEnd} {n : Nat}
    (hc : guardHolds x (p.g.lane n) = true → laneCheck s p i x n = none) :
    laneEnd s p i x f n = if guardHolds x (p.g.lane n) then f n (p.g.lane n) (goTo (p.g.lane n) p.iss.next)
      else (goTo (p.g.lane n) p.iss.next, none) := by
  unfold laneEnd
  by_cases hg : guardHolds x (p.g.lane n) = true
  · simp [hg, hc hg, Lane.advance, goTo]
  · simp [hg, Lane.advance, goTo]

/-- The checks pass in the executing lanes. -/
theorem check_none {s : State} {p : Path} {i : Instr} {x : LExt} (h : Runs s p i x) {n : Nat} (hn : n ∈ p.lanes)
    (hg : guardHolds x (p.g.lane n) = true) : laneCheck s p i x n = none := by
  unfold laneCheck
  simp [h.budget, h.clean n (by simp [Path.exec, hn, hg])]

/-- A change of every lane that leaves lanes outside the path alone is a change of the path's lanes. -/
theorem lanes_eq {p : Path} {a f : Nat → Lane → Lane} (h : ∀ n l, a n l = if n ∈ p.lanes then f n l else l) :
    (fun g : Group => { g with lanes := g.lanes.mapIdx a }) = withLanes p f := by
  have : a = fun n l => if n ∈ p.lanes then f n l else l := by funext n l; exact h n l
  subst this
  rfl

/-- THE NEXT STATE OF A LANE INSTRUCTION in whose executing lanes no trap is raised. -/
theorem laneTrap_next {s : State} {p : Path} {i : Instr} {x : LExt} (h : Runs s p i x)
    (f : Path → Nat → Lane → Lane → LaneEnd)
    (hf : ∀ n ∈ p.exec x, (f p n (p.g.lane n) (goTo (p.g.lane n) p.iss.next)).2 = none) :
    laneTrap i x f s = .next (laneNext s p i x fun n l m => (f p n l m).1) := by
  have he : ∀ n ∈ p.lanes, laneEnd s p i x (f p) n =
      (if guardHolds x (p.g.lane n) then (f p n (p.g.lane n) (goTo (p.g.lane n) p.iss.next)).1
        else goTo (p.g.lane n) p.iss.next, none) := fun n hn => by
    rw [laneEnd_ok (check_none h hn)]
    split
    · next hg =>
      have := hf n (by simp [Path.exec, hn, hg])
      exact Prod.ext rfl this
    · rfl
  unfold laneTrap
  rw [h.path]
  simp only [find_pair]
  have ht : ((p.lanes.map fun n => (n, laneEnd s p i x (f p) n)).filterMap
      fun e => e.2.2.map fun t => (e.1, t)) = [] := by
    rw [List.filterMap_map, List.filterMap_eq_nil_iff]
    intro n hn
    simp [he n hn]
  have hd : ((p.lanes.map fun n => (n, laneEnd s p i x (f p) n)).filter
      fun e => e.2.2.isNone && guardHolds x (p.g.lane e.1)).map Prod.fst = p.exec x := by
    rw [List.filter_map, List.map_map]
    show List.map (fun n => n) _ = _
    rw [List.map_id']
    refine List.filter_congr fun n hn => ?_
    simp [he n hn]
  simp only [ht, hd, raiseLanes, trapLanes_nil, modGroup_eq]
  refine congrArg (fun k => Host.Outcome.next (unpoison (withGroup s p k) p i (p.exec x))) (lanes_eq fun n l => ?_)
  by_cases hn : n ∈ p.lanes
  · simp only [hn, if_true, he n hn]
  · simp only [hn, if_false]

/-- THE NEXT STATE OF A LANE INSTRUCTION THAT RAISES NO TRAP OF ITS OWN. -/
theorem laneMap_next {s : State} {p : Path} {i : Instr} {x : LExt} (h : Runs s p i x)
    (f : Path → Nat → Lane → Lane → Lane) : laneMap i x f s = .next (laneNext s p i x (f p)) :=
  laneTrap_next h _ fun _ _ => rfl

/-- THE NEXT STATE OF A UNIFORM INSTRUCTION that changes its group's registers and goes on. -/
theorem uniform_next {s : State} {p : Path} {x : UExt} (h : URuns s p x) (f : Group → Group) (pc : DWord)
    (k : Path → State → UEnd) (hk : (k p s).out p = .next (pathTo (pathGroup s p f) p pc)) :
    uniform x k s = .next (uniNext s p pc f) := by
  unfold uniform
  rw [h.path]
  simp only [h.guard, if_true, hk]
  congr 1
  simp only [pathTo, pathGroup, modGroup_eq, withGroup_comp]
  unfold uniNext
  congr 1
  funext g
  simp only [Function.comp, Group.modLanes, withLanes]
  congr 1
  refine congrArg (fun k => List.mapIdx k (f g).lanes) ?_
  funext n l
  by_cases hn : n ∈ p.lanes <;> simp [hn, Lane.advance, goTo]

/-- The lanes of a path moved to an address: the group's own registers stay. -/
theorem pathTo_eq (s : State) (p : Path) (pc : DWord) : pathTo s p pc = uniNext s p pc id := by
  simp only [pathTo, modGroup_eq, uniNext, withGroup]
  congr 1
  refine List.map_congr_left fun b _ => ?_
  by_cases hb : b.id = p.iss.blk
  · simp only [hb, if_true, id]
    congr 2
    funext g
    simp only [Group.modLanes, withLanes]
    congr 1
    refine congrArg (fun k => List.mapIdx k g.lanes) ?_
    funext n l
    by_cases hn : n ∈ p.lanes <;> simp [hn, Lane.advance, goTo]
  · simp [hb]

/-- The lanes of a path held at their instruction. -/
theorem pathHold_eq (s : State) (p : Path) (h : Hold) : pathHold s p h = held s p h := by
  simp only [pathHold, modGroup_eq, held, withGroup]
  congr 1
  refine List.map_congr_left fun b _ => ?_
  by_cases hb : b.id = p.iss.blk
  · simp only [hb, if_true]
    congr 2
    funext g
    simp only [Group.modLanes, withLanes]
    congr 1
    refine congrArg (fun k => List.mapIdx k g.lanes) ?_
    funext n l
    by_cases hn : n ∈ p.lanes
    · simp only [hn, List.contains_eq_mem, decide_true, if_true, Path.keeps]
      all_goals cases h <;> rfl
    · simp [hn]
  · simp [hb]

/-- A uniform instruction runs its effect. -/
theorem uniform_runs {s : State} {p : Path} {x : UExt} (h : URuns s p x) (k : Path → State → UEnd) :
    uniform x k s = (k p s).out p := by
  unfold uniform
  rw [h.path]
  simp [h.guard]

/-- THE NEXT STATE OF A UNIFORM INSTRUCTION THAT IS DONE. -/
theorem uniform_done {s t : State} {p : Path} {x : UExt} (h : URuns s p x) {k : Path → State → UEnd} (hk : k p s = .done t) :
    uniform x k s = .next (atNext t p) := by
  rw [uniform_runs h, hk]
  exact congrArg _ (pathTo_eq t p p.iss.next)

/-- A uniform instruction that leaves its path where the state has it. -/
theorem uniform_stay {s t : State} {p : Path} {x : UExt} (h : URuns s p x) {k : Path → State → UEnd} (hk : k p s = .stay t) :
    uniform x k s = .next t := by
  rw [uniform_runs h, hk]
  rfl

/-- A uniform instruction whose guard does not hold. -/
theorem uniform_off {s : State} {p : Path} {x : UExt} (h : pathOf s = some p) (hg : uguardHolds x p.g = false)
    (k : Path → State → UEnd) : uniform x k s = .next (atNext s p) := by
  unfold uniform
  rw [h]
  simp only [hg, Bool.false_eq_true, if_false, UEnd.out, pathTo_eq]
  rfl

/-- Changing the group and then moving its path is one change. -/
theorem atNext_group (s : State) (p : Path) (f : Group → Group) : atNext (withGroup s p f) p = uniNext s p p.iss.next f := by
  unfold atNext uniNext
  rw [withGroup_comp]
  rfl

/-- The whole group is there. -/
theorem reconverged_iff (p : Path) : reconverged p = true ↔ ∀ n ∈ p.g.live, n ∈ p.lanes := by
  simp [reconverged]

/-- THE NEXT STATE OF A UNIFORM INSTRUCTION THAT WAITS FOR ITS GROUP, which is there. -/
theorem conv_runs {s : State} {p : Path} {x : UExt} (h : URuns s p x) (hw : ∀ n ∈ p.g.live, n ∈ p.lanes)
    (k : Path → State → UEnd) : uniformConv x k s = (k p (freed s p)).out p := by
  unfold uniformConv
  rw [h.path]
  simp only [(reconverged_iff p).2 hw, if_true, h.guard, pathHold_eq]
  rfl

end Sys2Proof.Laws
end

