-- ==== Sys2Proof/Laws/Memory.lean ====
section
/-! SUPPORT. Every operation that writes a byte memory of the module keeps `memWf`, and the operations that change one block,
group, lane, cluster, grid, core, partition or context keep it when their change does. -/

namespace Sys2Proof.Laws

open Sys2Proof.Machine

/-! ### The memories -/

/-- What `memWf` says, memory by memory. -/
structure MemWf (s : State) : Prop where
  dram : Memory.wf s.dram = true
  dsp : Memory.wf s.dsp = true
  pool : Memory.wf s.pool = true
  host : Memory.wf s.hostMem = true
  stage : Memory.wf s.mgmt.stage = true
  blocks : ∀ b ∈ s.blocks, blockWf b = true
  clusters : ∀ c ∈ s.clusters, Memory.wf c.mem = true
  shades : ∀ h ∈ s.shades, Memory.wf h.mem = true
  parts : ∀ q ∈ s.parts, partWf q.2 = true

theorem memWf_iff (s : State) : memWf s = true ↔ MemWf s := by
  simp only [memWf, Bool.and_eq_true, List.all_eq_true]
  exact ⟨fun h => ⟨h.1.1.1.1.1.1.1.1, h.1.1.1.1.1.1.1.2, h.1.1.1.1.1.1.2, h.1.1.1.1.1.2, h.1.1.1.1.2, h.1.1.1.2, h.1.1.2, h.1.2,
      h.2⟩,
    fun h => ⟨⟨⟨⟨⟨⟨⟨⟨h.dram, h.dsp⟩, h.pool⟩, h.host⟩, h.stage⟩, h.blocks⟩, h.clusters⟩, h.shades⟩, h.parts⟩⟩

/-- States with the same memories are well formed alike. -/
theorem memWf_same {s t : State} (h1 : t.dram = s.dram) (h2 : t.dsp = s.dsp) (h3 : t.pool = s.pool) (h4 : t.hostMem = s.hostMem)
    (h5 : t.mgmt = s.mgmt) (h6 : t.blocks = s.blocks) (h7 : t.clusters = s.clusters) (h8 : t.shades = s.shades)
    (h9 : t.parts = s.parts) : memWf t = memWf s := by
  rw [memWf, memWf, h1, h2, h3, h4, h5, h6, h7, h8, h9]

/-- An operation that keeps the memories, done for every element of a list, keeps them. -/
theorem memWf_foldl {β : Type} (f : State → β → State) (hf : ∀ s x, memWf s = true → memWf (f s x) = true) (xs : List β)
    (s : State) (h : memWf s = true) : memWf (xs.foldl f s) = true := by
  induction xs generalizing s with
  | nil => exact h
  | cons x xs ih => exact ih _ (hf _ _ h)

/-- A property of every entry of a table holds when it does of the entry set. -/
theorem all_cset {α : Type} {P : α → Prop} {c : Cells α} (h : ∀ q ∈ c, P q.2) (j : Nat) {v : α} (hv : P v) :
    ∀ q ∈ cset c j v, P q.2 := fun q hq => by
  rcases mem_cset hq with e | e
  · rw [e]; exact hv
  · exact h q e

theorem mem_of_cfind {α : Type} {c : Cells α} {j : Nat} {v : α} (h : cfind c j = some v) : (j, v) ∈ c := by
  induction c with
  | nil => cases h
  | cons p c ih =>
    obtain ⟨k, u⟩ := p
    unfold cfind at h
    split at h
    · next e => cases h; subst e; exact List.mem_cons_self
    · exact List.mem_cons_of_mem _ (ih h)

/-! ### A change of one block, group, lane, cluster, partition or context -/

theorem memWf_modBlock (s : State) (b : Nat) (f : Block → Block) (hf : ∀ k, blockWf k = true → blockWf (f k) = true)
    (h : memWf s = true) : memWf (modBlock s b f) = true := by
  have w := (memWf_iff s).1 h
  refine (memWf_iff _).2 { w with blocks := fun k hk => ?_ }
  obtain ⟨a, ha, rfl⟩ := List.mem_map.1 hk
  split
  · exact hf _ (w.blocks a ha)
  · exact w.blocks a ha

theorem blockWf_modGroup (b : Block) (g : Nat) (f : Group → Group) (hf : ∀ k, groupWf k = true → groupWf (f k) = true)
    (h : blockWf b = true) : blockWf (b.modGroup g f) = true := by
  simp only [blockWf, Bool.and_eq_true, List.all_eq_true, Block.modGroup] at h ⊢
  refine ⟨h.1, fun k hk => ?_⟩
  obtain ⟨i, hi, rfl⟩ := List.mem_iff_getElem.1 hk
  rw [List.getElem_modify]
  have := h.2 _ (List.getElem_mem (by simpa using hi))
  split
  · exact hf _ this
  · exact this

theorem memWf_modGroup (s : State) (b g : Nat) (f : Group → Group) (hf : ∀ k, groupWf k = true → groupWf (f k) = true)
    (h : memWf s = true) : memWf (modGroup s b g f) = true :=
  memWf_modBlock s b _ (fun k hk => blockWf_modGroup k g f hf hk) h

/-- A change of a group but for its lanes keeps the memories. -/
theorem memWf_modGroup_same (s : State) (b g : Nat) (f : Group → Group) (hf : ∀ k, (f k).lanes = k.lanes) (h : memWf s = true) :
    memWf (modGroup s b g f) = true :=
  memWf_modGroup s b g f (fun k hk => by rw [groupWf, hf]; exact hk) h

theorem memWf_modLane (s : State) (b g i : Nat) (f : Lane → Lane) (hf : ∀ l, laneWf l = true → laneWf (f l) = true)
    (h : memWf s = true) : memWf (modLane s b g i f) = true := by
  refine memWf_modGroup s b g _ (fun k hk => ?_) h
  simp only [groupWf, List.all_eq_true, Group.modLane] at hk ⊢
  intro l hl
  obtain ⟨j, hj, rfl⟩ := List.mem_iff_getElem.1 hl
  rw [List.getElem_modify]
  have := hk _ (List.getElem_mem (by simpa using hj))
  split
  · exact hf _ this
  · exact this

theorem groupWf_mapIdx (g : Group) (f : Nat → Lane → Lane) (hf : ∀ i l, laneWf l = true → laneWf (f i l) = true)
    (h : groupWf g = true) : groupWf { g with lanes := g.lanes.mapIdx f } = true := by
  simp only [groupWf, List.all_eq_true] at h ⊢
  intro l hl
  obtain ⟨i, hi, rfl⟩ := List.mem_mapIdx.1 hl
  exact hf _ _ (h _ (List.getElem_mem _))

/-- Lanes of a group changed in what is no memory of theirs. -/
theorem memWf_mapLanes (s : State) (f : Nat → Nat → Nat → Lane → Lane) (hf : ∀ b g i l, laneWf l = true → laneWf (f b g i l) = true)
    (h : memWf s = true) : memWf (mapLanes s f) = true := by
  have w := (memWf_iff s).1 h
  refine (memWf_iff _).2 { w with blocks := fun k hk => ?_ }
  obtain ⟨a, ha, rfl⟩ := List.mem_map.1 hk
  have := w.blocks a ha
  simp only [blockWf, Bool.and_eq_true, List.all_eq_true] at this ⊢
  refine ⟨this.1, fun g hg => ?_⟩
  obtain ⟨i, hi, rfl⟩ := List.mem_mapIdx.1 hg
  exact groupWf_mapIdx _ _ (fun j l => hf _ _ _ _) (this.2 _ (List.getElem_mem _))

theorem memWf_modCluster (s : State) (c : Nat) (f : Cluster → Cluster) (hf : ∀ k, Memory.wf k.mem = true → Memory.wf (f k).mem = true)
    (h : memWf s = true) : memWf (modCluster s c f) = true := by
  have w := (memWf_iff s).1 h
  refine (memWf_iff _).2 { w with clusters := fun k hk => ?_ }
  obtain ⟨a, ha, rfl⟩ := List.mem_map.1 hk
  split
  · exact hf _ (w.clusters a ha)
  · exact w.clusters a ha

theorem memWf_modShade (s : State) (sp : FeSpace) (f : Shade → Shade) (hf : ∀ k, Memory.wf k.mem = true → Memory.wf (f k).mem = true)
    (h : memWf s = true) : memWf (modShade s sp f) = true := by
  have w := (memWf_iff s).1 h
  refine (memWf_iff _).2 { w with shades := fun k hk => ?_ }
  obtain ⟨a, ha, rfl⟩ := List.mem_map.1 hk
  split
  · exact hf _ (w.shades a ha)
  · exact w.shades a ha

theorem memWf_modPart (s : State) (p : Nat) (f : Part → Part) (hf : ∀ q, partWf q = true → partWf (f q) = true)
    (h : memWf s = true) : memWf (modPart s p f) = true := by
  have w := (memWf_iff s).1 h
  unfold modPart
  split
  · next q hq => exact (memWf_iff _).2 { w with parts := all_cset (P := fun q => partWf q = true) w.parts p (hf _ (w.parts _ (mem_of_cfind hq))) }
  · exact h

/-- A change of a partition but for its resume queue and its contexts keeps the memories. -/
theorem memWf_modPart_same (s : State) (p : Nat) (f : Part → Part) (h1 : ∀ q, (f q).resume = q.resume)
    (h2 : ∀ q, (f q).ctxs = q.ctxs) (h : memWf s = true) : memWf (modPart s p f) = true :=
  memWf_modPart s p f (fun q hq => by rw [partWf, h1, h2]; exact hq) h

theorem memWf_modCtx (s : State) (p c : Nat) (f : Ctx → Ctx)
    (hf : ∀ x, (x.saved.map savedWf).getD true = true → ((f x).saved.map savedWf).getD true = true)
    (h : memWf s = true) : memWf (modCtx s p c f) = true := by
  refine memWf_modPart s p _ (fun q hq => ?_) h
  split
  · next x hx =>
    simp only [partWf, Bool.and_eq_true, List.all_eq_true] at hq ⊢
    exact ⟨hq.1, all_cset (P := fun x : Ctx => (x.saved.map savedWf).getD true = true) hq.2 c (hf _ (hq.2 _ (mem_of_cfind hx)))⟩
  · exact hq

/-- A change of a context but for what is saved of it keeps the memories. -/
theorem memWf_modCtx_same (s : State) (p c : Nat) (f : Ctx → Ctx) (hf : ∀ x, (f x).saved = x.saved) (h : memWf s = true) :
    memWf (modCtx s p c f) = true := memWf_modCtx s p c f (fun x hx => by rw [hf]; exact hx) h

@[simp] theorem memWf_modGrid (s : State) (g : Nat) (f : Grid → Grid) : memWf (modGrid s g f) = memWf s := rfl

@[simp] theorem memWf_modCore (s : State) (n : Nat) (f : Core → Core) : memWf (modCore s n f) = memWf s := rfl

@[simp] theorem memWf_coverPoison (s : State) (u : PoisonUnit) (off n : Nat) : memWf (coverPoison s u off n) = memWf s := rfl

@[simp] theorem memWf_dropStale (s : State) (a : Nat) : memWf (dropStale s a) = memWf s := rfl

theorem memWf_wakeRetry (s : State) (p : Nat → Bool) (why : Retry) (h : memWf s = true) : memWf (wakeRetry s p why) = true :=
  memWf_mapLanes s _ (fun _ _ _ l hl => by split <;> exact hl) h

theorem memWf_stopWith (s : State) (b g : Nat) (rs : List TrapRec) (h : memWf s = true) : memWf (stopWith s b g rs) = true := by
  unfold stopWith
  split
  · exact h
  · exact memWf_modGroup_same s b g _ (fun k => rfl) h

theorem memWf_trapLanes (s : State) (b g : Nat) (rg : Bool) (ts : List (Nat × Trap)) (h : memWf s = true) :
    memWf (trapLanes s b g rg ts) = true := by
  unfold trapLanes
  split
  · exact h
  · split
    · exact h
    · exact memWf_stopWith _ _ _ _ h

/-! ### Bytes written -/

/-- A byte written in the device-scope order keeps the memories canonical. -/
theorem memWf_physWrite (s : State) (pa : Nat) (v : Byte) (h : memWf s = true) : memWf (physWrite s pa v) = true := by
  have w := (memWf_iff s).1 h
  unfold physWrite
  split
  · exact (memWf_iff _).2 { w with dram := wf_mput _ _ _ w.dram }
  · split
    · exact h
    · exact (memWf_same rfl rfl rfl rfl rfl rfl rfl rfl rfl).trans h
  · exact (memWf_same rfl rfl rfl rfl rfl rfl rfl rfl rfl).trans h
  · exact h

theorem memWf_physEach (s : State) (pa : Nat) (bs : List Byte) (h : memWf s = true) : memWf (physEach s pa bs) = true := by
  induction bs generalizing s pa with
  | nil => exact h
  | cons v vs ih => exact ih _ _ (memWf_physWrite _ _ _ h)

theorem memWf_physWrites (s : State) (pa : Nat) (bs : List Byte) (h : memWf s = true) : memWf (physWrites s pa bs) = true := by
  unfold physWrites
  split
  · exact (memWf_same rfl rfl rfl rfl rfl rfl rfl rfl rfl).trans h
  · exact memWf_physEach _ _ _ h

/-- Table 6-1: a write-back keeps the memories canonical. -/
theorem memWf_poolWriteBack (s : State) (line : Nat) (h : memWf s = true) : memWf (poolWriteBack s line) = true := by
  unfold poolWriteBack
  split
  · have w := (memWf_iff s).1 h
    exact (memWf_iff _).2 { w with pool := wf_foldl _ (fun _ _ h => wf_mput _ _ _ h) _ _ w.pool }
  · exact h

/-- A byte put in a place keeps the memories canonical. -/
theorem memWf_put (s : State) (v : Byte) (p : Place) (h : memWf s = true) : memWf (p.put s v) = true := by
  cases p with
  | phys pa => exact memWf_physWrite _ _ _ h
  | dsp a =>
    have w := (memWf_iff s).1 h
    exact (memWf_iff _).2 { w with dsp := wf_mput _ _ _ w.dsp }
  | priv b g l o =>
    refine memWf_modLane _ _ _ _ _ (fun x hx => ?_) h
    simp only [laneWf, Bool.and_eq_true] at hx ⊢
    exact ⟨wf_mput _ _ _ hx.1, hx.2⟩
  | window b g n o =>
    refine memWf_modLane _ _ _ _ _ (fun x hx => ?_) h
    simp only [laneWf, Bool.and_eq_true] at hx ⊢
    exact ⟨hx.1, cwf_cput _ _ _ _ hx.2⟩
  | scr b o =>
    refine memWf_modShade _ _ _ (fun k hk => wf_mput _ _ _ hk) (memWf_modBlock _ _ _ (fun x hx => ?_) h)
    simp only [blockWf, Bool.and_eq_true] at hx ⊢
    exact ⟨wf_mput _ _ _ hx.1, hx.2⟩
  | csh c o =>
    exact memWf_modShade _ _ _ (fun k hk => wf_mput _ _ _ hk) (memWf_modCluster _ _ _ (fun x hx => wf_mput _ _ _ hx) h)

theorem memWf_putBytes (s : State) (p : Place) (bs : List Byte) (h : memWf s = true) : memWf (putBytes s p bs) = true := by
  induction bs generalizing s p with
  | nil => exact h
  | cons v vs ih => exact ih _ _ (memWf_put _ _ _ h)

theorem memWf_writePlace (s : State) (p : Place) (bs : List Byte) (h : memWf s = true) : memWf (writePlace s p bs) = true := by
  unfold writePlace
  split
  · exact memWf_physWrites _ _ _ h
  · exact memWf_putBytes _ _ _ h

@[simp] theorem memWf_addPoison (s : State) (u : PoisonUnit) : memWf (addPoison s u) = memWf s := rfl

/-- What becomes poisoned or is written over changes no memory. -/
theorem memWf_coverPlace (s : State) (p : Place) (n : Nat) (h : memWf s = true) : memWf (coverPlace s p n) = true :=
  memWf_foldl (fun s k => coverPoison s (p.shift k).unit.1 (p.shift k).unit.2 1) (fun s _ h => (memWf_coverPoison s _ _ _).trans h) _ s h

theorem memWf_poisonPlace (s : State) (p : Place) (n : Nat) (h : memWf s = true) : memWf (poisonPlace s p n) = true :=
  memWf_foldl addPoison (fun s u h => (memWf_addPoison s u).trans h) _ s h

/-- R136: a part of an update that takes its place in the order keeps the memories canonical. -/
theorem memWf_landPart (s : State) (q : Part16) (h : memWf s = true) : memWf (landPart s q) = true := by
  unfold landPart
  dsimp only
  split
  · exact memWf_poisonPlace _ _ _ (memWf_coverPlace _ _ _ (memWf_physWrites _ _ _ h))
  · exact memWf_coverPlace _ _ _ (memWf_physWrites _ _ _ h)

theorem memWf_landUpdate (s : State) (u : Update) (h : memWf s = true) : memWf (landUpdate s u) = true :=
  memWf_foldl landPart memWf_landPart u.parts s h

/-- R133: engine writes that take their place in the order keep the memories canonical. -/
theorem memWf_landWhere (s : State) (f : Unpub → Bool) (g : Update → Bool) (h : memWf s = true) : memWf (landWhere s f g) = true := by
  have k : memWf { s with unpub := s.unpub.filter fun u => !f u, atOnce := s.atOnce.filter fun u => !g u } = true := h
  have k := memWf_foldl (fun s (r : Nat × List Byte) => physWrites s r.1 r.2) (fun s r h => memWf_physWrites s r.1 r.2 h)
    (accesses ((s.unpub.filter f).map fun u => (u.pa, u.byte))) _ k
  exact memWf_foldl landUpdate memWf_landUpdate (s.atOnce.filter g) _ k

/-! ### Pool and host -/

theorem memWf_dropLine (s : State) (line : Nat) (h : memWf s = true) : memWf (dropLine s line) = true :=
  (memWf_same rfl rfl rfl rfl rfl rfl rfl rfl rfl).trans (memWf_poolWriteBack s line h)

/-- R138: a system agent's store keeps the memories canonical. -/
theorem memWf_agentByte (s : State) (a : Nat) (v : Byte) (h : memWf s = true) : memWf (agentByte s a v) = true := by
  have w := (memWf_iff s).1 h
  exact (memWf_iff _).2 ⟨w.dram, w.dsp, wf_mput _ _ _ w.pool, w.host, w.stage, w.blocks, w.clusters, w.shades, w.parts⟩

theorem memWf_agentStore (s : State) (line : Nat) (bytes : List (Nat × Byte)) (h : memWf s = true) :
    memWf (agentStore s line bytes) = true := by
  have k := memWf_foldl (fun s (q : Nat × Byte) => agentByte s (64 * line + q.1) q.2) (fun s q h => memWf_agentByte s _ q.2 h) bytes s h
  exact k

/-- R138: what hosts store of their own keeps the memories canonical. -/
theorem memWf_hostAgent (s : State) (h : memWf s = true) : memWf (hostAgent s) = true := by
  have w := (memWf_iff s).1 h
  exact (memWf_iff _).2 ⟨w.dram, w.dsp, w.pool, wf_foldl _ (fun _ _ h => wf_mput _ _ _ h) _ _ w.host, w.stage, w.blocks, w.clusters,
    w.shades, w.parts⟩

/-- R412: windows that are moved to other ports keep the memories canonical. -/
theorem memWf_moveWindowPorts (s : State) (h : memWf s = true) : memWf (moveWindowPorts s) = true := by
  have w := (memWf_iff s).1 h
  unfold moveWindowPorts
  split
  · exact h
  · refine (memWf_iff _).2 { w with parts := fun k hk => ?_ }
    obtain ⟨q, hq, rfl⟩ := List.mem_map.1 hk
    exact w.parts q hq

/-- R140: a posted access that reaches the host keeps the memories canonical. -/
theorem memWf_hostWriteAck (s t : State) (h : memWf s = true) (ht : execHostWriteAck s = .next t) : memWf t = true := by
  unfold execHostWriteAck at ht
  split at ht
  · cases ht; exact h
  · have w := (memWf_iff _).1 (memWf_hostAgent s h)
    dsimp only at ht
    split at ht <;> cases ht
    · exact memWf_wakeRetry _ _ _ (memWf_moveWindowPorts _ ((memWf_iff _).2
        ⟨w.dram, w.dsp, w.pool, wf_foldl _ (fun _ _ h => wf_mput _ _ _ h) _ _ w.host, w.stage, w.blocks, w.clusters, w.shades,
          w.parts⟩))
    · exact memWf_hostAgent s h

/-! ### Images, tables and windows -/

/-- R201, R202, R416: a page in its frame keeps the memories canonical. -/
theorem memWf_fillFrame (s : State) (f : Nat) (page : List Byte) (h : memWf s = true) : memWf (fillFrame s f page) = true := by
  have w := (memWf_iff _).1 (memWf_landWhere s (fun u => inFrame f u.pa) (fun u => u.parts.any fun q => inFrame f q.pa) h)
  exact (memWf_iff _).2 ⟨wf_mputs _ _ _ w.dram, w.dsp, w.pool, w.host, w.stage, w.blocks, w.clusters, w.shades, w.parts⟩

/-- R201, R202: filling frames keeps the memories canonical. -/
theorem memWf_fillFrames (s : State) (old : Option Version) (img : List Byte) (fs : List Nat) (h : memWf s = true) :
    memWf (fillFrames s old img fs) = true := by
  refine memWf_foldl _ (fun s k h => ?_) _ _ h
  split
  · exact h
  · exact memWf_fillFrame _ _ _ h

/-- R367: a leaf written keeps the memories canonical. -/
theorem memWf_setLeaf (s : State) (p : Nat) (t va : DWord) (leaf : Nat) (h : memWf s = true) :
    memWf (setLeaf s p t va leaf) = true := by
  have w := (memWf_iff s).1 h
  unfold setLeaf
  dsimp only
  split
  · exact (memWf_iff _).2 { w with dram := wf_mputs _ _ _ w.dram }
  · exact h

/-- R361: dropping a context keeps the memories canonical. -/
theorem memWf_dropCtx (s : State) (p c : Nat) (h : memWf s = true) : memWf (dropCtx s p c) = true := by
  unfold dropCtx
  dsimp only
  refine memWf_modPart _ _ _ (fun q hq => ?_) ?_
  · simp only [partWf, Bool.and_eq_true, List.all_eq_true] at hq ⊢
    exact ⟨fun b hb => hq.1 b (List.mem_of_mem_filter hb), hq.2⟩
  · have h := memWf_foldl (fun s n => modCore s n fun k => { frozen := k.frozen, sampled := k.sampled }) (fun _ _ h => h)
      (((s.blocks.filter fun b => b.part = p && b.ctx = c).map Block.core).eraseDups) s h
    have w := (memWf_iff _).1 h
    exact (memWf_iff _).2 ⟨w.dram, wf_filter _ _ w.dsp, w.pool, w.host, w.stage, fun b hb => w.blocks b (List.mem_of_mem_filter hb),
      fun k hk => w.clusters k (List.mem_of_mem_filter hk), w.shades, w.parts⟩

/-- R364, R365: a block that has lost its core keeps its memories. -/
theorem blockWf_leaves (cores : List (Nat × Core)) (b : Block) (h : blockWf b = true) : blockWf (takeLease cores b).reask = true := by
  have k : blockWf (takeLease cores b) = true := by
    unfold takeLease
    split
    · split <;> exact h
    · exact h
  simp only [blockWf, Bool.and_eq_true, List.all_eq_true, Block.reask] at k ⊢
  refine ⟨k.1, fun g hg => ?_⟩
  obtain ⟨a, ha, rfl⟩ := List.mem_map.1 hg
  have := k.2 a ha
  simp only [groupWf, List.all_eq_true] at this ⊢
  intro l hl
  obtain ⟨i, hi, rfl⟩ := List.mem_map.1 hl
  have := this i hi
  split
  · exact this
  · exact this

/-- R364: an image's state taken back keeps the memories canonical. -/
theorem memWf_unpack (s : State) (p : Nat) (v : Saved) (hv : savedWf v = true) (h : memWf s = true) : memWf (unpack s p v) = true := by
  simp only [savedWf, Bool.and_eq_true, List.all_eq_true] at hv
  obtain ⟨⟨hb, hr⟩, hc⟩ := hv
  unfold unpack
  dsimp only
  have k := memWf_foldl (fun (s : State) (k : Nat × Core) => modCore (dropLeases s k.1) k.1 fun _ => { k.2 with frozen := false })
    (fun _ _ h => h) (v.cores.filter fun k => takesBack s p k.1) s h
  have w := (memWf_iff _).1 k
  refine memWf_modPart _ _ _ (fun q hq => ?_) ((memWf_iff _).2 ⟨w.dram, ?_, w.pool, w.host, w.stage, fun b hb' => ?_, fun c hc' => ?_,
    w.shades, w.parts⟩)
  · simp only [partWf, Bool.and_eq_true, List.all_eq_true] at hq ⊢
    refine ⟨fun b hb' => ?_, hq.2⟩
    rcases List.mem_append.1 hb' with e | e
    · rcases List.mem_append.1 e with e | e
      · obtain ⟨a, ha, rfl⟩ := List.mem_map.1 e
        exact blockWf_leaves _ _ (hb a (List.mem_of_mem_filter ha))
      · exact hr b e
    · exact hq.1 b e
  · exact wf_foldl _ (fun _ _ h => wf_mput _ _ _ h) _ _ (wf_filter _ _ w.dsp)
  · rcases List.mem_append.1 hb' with e | e
    · exact w.blocks b e
    · exact hb b (List.mem_of_mem_filter e)
  · rcases List.mem_append.1 hc' with e | e
    · exact w.clusters c e
    · obtain ⟨a, ha, rfl⟩ := List.mem_map.1 e
      unfold unpack.place
      split
      · exact hc a ha
      · exact hc a ha

/-- R328: a power-on reset leaves the memories that keep their contents canonical. -/
theorem memWf_rebase (clk : Nat) (q : Part) (h : partWf q = true) : partWf (q.afterShutdown clk) = true := by
  simp only [partWf, Bool.and_eq_true, List.all_eq_true, Part.afterShutdown] at h ⊢
  refine ⟨h.1, fun c hc => ?_⟩
  obtain ⟨a, ha, rfl⟩ := List.mem_map.1 hc
  have := h.2 a ha
  cases e : a.2.saved with
  | none => simp
  | some v => simp only [e, Option.map_some, Option.getD_some] at this ⊢; exact this

theorem memWf_powerOn (s : State) (h : memWf s = true) : memWf (powerOn s) = true := by
  have w := (memWf_iff s).1 h
  refine (memWf_iff _).2 ⟨w.dram, rfl, w.pool, w.host, rfl, fun _ hb => (List.not_mem_nil hb).elim,
    fun _ hb => (List.not_mem_nil hb).elim, fun k hk => ?_, fun q hq => ?_⟩
  · simp only [powerOn] at hk
    split at hk
    · exact w.shades k hk
    · exact (List.not_mem_nil hk).elim
  · simp only [powerOn] at hq
    split at hq
    · obtain ⟨a, ha, rfl⟩ := List.mem_map.1 hq
      exact memWf_rebase _ _ (w.parts a ha)
    · exact (List.not_mem_nil hq).elim

/-- Placing an instruction where the next step fetches keeps the memories canonical. -/
theorem memWf_installWord (s : State) (bs : List Byte) (h : memWf s = true) : memWf (installWord s bs) = true := by
  unfold installWord
  dsimp only
  have k : memWf (modCore (modPart (if (cfind s.parts 0).isSome then s else
      { s with parts := cset s.parts 0 { desc := installDesc, en := true, ctxs := [(0, {})] } }) 0
      fun q => { q with rung := .none, running := 0, desc := { q.desc with chan := sinsert q.desc.chan 0 } }) 0 fun c => { c with frozen := false }) = true := by
    rw [memWf_modCore]
    refine memWf_modPart_same _ _ _ (fun _ => rfl) (fun _ => rfl) ?_
    split
    · exact h
    · have w := (memWf_iff s).1 h
      exact (memWf_iff _).2 { w with parts := all_cset (P := fun q => partWf q = true) w.parts 0 rfl }
  have w := (memWf_iff _).1 k
  refine (memWf_iff _).2 ⟨wf_mputs _ _ _ w.dram, w.dsp, w.pool, w.host, w.stage, fun b hb => ?_, fun b hb => ?_, w.shades, w.parts⟩
  · rcases List.mem_append.1 hb with e | e
    · exact w.blocks b e
    · rw [List.mem_singleton.1 e]; rfl
  · rcases List.mem_append.1 hb with e | e
    · exact w.clusters b e
    · rw [List.mem_singleton.1 e]; rfl

end Sys2Proof.Laws
end

