-- ==== Sys2Proof/Laws/Reads.lean ====
section
/-! SUPPORT. What a read can change: TLBs, leases and line states of the pool, and what commands and rows have read ahead; no memory. -/

namespace Sys2Proof.Laws

open Sys2Proof.Machine

/-- `t` is `s` but for TLBs, leases and line states of the pool, and what commands and rows have read. -/
def OnlyRead (s t : State) : Prop :=
  t = { s with tlb := t.tlb, poolLeases := t.poolLeases, poolLines := t.poolLines, cmds := t.cmds, bfqs := t.bfqs }

namespace OnlyRead

theorem refl (s : State) : OnlyRead s s := rfl

theorem trans {s t u : State} (h : OnlyRead s t) (k : OnlyRead t u) : OnlyRead s u := by
  unfold OnlyRead at *
  rw [k, h]

theorem foldl {β : Type} {f : State → β → State} (hf : ∀ s x, OnlyRead s (f s x)) (xs : List β) (s : State) :
    OnlyRead s (xs.foldl f s) := by
  induction xs generalizing s with
  | nil => exact refl s
  | cons x xs ih => exact (hf s x).trans (ih _)

/-- The same for a fold that also carries something else. -/
theorem foldl_fst {β γ : Type} {f : State × γ → β → State × γ} (hf : ∀ a x, OnlyRead a.1 (f a x).1) (xs : List β) (a : State × γ) :
    OnlyRead a.1 (xs.foldl f a).1 := by
  induction xs generalizing a with
  | nil => exact refl a.1
  | cons x xs ih => exact (hf a x).trans (ih _)

end OnlyRead

/-- A read keeps the memories as they are. -/
theorem memWf_onlyRead {s t : State} (h : OnlyRead s t) : memWf t = memWf s := by
  unfold OnlyRead at h
  rw [h]
  exact memWf_same rfl rfl rfl rfl rfl rfl rfl rfl rfl

/-! ### Translations and touches -/

theorem onlyRead_tlbFill (s : State) (draw : Nat) (e : TlbEntry) : OnlyRead s (tlbFill s draw e) := by
  unfold tlbFill
  split
  · exact .refl s
  · split
    · rfl
    · split
      · rfl
      · exact .refl s

theorem onlyRead_translate (s : State) (core part ctx trc : Nat) (va : DWord) (draw : Nat) :
    OnlyRead s (Machine.translate s core part ctx trc va draw).1 := by
  have fill := fun (e : TlbEntry) => OnlyRead.foldl (f := fun s u => tlbFill s draw { e with unit := u })
    (fun s u => onlyRead_tlbFill s draw _) (coreTlbs core) s
  unfold Machine.translate translateBy
  split
  · exact .refl s
  · dsimp only
    split
    · exact fill _
    · split
      · exact .refl s
      · next b n leaf _ => exact fill { unit := .die 0, part := part, ctx := ctx, trc := trc, va := va.toNat % 2 ^ 57 / n * n
                                        size := n, pa := b, leaf := leaf }

theorem onlyRead_globalPlace (s : State) (w : Who) (kind : AccessKind) (va : DWord) (draw : Nat) :
    OnlyRead s (globalPlace s w kind va draw).1 := by
  have h := onlyRead_translate s w.core w.part w.ctx w.trc va draw
  unfold globalPlace
  generalize Machine.translate s w.core w.part w.ctx w.trc va draw = r at h
  obtain ⟨t, _ | ⟨pa, leaf⟩⟩ := r
  · exact h
  · dsimp only
    split
    · exact h
    · split <;> exact h

theorem onlyRead_globalParts (s : State) (c : Cmd) (kind : AccessKind) (va : DWord) (rs : List (Nat × Nat)) :
    OnlyRead s (globalParts s c kind va rs).1 := by
  induction rs generalizing s with
  | nil => exact .refl s
  | cons q rs ih =>
    obtain ⟨o, n⟩ := q
    have h := onlyRead_globalPlace s c.who kind (va + BitVec.ofNat 64 o) (drawOf s 200 o)
    unfold globalParts
    generalize globalPlace s c.who kind (va + BitVec.ofNat 64 o) (drawOf s 200 o) = r at h
    obtain ⟨t, _ | p⟩ := r
    · exact h
    · cases p with
      | phys pa =>
        have k := ih t
        dsimp only
        generalize globalParts t c kind va rs = r at k
        obtain ⟨u, _ | ps⟩ := r <;> exact h.trans k
      | _ => exact h

theorem onlyRead_poolTouch (s : State) (core a n draw : Nat) : OnlyRead s (poolTouch s core a n draw) := by
  have h : OnlyRead s (((List.range n).filter fun k => !((poolLease s core (a / 64)).any fun l => (cfind l.stale (a + k)).isSome)).foldl
      (fun s k => dropStale s (a + k)) s) := .foldl (f := fun s k => dropStale s (a + k)) (fun _ _ => rfl) _ s
  unfold poolTouch
  dsimp only
  refine h.trans ?_
  split <;> split <;> rfl

theorem onlyRead_touchPlace (s : State) (core draw : Nat) (p : Place) (n : Nat) : OnlyRead s (touchPlace s core draw p n) := by
  unfold touchPlace
  split
  · split
    · exact onlyRead_poolTouch _ _ _ _ _
    · exact .refl s
  · exact .refl s

/-! ### What engines read -/

theorem onlyRead_engineRead (s : State) (c : Cmd) (a : EngAddr) (n : Nat) : OnlyRead s (engineRead s c a n).1 := by
  unfold engineRead
  dsimp only
  split
  · next va =>
    have h := onlyRead_globalParts s c .read va (segments va.toNat n)
    generalize globalParts s c .read va (segments va.toNat n) = r at h
    obtain ⟨t, _ | ps⟩ := r
    · exact h
    · exact h.trans (.foldl (fun _ _ => onlyRead_touchPlace _ _ _ _ _) ps t)
  · split <;> exact .refl s
  · split <;> exact .refl s

theorem onlyRead_readSource (s : State) (c : Cmd) (o n : Nat) : OnlyRead s (readSource s c o n).1 := by
  have src : OnlyRead s (pieceSrc s c o).1 := by
    unfold pieceSrc
    split
    case h_3 base len pitch blk idx wide _ =>
      have h := onlyRead_engineRead s c (indexPlace o len blk idx wide).1 (indexPlace o len blk idx wide).2
      dsimp only
      generalize engineRead s c (indexPlace o len blk idx wide).1 (indexPlace o len blk idx wide).2 = r at h
      obtain ⟨t, _ | _⟩ := r <;> exact h
    all_goals exact .refl s
  unfold readSource
  generalize pieceSrc s c o = r at src
  obtain ⟨t, _ | ⟨a, bad⟩⟩ := r
  · exact src
  · have h := onlyRead_engineRead t c a n
    dsimp only
    generalize engineRead t c a n = r at h
    obtain ⟨u, _ | _⟩ := r <;> exact OnlyRead.trans src h

theorem onlyRead_earlier (r : State × Cmd) (o : Nat) : OnlyRead r.1 (earlier r o).1 := by
  have h := onlyRead_readSource r.1 r.2 o 1
  unfold earlier
  split
  · exact .refl _
  · generalize readSource r.1 r.2 o 1 = q at h
    split
    · exact h
    · exact .refl _

theorem onlyRead_readAhead (cmd : Nat) (s : State) (o : Nat) : OnlyRead s (readAhead cmd s o) := by
  unfold readAhead
  split
  · exact .refl s
  · next c _ => exact (onlyRead_earlier (s, c) o).trans rfl

theorem onlyRead_rowsAhead (ra : Nat) (mine : BfqRow → Bool) (s : State) (rows : List BfqRow) :
    OnlyRead s (rowsAhead ra mine s rows).1 := by
  refine OnlyRead.foldl_fst (fun a r => ?_) rows (s, [])
  split
  · exact OnlyRead.foldl_fst onlyRead_earlier (List.range ra) (a.1, r.source (.global r.res))
  · exact .refl _

theorem onlyRead_bindingAhead (mine : BfqRow → Bool) (s : State) (unit : Nat) : OnlyRead s (bindingAhead mine s unit) := by
  unfold bindingAhead
  split
  · exact .refl s
  · next q _ =>
    refine (onlyRead_rowsAhead q.ra mine s q.held).trans (OnlyRead.trans ?_ rfl)
    refine OnlyRead.foldl_fst (fun a p => ?_) q.pairs ((rowsAhead q.ra mine s q.held).1, ([] : List BfqPair))
    dsimp only
    split
    · exact .refl _
    · exact onlyRead_rowsAhead q.ra mine a.1 p.rows

/-- R145, Note 1: everything that the reads ahead before a thread's access can change. -/
theorem onlyRead_sealSources (s : State) (blk : Nat) (tids : List (BitVec 16)) : OnlyRead s (sealSources s blk tids) := by
  unfold sealSources
  dsimp only
  exact OnlyRead.trans
    (.foldl (f := fun s (c : Cmd) => c.unread.foldl (readAhead c.id) s) (fun s c => .foldl (onlyRead_readAhead c.id) c.unread s) _ s)
    (.foldl (onlyRead_bindingAhead _) _ _)

/-- They keep the memories as they are. -/
@[simp] theorem memWf_sealSources (s : State) (blk : Nat) (tids : List (BitVec 16)) : memWf (sealSources s blk tids) = memWf s :=
  memWf_onlyRead (onlyRead_sealSources s blk tids)

end Sys2Proof.Laws
end

