-- ==== Sys2Proof/Laws/State.lean ====
section
/-! SUPPORT. What each update of the state leaves as it is, one lemma per field, and what it changes. -/

namespace Sys2Proof.Laws

open Sys2Proof.Machine

/-! ### Blocks, groups and lanes -/

/-- A block found by its number has it. -/
theorem blockOf_id {s : State} {id : Nat} {b : Block} (h : blockOf s id = some b) : b.id = id := by
  have := List.find?_some h
  simpa using this

/-- A changed block is the change of the block, when the change keeps its number. -/
theorem blockOf_modBlock (s : State) (id : Nat) (f : Block → Block) (hf : ∀ b, (f b).id = b.id) (k : Nat) :
    blockOf (modBlock s id f) k = if k = id then (blockOf s k).map f else blockOf s k := by
  unfold blockOf modBlock
  dsimp only
  induction s.blocks with
  | nil => simp
  | cons b bs ih =>
    have hb : (if b.id = id then f b else b).id = b.id := by split <;> simp [hf]
    simp only [List.map_cons, List.find?_cons, hb]
    by_cases hk : b.id = k
    · subst hk; by_cases e : b.id = id <;> simp [e]
    · simp only [hk, decide_false, ih]

/-! ### modBlock -/

@[simp] theorem modBlock_clusters (s : State) (id : Nat) (f : Block → Block) : (modBlock s id f).clusters = s.clusters := rfl
@[simp] theorem modBlock_grids (s : State) (id : Nat) (f : Block → Block) : (modBlock s id f).grids = s.grids := rfl
@[simp] theorem modBlock_cores (s : State) (id : Nat) (f : Block → Block) : (modBlock s id f).cores = s.cores := rfl
@[simp] theorem modBlock_versions (s : State) (id : Nat) (f : Block → Block) : (modBlock s id f).versions = s.versions := rfl
@[simp] theorem modBlock_recs (s : State) (id : Nat) (f : Block → Block) : (modBlock s id f).recs = s.recs := rfl
@[simp] theorem modBlock_families (s : State) (id : Nat) (f : Block → Block) : (modBlock s id f).families = s.families := rfl
@[simp] theorem modBlock_cmds (s : State) (id : Nat) (f : Block → Block) : (modBlock s id f).cmds = s.cmds := rfl
@[simp] theorem modBlock_feq (s : State) (id : Nat) (f : Block → Block) : (modBlock s id f).feq = s.feq := rfl
@[simp] theorem modBlock_bfqs (s : State) (id : Nat) (f : Block → Block) : (modBlock s id f).bfqs = s.bfqs := rfl
@[simp] theorem modBlock_colls (s : State) (id : Nat) (f : Block → Block) : (modBlock s id f).colls = s.colls := rfl
@[simp] theorem modBlock_frozenEngs (s : State) (id : Nat) (f : Block → Block) : (modBlock s id f).frozenEngs = s.frozenEngs := rfl
@[simp] theorem modBlock_frozenCopies (s : State) (id : Nat) (f : Block → Block) : (modBlock s id f).frozenCopies = s.frozenCopies := rfl
@[simp] theorem modBlock_parts (s : State) (id : Nat) (f : Block → Block) : (modBlock s id f).parts = s.parts := rfl
@[simp] theorem modBlock_dram (s : State) (id : Nat) (f : Block → Block) : (modBlock s id f).dram = s.dram := rfl
@[simp] theorem modBlock_dsp (s : State) (id : Nat) (f : Block → Block) : (modBlock s id f).dsp = s.dsp := rfl
@[simp] theorem modBlock_dspFull (s : State) (id : Nat) (f : Block → Block) : (modBlock s id f).dspFull = s.dspFull := rfl
@[simp] theorem modBlock_unpub (s : State) (id : Nat) (f : Block → Block) : (modBlock s id f).unpub = s.unpub := rfl
@[simp] theorem modBlock_atOnce (s : State) (id : Nat) (f : Block → Block) : (modBlock s id f).atOnce = s.atOnce := rfl
@[simp] theorem modBlock_shades (s : State) (id : Nat) (f : Block → Block) : (modBlock s id f).shades = s.shades := rfl
@[simp] theorem modBlock_migRecs (s : State) (id : Nat) (f : Block → Block) : (modBlock s id f).migRecs = s.migRecs := rfl
@[simp] theorem modBlock_pool (s : State) (id : Nat) (f : Block → Block) : (modBlock s id f).pool = s.pool := rfl
@[simp] theorem modBlock_poolLines (s : State) (id : Nat) (f : Block → Block) : (modBlock s id f).poolLines = s.poolLines := rfl
@[simp] theorem modBlock_sysq (s : State) (id : Nat) (f : Block → Block) : (modBlock s id f).sysq = s.sysq := rfl
@[simp] theorem modBlock_poolLeases (s : State) (id : Nat) (f : Block → Block) : (modBlock s id f).poolLeases = s.poolLeases := rfl
@[simp] theorem modBlock_hostMem (s : State) (id : Nat) (f : Block → Block) : (modBlock s id f).hostMem = s.hostMem := rfl
@[simp] theorem modBlock_posted (s : State) (id : Nat) (f : Block → Block) : (modBlock s id f).posted = s.posted := rfl
@[simp] theorem modBlock_poison (s : State) (id : Nat) (f : Block → Block) : (modBlock s id f).poison = s.poison := rfl
@[simp] theorem modBlock_tlb (s : State) (id : Nat) (f : Block → Block) : (modBlock s id f).tlb = s.tlb := rfl
@[simp] theorem modBlock_fmt (s : State) (id : Nat) (f : Block → Block) : (modBlock s id f).fmt = s.fmt := rfl
@[simp] theorem modBlock_clk (s : State) (id : Nat) (f : Block → Block) : (modBlock s id f).clk = s.clk := rfl
@[simp] theorem modBlock_ptime (s : State) (id : Nat) (f : Block → Block) : (modBlock s id f).ptime = s.ptime := rfl
@[simp] theorem modBlock_locked (s : State) (id : Nat) (f : Block → Block) : (modBlock s id f).locked = s.locked := rfl
@[simp] theorem modBlock_steered (s : State) (id : Nat) (f : Block → Block) : (modBlock s id f).steered = s.steered := rfl
@[simp] theorem modBlock_ptpLost (s : State) (id : Nat) (f : Block → Block) : (modBlock s id f).ptpLost = s.ptpLost := rfl
@[simp] theorem modBlock_mgmt (s : State) (id : Nat) (f : Block → Block) : (modBlock s id f).mgmt = s.mgmt := rfl
@[simp] theorem modBlock_boot (s : State) (id : Nat) (f : Block → Block) : (modBlock s id f).boot = s.boot := rfl
@[simp] theorem modBlock_cap (s : State) (id : Nat) (f : Block → Block) : (modBlock s id f).cap = s.cap := rfl
@[simp] theorem modBlock_budgetMode (s : State) (id : Nat) (f : Block → Block) : (modBlock s id f).budgetMode = s.budgetMode := rfl
@[simp] theorem modBlock_hotDies (s : State) (id : Nat) (f : Block → Block) : (modBlock s id f).hotDies = s.hotDies := rfl
@[simp] theorem modBlock_emergency (s : State) (id : Nat) (f : Block → Block) : (modBlock s id f).emergency = s.emergency := rfl
@[simp] theorem modBlock_capBefore (s : State) (id : Nat) (f : Block → Block) : (modBlock s id f).capBefore = s.capBefore := rfl
@[simp] theorem modBlock_portsUp (s : State) (id : Nat) (f : Block → Block) : (modBlock s id f).portsUp = s.portsUp := rfl
@[simp] theorem modBlock_cxlUp (s : State) (id : Nat) (f : Block → Block) : (modBlock s id f).cxlUp = s.cxlUp := rfl
@[simp] theorem modBlock_poolDead (s : State) (id : Nat) (f : Block → Block) : (modBlock s id f).poolDead = s.poolDead := rfl
@[simp] theorem modBlock_portsAt (s : State) (id : Nat) (f : Block → Block) : (modBlock s id f).portsAt = s.portsAt := rfl
@[simp] theorem modBlock_cxlAt (s : State) (id : Nat) (f : Block → Block) : (modBlock s id f).cxlAt = s.cxlAt := rfl
@[simp] theorem modBlock_windowAt (s : State) (id : Nat) (f : Block → Block) : (modBlock s id f).windowAt = s.windowAt := rfl
@[simp] theorem modBlock_coolAt (s : State) (id : Nat) (f : Block → Block) : (modBlock s id f).coolAt = s.coolAt := rfl
@[simp] theorem modBlock_hotAt (s : State) (id : Nat) (f : Block → Block) : (modBlock s id f).hotAt = s.hotAt := rfl
@[simp] theorem modBlock_corrected (s : State) (id : Nat) (f : Block → Block) : (modBlock s id f).corrected = s.corrected := rfl
@[simp] theorem modBlock_replies (s : State) (id : Nat) (f : Block → Block) : (modBlock s id f).replies = s.replies := rfl
@[simp] theorem modBlock_outward (s : State) (id : Nat) (f : Block → Block) : (modBlock s id f).outward = s.outward := rfl
@[simp] theorem modBlock_fresh (s : State) (id : Nat) (f : Block → Block) : (modBlock s id f).fresh = s.fresh := rfl
@[simp] theorem modBlock_cur (s : State) (id : Nat) (f : Block → Block) : (modBlock s id f).cur = s.cur := rfl
@[simp] theorem modBlock_slot1 (s : State) (id : Nat) (f : Block → Block) : (modBlock s id f).slot1 = s.slot1 := rfl
@[simp] theorem modBlock_agenda (s : State) (id : Nat) (f : Block → Block) : (modBlock s id f).agenda = s.agenda := rfl
@[simp] theorem modBlock_tick (s : State) (id : Nat) (f : Block → Block) : (modBlock s id f).tick = s.tick := rfl
@[simp] theorem modBlock_laneOrder (s : State) (id : Nat) (f : Block → Block) : (modBlock s id f).laneOrder = s.laneOrder := rfl

/-! ### modGroup -/

@[simp] theorem modGroup_clusters (s : State) (id g : Nat) (f : Group → Group) : (modGroup s id g f).clusters = s.clusters := rfl
@[simp] theorem modGroup_grids (s : State) (id g : Nat) (f : Group → Group) : (modGroup s id g f).grids = s.grids := rfl
@[simp] theorem modGroup_cores (s : State) (id g : Nat) (f : Group → Group) : (modGroup s id g f).cores = s.cores := rfl
@[simp] theorem modGroup_versions (s : State) (id g : Nat) (f : Group → Group) : (modGroup s id g f).versions = s.versions := rfl
@[simp] theorem modGroup_recs (s : State) (id g : Nat) (f : Group → Group) : (modGroup s id g f).recs = s.recs := rfl
@[simp] theorem modGroup_families (s : State) (id g : Nat) (f : Group → Group) : (modGroup s id g f).families = s.families := rfl
@[simp] theorem modGroup_cmds (s : State) (id g : Nat) (f : Group → Group) : (modGroup s id g f).cmds = s.cmds := rfl
@[simp] theorem modGroup_feq (s : State) (id g : Nat) (f : Group → Group) : (modGroup s id g f).feq = s.feq := rfl
@[simp] theorem modGroup_bfqs (s : State) (id g : Nat) (f : Group → Group) : (modGroup s id g f).bfqs = s.bfqs := rfl
@[simp] theorem modGroup_colls (s : State) (id g : Nat) (f : Group → Group) : (modGroup s id g f).colls = s.colls := rfl
@[simp] theorem modGroup_frozenEngs (s : State) (id g : Nat) (f : Group → Group) : (modGroup s id g f).frozenEngs = s.frozenEngs := rfl
@[simp] theorem modGroup_frozenCopies (s : State) (id g : Nat) (f : Group → Group) : (modGroup s id g f).frozenCopies = s.frozenCopies := rfl
@[simp] theorem modGroup_parts (s : State) (id g : Nat) (f : Group → Group) : (modGroup s id g f).parts = s.parts := rfl
@[simp] theorem modGroup_dram (s : State) (id g : Nat) (f : Group → Group) : (modGroup s id g f).dram = s.dram := rfl
@[simp] theorem modGroup_dsp (s : State) (id g : Nat) (f : Group → Group) : (modGroup s id g f).dsp = s.dsp := rfl
@[simp] theorem modGroup_dspFull (s : State) (id g : Nat) (f : Group → Group) : (modGroup s id g f).dspFull = s.dspFull := rfl
@[simp] theorem modGroup_unpub (s : State) (id g : Nat) (f : Group → Group) : (modGroup s id g f).unpub = s.unpub := rfl
@[simp] theorem modGroup_atOnce (s : State) (id g : Nat) (f : Group → Group) : (modGroup s id g f).atOnce = s.atOnce := rfl
@[simp] theorem modGroup_shades (s : State) (id g : Nat) (f : Group → Group) : (modGroup s id g f).shades = s.shades := rfl
@[simp] theorem modGroup_migRecs (s : State) (id g : Nat) (f : Group → Group) : (modGroup s id g f).migRecs = s.migRecs := rfl
@[simp] theorem modGroup_pool (s : State) (id g : Nat) (f : Group → Group) : (modGroup s id g f).pool = s.pool := rfl
@[simp] theorem modGroup_poolLines (s : State) (id g : Nat) (f : Group → Group) : (modGroup s id g f).poolLines = s.poolLines := rfl
@[simp] theorem modGroup_sysq (s : State) (id g : Nat) (f : Group → Group) : (modGroup s id g f).sysq = s.sysq := rfl
@[simp] theorem modGroup_poolLeases (s : State) (id g : Nat) (f : Group → Group) : (modGroup s id g f).poolLeases = s.poolLeases := rfl
@[simp] theorem modGroup_hostMem (s : State) (id g : Nat) (f : Group → Group) : (modGroup s id g f).hostMem = s.hostMem := rfl
@[simp] theorem modGroup_posted (s : State) (id g : Nat) (f : Group → Group) : (modGroup s id g f).posted = s.posted := rfl
@[simp] theorem modGroup_poison (s : State) (id g : Nat) (f : Group → Group) : (modGroup s id g f).poison = s.poison := rfl
@[simp] theorem modGroup_tlb (s : State) (id g : Nat) (f : Group → Group) : (modGroup s id g f).tlb = s.tlb := rfl
@[simp] theorem modGroup_fmt (s : State) (id g : Nat) (f : Group → Group) : (modGroup s id g f).fmt = s.fmt := rfl
@[simp] theorem modGroup_clk (s : State) (id g : Nat) (f : Group → Group) : (modGroup s id g f).clk = s.clk := rfl
@[simp] theorem modGroup_ptime (s : State) (id g : Nat) (f : Group → Group) : (modGroup s id g f).ptime = s.ptime := rfl
@[simp] theorem modGroup_locked (s : State) (id g : Nat) (f : Group → Group) : (modGroup s id g f).locked = s.locked := rfl
@[simp] theorem modGroup_steered (s : State) (id g : Nat) (f : Group → Group) : (modGroup s id g f).steered = s.steered := rfl
@[simp] theorem modGroup_ptpLost (s : State) (id g : Nat) (f : Group → Group) : (modGroup s id g f).ptpLost = s.ptpLost := rfl
@[simp] theorem modGroup_mgmt (s : State) (id g : Nat) (f : Group → Group) : (modGroup s id g f).mgmt = s.mgmt := rfl
@[simp] theorem modGroup_boot (s : State) (id g : Nat) (f : Group → Group) : (modGroup s id g f).boot = s.boot := rfl
@[simp] theorem modGroup_cap (s : State) (id g : Nat) (f : Group → Group) : (modGroup s id g f).cap = s.cap := rfl
@[simp] theorem modGroup_budgetMode (s : State) (id g : Nat) (f : Group → Group) : (modGroup s id g f).budgetMode = s.budgetMode := rfl
@[simp] theorem modGroup_hotDies (s : State) (id g : Nat) (f : Group → Group) : (modGroup s id g f).hotDies = s.hotDies := rfl
@[simp] theorem modGroup_emergency (s : State) (id g : Nat) (f : Group → Group) : (modGroup s id g f).emergency = s.emergency := rfl
@[simp] theorem modGroup_capBefore (s : State) (id g : Nat) (f : Group → Group) : (modGroup s id g f).capBefore = s.capBefore := rfl
@[simp] theorem modGroup_portsUp (s : State) (id g : Nat) (f : Group → Group) : (modGroup s id g f).portsUp = s.portsUp := rfl
@[simp] theorem modGroup_cxlUp (s : State) (id g : Nat) (f : Group → Group) : (modGroup s id g f).cxlUp = s.cxlUp := rfl
@[simp] theorem modGroup_poolDead (s : State) (id g : Nat) (f : Group → Group) : (modGroup s id g f).poolDead = s.poolDead := rfl
@[simp] theorem modGroup_portsAt (s : State) (id g : Nat) (f : Group → Group) : (modGroup s id g f).portsAt = s.portsAt := rfl
@[simp] theorem modGroup_cxlAt (s : State) (id g : Nat) (f : Group → Group) : (modGroup s id g f).cxlAt = s.cxlAt := rfl
@[simp] theorem modGroup_windowAt (s : State) (id g : Nat) (f : Group → Group) : (modGroup s id g f).windowAt = s.windowAt := rfl
@[simp] theorem modGroup_coolAt (s : State) (id g : Nat) (f : Group → Group) : (modGroup s id g f).coolAt = s.coolAt := rfl
@[simp] theorem modGroup_hotAt (s : State) (id g : Nat) (f : Group → Group) : (modGroup s id g f).hotAt = s.hotAt := rfl
@[simp] theorem modGroup_corrected (s : State) (id g : Nat) (f : Group → Group) : (modGroup s id g f).corrected = s.corrected := rfl
@[simp] theorem modGroup_replies (s : State) (id g : Nat) (f : Group → Group) : (modGroup s id g f).replies = s.replies := rfl
@[simp] theorem modGroup_outward (s : State) (id g : Nat) (f : Group → Group) : (modGroup s id g f).outward = s.outward := rfl
@[simp] theorem modGroup_fresh (s : State) (id g : Nat) (f : Group → Group) : (modGroup s id g f).fresh = s.fresh := rfl
@[simp] theorem modGroup_cur (s : State) (id g : Nat) (f : Group → Group) : (modGroup s id g f).cur = s.cur := rfl
@[simp] theorem modGroup_slot1 (s : State) (id g : Nat) (f : Group → Group) : (modGroup s id g f).slot1 = s.slot1 := rfl
@[simp] theorem modGroup_agenda (s : State) (id g : Nat) (f : Group → Group) : (modGroup s id g f).agenda = s.agenda := rfl
@[simp] theorem modGroup_tick (s : State) (id g : Nat) (f : Group → Group) : (modGroup s id g f).tick = s.tick := rfl
@[simp] theorem modGroup_laneOrder (s : State) (id g : Nat) (f : Group → Group) : (modGroup s id g f).laneOrder = s.laneOrder := rfl

/-! ### modLane -/

@[simp] theorem modLane_clusters (s : State) (id g i : Nat) (f : Lane → Lane) : (modLane s id g i f).clusters = s.clusters := rfl
@[simp] theorem modLane_grids (s : State) (id g i : Nat) (f : Lane → Lane) : (modLane s id g i f).grids = s.grids := rfl
@[simp] theorem modLane_cores (s : State) (id g i : Nat) (f : Lane → Lane) : (modLane s id g i f).cores = s.cores := rfl
@[simp] theorem modLane_versions (s : State) (id g i : Nat) (f : Lane → Lane) : (modLane s id g i f).versions = s.versions := rfl
@[simp] theorem modLane_recs (s : State) (id g i : Nat) (f : Lane → Lane) : (modLane s id g i f).recs = s.recs := rfl
@[simp] theorem modLane_families (s : State) (id g i : Nat) (f : Lane → Lane) : (modLane s id g i f).families = s.families := rfl
@[simp] theorem modLane_cmds (s : State) (id g i : Nat) (f : Lane → Lane) : (modLane s id g i f).cmds = s.cmds := rfl
@[simp] theorem modLane_feq (s : State) (id g i : Nat) (f : Lane → Lane) : (modLane s id g i f).feq = s.feq := rfl
@[simp] theorem modLane_bfqs (s : State) (id g i : Nat) (f : Lane → Lane) : (modLane s id g i f).bfqs = s.bfqs := rfl
@[simp] theorem modLane_colls (s : State) (id g i : Nat) (f : Lane → Lane) : (modLane s id g i f).colls = s.colls := rfl
@[simp] theorem modLane_frozenEngs (s : State) (id g i : Nat) (f : Lane → Lane) : (modLane s id g i f).frozenEngs = s.frozenEngs := rfl
@[simp] theorem modLane_frozenCopies (s : State) (id g i : Nat) (f : Lane → Lane) : (modLane s id g i f).frozenCopies = s.frozenCopies := rfl
@[simp] theorem modLane_parts (s : State) (id g i : Nat) (f : Lane → Lane) : (modLane s id g i f).parts = s.parts := rfl
@[simp] theorem modLane_dram (s : State) (id g i : Nat) (f : Lane → Lane) : (modLane s id g i f).dram = s.dram := rfl
@[simp] theorem modLane_dsp (s : State) (id g i : Nat) (f : Lane → Lane) : (modLane s id g i f).dsp = s.dsp := rfl
@[simp] theorem modLane_dspFull (s : State) (id g i : Nat) (f : Lane → Lane) : (modLane s id g i f).dspFull = s.dspFull := rfl
@[simp] theorem modLane_unpub (s : State) (id g i : Nat) (f : Lane → Lane) : (modLane s id g i f).unpub = s.unpub := rfl
@[simp] theorem modLane_atOnce (s : State) (id g i : Nat) (f : Lane → Lane) : (modLane s id g i f).atOnce = s.atOnce := rfl
@[simp] theorem modLane_shades (s : State) (id g i : Nat) (f : Lane → Lane) : (modLane s id g i f).shades = s.shades := rfl
@[simp] theorem modLane_migRecs (s : State) (id g i : Nat) (f : Lane → Lane) : (modLane s id g i f).migRecs = s.migRecs := rfl
@[simp] theorem modLane_pool (s : State) (id g i : Nat) (f : Lane → Lane) : (modLane s id g i f).pool = s.pool := rfl
@[simp] theorem modLane_poolLines (s : State) (id g i : Nat) (f : Lane → Lane) : (modLane s id g i f).poolLines = s.poolLines := rfl
@[simp] theorem modLane_sysq (s : State) (id g i : Nat) (f : Lane → Lane) : (modLane s id g i f).sysq = s.sysq := rfl
@[simp] theorem modLane_poolLeases (s : State) (id g i : Nat) (f : Lane → Lane) : (modLane s id g i f).poolLeases = s.poolLeases := rfl
@[simp] theorem modLane_hostMem (s : State) (id g i : Nat) (f : Lane → Lane) : (modLane s id g i f).hostMem = s.hostMem := rfl
@[simp] theorem modLane_posted (s : State) (id g i : Nat) (f : Lane → Lane) : (modLane s id g i f).posted = s.posted := rfl
@[simp] theorem modLane_poison (s : State) (id g i : Nat) (f : Lane → Lane) : (modLane s id g i f).poison = s.poison := rfl
@[simp] theorem modLane_tlb (s : State) (id g i : Nat) (f : Lane → Lane) : (modLane s id g i f).tlb = s.tlb := rfl
@[simp] theorem modLane_fmt (s : State) (id g i : Nat) (f : Lane → Lane) : (modLane s id g i f).fmt = s.fmt := rfl
@[simp] theorem modLane_clk (s : State) (id g i : Nat) (f : Lane → Lane) : (modLane s id g i f).clk = s.clk := rfl
@[simp] theorem modLane_ptime (s : State) (id g i : Nat) (f : Lane → Lane) : (modLane s id g i f).ptime = s.ptime := rfl
@[simp] theorem modLane_locked (s : State) (id g i : Nat) (f : Lane → Lane) : (modLane s id g i f).locked = s.locked := rfl
@[simp] theorem modLane_steered (s : State) (id g i : Nat) (f : Lane → Lane) : (modLane s id g i f).steered = s.steered := rfl
@[simp] theorem modLane_ptpLost (s : State) (id g i : Nat) (f : Lane → Lane) : (modLane s id g i f).ptpLost = s.ptpLost := rfl
@[simp] theorem modLane_mgmt (s : State) (id g i : Nat) (f : Lane → Lane) : (modLane s id g i f).mgmt = s.mgmt := rfl
@[simp] theorem modLane_boot (s : State) (id g i : Nat) (f : Lane → Lane) : (modLane s id g i f).boot = s.boot := rfl
@[simp] theorem modLane_cap (s : State) (id g i : Nat) (f : Lane → Lane) : (modLane s id g i f).cap = s.cap := rfl
@[simp] theorem modLane_budgetMode (s : State) (id g i : Nat) (f : Lane → Lane) : (modLane s id g i f).budgetMode = s.budgetMode := rfl
@[simp] theorem modLane_hotDies (s : State) (id g i : Nat) (f : Lane → Lane) : (modLane s id g i f).hotDies = s.hotDies := rfl
@[simp] theorem modLane_emergency (s : State) (id g i : Nat) (f : Lane → Lane) : (modLane s id g i f).emergency = s.emergency := rfl
@[simp] theorem modLane_capBefore (s : State) (id g i : Nat) (f : Lane → Lane) : (modLane s id g i f).capBefore = s.capBefore := rfl
@[simp] theorem modLane_portsUp (s : State) (id g i : Nat) (f : Lane → Lane) : (modLane s id g i f).portsUp = s.portsUp := rfl
@[simp] theorem modLane_cxlUp (s : State) (id g i : Nat) (f : Lane → Lane) : (modLane s id g i f).cxlUp = s.cxlUp := rfl
@[simp] theorem modLane_poolDead (s : State) (id g i : Nat) (f : Lane → Lane) : (modLane s id g i f).poolDead = s.poolDead := rfl
@[simp] theorem modLane_portsAt (s : State) (id g i : Nat) (f : Lane → Lane) : (modLane s id g i f).portsAt = s.portsAt := rfl
@[simp] theorem modLane_cxlAt (s : State) (id g i : Nat) (f : Lane → Lane) : (modLane s id g i f).cxlAt = s.cxlAt := rfl
@[simp] theorem modLane_windowAt (s : State) (id g i : Nat) (f : Lane → Lane) : (modLane s id g i f).windowAt = s.windowAt := rfl
@[simp] theorem modLane_coolAt (s : State) (id g i : Nat) (f : Lane → Lane) : (modLane s id g i f).coolAt = s.coolAt := rfl
@[simp] theorem modLane_hotAt (s : State) (id g i : Nat) (f : Lane → Lane) : (modLane s id g i f).hotAt = s.hotAt := rfl
@[simp] theorem modLane_corrected (s : State) (id g i : Nat) (f : Lane → Lane) : (modLane s id g i f).corrected = s.corrected := rfl
@[simp] theorem modLane_replies (s : State) (id g i : Nat) (f : Lane → Lane) : (modLane s id g i f).replies = s.replies := rfl
@[simp] theorem modLane_outward (s : State) (id g i : Nat) (f : Lane → Lane) : (modLane s id g i f).outward = s.outward := rfl
@[simp] theorem modLane_fresh (s : State) (id g i : Nat) (f : Lane → Lane) : (modLane s id g i f).fresh = s.fresh := rfl
@[simp] theorem modLane_cur (s : State) (id g i : Nat) (f : Lane → Lane) : (modLane s id g i f).cur = s.cur := rfl
@[simp] theorem modLane_slot1 (s : State) (id g i : Nat) (f : Lane → Lane) : (modLane s id g i f).slot1 = s.slot1 := rfl
@[simp] theorem modLane_agenda (s : State) (id g i : Nat) (f : Lane → Lane) : (modLane s id g i f).agenda = s.agenda := rfl
@[simp] theorem modLane_tick (s : State) (id g i : Nat) (f : Lane → Lane) : (modLane s id g i f).tick = s.tick := rfl
@[simp] theorem modLane_laneOrder (s : State) (id g i : Nat) (f : Lane → Lane) : (modLane s id g i f).laneOrder = s.laneOrder := rfl

/-! ### modCluster -/

@[simp] theorem modCluster_blocks (s : State) (id : Nat) (f : Cluster → Cluster) : (modCluster s id f).blocks = s.blocks := rfl
@[simp] theorem modCluster_grids (s : State) (id : Nat) (f : Cluster → Cluster) : (modCluster s id f).grids = s.grids := rfl
@[simp] theorem modCluster_cores (s : State) (id : Nat) (f : Cluster → Cluster) : (modCluster s id f).cores = s.cores := rfl
@[simp] theorem modCluster_versions (s : State) (id : Nat) (f : Cluster → Cluster) : (modCluster s id f).versions = s.versions := rfl
@[simp] theorem modCluster_recs (s : State) (id : Nat) (f : Cluster → Cluster) : (modCluster s id f).recs = s.recs := rfl
@[simp] theorem modCluster_families (s : State) (id : Nat) (f : Cluster → Cluster) : (modCluster s id f).families = s.families := rfl
@[simp] theorem modCluster_cmds (s : State) (id : Nat) (f : Cluster → Cluster) : (modCluster s id f).cmds = s.cmds := rfl
@[simp] theorem modCluster_feq (s : State) (id : Nat) (f : Cluster → Cluster) : (modCluster s id f).feq = s.feq := rfl
@[simp] theorem modCluster_bfqs (s : State) (id : Nat) (f : Cluster → Cluster) : (modCluster s id f).bfqs = s.bfqs := rfl
@[simp] theorem modCluster_colls (s : State) (id : Nat) (f : Cluster → Cluster) : (modCluster s id f).colls = s.colls := rfl
@[simp] theorem modCluster_frozenEngs (s : State) (id : Nat) (f : Cluster → Cluster) : (modCluster s id f).frozenEngs = s.frozenEngs := rfl
@[simp] theorem modCluster_frozenCopies (s : State) (id : Nat) (f : Cluster → Cluster) : (modCluster s id f).frozenCopies = s.frozenCopies := rfl
@[simp] theorem modCluster_parts (s : State) (id : Nat) (f : Cluster → Cluster) : (modCluster s id f).parts = s.parts := rfl
@[simp] theorem modCluster_dram (s : State) (id : Nat) (f : Cluster → Cluster) : (modCluster s id f).dram = s.dram := rfl
@[simp] theorem modCluster_dsp (s : State) (id : Nat) (f : Cluster → Cluster) : (modCluster s id f).dsp = s.dsp := rfl
@[simp] theorem modCluster_dspFull (s : State) (id : Nat) (f : Cluster → Cluster) : (modCluster s id f).dspFull = s.dspFull := rfl
@[simp] theorem modCluster_unpub (s : State) (id : Nat) (f : Cluster → Cluster) : (modCluster s id f).unpub = s.unpub := rfl
@[simp] theorem modCluster_atOnce (s : State) (id : Nat) (f : Cluster → Cluster) : (modCluster s id f).atOnce = s.atOnce := rfl
@[simp] theorem modCluster_shades (s : State) (id : Nat) (f : Cluster → Cluster) : (modCluster s id f).shades = s.shades := rfl
@[simp] theorem modCluster_migRecs (s : State) (id : Nat) (f : Cluster → Cluster) : (modCluster s id f).migRecs = s.migRecs := rfl
@[simp] theorem modCluster_pool (s : State) (id : Nat) (f : Cluster → Cluster) : (modCluster s id f).pool = s.pool := rfl
@[simp] theorem modCluster_poolLines (s : State) (id : Nat) (f : Cluster → Cluster) : (modCluster s id f).poolLines = s.poolLines := rfl
@[simp] theorem modCluster_sysq (s : State) (id : Nat) (f : Cluster → Cluster) : (modCluster s id f).sysq = s.sysq := rfl
@[simp] theorem modCluster_poolLeases (s : State) (id : Nat) (f : Cluster → Cluster) : (modCluster s id f).poolLeases = s.poolLeases := rfl
@[simp] theorem modCluster_hostMem (s : State) (id : Nat) (f : Cluster → Cluster) : (modCluster s id f).hostMem = s.hostMem := rfl
@[simp] theorem modCluster_posted (s : State) (id : Nat) (f : Cluster → Cluster) : (modCluster s id f).posted = s.posted := rfl
@[simp] theorem modCluster_poison (s : State) (id : Nat) (f : Cluster → Cluster) : (modCluster s id f).poison = s.poison := rfl
@[simp] theorem modCluster_tlb (s : State) (id : Nat) (f : Cluster → Cluster) : (modCluster s id f).tlb = s.tlb := rfl
@[simp] theorem modCluster_fmt (s : State) (id : Nat) (f : Cluster → Cluster) : (modCluster s id f).fmt = s.fmt := rfl
@[simp] theorem modCluster_clk (s : State) (id : Nat) (f : Cluster → Cluster) : (modCluster s id f).clk = s.clk := rfl
@[simp] theorem modCluster_ptime (s : State) (id : Nat) (f : Cluster → Cluster) : (modCluster s id f).ptime = s.ptime := rfl
@[simp] theorem modCluster_locked (s : State) (id : Nat) (f : Cluster → Cluster) : (modCluster s id f).locked = s.locked := rfl
@[simp] theorem modCluster_steered (s : State) (id : Nat) (f : Cluster → Cluster) : (modCluster s id f).steered = s.steered := rfl
@[simp] theorem modCluster_ptpLost (s : State) (id : Nat) (f : Cluster → Cluster) : (modCluster s id f).ptpLost = s.ptpLost := rfl
@[simp] theorem modCluster_mgmt (s : State) (id : Nat) (f : Cluster → Cluster) : (modCluster s id f).mgmt = s.mgmt := rfl
@[simp] theorem modCluster_boot (s : State) (id : Nat) (f : Cluster → Cluster) : (modCluster s id f).boot = s.boot := rfl
@[simp] theorem modCluster_cap (s : State) (id : Nat) (f : Cluster → Cluster) : (modCluster s id f).cap = s.cap := rfl
@[simp] theorem modCluster_budgetMode (s : State) (id : Nat) (f : Cluster → Cluster) : (modCluster s id f).budgetMode = s.budgetMode := rfl
@[simp] theorem modCluster_hotDies (s : State) (id : Nat) (f : Cluster → Cluster) : (modCluster s id f).hotDies = s.hotDies := rfl
@[simp] theorem modCluster_emergency (s : State) (id : Nat) (f : Cluster → Cluster) : (modCluster s id f).emergency = s.emergency := rfl
@[simp] theorem modCluster_capBefore (s : State) (id : Nat) (f : Cluster → Cluster) : (modCluster s id f).capBefore = s.capBefore := rfl
@[simp] theorem modCluster_portsUp (s : State) (id : Nat) (f : Cluster → Cluster) : (modCluster s id f).portsUp = s.portsUp := rfl
@[simp] theorem modCluster_cxlUp (s : State) (id : Nat) (f : Cluster → Cluster) : (modCluster s id f).cxlUp = s.cxlUp := rfl
@[simp] theorem modCluster_poolDead (s : State) (id : Nat) (f : Cluster → Cluster) : (modCluster s id f).poolDead = s.poolDead := rfl
@[simp] theorem modCluster_portsAt (s : State) (id : Nat) (f : Cluster → Cluster) : (modCluster s id f).portsAt = s.portsAt := rfl
@[simp] theorem modCluster_cxlAt (s : State) (id : Nat) (f : Cluster → Cluster) : (modCluster s id f).cxlAt = s.cxlAt := rfl
@[simp] theorem modCluster_windowAt (s : State) (id : Nat) (f : Cluster → Cluster) : (modCluster s id f).windowAt = s.windowAt := rfl
@[simp] theorem modCluster_coolAt (s : State) (id : Nat) (f : Cluster → Cluster) : (modCluster s id f).coolAt = s.coolAt := rfl
@[simp] theorem modCluster_hotAt (s : State) (id : Nat) (f : Cluster → Cluster) : (modCluster s id f).hotAt = s.hotAt := rfl
@[simp] theorem modCluster_corrected (s : State) (id : Nat) (f : Cluster → Cluster) : (modCluster s id f).corrected = s.corrected := rfl
@[simp] theorem modCluster_replies (s : State) (id : Nat) (f : Cluster → Cluster) : (modCluster s id f).replies = s.replies := rfl
@[simp] theorem modCluster_outward (s : State) (id : Nat) (f : Cluster → Cluster) : (modCluster s id f).outward = s.outward := rfl
@[simp] theorem modCluster_fresh (s : State) (id : Nat) (f : Cluster → Cluster) : (modCluster s id f).fresh = s.fresh := rfl
@[simp] theorem modCluster_cur (s : State) (id : Nat) (f : Cluster → Cluster) : (modCluster s id f).cur = s.cur := rfl
@[simp] theorem modCluster_slot1 (s : State) (id : Nat) (f : Cluster → Cluster) : (modCluster s id f).slot1 = s.slot1 := rfl
@[simp] theorem modCluster_agenda (s : State) (id : Nat) (f : Cluster → Cluster) : (modCluster s id f).agenda = s.agenda := rfl
@[simp] theorem modCluster_tick (s : State) (id : Nat) (f : Cluster → Cluster) : (modCluster s id f).tick = s.tick := rfl
@[simp] theorem modCluster_laneOrder (s : State) (id : Nat) (f : Cluster → Cluster) : (modCluster s id f).laneOrder = s.laneOrder := rfl

/-! ### modGrid -/

@[simp] theorem modGrid_blocks (s : State) (id : Nat) (f : Grid → Grid) : (modGrid s id f).blocks = s.blocks := rfl
@[simp] theorem modGrid_clusters (s : State) (id : Nat) (f : Grid → Grid) : (modGrid s id f).clusters = s.clusters := rfl
@[simp] theorem modGrid_cores (s : State) (id : Nat) (f : Grid → Grid) : (modGrid s id f).cores = s.cores := rfl
@[simp] theorem modGrid_versions (s : State) (id : Nat) (f : Grid → Grid) : (modGrid s id f).versions = s.versions := rfl
@[simp] theorem modGrid_recs (s : State) (id : Nat) (f : Grid → Grid) : (modGrid s id f).recs = s.recs := rfl
@[simp] theorem modGrid_families (s : State) (id : Nat) (f : Grid → Grid) : (modGrid s id f).families = s.families := rfl
@[simp] theorem modGrid_cmds (s : State) (id : Nat) (f : Grid → Grid) : (modGrid s id f).cmds = s.cmds := rfl
@[simp] theorem modGrid_feq (s : State) (id : Nat) (f : Grid → Grid) : (modGrid s id f).feq = s.feq := rfl
@[simp] theorem modGrid_bfqs (s : State) (id : Nat) (f : Grid → Grid) : (modGrid s id f).bfqs = s.bfqs := rfl
@[simp] theorem modGrid_colls (s : State) (id : Nat) (f : Grid → Grid) : (modGrid s id f).colls = s.colls := rfl
@[simp] theorem modGrid_frozenEngs (s : State) (id : Nat) (f : Grid → Grid) : (modGrid s id f).frozenEngs = s.frozenEngs := rfl
@[simp] theorem modGrid_frozenCopies (s : State) (id : Nat) (f : Grid → Grid) : (modGrid s id f).frozenCopies = s.frozenCopies := rfl
@[simp] theorem modGrid_parts (s : State) (id : Nat) (f : Grid → Grid) : (modGrid s id f).parts = s.parts := rfl
@[simp] theorem modGrid_dram (s : State) (id : Nat) (f : Grid → Grid) : (modGrid s id f).dram = s.dram := rfl
@[simp] theorem modGrid_dsp (s : State) (id : Nat) (f : Grid → Grid) : (modGrid s id f).dsp = s.dsp := rfl
@[simp] theorem modGrid_dspFull (s : State) (id : Nat) (f : Grid → Grid) : (modGrid s id f).dspFull = s.dspFull := rfl
@[simp] theorem modGrid_unpub (s : State) (id : Nat) (f : Grid → Grid) : (modGrid s id f).unpub = s.unpub := rfl
@[simp] theorem modGrid_atOnce (s : State) (id : Nat) (f : Grid → Grid) : (modGrid s id f).atOnce = s.atOnce := rfl
@[simp] theorem modGrid_shades (s : State) (id : Nat) (f : Grid → Grid) : (modGrid s id f).shades = s.shades := rfl
@[simp] theorem modGrid_migRecs (s : State) (id : Nat) (f : Grid → Grid) : (modGrid s id f).migRecs = s.migRecs := rfl
@[simp] theorem modGrid_pool (s : State) (id : Nat) (f : Grid → Grid) : (modGrid s id f).pool = s.pool := rfl
@[simp] theorem modGrid_poolLines (s : State) (id : Nat) (f : Grid → Grid) : (modGrid s id f).poolLines = s.poolLines := rfl
@[simp] theorem modGrid_sysq (s : State) (id : Nat) (f : Grid → Grid) : (modGrid s id f).sysq = s.sysq := rfl
@[simp] theorem modGrid_poolLeases (s : State) (id : Nat) (f : Grid → Grid) : (modGrid s id f).poolLeases = s.poolLeases := rfl
@[simp] theorem modGrid_hostMem (s : State) (id : Nat) (f : Grid → Grid) : (modGrid s id f).hostMem = s.hostMem := rfl
@[simp] theorem modGrid_posted (s : State) (id : Nat) (f : Grid → Grid) : (modGrid s id f).posted = s.posted := rfl
@[simp] theorem modGrid_poison (s : State) (id : Nat) (f : Grid → Grid) : (modGrid s id f).poison = s.poison := rfl
@[simp] theorem modGrid_tlb (s : State) (id : Nat) (f : Grid → Grid) : (modGrid s id f).tlb = s.tlb := rfl
@[simp] theorem modGrid_fmt (s : State) (id : Nat) (f : Grid → Grid) : (modGrid s id f).fmt = s.fmt := rfl
@[simp] theorem modGrid_clk (s : State) (id : Nat) (f : Grid → Grid) : (modGrid s id f).clk = s.clk := rfl
@[simp] theorem modGrid_ptime (s : State) (id : Nat) (f : Grid → Grid) : (modGrid s id f).ptime = s.ptime := rfl
@[simp] theorem modGrid_locked (s : State) (id : Nat) (f : Grid → Grid) : (modGrid s id f).locked = s.locked := rfl
@[simp] theorem modGrid_steered (s : State) (id : Nat) (f : Grid → Grid) : (modGrid s id f).steered = s.steered := rfl
@[simp] theorem modGrid_ptpLost (s : State) (id : Nat) (f : Grid → Grid) : (modGrid s id f).ptpLost = s.ptpLost := rfl
@[simp] theorem modGrid_mgmt (s : State) (id : Nat) (f : Grid → Grid) : (modGrid s id f).mgmt = s.mgmt := rfl
@[simp] theorem modGrid_boot (s : State) (id : Nat) (f : Grid → Grid) : (modGrid s id f).boot = s.boot := rfl
@[simp] theorem modGrid_cap (s : State) (id : Nat) (f : Grid → Grid) : (modGrid s id f).cap = s.cap := rfl
@[simp] theorem modGrid_budgetMode (s : State) (id : Nat) (f : Grid → Grid) : (modGrid s id f).budgetMode = s.budgetMode := rfl
@[simp] theorem modGrid_hotDies (s : State) (id : Nat) (f : Grid → Grid) : (modGrid s id f).hotDies = s.hotDies := rfl
@[simp] theorem modGrid_emergency (s : State) (id : Nat) (f : Grid → Grid) : (modGrid s id f).emergency = s.emergency := rfl
@[simp] theorem modGrid_capBefore (s : State) (id : Nat) (f : Grid → Grid) : (modGrid s id f).capBefore = s.capBefore := rfl
@[simp] theorem modGrid_portsUp (s : State) (id : Nat) (f : Grid → Grid) : (modGrid s id f).portsUp = s.portsUp := rfl
@[simp] theorem modGrid_cxlUp (s : State) (id : Nat) (f : Grid → Grid) : (modGrid s id f).cxlUp = s.cxlUp := rfl
@[simp] theorem modGrid_poolDead (s : State) (id : Nat) (f : Grid → Grid) : (modGrid s id f).poolDead = s.poolDead := rfl
@[simp] theorem modGrid_portsAt (s : State) (id : Nat) (f : Grid → Grid) : (modGrid s id f).portsAt = s.portsAt := rfl
@[simp] theorem modGrid_cxlAt (s : State) (id : Nat) (f : Grid → Grid) : (modGrid s id f).cxlAt = s.cxlAt := rfl
@[simp] theorem modGrid_windowAt (s : State) (id : Nat) (f : Grid → Grid) : (modGrid s id f).windowAt = s.windowAt := rfl
@[simp] theorem modGrid_coolAt (s : State) (id : Nat) (f : Grid → Grid) : (modGrid s id f).coolAt = s.coolAt := rfl
@[simp] theorem modGrid_hotAt (s : State) (id : Nat) (f : Grid → Grid) : (modGrid s id f).hotAt = s.hotAt := rfl
@[simp] theorem modGrid_corrected (s : State) (id : Nat) (f : Grid → Grid) : (modGrid s id f).corrected = s.corrected := rfl
@[simp] theorem modGrid_replies (s : State) (id : Nat) (f : Grid → Grid) : (modGrid s id f).replies = s.replies := rfl
@[simp] theorem modGrid_outward (s : State) (id : Nat) (f : Grid → Grid) : (modGrid s id f).outward = s.outward := rfl
@[simp] theorem modGrid_fresh (s : State) (id : Nat) (f : Grid → Grid) : (modGrid s id f).fresh = s.fresh := rfl
@[simp] theorem modGrid_cur (s : State) (id : Nat) (f : Grid → Grid) : (modGrid s id f).cur = s.cur := rfl
@[simp] theorem modGrid_slot1 (s : State) (id : Nat) (f : Grid → Grid) : (modGrid s id f).slot1 = s.slot1 := rfl
@[simp] theorem modGrid_agenda (s : State) (id : Nat) (f : Grid → Grid) : (modGrid s id f).agenda = s.agenda := rfl
@[simp] theorem modGrid_tick (s : State) (id : Nat) (f : Grid → Grid) : (modGrid s id f).tick = s.tick := rfl
@[simp] theorem modGrid_laneOrder (s : State) (id : Nat) (f : Grid → Grid) : (modGrid s id f).laneOrder = s.laneOrder := rfl

/-! ### modCore -/

@[simp] theorem modCore_blocks (s : State) (n : Nat) (f : Core → Core) : (modCore s n f).blocks = s.blocks := rfl
@[simp] theorem modCore_clusters (s : State) (n : Nat) (f : Core → Core) : (modCore s n f).clusters = s.clusters := rfl
@[simp] theorem modCore_grids (s : State) (n : Nat) (f : Core → Core) : (modCore s n f).grids = s.grids := rfl
@[simp] theorem modCore_versions (s : State) (n : Nat) (f : Core → Core) : (modCore s n f).versions = s.versions := rfl
@[simp] theorem modCore_recs (s : State) (n : Nat) (f : Core → Core) : (modCore s n f).recs = s.recs := rfl
@[simp] theorem modCore_families (s : State) (n : Nat) (f : Core → Core) : (modCore s n f).families = s.families := rfl
@[simp] theorem modCore_cmds (s : State) (n : Nat) (f : Core → Core) : (modCore s n f).cmds = s.cmds := rfl
@[simp] theorem modCore_feq (s : State) (n : Nat) (f : Core → Core) : (modCore s n f).feq = s.feq := rfl
@[simp] theorem modCore_bfqs (s : State) (n : Nat) (f : Core → Core) : (modCore s n f).bfqs = s.bfqs := rfl
@[simp] theorem modCore_colls (s : State) (n : Nat) (f : Core → Core) : (modCore s n f).colls = s.colls := rfl
@[simp] theorem modCore_frozenEngs (s : State) (n : Nat) (f : Core → Core) : (modCore s n f).frozenEngs = s.frozenEngs := rfl
@[simp] theorem modCore_frozenCopies (s : State) (n : Nat) (f : Core → Core) : (modCore s n f).frozenCopies = s.frozenCopies := rfl
@[simp] theorem modCore_parts (s : State) (n : Nat) (f : Core → Core) : (modCore s n f).parts = s.parts := rfl
@[simp] theorem modCore_dram (s : State) (n : Nat) (f : Core → Core) : (modCore s n f).dram = s.dram := rfl
@[simp] theorem modCore_dsp (s : State) (n : Nat) (f : Core → Core) : (modCore s n f).dsp = s.dsp := rfl
@[simp] theorem modCore_dspFull (s : State) (n : Nat) (f : Core → Core) : (modCore s n f).dspFull = s.dspFull := rfl
@[simp] theorem modCore_unpub (s : State) (n : Nat) (f : Core → Core) : (modCore s n f).unpub = s.unpub := rfl
@[simp] theorem modCore_atOnce (s : State) (n : Nat) (f : Core → Core) : (modCore s n f).atOnce = s.atOnce := rfl
@[simp] theorem modCore_shades (s : State) (n : Nat) (f : Core → Core) : (modCore s n f).shades = s.shades := rfl
@[simp] theorem modCore_migRecs (s : State) (n : Nat) (f : Core → Core) : (modCore s n f).migRecs = s.migRecs := rfl
@[simp] theorem modCore_pool (s : State) (n : Nat) (f : Core → Core) : (modCore s n f).pool = s.pool := rfl
@[simp] theorem modCore_poolLines (s : State) (n : Nat) (f : Core → Core) : (modCore s n f).poolLines = s.poolLines := rfl
@[simp] theorem modCore_sysq (s : State) (n : Nat) (f : Core → Core) : (modCore s n f).sysq = s.sysq := rfl
@[simp] theorem modCore_poolLeases (s : State) (n : Nat) (f : Core → Core) : (modCore s n f).poolLeases = s.poolLeases := rfl
@[simp] theorem modCore_hostMem (s : State) (n : Nat) (f : Core → Core) : (modCore s n f).hostMem = s.hostMem := rfl
@[simp] theorem modCore_posted (s : State) (n : Nat) (f : Core → Core) : (modCore s n f).posted = s.posted := rfl
@[simp] theorem modCore_poison (s : State) (n : Nat) (f : Core → Core) : (modCore s n f).poison = s.poison := rfl
@[simp] theorem modCore_tlb (s : State) (n : Nat) (f : Core → Core) : (modCore s n f).tlb = s.tlb := rfl
@[simp] theorem modCore_fmt (s : State) (n : Nat) (f : Core → Core) : (modCore s n f).fmt = s.fmt := rfl
@[simp] theorem modCore_clk (s : State) (n : Nat) (f : Core → Core) : (modCore s n f).clk = s.clk := rfl
@[simp] theorem modCore_ptime (s : State) (n : Nat) (f : Core → Core) : (modCore s n f).ptime = s.ptime := rfl
@[simp] theorem modCore_locked (s : State) (n : Nat) (f : Core → Core) : (modCore s n f).locked = s.locked := rfl
@[simp] theorem modCore_steered (s : State) (n : Nat) (f : Core → Core) : (modCore s n f).steered = s.steered := rfl
@[simp] theorem modCore_ptpLost (s : State) (n : Nat) (f : Core → Core) : (modCore s n f).ptpLost = s.ptpLost := rfl
@[simp] theorem modCore_mgmt (s : State) (n : Nat) (f : Core → Core) : (modCore s n f).mgmt = s.mgmt := rfl
@[simp] theorem modCore_boot (s : State) (n : Nat) (f : Core → Core) : (modCore s n f).boot = s.boot := rfl
@[simp] theorem modCore_cap (s : State) (n : Nat) (f : Core → Core) : (modCore s n f).cap = s.cap := rfl
@[simp] theorem modCore_budgetMode (s : State) (n : Nat) (f : Core → Core) : (modCore s n f).budgetMode = s.budgetMode := rfl
@[simp] theorem modCore_hotDies (s : State) (n : Nat) (f : Core → Core) : (modCore s n f).hotDies = s.hotDies := rfl
@[simp] theorem modCore_emergency (s : State) (n : Nat) (f : Core → Core) : (modCore s n f).emergency = s.emergency := rfl
@[simp] theorem modCore_capBefore (s : State) (n : Nat) (f : Core → Core) : (modCore s n f).capBefore = s.capBefore := rfl
@[simp] theorem modCore_portsUp (s : State) (n : Nat) (f : Core → Core) : (modCore s n f).portsUp = s.portsUp := rfl
@[simp] theorem modCore_cxlUp (s : State) (n : Nat) (f : Core → Core) : (modCore s n f).cxlUp = s.cxlUp := rfl
@[simp] theorem modCore_poolDead (s : State) (n : Nat) (f : Core → Core) : (modCore s n f).poolDead = s.poolDead := rfl
@[simp] theorem modCore_portsAt (s : State) (n : Nat) (f : Core → Core) : (modCore s n f).portsAt = s.portsAt := rfl
@[simp] theorem modCore_cxlAt (s : State) (n : Nat) (f : Core → Core) : (modCore s n f).cxlAt = s.cxlAt := rfl
@[simp] theorem modCore_windowAt (s : State) (n : Nat) (f : Core → Core) : (modCore s n f).windowAt = s.windowAt := rfl
@[simp] theorem modCore_coolAt (s : State) (n : Nat) (f : Core → Core) : (modCore s n f).coolAt = s.coolAt := rfl
@[simp] theorem modCore_hotAt (s : State) (n : Nat) (f : Core → Core) : (modCore s n f).hotAt = s.hotAt := rfl
@[simp] theorem modCore_corrected (s : State) (n : Nat) (f : Core → Core) : (modCore s n f).corrected = s.corrected := rfl
@[simp] theorem modCore_replies (s : State) (n : Nat) (f : Core → Core) : (modCore s n f).replies = s.replies := rfl
@[simp] theorem modCore_outward (s : State) (n : Nat) (f : Core → Core) : (modCore s n f).outward = s.outward := rfl
@[simp] theorem modCore_fresh (s : State) (n : Nat) (f : Core → Core) : (modCore s n f).fresh = s.fresh := rfl
@[simp] theorem modCore_cur (s : State) (n : Nat) (f : Core → Core) : (modCore s n f).cur = s.cur := rfl
@[simp] theorem modCore_slot1 (s : State) (n : Nat) (f : Core → Core) : (modCore s n f).slot1 = s.slot1 := rfl
@[simp] theorem modCore_agenda (s : State) (n : Nat) (f : Core → Core) : (modCore s n f).agenda = s.agenda := rfl
@[simp] theorem modCore_tick (s : State) (n : Nat) (f : Core → Core) : (modCore s n f).tick = s.tick := rfl
@[simp] theorem modCore_laneOrder (s : State) (n : Nat) (f : Core → Core) : (modCore s n f).laneOrder = s.laneOrder := rfl

/-! ### modPart -/

@[simp] theorem modPart_blocks (s : State) (p : Nat) (f : Part → Part) : (modPart s p f).blocks = s.blocks := by unfold modPart; split <;> rfl
@[simp] theorem modPart_clusters (s : State) (p : Nat) (f : Part → Part) : (modPart s p f).clusters = s.clusters := by unfold modPart; split <;> rfl
@[simp] theorem modPart_grids (s : State) (p : Nat) (f : Part → Part) : (modPart s p f).grids = s.grids := by unfold modPart; split <;> rfl
@[simp] theorem modPart_cores (s : State) (p : Nat) (f : Part → Part) : (modPart s p f).cores = s.cores := by unfold modPart; split <;> rfl
@[simp] theorem modPart_versions (s : State) (p : Nat) (f : Part → Part) : (modPart s p f).versions = s.versions := by unfold modPart; split <;> rfl
@[simp] theorem modPart_recs (s : State) (p : Nat) (f : Part → Part) : (modPart s p f).recs = s.recs := by unfold modPart; split <;> rfl
@[simp] theorem modPart_families (s : State) (p : Nat) (f : Part → Part) : (modPart s p f).families = s.families := by unfold modPart; split <;> rfl
@[simp] theorem modPart_cmds (s : State) (p : Nat) (f : Part → Part) : (modPart s p f).cmds = s.cmds := by unfold modPart; split <;> rfl
@[simp] theorem modPart_feq (s : State) (p : Nat) (f : Part → Part) : (modPart s p f).feq = s.feq := by unfold modPart; split <;> rfl
@[simp] theorem modPart_bfqs (s : State) (p : Nat) (f : Part → Part) : (modPart s p f).bfqs = s.bfqs := by unfold modPart; split <;> rfl
@[simp] theorem modPart_colls (s : State) (p : Nat) (f : Part → Part) : (modPart s p f).colls = s.colls := by unfold modPart; split <;> rfl
@[simp] theorem modPart_frozenEngs (s : State) (p : Nat) (f : Part → Part) : (modPart s p f).frozenEngs = s.frozenEngs := by unfold modPart; split <;> rfl
@[simp] theorem modPart_frozenCopies (s : State) (p : Nat) (f : Part → Part) : (modPart s p f).frozenCopies = s.frozenCopies := by unfold modPart; split <;> rfl
@[simp] theorem modPart_dram (s : State) (p : Nat) (f : Part → Part) : (modPart s p f).dram = s.dram := by unfold modPart; split <;> rfl
@[simp] theorem modPart_dsp (s : State) (p : Nat) (f : Part → Part) : (modPart s p f).dsp = s.dsp := by unfold modPart; split <;> rfl
@[simp] theorem modPart_dspFull (s : State) (p : Nat) (f : Part → Part) : (modPart s p f).dspFull = s.dspFull := by unfold modPart; split <;> rfl
@[simp] theorem modPart_unpub (s : State) (p : Nat) (f : Part → Part) : (modPart s p f).unpub = s.unpub := by unfold modPart; split <;> rfl
@[simp] theorem modPart_atOnce (s : State) (p : Nat) (f : Part → Part) : (modPart s p f).atOnce = s.atOnce := by unfold modPart; split <;> rfl
@[simp] theorem modPart_shades (s : State) (p : Nat) (f : Part → Part) : (modPart s p f).shades = s.shades := by unfold modPart; split <;> rfl
@[simp] theorem modPart_migRecs (s : State) (p : Nat) (f : Part → Part) : (modPart s p f).migRecs = s.migRecs := by unfold modPart; split <;> rfl
@[simp] theorem modPart_pool (s : State) (p : Nat) (f : Part → Part) : (modPart s p f).pool = s.pool := by unfold modPart; split <;> rfl
@[simp] theorem modPart_poolLines (s : State) (p : Nat) (f : Part → Part) : (modPart s p f).poolLines = s.poolLines := by unfold modPart; split <;> rfl
@[simp] theorem modPart_sysq (s : State) (p : Nat) (f : Part → Part) : (modPart s p f).sysq = s.sysq := by unfold modPart; split <;> rfl
@[simp] theorem modPart_poolLeases (s : State) (p : Nat) (f : Part → Part) : (modPart s p f).poolLeases = s.poolLeases := by unfold modPart; split <;> rfl
@[simp] theorem modPart_hostMem (s : State) (p : Nat) (f : Part → Part) : (modPart s p f).hostMem = s.hostMem := by unfold modPart; split <;> rfl
@[simp] theorem modPart_posted (s : State) (p : Nat) (f : Part → Part) : (modPart s p f).posted = s.posted := by unfold modPart; split <;> rfl
@[simp] theorem modPart_poison (s : State) (p : Nat) (f : Part → Part) : (modPart s p f).poison = s.poison := by unfold modPart; split <;> rfl
@[simp] theorem modPart_tlb (s : State) (p : Nat) (f : Part → Part) : (modPart s p f).tlb = s.tlb := by unfold modPart; split <;> rfl
@[simp] theorem modPart_fmt (s : State) (p : Nat) (f : Part → Part) : (modPart s p f).fmt = s.fmt := by unfold modPart; split <;> rfl
@[simp] theorem modPart_clk (s : State) (p : Nat) (f : Part → Part) : (modPart s p f).clk = s.clk := by unfold modPart; split <;> rfl
@[simp] theorem modPart_ptime (s : State) (p : Nat) (f : Part → Part) : (modPart s p f).ptime = s.ptime := by unfold modPart; split <;> rfl
@[simp] theorem modPart_locked (s : State) (p : Nat) (f : Part → Part) : (modPart s p f).locked = s.locked := by unfold modPart; split <;> rfl
@[simp] theorem modPart_steered (s : State) (p : Nat) (f : Part → Part) : (modPart s p f).steered = s.steered := by unfold modPart; split <;> rfl
@[simp] theorem modPart_ptpLost (s : State) (p : Nat) (f : Part → Part) : (modPart s p f).ptpLost = s.ptpLost := by unfold modPart; split <;> rfl
@[simp] theorem modPart_mgmt (s : State) (p : Nat) (f : Part → Part) : (modPart s p f).mgmt = s.mgmt := by unfold modPart; split <;> rfl
@[simp] theorem modPart_boot (s : State) (p : Nat) (f : Part → Part) : (modPart s p f).boot = s.boot := by unfold modPart; split <;> rfl
@[simp] theorem modPart_cap (s : State) (p : Nat) (f : Part → Part) : (modPart s p f).cap = s.cap := by unfold modPart; split <;> rfl
@[simp] theorem modPart_budgetMode (s : State) (p : Nat) (f : Part → Part) : (modPart s p f).budgetMode = s.budgetMode := by unfold modPart; split <;> rfl
@[simp] theorem modPart_hotDies (s : State) (p : Nat) (f : Part → Part) : (modPart s p f).hotDies = s.hotDies := by unfold modPart; split <;> rfl
@[simp] theorem modPart_emergency (s : State) (p : Nat) (f : Part → Part) : (modPart s p f).emergency = s.emergency := by unfold modPart; split <;> rfl
@[simp] theorem modPart_capBefore (s : State) (p : Nat) (f : Part → Part) : (modPart s p f).capBefore = s.capBefore := by unfold modPart; split <;> rfl
@[simp] theorem modPart_portsUp (s : State) (p : Nat) (f : Part → Part) : (modPart s p f).portsUp = s.portsUp := by unfold modPart; split <;> rfl
@[simp] theorem modPart_cxlUp (s : State) (p : Nat) (f : Part → Part) : (modPart s p f).cxlUp = s.cxlUp := by unfold modPart; split <;> rfl
@[simp] theorem modPart_poolDead (s : State) (p : Nat) (f : Part → Part) : (modPart s p f).poolDead = s.poolDead := by unfold modPart; split <;> rfl
@[simp] theorem modPart_portsAt (s : State) (p : Nat) (f : Part → Part) : (modPart s p f).portsAt = s.portsAt := by unfold modPart; split <;> rfl
@[simp] theorem modPart_cxlAt (s : State) (p : Nat) (f : Part → Part) : (modPart s p f).cxlAt = s.cxlAt := by unfold modPart; split <;> rfl
@[simp] theorem modPart_windowAt (s : State) (p : Nat) (f : Part → Part) : (modPart s p f).windowAt = s.windowAt := by unfold modPart; split <;> rfl
@[simp] theorem modPart_coolAt (s : State) (p : Nat) (f : Part → Part) : (modPart s p f).coolAt = s.coolAt := by unfold modPart; split <;> rfl
@[simp] theorem modPart_hotAt (s : State) (p : Nat) (f : Part → Part) : (modPart s p f).hotAt = s.hotAt := by unfold modPart; split <;> rfl
@[simp] theorem modPart_corrected (s : State) (p : Nat) (f : Part → Part) : (modPart s p f).corrected = s.corrected := by unfold modPart; split <;> rfl
@[simp] theorem modPart_replies (s : State) (p : Nat) (f : Part → Part) : (modPart s p f).replies = s.replies := by unfold modPart; split <;> rfl
@[simp] theorem modPart_outward (s : State) (p : Nat) (f : Part → Part) : (modPart s p f).outward = s.outward := by unfold modPart; split <;> rfl
@[simp] theorem modPart_fresh (s : State) (p : Nat) (f : Part → Part) : (modPart s p f).fresh = s.fresh := by unfold modPart; split <;> rfl
@[simp] theorem modPart_cur (s : State) (p : Nat) (f : Part → Part) : (modPart s p f).cur = s.cur := by unfold modPart; split <;> rfl
@[simp] theorem modPart_slot1 (s : State) (p : Nat) (f : Part → Part) : (modPart s p f).slot1 = s.slot1 := by unfold modPart; split <;> rfl
@[simp] theorem modPart_agenda (s : State) (p : Nat) (f : Part → Part) : (modPart s p f).agenda = s.agenda := by unfold modPart; split <;> rfl
@[simp] theorem modPart_tick (s : State) (p : Nat) (f : Part → Part) : (modPart s p f).tick = s.tick := by unfold modPart; split <;> rfl
@[simp] theorem modPart_laneOrder (s : State) (p : Nat) (f : Part → Part) : (modPart s p f).laneOrder = s.laneOrder := by unfold modPart; split <;> rfl

/-! ### modCtx -/

@[simp] theorem modCtx_blocks (s : State) (p c : Nat) (f : Ctx → Ctx) : (modCtx s p c f).blocks = s.blocks := modPart_blocks _ _ _
@[simp] theorem modCtx_clusters (s : State) (p c : Nat) (f : Ctx → Ctx) : (modCtx s p c f).clusters = s.clusters := modPart_clusters _ _ _
@[simp] theorem modCtx_grids (s : State) (p c : Nat) (f : Ctx → Ctx) : (modCtx s p c f).grids = s.grids := modPart_grids _ _ _
@[simp] theorem modCtx_cores (s : State) (p c : Nat) (f : Ctx → Ctx) : (modCtx s p c f).cores = s.cores := modPart_cores _ _ _
@[simp] theorem modCtx_versions (s : State) (p c : Nat) (f : Ctx → Ctx) : (modCtx s p c f).versions = s.versions := modPart_versions _ _ _
@[simp] theorem modCtx_recs (s : State) (p c : Nat) (f : Ctx → Ctx) : (modCtx s p c f).recs = s.recs := modPart_recs _ _ _
@[simp] theorem modCtx_families (s : State) (p c : Nat) (f : Ctx → Ctx) : (modCtx s p c f).families = s.families := modPart_families _ _ _
@[simp] theorem modCtx_cmds (s : State) (p c : Nat) (f : Ctx → Ctx) : (modCtx s p c f).cmds = s.cmds := modPart_cmds _ _ _
@[simp] theorem modCtx_feq (s : State) (p c : Nat) (f : Ctx → Ctx) : (modCtx s p c f).feq = s.feq := modPart_feq _ _ _
@[simp] theorem modCtx_bfqs (s : State) (p c : Nat) (f : Ctx → Ctx) : (modCtx s p c f).bfqs = s.bfqs := modPart_bfqs _ _ _
@[simp] theorem modCtx_colls (s : State) (p c : Nat) (f : Ctx → Ctx) : (modCtx s p c f).colls = s.colls := modPart_colls _ _ _
@[simp] theorem modCtx_frozenEngs (s : State) (p c : Nat) (f : Ctx → Ctx) : (modCtx s p c f).frozenEngs = s.frozenEngs := modPart_frozenEngs _ _ _
@[simp] theorem modCtx_frozenCopies (s : State) (p c : Nat) (f : Ctx → Ctx) : (modCtx s p c f).frozenCopies = s.frozenCopies := modPart_frozenCopies _ _ _
@[simp] theorem modCtx_dram (s : State) (p c : Nat) (f : Ctx → Ctx) : (modCtx s p c f).dram = s.dram := modPart_dram _ _ _
@[simp] theorem modCtx_dsp (s : State) (p c : Nat) (f : Ctx → Ctx) : (modCtx s p c f).dsp = s.dsp := modPart_dsp _ _ _
@[simp] theorem modCtx_dspFull (s : State) (p c : Nat) (f : Ctx → Ctx) : (modCtx s p c f).dspFull = s.dspFull := modPart_dspFull _ _ _
@[simp] theorem modCtx_unpub (s : State) (p c : Nat) (f : Ctx → Ctx) : (modCtx s p c f).unpub = s.unpub := modPart_unpub _ _ _
@[simp] theorem modCtx_atOnce (s : State) (p c : Nat) (f : Ctx → Ctx) : (modCtx s p c f).atOnce = s.atOnce := modPart_atOnce _ _ _
@[simp] theorem modCtx_shades (s : State) (p c : Nat) (f : Ctx → Ctx) : (modCtx s p c f).shades = s.shades := modPart_shades _ _ _
@[simp] theorem modCtx_migRecs (s : State) (p c : Nat) (f : Ctx → Ctx) : (modCtx s p c f).migRecs = s.migRecs := modPart_migRecs _ _ _
@[simp] theorem modCtx_pool (s : State) (p c : Nat) (f : Ctx → Ctx) : (modCtx s p c f).pool = s.pool := modPart_pool _ _ _
@[simp] theorem modCtx_poolLines (s : State) (p c : Nat) (f : Ctx → Ctx) : (modCtx s p c f).poolLines = s.poolLines := modPart_poolLines _ _ _
@[simp] theorem modCtx_sysq (s : State) (p c : Nat) (f : Ctx → Ctx) : (modCtx s p c f).sysq = s.sysq := modPart_sysq _ _ _
@[simp] theorem modCtx_poolLeases (s : State) (p c : Nat) (f : Ctx → Ctx) : (modCtx s p c f).poolLeases = s.poolLeases := modPart_poolLeases _ _ _
@[simp] theorem modCtx_hostMem (s : State) (p c : Nat) (f : Ctx → Ctx) : (modCtx s p c f).hostMem = s.hostMem := modPart_hostMem _ _ _
@[simp] theorem modCtx_posted (s : State) (p c : Nat) (f : Ctx → Ctx) : (modCtx s p c f).posted = s.posted := modPart_posted _ _ _
@[simp] theorem modCtx_poison (s : State) (p c : Nat) (f : Ctx → Ctx) : (modCtx s p c f).poison = s.poison := modPart_poison _ _ _
@[simp] theorem modCtx_tlb (s : State) (p c : Nat) (f : Ctx → Ctx) : (modCtx s p c f).tlb = s.tlb := modPart_tlb _ _ _
@[simp] theorem modCtx_fmt (s : State) (p c : Nat) (f : Ctx → Ctx) : (modCtx s p c f).fmt = s.fmt := modPart_fmt _ _ _
@[simp] theorem modCtx_clk (s : State) (p c : Nat) (f : Ctx → Ctx) : (modCtx s p c f).clk = s.clk := modPart_clk _ _ _
@[simp] theorem modCtx_ptime (s : State) (p c : Nat) (f : Ctx → Ctx) : (modCtx s p c f).ptime = s.ptime := modPart_ptime _ _ _
@[simp] theorem modCtx_locked (s : State) (p c : Nat) (f : Ctx → Ctx) : (modCtx s p c f).locked = s.locked := modPart_locked _ _ _
@[simp] theorem modCtx_steered (s : State) (p c : Nat) (f : Ctx → Ctx) : (modCtx s p c f).steered = s.steered := modPart_steered _ _ _
@[simp] theorem modCtx_ptpLost (s : State) (p c : Nat) (f : Ctx → Ctx) : (modCtx s p c f).ptpLost = s.ptpLost := modPart_ptpLost _ _ _
@[simp] theorem modCtx_mgmt (s : State) (p c : Nat) (f : Ctx → Ctx) : (modCtx s p c f).mgmt = s.mgmt := modPart_mgmt _ _ _
@[simp] theorem modCtx_boot (s : State) (p c : Nat) (f : Ctx → Ctx) : (modCtx s p c f).boot = s.boot := modPart_boot _ _ _
@[simp] theorem modCtx_cap (s : State) (p c : Nat) (f : Ctx → Ctx) : (modCtx s p c f).cap = s.cap := modPart_cap _ _ _
@[simp] theorem modCtx_budgetMode (s : State) (p c : Nat) (f : Ctx → Ctx) : (modCtx s p c f).budgetMode = s.budgetMode := modPart_budgetMode _ _ _
@[simp] theorem modCtx_hotDies (s : State) (p c : Nat) (f : Ctx → Ctx) : (modCtx s p c f).hotDies = s.hotDies := modPart_hotDies _ _ _
@[simp] theorem modCtx_emergency (s : State) (p c : Nat) (f : Ctx → Ctx) : (modCtx s p c f).emergency = s.emergency := modPart_emergency _ _ _
@[simp] theorem modCtx_capBefore (s : State) (p c : Nat) (f : Ctx → Ctx) : (modCtx s p c f).capBefore = s.capBefore := modPart_capBefore _ _ _
@[simp] theorem modCtx_portsUp (s : State) (p c : Nat) (f : Ctx → Ctx) : (modCtx s p c f).portsUp = s.portsUp := modPart_portsUp _ _ _
@[simp] theorem modCtx_cxlUp (s : State) (p c : Nat) (f : Ctx → Ctx) : (modCtx s p c f).cxlUp = s.cxlUp := modPart_cxlUp _ _ _
@[simp] theorem modCtx_poolDead (s : State) (p c : Nat) (f : Ctx → Ctx) : (modCtx s p c f).poolDead = s.poolDead := modPart_poolDead _ _ _
@[simp] theorem modCtx_portsAt (s : State) (p c : Nat) (f : Ctx → Ctx) : (modCtx s p c f).portsAt = s.portsAt := modPart_portsAt _ _ _
@[simp] theorem modCtx_cxlAt (s : State) (p c : Nat) (f : Ctx → Ctx) : (modCtx s p c f).cxlAt = s.cxlAt := modPart_cxlAt _ _ _
@[simp] theorem modCtx_windowAt (s : State) (p c : Nat) (f : Ctx → Ctx) : (modCtx s p c f).windowAt = s.windowAt := modPart_windowAt _ _ _
@[simp] theorem modCtx_coolAt (s : State) (p c : Nat) (f : Ctx → Ctx) : (modCtx s p c f).coolAt = s.coolAt := modPart_coolAt _ _ _
@[simp] theorem modCtx_hotAt (s : State) (p c : Nat) (f : Ctx → Ctx) : (modCtx s p c f).hotAt = s.hotAt := modPart_hotAt _ _ _
@[simp] theorem modCtx_corrected (s : State) (p c : Nat) (f : Ctx → Ctx) : (modCtx s p c f).corrected = s.corrected := modPart_corrected _ _ _
@[simp] theorem modCtx_replies (s : State) (p c : Nat) (f : Ctx → Ctx) : (modCtx s p c f).replies = s.replies := modPart_replies _ _ _
@[simp] theorem modCtx_outward (s : State) (p c : Nat) (f : Ctx → Ctx) : (modCtx s p c f).outward = s.outward := modPart_outward _ _ _
@[simp] theorem modCtx_fresh (s : State) (p c : Nat) (f : Ctx → Ctx) : (modCtx s p c f).fresh = s.fresh := modPart_fresh _ _ _
@[simp] theorem modCtx_cur (s : State) (p c : Nat) (f : Ctx → Ctx) : (modCtx s p c f).cur = s.cur := modPart_cur _ _ _
@[simp] theorem modCtx_slot1 (s : State) (p c : Nat) (f : Ctx → Ctx) : (modCtx s p c f).slot1 = s.slot1 := modPart_slot1 _ _ _
@[simp] theorem modCtx_agenda (s : State) (p c : Nat) (f : Ctx → Ctx) : (modCtx s p c f).agenda = s.agenda := modPart_agenda _ _ _
@[simp] theorem modCtx_tick (s : State) (p c : Nat) (f : Ctx → Ctx) : (modCtx s p c f).tick = s.tick := modPart_tick _ _ _
@[simp] theorem modCtx_laneOrder (s : State) (p c : Nat) (f : Ctx → Ctx) : (modCtx s p c f).laneOrder = s.laneOrder := modPart_laneOrder _ _ _

end Sys2Proof.Laws
end

