-- ==== Sys2Proof/Tests/World.lean ====
section
/-! SUPPORT. A small machine for the tests and the witnesses: one partition, one context, one block of one group on core 0,
whose path of some lanes issues, and two pages mapped to DRAM from address 0 on. -/

namespace Sys2Proof.Tests

open Sys2Proof Sys2Proof.Machine Sys2Proof.Claims

/-- The context: translation context 0 has its root table at DRAM address 0. -/
def tCtx : Ctx := { trc := 1 :: List.replicate 15 0 }

/-- The partition: constellation 0, channel 0, the units 0 and 32, 1 MiB of die scratchpad, a pool and a host window. -/
def tPart : Part :=
  { desc := { installDesc with eng := [0, 32], poolw := [(0, 1)], hostw := [(0, 1, 0)], pwr := 100, slice := 1 }
    en := true
    ctxs := [(0, tCtx)] }

/-- A lane at address 0 with some registers. -/
def tLane (regs : Cells Word) : Lane := { live := true, regs := regs }

/-- A group whose first lanes are those of a list, the others not live. -/
def tGroup (ls : List Lane) : Group := { lanes := ls ++ List.replicate (32 - ls.length) {}, budget := 14 }

/-- The block of a group. -/
def tBlock (g : Group) : Block := { installBlock 1 1 with groups := [g] }

/-- The machine in which a path of the block's group issues. The table at DRAM address 0 serves every level: the pages of
virtual addresses 0 and 65536 are those of the same physical addresses, readable and writable. -/
def world (b : Block) (lanes : BitVec 32) : State :=
  { installWord State.reset [] with
    blocks := [b]
    parts := [(0, tPart)]
    agenda := []
    dram := [(0, 13), (8, 13), (10, 1)]
    cur := { blk := 1, grp := 0, lanes := lanes, pc := 0, base := 0, next := 4, word := 0 } }

/-- The path that issues in it. -/
def tPath (b : Block) (lanes : BitVec 32) : Path :=
  { iss := (world b lanes).cur, b := b, g := b.groups.headD (tGroup []) }

/-- The block of one live lane with some registers. -/
def one (regs : Cells Word) : Block := tBlock (tGroup [tLane regs])

/-- The machine in which that lane issues. -/
def tS : State := world (one []) 1

/-- Its path. -/
def tP : Path := tPath (one []) 1

theorem path_one : pathOf tS = some tP := rfl

/-- Every instruction whose registers the budget holds runs there: nothing is poisoned. -/
theorem runs_one (i : Instr) (x : LExt) (h : inBudget i tP.g = true) : Runs tS tP i x :=
  ⟨path_one, h, fun n _ => by
    unfold poisonedReg
    refine List.find?_eq_none.2 fun k _ => ?_
    have : tS.poison = [] := rfl
    simp [this]⟩

/-- A uniform instruction without a guard. -/
theorem uruns_one : URuns tS tP {} := ⟨path_one, rfl⟩

/-- A lane register after a step, when there is a next state. -/
def regAfter (o : Out) (lane n : Nat) : Option Word :=
  match o with
  | .next t => (groupOf t 1 0).map fun g => (g.lane lane).reg n
  | _ => none

/-- A uniform register after a step. -/
def uregAfter (o : Out) (n : Nat) : Option DWord :=
  match o with
  | .next t => (groupOf t 1 0).map fun g => g.usrc n
  | _ => none

/-- The cause of a group's first trap record after a step. -/
def causeAfter (o : Out) : Option Nat :=
  match o with
  | .next t => ((groupOf t 1 0).bind Group.stop).bind fun s => s.recs.head?.map TrapRec.cause
  | _ => none

end Sys2Proof.Tests
end

