-- ==== Sys2Proof/Tests/Slice0.lean ====
section
/-! SUPPORT. Tests: words that the spec works out, terms that the static conditions refuse, and results that it works out. -/

namespace Sys2Proof.Tests

set_option Elab.async false

open Sys2Proof Sys2Proof.Machine Sys2Proof.Claims

/-! ### Decoding -/

/-- Tables 8-11 and 10-6: the integer majors. -/
theorem test_decode_integer :
    decodeWords [0x020C0820] = .ok (.ialuAdd 3 1 2 {}, 1) ∧
    decodeWords [0x021C1750] = .ok (.ialuAdd 7 2 0x75 {}, 1) ∧
    decodeWords [0x021048A8] = .ok (.ialuSar 4 9 10 {}, 1) ∧
    decodeWords [0x040817FF] = .ok (.iaddi 2 2 0x7FF {}, 1) ∧
    decodeWords [0x0C081C05] = .ok (.ishiSar 2 3 5 {}, 1) ∧
    decodeWords [0x1004FE00] = .ok (.movhi 1 0xFE00 {}, 1) ∧
    decodeWords [0x16440822] = .ok (.icmpLts 4 1 1 2 {}, 1) ∧
    decodeWords [0x1C143700] = .ok (.lanexShfl 5 6 0x70 {}, 1) := by
  refine ⟨?_, ?_, ?_, ?_, ?_, ?_, ?_, ?_⟩ <;> rfl

/-- Table 8-11: an IMM word widens the immediate; a MOD word gives guard and rounding. -/
theorem test_decode_extended :
    decodeWords [0x7E00048D, 0x0E185678] = .ok (.movi 6 0x05678 { imm := some 0x48D }, 2) ∧
    decodeWords [0x7E8C4000, 0x1E041030] = .ok (.faddAdd 1 2 3 { mod := some { p := 3, neg := false, rnd := 1, sat := false, ftz := false, aux := 0 } }, 2) ∧
    decodeWords [0x7FD00000, 0x3A083830] = .ok (.atomAdd 2 7 3 { mem := some { local' := true, space := 1 } }, 2) ∧
    decodeWords [0x7EFD00E0, 0x28081802] = .ok (.cvt 2 3 0 2 { mod := some { p := 31, neg := false, rnd := 4, sat := false, ftz := false, aux := 7 } }, 2) := by
  refine ⟨?_, ?_, ?_, ?_⟩ <;> rfl

/-- Tables 8-11 and 10-6: branches, calls, control and dispatch. -/
theorem test_decode_control :
    decodeWords [0x4027FFFD] = .ok (.br 2 0 0x7FFFD {}, 1) ∧
    decodeWords [0x45F00008] = .ok (.call 31 0 8 {}, 1) ∧
    decodeWords [0x46000000] = .ok (.ctlRet {}, 1) ∧
    decodeWords [0x46000001] = .ok (.ctlExit {}, 1) ∧
    decodeWords [0x48000001] = .ok (.guestDispatchRg {}, 1) := by
  refine ⟨?_, ?_, ?_, ?_, ?_⟩ <;> rfl

/-- Table 11-5: the floating and narrow majors. -/
theorem test_decode_float :
    decodeWords [0x1E041030] = .ok (.faddAdd 1 2 3 {}, 1) ∧
    decodeWords [0x222048A0] = .ok (.ffmaFma 8 9 10 {}, 1) ∧
    decodeWords [0x24242052] = .ok (.fcmpLt 2 1 4 5 {}, 1) ∧
    decodeWords [0x26102803] = .ok (.fspecExp2 4 5 {}, 1) ∧
    decodeWords [0x28081802] = .ok (.cvt 2 3 0 2 {}, 1) ∧
    decodeWords [0x2A183880] = .ok (.narrowDot4s 6 7 8 {}, 1) ∧
    decodeWords [0x2C2860E3] = .ok (.f64Fma 10 12 14 {}, 1) := by
  refine ⟨?_, ?_, ?_, ?_, ?_, ?_, ?_⟩ <;> rfl

/-- Tables 8-11 and 12-11: loads, stores, atomics and prefetch. -/
theorem test_decode_memory :
    decodeWords [0x2E144204] = .ok (.ld 5 8 2 0 4 {}, 1) ∧
    decodeWords [0x2E0C5603] = .ok (.ld 3 10 6 0 3 {}, 1) ∧
    decodeWords [0x3010433F] = .ok (.st 4 8 3 0 0x3F {}, 1) ∧
    decodeWords [0x32083A50] = .ok (.ldl 2 7 2 1 16 {}, 1) ∧
    decodeWords [0x36201FC0] = .ok (.ldfe 8 3 7 3 0 {}, 1) ∧
    decodeWords [0x38143284] = .ok (.stfe 5 6 2 2 4 {}, 1) ∧
    decodeWords [0x3E004082] = .ok (.pref 8 0 2 2 {}, 1) ∧
    decodeWords [0x3A084030] = .ok (.atomAdd 2 8 3 {}, 1) ∧
    decodeWords [0x3A08404A] = .ok (.atomCas 2 8 4 {}, 1) := by
  refine ⟨?_, ?_, ?_, ?_, ?_, ?_, ?_, ?_, ?_⟩ <;> rfl

/-- Table 13-5: matrix operations and fragments. -/
theorem test_decode_matrix :
    decodeWords [0x4A410100] = .ok (.mmaAdd 16 32 1 0 {}, 1) ∧
    decodeWords [0x4A008023] = .ok (.mmaTriset 0 16 0 2 {}, 1) ∧
    decodeWords [0x4C141060] = .ok (.mfragRd 5 2 6 {}, 1) ∧
    decodeWords [0x4C001802] = .ok (.mfragZero 3 {}, 1) := by
  refine ⟨?_, ?_, ?_, ?_⟩ <;> rfl

/-- Tables 8-11, 12-11 and 13-5: the uniform arithmetic, branches, loads and moves. -/
theorem test_decode_uniform :
    decodeWords [0x82204180] = .ok (.ualuAdd 4 2 3 {}, 1) ∧
    decodeWords [0x862FFFFF] = .ok (.umovi 5 0x7FFFF {}, 1) ∧
    decodeWords [0x8A084182] = .ok (.ucmpLts 1 2 3 {}, 1) ∧
    decodeWords [0x8C7FFFFB] = .ok (.ubr 1 1 0x1FFFFB {}, 1) ∧
    decodeWords [0x8E204002] = .ok (.uld 4 2 2 {}, 1) ∧
    decodeWords [0x9218A000] = .ok (.umovlFirst 3 5 {}, 1) ∧
    decodeWords [0x80004182] = .ok (.usysTlbiva 2 3 {}, 1) := by
  refine ⟨?_, ?_, ?_, ?_, ?_, ?_, ?_⟩ <;> rfl

/-- Tables 8-11, 12-11 and 13-5: barriers, waits, fences, engines. -/
theorem test_decode_sync :
    decodeWords [0x94300680] = .ok (.barArrive 6 3 1 {}, 1) ∧
    decodeWords [0x94300682] = .ok (.barWait 6 3 1 {}, 1) ∧
    decodeWords [0x9430E101] = .ok (.barArriveCnt 6 7 0 2 {}, 1) ∧
    decodeWords [0x96000020] = .ok (.waitc 0 0 2 0 {}, 1) ∧
    decodeWords [0xAC000000] = .ok (.fenceSysRel {}, 1) ∧
    decodeWords [0xA0000001] = .ok (.gangLease {}, 1) ∧
    decodeWords [0xA0006003] = .ok (.gangBaton 3 {}, 1) ∧
    decodeWords [0x9E204681] = .ok (.mdrainAdd 4 2 3 1 {}, 1) ∧
    decodeWords [0x98310480] = .ok (.cpyLin 6 8 2 1 {}, 1) ∧
    decodeWords [0xB0518301] = .ok (.bfqJoin 10 12 1 2 {}, 1) := by
  refine ⟨?_, ?_, ?_, ?_, ?_, ?_, ?_, ?_, ?_, ?_⟩ <;> rfl

/-- Table 13-5: tasks, migration, budgets, registers, counters. -/
theorem test_decode_tasks :
    decodeWords [0xA2004000] = .ok (.taskSpawn 2 {}, 1) ∧
    decodeWords [0xA2000002] = .ok (.taskMerge {}, 1) ∧
    decodeWords [0xA4000007] = .ok (.migL 7 {}, 1) ∧
    decodeWords [0xA410000C] = .ok (.migAuto 12 {}, 1) ∧
    decodeWords [0xA6084002] = .ok (.regaGrowTry 2 2 {}, 1) ∧
    decodeWords [0xA8180070] = .ok (.sysr 3 0x070 {}, 1) ∧
    decodeWords [0xAA006070] = .ok (.sysw 3 0x070 {}, 1) ∧
    decodeWords [0xB220A000] = .ok (.perfRd 4 5 {}, 1) := by
  refine ⟨?_, ?_, ?_, ?_, ?_, ?_, ?_, ?_⟩ <;> rfl

/-- Table 8-11: the encoder gives those words back. -/
theorem test_encode :
    encode (.ialuAdd 3 1 2 {}) = [0x020C0820] ∧ encode (.movi 6 0x05678 { imm := some 0x48D }) = [0x7E00048D, 0x0E185678] ∧
    encode (.br 2 0 0x7FFFD {}) = [0x4027FFFD] ∧ encode (.barArrive 6 3 1 {}) = [0x94300680] := by
  decide

/-- What a decoding that fails says: cause and word. -/
def refusal (x : Except BadWord (Instr × Nat)) : Option (Nat × Word) :=
  match x with
  | .error b => some (b.cause, b.info)
  | .ok _ => none

/-- Table 22-7: words that are no instruction. -/
theorem test_refused :
    refusal (decodeWords [0x4E000000]) = some (0x01, 0x4E000000) ∧ refusal (decodeWords [0x0200000E]) = some (0x01, 0x0200000E) ∧
    refusal (decodeWords [0x82000010]) = some (0x01, 0x82000010) ∧ refusal (decodeWords [0x28081800]) = some (0x01, 0x28081800) ∧
    refusal (decodeWords [0x020C205D]) = some (0x02, 0x020C205D) ∧
    refusal (decodeWords [0x7EFD4000, 0x1E041030]) = some (0x02, 0x7EFD4000) ∧
    (refusal (decodeWords [0x7E000005, 0x020C0820])).map Prod.fst = some 0x01 ∧
    (refusal (decodeWords [0xFF800000])).map Prod.fst = some 0x01 := by
  decide +kernel

/-- Table 22-7: register fields that name nothing; the static conditions refuse their instructions. -/
theorem test_refused_fields :
    (refusal (decodeWords [0x03C00820])).map Prod.fst = some 0x05 ∧ (refusal (decodeWords [0x2E144300])).map Prod.fst = some 0x05 ∧
    (refusal (decodeWords [0x94300400])).map Prod.fst = some 0x05 ∧ (refusal (decodeWords [0xA8180050])).map Prod.fst = some 0x05 := by
  decide +kernel

/-! ### Terms that are not well-formed -/

/-- A MOD word with a guard and modifiers. -/
def tMod (p : BitVec 5) (rnd : BitVec 3) (sat ftz : Bool) (aux : BitVec 7) : LExt :=
  { mod := some { p := p, neg := false, rnd := rnd, sat := sat, ftz := ftz, aux := aux } }

theorem test_wf_good : Instr.wf (.ialuAdd 3 1 2 {}) = true ∧ Instr.wf (.ld 4 8 4 0 0 {}) = true ∧
    Instr.wf (.cvt 2 3 0 2 (tMod 31 4 false false 7)) = true := by
  decide

/-- Register fields: a destination that is no lane register, an odd pair, a group not of four, a uniform source as a group. -/
theorem test_wf_registers :
    Instr.wf (.ialuAdd 0x70 1 2 {}) = false ∧ Instr.wf (.ld 5 8 3 0 0 {}) = false ∧ Instr.wf (.ld 6 8 4 0 0 {}) = false ∧
    Instr.wf (.atomfxAdd 8 0x70 {}) = false ∧ Instr.wf (.mmaAdd 0x70 32 0 0 {}) = false ∧ Instr.wf (.f64Add 9 10 12 {}) = false := by
  decide

/-- Extension words and modifiers that an instruction does not accept (Tables 22-1, 22-2). -/
theorem test_wf_extensions :
    Instr.wf (.ialuAdd 3 1 2 { imm := some 0 }) = false ∧ Instr.wf (.ialuAdd 3 1 2 { mem := some { local' := true, space := 1 } }) = false ∧
    Instr.wf (.atomAdd 2 8 3 { mem := some { local' := false, space := 1 } }) = false ∧ Instr.wf (.guestDispatchRg (tMod 3 0 false false 0)) = false ∧
    Instr.wf (.faddAdd 1 2 3 (tMod 31 5 false false 0)) = false ∧ Instr.wf (.ialuAdd 3 1 2 (tMod 31 1 false false 0)) = false ∧
    Instr.wf (.faddAdd 1 2 3 (tMod 31 4 false false 0)) = false ∧ Instr.wf (.faddAdd 1 2 3 (tMod 31 0 true false 0)) = false ∧
    Instr.wf (.ialuAdd 3 1 2 (tMod 31 0 false true 0)) = false ∧ Instr.wf (.ialuAdd 3 1 2 (tMod 31 0 false false 1)) = false ∧
    Instr.wf (.ialuAdd 3 1 2 (tMod 24 0 false false 0)) = false := by
  decide

/-- Sub-fields: formats that are the same, a predicate that is none, a slot outside its range, an odd uniform pair, a register number
that Table 13-4 does not list. -/
theorem test_wf_fields :
    Instr.wf (.cvt 2 3 0 0 {}) = false ∧ Instr.wf (.icmpEq 24 0 1 2 {}) = false ∧ Instr.wf (.barArrive 6 2 0 {}) = false ∧
    Instr.wf (.cpyLin 5 8 2 1 {}) = false ∧ Instr.wf (.sysr 3 0x050 {}) = false ∧ Instr.wf (.br 25 0 1 {}) = false ∧
    Instr.wf (.ualuAdd 3 1 2 { imm := some 0 }) = false := by
  decide

/-! ### Results -/

/-- A step of one lane with some registers, and its register `n` after it. -/
def after (i : Instr) (regs : Cells Word) (n : Nat) : Option Word := regAfter (exec i (world (one regs) 1)) 0 n

/-- Table 11-4: 1 + 2^−24 is a tie, and the even significand wins; rounded up it is not. -/
theorem test_add_ties :
    after (.faddAdd 1 2 3 {}) [(2, 0x3F800000), (3, 0x33800000)] 1 = some 0x3F800000 ∧
    after (.faddAdd 1 2 3 (tMod 31 2 false false 0)) [(2, 0x3F800000), (3, 0x33800000)] 1 = some 0x3F800001 := by
  decide +kernel

/-- Table 11-4: a fused multiply-add rounds once. -/
theorem test_fma_once :
    after (.fmulMul 4 5 5 {}) [(5, 0x3F800800)] 4 = some 0x3F801000 ∧
    after (.ffmaFma 6 5 5 {}) [(5, 0x3F800800), (6, 0xBF801000)] 6 = some 0x33800000 := by
  decide +kernel

/-- Table 11-4. -/
theorem test_dot4e4 :
    after (.narrowDot4e4 7 8 9 {}) [(7, 0x3F800000), (8, 0x00F83878), (9, 0x00783878)] 7 = some 0x40000000 := by
  decide +kernel

/-- Table 11-4: 500 in e4m3, and with `.sat`. -/
theorem test_cvt_e4m3 :
    after (.cvt 1 2 0 4 {}) [(2, 0x43FA0000)] 1 = some 0x7F ∧
    after (.cvt 1 2 0 4 (tMod 31 0 true false 0)) [(2, 0x43FA0000)] 1 = some 0x7E := by
  decide +kernel

/-- Table 11-4: −300.5 in s8. -/
theorem test_cvt_s8 :
    after (.cvt 1 2 0 13 {}) [(2, 0xC3964000)] 1 = some 0xFFFFFF80 := by
  decide +kernel

/-- R215: a field of four bits at bit 28, signed and not. -/
theorem test_bit_fields :
    after (.ibitBfxs 1 2 3 {}) [(2, 0xA0000000), (3, 0x0C1C)] 1 = some 0xFFFFFFFA ∧
    after (.ibitBfxn 1 2 3 {}) [(2, 0xA0000000), (3, 0x0C1C)] 1 = some 0xA := by
  decide +kernel

/-- Table 8-11: the low 32 bits of the 41-bit value. -/
theorem test_movi_wide :
    after (.movi 6 0x05678 { imm := some 0x48D }) [] 6 = some 0x12345678 := by
  decide +kernel

/-- R147, R209: a sum wraps, and with `.sat` it is clamped. -/
theorem test_add_wraps :
    after (.ialuAdd 1 2 3 {}) [(2, 0x7FFFFFFF), (3, 1)] 1 = some 0x80000000 ∧
    after (.ialuAdd 1 2 3 (tMod 31 0 true false 0)) [(2, 0x7FFFFFFF), (3, 1)] 1 = some 0x7FFFFFFF := by
  decide +kernel

/-- Table 11-4: a codebook decode, with its scales in s2. -/
theorem test_cbdec :
    regAfter (exec (.narrowCbdecb 3 4 0x72 {}) (world (tBlock { tGroup [tLane [(4, 0x31)]] with ureg := [(2, 0xC83F800000)] }) 1)) 0 3 =
      some 0xBE9EBF0C := by
  decide +kernel
/-- Table 22-7: v20 is within a budget of 24 registers and not within one of 16. -/
theorem test_budget :
    regAfter (exec (.ialuAdd 20 1 2 {}) (world (tBlock { tGroup [tLane [(1, 3), (2, 4)]] with budget := 3 }) 1)) 0 20 = some 7 ∧
    causeAfter (exec (.ialuAdd 20 1 2 {}) (world (tBlock { tGroup [tLane []] with budget := 2 }) 1)) = some 0x05 := by
  decide +kernel

/-- Table 22-7: no level may write register 0x060. -/
theorem test_sysw_privilege : causeAfter (exec (.sysw 3 0x060 {}) tS) = some 0x03 := by
  decide +kernel

/-- R211: `umovi` sign-extends its immediate. -/
theorem test_umovi : uregAfter (exec (.umovi 5 0x7FFFF {}) tS) 5 = some 0xFFFFFFFFFFFFFFFF := by
  decide +kernel

end Sys2Proof.Tests
end

