-- ==== Sys2Proof/Tests/Witness1.lean ====
section
/-! SUPPORT. For the statements about lane instructions: states and operands that meet their hypotheses. -/

namespace Sys2Proof.Tests

set_option Elab.async false

open Sys2Proof Sys2Proof.Machine Sys2Proof.Claims

/-- Every instruction of a list runs in the small machine. -/
theorem all_run (is : List Instr) (h : is.all (fun i => inBudget i tP.g) = true) : ∀ i ∈ is, ∀ x, Runs tS tP i x :=
  fun i hi x => runs_one i x (List.all_eq_true.1 h i hi)

/-! ### Integer and floating lane instructions -/

theorem witness_IaluResults : ∀ i ∈ [Instr.ialuAdd 111 1 2 {}, .ialuSub 3 112 2 {}, .ialuAnd 3 1 127 {}, .ialuOr 3 1 2 {},
    .ialuXor 3 1 2 {}, .ialuAndn 3 1 2 {}, .ialuShl 3 1 2 {}, .ialuShr 3 1 2 {}, .ialuSar 3 1 2 {}, .ialuMins 3 1 2 {},
    .ialuMaxs 3 1 2 {}, .ialuMinn 3 1 2 {}, .ialuMaxn 3 1 2 {}, .ialuAbs 3 1 {}], ∀ x, Runs tS tP i x :=
  all_run _ (by decide)

theorem witness_ImmediateResults : ∀ i ∈ [Instr.iaddi 3 1 0x7FF {}, .andi 3 1 0x400 {}, .ori 3 1 0 {}, .xori 3 1 5 {},
    .ishiShl 3 1 31 {}, .ishiShr 3 1 0 {}, .ishiSar 3 1 31 {}, .ishiRol 3 1 0 {}, .movi 111 0x3FFFF {}, .movhi 0 0x3FFFF {}],
    ∀ x, Runs tS tP i x :=
  all_run _ (by decide)

theorem witness_MultiplyBitResults : ∀ i ∈ [Instr.imulLo 3 1 2 {}, .imulHis 3 1 2 {}, .imulHin 3 1 2 {}, .imulWides 110 1 2 {},
    .imulWiden 0 1 2 {}, .imulMad 3 1 2 {}, .ibitPopc 3 1 {}, .ibitClz 3 1 {}, .ibitCtz 3 1 {}, .ibitBrev 3 1 {},
    .ibitBfxs 3 1 2 {}, .ibitBfxn 3 1 2 {}, .ibitBfi 3 1 2 {}], ∀ x, Runs tS tP i x :=
  all_run _ (by decide)

theorem witness_CompareResults : ∀ i ∈ [Instr.icmpEq 0 0 1 2 {}, .icmpNe 23 1 1 2 {}, .icmpLts 31 2 1 2 {}, .icmpLes 4 3 1 2 {},
    .icmpGts 4 0 1 2 {}, .icmpGes 4 0 1 2 {}, .icmpLtn 4 0 1 2 {}, .icmpLen 4 0 1 2 {}, .icmpGtn 4 0 1 2 {},
    .icmpGen 4 0 111 127 {}], ∀ x, Runs tS tP i x :=
  all_run _ (by decide)

theorem witness_PredicateResults : ∀ i ∈ [Instr.plogAnd 0 0 1 2 {}, .plogOr 31 0 31 2 {}, .plogXor 3 0 1 2 {},
    .plogAndn 3 0 1 2 {}, .plogOrn 3 0 1 2 {}, .cmovNz 3 1 2 {}, .cmovZ 3 1 2 {}, .cmovRdp 3 {}, .cmovWrp 1 2 {}],
    ∀ x, Runs tS tP i x :=
  all_run _ (by decide)

theorem witness_ExchangeResults : ∀ i ∈ [Instr.lanexShfl 3 1 2 {}, .lanexShflx 3 1 2 {}, .lanexShflup 3 1 2 {},
    .lanexShfldn 3 1 2 {}, .lanexBallot 3 31 {}, .lanexAny 3 0 {}, .lanexAll 3 1 {}, .lanexMatch 3 1 {}, .lanexRedadd 3 1 {},
    .lanexRedmins 3 1 {}, .lanexRedmaxs 3 1 {}, .lanexRedand 3 1 {}, .lanexRedor 3 1 {}, .lanexRedxor 3 1 {},
    .lanexNpath 3 {}], ∀ x, Runs tS tP i x :=
  all_run _ (by decide)

theorem witness_LanePlaceResults : (∀ i ∈ [Instr.lsysNop {}, .lsysLane 3 {}, .lsysTid 3 {}, .lsysClk 110 {}, .ctlYield {},
    .pref 1 2 1 0 {}, .guestRdpc 0 {}, .guestWrpc 2 {}, .guestAddpc 1 {}, .guestRdop 3 {}, .guestWrop 1 {}, .lsysGrp 3 0 {},
    .lsysGrp 3 4 {}], ∀ x, Runs tS tP i x) ∧ (4 : BitVec 7).toNat ≤ 4 :=
  ⟨all_run _ (by decide), by decide⟩

theorem witness_FloatArithmeticResults : ∀ i ∈ [Instr.faddAdd 3 1 2 {}, .faddSub 3 1 2 {}, .faddMin 3 1 2 {}, .faddMax 3 1 2 {},
    .faddAdd2h 3 1 2 {}, .faddSub2h 3 1 2 {}, .faddAdd2b 3 1 2 {}, .faddSub2b 3 1 2 {}, .faddAbs 3 1 {}, .faddNeg 3 1 {},
    .faddCsgn 3 1 2 {}, .fmulMul 3 1 2 {}, .fmulMul2h 3 1 2 {}, .fmulMul2b 3 1 2 {}, .ffmaFma 3 1 2 {}, .ffmaFma2h 3 1 2 {},
    .ffmaFma2b 3 1 2 {}, .ffmaFms 3 1 2 {}, .ffmaFnma 3 1 2 {}, .f64Add 110 0 2 {}, .f64Sub 4 0 2 {}, .f64Mul 4 0 2 {},
    .f64Fma 4 0 2 {}, .f64Min 4 0 2 {}, .f64Max 4 0 2 {}, .f64Abs 4 0 {}, .f64Neg 4 0 {}], ∀ x, Runs tS tP i x :=
  all_run _ (by decide)

theorem witness_FloatCompareResults : ∀ i ∈ [Instr.fcmpEq 0 0 1 2 {}, .fcmpNe 23 1 1 2 {}, .fcmpLt 31 2 1 2 {},
    .fcmpLe 4 3 1 2 {}, .fcmpGt 4 0 1 2 {}, .fcmpGe 4 0 1 2 {}, .fcmpUn 4 0 1 2 {}, .fcmpOrd 4 0 1 2 {}], ∀ x, Runs tS tP i x :=
  all_run _ (by decide)

theorem witness_SpecialFunctionResults : (∀ i ∈ [Instr.fspecRcp 3 1 {}, .fspecRsqrt 3 1 {}, .fspecSqrt 3 1 {},
    .fspecExp2 3 1 {}, .fspecLog2 3 1 {}, .fspecSin 3 1 {}, .fspecCos 3 1 {}, .fspecTanh 3 1 {}], ∀ x, Runs tS tP i x) ∧
    0xFFFFFFFF < 2 ^ 32 ∧ (f32.decode false 0xFFFFFFFF).isNan = true :=
  ⟨all_run _ (by decide), by decide, by decide⟩

theorem witness_RoundingExact : f16 ∈ [f32, f16, bf16, f64, e4m3, e5m2] ∧ 0xFC00 < 2 * f16.signBit ∧
    (f16.decode false 0xFC00).isNan = false := by decide

theorem witness_ConvertResults : Instr.unassigned (.cvt 2 3 0 2 {}) = false ∧ Instr.unassigned (.cvt 4 0 3 10 {}) = false ∧
    ∀ i ∈ [Instr.cvt 2 3 0 2 {}, .cvt 4 0 3 10 {}], ∀ x, Runs tS tP i x :=
  ⟨by decide, by decide, all_run _ (by decide)⟩

theorem witness_DotResults : ∀ i ∈ [Instr.narrowDot4s 3 1 2 {}, .narrowDot4n 3 1 2 {}, .narrowDot4e4 3 1 2 {},
    .narrowDot4e5 3 1 2 {}, .narrowDot2b 3 1 2 {}, .narrowDot2h 3 1 2 {}], ∀ x, Runs tS tP i x :=
  all_run _ (by decide)

theorem witness_NarrowResults : ∀ i ∈ [Instr.narrowCbdecb 3 1 2 {}, .narrowCbdech 3 1 2 {}, .narrowCbdecf 3 1 2 {},
    .narrowPke4 3 0 2 {}, .narrowPke5 3 0 2 {}, .narrowMxpk 3 1 {}, .narrowMxunpk 3 1 2 {}, .narrowUpke4 4 1 {},
    .narrowUpke5 4 1 {}], ∀ x, Runs tS tP i x :=
  all_run _ (by decide)

/-! ### Control transfers -/

/-- No granule is poisoned. -/
theorem slices_world (b : Block) (m : BitVec 32) (p : Path) : slicesClean (world b m) p := fun _ h => by cases h

theorem witness_BranchResults :
    (∀ i ∈ [Instr.br 31 0 4 {}, .brxJmp 1 {}, .call 31 0 0 {}, .brxCall 1 {}], ∀ x, Runs tS tP i x) ∧ slicesClean tS tP ∧
    targetOk tS tP.b (dispAddr tP (4 : BitVec 19) - bodyStart tS tP.b).toNat = true ∧
    (∀ n ∈ tP.exec {}, targetOk tS tP.b (src32 tP.g (tP.g.lane n) 1).toNat = true ∧
      4 * ((tP.g.lane n).cd + 1) ≤ tP.b.privBytes) :=
  ⟨all_run _ (by decide), slices_world _ _ _, by decide +kernel, by decide +kernel⟩

/-- A lane in a call of depth 1 whose return offset is 16. -/
def called : Block := tBlock (tGroup [{ tLane [] with cd := 1, priv := [(60, 16)] }])

theorem witness_BranchResults_return :
    Runs (world called 1) (tPath called 1) (.ctlRet {}) {} ∧ slicesClean (world called 1) (tPath called 1) ∧
    ∀ n ∈ (tPath called 1).exec {}, 0 < ((tPath called 1).g.lane n).cd ∧
      targetOk (world called 1) (tPath called 1).b (topReturn (tPath called 1) n) = true :=
  ⟨⟨rfl, by decide, by decide +kernel⟩, slices_world _ _ _, by decide +kernel⟩

/-! ### Guest dispatch -/

/-- A lane whose group has its code at address 64 and its handler table at address 65536, whose entries read 0. -/
def guest (mode : BitVec 2) : Block :=
  tBlock { tGroup [{ tLane [] with gpc := 1 }, tLane []] with gcb := 64, ght := 65536, grgMode := mode }

/-- The machine, its path, and the state after the access to the guest's byte. -/
def gS (mode : BitVec 2) : State := world (guest mode) 1
def gP (mode : BitVec 2) : Path := tPath (guest mode) 1
def gS1 (mode : BitVec 2) : State :=
  (checkAccess (gS mode) (gP mode).b 0 0 .read (.global ((gP mode).g.gcb + ((gP mode).g.lane 0).gpc)) 1).1

theorem guest_byte (mode : BitVec 2) :
    checkAccess (gS mode) (gP mode).b 0 0 .read (.global ((gP mode).g.gcb + ((gP mode).g.lane 0).gpc)) 1 =
      (gS1 mode, .ok (.phys 65)) := by
  revert mode; decide +kernel

/-- Where the entry's access goes, and the state after it. -/
def gEntry : State × Except NoAccess Place :=
  checkAccess (touchPlace (gS1 0) (gP 0).b.core (drawOf (gS 0) 0 900) (.phys 65) 1) (gP 0).b 0 64 .read (.global ((gP 0).g.ght +
    BitVec.ofNat 64 ((if (gP 0).b.lbody then 1024 else 0) + 4 * (BitVec.ofNat 8 (valueAt (gS1 0) (gP 0) 0 (.phys 65) 1)).toNat))) 4

theorem witness_DispatchResults :
    Runs (gS 0) (gP 0) (.guestDispatch {}) {} ∧ Runs (gS 0) (gP 0) (.guestDispatchRg {}) {} ∧ (gP 0).g.grgMode = 0 ∧
    (gP 0).exec {} = [0] ∧ breakpoint (ctxOf (gS 0) (gP 0).b.part (gP 0).b.ctx) ((gP 0).g.lane 0).gpc = none ∧
    gEntry.2 = .ok (.phys 65536) ∧ valueAt gEntry.1 (gP 0) 64 (.phys 65536) 4 ≠ 0xFFFFFFFF ∧
    targetOk (gS 0) (gP 0).b (valueAt gEntry.1 (gP 0) 64 (.phys 65536) 4) = true :=
  ⟨⟨rfl, by decide, by decide +kernel⟩, ⟨rfl, by decide, by decide +kernel⟩, by decide, by decide, by decide +kernel,
    by decide +kernel, by decide +kernel, by decide +kernel⟩

theorem witness_PoolEntryResults :
    pathOf (gS 1) = some (gP 1) ∧ (gP 1).lanes = [0] ∧ (gP 1).g.grgMode ≠ 0 ∧
    breakpoint (ctxOf (gS 1) (gP 1).b.part (gP 1).b.ctx) ((gP 1).g.lane 0).gpc = none ∧
    (gP 1).g.loads.openOf 0 = 0 ∧
    (∃ k g j, (gP 1).b.group k = some g ∧ g.stop = none ∧ (g.lane j).live = true ∧ j < 32 ∧ (g.lane j).hold ≠ .pool ∧
      (k, j) ≠ ((gP 1).iss.grp, 0)) :=
  ⟨rfl, by decide, by decide, by decide +kernel, by decide, 0, (guest 1).groups.headD (tGroup []), 1,
    rfl, by decide, by decide, by decide, by decide, by decide⟩

/-- A lane with an open load waits before the pool, with its ONCE bit. -/
def gLoading : Block :=
  let b := guest 1
  { b with groups := b.groups.map fun g => { g with loads := { issued := 1, pend := [0], lanes := [(0, 1)] } } }

theorem witness_PoolEntryResults_waits :
    pathOf (world gLoading 1) = some (tPath gLoading 1) ∧ (tPath gLoading 1).lanes = [0] ∧ (tPath gLoading 1).g.grgMode ≠ 0 ∧
    (tPath gLoading 1).g.loads.openOf 0 ≠ 0 ∧
    (∃ k g j, (tPath gLoading 1).b.group k = some g ∧ g.stop = none ∧ (g.lane j).live = true ∧ j < 32 ∧ (g.lane j).hold ≠ .pool ∧
      (k, j) ≠ ((tPath gLoading 1).iss.grp, 0)) :=
  ⟨rfl, by decide, by decide, by decide, 0, gLoading.groups.headD (tGroup []), 1, rfl, by decide, by decide, by decide, by decide,
    by decide⟩

/-- The machine whose context breaks at guest address 1, with a second group in the block. -/
def brkBlock (mode : BitVec 2) : Block :=
  let b := guest mode
  { b with groups := b.groups ++ [tGroup [tLane []]] }
def brkS (mode : BitVec 2) : State :=
  { world (brkBlock mode) 1 with parts := [(0, { tPart with ctxs := [(0, { tCtx with gbp := [0x8000000000000001, 0, 0, 0] })] })] }

theorem witness_BreakAndCallTraps_guest_break : (∀ mode ∈ [(0 : BitVec 2), 1, 2],
    let p := tPath (brkBlock mode) 1
    pathOf (brkS mode) = some p ∧ p.lanes = [0] ∧ p.exec {} = [0] ∧ p.g.loads.openOf 0 = 0 ∧ (p.g.lane 0).once = false ∧
      (p.g.lane 0).npc = p.iss.pc ∧ (p.g.lane 0).hold = .none ∧ p.g.stop = none ∧ p.g.grgMode = mode ∧
      breakpoint (ctxOf (brkS mode) p.b.part p.b.ctx) (p.g.lane 0).gpc = some 0 ∧
      ((p.b.group 1).map fun g => (g.stop.isNone, (g.lane 0).live, (g.lane 0).hold)) = some (true, true, .none)) ∧
    Runs (brkS 0) (tPath (brkBlock 0) 1) (.guestDispatch {}) {} ∧ Runs (brkS 0) (tPath (brkBlock 0) 1) (.guestDispatchRg {}) {} :=
  ⟨by decide +kernel, ⟨rfl, by decide, by decide +kernel⟩, ⟨rfl, by decide, by decide +kernel⟩⟩

/-- A handler table whose entry for opcode 0 is a number. -/
def entryS (mode : BitVec 2) (v : Nat) : State :=
  { gS mode with dram := mputs (gS mode).dram 65536 (leBytes 4 v) }

/-- The dispatch's two accesses there: what they give, the byte and the entry. -/
def entryIs (v : Nat) (p : Path) : Bool :=
  let r := checkAccess (entryS 0 v) p.b 0 0 .read (.global (p.g.gcb + (p.g.lane 0).gpc)) 1
  let q := checkAccess (touchPlace (sealed r.1 p 0) p.b.core (drawOf (entryS 0 v) 0 900) (.phys 65) 1) p.b 0 64 .read (.global 65536) 4
  decide (r.2 = .ok (.phys 65)) && decide (valueAt (sealed r.1 p 0) p 0 (.phys 65) 1 = 0) && decide (p.g.ght = 65536) &&
    decide (q.2 = .ok (.phys 65536)) && decide (valueAt (sealed q.1 p 0) p 64 (.phys 65536) 4 = v)

theorem witness_BreakAndCallTraps_entry : entryIs 0xFFFFFFFF (gP 0) = true ∧ entryIs 2 (gP 0) = true ∧
    targetOk (entryS 0 2) (gP 0).b 2 = false ∧ (gP 0).exec {} = [0] ∧ pathOf (entryS 0 2) = some (gP 0) ∧
    breakpoint (ctxOf (entryS 0 2) (gP 0).b.part (gP 0).b.ctx) ((gP 0).g.lane 0).gpc = none ∧ pathOf (entryS 0 0xFFFFFFFF) = some (gP 0) :=
  ⟨by decide +kernel, by decide +kernel, by decide +kernel, by decide, rfl, by decide +kernel, rfl⟩

theorem witness_BreakAndCallTraps_round : ∀ v ∈ [0xFFFFFFFF, 2],
    blockOf (entryS 1 v) 1 = some (guest 1) ∧ ((guest 1).group 0).map (fun g => (g.stop.isNone, g.lanes.length, g.ght, (g.lane 0).gop)) =
      some (true, 32, 65536, 0) ∧ (guest 1).lbody = false ∧
    (checkAccess (entryS 1 v) (guest 1) 0 64 .read (.global 65536) 4).2 = .ok (.phys 65536) ∧
    (loadAt (sealSources (checkAccess (entryS 1 v) (guest 1) 0 64 .read (.global 65536) 4).1 1 [0]) (guest 1) 64 (.phys 65536) 4).2 = v ∧
    (v = 0xFFFFFFFF ∨ targetOk (entryS 1 v) (guest 1) v = false) := by decide +kernel

end Sys2Proof.Tests
end

