-- ==== Sys2Proof/Tests/Witness2.lean ====
section
/-! SUPPORT. For the statements about memory, traps, ends of threads and full/empty granules: states and operands that meet
their hypotheses. -/

namespace Sys2Proof.Tests

set_option Elab.async false

open Sys2Proof Sys2Proof.Machine Sys2Proof.Claims

/-- The access that lane 0 of the small machine makes. -/
def acc (k : AccessKind) (t : Target) (n : Nat) : State × Except NoAccess Place := checkAccess tS tP.b tP.iss.grp 0 k t n

theorem witness_LoadResults :
    (2 : BitVec 3).toNat ≠ 7 ∧ tP.exec {} = [0] ∧ Runs tS tP (.ld 3 0 4 0 2 {}) {} ∧ Runs tS tP (.ldl 3 0 6 1 2 {}) {} ∧
    (acc .read (globalAt {} tP (tP.g.lane 0) 0 2 4) 16).2 = .ok (.phys 32) ∧
    (acc .read (localAt {} tP (tP.g.lane 0) 0 2 1 6) 2).2 = .ok (.scr 1 4) :=
  ⟨by decide, by decide, runs_one _ _ (by decide), runs_one _ _ (by decide), by decide +kernel, by decide +kernel⟩

theorem witness_StoreResults :
    (4 : BitVec 3).toNat ≤ 4 ∧ tP.exec {} = [0] ∧ Runs tS tP (.st 4 0 4 0 2 {}) {} ∧ Runs tS tP (.stl 3 0 0 3 1 {}) {} ∧
    (acc .write (globalAt {} tP (tP.g.lane 0) 0 2 4) 16).2 = .ok (.phys 32) ∧ storeLost tS tP.b.part (.phys 32) = false ∧
    (acc .write (localAt {} tP (tP.g.lane 0) 0 1 3 0) 1).2 = .ok (.dsp 1) :=
  ⟨by decide, by decide, runs_one _ _ (by decide), runs_one _ _ (by decide), by decide +kernel, by decide +kernel,
    by decide +kernel⟩

theorem witness_StoreFrame : csorted tS.dram = true ∧ csorted tS.dsp = true ∧
    (∃ t, exec (.st 4 0 4 0 2 {}) tS = .next t) ∧ ∃ t, exec (.stl 3 0 0 3 1 {}) tS = .next t :=
  ⟨by decide, by decide, ⟨_, rfl⟩, ⟨_, rfl⟩⟩

theorem witness_WriteThenRead : 2 ^ 44 - 4 + (leBytes 4 7).length ≤ 2 ^ 44 ∧
    blockOf tS 1 = some (one []) ∧ (∃ c, clusterOf tS 1 = some c) ∧ (∃ g, groupOf tS 1 0 = some g ∧ 31 < g.lanes.length) ∧
    (111 : BitVec 7).toNat < 112 ∧ 112 ≤ (112 : BitVec 7).toNat ∧ 24 ≤ (24 : BitVec 5).toNat :=
  ⟨by decide, rfl, ⟨_, rfl⟩, ⟨_, rfl, by decide⟩, by decide, by decide, by decide⟩

theorem witness_AtomicResults : tP.exec {} = [0] ∧
    (∀ i ∈ [Instr.atomAdd 3 0 2 {}, .atomAnd 3 0 2 {}, .atomOr 3 0 2 {}, .atomXor 3 0 2 {}, .atomXchg 3 0 2 {},
      .atomMins 3 0 2 {}, .atomMaxs 3 0 2 {}, .atomMinn 3 0 2 {}, .atomMaxn 3 0 2 {}, .atomAddf 3 0 2 {}, .atomCas 3 0 2 {},
      .atomAdd64 4 0 2 {}, .atomXchg64 4 0 2 {}, .atomCas64 4 0 8 {}, .atomfxFetch 4 0 8 {}, .atomfxAdd 0 8 {}],
      inBudget i tP.g = true) ∧
    (acc .rmw (atomTarget {} tP.g (tP.g.lane 0) 0) 4).2 = .ok (.phys 0) ∧
    (acc .rmw (atomTarget {} tP.g (tP.g.lane 0) 0) 8).2 = .ok (.phys 0) ∧
    (acc .rmw (atomTarget {} tP.g (tP.g.lane 0) 0) 16).2 = .ok (.phys 0) ∧ paClass 0 = 0 ∧
    (acc .rmw (atomTarget { mem := some { local' := true, space := 1 } } tP.g (tP.g.lane 0) 0) 16).2 = .ok (.scr 1 0) :=
  ⟨by decide, by decide, by decide +kernel, by decide +kernel, by decide +kernel, by decide, by decide +kernel⟩

/-! ### Traps -/

/-- A lane whose register 0 holds 1. -/
def odd : Block := one [(0, 1)]

theorem witness_OperandAndAlignTraps_align : (1 : BitVec 3).toNat ≤ 4 ∧ (6 : BitVec 3).toNat ≤ 6 ∧ (tPath odd 1).exec {} = [0] ∧
    ((tPath odd 1).g.lane 0).npc = (tPath odd 1).iss.pc ∧ ((tPath odd 1).g.lane 0).hold = .none ∧ (tPath odd 1).g.stop = none ∧
    Runs (world odd 1) (tPath odd 1) (.ld 3 0 6 0 0 {}) {} ∧
    (globalAt {} (tPath odd 1) ((tPath odd 1).g.lane 0) 0 0 6).addr.toNat % accessBytes 6 ≠ 0 ∧
    Runs (world odd 1) (tPath odd 1) (.ld 3 0 1 0 0 {}) {} ∧ Runs (world odd 1) (tPath odd 1) (.stl 3 0 1 0 0 {}) {} ∧
    (globalAt {} (tPath odd 1) ((tPath odd 1).g.lane 0) 0 0 1).addr.toNat % accessBytes 1 ≠ 0 ∧
    (localAt {} (tPath odd 1) ((tPath odd 1).g.lane 0) 0 0 0 1).addr.toNat % accessBytes 1 ≠ 0 :=
  ⟨by decide, by decide, by decide, by decide, by decide, by decide, ⟨rfl, by decide, by decide +kernel⟩, by decide,
    ⟨rfl, by decide, by decide +kernel⟩, ⟨rfl, by decide, by decide +kernel⟩, by decide, by decide⟩

/-- A group with a budget of one chunk. -/
def small : Block := tBlock { tGroup [tLane []] with budget := 1 }

/-- Register 1 of lane 0 is poisoned. -/
def tainted : State := { tS with poison := [(.reg 1 0 0 1, [])] }

theorem witness_OperandAndAlignTraps_operand : pathOf (world small 1) = some (tPath small 1) ∧
    inBudget (.ialuAdd 8 1 2 {}) (tPath small 1).g = false ∧ (tPath small 1).exec {} ≠ [] ∧
    pathOf tainted = some tP ∧ inBudget (.ialuAdd 3 1 2 {}) tP.g = true ∧ tP.exec {} = [0] ∧
    poisonedReg tainted tP (.ialuAdd 3 1 2 {}) 0 = some 1 :=
  ⟨rfl, by decide, by decide, rfl, by decide, by decide, by decide +kernel⟩

theorem witness_OperandAndAlignTraps_forms :
    (∀ i ∈ [Instr.ialuAdd 8 1 2 {}, .movi 8 1 {}, .ibitPopc 3 8 {}, .cmovRdp 8 {}, .guestRdpc 7 {}, .narrowMxpk 8 1 {}],
      i.lext = some {} ∧ actsBeyond i = false ∧ inBudget i (tPath small 1).g = false) ∧
    (∀ i ∈ [Instr.ld 8 0 2 0 0 {}, .stl 8 0 2 1 0 {}, .atomCas 3 0 8 {}, .atomfxAdd 0 8 {}, .brxCall 8 {}],
      i.lext = some {} ∧ accesses i = true ∧ inBudget i (tPath small 1).g = false) ∧
    (tPath small 1).exec {} = [0] ∧ ((tPath small 1).g.lane 0).npc = (tPath small 1).iss.pc ∧
    ((tPath small 1).g.lane 0).hold = .none ∧ (tPath small 1).g.stop = none := by decide

theorem witness_OperandAndAlignTraps_others :
    (∀ e ∈ atomics 3 0 2 {}, inBudget e.1 (tPath odd 1).g = true ∧
      (atomTarget {} (tPath odd 1).g ((tPath odd 1).g.lane 0) 0).addr.toNat % e.2 ≠ 0) ∧
    (∀ i ∈ [Instr.ldfe 3 0 2 1 0 {}, .stfe 3 0 2 1 0 {}], inBudget i (tPath odd 1).g = true) ∧
    (feAt {} (tPath odd 1) ((tPath odd 1).g.lane 0) 0 0 1 2).addr.toNat % feLen 2 ≠ 0 ∧ (world odd 1).feq = [] ∧
    (tPath odd 1).lanes = [0] ∧ (world odd 1).poison = [] ∧
    let b := tBlock { tGroup [tLane []] with ureg := [(1, 4)] }
    URuns (world b 1) (tPath b 1) {} ∧ ((tPath b 1).g.usrc 1 + BitVec.ofInt 64 (simm none (0 : BitVec 13) * 8)).toNat % 8 ≠ 0 :=
  ⟨by decide, by decide, by decide, rfl, by decide, rfl, ⟨rfl, rfl⟩, by decide⟩

/-- The modifier of a packing instruction in stochastic mode whose random operand is r8, beyond the budget of 8 registers, and r3. -/
def sround (aux : BitVec 7) : LExt := { mod := some { p := 31, neg := false, rnd := 4, sat := false, ftz := false, aux := aux } }

theorem witness_OperandAndAlignTraps_random : pathOf (world small 1) = some (tPath small 1) ∧
    inBudget (.narrowPke4 3 1 2 (sround 8)) (tPath small 1).g = false ∧ (tPath small 1).exec (sround 8) ≠ [] ∧
    inBudget (.narrowPke4 3 1 2 { sround 8 with mod := none }) (tPath small 1).g = true ∧
    inBudget (.narrowPke5 8 1 2 (sround 3)) (tPath small 1).g = false ∧
    inBudget (.narrowPke5 8 1 2 { sround 3 with mod := none }) (tPath small 1).g = false :=
  ⟨rfl, by decide, by decide, by decide, by decide, by decide⟩


theorem witness_PrivilegeTraps : URuns tS tP {} ∧ tP.b.level1 = false ∧ ReadsAbove (0x048 : BitVec 12).toNat ∧
    ReadsAbove (0x09F : BitVec 12).toNat ∧ WritesAbove (0x010 : BitVec 12).toNat ∧ WritesAbove (0x037 : BitVec 12).toNat ∧
    WritesAbove (0x080 : BitVec 12).toNat :=
  ⟨uruns_one, by decide, .inl (by decide), .inr (by decide), .inl (by decide), .inr (.inr (.inl (by decide))), 
    .inr (.inr (.inr (.inr (.inr (.inr (.inr (.inl (by decide))))))))⟩

/-- A lane in a call as deep as its slice holds. -/
def deep : Block := tBlock (tGroup [{ tLane [] with cd := 16 }])

theorem witness_BreakAndCallTraps :
    Runs tS tP (.lsysBrk {}) {} ∧ tP.exec {} ≠ [] ∧ URuns tS tP {} ∧ tP.lanes ≠ [] ∧ tP.b.level1 = false ∧
    Runs (world deep 1) (tPath deep 1) (.call 31 0 0 {}) {} ∧ (tPath deep 1).exec {} = [0] ∧
    ((tPath deep 1).g.lane 0).npc = (tPath deep 1).iss.pc ∧ (tPath deep 1).g.stop = none ∧
    targetOk (world deep 1) (tPath deep 1).b
      (dispAddr (tPath deep 1) (0 : BitVec 19) - bodyStart (world deep 1) (tPath deep 1).b).toNat = true ∧
    ((tPath deep 1).g.lane 0).prd 31 ≠ ((0 : BitVec 1) == 1) ∧
    (tPath deep 1).b.privBytes < 4 * (((tPath deep 1).g.lane 0).cd + 1) ∧
    ((tPath deep 1).g.lane 0).hold = .none ∧ Runs (world deep 1) (tPath deep 1) (.brxCall 0 {}) {} ∧
    targetOk (world deep 1) (tPath deep 1).b (src32 (tPath deep 1).g ((tPath deep 1).g.lane 0) 0).toNat = true ∧
    Runs tS tP (.ctlRet {}) {} ∧ (tP.g.lane 0).hold = .none ∧ (tP.g.lane 0).npc = tP.iss.pc ∧ tP.g.stop = none ∧ (tP.g.lane 0).cd = 0 :=
  ⟨runs_one _ _ (by decide), by decide, uruns_one, by decide, by decide, ⟨rfl, by decide, by decide +kernel⟩, by decide,
    by decide, by decide, by decide +kernel, by decide, by decide, by decide, ⟨rfl, by decide, by decide +kernel⟩, by decide +kernel,
    runs_one _ _ (by decide), by decide, by decide, by decide, by decide⟩

/-- A lane that names offset 2, and one that returns there. -/
def astray : Block := one [(0, 2)]
def strayed : Block := tBlock (tGroup [{ tLane [] with cd := 1, priv := [(60, 2)] }])

theorem witness_BreakAndCallTraps_targets :
    Runs (world astray 1) (tPath astray 1) (.brxJmp 0 {}) {} ∧ Runs (world astray 1) (tPath astray 1) (.brxCall 0 {}) {} ∧
    (tPath astray 1).exec {} = [0] ∧ ((tPath astray 1).g.lane 0).npc = (tPath astray 1).iss.pc ∧
    ((tPath astray 1).g.lane 0).hold = .none ∧ (tPath astray 1).g.stop = none ∧
    targetOk (world astray 1) (tPath astray 1).b (src32 (tPath astray 1).g ((tPath astray 1).g.lane 0) 0).toNat = false ∧
    Runs (world strayed 1) (tPath strayed 1) (.ctlRet {}) {} ∧ (tPath strayed 1).exec {} = [0] ∧
    slicesClean (world strayed 1) (tPath strayed 1) ∧ 0 < ((tPath strayed 1).g.lane 0).cd ∧
    targetOk (world strayed 1) (tPath strayed 1).b (topReturn (tPath strayed 1) 0) = false :=
  ⟨⟨rfl, by decide, by decide +kernel⟩, ⟨rfl, by decide, by decide +kernel⟩, by decide, by decide, by decide, by decide,
    by decide +kernel, ⟨rfl, by decide, by decide +kernel⟩, by decide, fun _ h => (by cases h), by decide, by decide +kernel⟩

/-! ### Ends of threads, full/empty granules -/

/-- A group of two live lanes. -/
def two : Block := tBlock (tGroup [tLane [], tLane []])

theorem witness_ExitResults :
    (let p := tPath two 1;
      pathOf (world two 1) = some p ∧ p.exec {} ≠ [] ∧ p.b.views = [] ∧ p.g.family = none ∧ p.b.round = none ∧
      (∃ n ∈ p.g.live, n ∉ p.exec {}) ∧ ∀ n ∈ p.g.live, (p.g.lane n).hold = .none) ∧
    pathOf tS = some tP ∧ tP.exec {} ≠ [] ∧ tP.b.views = [] ∧ tP.g.family = none ∧ tP.b.round = none ∧
      (∀ n ∈ tP.g.live, n ∈ tP.exec {}) ∧ tP.b.liveGroups = [tP.iss.grp] :=
  ⟨⟨rfl, by decide, by decide, by decide, by decide, by decide, by decide⟩, rfl, by decide, by decide, by decide, by decide,
    by decide, by decide⟩

/-- No lane of the small machine is held. -/
theorem hold_one (m : Nat) : (tP.g.lane m).hold = .none := by
  have all : ∀ l ∈ tP.g.lanes, l.hold = .none := by decide
  unfold Group.lane
  cases h : tP.g.lanes[m]? with
  | none => rfl
  | some l => exact all l (List.mem_of_getElem? h)

theorem witness_FullEmptyResults :
    2 ≤ (2 : BitVec 3).toNat ∧ 2 ≤ (7 : BitVec 3).toNat ∧
    FeAlone tS tP (.ldfe 3 0 2 1 0 {}) {} 0 (feAt {} tP (tP.g.lane 0) 0 0 1 2) (feLen 2) (.scr 1 0) (.scr 1) 0 ∧
    FeAlone tS tP (.stfe 4 0 7 1 0 {}) {} 0 (feAt {} tP (tP.g.lane 0) 0 0 1 7) (feLen 7) (.scr 1 0) (.scr 1) 0 :=
  ⟨by decide, by decide,
    ⟨runs_one _ _ (by decide), by decide, by decide, by decide, by decide, fun m next h => by simp [hold_one] at h, by rfl,
      by decide +kernel, by decide⟩,
    ⟨runs_one _ _ (by decide), by decide, by decide, by decide, by decide, fun m next h => by simp [hold_one] at h, by rfl,
      by decide +kernel, by decide⟩⟩

end Sys2Proof.Tests
end

