-- ==== Sys2Proof/Tests/Witness3.lean ====
section
/-! SUPPORT. For the statements about uniform instructions: states and operands that meet their hypotheses. -/

namespace Sys2Proof.Tests

set_option Elab.async false

open Sys2Proof Sys2Proof.Machine Sys2Proof.Claims

/-- A block of one live lane whose group has some uniform registers. -/
def uni (ur : Cells DWord) : Block := tBlock { tGroup [tLane []] with ureg := ur }

/-- A block with a second group of one live lane. -/
def pair (ur : Cells DWord) : Block := { uni ur with groups := [{ tGroup [tLane []] with ureg := ur }, tGroup [tLane []]] }

/-- The machine of a block of one issuing lane, and its path. -/
def uS (b : Block) : State := world b 1
def uP (b : Block) : Path := tPath b 1

/-! ### Uniform arithmetic and moves, supervisor instructions and stops -/

theorem witness_UniformInstructionResults : URuns tS tP {} ∧
    targetOk tS tP.b (dispAddr tP (4 : BitVec 21) - bodyStart tS tP.b).toNat = true ∧
    pathOf tS = some tP ∧ uguardHolds { mod := some { q := 0, neg := false } } tP.g = false :=
  ⟨uruns_one, by decide +kernel, rfl, by decide⟩

theorem witness_UniformInstructionResults_guard :
    let x : UExt := { mod := some { q := 0, neg := false } }
    (∀ i ∈ [Instr.gangBaton 1 x, .perfSel 1 2 x, .cpyTens 2 4 1 1 x, .handleFill 1 x, .barSync 1 0 x],
      i.uext = some x ∧ meets i = false) ∧
    (∀ i ∈ [Instr.barArrive 1 1 3 x, .barSync 1 1 x, .taskPhase 1 x, .taskMerge x, .migAuto 1 x, .regaShrink 0 x],
      i.uext = some x ∧ meets i = true) ∧ ∀ n ∈ tP.g.live, n ∈ tP.lanes := by decide

theorem witness_UniformMoves : URuns tS tP {} ∧ tP.lanes ≠ [] ∧ (111 : BitVec 7).toNat < 8 * tP.g.budget ∧
    (checkAccess tS tP.b tP.iss.grp tP.lead .read (.global (tP.g.usrc 1 + BitVec.ofInt 64 (simm none (1 : BitVec 13) * 8))) 8).2 =
      .ok (.phys 8) ∧
    (checkAccess tS tP.b tP.iss.grp tP.lead .write (.global (tP.g.usrc 1 + BitVec.ofInt 64 (simm none (1 : BitVec 13) * 8))) 8).2 =
      .ok (.phys 8) ∧ storeLost tS tP.b.part (.phys 8) = false ∧
    isPoisoned tS (.reg tP.iss.blk tP.iss.grp tP.lead 111) = false ∧ (tP.g.usrc 1).toNat % 32 ∈ tP.lanes :=
  ⟨uruns_one, by decide, by decide, by decide +kernel, by decide +kernel, by decide +kernel, by decide, by decide⟩

/-- A block at level 1 with s1 = 64. -/
def sup (o : Origin) : Block := { uni [(1, 64)] with level1 := true, origin := o }

/-- A record. -/
def tRec : TrapRec := { cause := 0x12, src := 0 }

/-- A stop of two records, of which handlers have returned the first `n`. -/
def tStop (n : Nat) : StopSlot :=
  { slot := 0, blk := 9, grp := 0, recs := [{ tRec with returned := decide (0 < n) }, { tRec with returned := decide (1 < n) }],
    noffs := [], nl := 0 }

/-- The machine in which that block serves the second record. -/
def supS (o : Origin) (q : StopSlot) : State :=
  { uS (sup o) with parts := [(0, { tPart with ctxs := [(0, { tCtx with stops := [q] })] })] }

theorem witness_SupervisorAndStopResults :
    URuns (uS (sup .node)) (uP (sup .node)) {} ∧ (uP (sup .node)).b.level1 = true ∧ ((uP (sup .node)).g.usrc 1).toNat % 64 = 0 ∧
    canonical ((uP (sup .node)).g.usrc 0) = true ∧ ((uP (sup .node)).g.usrc 0).toNat % 2 ^ 57 % 65536 = 0 ∧
    ((uP (sup .node)).g.usrc 0).extractLsb' 4 12 = 0 ∧ ((uP (sup .node)).g.usrc 0).toNat < 16 ∧
    (uP (sup .node)).b.origin = .node ∧ (uP (sup .node)).lanes ≠ [] ∧ (uP (sup .node)).b.views = [] ∧
    (uP (sup .node)).g.family = none ∧ familyBroken (uS (sup .node)) (uP (sup .node)).g = false ∧
    URuns (supS (.handler 0 1) (tStop 0)) (uP (sup (.handler 0 1))) {} ∧
    (∃ q, stopOf (returnRec (killGroup (supS (.handler 0 1) (tStop 0)) 1 0) 0 0 0 1) 0 0 0 = some q ∧
      ∃ r ∈ q.recs, r.returned = false) ∧
    URuns (uS (sup (.notice tRec))) (uP (sup (.notice tRec))) {} :=
  ⟨⟨rfl, rfl⟩, by decide, by decide, by decide, by decide, by decide, by decide, by decide, by decide, by decide, by decide, by decide,
    ⟨rfl, rfl⟩, ⟨_, rfl, by decide +kernel⟩, ⟨rfl, rfl⟩⟩

/-- A block whose group is in the stop of slot 0. -/
def stopped : Block := tBlock { tGroup [tLane []] with stop := some { recs := [tRec], slot := some 0 } }

/-- Its stop, whose record is returned with ACT 2. -/
def doneStop : StopSlot := { slot := 0, blk := 1, grp := 0, recs := [{ tRec with returned := true, act := 2 }], noffs := [], nl := 0 }

/-- The machine with that stop. -/
def stoppedS : State := { uS stopped with parts := [(0, { tPart with ctxs := [(0, { tCtx with stops := [doneStop] })] })] }

theorem witness_SupervisorAndStopResults_returns :
    (stopOf (supS .node (tStop 2)) 0 0 0 = some (tStop 2) ∧ (∀ r ∈ (tStop 2).recs, r.returned = true) ∧
      (∀ b ∈ (partOf (supS .node (tStop 2)) 0).resume, b.id ≠ (tStop 2).blk) ∧
      blockOf (supS .node (tStop 2)) 9 = none ∧ (cfind (supS .node (tStop 2)).parts 0).isSome = true ∧
      (cfind (partOf (supS .node (tStop 2)) 0).ctxs 0).isSome = true) ∧
    stopOf stoppedS 0 0 0 = some doneStop ∧ (∀ r ∈ doneStop.recs, r.returned = true) ∧
    (∀ b ∈ (partOf stoppedS 0).resume, b.id ≠ doneStop.blk) ∧ blockOf stoppedS 1 = some stopped ∧
      (stopped.group 0).map (fun g => (g.stop.bind Stop.slot, g.family)) = some (some 0, none) ∧ stopped.liveGroups = [0] ∧
      ∃ r ∈ doneStop.recs, 2 ≤ r.act.toNat :=
  ⟨⟨rfl, by decide, by decide, rfl, rfl, rfl⟩, rfl, by decide, by decide, rfl, rfl, by decide, by decide⟩

/-! ### Barriers, completion, fences -/

theorem witness_BarrierResults :
    (let b := tBlock (tGroup [tLane [], tLane []]);
      (1 : BitVec 2) ≠ 0 ∧ pathOf (uS b) = some (uP b) ∧ 1 ∈ (uP b).g.live ∧ 1 ∉ (uP b).lanes ∧
      ((uP b).g.lane 1).hold ≠ .reconv) ∧
    (let b := uni [(1, 1)];
      URuns (uS b) (uP b) {} ∧ Together (uP b) 0 ∧ Together (uP b) 3 ∧ members (uS b) (slotKey (uP b) 0 1) < 2 ^ 31 ∧
      (slotOf (uS b) (slotKey (uP b) 3 0)).bind BarSlot.latch = none ∧
      0 < (((uP b).g.usrc 1).extractLsb' 0 32).toNat ∧
      (((uP b).g.usrc 1).extractLsb' 0 32).toNat ≤ members (uS b) (slotKey (uP b) 3 0) ∧
      (((uP b).g.usrc 1).extractLsb' 0 32).toNat < 2 ^ 31 ∧
      ∃ k, slotOf (uS b) (slotKey (uP b) 1 15) = some k ∧ k.expected + (((uP b).g.usrc 1).extractLsb' 0 32).toNat < 2 ^ 32) :=
  ⟨⟨by decide, rfl, by decide, by decide, by decide⟩, ⟨rfl, rfl⟩, .inl rfl, .inr (by decide), by decide +kernel,
    by decide +kernel, by decide, by decide +kernel, by decide, _, rfl, by decide⟩

/-- A group with an open load of its lane to the pool. -/
def reading : Block :=
  tBlock { tGroup [tLane []] with loads := { issued := 1, pend := [0], lanes := [(0, 1)], sys := [0] } }

theorem witness_BarrierResults_settled : URuns (uS reading) (uP reading) {} ∧ Together (uP reading) 3 ∧ ¬Settled (uP reading) ∧
    Settled tP ∧ Settled (uP (uni [(1, 1)])) := by
  refine ⟨⟨rfl, rfl⟩, .inr (by decide), fun h => absurd (h 0 (by decide)) (by decide), ?_, ?_⟩ <;> unfold Settled <;> decide

theorem witness_CompletionResults_acquire :
    (∃ n ∈ (uP reading).lanes, ∃ e ∈ (uP reading).g.loads.lanes, e.1 ∈ (uP reading).g.loads.sys ∧ e.2.getLsbD n = true) ∧
    unreleased (uS reading) (uP reading).b.part = false ∧
    ∀ n ∈ tP.lanes, ¬(∃ e ∈ tP.g.loads.lanes, e.1 ∈ tP.g.loads.sys ∧ e.2.getLsbD n = true) := by decide +kernel

theorem witness_SlotPhases : (slotOf tS (.grp 1 0 1)).isSome = true ∧ (slotOf tS (.blk 1 15)).isSome = true ∧
    (slotOf tS (.cls 1 7)).isSome = true ∧ (slotOf tS (.grd 1 3)).isSome = true := by decide +kernel

/-- A group with the oldest of 20 loads incomplete. -/
def loading : Block := tBlock { tGroup [tLane []] with loads := { issued := 20, pend := [0] } }

theorem witness_CompletionResults : URuns tS tP {} ∧ tP.g.loads.pend = [] ∧ tP.g.stores.pend = [] ∧ tP.g.copies.pend = [] ∧
    tP.g.tiles.pend = [] ∧ tP.g.copies.cmds = [] ∧ tP.g.tiles.cmds = [] ∧ tS.sysq = [] ∧ tS.posted = [] ∧
    URuns (uS loading) (uP loading) {} ∧ (∃ e ∈ (uP loading).g.loads.pend, ¬(uP loading).g.loads.issued ≤ e + 15) ∧
    unreleased { tS with posted := [(0, [1])] } tP.b.part = true ∧ URuns { tS with posted := [(0, [1])] } tP {} :=
  ⟨uruns_one, by decide, by decide, by decide, by decide, by decide, by decide, by decide, by decide, ⟨rfl, rfl⟩, by decide,
    by decide +kernel, ⟨rfl, rfl⟩⟩

/-! ### The matrix engine -/

/-- The machine of a block with the lease, its engine having some operations to perform. -/
def mS (b : Block) (ops : List MatOp) : State := { uS b with cores := [(0, { holder := some 1, ops := ops })] }

/-- An operation. -/
def tOp : MatOp := .mma 1 0 0 0 [] [] 0 0 0 0

theorem witness_MmaResults : (∀ ops ∈ [[tOp, tOp], [tOp, tOp, tOp]], Solo (mS (one []) ops) tP 0 80 0) ∧
    (groupOf (mS (one []) []) 1 0).isSome = true ∧ (coreOf (mS (one []) [tOp, tOp]) 0).ops.length ≤ 2 ∧ 2 < (coreOf (mS (one []) [tOp, tOp, tOp]) 0).ops.length :=
  ⟨fun ops h => ⟨path_one, by decide, by revert ops; decide +kernel, by decide, by decide, fun n k => rfl⟩, by decide +kernel, by decide +kernel,
    by decide +kernel⟩

theorem witness_FragmentResults : engineServes (mS (one []) []) tP.b tP.iss.grp = true ∧ (coreOf (mS (one []) []) tP.b.core).ops = [] ∧
    Runs (mS (one []) []) tP (.mfragRd 3 3 1 {}) {} ∧ Runs (mS (one []) []) tP (.mfragWr 3 0 1 {}) {} ∧ tP.exec {} = [0] ∧
    isPoisoned (mS (one []) []) (.acc tP.iss.blk 3 (elemOf 3 (src32 tP.g (tP.g.lane 0) 1) 0 % 4096)) = false ∧
    csorted (coreOf (mS (one []) []) tP.b.core).acc = true ∧ pathOf (mS (one []) []) = some tP :=
  ⟨by decide +kernel, by decide +kernel, ⟨rfl, by decide, by decide +kernel⟩, ⟨rfl, by decide, by decide +kernel⟩, by decide,
    by decide +kernel, by decide +kernel, rfl⟩

theorem witness_GangResults :
    (let b := pair [(1, 3)];
      URuns (uS b) (uP b) {} ∧ (∀ k ∈ (uS b).blocks, k.id = 1 → k.latch = []) ∧ ((uP b).g.usrc 1).toNat < 2 ^ 32 ∧
      2 ≤ (maskLanes (((uP b).g.usrc 1).setWidth 32)).length ∧ (maskLanes (((uP b).g.usrc 1).setWidth 32)).length ≤ 6 ∧
      (∀ g ∈ maskLanes (((uP b).g.usrc 1).setWidth 32), g ∈ (uP b).b.liveGroups) ∧
      maskLanes (((uP b).g.usrc 0).setWidth 32) = [] ∧
      (uP b).iss.grp = (uP b).b.lease.baton ∧ ((uP b).g.usrc 0).toNat < 32 ∧ ((uP b).g.usrc 0).toNat ∈ (uP b).b.liveGroups ∧
      (coreOf (uS b) (uP b).b.core).holder ≠ some 1) ∧
    (coreOf (mS (one []) []) 0).holder = some 1 ∧ (coreOf (mS (one []) []) 0).ops = [] ∧ URuns (mS (one []) []) tP {} :=
  ⟨⟨⟨rfl, rfl⟩, by decide, by decide, by decide, by decide, by decide, by decide, by decide, by decide, by decide,
    by decide +kernel⟩, by decide +kernel, by decide +kernel, ⟨rfl, rfl⟩⟩

end Sys2Proof.Tests
end

