-- ==== Sys2Proof/Tests/Witness4.lean ====
section
/-! SUPPORT. For the statements about engine commands, tasks, handles, registers and bindings: states and operands that meet
their hypotheses. -/

namespace Sys2Proof.Tests

set_option Elab.async false

open Sys2Proof Sys2Proof.Machine Sys2Proof.Claims

/-! ### Engine commands -/

/-- `cpy.lin` and `cpy.rect` of 16 bytes from global memory to core scratch, one row; `gather` of one row by index 0. -/
def copyRegs : Cells DWord := [(1, 0x1001), (5, 0x100001001)]

theorem witness_CopyAndGatherResults :
    (let p := uP (uni copyRegs);
      let s := uS (uni copyRegs);
      URuns s p {} ∧ (p.g.usrc 1).extractLsb' 6 2 = 0 ∧ ((p.g.usrc 1).extractLsb' 0 3).toNat ≤ 4 ∧
      ((p.g.usrc 1).extractLsb' 3 3).toNat ≤ 4 ∧ addrValue 1 (p.g.usrc 0) % 16 = 0 ∧ addrValue 0 (p.g.usrc 2) % 16 = 0 ∧
      ((p.g.usrc 1).extractLsb' 8 24).toNat = 16 ∧ (p.g.usrc 1).extractLsb' 32 32 = 0 ∧
      engAddr s p true 1 (p.g.usrc 0) 16 = .ok (.loc (.scr 1) 0) ∧ engAddr s p false 0 (p.g.usrc 2) 16 = .ok (.global 0) ∧
      (p.g.usrc 5).extractLsb' 48 16 = 0 ∧ ((p.g.usrc 5).extractLsb' 32 16).toNat = 1 ∧
      ((p.g.usrc 5).extractLsb' 8 24).toNat = 16 ∧ (p.g.usrc 5).extractLsb' 6 2 = 0 ∧ (p.g.usrc 5).extractLsb' 3 3 = 0 ∧
      engAddr s p true 1 (p.g.usrc 4) (1 * 16) = .ok (.loc (.scr 1) 0) ∧ 0 + 1 * 8 ≤ p.b.scrBytes) :=
  ⟨⟨rfl, rfl⟩, by decide, by decide, by decide, by decide, by decide, by decide, by decide, by rfl, by rfl, by decide,
    by decide, by decide, by decide, by decide, by rfl, by decide⟩

/-- A one-dimensional shape of 16 elements of one byte, in handle slot 1; a box of it in core scratch. -/
def tShape : List Byte := List.replicate 8 0 ++ [1, 0] ++ List.replicate 6 0 ++ [16, 0, 0, 0] ++ List.replicate 44 0
def boxed : Block := { uni [(1, 1), (2, 0x100001)] with scratch := [(0x14, 16)] }
def boxS : State :=
  { uS boxed with parts := [(0, { tPart with ctxs := [(0, { tCtx with handles := [(1, { obj := some (.shape tShape) })] })] })] }

theorem witness_CopyAndGatherResults_tens :
    (let p := uP boxed;
      let t := tensorOf tShape (scratchBytes boxS p 0 48);
      URuns boxS p {} ∧ (p.g.usrc 1).extractLsb' 3 5 = 0 ∧ (p.g.usrc 1).extractLsb' 8 40 = 0 ∧ (p.g.usrc 1).extractLsb' 49 15 = 0 ∧
      0 + 48 ≤ p.b.scrBytes ∧ scratchPoisoned boxS p 0 48 = false ∧
      objOf boxS p.b.part p.b.ctx ((p.g.usrc 2).setWidth 32) = some (.shape tShape) ∧ tensorBad (fieldAt tShape 8 1) t = false ∧
      t.extent.getD 0 1 * 2 ^ t.esz % 16 = 0 ∧ t.base.toNat % 16 = 0 ∧
      engAddr boxS p (!(p.g.usrc 1).getLsbD 48) 1 (p.g.usrc 0) t.bytes = .ok (.loc (.scr 1) 0)) :=
  ⟨⟨rfl, rfl⟩, by decide, by decide, by decide, by decide, by decide, by decide, by decide +kernel, by decide +kernel,
    by decide, by decide +kernel⟩

/-- A drain of f32 rows to global memory, and one of 16-bit rows. -/
def drained : Block := uni [(1, 0x10000), (3, 0x8080)]

theorem witness_DrainAndCollectiveResults_drain :
    (let p := uP drained;
      let s := mS drained [tOp, tOp];
      URuns s p {} ∧ engineServes s p.b p.iss.grp = true ∧ ((p.g.usrc 1).extractLsb' 0 3).toNat ≤ 4 ∧
      (p.g.usrc 1).extractLsb' 3 3 = 0 ∧ (p.g.usrc 1).extractLsb' 32 32 = 0 ∧ addrValue 0 (p.g.usrc 0) % 16 = 0 ∧
      ((p.g.usrc 1).extractLsb' 8 24).toNat = 256 ∧ engAddr s p true 0 (p.g.usrc 0) (63 * 256 + 256) = .ok (.global 0) ∧
      ((p.g.usrc 1).extractLsb' 6 2).toNat < 1 ∧ (coreOf s p.b.core).ops.length ≤ 2 ∧
      ((p.g.usrc 3).extractLsb' 6 2).toNat = 2 ∧ ((p.g.usrc 3).extractLsb' 8 24).toNat = 128 ∧
      2 < (coreOf (mS drained [tOp, tOp, tOp]) p.b.core).ops.length) :=
  ⟨⟨rfl, rfl⟩, by decide +kernel, by decide, by decide, by decide, by decide, by decide, by rfl, by decide, by decide +kernel,
    by decide, by decide, by decide +kernel⟩

/-- A collective of 16 bytes, with one element in DCOUNT, and the operator given. -/
def collects (op : Byte) : Block := { uni [] with scratch := [(1, op), (0x18, 16), (0x1C, 1)] }
def collS (op : Byte) : State := { uS (collects op) with colls := [(0, { members := 1, rank := 0 })] }

theorem witness_DrainAndCollectiveResults_collective : ∀ op ∈ [(0 : Byte), 9, 0xFF],
    (let p := uP (collects op);
      let s := collS op;
      let bs := scratchBytes s p 0 32;
      let field := fun o n => leNat ((bs.drop o).take n);
      pathOf s = some p ∧ uguardHolds {} p.g = true ∧ 0 + 32 ≤ p.b.scrBytes ∧ scratchPoisoned s p 0 32 = false ∧
      field 8 8 % 16 = 0 ∧ field 0x10 8 % 16 = 0 ∧ field 0 1 ≤ 31 ∧ field 0 1 ∈ (partOf s p.b.part).desc.eng ∧
      cfind s.colls (field 0 1) = some { members := 1, rank := 0 } ∧ field 0x18 4 = 16 ∧ field 0x1C 4 = 1 ∧ field 2 2 < 1 ∧
      field 1 1 = op.toNat) := by
  decide +kernel

/-! ### Tasks, migration, budgets, handles -/

/-- A block with a budget that a class holds, on a core with its split; core scratch holds a task descriptor of a kind. -/
def maker (kind : Byte) (o : Origin) : Block :=
  { tBlock { tGroup [tLane []] with budget := 7 } with scratch := [(2, kind)], origin := o }

/-- A kernel of that budget, with an EQP of number 5. -/
def tKernel : Kernel :=
  { installKernel with dbud := 8, lbud := 8, dsplit := (24, 8), lsplit := (24, 8), eqps := [{ id := 5, doff := 0, loff := 0, priv := 0, maps := [] }] }
def tVersion : Version := { installVersion 1 4096 with kernels := [tKernel] }
def taskS (b : Block) : State := { uS b with versions := [tVersion], cores := [(0, { split := some (24, 8) })] }

theorem quiet_node : Quiet (taskS (maker 0 .node)) (uP (maker 0 .node)) {} := ⟨⟨rfl, rfl⟩, by decide, rfl, rfl⟩

theorem quiet_child : Quiet (taskS (maker 0 (.child 7 63))) (uP (maker 0 (.child 7 63))) {} := ⟨⟨rfl, rfl⟩, by decide, rfl, rfl⟩

/-- The maker of children whose family of number 3 is open, and the machine that has it. -/
def parent : Block := { maker 1 .node with groups := [{ tGroup [tLane []] with budget := 7, family := some 3 }] }
def parentS : State := { taskS parent with families := [{ id := 3, part := 0, ctx := 0, views := [], used := [] }] }

theorem witness_TaskResults :
    taskTrap (taskS (maker 1 .node)) (uP (maker 1 .node)) true 0
      (taskDesc (scratchBytes (taskS (maker 1 .node)) (uP (maker 1 .node)) 0 32)) = none ∧
    taskTrap (taskS (maker 0 .node)) (uP (maker 0 .node)) false 0
      (taskDesc (scratchBytes (taskS (maker 0 .node)) (uP (maker 0 .node)) 0 32)) = none ∧
    (uP (maker 1 .node)).g.family = none ∧
    (URuns parentS (uP parent) {} ∧ (uP parent).g.family = some 3 ∧
      taskTrap parentS (uP parent) true 0 (taskDesc (scratchBytes parentS (uP parent) 0 32)) = none ∧ ∃ m ∈ parentS.families, m.id = 3) ∧
    Quiet (taskS (maker 0 .node)) (uP (maker 0 .node)) {} ∧ (uP (maker 0 .node)).g.family = none ∧
    (uP (maker 0 .node)).b.origin = .node ∧ (uP (maker 0 .node)).b.views = [] ∧
    (uP (maker 0 .node)).b.round = none ∧ (uP (maker 0 .node)).b.rdv = none ∧ (uP (maker 0 .node)).lanes ≠ [] ∧
    Quiet (taskS (maker 0 (.child 7 63))) (uP (maker 0 (.child 7 63))) {} :=
  ⟨by decide +kernel, by decide +kernel, by decide, ⟨⟨rfl, rfl⟩, rfl, by decide +kernel, _, List.mem_cons_self .., rfl⟩, quiet_node,
    by decide, rfl, by decide, by decide, by decide, by decide, quiet_child⟩

theorem witness_MigrateResults : ∀ kind ∈ [0, 1, 2],
    Quiet (taskS (pair [])) (uP (pair [])) {} ∧ migFault (taskS (pair [])) (uP (pair [])) kind (5 : BitVec 12).toNat = none ∧
    kernelOf (taskS (pair [])) (uP (pair [])).b = some tKernel ∧ 1 ∈ (uP (pair [])).b.liveGroups ∧ 1 ≠ (uP (pair [])).iss.grp ∧
    (∀ r, (uP (pair [])).b.rdv = some r → 1 ∉ r.arrived ∧ r.ready = false) := by
  intro kind h
  refine ⟨⟨⟨rfl, rfl⟩, by decide, rfl, rfl⟩, ?_, rfl, by decide, by decide, fun r e => nomatch e⟩
  revert kind; decide +kernel

/-- The same machine with a grow that waits. -/
def growS : State := { taskS (maker 0 .node) with cores := [(0, { split := some (24, 8), regaQueue := [{ blk := 1, grp := 0, units := 1 }] })] }

theorem witness_BudgetResults :
    (let p := uP (maker 0 .node);
      let s := taskS (maker 0 .node);
      Quiet s p {} ∧ (1 : BitVec 13) ≠ 0 ∧ (6 : BitVec 13).toNat < p.g.budget ∧ growTooFar s p 1 = false ∧
      (coreOf s p.b.core).regaQueue = [] ∧ (allocChunks (coreOf s p.b.core) 1 0 p.g.budget 1).isSome = true ∧
      Quiet growS p {} ∧ growTooFar growS p 1 = false ∧ (coreOf growS p.b.core).regaQueue ≠ [] ∧
      growTooFar s p (8191 : BitVec 13).toNat = true ∧ p.g.budget ≤ (7 : BitVec 13).toNat) :=
  ⟨quiet_node, by decide, by decide, by decide +kernel, by decide +kernel, by decide +kernel, ⟨⟨rfl, rfl⟩, by decide, rfl, rfl⟩,
    by decide +kernel, by decide +kernel, by decide +kernel, by decide⟩

/-- A tile of 16 bytes of core scratch in handle slot 1, whose handle is in s1; the words of `handle.alloc` in s2 to s7: offset 0 of core
scratch, of shared memory, of a die scratchpad; 16 bytes; and for a sequence. -/
def handled : Block :=
  uni [(1, 0x100001), (2, 0x100000000), (3, 16), (4, 0x200000000), (5, 0x1000000000000000), (6, 0x300000000)]

/-- The machine of that block with a handle table. -/
def handlesS (hs : Cells HSlot) : State :=
  { uS handled with parts := [(0, { tPart with ctxs := [(0, { tCtx with handles := hs })] })] }
def handleS : State := handlesS [(1, { obj := some (.tile (.scr 1) 0 16 false) })]

theorem witness_HandleResults :
    (let p := uP handled;
      let v := p.g.usrc 2;
      let w := p.g.usrc 3;
      let h := (p.g.usrc 1).extractLsb' 0 32;
      URuns handleS p {} ∧ w.extractLsb' 60 4 = 0 ∧ w.extractLsb' 17 43 = 0 ∧ v.extractLsb' 35 29 = 0 ∧ v.extractLsb' 32 3 = 1 ∧
      (w.extractLsb' 0 17).toNat = 16 ∧ (v.extractLsb' 0 32).toNat = 0 ∧ 0 + 64 ≤ p.b.scrBytes ∧
      (p.g.usrc 5).extractLsb' 60 4 = 1 ∧ scratchPoisoned handleS p 0 64 = false ∧
      objOf handleS p.b.part p.b.ctx h = some (.tile (.scr 1) 0 16 false) ∧ handleS.families = [] ∧
      tileOf handleS p.b.part p.b.ctx h = some { space := .scr 1, base := 0, size := 16, staging := false } ∧ handleS.feq = [] ∧
      unitLives handleS (.scr 1) = true) :=
  ⟨⟨rfl, rfl⟩, by decide, by decide, by decide, by decide, by decide, by decide, by decide, by decide, by decide, by rfl,
    by decide, by rfl, by decide, by rfl⟩

/-- The tiles of the other spaces: 16 bytes of shared memory of a cluster that has them, and of a die scratchpad. -/
def sharedS : State := { handleS with clusters := [{ id := 1, grid := 1, const := 0, bytes := 16, slots := [], total := 1 }] }

theorem witness_HandleResults_spaces :
    (let p := uP handled;
      URuns sharedS p {} ∧ (p.g.usrc 4).extractLsb' 35 29 = 0 ∧ (p.g.usrc 4).extractLsb' 32 3 = 2 ∧
      (clusterOf sharedS p.b.cluster).map Cluster.bytes = some 16 ∧ ((p.g.usrc 4).extractLsb' 0 32).toNat = 0 ∧
      (p.g.usrc 6).extractLsb' 35 29 = 0 ∧ (p.g.usrc 6).extractLsb' 32 3 = 3 ∧ ((p.g.usrc 6).extractLsb' 0 32).toNat = 0 ∧
      dspAddr (partOf handleS p.b.part).desc 0 16 = some 0) :=
  ⟨⟨rfl, rfl⟩, by decide, by decide, by rfl, by decide, by decide, by decide, by decide, by decide +kernel⟩

/-- Slot 2 is the lowest free one of that table. -/
theorem witness_HandleResults_slot :
    (cfind handleS.parts 0).isSome = true ∧ (cfind (partOf handleS 0).ctxs 0).isSome = true ∧
    slotFree (ctxOf handleS 0 0).handles 2 ∧ ∀ j, 1 ≤ j → j < 2 → ¬slotFree (ctxOf handleS 0 0).handles j := by
  have h2 : cfind (ctxOf handleS 0 0).handles 2 = none := by rfl
  have h1 : cfind (ctxOf handleS 0 0).handles 1 = some { obj := some (.tile (.scr 1) 0 16 false) } := by rfl
  refine ⟨by decide, by decide, fun e h => by simp [h2] at h, fun j _ hj h => ?_⟩
  obtain rfl : j = 1 := by omega
  exact absurd (h _ h1).1 (by decide)

/-- A table whose slots all hold an object has no free one. -/
theorem cfind_all (e : HSlot) (k : Nat) : ∀ l : List Nat, k ∈ l → cfind (l.map fun j => (j, e)) k = some e
  | i :: l, h => by
    by_cases hi : i = k
    · simp [cfind, hi]
    · have := cfind_all e k l ((List.mem_cons.1 h).resolve_left fun c => hi c.symm)
      simp [cfind, this, Ne.symm hi]

theorem uruns_handles (hs : Cells HSlot) : URuns (handlesS hs) (uP handled) {} :=
  have h : pathOf (handlesS hs) = pathOf (uS handled) := by simp only [pathOf, handlesS, blockOf]; rfl
  ⟨h.trans rfl, rfl⟩

theorem handles_of (hs : Cells HSlot) : (ctxOf (handlesS hs) 0 0).handles = hs := rfl

theorem witness_HandleResults_full : ∃ hs, URuns (handlesS hs) (uP handled) {} ∧
    ∀ k, 1 ≤ k → k < 2 ^ 20 → ¬slotFree (ctxOf (handlesS hs) 0 0).handles k := by
  refine ⟨(List.range (2 ^ 20)).map fun j => (j, { obj := some .seq }), uruns_handles _, fun k _ h hf => ?_⟩
  rw [handles_of] at hf
  have h0 := (hf _ (cfind_all { obj := some .seq } k _ (List.mem_range.2 h))).1
  exact absurd h0 (by simp)

/-! ### System registers, counters, bindings -/

theorem witness_SystemRegisterResults :
    URuns tS tP {} ∧ sysValue tS tP 0x030 = some 0 ∧ ¬ReadsAbove 0x030 ∧ ¬WritesAbove 0x030 ∧
    (∀ n ∈ [0x010, 0x013, 0x034, 0x037, 0x040, 0x090, 0x09F], (sysValue (uS (sup .node)) (uP (sup .node)) n).isSome = true) ∧
    URuns (uS (sup .node)) (uP (sup .node)) {} ∧ (uP (sup .node)).b.level1 = true ∧ ¬(0x041 ≤ 0x09F ∧ 0x09F ≤ 0x048) ∧
    (cfind tS.parts 0).isSome = true ∧ (cfind (partOf tS 0).ctxs 0).isSome = true ∧ (ctxOf tS 0 0).gbp.length = 4 ∧
    (ctxOf tS 0 0).trc.length = 16 ∧ sysValueBad tS tP 0x030 (tP.g.usrc 0) = false ∧
    (∀ n, n ≠ 0x060 → n ≠ 0x071 → n = 0x030 → sysValue tS tP n = some 0) :=
  ⟨uruns_one, by decide +kernel, by unfold ReadsAbove; omega, by unfold WritesAbove; omega, by decide +kernel, ⟨rfl, rfl⟩, by decide,
    by decide, by decide, by decide, by decide, by decide, by decide +kernel, fun n _ _ h => by subst h; decide +kernel⟩

/-- The trap registers: a handler of a stop's second record, a handler of a notice, and a level-1 group that is neither; s1 holds 64. -/
theorem witness_SystemRegisterResults_traps :
    (let s := supS (.handler 0 1) (tStop 0);
      let p := uP (sup (.handler 0 1));
      URuns s p {} ∧ p.b.level1 = true ∧ servedRec s p.b = some (tRec, 0, 2) ∧ p.b.origin = .handler 0 1 ∧
      stopOf s p.b.part p.b.ctx 0 = some (tStop 0) ∧ (tStop 0).recs[1]? = some tRec ∧ (p.g.usrc 1).extractLsb' 10 2 ≠ 3) ∧
    (let s := uS (sup (.notice tRec));
      let p := uP (sup (.notice tRec));
      URuns s p {} ∧ p.b.level1 = true ∧ servedRec s p.b = some (tRec, 0, 1) ∧ p.b.origin = .notice tRec ∧ tRec.cmd = none ∧
      (p.g.usrc 1).extractLsb' 10 2 ≠ 3) ∧
    URuns (uS (sup .node)) (uP (sup .node)) {} ∧ (uP (sup .node)).b.level1 = true ∧
    servedRec (uS (sup .node)) (uP (sup .node)).b = none ∧ 0x041 ≤ (0x041 : BitVec 12).toNat ∧ (0x048 : BitVec 12).toNat ≤ 0x048 :=
  ⟨⟨⟨rfl, rfl⟩, rfl, by rfl, rfl, by rfl, by rfl, by decide⟩, ⟨⟨rfl, rfl⟩, rfl, by rfl, rfl, rfl, by decide⟩, ⟨rfl, rfl⟩, rfl, by rfl,
    by decide, by decide⟩

/-- The counters: s1 selects counter 61, s2 an event with its notice, s3 counter 62; s4 asks for samples by the descriptor at 0. -/
def counted' : Block := uni [(1, 61), (2, 0x8005), (3, 62), (4, 1), (5, 0x800000001)]

theorem witness_CounterResults :
    (let p := uP counted';
      let s := uS counted';
      URuns s p {} ∧ cget 0 (ctxOf s p.b.part p.b.ctx).sels 61 < 0x070 ∧ (p.g.usrc 1).toNat % 64 < 62 ∧
      EventCode ((p.g.usrc 2).extractLsb' 0 12).toNat ∧ 62 ≤ (p.g.usrc 3).toNat % 64 ∧
      ¬EventCode ((p.g.usrc 1).extractLsb' 0 12).toNat ∧ (p.g.usrc 0).extractLsb' 0 32 = 0 ∧
      (ctxOf s p.b.part p.b.ctx).sampling.ring = none) :=
  ⟨⟨rfl, rfl⟩, by decide +kernel, by decide, by unfold EventCode; decide, by decide, by unfold EventCode; decide, by decide,
    by decide +kernel⟩

theorem witness_CounterResults_former :
    (let c := { tCtx with former := [(61, 0, 0, false)], sels := [(61, 5)] };
      csorted c.counters = true ∧ cfind c.former 61 = some (0, 0, false) ∧ 5 ≠ (if 0 = State.reset.clk then 0 else cget 0 c.sels 61)) := by
  decide +kernel

/-- A descriptor of a ring of 16 records at 64 of the die scratchpad, and a context that has that ring. -/
def ringed (full : List Nat) : State :=
  { uS counted' with
    dsp := [(0, 64), (4, 16)]
    dspFull := full
    parts := [(0, { tPart with ctxs := [(0, { tCtx with sampling := { ring := some (64, 16) } })] })] }

theorem witness_CounterResults_ring :
    (let p := uP counted';
      let s := ringed [];
      URuns s p {} ∧ (p.g.usrc 4).extractLsb' 0 32 ≠ 0 ∧ ((p.g.usrc 4).extractLsb' 32 32).toNat = 0 ∧
      dspAddr (partOf s p.b.part).desc 0 16 = some 0 ∧ placePoisoned s (.dsp 0) 16 = false ∧ dspNum s 0 4 = 64 ∧
      dspNum s 4 4 = 2 ^ 4 ∧ 64 % 32 = 0 ∧ (dspAddr (partOf s p.b.part).desc 64 (32 * 2 ^ 4)).isSome = true ∧
      (p.g.usrc 5).extractLsb' 0 32 ≠ 0 ∧ ((p.g.usrc 5).extractLsb' 32 32).toNat % 16 ≠ 0) ∧
    (let p := uP counted';
      let s := ringed [];
      (ctxOf s p.b.part p.b.ctx).sampling.ring = some (64, 16) ∧
      dspAddr (partOf s p.b.part).desc (64 + 32 * ((ctxOf s p.b.part p.b.ctx).sampling.widx % 16)) 32 = some 64 ∧
      isFull s .dsp (64 / 16) = false ∧ isFull s .dsp (64 / 16 + 1) = false ∧ s.feq = [] ∧ csorted s.dsp = true ∧
      URuns (ringed [4]) p {} ∧ isFull (ringed [4]) .dsp (64 / 16) = true ∧ (ctxOf (ringed [4]) 0 0).sampling.ring = some (64, 16)) := by
  refine ⟨⟨⟨rfl, rfl⟩, ?_⟩, ?_⟩
  · decide +kernel
  · exact ⟨by decide +kernel, by decide +kernel, by decide +kernel, by decide +kernel, by decide +kernel, by decide +kernel, ⟨rfl, rfl⟩,
      by decide +kernel, by decide +kernel⟩

/-- The words of `bfq` in s0 to s3: unit 32, rows of 16 bytes, weight handle 0x100001, sequence handle 0x100001. -/
def bfqBlock : Block := uni [(0, 0x100001), (2, 0x2000100010), (4, 0x2000100001)]

/-- One row of the sequence, in a pair that gathers. -/
def tRow : BfqRow :=
  { sequence := 0x100001, act := 0, res := 0, key := .blk 1 0, part := 0, ctx := 0, trc := 0, level1 := false, blk := 1, grp := 0,
    core := 0, pc := 0 }
def tBfq : Bfq :=
  { part := 0, ctx := 0, launch := 0, node := 0, ver := 1, core := 0, prio := 0, weight := 0, entry := 0, ra := 16, rb := 16,
    pairs := [{ act := 0, res := 0, rows := [tRow] }], gathering := some 0 }

/-- A partition with 1 MiB of low scratchpad and a sequence in handle slot 1. -/
def bfqPart : Part :=
  { tPart with desc := { tPart.desc with dspr := [1, 0, 0, 0] }, ctxs := [(0, { tCtx with handles := [(1, { obj := some .seq })] })] }

/-- The machine with the unit bound or not. -/
def bfqS (bound : Bool) : State :=
  { uS bfqBlock with parts := [(0, bfqPart)], bfqs := if bound then [(32, tBfq)] else [] }

theorem witness_BatchResults :
    (let p := uP bfqBlock;
      let v := p.g.usrc 2;
      let u := (v.extractLsb' 32 8).toNat;
      URuns (bfqS false) p {} ∧ u = 32 ∧ u ∈ (partOf (bfqS false) p.b.part).desc.eng ∧
      rowBytesOk (v.extractLsb' 0 16).toNat = true ∧ rowBytesOk (v.extractLsb' 16 16).toNat = true ∧
      cfind (bfqS false).bfqs u = none ∧ (stagingRoom (bfqS false) p 32 16 16).isSome = true ∧
      ((versionOf (bfqS false) p.b.ver).bind fun k => k.entries[((p.g.usrc 0).extractLsb' 32 12).toNat]?).isSome = true ∧
      (objOf (bfqS false) p.b.part p.b.ctx ((p.g.usrc 0).extractLsb' 0 32)).isSome = true ∧
      URuns (bfqS true) p {} ∧ (cfind (bfqS true).bfqs 32).map Bfq.releasing = some false ∧ (p.g.usrc 6).toNat % 16 = 0 ∧
      objOf (bfqS true) p.b.part p.b.ctx ((p.g.usrc 4).extractLsb' 0 32) = some .seq ∧ p.g.stores.pend = [] ∧
      (cfind (bfqS true).bfqs 32).map (fun q => q.pairs.map fun e => e.rows.map BfqRow.sequence) =
        some [[(p.g.usrc 4).extractLsb' 0 32]]) :=
  ⟨⟨rfl, rfl⟩, by decide, by decide +kernel, by decide, by decide, by decide, by decide +kernel, by decide +kernel, by decide +kernel,
    ⟨rfl, rfl⟩, by decide +kernel, by decide, by decide +kernel, by decide, by decide +kernel⟩

/-- A binding whose first pair gathers and holds nothing, to whose activation tile a row is copied. -/
def openS : State := { bfqS false with bfqs := [(32, { tBfq with pairs := [{ act := 0, res := 0 }, { act := 16, res := 16 }] })] }
def joins : BfqRow :=
  { sequence := 0x100001, act := 0x100001, res := 0, key := .blk 1 0, part := 0, ctx := 0, trc := 0, level1 := false, blk := 1, grp := 0
    core := 0, pc := 0 }

theorem witness_BatchResults_joins :
    (let p := uP bfqBlock;
      URuns openS p {} ∧ (cfind openS.bfqs 32).map (fun q => (q.releasing, q.gathering, q.held.length, q.pairs.map fun e => e.rows.length)) =
        some (false, some 0, 0, [0, 0]) ∧
      objOf openS p.b.part p.b.ctx ((p.g.usrc 4).extractLsb' 0 32) = some .seq ∧ p.g.stores.pend = [] ∧ (p.g.usrc 6).toNat % 16 = 0 ∧
      slotKey p 1 0 = .blk 1 0 ∧ (copyRun (atNext openS p) ({ joins with act := p.g.usrc 6 }.source (.tile 0 (0 * 16))) 0 1).2 = .ok ()) :=
  ⟨⟨rfl, rfl⟩, by decide +kernel, by decide +kernel, by decide, by decide, by decide, by decide +kernel⟩

end Sys2Proof.Tests
end

