-- ==== Sys2Proof/Tests/Witness5.lean ====
section
/-! SUPPORT. For the statements about the pool, power, links, errors and the ladder: states and operands that meet their
hypotheses. -/

namespace Sys2Proof.Tests

set_option Elab.async false

open Sys2Proof Sys2Proof.Machine Sys2Proof.Claims

/-! ### The pool, power, clocks and links -/

/-- A line with a merged byte, a queued store to it, a posted byte; 400,000,000 cycles have passed. -/
def wS : State :=
  { tS with poolLines := [(0, { st := .M, dirty := [(3, 7)] })], sysq := [{ addr := 5, byte := 1 }], posted := [(0, [1])],
            clk := 400000000 }

theorem witness_WorldEvents_coherence : paClass (2 ^ 44) = 1 ∧ cfind wS.poolLines 0 = some { st := .M, dirty := [(3, 7)] } ∧
    poolUp wS = true ∧ 63 < 64 ∧ { addr := 5, byte := 1 } ∈ wS.sysq ∧ 5 / 64 = 0 ∧ wS.poolDead = false ∧ wS.cxlUp ≠ [] ∧
    wS.posted = (0, [1]) :: [] ∧ wS.portsUp ≠ [] ∧ tS.posted = [] ∧ tS.portsUp ≠ [] := by
  decide +kernel

/-- Die 0 is hot; no port and no CXL port is up. -/
def downS : State := { wS with hotDies := [0], portsUp := [], cxlUp := [] }

theorem witness_WorldEvents_power :
    wS.windowAt + 3000 ≤ wS.clk ∧ { wS with budgetMode := true }.capBefore = wS.cap ∧ 0 < wS.cap ∧ 105 < 106 ∧ 3 < Config.dies ∧
    wS.hotDies = [] ∧ downS.hotDies ≠ [] ∧ { downS with clk := 2999999 }.clk < downS.coolAt + 3000000 ∧ downS.coolAt + 3000000 ≤ downS.clk ∧ 0 ∈ downS.hotDies ∧ (cfind downS.hotAt 0).getD 0 + 300000000 ≤ downS.clk ∧
    wS.locked = false ∧ wS.portsUp ≠ [] ∧ 15 ∈ wS.portsUp ∧ 15 ∉ downS.portsUp ∧ 15 < 16 ∧
    (partOf downS 0).desc.hostw[0]? = some (0, 1, 0) ∧ downS.portsUp = [] ∧ downS.portsAt + 3000000 ≤ downS.clk ∧
    0 ∉ (partOf downS 0).lost ∧ 1 ∈ wS.cxlUp ∧ 1 ∉ downS.cxlUp ∧ 1 < 2 ∧ downS.cxlUp = [] ∧ downS.cxlAt + 30000000 ≤ downS.clk ∧
    downS.poolDead = false ∧ { wS with locked := true }.locked = true ∧ { wS with ptpLost := true }.ptpLost = true ∧
    cfind wS.parts 0 = some tPart ∧ 0 < tPart.desc.hostw.length := by
  decide +kernel

/-- Host windows whose posted accesses are and are not resolved, a lease that shows nothing older, temperatures at the bounds. -/
theorem witness_WorldEvents_ports :
    tPart.desc.hostw[0]? = some (0, 1, 0) ∧ (wS.posted.any fun e => inWindows [(0, 1)] e.1) = true ∧
    (tS.posted.any fun e => inWindows [(0, 1)] e.1) = false ∧ (cfind tPart.winPorts 0).getD 0 ∈ wS.portsUp ∧
    (cfind tPart.winPorts 0).getD 0 ∉ [3, 15] ∧ 99 < 100 ∧ 100 ≤ 105 ∧
    ({ core := 0, line := 0 } : PoolLease).line = 5 / 64 ∧ cfind ({ core := 0, line := 0 } : PoolLease).stale 5 = none ∧
    csorted ({ core := 0, line := 0, stale := [(5, 1), (6, 2)] } : PoolLease).stale = true ∧
    [5, 6] ∈ ({ core := 0, line := 0, runs := [[5, 6]] } : PoolLease).runs ∧ (∀ q ∈ [(5, (1 : Byte)), (63, 2)], q.1 < 64) := by
  decide +kernel

/-- A partition on die 0 draws more than its share of none when the free value of Config says that it draws anything; none is on die 3. -/
theorem witness_WorldEvents_current (h : 0 < Config.supplyCurrent (wS.tick * 32 + 0)) :
    (((onDie wS 0).map fun p => (cfind (partOf wS p).dieAllowed 0).getD 0).sum <
      ((onDie wS 0).map fun p => Config.supplyCurrent (wS.tick * 32 + p)).sum) ∧ onDie wS 3 = [] := by
  have e : onDie wS 0 = [0] := by decide +kernel
  have a : (cfind (partOf wS 0).dieAllowed 0).getD 0 = 0 := by decide +kernel
  refine ⟨?_, by decide +kernel⟩
  rw [e]
  simpa [a] using h

/-! ### Errors -/

/-- Core 0 has had 999 corrected errors, DRAM channel 0 none; a cluster has shared memory. -/
def errS : State :=
  { tS with corrected := [((0, 0), 999)], clusters := [{ id := 1, grid := 1, const := 3, base := 8192, bytes := 4096, slots := [], total := 1 }] }

theorem witness_ErrorEvents :
    unitOwner errS (.line 0) = some 0 ∧ correctedOf errS (unitNumber errS (.line 0)) + 1 < 1000 ∧ unitOwner errS (.scratch 1 0) = some 0 ∧
    1000 ≤ correctedOf errS (unitNumber errS (.scratch 1 0)) + 1 ∧ unitThere errS (.scratch 1 255) = true ∧
    unitOwner errS (.l2 64) = some 0 ∧ unitThere errS (.l2 64) = true ∧ unitOwner errS (.unowned 0 0) = some 0 ∧
    unitThere errS (.unowned 0 0) = true ∧ (clusterOf errS 1).map Cluster.const = some 3 ∧ 3 < 64 ∧ ownerOf errS 9 = some 0 := by
  decide +kernel

theorem witness_ErrorEvents_words : pathOf tS = some tP ∧ URuns tS tP { mod := none } := ⟨path_one, uruns_one⟩

/-! ### The ladder -/

/-- The machine with the partition on a rung, enabled or not, whose control endpoint answers peer 1. -/
def onRung (r : Rung) (en : Bool) : State :=
  { tS with
    parts := [(0, { tPart with
      rung := r
      en := en
      eps := [{ control := true, index := 0, ctx := 0, trc := 0, enabled := true, peer := 1 }] })]
    clk := 400000000 }

theorem witness_LadderEvents_endpoint : answersParts (onRung .none true) = true ∧ answersParts (onRung (.soft true) false) = true ∧
    controlled (onRung .none true) 0 1 = true ∧ controlled (onRung .none true) 0 2 = false ∧
    (cfind (onRung .none true).parts 0).isSome = true ∧ (onRung (.soft true) false).emergency = none ∧
    answersParts { onRung (.soft true) false with emergency := some (0, 126) } = true ∧
    controlled { onRung (.soft true) false with emergency := some (0, 126) } 0 1 = true := by
  decide +kernel

theorem witness_LadderEvents :
    (cfind (onRung .none true).parts 0).map (fun q => (q.rung, q.en, q.desc.slice)) = some (.none, true, 1) ∧
    (cfind (onRung (.soft true) false).parts 0).map (fun q => (q.rung, q.en, q.rungAt)) = some (.soft true, false, 0) ∧
    (cfind (onRung (.halt true) false).parts 0).map (fun q => (q.rung, q.en, q.rungAt)) = some (.halt true, false, 0) ∧
    tPart.sliceAt + 3000 * tPart.desc.slice ≤ (onRung .none true).clk ∧ liveCtx (onRung .none true) 0 = true ∧
    resident (onRung .none true) 0 tPart.running = true ∧ liveCtx { onRung .none true with blocks := [] } 0 = true ∧
    resident { onRung .none true with blocks := [] } 0 tPart.running = false ∧
    tPart.rungAt + tPart.desc.grace ≤ (onRung (.soft true) false).clk ∧
    liveCtx (onRung (.halt true) false) 0 = true ∧ tPart.rungAt + tPart.desc.kill ≤ (onRung (.halt true) false).clk ∧
    (partOf (onRung (.halt true) false) 0).en = false ∧ tS.boot.powered = true ∧ 3 < Config.dies ∧ tS.emergency = none ∧
    (cfind tS.parts 0).isSome = true ∧ slotStatus { readable := [false, false] } 0 ≠ 0 ∧
    slotStatus { readable := [false, false] } 1 ≠ 0 := by
  decide +kernel

/-- A task record of partition 0 that is queued, as a hold of its context begins. -/
def aging : TaskRec :=
  { id := 1, part := 0, ctx := 0, launch := 0, node := 0, ver := 1, entry := 0, prio := 0, kind := .phase [] [], live := 1, us := []
    carry := [], made := 0, queued := true }
def agingS : State := { tS with recs := [aging] }

theorem witness_LadderEvents_ages : aging ∈ agingS.recs ∧ aging.part = 0 ∧ aging.ctx = 0 ∧ aging.queued = true := by
  decide +kernel

/-- In an emergency no context of this machine is live once its partition has none. -/
theorem witness_LadderEvents_emergency :
    (let s := { tS with parts := [(0, { tPart with ctxs := [] })] };
      s.boot.powered = true ∧ s.emergency = none ∧
      (s.parts.map Prod.fst).any (liveCtx ((s.parts.map Prod.fst).foldl climb { s with emergency := some (3, 126) })) = false) := by
  decide +kernel

/-- What the checks of a readable image slot come to: they pass when the free values of Config say so. -/
theorem witness_LadderEvents_boot (h : Config.imageDigestOk [] = true) (k : Config.mldsaVerify [] = true) :
    slotStatus {} 0 = 0 ∧ slotStatus {} 1 = 0 := by
  simp [slotStatus, h, k]

end Sys2Proof.Tests
end

