-- ==== Sys2Proof/Tests/Witness6.lean ====
section
/-! SUPPORT. For the statements about launches and scheduling: states and operands that meet their hypotheses. -/

namespace Sys2Proof.Tests

set_option Elab.async false

open Sys2Proof Sys2Proof.Machine Sys2Proof.Claims

/-- A launch of version 1 whose node stands as given. -/
def tLaunch (n : NodeRun) : Launch := { idx := 0, ctx := 0, graph := 2, ver := 1, word := 2, seq := 0, nodes := [n] }

/-- The machine with the kernel of `maker`, some launches, a queue, and waiting saved blocks. -/
def launchS (v : Version) (q : Part → Part) : State :=
  { taskS (maker 0 .node) with
    versions := [v, { v with id := 99, frames := [5] }]
    parts := [(0, q { tPart with launchSeq := 1, ctxs := [(0, { tCtx with graphs := [(2, { live := true, ver := 1, nver := 1 })] })] })] }

/-- A version none of whose kernels a core holds. -/
def bigVersion : Version := { tVersion with kernels := [{ tKernel with cshb := 2 ^ 30 }] }

/-- The machine whose DONE address, 131072, is a page of the pool. -/
def doneS (w : DWord) : State :=
  { launchS { tVersion with done := 131072 } fun q => { q with launches := [{ tLaunch { started := true, placed := 1 } with word := w }] } with
    blocks := [], dram := [(0, 13), (8, 13), (10, 1), (16, 13), (17, 1), (21, 16)] }

theorem witness_LaunchAndScheduleEvents_start :
    (let s := launchS tVersion fun q => { q with queue := [2] };
      places s 0 0 = true ∧ (partOf s 0).en = true ∧ (∀ l ∈ (partOf s 0).launches, ¬(l.ctx = 0 ∧ l.graph = 2 ∧ wordGen l.word = wordGen 2)) ∧
      cfind (ctxOf s 0 0).graphs 2 = some { live := true, ver := 1, nver := 1 } ∧ versionOf s 1 = some tVersion ∧
      (partOf s 0).queue.find? (fun w => wordCtx w = 0 && wordSlot w = 2) = some 2) := by
  decide +kernel

/-- A version of two nodes, the second of which waits for the first. -/
def depVersion : Version := { tVersion with nodes := [{ entry := 0, clusters := 1, deps := 0 }, { entry := 0, clusters := 1, deps := 1 }] }

theorem witness_LaunchAndScheduleEvents_node :
    (let s := launchS tVersion fun q => { q with launches := [tLaunch {}] };
      launchOf s 0 0 = some (tLaunch {}) ∧ versionOf s 1 = some tVersion ∧ (tLaunch {}).nodes.head? = some ({} : NodeRun) ∧ places s 0 0 = true ∧
      depsOf tVersion 0 = [] ∧ nodeKernel tVersion 0 = some tKernel ∧ placeable s 0 0 tKernel = true) ∧
    (let s := launchS bigVersion fun q => { q with launches := [tLaunch {}] };
      launchOf s 0 0 = some (tLaunch {}) ∧ versionOf s 1 = some bigVersion ∧ places s 0 0 = true ∧ depsOf bigVersion 0 = [] ∧
      nodeKernel bigVersion 0 = some { tKernel with cshb := 2 ^ 30 } ∧ placeable s 0 0 { tKernel with cshb := 2 ^ 30 } = false) ∧
    (let l := { tLaunch {} with nodes := [{ started := true, placed := 1 }, {}] };
      let s := { launchS depVersion fun q => { q with launches := [l] } with blocks := [] };
      launchOf s 0 0 = some l ∧ versionOf s 1 = some depVersion ∧ places s 0 0 = true ∧ depsOf depVersion 1 = [0] ∧
      nodeEnded s 0 l 0 = true ∧ nodeKernel depVersion 1 = some tKernel ∧ placeable s 0 0 tKernel = true) := by
  decide +kernel

theorem witness_LaunchAndScheduleEvents_place :
    (resumeBlock (launchS tVersion fun q => { q with resume := [{ maker 0 .node with id := 7, groups := (maker 0 .node).groups }] }) 0).isSome = true ∧
    (let l := tLaunch { started := true, grid := 1 };
      let s := launchS tVersion fun q => { q with launches := [l] };
      (partOf s 0).resume = [] ∧ launchOf s 0 0 = some l ∧ places s 0 0 = true ∧ noneBefore s 0 l 0 = true ∧
      (tryCluster s 0 l 0).isSome = true) := by
  decide +kernel

theorem witness_LaunchAndScheduleEvents_end :
    launchOf (doneS 2) 0 0 = some { tLaunch { started := true, placed := 1 } with word := 2 } ∧
    nodeEnded (doneS 2) 0 { tLaunch { started := true, placed := 1 } with word := 2 } 0 = true ∧ unreleased (doneS 2) 0 = false ∧
    launchOf (doneS 0x10000000000002) 0 0 = some { tLaunch { started := true, placed := 1 } with word := 0x10000000000002 } ∧
    wordNotify 2 = false ∧ wordNotify 0x10000000000002 = true ∧ 
    (versionOf (doneS 2) 99).map Version.frames = some [5] ∧ versionUsed (doneS 2) 99 = false ∧
    (∀ w ∈ (doneS 2).versions, w.id ≠ 99 → 5 ∉ w.frames) := by
  decide +kernel

/-- The completion word has a place, or none, or its link is down. -/
theorem witness_LaunchAndScheduleEvents_done : (donePlace (doneS 2) 0 0 0 131072).2 = .ok (.phys (2 ^ 44)) ∧
    (donePlace (doneS 2) 0 0 0 0).2 = .lost ∧ (donePlace { doneS 2 with cxlUp := [] } 0 0 0 131072).2 = .wait := by
  decide +kernel

/-! ### Scheduling -/

/-- A block with an active group held at a barrier and a pending group that is ready, 300 cycles on. -/
def swapS : State :=
  { uS (one []) with
    clk := 300
    blocks := [{ one [] with groups := [tGroup [{ tLane [] with hold := .slot (.blk 1 0) 0 false false }], { tGroup [tLane []] with active := false }] }] }

/-- The same, a swap on the sub-core having just been made. -/
def swappedS : State := { swapS with cores := [(0, { swapAt := [(0, 300)] })] }

theorem witness_LaunchAndScheduleEvents_swap : ∀ s ∈ [swapS, swappedS],
    (lowestBy (fun q => q.2.2.blockedAt) (fun q => q.2.2.since) (onSub s 0 0 (blocked s))).isSome = true ∧
    (lowestBy (fun q => q.2.2.since) (fun q => q.1) (onSub s 0 0 fun _ g => g.waiting)).isSome = true ∧
    (lowestBy (fun q => q.2.2.since) (fun q => q.1) (onSub s 0 0 fun _ g => g.active && !g.ended)).isSome = true ∧
    (lowestBy (fun q => q.2.2.since) (fun q => q.1) (onSub s 0 0 fun _ g =>
      g.waiting && g.wasReady && decide (max g.mark g.since + 256 ≤ s.clk))).isSome = true ∧
    cfind (coreOf s 0).swapAt 0 = if s = swapS then none else some 300 := by
  decide +kernel

theorem witness_LaunchAndScheduleEvents_ready : 0 ∈ (tGroup [tLane []]).live ∧ ((tGroup [tLane []]).lane 0).hold = .none ∧
    (let g := tGroup [{ tLane [] with hold := .rega 4 }];
      g.active = true ∧ g.ended = false ∧ g.stop = none ∧ ∀ i ∈ g.live, ∃ next, (g.lane i).hold = .rega next) := by
  refine ⟨by decide +kernel, by decide +kernel, by decide +kernel, by decide +kernel, by decide +kernel, ?_⟩
  intro i hi
  have h : i = 0 := by revert i; decide +kernel
  exact ⟨4, by subst h; decide +kernel⟩

theorem witness_LaunchAndScheduleEvents_round :
    (let b := { one [] with round := some { mode := 1, start := 0 } };
      let s := { uS b with clk := 4096 };
      blockOf s 1 = some b ∧ b.round = some { mode := 1, start := 0 } ∧ (ctxOf s b.part b.ctx).grgWait ≠ 0 ∧ runs s b.part b.ctx = true ∧
      0 + (ctxOf s b.part b.ctx).grgWait.toNat ≤ s.clk) := by
  decide +kernel

theorem witness_LaunchAndScheduleEvents_move :
    (let l := tLaunch { started := true, grid := 5 };
      let b := maker 0 .node;
      let s := { launchS tVersion fun q => { q with launches := [{ l with ver := 99 }] } with
        versions := [tVersion, { bigVersion with id := 99 }] };
      let l := { l with ver := 99 };
      blockOf s 1 = some b ∧ kernelOf s b = some tKernel ∧ Config.constOf 7 = Config.constOf b.core ∧ b.alone tKernel = true ∧
      places s 0 0 = true ∧ movable s b = true ∧ l ∈ launchOrder s 0 ∧ 0 < l.nodes.length ∧
      (nextCluster s 0 l 0).map NodeBlock.grid = some 5 ∧ 5 ≠ b.grid ∧ tryCluster s 0 l 0 = none ∧ Config.isLCore 7 = b.lbody ∧
      7 ∈ coresOf s b.part ∧ 7 ≠ b.core ∧ (moveSame s b 7).isSome = true) := by
  decide +kernel

/-- A block whose groups have all arrived at a rendezvous of kind 2. -/
def ready : Block := { maker 0 .node with rdv := some { eqp := 5, kind := 2, arrived := [0], ready := true } }

theorem witness_LaunchAndScheduleEvents_migrate :
    (let s := taskS ready;
      blockOf s 1 = some ready ∧ versionOf s ready.ver = some tVersion ∧ kernelOf s ready = some tKernel ∧
      opsDone s ready = true ∧ issues s ready = true ∧
      rdvCore s ready { eqp := 5, kind := 2, arrived := [0], ready := true } = some 8 ∧
      (migrateBlock s ready tVersion tKernel { id := 5, doff := 0, loff := 0, priv := 0, maps := [] } 8).isSome = true) ∧
    (let s := { taskS ready with cores := [(0, {}), (8, { frozen := true }), (9, { frozen := true })] };
      rdvCore s ready { eqp := 5, kind := 2, arrived := [0], ready := true } = none) ∧
    (let r : Rendezvous := { eqp := 5, kind := 0, arrived := [0], ready := true, target := some 8 };
      let b := { ready with rdv := some r };
      let s := { taskS b with cores := [(0, { ops := [.mdrain 1 0 4 0] })] };
      8 ∈ coresOf s b.part ∧ opsDone s b = false ∧ rdvCore s b r = some 8) := by
  decide +kernel

/-- A queued phase record whose home is a core. -/
def tTask (home : Nat) (steal : Bool) : TaskRec :=
  { id := 3, part := 0, ctx := 0, launch := 0, node := 0, ver := 1, entry := 0, prio := 0, kind := .phase [] [], live := 1, us := [0, 0, 0, 0],
    carry := List.replicate 8 (List.replicate 32 0), home := home, made := 0, queued := true, stealable := steal }

theorem witness_LaunchAndScheduleEvents_record :
    (let r := tTask 1 false;
      let s := { launchS tVersion id with recs := [r] };
      ownerOf s 1 = some 0 ∧ (partOf s 0).resume = [] ∧ (∀ r ∈ claimable s 0, recCores s r ≠ []) ∧
      ownHead (claimable s 0) 1 = some r ∧ (placeRec s r 1).isSome = true) ∧
    (let r := tTask 1 true;
      let s := { launchS tVersion id with recs := [r] };
      (∀ r ∈ claimable s 0, recCores s r ≠ []) ∧ ownHead (claimable s 0) 2 = none ∧ (stealFrom s (claimable s 0) 2).isSome = true) ∧
    (tTask 1 false).id = 3 ∧ (tTask 1 false).queued = true ∧ places (launchS tVersion id) 0 0 = true ∧
    (coreOf growS 0).regaQueue = { blk := 1, grp := 0, units := 1 } :: [] ∧ (grow growS 0 1 0 1).isSome = true := by
  decide +kernel

end Sys2Proof.Tests
end

