-- ==== Sys2Proof/Tests/Witness7.lean ====
section
/-! SUPPORT. For the statement about the engines' events: states and operands that meet its hypotheses. -/

namespace Sys2Proof.Tests

set_option Elab.async false

open Sys2Proof Sys2Proof.Machine Sys2Proof.Claims

/-! ### The lease and the matrix engine -/

/-- A block that has issued as many operations as LEASE_CAP allows. -/
def spent : Block := { one [] with lease := { ops := 64, everHeld := true } }

/-- Core 0, its holder, queue and operations. -/
def leaseS (b : Block) (h : Option Nat) (q : List Nat) (ops : List MatOp) : State :=
  { uS b with cores := [(0, { holder := h, leaseQueue := q, ops := ops })] }

theorem witness_EngineEvents_lease :
    (let s := leaseS (one []) none [1] [];
      (coreOf s 0).holder = none ∧ (coreOf s 0).leaseQueue = 1 :: [] ∧ blockOf s 1 = some (one []) ∧ issues s (one []) = true) ∧
    (let s := leaseS spent (some 1) [2] [];
      (coreOf s 0).holder = some 1 ∧ blockOf s 1 = some spent ∧ passDue s spent = true ∧ (coreOf s 0).ops = []) ∧
    (∀ h ∈ [none, some 1],
      let s := leaseS (one []) h [] [tOp];
      (coreOf s 0).ops = tOp :: [] ∧ (performOp s 0 tOp).2 = true ∧ (coreOf (performOp s 0 tOp).1 0).holder = h) := by
  decide +kernel

/-! ### Bindings -/

/-- The binding with one row that has waited, and with that row's batch closed; its result tile is a tile of the block. -/
def closedBfq : Bfq := { tBfq with pairs := [{ act := 0x100001, res := 0x100001, rows := [tRow], closed := true }], gathering := none }

/-- The tile's granule reads FULL, and 6,000 cycles have passed. -/
def batchS (q : Bfq) : State :=
  { uS { one [] with full := [0] } with
    clk := 6000
    bfqs := [(32, q)]
    parts := [(0, { tPart with ctxs := [(0, { tCtx with handles := [(1, { obj := some (.tile (.scr 1) 0 16 false) })] })] })] }

theorem witness_EngineEvents_batch :
    (let s := batchS tBfq;
      bfqOf s 32 = some tBfq ∧ tBfq.gathering = some 0 ∧ tBfq.pair 0 = some { act := 0, res := 0, rows := [tRow] } ∧
      [tRow] ≠ [] ∧ (ctxOf s 0 0).bfqWait ≠ 0 ∧ 0 + (ctxOf s 0 0).bfqWait.toNat ≤ s.clk) ∧
    (let s := batchS closedBfq;
      bfqOf s 32 = some closedBfq ∧
      closedBfq.ready s = some (0, { act := 0x100001, res := 0x100001, rows := [tRow], closed := true }) ∧
      rowsWait s closedBfq.rb [tRow] = false) := by
  decide +kernel

/-- The tables map 131072 to the pool, or to a channel that the partition does not own. -/
def poolTable : Cells Byte := [(0, 13), (8, 13), (10, 1), (16, 13), (17, 1), (21, 16)]
def foreignTable : Cells Byte := [(0, 13), (8, 13), (10, 1), (16, 13), (20, 2)]

/-- The closed batch, whose row goes to the pool, while its links are down. -/
def waitRow : BfqRow := { tRow with res := 131072 }
def waitBfq : Bfq := { closedBfq with pairs := [{ act := 0x100001, res := 0x100001, rows := [waitRow], closed := true }] }
def waitS : State := { batchS waitBfq with dram := poolTable, cxlUp := [] }

theorem witness_EngineEvents_batch_waits : bfqOf waitS 32 = some waitBfq ∧ (waitBfq.ready waitS).isSome = true ∧
    rowsWait waitS waitBfq.rb [waitRow] = true := by
  decide +kernel

/-- The launch whose node binds the unit, every cluster of it placed and no block of it left. -/
def idleS : State :=
  { launchS tVersion fun q => { q with launches := [tLaunch { started := true, placed := 1 }] } with blocks := [], bfqs := [(32, tBfq)] }

theorem witness_EngineEvents_unbind :
    bfqOf idleS 32 = some tBfq ∧ tBfq.releasing = false ∧ nodeIdle idleS tBfq = true := by
  decide +kernel

/-! ### Engine commands -/

/-- A command of the block's group. -/
def tCmd (k : CmdKind) (total done : Nat) : Cmd :=
  { id := 5, part := 0, ctx := 0, blk := 1, grp := 0, core := 0, trc := 0, level1 := false, major := 6, pc := 0, key := .blk 1 0,
    kind := k, total := total, done := done }

/-- A copy from a global address to the block's core scratch; a drain; a collective of one member. -/
def copyCmd (src : DWord) (done : Nat) : Cmd := tCmd (.rect (.loc (.scr 1) 0) (.global src) 16 1 16 16) 16 done
def drainCmd : Cmd := tCmd (.mdrain (.global 131072) 0 256 false) 16384 0
def collCmd (op : Nat) (src dst : DWord) : Cmd := tCmd (.coll 2 0 op 0 src dst 16 0) 16 0
def cmdS (c : Cmd) : State := { uS (one []) with cmds := [c], colls := [(0, { members := 1, rank := 0 })] }

/-- How an access ends: made, a trap, a page of another partition, a link that is down. -/
def endOf {α : Type} (x : Except NoAccess α) : Nat :=
  match x with
  | .ok _ => 0
  | .error (.trap _) => 1
  | .error (.foreign _) => 2
  | .error .wait => 3

theorem witness_EngineEvents_copy :
    (let c := copyCmd 256 0;
      let s := cmdS c;
      cmdOf s 5 = some c ∧ c.goes s = true ∧ endOf (movePiece s c).2 = 0 ∧ c.mayRead s 15 = true) ∧
    (let c := copyCmd 256 16;
      let s := cmdS c;
      cmdOf s 5 = some c ∧ c.total ≤ c.done ∧ c.fault = false ∧ drainPending s c = false ∧ c.parked s = false ∧
      runs s c.part c.ctx = true) ∧
    (let c := copyCmd 131072 0;
      cmdOf (cmdS c) 5 = some c ∧ c.goes (cmdS c) = true ∧ endOf (movePiece (cmdS c) c).2 = 1 ∧
      c.goes { cmdS c with dram := foreignTable } = true ∧ endOf (movePiece { cmdS c with dram := foreignTable } c).2 = 2 ∧
      c.goes { cmdS c with dram := poolTable, cxlUp := [] } = true ∧
      endOf (movePiece { cmdS c with dram := poolTable, cxlUp := [] } c).2 = 3) := by
  decide +kernel

theorem witness_EngineEvents_fault :
    (let c := { drainCmd with met := some (0x12, 131072, 0) };
      cmdOf (cmdS c) 5 = some c ∧ c.fault = false ∧ c.done < c.total ∧ c.met = some (0x12, 131072, 0)) ∧
    (let c := collCmd 0xFF 131072 65536;
      cmdOf (cmdS c) 5 = some c ∧ c.fault = false ∧ c.done < c.total ∧ endOf (readPiece (cmdS c) c 0).2 = 1) ∧
    (let c := collCmd 0xFF 256 131072;
      cmdOf (cmdS c) 5 = some c ∧ c.fault = false ∧ c.done < c.total ∧ endOf (readPiece (cmdS c) c 0).2 = 0 ∧
      endOf (globalParts (cmdS c) c .write 131072 (segments 131072 16)).2 = 1) := by
  decide +kernel

/-- A drain to the pool whose links are down does not begin. -/
def waitDrain : State :=
  { cmdS drainCmd with dram := poolTable, cxlUp := [], cores := [(0, { ops := [.mdrain 1 0 5 0] })] }

theorem witness_EngineEvents_drain : (coreOf waitDrain 0).ops = .mdrain 1 0 5 0 :: [] ∧
    (performOp waitDrain 0 (.mdrain 1 0 5 0)).2 = false := by
  decide +kernel

/-- How the exchange of a collective of one member ends: its source is not read, or its writes end so. -/
def exchangeEnds (s : State) (c : Cmd) (dst : DWord) : Nat :=
  match readRun s c 0 1 with
  | (s1, .ok (own, bads)) =>
    let out := collResult 2 0xFF 0 16 0 0 [own]
    let s2 := modCmd s1 c.id fun k => { k with total := out.length }
    match (gatherParts s2 c (collParts dst out (collPoison 2 0 16 0 [(own, bads)]))).2.2 with
    | none => 0
    | some (.trap _) => 1
    | some (.foreign _) => 2
    | some .wait => 3
  | (_, .error (.trap _)) => 4
  | (_, .error (.foreign _)) => 5
  | (_, .error .wait) => 6

theorem witness_EngineEvents_exchange : ∀ e ∈ [((256 : DWord), (65536 : DWord), 0), (256, 131072, 1), (131072, 65536, 4)],
    (let c := collCmd 0xFF e.1 e.2.1;
      let s := cmdS c;
      oldestColl s 0 = some c ∧ collTable s 0 = some { members := 1, rank := 0 } ∧ ([] : List PeerColl).length + 1 = 1 ∧
      collBad 2 0xFF 0 16 0 (some { members := 1, rank := 0 }) = false ∧ exchangeEnds s c e.2.1 = e.2.2) := by
  decide +kernel

theorem witness_EngineEvents_exchange_links :
    exchangeEnds { cmdS (collCmd 0xFF 256 131072) with dram := foreignTable } (collCmd 0xFF 256 131072) 131072 = 2 ∧
    exchangeEnds { cmdS (collCmd 0xFF 256 131072) with dram := poolTable, cxlUp := [] } (collCmd 0xFF 256 131072) 131072 = 3 ∧
    exchangeEnds { cmdS (collCmd 0xFF 131072 256) with dram := foreignTable } (collCmd 0xFF 131072 256) 256 = 5 ∧
    oldestColl (cmdS (collCmd 0 256 65536)) 0 = some (collCmd 0 256 65536) ∧
    collBad 2 0 0 16 0 (some { members := 1, rank := 0 }) = true := by
  decide +kernel

/-! ### Full/empty waits, stops, accesses, samples -/

/-- A full/empty load of the lane that waits since the machine came up. -/
def tWait : FeWait :=
  { blk := 1, grp := 0, lane := 0, space := .scr 1, off := 0, bytes := 4, op := .load 0, d := 1, start := 0, addr := 0, code := 1, entry := 0 }

theorem witness_EngineEvents_watchdog :
    (let s := { uS (one []) with feq := [tWait], clk := 2 ^ 28 };
      (s.feq.find? fun w => w.blk = 1 && w.grp = 0 && w.lane = 0) = some tWait ∧ blockOf s 1 = some (one []) ∧
      groupOf s 1 0 = some (tGroup [tLane []]) ∧ tWait.start + 2 ^ 28 ≤ s.clk ∧ (tGroup [tLane []]).stop = none ∧
      runs s 0 0 = true) ∧
    (let s := { uS (one []) with feq := [tWait], clk := 2 ^ 28 };
      tWait ∈ s.feq ∧ isFull s tWait.space (tWait.off / 16) ≠ true) := by
  decide +kernel

/-- A block whose group has stopped, of an origin. -/
def stopping (o : Origin) : Block := { one [] with origin := o, groups := [{ tGroup [tLane []] with stop := some { recs := [tRec] } }] }

theorem witness_EngineEvents_stop : ∀ o ∈ [Origin.node, .notice tRec, .handler 0 1],
    (let b := stopping o;
      let s := uS b;
      blockOf s 1 = some b ∧ (groupOf s 1 0).bind Group.stop = some { recs := [tRec] } ∧ issues s b = true ∧ b.origin = o) := by
  decide +kernel

theorem witness_EngineEvents_access : ∀ w ∈ tS.feq, w.blk = 1 → w.grp = 0 → w.entry = 0 → (∃ v, w.op = .load v) ∧ ∃ v, w.op = .store v :=
  fun _ h => (List.not_mem_nil h).elim

theorem witness_EngineEvents_sample :
    (let s := { tS with parts := [(0, { tPart with ctxs := [(0, { tCtx with sampling := { interval := 1024 } })] })] };
      ownerOf s 0 = some 0 ∧ (ctxOf s 0 (partOf s 0).running).sampling.interval = 1024 ∧ runs s 0 (partOf s 0).running = true ∧
      s.clk % 1024 = 0 * 1024 / 640 ∧ (coreOf s 0).sampledAt ≠ some s.clk ∧
      (coreOf { s with cores := [(0, { sampledAt := some 0 })] } 0).sampledAt = some s.clk) := by
  decide +kernel

end Sys2Proof.Tests
end

