-- ==== Sys2Proof/Tests/Witness8.lean ====
section
/-! SUPPORT. For the statements about windows and requests: states and operands that meet their hypotheses. -/

namespace Sys2Proof.Tests

set_option Elab.async false

open Sys2Proof Sys2Proof.Machine Sys2Proof.Claims

/-! ### The machine that hosts reach -/

/-- Bytes of fields: size and value of each. -/
def fields (fs : List (Nat × Nat)) : List Byte := fs.flatMap fun f => leBytes f.1 f.2

/-- A list of bytes filled up with zeros. -/
def padTo (n : Nat) (bs : List Byte) : List Byte := bs ++ List.replicate (n - bs.length) 0

/-- Memory that holds bytes from an address on. -/
def cellsAt (a : Nat) (bs : List Byte) : Cells Byte := (bs.mapIdx fun k b => (a + k, b)).filter fun e => e.2 ≠ 0

/-- Page 2 of the table leads to the pool; a request block lies at address 4096, and bytes at 65536. -/
def hostDram (blk obj : List Byte) : Cells Byte :=
  [(0, 13), (8, 13), (10, 1), (16, 13), (17, 1), (21, 16)] ++ cellsAt 4096 blk ++ cellsAt 65536 obj

/-- The partition that peer 7 reaches: its data endpoint 0, its control endpoint, a graph in slot 2 and one record of the log. -/
def hostPart (rs : List Request) : Part :=
  { tPart with
    eps := [{ control := false, index := 0, ctx := 0, trc := 0, enabled := true, peer := 7 },
      { control := true, index := 0, ctx := 0, trc := 0, enabled := true, peer := 7 }]
    reqs := rs
    seq := 1
    log := [{ seq := 0, code := 0x60, part := 0, ctx := 0, time := 0, unit := 0, ukind := 4, count := 1, info := 0 }]
    ctxs := [(0, { tCtx with graphs := [(2, { live := true, ver := 1, nver := 1 })] })] }

/-- The machine with a request block, other bytes, and requests. -/
def hostS (blk obj : List Byte) (rs : List Request) : State :=
  { taskS (maker 0 .node) with
    versions := [{ tVersion with narg := 1 }]
    blocks := []
    dram := hostDram blk obj
    parts := [(0, hostPart rs)] }

/-- The request at 4096 of a host, or of a supervisor. -/
def rq (host : Bool) : List Request := [{ host := host, ctx := 0, va := 4096 }]

/-- The state in which a request is served. -/
def askT (blk obj : List Byte) (rs : List Request) : State := (blockAddr (hostS blk obj rs) 0 0 4096).1

/-! ### Registration -/

/-- A section table entry: TYPE, KERN, OFF, SIZE, ALIGN. -/
def sectBytes (type kern off size align : Nat) : List Byte := fields [(2, type), (2, kern), (4, off), (4, size), (1, align), (3, 0)]

/-- An object of one kernel, whose D-body is `ctl.exit`, one entry and one node, with its digest zero (Tables 9-1 to 9-7). -/
def rawObject : List Byte :=
  padTo 64 (fields [(4, 0x4C445244), (2, 1), (2, 6), (8, 0), (4, 64), (4, 1), (4, 1), (4, 1)]) ++
    padTo 192 (sectBytes 1 0 256 4 8 ++ sectBytes 3 0xFFFF 320 64 6 ++ sectBytes 7 0xFFFF 384 16 4 ++ sectBytes 8 0xFFFF 400 16 4 ++
      sectBytes 13 0xFFFF 416 0 4 ++ sectBytes 14 0xFFFF 416 4 2) ++
    padTo 64 (fields [(4, 0x46000001)]) ++
    padTo 64 (fields [(4, 0), (2, 0), (2, 32), (1, 1), (1, 8), (1, 8), (1, 0), (1, 24), (1, 8), (1, 24), (1, 8), (2, 0), (2, 0), (4, 0),
      (4, 0), (2, 0), (2, 0xFFFF), (2, 0xFFFF), (2, 0xFFFF)]) ++
    fields [(2, 0), (2, 0), (2, 0), (2, 0), (4, 0), (4, 0xFFFFFFFF)] ++ fields [(2, 0), (2, 0), (4, 1), (8, 0)] ++ [0, 0, 0, 0]

/-- The object with its digest, the SHA3-256 of those bytes. -/
def tObject : List Byte :=
  rawObject.take 32 ++ leBytes 32 0xC56743843357E16E3C1B7B98F05933F30CA3967F3E17BC0BCCFB400CDAB2990F ++ rawObject.drop 64

/-- Its registration: OBJVA 65536, translation context 0, one argument slot, IMGVA 196608, ARGS and FRAME in the die scratchpad,
DONE 131072. -/
def regBlock : List Byte :=
  fields [(2, 1), (2, 0), (4, 0), (8, 65536), (4, 420), (1, 0), (1, 0), (2, 1), (8, 196608), (4, 0), (4, 256), (8, 131072)]

/-- What memory holds of the block and the object. -/
def regCells : Cells Byte :=
  [(0, 13), (8, 13), (10, 1), (16, 13), (17, 1), (21, 16)] ++
  [(4096, 1), (4106, 1), (4112, 164), (4113, 1), (4118, 1), (4122, 3), (4133, 1), (4138, 2)] ++
  [(65536, 68), (65537, 82), (65538, 68), (65539, 76), (65540, 1), (65542, 6), (65552, 64), (65556, 1), (65560, 1), (65564, 1), (65568, 15), (65569, 153)] ++
  [(65570, 178), (65571, 218), (65572, 12), (65573, 64), (65574, 251), (65575, 204), (65576, 11), (65577, 188), (65578, 23), (65579, 62), (65580, 127), (65581, 150)] ++
  [(65582, 163), (65583, 12), (65584, 243), (65585, 51), (65586, 89), (65587, 240), (65588, 152), (65589, 123), (65590, 27), (65591, 60), (65592, 110), (65593, 225)] ++
  [(65594, 87), (65595, 51), (65596, 132), (65597, 67), (65598, 103), (65599, 197), (65600, 1), (65605, 1), (65608, 4), (65612, 8), (65616, 3), (65618, 255)] ++
  [(65619, 255), (65620, 64), (65621, 1), (65624, 64), (65628, 6), (65632, 7), (65634, 255), (65635, 255), (65636, 128), (65637, 1), (65640, 16), (65644, 4)] ++
  [(65648, 8), (65650, 255), (65651, 255), (65652, 144), (65653, 1), (65656, 16), (65660, 4), (65664, 13), (65666, 255), (65667, 255), (65668, 160), (65669, 1)] ++
  [(65676, 4), (65680, 14), (65682, 255), (65683, 255), (65684, 160), (65685, 1), (65688, 4), (65692, 2), (65792, 1), (65795, 70), (65862, 32), (65864, 1)] ++
  [(65865, 8), (65866, 8), (65868, 24), (65869, 8), (65870, 24), (65871, 8), (65886, 255), (65887, 255), (65888, 255), (65889, 255), (65890, 255), (65891, 255)] ++
  [(65932, 255), (65933, 255), (65934, 255), (65935, 255), (65940, 1)]

/-- The machine with them. -/
def regS : State := { hostS [] [] (rq true) with dram := regCells }

/-- The state in which the registration is served, and that in which the object's bytes are read. -/
def regT : State := (blockAddr regS 0 0 4096).1
def regU : State := (bufferAt regT 0 0 65536 420 false).1

/-- The object's bytes, written out. -/
def tBytes : List Byte :=
  [68, 82, 68, 76, 1, 0, 6, 0, 0, 0, 0, 0, 0, 0, 0, 0, 64, 0, 0, 0, 1, 0, 0, 0, 1, 0, 0, 0, 1, 0, 0, 0] ++
  [15, 153, 178, 218, 12, 64, 251, 204, 11, 188, 23, 62, 127, 150, 163, 12, 243, 51, 89, 240, 152, 123, 27, 60, 110, 225, 87, 51, 132, 67, 103, 197] ++
  [1, 0, 0, 0, 0, 1, 0, 0, 4, 0, 0, 0, 8, 0, 0, 0, 3, 0, 255, 255, 64, 1, 0, 0, 64, 0, 0, 0, 6, 0, 0, 0] ++
  [7, 0, 255, 255, 128, 1, 0, 0, 16, 0, 0, 0, 4, 0, 0, 0, 8, 0, 255, 255, 144, 1, 0, 0, 16, 0, 0, 0, 4, 0, 0, 0] ++
  [13, 0, 255, 255, 160, 1, 0, 0, 0, 0, 0, 0, 4, 0, 0, 0, 14, 0, 255, 255, 160, 1, 0, 0, 4, 0, 0, 0, 2] ++
  List.replicate 99 0 ++
  [1, 0, 0, 70] ++
  List.replicate 66 0 ++
  [32, 0, 1, 8, 8, 0, 24, 8, 24, 8] ++
  List.replicate 14 0 ++
  [255, 255, 255, 255, 255, 255] ++
  List.replicate 40 0 ++
  [255, 255, 255, 255, 0, 0, 0, 0, 1] ++
  List.replicate 15 0

theorem object_bytes : tObject = tBytes := by decide +kernel

/-- The object as its header and section table describe it. -/
def tFile : ObjFile :=
  { file := tBytes, nkern := 1, nent := 1, nnode := 1
    sects := [{ type := 1, kern := 0, off := 256, size := 4, align := 8, clean := true, bytes := [1, 0, 0, 70] },
      { type := 3, kern := 0xFFFF, off := 320, size := 64, align := 6, clean := true
        bytes := [0, 0, 0, 0, 0, 0, 32, 0, 1, 8, 8, 0, 24, 8, 24, 8, 0, 0, 0, 0, 0, 0, 0, 0, 0, 0, 0, 0, 0, 0, 255, 255, 255, 255, 255, 255] ++ List.replicate 28 0 },
      { type := 7, kern := 0xFFFF, off := 384, size := 16, align := 4, clean := true, bytes := [0, 0, 0, 0, 0, 0, 0, 0, 0, 0, 0, 0, 255, 255, 255, 255] },
      { type := 8, kern := 0xFFFF, off := 400, size := 16, align := 4, clean := true, bytes := [0, 0, 0, 0, 1] ++ List.replicate 11 0 },
      { type := 13, kern := 0xFFFF, off := 416, size := 0, align := 4, clean := true, bytes := [] },
      { type := 14, kern := 0xFFFF, off := 416, size := 4, align := 2, clean := true, bytes := [0, 0, 0, 0] }] }

theorem object_file : objectOf tBytes = tFile := by decide +kernel

theorem witness_ManagerRequestEvents_register :
    Asks true regS 0 0 4096 regT 4096 ∧ num (blockAt regT 4096) 0 2 = 1 ∧
    regReq (blockAt regT 4096) = regReq (padTo 64 regBlock) ∧ (bufferAt regT 0 0 65536 420 false).2 = some [(65536, 420)] ∧
    poisonIn regU 0 [(65536, 420)] = none ∧ readRuns regU [(65536, 420)] = tBytes :=
  ⟨⟨by rfl, by rfl, Prod.ext rfl (by decide +kernel)⟩, by decide +kernel, by decide +kernel,
    by decide +kernel, by decide +kernel, by decide +kernel⟩

theorem witness_ManagerRequestEvents_install :
    objectOf tBytes = tFile ∧ freeGraph (ctxOf regU 0 0) = some 1 ∧ objectTiles (partOf regU 0).desc tFile = some [] ∧
    (allocAll regU 0 0 ([] ++ (records 64 (tFile.only 10)).map Obj.shape)).2 = some [] ∧
    relocateAll tFile (layOut 0 tFile.sects) 196608 [] [] = some [1, 0, 0, 0x46] ∧
    (∀ k ∈ tFile.krecs, placeable regU 0 0 (kernelAt tFile (layOut 0 tFile.sects) k) = true) ∧
    fieldsBad regU 0 0 (regReq (padTo 64 regBlock)) = false ∧ (doneOk regU 0 0 0 131072).2 = true ∧
    framesOk regU 0 none [1, 0, 0, 0x46] 1 [5] = true :=
  ⟨object_file, by decide +kernel, by decide +kernel, by decide +kernel, by decide +kernel, by decide +kernel, by decide +kernel,
    by decide +kernel, by decide +kernel⟩

/-- What refuses a registration: an object that no page holds, poison in it, a done address that is none, no frame. -/
theorem witness_ManagerRequestEvents_refused :
    (bufferAt regT 0 0 262144 420 false).2 = none ∧ poisonIn { regU with poison := [(.line 65536, [0])] } 0 [(65536, 420)] = some 0 ∧
    (doneOk regU 0 0 0 65536).2 = false ∧ framesOk regU 0 none [1, 0, 0, 0x46] 1 [] = false := by
  decide +kernel

/-! ### Other requests -/

theorem asks_of (host : Bool) (blk obj : List Byte) (h : (blockAddr (hostS blk obj (rq host)) 0 0 4096).2 = some 4096) :
    Asks host (hostS blk obj (rq host)) 0 0 4096 (askT blk obj (rq host)) 4096 :=
  ⟨by rfl, by rfl, Prod.ext rfl h⟩

/-- A block that no page holds. -/
theorem witness_ManagerRequestEvents_lost :
    (let s := { hostS [] [] (rq true) with dram := [] };
      (partOf s 0).reqs.head? = some { host := true, ctx := 0, va := 4096 } ∧ s.boot.powered = true ∧ (blockAddr s 0 0 4096).2 = none ∧
      (partOf (hostS [] [] []) 0).reqs.head? = none) := by
  decide +kernel

/-- Blocks of a KIND: unregister handle 0x100002; a report to 65536; two records of the log from 0 on to 65536; unit 0 with one
member; grants of window 0 of the pool and of a host. -/
def leaveBlock : List Byte := fields [(2, 2), (2, 0), (4, 0x100002)]
def reportBlock : List Byte := fields [(2, 3), (38, 0), (8, 65536)]
def logBlock : List Byte := fields [(2, 7), (6, 0), (8, 65536), (2, 2)]
def memberBlock : List Byte := fields [(2, 5), (4, 0), (2, 1), (2, 0)]
def grantBlock (kind : Nat) : List Byte := fields [(2, 6), (2, 0), (1, kind), (1, 0)]

/-- What a request's event finds in the block. -/
def asked (blk : List Byte) (host : Bool) : List Byte := blockAt (askT blk [] (rq host)) 4096

theorem witness_ManagerRequestEvents_host :
    (Asks true (hostS leaveBlock [] (rq true)) 0 0 4096 (askT leaveBlock [] (rq true)) 4096 ∧ num (asked leaveBlock true) 0 2 = 2 ∧
      num (asked leaveBlock true) 4 4 = 0x100002 ∧
      graphNamed (askT leaveBlock [] (rq true)) 0 0 2 1 = some { live := true, ver := 1, nver := 1 }) ∧
    (Asks true (hostS reportBlock [] (rq true)) 0 0 4096 (askT reportBlock [] (rq true)) 4096 ∧ num (asked reportBlock true) 0 2 = 3 ∧
      num (asked reportBlock true) 0x28 8 = 65536 ∧ (bufferAt (askT reportBlock [] (rq true)) 0 0 65536 16384 true).2 = some [(65536, 16384)]) ∧
    (Asks true (hostS logBlock [] (rq true)) 0 0 4096 (askT logBlock [] (rq true)) 4096 ∧ num (asked logBlock true) 0 2 = 7 ∧
      num (asked logBlock true) 0x10 2 = 2 ∧ (logFrom (partOf (askT logBlock [] (rq true)) 0) 0 2).1.length = 1 ∧
      (bufferAt (askT logBlock [] (rq true)) 0 0 65536 (32 * 1) true).2 = some [(65536, 32)]) ∧
    (∀ n ∈ [0, 4, 5, 6, 8], Asks true (hostS [BitVec.ofNat 8 n] [] (rq true)) 0 0 4096 (askT [BitVec.ofNat 8 n] [] (rq true)) 4096) ∧
    (∀ n ∈ [0, 4, 5, 6, 8], num (asked [BitVec.ofNat 8 n] true) 0 2 = n) :=
  ⟨⟨asks_of _ _ _ (by decide +kernel), by decide +kernel⟩, ⟨asks_of _ _ _ (by decide +kernel), by decide +kernel⟩,
    ⟨asks_of _ _ _ (by decide +kernel), by decide +kernel⟩, fun n h => asks_of _ _ _ (by revert n; decide +kernel), by decide +kernel⟩

theorem witness_ManagerRequestEvents_supervisor :
    (∀ blk ∈ [[4], memberBlock, grantBlock 0, grantBlock 1, logBlock, [0], [1], [2], [3], [8]],
      Asks false (hostS blk [] (rq false)) 0 0 4096 (askT blk [] (rq false)) 4096) ∧
    (num (asked [4] false) 0 2 = 4 ∧ (setWindow 0 (asked [4] false) (askT [4] [] (rq false))).code = 1 ∧
      (setWindow 0 (asked [4] false) (askT [4] [] (rq false))).outs = [] ∧
      num (asked memberBlock false) 0 2 = 5 ∧ num (asked memberBlock false) 4 1 = 0 ∧ num (asked memberBlock false) 6 2 = 1 ∧
      num (asked memberBlock false) 8 2 = 0 ∧ 0 ∈ (partOf (askT memberBlock [] (rq false)) 0).desc.eng) ∧
    (num (asked (grantBlock 0) false) 0 2 = 6 ∧ num (asked (grantBlock 0) false) 4 1 = 0 ∧ num (asked (grantBlock 0) false) 5 1 = 0 ∧
      (partOf (askT (grantBlock 0) [] (rq false)) 0).desc.poolw[0]? = some (0, 1) ∧ num (asked (grantBlock 1) false) 4 1 = 1 ∧
      (partOf (askT (grantBlock 1) [] (rq false)) 0).desc.hostw[0]? = some (0, 1, 0) ∧ (partOf (askT (grantBlock 1) [] (rq false)) 0).grants = []) ∧
    ((bufferAt (askT logBlock [] (rq false)) 0 0 65536 (32 * 1) true).2 = some [(65536, 32)] ∧
      windowOk installDesc 0 { view := 0x300000000001, ctl := 2 } = true ∧ ∀ n ∈ [0, 1, 2, 3, 8], num (asked [BitVec.ofNat 8 n] false) 0 2 = n) :=
  ⟨fun blk h => asks_of _ blk [] (by revert blk; decide +kernel), by decide +kernel, by decide +kernel, by decide +kernel⟩

/-! ### Windows -/

/-- What the check of pages comes to: the bytes there, a page that is none, a page of another partition. -/
def pagesAre (p : Pages) (rs : List (Nat × Nat)) : Nat :=
  match p with
  | .ok qs => if qs = rs then 0 else 9
  | .bad _ => 1
  | .foreign _ _ => 2

theorem witness_WindowEvents :
    (let s := hostS [] [] [];
      answersParts s = true ∧ (dataEndpoint s 0 0).map (Endpoint.serves · 7) = some true ∧
      (dataEndpoint s 0 0).map (Endpoint.serves · 8) = some false ∧
      pagesAre (checkPages s 0 0 0 .rma true 65536 4).2 [(65536, 4)] = 0 ∧ pagesAre (checkPages s 0 0 0 .rma false 65536 4).2 [(65536, 4)] = 0 ∧
      pagesAre (checkPages s 0 0 0 .rma true 262144 4).2 [] = 1 ∧ pagesAre (checkPages s 0 0 0 .rma false 262144 4).2 [] = 1 ∧
      poisonIn (checkPages s 0 0 0 .rma false 65536 4).1 0 [(65536, 4)] = none ∧
      poisonIn { s with poison := [(.line 65536, [0])] } 0 [(65536, 4)] = some 0) ∧
    (let s := { hostS [] [] [] with dram := foreignTable };
      pagesAre (checkPages s 0 0 0 .rma true 131072 4).2 [] = 2 ∧ pagesAre (checkPages s 0 0 0 .rma false 131072 4).2 [] = 2) := by
  decide +kernel

theorem witness_WindowEvents_words : [(1 : DWord), 2].length ≠ 1 ∧ 6 + [(1 : DWord), 2].length ≤ 8 ∧
    510 + [(1 : DWord), 2].length ≤ 512 ∧ (0x38 < 0x40 ∧ 0x40 < 0x38 + 8 * [(1 : DWord), 2].length) ∧
    (0x1000 ≤ 0x1FF8 ∧ 0x2000 < 0x1FF8 + 8 * [(1 : DWord), 2].length) := by decide

theorem witness_WindowEvents_control :
    (let s := hostS [] [] [];
      controlled s 0 7 = true ∧ controlled s 0 8 = false ∧ wordBad (replyWith s true []) 0 0x100002 = false ∧
      wordBad (replyWith s true []) 0 0x100100002 = true ∧ (cfind (partOf s 0).ctxs ((0 : DWord).toNat % 4)).isSome = true ∧
      0x020 ∉ [0x000, 0x008, 0x010, 0x018] ∧ (cfind s.parts 0).isSome = true ∧ s.mgmt.busy = false ∧
      answers { s with mgmt := { s.mgmt with busy := true } } = true) ∧
    (∀ s : State, answers s = true → answersOperator s (Config.operatorPeer (s.boot.image.getD [])) = true) ∧
    ∀ s : State, answers s = true → answersOperator s (Config.operatorPeer (s.boot.image.getD []) + 1) = false := by
  refine ⟨by decide +kernel, fun s h => ?_, fun s h => ?_⟩ <;> unfold answersOperator <;> simp [h]

/-! ### The management context -/

/-- The machine with a request in MBOX and bytes in STAGE. -/
def mgS (s : State) (m : List Byte) (stage : Cells Byte) : State :=
  { s with mgmt := { mbox := padTo 64 m, busy := true, stage := stage } }

/-- A request of KIND `k` is there. -/
def ready8 (s : State) (k : Nat) : Bool := answers s && s.mgmt.busy && decide (num s.mgmt.mbox 0 2 = k) && decide (s.boot.status = 0)

theorem manager_asks {s : State} {k : Nat} (h : ready8 s k = true) : ManagerAsks s k := by
  simp only [ready8, Bool.and_eq_true, decide_eq_true_eq] at h
  exact ⟨h.1.1.1, h.1.1.2, h.1.2, .inl h.2⟩

/-- Partition 0 with constellations 0 and 1, and partition 1 with constellation 2, and 3, lent by partition 0. -/
def lendS : State :=
  { hostS [] [] [] with
    parts := [(0, { tPart with desc := { tPart.desc with const := [0, 1] } }),
      (1, { tPart with desc := { tPart.desc with const := [2, 3], pwr := 100 }, loans := [(3, 0)] })] }

/-- Bytes in STAGE. -/
def stageOf (bs : List Byte) : Cells Byte := cellsAt 0 bs

/-- The machine with a request of each kind. -/
def mgDesc : State := mgS (hostS [] [] []) (fields [(2, 0x80), (2, 0), (1, 0), (3, 0), (4, 0)]) (stageOf { tPart.desc with dspr := [1, 0, 0, 0], wt := 1 }.image)
def mgMake : State := mgS (hostS [] [] []) (fields [(2, 0x81), (2, 0), (1, 0), (1, 1)]) []
def mgDrop : State := mgS (hostS [] [] []) (fields [(2, 0x82), (2, 0), (1, 0), (1, 0)]) []
def mgEnd : State := mgS (hostS [] [] []) (fields [(2, 0x83), (2, 0), (1, 0), (1, 0), (1, 1), (1, 3), (1, 2), (1, 1), (6, 0), (16, 9)]) []
def mgLend : State := mgS lendS (fields [(2, 0x84), (2, 0), (1, 0), (1, 1), (1, 1)]) []
def mgLendNone : State := mgS lendS (fields [(2, 0x84), (2, 0), (1, 0), (1, 2), (1, 1)]) []
def mgLendNot : State := mgS lendS (fields [(2, 0x84), (2, 0), (1, 0), (1, 1), (1, 2)]) []
def mgTake : State := mgS lendS (fields [(2, 0x85), (2, 0), (1, 0), (1, 0), (1, 3)]) []
def mgCap : State := mgS lendS (fields [(2, 0x86), (6, 0), (4, 1000), (1, 1)]) []
def mgFirm (last : Nat) : State := mgS lendS (fields [(2, 0x87), (6, 0), (4, 0), (4, 8), (1, last)]) []
def mgNone : State := mgS lendS (fields [(2, 0x90)]) []

theorem witness_ManagerEvents_partition :
    ManagerAsks mgDesc 0x80 ∧ num mgDesc.mgmt.mbox 4 1 = 0 ∧ num mgDesc.mgmt.mbox 8 4 = 0 ∧
      descLegal (descOf (mgets mgDesc.mgmt.stage 0 320)) = true ∧ sharesOk mgDesc 0 (descOf (mgets mgDesc.mgmt.stage 0 320)) = true ∧
      takesSaved mgDesc 0 (descOf (mgets mgDesc.mgmt.stage 0 320)) = false ∧ mgDesc.blocks = [] ∧ (partOf mgDesc 0).resume = [] :=
  ⟨manager_asks (by decide +kernel), by decide +kernel⟩

theorem witness_ManagerEvents_context :
    (ManagerAsks mgMake 0x81 ∧ num mgMake.mgmt.mbox 4 1 = 0 ∧ num mgMake.mgmt.mbox 5 1 = 1 ∧
      cfind mgMake.parts 0 = some (hostPart []) ∧ cfind (hostPart []).ctxs 1 = none ∧
      (cfind (hostPart []).ctxs (hostPart []).running).isSome = true ∧ cfind { hostPart [] with ctxs := [] }.ctxs 0 = none) ∧
    (ManagerAsks mgDrop 0x82 ∧ num mgDrop.mgmt.mbox 5 1 = 0 ∧ (cfind (partOf mgDrop 0).ctxs 0).isSome = true) ∧
    (ManagerAsks mgEnd 0x83 ∧ num mgEnd.mgmt.mbox 6 1 = 1 ∧
      num mgEnd.mgmt.mbox 7 1 = 3 ∧ num mgEnd.mgmt.mbox 8 1 = 2 ∧ num mgEnd.mgmt.mbox 9 1 = 1 ∧ (partOf mgEnd 0).eps.length < 64 ∧
      (cfind (partOf mgEnd 0).ctxs 0).isSome = true ∧ (cfind mgEnd.parts 0).isSome = true) :=
  ⟨⟨manager_asks (by decide +kernel), by decide +kernel⟩, ⟨manager_asks (by decide +kernel), by decide +kernel⟩,
    manager_asks (by decide +kernel), by decide +kernel⟩

theorem witness_ManagerEvents_lending :
    (ManagerAsks mgLend 0x84 ∧ num mgLend.mgmt.mbox 4 1 = 0 ∧ num mgLend.mgmt.mbox 5 1 = 1 ∧
      num mgLend.mgmt.mbox 6 1 = 1 ∧ 1 ∈ (partOf mgLend 0).desc.const ∧ (partOf mgLend 0).loans = [] ∧
      (partOf mgLend 0).desc.const.length = 2 ∧ mgLend.blocks = [] ∧ (cfind mgLend.parts 1).isSome = true) ∧
    (ManagerAsks mgLendNone 0x84 ∧ num mgLendNone.mgmt.mbox 5 1 = 2 ∧ 1 ∈ (partOf mgLendNone 0).desc.const ∧
      cfind mgLendNone.parts 2 = none ∧ ManagerAsks mgLendNot 0x84 ∧ num mgLendNot.mgmt.mbox 6 1 = 2 ∧
      2 ∉ (partOf mgLendNot 0).desc.const ∧ (cfind mgLendNot.parts 0).isSome = true) ∧
    (ManagerAsks mgTake 0x85 ∧ num mgTake.mgmt.mbox 4 1 = 0 ∧ num mgTake.mgmt.mbox 6 1 = 3 ∧
      (cfind mgTake.parts 0).isSome = true ∧ ((mgTake.parts.find? fun e => e.2.loans.contains (3, 0)).map Prod.fst) = some 1) :=
  ⟨⟨manager_asks (by decide +kernel), by decide +kernel⟩,
    ⟨manager_asks (by decide +kernel), by decide +kernel, by decide +kernel, by decide +kernel, manager_asks (by decide +kernel),
      by decide +kernel⟩, manager_asks (by decide +kernel), by decide +kernel⟩

theorem witness_ManagerEvents_power :
    (ManagerAsks mgCap 0x86 ∧ num mgCap.mgmt.mbox 8 4 = 1000 ∧ num mgCap.mgmt.mbox 12 1 = 1 ∧
      (mgCap.parts.map fun q => q.2.desc.pwr).sum + 200 ≤ 1000) ∧
    (ManagerAsks (mgFirm 0) 0x87 ∧ num (mgFirm 0).mgmt.mbox 12 4 = 8 ∧ num (mgFirm 0).mgmt.mbox 16 1 = 0) ∧
    (ManagerAsks (mgFirm 1) 0x87 ∧ num (mgFirm 1).mgmt.mbox 12 4 = 8 ∧ num (mgFirm 1).mgmt.mbox 16 1 = 1) ∧
    (answers mgNone = true ∧ mgNone.mgmt.busy = true ∧ num mgNone.mgmt.mbox 0 2 = 0x90) :=
  ⟨⟨manager_asks (by decide +kernel), by decide +kernel⟩, ⟨manager_asks (by decide +kernel), by decide +kernel⟩,
    ⟨manager_asks (by decide +kernel), by decide +kernel⟩, by decide +kernel⟩

/-! ### The digest of the object -/

/-- The object's bytes with the digest taken as zero, with SHA3's padding, in blocks of 136 bytes. -/
def shaBlock0 : List Byte :=
  [68, 82, 68, 76, 1, 0, 6, 0, 0, 0, 0, 0, 0, 0, 0, 0, 64, 0, 0, 0, 1, 0, 0, 0, 1, 0, 0, 0, 1] ++
    List.replicate 35 0 ++
    [1, 0, 0, 0, 0, 1, 0, 0, 4, 0, 0, 0, 8, 0, 0, 0, 3, 0, 255, 255, 64, 1, 0, 0, 64, 0, 0, 0, 6, 0, 0, 0] ++
    [7, 0, 255, 255, 128, 1, 0, 0, 16, 0, 0, 0, 4, 0, 0, 0, 8, 0, 255, 255, 144, 1, 0, 0, 16, 0, 0, 0, 4, 0, 0, 0] ++
    [13, 0, 255, 255, 160, 1, 0, 0]
def shaBlock1 : List Byte :=
  [0, 0, 0, 0, 4, 0, 0, 0, 14, 0, 255, 255, 160, 1, 0, 0, 4, 0, 0, 0, 2] ++
    List.replicate 99 0 ++
    [1, 0, 0, 70] ++
    List.replicate 12 0
def shaBlock2 : List Byte :=
  List.replicate 54 0 ++
    [32, 0, 1, 8, 8, 0, 24, 8, 24, 8] ++
    List.replicate 14 0 ++
    [255, 255, 255, 255, 255, 255] ++
    List.replicate 40 0 ++
    [255, 255, 255, 255, 0, 0, 0, 0, 1, 0, 0, 0]
def shaBlock3 : List Byte :=
  List.replicate 12 0 ++
    [6] ++
    List.replicate 122 0 ++
    [128]

/-- The Keccak state after each block. -/
def shaState0 : Keccak := List.replicate 25 0
def shaState1 : Keccak :=
  [0xC76AFF20F91F1413, 0x2AA7BE6BE70E1C83, 0x85445969B6CAC16D, 0xDB008C43C1BAD609, 0x45A1F7AD3E81C324,
    0xD75DAC44C6D3B330, 0x0A3866FF3579FF2A, 0x9ADD87FFFA6D637E, 0x55DB0AFDB1CDBFF1, 0xD4053E9D48F4FFBE,
    0xBBCCB40E62CE2F80, 0x7072E13953BF6C6E, 0xF14FA0BFC6249DB8, 0xCFA8C4A1832CC58A, 0xD8D9EBABBA5E9DE3,
    0x67CB0D5D56EC4B55, 0x0C5B951842D4AB31, 0x3E2C4E3E40731AAC, 0xE46A6DAB471F4E34, 0xBE713C50CDF5B3F7,
    0xD30702AFFA700C65, 0x21B1568B393FB220, 0xA5EEC8B6F7DF6509, 0x96960656D8D1E497, 0x00556544210DCF66]
def shaState2 : Keccak :=
  [0x90FD05E86F5061A9, 0x1493AA5B6AAD1C78, 0xBFBAF341864B8D76, 0x800DBF7BB75967D9, 0x994289A635F97303,
    0x2E0A9CD6907D54E0, 0x9B1AE224648439CC, 0x26FF5384FF0798AF, 0x1B3DEE2E8A4D0CF7, 0xABFC934D4713A216,
    0xAEB912DCEE10E6BC, 0x244256B91C7CD494, 0x138ED9A876901148, 0xD7D71A2456FAF4DF, 0x5483E77A58C7B8C9,
    0x6F7BC651E51D1AE5, 0x9A9BA4CA42210B1A, 0x428EEA9A5982385F, 0x51C1A39ABE4A584E, 0xAB69222F408E5436,
    0x79FA1FAC2792EA4A, 0x166D9E2C96ACCB02, 0xE2D05AB013BE72E0, 0x8E76575ABFAEEFE3, 0x124A22C595377EB2]
def shaState3 : Keccak :=
  [0x3ADFDC54C67FF753, 0x612CE85D8988DA52, 0x6FB7F08BD88F760E, 0x5024F6D3E07C3CA2, 0xA8DEC9A6A0C1579B,
    0xF0B8B6AD6D88FB4A, 0x2DA986D8C0E2B917, 0x5F0052064E3BA878, 0x1E7AD068A3BE921B, 0xAD799ED2E1C7D287,
    0xB98382B44A27CDE6, 0x5BC9EE6B6F031542, 0x7D5D8A045AE26604, 0xEA00EFFDAA5AC5AD, 0x681E3B035C7ADB99,
    0x9AB14E99FF8114DE, 0x4F274D8D46D1F69F, 0x4C782E7AF523DB20, 0x88F9C0000954B66B, 0x35F5C9969EAB02BE,
    0xB22858BA725B8D54, 0xEA13A0812E325E6A, 0xB3115FF19D21499D, 0xDB2BAD636DBF6D40, 0x7F1A39D2684DC705]
def shaState4 : Keccak :=
  [0xCCFB400CDAB2990F, 0x0CA3967F3E17BC0B, 0x3C1B7B98F05933F3, 0xC56743843357E16E, 0x5161A9D5F349FBA5,
    0xBB6A44D7ADBEBE2F, 0x343AD52205C56E89, 0x48B4D245815175CF, 0x3E2C5BCE958FC24D, 0x58426B89EA468B1D,
    0x18259C6921993CBB, 0x5AD8C9F037A1389C, 0x62A1F78BB3D7AF72, 0x546C837B3C6DEB8F, 0x68FCCF08E7A7A67A,
    0x517B589A68BBD7E7, 0xC4AAECA7D0423E3E, 0xEC235F719CC5686C, 0xDFAF15CC88FA0F43, 0xDE5E4F6F3884F264,
    0xB771F0382866FD65, 0xD92947620EE8E490, 0x4094158B3A34BDEC, 0x7FC254779DD50174, 0xBE7CC22933CD4ED6]

theorem sha_block0 : absorb shaState0 shaBlock0 = shaState1 := by decide +kernel
theorem sha_block1 : absorb shaState1 shaBlock1 = shaState2 := by decide +kernel
theorem sha_block2 : absorb shaState2 shaBlock2 = shaState3 := by decide +kernel
theorem sha_block3 : absorb shaState3 shaBlock3 = shaState4 := by decide +kernel

theorem sha_pad : sha3Pad (undigested tBytes) = shaBlock0 ++ (shaBlock1 ++ (shaBlock2 ++ (shaBlock3 ++ []))) := by decide +kernel

theorem absorb_cons (a : Keccak) (b m : List Byte) (n : Nat) (h : b.length = 136) : absorbAll a (b ++ m) (n + 1) = absorbAll (absorb a b) m n := by
  simp [absorbAll, ← h]

theorem sha3_of {m : List Byte} {a : Keccak} (h : absorbAll (kMake fun _ _ => 0) (sha3Pad m) ((sha3Pad m).length / 136) = a) :
    sha3 m = (a.take 4).flatMap fun v => leBytes 8 v.toNat := by
  unfold sha3
  simp only [h]

theorem digest_good : digestOk tBytes = true := by
  have h : absorbAll (kMake fun _ _ => 0) (sha3Pad (undigested tBytes)) ((sha3Pad (undigested tBytes)).length / 136) = shaState4 := by
    have e : (kMake fun _ _ => 0) = shaState0 := by decide +kernel
    have n : (shaBlock0 ++ (shaBlock1 ++ (shaBlock2 ++ (shaBlock3 ++ [])))).length / 136 = 3 + 1 := by decide +kernel
    rw [sha_pad, n, e, absorb_cons _ _ _ _ (by decide +kernel), sha_block0, absorb_cons _ _ _ _ (by decide +kernel), sha_block1,
      absorb_cons _ _ _ _ (by decide +kernel), sha_block2, absorb_cons _ _ _ _ (by decide +kernel), sha_block3]
    rfl
  have hs : sha3 (undigested tBytes) = digestOf tBytes := (sha3_of h).trans (by decide +kernel)
  unfold digestOk
  rw [hs]
  decide +kernel

/-- The bytes that the registration reads are a good object. -/
theorem witness_ManagerRequestEvents_object : objectCode tBytes = none := by
  unfold objectCode
  simp only [digest_good]
  decide +kernel

end Sys2Proof.Tests
end

