-- ==== Sys2Proof/Tests/Witness9.lean ====
section
/-! SUPPORT. For the statements about decoding, the step and the memories: states and operands that meet their hypotheses. -/

namespace Sys2Proof.Tests

set_option Elab.async false

open Sys2Proof Sys2Proof.Machine Sys2Proof.Claims

theorem witness_UnassignedMajors : ∀ m ∈ [(0x27, false), (0x3E, false), (0x1A, true), (0x3E, true)],
    (let w : Word := BitVec.ofNat 32 (m.1 * 2 ^ 25 + if m.2 then 2 ^ 31 else 0);
      w.getLsbD 31 = m.2 ∧ (w.extractLsb' 25 6).toNat = m.1) := by
  decide

theorem witness_RoundTrip : ∀ i ∈ [Instr.iaddi 2 2 0x7FF {}, .faddAdd 1 2 3 {}, .call 31 0 8 {}, .sysw 3 0x070 {}],
    i.wf = true ∧ i.base.isSome = true := by
  decide

/-- The machine in which the word of `ctl.exit` is loaded, and the first path of its block is to issue. -/
def stepS : State := State.reset.withFetchWord 32 0x46000001

/-- A path of the block that runs `ctl.exit` there issues. -/
theorem issues_exit (s : State) (lanes : BitVec 32) (paths : Nat) (b : Block) (g : Group) (l : Nat) (ls : List Nat) (h1 : blockOf s 1 = some b)
    (h2 : groupOf s 1 0 = some g) (h3 : (maskLanes lanes).filter (fun i => (g.lane i).live) = l :: ls)
    (h0 : fetchForeign s b (g.lane l).npc 1 = none) (h4 : fetchPoisoned s b (g.lane l).npc 1 = false) (h5 : decodeWords (fetchWords s b (g.lane l).npc) = .ok (.ctlExit {}, 1)) :
    ∃ t, IssuesIn s 1 0 lanes paths (.ctlExit {}) t :=
  ⟨_, b, g, l, ls, 1, h1, h2, h3, h0, h4, .inl h5, rfl⟩

/-- The conditions of `issues_exit` at a state, evaluated. -/
noncomputable def exits (s : State) (lanes : BitVec 32) : Bool :=
  match blockOf s 1, groupOf s 1 0 with
  | some b, some g => match (maskLanes lanes).filter fun i => (g.lane i).live with
    | l :: _ => (fetchForeign s b (g.lane l).npc 1).isNone && !fetchPoisoned s b (g.lane l).npc 1 &&
        (match decodeWords (fetchWords s b (g.lane l).npc) with
        | .ok (i, n) => decide (i = .ctlExit {} ∧ n = 1)
        | .error _ => false)
    | [] => false
  | _, _ => false

theorem issues_of_exits {s : State} {lanes : BitVec 32} (paths : Nat) (h : exits s lanes = true) :
    ∃ t, IssuesIn s 1 0 lanes paths (.ctlExit {}) t := by
  unfold exits at h
  split at h
  case h_2 => cases h
  case h_1 b g hb hg =>
    split at h
    case h_2 => cases h
    case h_1 l ls hl =>
      simp only [Bool.and_eq_true, Bool.not_eq_true', Option.isNone_iff_eq_none] at h
      obtain ⟨⟨h0, h1⟩, h2⟩ := h
      split at h2
      case h_2 => cases h2
      case h_1 i n hd =>
        obtain ⟨rfl, rfl⟩ := of_decide_eq_true h2
        exact issues_exit s lanes paths b g l ls hb hg hl h0 h1 hd

/-- The second path of a cycle, a turn of the agenda, the scheduler's choice, and an event. -/
def second : SlotOne := { blk := 1, grp := 0, lanes := 1, pc := 0, paths := 1 }
def slotS : State := { stepS with agenda := [], slot1 := some second }
def freeS : State := { stepS with agenda := [] }

theorem witness_StepRunsDecoded_slot :
    slotS.slot1 = some second ∧ ∃ t, IssuesIn (passTick { slotS with slot1 := none }) 1 0 (second.here slotS) 1 (.ctlExit {}) t :=
  ⟨rfl, issues_of_exits _ (by decide +kernel)⟩

/-- What a turn of the agenda that names lane 0 of that group finds. -/
noncomputable def turned : Bool :=
  let u := newCycle { stepS with agenda := [] }
  match pathOfLane u 1 0 0, blockOf u 1, groupOf u 1 0 with
  | some r, some b, some g => exits (opportunity u b.core g.sub 1 0 r none) r.lanes
  | _, _, _ => false

theorem witness_StepRunsDecoded_agenda : stepS.slot1 = none ∧ stepS.agenda = .issue 1 0 0 :: [] ∧ turned = true := by
  decide +kernel

/-- What the scheduler's choice of that group is to find. -/
noncomputable def chosen : Bool :=
  let u := dueSwaps (newCycle freeS)
  match blockOf u 1, groupOf u 1 0 with
  | some b, some g => match slots 0 16 g with
    | some (r0, r1) => (secondSlot u b g r0 r1).isNone && exits (opportunity u 0 0 1 0 r0 none) r0.lanes
    | none => false
  | _, _ => false

theorem witness_StepRunsDecoded_scheduler :
    freeS.slot1 = none ∧ freeS.agenda = [] ∧ chooseGroup (dueSwaps (newCycle freeS)) = some (0, 0, 1, 0) ∧
    (blockOf (dueSwaps (newCycle freeS)) 1).map (fun b =>
      quantumOf (ctxOf (dueSwaps (newCycle freeS)) b.part b.ctx)) = some 16 ∧ chosen = true := by
  decide +kernel

/-- An `iaddi` before an `lsys.nop`, of a block on an L-core. -/
def followS : State :=
  let s := State.reset.withFetchWord 32 0x040817FF
  { s with agenda := [], blocks := s.blocks.map fun b => { b with core := 8 } }

/-- Whether the second is issued beside the first. -/
noncomputable def follows : Bool :=
  match blockOf followS 1, groupOf followS 1 0 with
  | some b, some g => match g.ready with
    | [r0] => (secondSlot followS b g r0 none).isSome
    | _ => false
  | _, _ => false

theorem witness_StepRunsDecoded_follower : follows = true := by decide +kernel

theorem witness_StepRunsDecoded_event : { stepS with agenda := [.event (.leaseGrant 0)] }.slot1 = none ∧ Turn.isEvent (.leaseGrant 0) = true := by
  decide +kernel

/-- Whether there is a next state. -/
def goesOn (o : Out) : Bool :=
  match o with
  | .next _ => true
  | _ => false

theorem next_of_goesOn {o : Out} (h : goesOn o = true) : ∃ t, o = .next t := by
  cases o with
  | next t => exact ⟨t, rfl⟩
  | _ => cases h

theorem witness_StepKeepsMemory : memWf stepS = true ∧ ∃ t, step stepS = .next t :=
  ⟨by decide +kernel, next_of_goesOn (by decide +kernel)⟩

end Sys2Proof.Tests
end

section
/-! PROOFS. The module after reset: its byte memories, the registers of a tenant context, and what it holds (R316, Table 13-4). -/

namespace Sys2Proof.Proofs

open Sys2Proof.Machine Sys2Proof.Laws

/-- A memory that lists nothing reads 0 everywhere. -/
@[simp] theorem mget_nil (a : Nat) : mget [] a = 0 := rfl

/-- R122, log 2: no byte memory of the module lists anything after reset, so each reads as an empty one does. -/
theorem reset_memories_read_zero (a : Nat) :
    mget State.reset.dram a = 0 ∧ mget State.reset.dsp a = 0 ∧ mget State.reset.pool a = 0 ∧
      mget State.reset.hostMem a = 0 ∧ mget State.reset.mgmt.stage a = 0 :=
  ⟨mget_nil a, mget_nil a, mget_nil a, mget_nil a, mget_nil a⟩

/-- Table 13-4: the registers of a tenant context that nothing has written yet. -/
theorem ctx_reset_values :
    let c : Ctx := {}
    c.quantum = 16 ∧ c.leaseCap = 64 ∧ c.grgWait = 4096 ∧ c.migLive = 0x8000000001000020 ∧ c.ageSteal = 3000 ∧
      c.gbp = [0, 0, 0, 0] ∧ c.trapVec = 0 ∧ c.split = 0x10200C18 ∧ c.splitLimit = 0x228302024 ∧ c.bfqWait = 6000 ∧
      c.trc = List.replicate 16 0 :=
  ⟨rfl, rfl, rfl, rfl, rfl, rfl, rfl, rfl, rfl, rfl, rfl⟩

/-- Settles O58: the memories by their canonical form and by what an empty one reads, a context by its own lemma; every other
field is the value that reset gives it. -/
theorem resetState : Obligations.ResetState := by
  unfold Obligations.ResetState
  refine ⟨memWf_reset,
    -- partitions, what runs in them, and the commands, queues and rows of their engines
    rfl, rfl, rfl, rfl, rfl, rfl, rfl, rfl, rfl, rfl, rfl, rfl,
    -- what is left of ended blocks, queued, posted, poisoned, translated or held in lines
    rfl, rfl, rfl, rfl, rfl, rfl, rfl, rfl, rfl, rfl, rfl,
    -- the clocks and the arbiter
    rfl, rfl, rfl, rfl,
    reset_memories_read_zero,
    -- the management window
    rfl, rfl, rfl,
    ctx_reset_values⟩

end Sys2Proof.Proofs
end

section
/-! PROOFS. A step runs the instruction that is decoded where its path stands (R30, R34 to R37, R44, R169, R389): what a fetch and the
issue of a path give, the turn of each kind of step, and what may issue in slot 1. -/

namespace Sys2Proof.Proofs

open Sys2Proof Sys2Proof.Machine Sys2Proof.Claims

/-! ### The issue of a path -/

/-- R169: words that decode are fetched as their instruction. -/
theorem fetch_of_decoded {s : State} {b : Block} {pc : DWord} {i : Instr} {n : Nat}
    (h : decodeWords (fetchWords s b pc) = .ok (i, n)) : fetch s b pc = (i, n, (fetchWords s b pc).getD (n - 1) 0) := by
  simp only [fetch, h]

/-- R389: words that are no instruction are fetched as the pseudo-instruction that raises their cause. -/
theorem fetch_of_undecoded {s : State} {b : Block} {pc : DWord} {w : BadWord}
    (h : decodeWords (fetchWords s b pc) = .error w) :
    fetch s b pc = (.nonInstructionWord w, w.len, (fetchWords s b pc).getD (w.len - 1) 0) := by
  simp only [fetch, h]

/-- R30, R169, R389: a path that issues in `s` issues what is decoded at its native PC, in the state that `IssuesIn` names. -/
theorem issuePath_of_issuesIn {s : State} {blk grp : Nat} {lanes : BitVec 32} {paths : Nat} {i : Instr} {t : State}
    (h : IssuesIn s blk grp lanes paths i t) : issuePath s blk grp lanes paths = .ok { instr := i, state := t } := by
  obtain ⟨b, g, l, ls, n, hb, hg, hlanes, howned, hclean, hdec, rfl⟩ := h
  have hfetch : fetch s b (g.lane l).npc = (i, n, (fetchWords s b (g.lane l).npc).getD (n - 1) 0) := by
    obtain hok | ⟨w, herr, rfl, rfl⟩ := hdec
    · exact fetch_of_decoded hok
    · exact fetch_of_undecoded herr
  simp only [issuePath, hb, hg, hlanes, hfetch, howned, hclean, Bool.false_eq_true, if_false]

/-! ### The turn of a step -/

/-- A step executes the instruction of its turn in the turn's state, and settles what follows. -/
theorem step_of_nextTurn {s t : State} {i : Instr} (h : nextTurn s = .ok { instr := i, state := t }) :
    step s = settled (exec i t) := by
  simp only [step, h]
  cases exec i t <;> rfl

/-- A step whose turn is the issue of a path executes the instruction at its native PC. -/
theorem step_of_issuesIn {s u t : State} {blk grp : Nat} {lanes : BitVec 32} {paths : Nat} {i : Instr}
    (hturn : nextTurn s = issuePath u blk grp lanes paths) (h : IssuesIn u blk grp lanes paths i t) :
    step s = settled (exec i t) :=
  step_of_nextTurn (hturn.trans (issuePath_of_issuesIn h))

/-- Log 9: slot 1 of the cycle under way has the turn, without time going on. -/
theorem nextTurn_slotOne {s : State} {x : SlotOne} (h : s.slot1 = some x) :
    nextTurn s = issuePath (passTick { s with slot1 := none }) x.blk x.grp (x.here s) x.paths := by
  simp only [nextTurn, h]

/-- Log 12: the path that the agenda names has the turn, when it can issue in the new cycle. -/
theorem nextTurn_agendaIssue {s : State} {blk grp lane : Nat} {rest : List Turn} {r : Ready} {b : Block} {g : Group}
    (hslot : s.slot1 = none) (hagenda : s.agenda = .issue blk grp lane :: rest)
    (hr : pathOfLane (newCycle { s with agenda := rest }) blk grp lane = some r)
    (hb : blockOf (newCycle { s with agenda := rest }) blk = some b)
    (hg : groupOf (newCycle { s with agenda := rest }) blk grp = some g) :
    nextTurn s = issuePath (opportunity (newCycle { s with agenda := rest }) b.core g.sub blk grp r none) blk grp r.lanes
      (pathCount g) := by
  simp only [nextTurn, hslot, hagenda] at hr hb hg ⊢
  simp only [hr, hb, hg]

/-- R5: an event that the agenda names takes place. -/
theorem nextTurn_agendaEvent {s : State} {e : Instr} {rest : List Turn} (hslot : s.slot1 = none)
    (hagenda : s.agenda = .event e :: rest) (he : Turn.isEvent e = true) :
    nextTurn s = .ok { instr := e, state := turnTime e { s with agenda := rest } } := by
  simp only [nextTurn, hslot, hagenda, he, if_true]

/-- R34, R40, R41: with nothing under way and an empty agenda the scheduler has the turn, after the swaps that are due. -/
theorem nextTurn_scheduler {s : State} (hslot : s.slot1 = none) (hagenda : s.agenda = []) :
    nextTurn s = issueNext (dueSwaps (newCycle s)) := by
  simp only [nextTurn, hslot, hagenda]

/-- R34 to R37: the scheduler issues slot 0 of the chosen group, with what goes beside it in slot 1. -/
theorem issueNext_of_chosen {u : State} {core sub blk grp : Nat} {b : Block} {g : Group} {r0 : Ready} {r1 : Option Ready}
    (hchoice : chooseGroup u = some (core, sub, blk, grp)) (hb : blockOf u blk = some b) (hg : groupOf u blk grp = some g)
    (hslots : slots core (quantumOf (ctxOf u b.part b.ctx)) g = some (r0, r1)) :
    issueNext u = issuePath
      (opportunity (if (secondSlot u b g r0 r1).isSome then countEvent u b.part b.ctx 0x005 1 else u) core sub blk grp r0
        (secondSlot u b g r0 r1)) blk grp r0.lanes (pathCount g) := by
  simp only [issueNext, hchoice, hb, hg, hslots]

/-! ### Slot 1 -/

/-- R44: another path issues in slot 1, unless both instructions are uniform. -/
theorem secondSlot_some (s : State) (b : Block) (g : Group) (r0 r : Ready) :
    secondSlot s b g r0 (some r) = if uniformAt s b r0.pc && uniformAt s b r.pc then none else some r := rfl

/-- R37: without another path, slot 1 has what may follow in the only one. -/
theorem secondSlot_none (s : State) (b : Block) (g : Group) (r0 : Ready) : secondSlot s b g r0 none = follower s b g r0 := rfl

/-- R37: what a following instruction that issues beside the one before it satisfies. -/
theorem follower_eq_some {s : State} {b : Block} {g : Group} {r0 x : Ready} (h : follower s b g r0 = some x) :
    Config.isLCore b.core = true ∧ g.stepMode = 0 ∧ (∀ r ∈ g.ready, r = r0) ∧
      x.lanes = r0.lanes ∧ x.pc = r0.pc + BitVec.ofNat 64 (4 * (fetch s b r0.pc).2.1) ∧
      pairs (fetch s b r0.pc).1 (fetch s b x.pc).1 = true ∧
      ∀ r ∈ spawnReads s b g (fetch s b x.pc).1, r ∉ resWrites (fetch s b r0.pc).1 := by
  unfold follower at h
  obtain ⟨hcond, hx⟩ := Option.ite_none_right_eq_some.1 h
  obtain rfl := Option.some.inj hx
  simp only [Bool.and_eq_true, decide_eq_true_eq, List.isEmpty_iff, List.filter_eq_nil_iff, Decidable.not_not, ne_eq,
    Bool.not_eq_true', List.any_eq_false, List.contains_iff_mem] at hcond
  obtain ⟨⟨⟨⟨hcore, hmode⟩, honly⟩, hpairs⟩, hspawn⟩ := hcond
  exact ⟨hcore, hmode, honly, rfl, rfl, hpairs, hspawn⟩

/-- Settles O57: each kind of turn by its equation for `nextTurn`, with what the issue of a path gives; slot 1 by what a follower is. -/
theorem stepRunsDecoded : Obligations.StepRunsDecoded := by
  unfold Obligations.StepRunsDecoded
  refine ⟨?slotOne, ?agendaIssue, ?scheduler, ?otherPath, ?following, ?agendaEvent⟩
  case slotOne =>
    intro s x i t hslot hissue
    exact step_of_issuesIn (nextTurn_slotOne hslot) hissue
  case agendaIssue =>
    intro s blk grp lane rest r b g i t hslot hagenda u hr hb hg hissue
    exact step_of_issuesIn (nextTurn_agendaIssue hslot hagenda hr hb hg) hissue
  case scheduler =>
    intro s core sub blk grp b g r0 r1 i t hslot hagenda u hchoice hb hg hslots r1' v hissue
    exact step_of_issuesIn ((nextTurn_scheduler hslot hagenda).trans (issueNext_of_chosen hchoice hb hg hslots)) hissue
  case otherPath =>
    exact secondSlot_some
  case following =>
    intro s b g r0 x hfollows
    exact follower_eq_some ((secondSlot_none s b g r0).symm.trans hfollows)
  case agendaEvent =>
    intro s e rest hslot hagenda he
    exact step_of_nextTurn (nextTurn_agendaEvent hslot hagenda he)

end Sys2Proof.Proofs
end

section
/-! PROOFS. The integer compares (R216): the predicate fields that discard a result, what each relation asks of two words, and
what a compare does in its executing lanes. -/

namespace Sys2Proof.Proofs

open Sys2Proof Sys2Proof.Machine Sys2Proof.Claims Sys2Proof.Laws

/-! ### Predicate fields that discard -/

/-- A predicate number from 24 on is not written: R174 says so of 31, and for 24 to 30, which it reserves, it is the model's
choice. -/
theorem setPred_of_ge (l : Lane) {n : Nat} (h : 24 ≤ n) (v : Bool) : l.setPred n v = l :=
  if_neg (Nat.not_lt.2 h)

/-- PWR (R189) to such a field has no effect. -/
theorem pwr_of_ge (l : Lane) {pd : BitVec 5} (h : 24 ≤ pd.toNat) (comb : BitVec 2) (t : Bool) :
    l.pwr pd comb t = l :=
  setPred_of_ge l h _

/-! ### The ten relations, as relations of bit vectors -/

section Relations

variable {n : Nat} (x y : BitVec n)

@[simp] theorem rel_holds_eq : Rel.eq.holds x y = (x == y) := rfl

@[simp] theorem rel_holds_ne : Rel.ne.holds x y = (x != y) := decide_not

@[simp] theorem rel_holds_lts : Rel.lts.holds x y = x.slt y := rfl

@[simp] theorem rel_holds_les : Rel.les.holds x y = x.sle y := rfl

@[simp] theorem rel_holds_gts : Rel.gts.holds x y = y.slt x := rfl

@[simp] theorem rel_holds_ges : Rel.ges.holds x y = y.sle x := rfl

@[simp] theorem rel_holds_ltn : Rel.ltn.holds x y = x.ult y := rfl

@[simp] theorem rel_holds_len : Rel.len.holds x y = x.ule y := rfl

@[simp] theorem rel_holds_gtn : Rel.gtn.holds x y = y.ult x := rfl

@[simp] theorem rel_holds_gen : Rel.gen.holds x y = y.ule x := rfl

end Relations

/-! ### The ten compares -/

/-- R216: the `icmp` instruction of each relation. -/
def icmpOf (r : Rel) : BitVec 5 → BitVec 2 → BitVec 7 → BitVec 7 → LExt → Instr :=
  match r with
  | .eq => .icmpEq
  | .ne => .icmpNe
  | .lts => .icmpLts
  | .les => .icmpLes
  | .gts => .icmpGts
  | .ges => .icmpGes
  | .ltn => .icmpLtn
  | .len => .icmpLen
  | .gtn => .icmpGtn
  | .gen => .icmpGen

/-- R216: each `icmp` executes the one shared compare, by its own relation. -/
theorem exec_icmpOf (r : Rel) (pd : BitVec 5) (comb : BitVec 2) (a b : BitVec 7) (x : LExt) (s : State) :
    exec (icmpOf r pd comb a b x) s = compare (icmpOf r pd comb a b x) x r pd comb a b s := by
  cases r <;> rfl

/-- R216: an `icmp` writes PWR of its relation in its executing lanes, and changes nothing else. -/
theorem pred2_icmpOf (r : Rel) {t : Word → Word → Bool} (ht : ∀ u v, r.holds u v = t u v) : Pred2 (icmpOf r) t := by
  intro pd comb a b x s p hruns
  simp only [exec_icmpOf, ← ht]
  exact laneMap_next hruns _

/-- Settles O4: every `icmp` writes PWR of its relation, which is the relation of words that the claim names; a result for
field 31 is discarded. -/
theorem compareResults : Obligations.CompareResults := by
  unfold Obligations.CompareResults
  refine ⟨?eq, ?ne, ?lts, ?les, ?gts, ?ges, ?ltn, ?len, ?gtn, ?gen, ?discard⟩
  case eq => exact pred2_icmpOf .eq rel_holds_eq
  case ne => exact pred2_icmpOf .ne rel_holds_ne
  case lts => exact pred2_icmpOf .lts rel_holds_lts
  case les => exact pred2_icmpOf .les rel_holds_les
  case gts => exact pred2_icmpOf .gts rel_holds_gts
  case ges => exact pred2_icmpOf .ges rel_holds_ges
  case ltn => exact pred2_icmpOf .ltn rel_holds_ltn
  case len => exact pred2_icmpOf .len rel_holds_len
  case gtn => exact pred2_icmpOf .gtn rel_holds_gtn
  case gen => exact pred2_icmpOf .gen rel_holds_gen
  case discard => exact fun m comb t => pwr_of_ge m (by decide) comb t

end Sys2Proof.Proofs
end

section
/-! PROOFS. The f32 compares (R243): the order of two values from either side, the zeros of the two signs, what each relation
asks of two values, and what a compare does in its executing lanes. -/

namespace Sys2Proof.Proofs

open Sys2Proof Sys2Proof.Machine Sys2Proof.Claims Sys2Proof.Laws

/-! ### Equality of values -/

/-- Two values have the same keys from either side: only the order of the pair turns. -/
theorem cmpKeys_swap (u v : Val) : (u.cmpKeys v).swap = v.cmpKeys u := by
  cases u with
  | nan => cases v <;> rfl
  | inf s => cases v <;> rfl
  | fin s n e =>
    cases v with
    | nan => rfl
    | inf t => rfl
    | fin t m g => simp only [Val.cmpKeys, Prod.swap_prod_mk, min_comm]

theorem eqv_comm (u v : Val) : u.eqv v = v.eqv u := by
  simp only [Val.eqv, ← cmpKeys_swap u v, Prod.fst_swap, Prod.snd_swap, eq_comm]

@[simp] theorem scaled_zero (neg : Bool) (exp e : Int) : scaled neg 0 exp e = 0 := by
  simp [scaled]

/-- R243: zeros compare equal, whatever their signs. -/
theorem eqv_zeros (s t : Bool) (e g : Int) : (Val.fin s 0 e).eqv (Val.fin t 0 g) = true := by
  simp [Val.eqv, Val.cmpKeys]

/-- R151: the f32 codes of the zeros, whose value `.ftz` leaves as it is. -/
theorem decode_f32_zero (ftz neg : Bool) : f32.decode ftz (f32.signed neg 0) = .fin neg 0 (-149) := by
  cases ftz <;> cases neg <;> decide

/-! ### The eight relations, as relations of values -/

section Relations

variable (u v : Val)

@[simp] theorem frel_holds_eq : FRel.eq.holds u v = (!u.isNan && !v.isNan && u.eqv v) := by
  simp only [FRel.holds, Bool.not_or]

@[simp] theorem frel_holds_ne : FRel.ne.holds u v = (u.isNan || v.isNan || !u.eqv v) := rfl

@[simp] theorem frel_holds_lt : FRel.lt.holds u v = (!u.isNan && !v.isNan && u.lt v) := by
  simp only [FRel.holds, Bool.not_or]

@[simp] theorem frel_holds_le : FRel.le.holds u v = (!u.isNan && !v.isNan && (u.lt v || u.eqv v)) := by
  simp only [FRel.holds, Bool.not_or]

@[simp] theorem frel_holds_gt : FRel.gt.holds u v = (!u.isNan && !v.isNan && v.lt u) := by
  simp only [FRel.holds, Bool.not_or]

/-- The model asks whether u equals v, which is whether v equals u. -/
@[simp] theorem frel_holds_ge : FRel.ge.holds u v = (!u.isNan && !v.isNan && (v.lt u || v.eqv u)) := by
  simp only [FRel.holds, Bool.not_or, eqv_comm u v]

@[simp] theorem frel_holds_un : FRel.un.holds u v = (u.isNan || v.isNan) := rfl

@[simp] theorem frel_holds_ord : FRel.ord.holds u v = !(u.isNan || v.isNan) := rfl

end Relations

/-! ### The eight compares -/

/-- R243: the `fcmp` instruction of each relation. -/
def fcmpOf (r : FRel) : BitVec 5 → BitVec 2 → BitVec 7 → BitVec 7 → LExt → Instr :=
  match r with
  | .eq => .fcmpEq
  | .ne => .fcmpNe
  | .lt => .fcmpLt
  | .le => .fcmpLe
  | .gt => .fcmpGt
  | .ge => .fcmpGe
  | .un => .fcmpUn
  | .ord => .fcmpOrd

/-- R243: each `fcmp` executes the one shared compare, by its own relation. -/
theorem exec_fcmpOf (r : FRel) (pd : BitVec 5) (comb : BitVec 2) (a b : BitVec 7) (x : LExt) (s : State) :
    exec (fcmpOf r pd comb a b x) s = fcompare (fcmpOf r pd comb a b x) x r pd comb a b s := by
  cases r <;> rfl

/-- R243: an `fcmp` writes PWR of its relation of the f32 values in its executing lanes, and changes nothing else. -/
theorem fpred2_fcmpOf (r : FRel) {t : Val → Val → Bool} (ht : ∀ u v, r.holds u v = t u v) : FPred2 (fcmpOf r) t := by
  intro pd comb a b x s p hruns
  simp only [exec_fcmpOf, ← ht]
  exact laneMap_next hruns _

/-- Settles O8: every `fcmp` writes PWR of its relation, which is the relation of f32 values that the claim names; −0 and +0
are zeros, which compare equal; a result for field 31 is discarded. -/
theorem floatCompareResults : Obligations.FloatCompareResults := by
  unfold Obligations.FloatCompareResults
  refine ⟨?eq, ?ne, ?lt, ?le, ?gt, ?ge, ?un, ?ord, ?zeros, ?discard⟩
  case eq => exact fpred2_fcmpOf .eq frel_holds_eq
  case ne => exact fpred2_fcmpOf .ne frel_holds_ne
  case lt => exact fpred2_fcmpOf .lt frel_holds_lt
  case le => exact fpred2_fcmpOf .le frel_holds_le
  case gt => exact fpred2_fcmpOf .gt frel_holds_gt
  case ge => exact fpred2_fcmpOf .ge frel_holds_ge
  case un => exact fpred2_fcmpOf .un frel_holds_un
  case ord => exact fpred2_fcmpOf .ord frel_holds_ord
  case zeros =>
    intro ftz
    have hneg : f32.decode ftz 0x80000000 = .fin true 0 (-149) := decode_f32_zero ftz true
    have hpos : f32.decode ftz 0 = .fin false 0 (-149) := decode_f32_zero ftz false
    rw [hneg, hpos]
    exact eqv_zeros true false _ _
  case discard => exact fun m comb t => pwr_of_ge m (by decide) comb t

end Sys2Proof.Proofs
end

section
/-! PROOFS. Words of unassigned majors (R389, R392, Table 22-1): the majors that each half leaves unassigned, and what a base
word without an instruction decodes to. -/

namespace Sys2Proof.Proofs

open Sys2Proof Sys2Proof.Laws

/-! ### The half and the major of a word -/

/-- R168: the half of a word as its bit 31. -/
theorem isUniform_eq_getLsbD (w : Word) : isUniform w = w.getLsbD 31 := by
  have hbit : w.extractLsb' 31 1 = BitVec.ofBool (w.getLsbD 31) := by
    ext i hi
    obtain rfl : i = 0 := by omega
    simp
  rw [isUniform, hbit]
  cases w.getLsbD 31 <;> rfl

/-- R175: only major 0x3F is that of extension words. -/
theorem isExt_of_major_lt {w : Word} (h : (w.extractLsb' 25 6).toNat < 0x3F) : isExt w = false :=
  decide_eq_false fun hw => by simp [hw] at h

/-! ### Unassigned majors -/

/-- Table 22-1: the lane half assigns no major above 0x26, `mfrag`. -/
theorem decodeLaneBase_of_major_gt {w : Word} (h : 0x26 < (w.extractLsb' 25 6).toNat) (x : LExt) :
    decodeLaneBase w x = none := by
  unfold decodeLaneBase
  split
  case h_40 => rfl
  all_goals omega

/-- The majors up to 0x10, `gang`, are the head of the uniform half. -/
theorem decodeHeadBase_of_major_gt {w : Word} (h : 0x10 < (w.extractLsb' 25 6).toNat) (x : UExt) :
    decodeHeadBase w x = none := by
  unfold decodeHeadBase
  split
  case h_18 => rfl
  all_goals omega

/-- Table 22-1: the uniform half assigns no major above 0x19, `perf`. -/
theorem decodeUniformBase_of_major_gt {w : Word} (h : 0x19 < (w.extractLsb' 25 6).toNat) (x : UExt) :
    decodeUniformBase w x = none := by
  unfold decodeUniformBase
  split
  case h_10 => exact decodeHeadBase_of_major_gt (by omega) x
  all_goals omega

/-! ### A base word without an instruction -/

/-- R389, R391: a base word that no extension word precedes and that names no instruction of its half is a run of one word,
which raises cause 0x01 with itself. -/
theorem decodeWords_of_base_none {w : Word} (rest : List Word) (hext : isExt w = false)
    (hbase : (if isUniform w then decodeUniformBase w (uextOf []) else decodeLaneBase w (lextOf [])) = none) :
    decodeWords (w :: rest) = .error (badRun [] (isUniform w) 0x01 w 1) := by
  have hsplit : splitExts (w :: rest) = ([], w :: rest) := splitExts_append [] w rest (by simp) hext
  simp [decodeWords, hsplit, seqFault, hbase, judge]

/-- Settles O55: each half assigns no major of its range, and extension words lie above both ranges, so the word is a base
word without an instruction. -/
theorem unassignedMajors : Obligations.UnassignedMajors := by
  unfold Obligations.UnassignedMajors
  intro w rest hmajor
  have hext : isExt w = false := isExt_of_major_lt (by omega)
  have hbase : (if isUniform w then decodeUniformBase w (uextOf []) else decodeLaneBase w (lextOf [])) = none := by
    rw [isUniform_eq_getLsbD]
    obtain ⟨hlane, hlow, -⟩ | ⟨huniform, hlow, -⟩ := hmajor
    · rw [hlane]
      exact decodeLaneBase_of_major_gt hlow _
    · rw [huniform]
      exact decodeUniformBase_of_major_gt hlow _
  exact ⟨_, decodeWords_of_base_none rest hext hbase, rfl, rfl, rfl, isUniform_eq_getLsbD w⟩

end Sys2Proof.Proofs
end

section
/-! PROOFS. Decoding what the encoder writes (R169, R175, R188): the base word of every instruction, and its extension words. -/

namespace Sys2Proof.Proofs

open Sys2Proof Sys2Proof.Laws

open BaseDecodes in
/-- The base word of every encoded instruction decodes to it: the law of each constructor, in their order. -/
theorem base_decodes (i : Instr) : BaseDecodes.Statement i :=
  Instr.casesOn (motive := BaseDecodes.Statement) i
    lsysNop lsysLane lsysTid lsysGrp lsysClk lsysBrk ialuAdd ialuSub ialuAnd ialuOr ialuXor ialuAndn ialuShl ialuShr ialuSar
    ialuMins ialuMaxs ialuMinn ialuMaxn ialuAbs iaddi andi ori xori ishiShl ishiShr ishiSar ishiRol movi movhi imulLo
    imulHis imulHin imulWides imulWiden imulMad ibitPopc ibitClz ibitCtz ibitBrev ibitBfxs ibitBfxn ibitBfi icmpEq icmpNe
    icmpLts icmpLes icmpGts icmpGes icmpLtn icmpLen icmpGtn icmpGen plogAnd plogOr plogXor plogAndn plogOrn cmovNz cmovZ
    cmovRdp cmovWrp lanexShfl lanexShflx lanexShflup lanexShfldn lanexBallot lanexAny lanexAll lanexMatch lanexRedadd
    lanexRedmins lanexRedmaxs lanexRedand lanexRedor lanexRedxor lanexNpath faddAdd faddSub faddMin faddMax faddAdd2h
    faddSub2h faddAdd2b faddSub2b faddAbs faddNeg faddCsgn fmulMul fmulMul2h fmulMul2b ffmaFma ffmaFma2h ffmaFma2b ffmaFms
    ffmaFnma fcmpEq fcmpNe fcmpLt fcmpLe fcmpGt fcmpGe fcmpUn fcmpOrd fspecRcp fspecRsqrt fspecSqrt fspecExp2 fspecLog2
    fspecSin fspecCos fspecTanh cvt narrowDot4s narrowDot4n narrowDot4e4 narrowDot4e5 narrowDot2b narrowDot2h narrowCbdecb
    narrowCbdech narrowCbdecf narrowPke4 narrowPke5 narrowMxpk narrowMxunpk narrowUpke4 narrowUpke5 f64Add f64Sub f64Mul
    f64Fma f64Min f64Max f64Abs f64Neg ld st ldl stl ldfe stfe atomAdd atomAnd atomOr atomXor atomXchg atomMins atomMaxs
    atomMinn atomMaxn atomAddf atomCas atomAdd64 atomXchg64 atomCas64 atomfxAdd atomfxFetch pref br brxJmp brxCall call
    ctlRet ctlExit ctlYield guestDispatch guestDispatchRg guestRdpc guestWrpc guestAddpc guestRdop guestWrop mmaAdd mmaSet
    mmaTri mmaTriset mfragRd mfragWr mfragZero usysNop usysSvc usysTlbiva usysTlbictx usysRti usysBrk ualuAdd ualuSub
    ualuAnd ualuOr ualuXor ualuShl ualuShr ualuSar ualuMul ualuMins ualuMaxs ualuMinn ualuMaxn uaddi umovi umovhi ucmpEq
    ucmpNe ucmpLts ucmpLes ucmpGts ucmpGes ucmpLtn ucmpLen ucmpGtn ucmpGen ucmpQand ucmpQor ucmpQxor ubr uld ust umovlFirst
    umovlLane barArrive barArriveCnt barWait barExpect barSync waitc cpyLin cpyRect cpyTens gatherIdx32 gatherIdx64
    collAllred collRedsc collAllgat collBcast collSparse collAlltoall mdrainSt mdrainAdd gangList gangLease gangRelease
    gangBaton taskSpawn taskPhase taskMerge migL migD migAuto regaGrowWait regaGrowTry regaShrink sysr sysw fenceSysRel
    fenceSysAcq fenceSysFull handleAlloc handleRetire handleFill handleClear handleSumm handleShape bfqBind bfqJoin
    bfqUnbind perfRd perfSel perfMark perfSample rmaWrite rmaRead launchWord invalidControlAccess pctlEnClear pctlEnSet
    registerGraph unregisterGraph attestationReport formatWindowSetup collectiveMemberTable windowGrant eventLogRead
    writePartitionDescriptor createTenantContext destroyTenantContext configureEndpointContext lendConstellation
    reclaimConstellation setCapAndMode writeFirmwareChunk registerWrite launchStart nodeStart blockPlacement sameClassMove
    launchEnd groupSwap pendingAgeSwap regroupTimeout migrate recordClaim recordStealable leaseGrant leasePass
    matrixOpComplete bfqWaitExpiry bfqWriteback bfqAutoUnbind engineWrite engineCommandComplete collectiveExchange
    engineCommandFault feWatchdog stopImageWrite regaGrant pcSample l1LeaseExpiry bisnpdata bisnpinv l2Eviction
    poolStoreMerge hostWriteAck arbiterWindow currentClamp thermalThrottle thermalCapRestore thermalShutdown sliceExpiry
    graceExpiry haltComplete killExpiry ptpMessage portDown portUp hostWindowLost cxlPortFail poolLost correctableError
    uncorrectableError dramScrub isolationViolation powerOnReset partitionReset versionFree memoryAccessComplete
    nonInstructionWord ptpLost cxlPortRecover mgoWriteWhileBusy unknownRequestKind

/-- The words of a lane instruction: its extension words, then its base word. -/
theorem encode_lane {i : Instr} {w : Word} {x : LExt} (hbase : i.base = some w) (hlext : i.lext = some x) :
    encode i = x.words ++ [w] := by
  simp only [encode, hbase, hlext]

/-- The words of a uniform instruction: its extension words, then its base word. -/
theorem encode_uniform {i : Instr} {w : Word} {x : UExt} (hbase : i.base = some w) (hlext : i.lext = none)
    (huext : i.uext = some x) : encode i = x.words ++ [w] := by
  simp only [encode, hbase, hlext, huext]

/-- A well-formed lane instruction is decoded from its words. -/
theorem decodeWords_encode_lane {i : Instr} {w : Word} {x : LExt} (rest : List Word) (hwf : i.wf = true)
    (hbase : i.base = some w) (hlext : i.lext = some x) (hext : isExt w = false) (hhalf : isUniform w = false)
    (hdec : decodeLaneBase w x = some i) : decodeWords (encode i ++ rest) = .ok (i, (encode i).length) := by
  obtain ⟨hwords, hrepeat, hread⟩ := lext_words x
  rw [encode_lane hbase hlext, List.append_assoc, List.length_append]
  refine decode_run x.words w rest i false (fun e he => (hwords e he).1) hext (fun e he => (hwords e he).2.1) hhalf
    (seqFault_none _ _ (fun e he => (hwords e he).2.1.trans hhalf.symm) (fun e he hu => ?_) hrepeat) ?_
  · exact absurd ((hwords e he).2.1.symm.trans hu) Bool.false_ne_true
  · rw [if_neg Bool.false_ne_true, hread, hdec]
    exact judge_ok _ _ _ hwf hbase fun e he => (hwords e he).2.2

/-- A well-formed uniform instruction is decoded from its words. -/
theorem decodeWords_encode_uniform {i : Instr} {w : Word} {x : UExt} (rest : List Word) (hwf : i.wf = true)
    (hbase : i.base = some w) (hlext : i.lext = none) (huext : i.uext = some x) (hext : isExt w = false)
    (hhalf : isUniform w = true) (hdec : decodeUniformBase w x = some i) :
    decodeWords (encode i ++ rest) = .ok (i, (encode i).length) := by
  obtain ⟨hwords, hrepeat, hread⟩ := uext_words x
  rw [encode_uniform hbase hlext huext, List.append_assoc, List.length_append]
  refine decode_run x.words w rest i true (fun e he => (hwords e he).1) hext (fun e he => (hwords e he).2.1) hhalf
    (seqFault_none _ _ (fun e he => (hwords e he).2.1.trans hhalf.symm) (fun e he _ => (hwords e he).2.2.2) hrepeat) ?_
  rw [if_pos rfl, hread, hdec]
  exact judge_ok _ _ _ hwf hbase fun e he => (hwords e he).2.2.1

/-- Settles O56: an encoded instruction is of one half alone, and is decoded from its words there. -/
theorem roundTrip : Obligations.RoundTrip := by
  unfold Obligations.RoundTrip
  intro i rest hwf hsome
  obtain ⟨w, hbase⟩ := Option.isSome_iff_exists.1 hsome
  obtain ⟨hext, hhalf, hone, hlane, huniform⟩ := base_decodes i w hbase
  cases huext : i.uext with
  | none =>
    rw [huext] at hhalf hone
    obtain ⟨x, hlext⟩ := Option.isSome_iff_exists.1 hone
    exact decodeWords_encode_lane rest hwf hbase hlext hext hhalf (hlane x hlext)
  | some x =>
    rw [huext] at hhalf hone
    exact decodeWords_encode_uniform rest hwf hbase (Option.not_isSome_iff_eq_none.1 (by simp [hone])) huext hext hhalf
      (huniform x huext)

end Sys2Proof.Proofs
end

section
/-! PROOFS. The integer lane instructions (R209 to R215): what a shape of lane instruction claims, and each word function of the
model as the claim writes it. -/

namespace Sys2Proof.Proofs

open Sys2Proof Sys2Proof.Machine Sys2Proof.Claims Sys2Proof.Laws

/-! ### From the model's shapes to the claims' -/

/-- Only what a lane instruction does to its executing lanes counts. -/
theorem laneNext_congr {s : State} {p : Path} {i : Instr} {x : LExt} {f h : Nat → Lane → Lane → Lane}
    (hfh : ∀ n ∈ p.exec x, f n (p.g.lane n) (goTo (p.g.lane n) p.iss.next) = h n (p.g.lane n) (goTo (p.g.lane n) p.iss.next)) :
    laneNext s p i x f = laneNext s p i x h := by
  have hlanes : withLanes p (fun n _ => let l := p.g.lane n
      if guardHolds x l then f n l (goTo l p.iss.next) else goTo l p.iss.next) =
    withLanes p (fun n _ => let l := p.g.lane n
      if guardHolds x l then h n l (goTo l p.iss.next) else goTo l p.iss.next) := by
    funext g
    simp only [withLanes]
    congr 2
    funext n l
    split
    · next hn =>
      split
      · next hg => exact hfh n (List.mem_filter.2 ⟨hn, hg⟩)
      · rfl
    · rfl
  unfold laneNext
  rw [hlanes]

/-- A lane instruction that is a `laneMap` has its effect on its executing lanes and no other. -/
theorem own_of_laneMap {mk : LExt → Instr} {v : LExt → Path → Nat → Lane → Lane → Lane}
    (f : LExt → Path → Nat → Lane → Lane → Lane) (hexec : ∀ x s, exec (mk x) s = laneMap (mk x) x (f x) s)
    (hv : ∀ x s p, Runs s p (mk x) x → ∀ n ∈ p.exec x,
      f x p n (p.g.lane n) (goTo (p.g.lane n) p.iss.next) = v x p n (p.g.lane n) (goTo (p.g.lane n) p.iss.next)) :
    Own mk v := by
  intro x s p hruns
  rw [hexec, laneMap_next hruns, laneNext_congr (hv x s p hruns)]

theorem word2_of_lane2 {mk : BitVec 7 → BitVec 7 → BitVec 7 → LExt → Instr} {v : LExt → Word → Word → Word}
    (f : LExt → Word → Word → Word)
    (hexec : ∀ d a b x s, exec (mk d a b x) s = lane2 (mk d a b x) x d a b (f x) s) (hv : ∀ x u w, f x u w = v x u w) :
    Word2 mk v :=
  fun d a b => own_of_laneMap _ (hexec d a b) fun _ _ _ _ _ _ => by rw [hv]

theorem word1_of_lane1 {mk : BitVec 7 → BitVec 7 → LExt → Instr} {v : LExt → Word → Word} (f : LExt → Word → Word)
    (hexec : ∀ d a x s, exec (mk d a x) s = lane1 (mk d a x) x d a (f x) s) (hv : ∀ x u, f x u = v x u) : Word1 mk v :=
  fun d a => own_of_laneMap _ (hexec d a) fun _ _ _ _ _ _ => by rw [hv]

theorem word3_of_lane3 {mk : BitVec 7 → BitVec 7 → BitVec 7 → LExt → Instr} {v : LExt → Word → Word → Word → Word}
    (f : LExt → Word → Word → Word → Word)
    (hexec : ∀ d a b x s, exec (mk d a b x) s = lane3 (mk d a b x) x d a b (f x) s)
    (hv : ∀ x u w z, f x u w z = v x u w z) : Word3 mk v :=
  fun d a b => own_of_laneMap _ (hexec d a b) fun _ _ _ _ _ _ => by rw [hv]

/-! ### Arithmetic and shifts (R209) -/

theorem satW_eq_sat32 (x : LExt) (v : Int) : satW x v = sat32 x v := rfl

/-- Without `.sat` the low 32 bits of a value remain. -/
theorem satW_of_word (x : LExt) {v : Int} {w : Word} (h : BitVec.ofInt 32 v = w) :
    satW x v = if satOf x then sat32 x v else w := by
  rw [satW_eq_sat32, ← h]
  cases hs : satOf x <;> simp [sat32, hs]

theorem ofInt_toInt_add (u v : Word) : BitVec.ofInt 32 (u.toInt + v.toInt) = u + v := by
  rw [BitVec.ofInt_add, BitVec.ofInt_toInt, BitVec.ofInt_toInt]

theorem ofInt_toInt_sub (u v : Word) : BitVec.ofInt 32 (u.toInt - v.toInt) = u - v := by
  rw [Int.sub_eq_add_neg, BitVec.ofInt_add, BitVec.ofInt_neg, BitVec.ofInt_toInt, BitVec.ofInt_toInt, BitVec.sub_eq_add_neg]

theorem ofInt_toInt_mul (u v : Word) : BitVec.ofInt 32 (u.toInt * v.toInt) = u * v := by
  rw [BitVec.ofInt_mul, BitVec.ofInt_toInt, BitVec.ofInt_toInt]

theorem shlW_eq (u v : Word) :
    shlW u v = if v.toNat < 32 then BitVec.ofNat 32 (u.toNat * 2 ^ v.toNat) else 0 := by
  unfold shlW
  by_cases h : v.toNat < 32
  · rw [if_neg (by omega), if_pos h]
    apply BitVec.eq_of_toNat_eq
    simp [BitVec.toNat_shiftLeft, Nat.shiftLeft_eq]
  · rw [if_pos (by omega), if_neg h]

theorem shrW_eq (u v : Word) :
    shrW u v = if v.toNat < 32 then BitVec.ofNat 32 (u.toNat / 2 ^ v.toNat) else 0 := by
  unfold shrW
  by_cases h : v.toNat < 32
  · rw [if_neg (by omega), if_pos h]
    apply BitVec.eq_of_toNat_eq
    have hlt : u.toNat / 2 ^ v.toNat < 2 ^ 32 := Nat.lt_of_le_of_lt (Nat.div_le_self _ _) u.isLt
    rw [BitVec.toNat_ushiftRight, Nat.shiftRight_eq_div_pow, BitVec.toNat_ofNat, Nat.mod_eq_of_lt hlt]
  · rw [if_pos (by omega), if_neg h]

/-- A shift right that copies the sign divides by a power of two, rounding down. -/
theorem sshiftRight_eq_ofInt (u : Word) (n : Nat) : u.sshiftRight n = BitVec.ofInt 32 (u.toInt / 2 ^ n) := by
  rw [BitVec.sshiftRight, Int.shiftRight_eq_div_pow]
  norm_cast

/-- R209: a shift right by 32 and more leaves the sign in every bit. -/
theorem sarW_eq (u v : Word) :
    sarW u v = if v.toNat < 32 then BitVec.ofInt 32 (u.toInt / 2 ^ v.toNat)
      else if u.toInt < 0 then BitVec.ofInt 32 (-1) else 0 := by
  unfold sarW
  rw [sshiftRight_eq_ofInt]
  have hlo := BitVec.le_toInt u
  have hhi := BitVec.toInt_lt (x := u)
  by_cases h : v.toNat < 32
  · rw [if_pos h, Nat.min_eq_left (by omega)]
  · rw [if_neg h, Nat.min_eq_right (by omega)]
    by_cases hneg : u.toInt < 0
    · rw [if_pos hneg, show u.toInt / 2 ^ 31 = -1 by omega]
    · rw [if_neg hneg, show u.toInt / 2 ^ 31 = 0 by omega]
      rfl

/-- The word chosen by a test of the signed values is the word of the value chosen. -/
theorem ite_toInt (u v : Word) (c : Prop) [Decidable c] :
    (if c then u else v) = BitVec.ofInt 32 (if c then u.toInt else v.toInt) := by
  split <;> rw [BitVec.ofInt_toInt]

theorem ite_toNat (u v : Word) (c : Prop) [Decidable c] :
    (if c then u else v) = BitVec.ofNat 32 (if c then u.toNat else v.toNat) := by
  split <;> rw [BitVec.ofNat_toNat, BitVec.setWidth_eq]

theorem mins_eq (u v : Word) : (if u.toInt < v.toInt then u else v) = BitVec.ofInt 32 (min u.toInt v.toInt) := by
  rw [ite_toInt]
  congr 1
  omega

theorem maxs_eq (u v : Word) : (if u.toInt < v.toInt then v else u) = BitVec.ofInt 32 (max u.toInt v.toInt) := by
  rw [ite_toInt]
  congr 1
  omega

theorem minn_eq (u v : Word) : (if u.toNat < v.toNat then u else v) = BitVec.ofNat 32 (min u.toNat v.toNat) := by
  rw [ite_toNat]
  congr 1
  split <;> omega

theorem maxn_eq (u v : Word) : (if u.toNat < v.toNat then v else u) = BitVec.ofNat 32 (max u.toNat v.toNat) := by
  rw [ite_toNat]
  congr 1
  split <;> omega

/-- Settles O1: each `ialu` instruction is a lane instruction of one or two sources, whose word is that of Table 10-3. -/
theorem ialuResults : Obligations.IaluResults := by
  unfold Obligations.IaluResults
  refine ⟨?add, ?sub, ?and, ?or, ?xor, ?andn, ?shl, ?shr, ?sar, ?mins, ?maxs, ?minn, ?maxn, ?abs⟩
  case add => exact word2_of_lane2 (fun x u v => satW x (u.toInt + v.toInt)) (fun _ _ _ _ _ => rfl) fun x u v => satW_of_word x (ofInt_toInt_add u v)
  case sub => exact word2_of_lane2 (fun x u v => satW x (u.toInt - v.toInt)) (fun _ _ _ _ _ => rfl) fun x u v => satW_of_word x (ofInt_toInt_sub u v)
  case and => exact word2_of_lane2 (fun _ u v => u &&& v) (fun _ _ _ _ _ => rfl) fun _ _ _ => rfl
  case or => exact word2_of_lane2 (fun _ u v => u ||| v) (fun _ _ _ _ _ => rfl) fun _ _ _ => rfl
  case xor => exact word2_of_lane2 (fun _ u v => u ^^^ v) (fun _ _ _ _ _ => rfl) fun _ _ _ => rfl
  case andn => exact word2_of_lane2 (fun _ u v => u &&& ~~~v) (fun _ _ _ _ _ => rfl) fun _ _ _ => rfl
  case shl => exact word2_of_lane2 (fun _ => shlW) (fun _ _ _ _ _ => rfl) fun _ => shlW_eq
  case shr => exact word2_of_lane2 (fun _ => shrW) (fun _ _ _ _ _ => rfl) fun _ => shrW_eq
  case sar => exact word2_of_lane2 (fun _ => sarW) (fun _ _ _ _ _ => rfl) fun _ => sarW_eq
  case mins => exact word2_of_lane2 (fun _ u v => if u.toInt < v.toInt then u else v) (fun _ _ _ _ _ => rfl) fun _ => mins_eq
  case maxs => exact word2_of_lane2 (fun _ u v => if u.toInt < v.toInt then v else u) (fun _ _ _ _ _ => rfl) fun _ => maxs_eq
  case minn => exact word2_of_lane2 (fun _ u v => if u.toNat < v.toNat then u else v) (fun _ _ _ _ _ => rfl) fun _ => minn_eq
  case maxn => exact word2_of_lane2 (fun _ u v => if u.toNat < v.toNat then v else u) (fun _ _ _ _ _ => rfl) fun _ => maxn_eq
  case abs =>
    refine word1_of_lane1 (fun x u => satW x u.toInt.natAbs) (fun _ _ _ _ => rfl) fun x u => ?_
    rw [satW_eq_sat32, Int.abs_eq_natAbs]

/-! ### Immediates (R176, R210 to R212) -/

/-- A number read as two's complement is what the bit vector of it is. -/
theorem sext_toNat {n : Nat} (v : BitVec n) : sext v.toNat n = v.toInt := by
  have hlt := v.isLt
  rw [BitVec.toInt_eq_toNat_cond, sext, Nat.mod_eq_of_lt hlt]
  cases n with
  | zero => simp [BitVec.of_length_zero]
  | succ n =>
    have hpow : 2 ^ (n + 1) = 2 * 2 ^ n := by rw [Nat.pow_succ, Nat.mul_comm]
    simp only [Nat.add_sub_cancel, hpow]
    by_cases h : v.toNat < 2 ^ n
    · rw [if_pos h, if_pos (by omega)]
    · rw [if_neg h, if_neg (by omega)]

/-- R176: an IMM word stands above the immediate of the base word. -/
theorem toNat_append_imm {n : Nat} (k : BitVec 23) (imm : BitVec n) : (k ++ imm).toNat = k.toNat * 2 ^ n + imm.toNat := by
  rw [BitVec.toNat_append, Nat.shiftLeft_eq, Nat.mul_comm, Nat.two_pow_add_eq_or_of_lt imm.isLt]

theorem immS_eq_simm {n : Nat} (e : Option (BitVec 23)) (imm : BitVec n) : immS e imm.toNat n = simm e imm := by
  cases e with
  | none => exact sext_toNat imm
  | some k =>
    calc immS (some k) imm.toNat n = sext (k ++ imm).toNat (23 + n) := by
          rw [toNat_append_imm, Nat.add_comm 23 n]; rfl
      _ = simm (some k) imm := sext_toNat (k ++ imm)

theorem immU_eq_nimm {n : Nat} (e : Option (BitVec 23)) (imm : BitVec n) : immU e imm.toNat n = nimm e imm := by
  cases e with
  | none => rfl
  | some k => exact (toNat_append_imm k imm).symm

/-- R211: a rotation by less than 32 puts the bits that leave at the top back at the bottom. -/
theorem rolW_eq (u : Word) (n : BitVec 5) : rolW u n.toNat = u <<< n.toNat ||| u >>> (32 - n.toNat) := by
  rw [rolW, BitVec.rotateLeft_def, Nat.mod_eq_of_lt n.isLt]

/-- Settles O2: each immediate form is a lane instruction whose word is that of its immediate. -/
theorem immediateResults : Obligations.ImmediateResults := by
  unfold Obligations.ImmediateResults
  refine ⟨?iaddi, ?andi, ?ori, ?xori, ?shl, ?shr, ?sar, ?rol, ?movi, ?movhi⟩
  case iaddi =>
    exact fun imm => word1_of_lane1 (fun x u => satW x (u.toInt + immS x.imm imm.toNat 11)) (fun _ _ _ _ => rfl) fun x u => by rw [satW_eq_sat32, immS_eq_simm]
  case andi => exact fun imm => word1_of_lane1 (fun x u => u &&& toW (immS x.imm imm.toNat 11)) (fun _ _ _ _ => rfl) fun x u => by rw [toW, immS_eq_simm]
  case ori => exact fun imm => word1_of_lane1 (fun x u => u ||| toW (immS x.imm imm.toNat 11)) (fun _ _ _ _ => rfl) fun x u => by rw [toW, immS_eq_simm]
  case xori => exact fun imm => word1_of_lane1 (fun x u => u ^^^ toW (immS x.imm imm.toNat 11)) (fun _ _ _ _ => rfl) fun x u => by rw [toW, immS_eq_simm]
  case shl => exact fun n => word1_of_lane1 (fun _ u => u <<< n.toNat) (fun _ _ _ _ => rfl) fun _ _ => rfl
  case shr => exact fun n => word1_of_lane1 (fun _ u => u >>> n.toNat) (fun _ _ _ _ => rfl) fun _ _ => rfl
  case sar => exact fun n => word1_of_lane1 (fun _ u => u.sshiftRight n.toNat) (fun _ _ _ _ => rfl) fun _ u => sshiftRight_eq_ofInt u n.toNat
  case rol => exact fun n => word1_of_lane1 (fun _ u => rolW u n.toNat) (fun _ _ _ _ => rfl) fun _ u => rolW_eq u n
  case movi =>
    exact fun imm d => own_of_laneMap (fun x _ _ _ m => m.dst32 d (toW (immS x.imm imm.toNat 18))) (fun _ _ => rfl)
      fun x _ _ _ _ _ => by rw [toW, immS_eq_simm]
  case movhi =>
    exact fun imm d => own_of_laneMap (fun x _ _ _ m => m.dst32 d (BitVec.ofNat 32 (immU x.imm imm.toNat 18 * 2 ^ 14)))
      (fun _ _ => rfl) fun x _ _ _ _ _ => by rw [immU_eq_nimm]

end Sys2Proof.Proofs
end

section
/-! PROOFS. The multiplications and the bit instructions (R213 to R215): exact products, masks of lanes and of bits, counts of leading
and trailing zeros, and bit fields. -/

namespace Sys2Proof.Proofs

open Sys2Proof Sys2Proof.Machine Sys2Proof.Claims Sys2Proof.Laws

/-! ### Products (R213) -/

theorem toD_toInt_mul (u v : Word) : toD (u.toInt * v.toInt) = u.signExtend 64 * v.signExtend 64 :=
  BitVec.ofInt_mul ..

theorem ofNat_toNat_mul (u v : Word) : BitVec.ofNat 64 (u.toNat * v.toNat) = u.setWidth 64 * v.setWidth 64 := by
  rw [BitVec.ofNat_mul, BitVec.ofNat_toNat, BitVec.ofNat_toNat]

/-- The high half of the unsigned product. -/
theorem hin_eq (u v : Word) :
    BitVec.ofNat 32 (u.toNat * v.toNat / 2 ^ 32) = (u.setWidth 64 * v.setWidth 64).extractLsb' 32 32 := by
  have hlt : u.toNat * v.toNat < 2 ^ 32 * 2 ^ 32 := Nat.mul_lt_mul'' u.isLt v.isLt
  rw [← ofNat_toNat_mul]
  apply BitVec.eq_of_toNat_eq
  rw [BitVec.extractLsb'_toNat, BitVec.toNat_ofNat, BitVec.toNat_ofNat, Nat.mod_eq_of_lt (b := 2 ^ 64) (by omega),
    Nat.shiftRight_eq_div_pow]

theorem ofInt_toInt_mad (u v z : Word) : BitVec.ofInt 32 (u.toInt * v.toInt + z.toInt) = u * v + z := by
  rw [BitVec.ofInt_add, ofInt_toInt_mul, BitVec.ofInt_toInt]

/-! ### Masks -/

/-- The bits of a mask of some numbers. -/
theorem getLsbD_lanesMask (ls : List Nat) (k : Nat) : (lanesMask ls).getLsbD k = (decide (k < 32) && decide (k ∈ ls)) := by
  have hfold : ∀ m : BitVec 32, (ls.foldl (fun m i => m ||| BitVec.ofNat 32 (2 ^ i)) m).getLsbD k =
      (m.getLsbD k || (decide (k < 32) && decide (k ∈ ls))) := by
    induction ls with
    | nil => simp
    | cons j ls ih =>
      intro m
      rw [List.foldl_cons, ih, BitVec.getLsbD_or, BitVec.getLsbD_ofNat, Nat.testBit_two_pow, Bool.or_assoc,
        ← Bool.and_or_distrib_left, ← Bool.decide_or]
      simp only [List.mem_cons, eq_comm]
  rw [lanesMask, hfold]
  simp

theorem mem_maskLanes {m : BitVec 32} {k : Nat} : k ∈ maskLanes m ↔ m.getLsbD k = true := by
  rw [maskLanes, List.mem_filter, List.mem_range]
  exact ⟨And.right, fun h => ⟨BitVec.lt_of_getLsbD h, h⟩⟩

theorem lt_of_mem_maskLanes {m : BitVec 32} {k : Nat} (h : k ∈ maskLanes m) : k < 32 :=
  List.mem_range.1 (List.mem_filter.1 h).1

/-- R214: bit 31 − k of the reversed word is bit k. -/
theorem brevW_eq (u : Word) : brevW u = u.reverse := by
  apply BitVec.eq_of_getLsbD_eq
  intro k hk
  rw [brevW, getLsbD_lanesMask, BitVec.getLsbD_reverse, BitVec.getMsbD_eq_getLsbD]
  have hmem : k ∈ (maskLanes u).map (fun j => 31 - j) ↔ u.getLsbD (31 - k) = true := by
    rw [List.mem_map]
    constructor
    · rintro ⟨j, hj, rfl⟩
      have hlt := lt_of_mem_maskLanes hj
      rw [show 31 - (31 - j) = j by omega]
      exact mem_maskLanes.1 hj
    · exact fun h => ⟨31 - k, mem_maskLanes.2 h, by omega⟩
  rw [decide_eq_true hk, show 32 - 1 - k = 31 - k by omega]
  simp only [hmem, Bool.decide_eq_true]

/-! ### Leading and trailing zeros (R214) -/

/-- The first number at which a condition holds is how many come before it. -/
theorem find_range_getD (f : Nat → Bool) (n : Nat) :
    ((List.range n).find? f).getD n = ((List.range n).takeWhile fun k => !f k).length := by
  induction n with
  | zero => rfl
  | succ n ih =>
    rw [List.range_succ, List.find?_append, List.takeWhile_append]
    cases hfind : (List.range n).find? f with
    | some k =>
      rw [hfind] at ih
      have hk := List.mem_range.1 (List.mem_of_find?_eq_some hfind)
      rw [if_neg (by rw [← ih, List.length_range]; exact Nat.ne_of_lt hk), ← ih]
      rfl
    | none =>
      rw [hfind] at ih
      rw [if_pos (by rw [← ih, List.length_range]; rfl), List.length_append, List.length_range]
      cases hf : f n <;> simp [hf]

theorem ctzW_eq (u : Word) : ctzW u = ((List.range 32).takeWhile fun k => !u.getLsbD k).length :=
  find_range_getD _ 32

/-- From the top down, the numbers above the highest at which a condition holds. -/
theorem takeWhile_reverse_range {f : Nat → Bool} {n t : Nat} (ht : t < n) (hf : f t = true)
    (habove : ∀ k, t < k → k < n → f k = false) : ((List.range n).reverse.takeWhile fun k => !f k).length = n - 1 - t := by
  induction n with
  | zero => omega
  | succ n ih =>
    rw [List.range_succ, List.reverse_append, List.reverse_singleton, List.singleton_append]
    by_cases htn : t = n
    · subst htn
      rw [List.takeWhile_cons_of_neg (by simp [hf])]
      simp
    · rw [List.takeWhile_cons_of_pos (by simp [habove n (by omega) (by omega)]), List.length_cons,
        ih (by omega) fun k hk hkn => habove k hk (by omega)]
      omega

/-- R214: the highest bit of a word that is not 0 is its binary logarithm. -/
theorem clzW_eq (u : Word) : clzW u = ((List.range 32).reverse.takeWhile fun k => !u.getLsbD k).length := by
  unfold clzW
  by_cases h : u = 0
  · subst h
    rfl
  · have hne : u.toNat ≠ 0 := fun h0 => h (BitVec.eq_of_toNat_eq h0)
    have hlt : u.toNat.log2 < 32 := (Nat.log2_lt hne).2 u.isLt
    have habove : ∀ k, u.toNat.log2 < k → k < 32 → u.getLsbD k = false := fun k hk _ =>
      Nat.testBit_lt_two_pow ((Nat.log2_lt hne).1 hk)
    have htop : u.getLsbD u.toNat.log2 = true := Nat.testBit_log2 hne
    rw [if_neg h, takeWhile_reverse_range hlt htop habove]

/-! ### Bit fields (R215) -/

theorem fieldOf_eq (c : Word) : fieldOf c = (fieldPos c, fieldLen c) := by
  simp only [fieldOf, fieldPos, fieldLen, bits, BitVec.extractLsb'_toNat, Nat.shiftRight_eq_div_pow]

/-- A field of a word as a number. -/
theorem bits_toNat {m : Nat} (u : BitVec m) (lo n : Nat) : bits u.toNat lo n = (u.extractLsb' lo n).toNat := by
  rw [bits, BitVec.extractLsb'_toNat, Nat.shiftRight_eq_div_pow]

theorem bfxs_eq (u c : Word) : bfxW true u c = (u.extractLsb' (fieldPos c) (fieldLen c)).signExtend 32 := by
  simp only [bfxW, fieldOf_eq, if_true, toW, bits_toNat, sext_toNat]
  split
  · next h =>
    rw [h, BitVec.of_length_zero (x := BitVec.extractLsb' _ 0 u)]
    rfl
  · rfl

theorem bfxn_eq (u c : Word) : bfxW false u c = (u.extractLsb' (fieldPos c) (fieldLen c)).setWidth 32 := by
  simp only [bfxW, fieldOf_eq, Bool.false_eq_true, if_false, bits_toNat]
  split
  · next h =>
    rw [h, BitVec.of_length_zero (x := BitVec.extractLsb' _ 0 u)]
    rfl
  · rw [BitVec.ofNat_toNat]

/-- The mask of a bit field as a number. -/
theorem fieldMask_eq (p n : Nat) (hn : n ≤ 32) :
    BitVec.ofNat 32 ((2 ^ n - 1) * 2 ^ p) = (BitVec.allOnes n).setWidth 32 <<< p := by
  apply BitVec.eq_of_toNat_eq
  have hlt : 2 ^ n - 1 < 2 ^ 32 := by
    have := Nat.pow_le_pow_right (n := 2) (by decide) hn
    omega
  rw [BitVec.toNat_shiftLeft, BitVec.toNat_setWidth, BitVec.toNat_allOnes, Nat.mod_eq_of_lt hlt, Nat.shiftLeft_eq,
    BitVec.toNat_ofNat]

theorem bfiW_eq (u c w : Word) :
    bfiW u c w = (w &&& ~~~((BitVec.allOnes (fieldLen c)).setWidth 32 <<< fieldPos c)) |||
      (u <<< fieldPos c &&& (BitVec.allOnes (fieldLen c)).setWidth 32 <<< fieldPos c) := by
  have hlen : fieldLen c ≤ 32 := Nat.le_trans (Nat.min_le_right _ _) (Nat.sub_le _ _)
  simp only [bfiW, fieldOf_eq, fieldMask_eq _ _ hlen]

/-- R213: the six multiplications. -/
theorem multiplyResults : MultiplyResults := by
  refine ⟨?lo, ?his, ?hin, ?wides, ?widen, ?mad⟩
  case lo =>
    exact word2_of_lane2 (fun x u v => satW x (u.toInt * v.toInt)) (fun _ _ _ _ _ => rfl)
      fun x u v => satW_of_word x (ofInt_toInt_mul u v)
  case his =>
    exact word2_of_lane2 (fun _ u v => (toD (u.toInt * v.toInt)).extractLsb' 32 32) (fun _ _ _ _ _ => rfl)
      fun _ u v => by rw [toD_toInt_mul]
  case hin =>
    exact word2_of_lane2 (fun _ u v => BitVec.ofNat 32 (u.toNat * v.toNat / 2 ^ 32)) (fun _ _ _ _ _ => rfl) fun _ => hin_eq
  case wides =>
    exact fun d a b => own_of_laneMap (fun _ p _ l m => m.dst64 d (toD ((src32 p.g l a).toInt * (src32 p.g l b).toInt)))
      (fun _ _ => rfl) fun _ _ _ _ _ _ => by rw [toD_toInt_mul]
  case widen =>
    exact fun d a b => own_of_laneMap
      (fun _ p _ l m => m.dst64 d (BitVec.ofNat 64 ((src32 p.g l a).toNat * (src32 p.g l b).toNat)))
      (fun _ _ => rfl) fun _ _ _ _ _ _ => by rw [ofNat_toNat_mul]
  case mad =>
    exact word3_of_lane3 (fun x u v z => satW x (u.toInt * v.toInt + z.toInt)) (fun _ _ _ _ _ => rfl)
      fun x u v z => satW_of_word x (ofInt_toInt_mad u v z)

/-- R214, R215: bit counts, reversal and bit fields. -/
theorem bitResults : BitResults := by
  refine ⟨?popc, ?clz, ?ctz, ?brev, ?bfxs, ?bfxn, ?bfi⟩
  case popc =>
    exact word1_of_lane1 (fun _ u => BitVec.ofNat 32 (popW u)) (fun _ _ _ _ => rfl)
      fun _ u => by rw [popW, maskLanes, List.countP_eq_length_filter]
  case clz =>
    exact word1_of_lane1 (fun _ u => BitVec.ofNat 32 (clzW u)) (fun _ _ _ _ => rfl) fun _ u => by rw [clzW_eq]
  case ctz =>
    exact word1_of_lane1 (fun _ u => BitVec.ofNat 32 (ctzW u)) (fun _ _ _ _ => rfl) fun _ u => by rw [ctzW_eq]
  case brev => exact word1_of_lane1 (fun _ => brevW) (fun _ _ _ _ => rfl) fun _ => brevW_eq
  case bfxs => exact word2_of_lane2 (fun _ => bfxW true) (fun _ _ _ _ _ => rfl) fun _ => bfxs_eq
  case bfxn => exact word2_of_lane2 (fun _ => bfxW false) (fun _ _ _ _ _ => rfl) fun _ => bfxn_eq
  case bfi => exact word3_of_lane3 (fun _ => bfiW) (fun _ _ _ _ _ => rfl) fun _ => bfiW_eq

/-- Settles O3. -/
theorem multiplyBitResults : Obligations.MultiplyBitResults := ⟨multiplyResults, bitResults⟩

end Sys2Proof.Proofs
end

section
/-! PROOFS. The predicate instructions, the conditional moves, the lane exchanges, and what a lane reads of itself and of its place
(R207, R208, R217 to R223, R231, R232, R264). -/

namespace Sys2Proof.Proofs

open Sys2Proof Sys2Proof.Machine Sys2Proof.Claims Sys2Proof.Laws

/-- A lane instruction that is a `laneMap` of the effect claimed. -/
theorem own_of_exec {mk : LExt → Instr} {f : LExt → Path → Nat → Lane → Lane → Lane}
    (hexec : ∀ x s, exec (mk x) s = laneMap (mk x) x (f x) s) : Own mk f :=
  own_of_laneMap f hexec fun _ _ _ _ _ _ => rfl

/-! ### Predicates and conditional moves (R217, R218) -/

/-- The low bits of a word, as a field or as a width. -/
theorem extractLsb'_zero {m : Nat} (v : BitVec m) (n : Nat) : v.extractLsb' 0 n = v.setWidth n :=
  BitVec.eq_of_toNat_eq (by simp)

/-- R218: the predicates under the mask come from the word; the others stay. -/
theorem wrpLane_eq (m : Lane) (a b : Word) :
    wrpLane m a b = { m with preds := (a.extractLsb' 0 24 &&& b.extractLsb' 0 24) ||| (m.preds &&& ~~~b.extractLsb' 0 24) } := by
  simp only [wrpLane, extractLsb'_zero]
  rw [BitVec.or_comm]

theorem setWidth_eq_zero_append {m n : Nat} (v : BitVec n) : v.setWidth (m + n) = 0#m ++ v := by
  apply BitVec.eq_of_toNat_eq
  rw [BitVec.toNat_append, BitVec.toNat_setWidth, Nat.mod_eq_of_lt (Nat.lt_of_lt_of_le v.isLt (Nat.pow_le_pow_right (by decide) (Nat.le_add_left n m)))]
  simp

/-- Settles O5: each predicate instruction is a lane instruction of the effect that is claimed. -/
theorem predicateResults : Obligations.PredicateResults := by
  unfold Obligations.PredicateResults
  refine ⟨?and, ?or, ?xor, ?andn, ?orn, ?nz, ?z, ?rdp, ?wrp⟩
  case and => exact fun pd comb a b => own_of_exec fun _ _ => rfl
  case or => exact fun pd comb a b => own_of_exec fun _ _ => rfl
  case xor =>
    exact fun pd comb a b => own_of_laneMap (fun _ _ _ l m => m.pwr pd comb (xor (l.prd a) (l.prd b))) (fun _ _ => rfl)
      fun _ _ _ _ _ _ => rfl
  case andn => exact fun pd comb a b => own_of_exec fun _ _ => rfl
  case orn => exact fun pd comb a b => own_of_exec fun _ _ => rfl
  case nz =>
    exact fun d a b => own_of_laneMap (fun _ p _ l m => if src32 p.g l b ≠ 0 then m.dst32 d (src32 p.g l a) else m)
      (fun _ _ => rfl) fun _ _ _ _ _ _ => ite_not _ _ _
  case z => exact fun d a b => own_of_exec fun _ _ => rfl
  case rdp =>
    exact fun d => own_of_laneMap (fun _ _ _ l m => m.dst32 d (l.preds.setWidth 32)) (fun _ _ => rfl)
      fun _ _ _ _ _ _ => by rw [@setWidth_eq_zero_append]
  case wrp =>
    exact fun a b => own_of_laneMap (fun _ p _ l m => wrpLane m (src32 p.g l a) (src32 p.g l b)) (fun _ _ => rfl)
      fun _ _ _ _ _ _ => wrpLane_eq _ _ _

/-! ### The participating lanes (R219) -/

theorem lt_of_mem_lanes {p : Path} {n : Nat} (h : n ∈ p.lanes) : n < 32 :=
  lt_of_mem_maskLanes (List.mem_filter.1 h).1

theorem lt_of_mem_party {p : Path} {x : LExt} {n : Nat} (h : n ∈ party p x) : n < 32 :=
  lt_of_mem_lanes (List.mem_filter.1 h).1

theorem nodup_party (p : Path) (x : LExt) : (party p x).Nodup :=
  ((List.nodup_range.filter _).filter _).filter _

/-! ### Shuffles (R220) -/

/-- R220: a shuffle of the model takes the source lane that the claim names, when that lane takes part. -/
theorem shuffles_of_shuffle {mk : BitVec 7 → BitVec 7 → BitVec 7 → LExt → Instr} {v : Nat → Word → Int}
    (j : Nat → Word → Option Nat) (hexec : ∀ d a b x s, exec (mk d a b x) s = shuffle (mk d a b x) x d a b j s)
    (hj : ∀ n c k, k < 32 → (j n c = some k ↔ v n c = k)) : Shuffles mk v := by
  intro d a b
  refine own_of_laneMap _ (hexec d a b) fun x s p _ n _ => ?_
  refine congrArg (Lane.dst32 _ d) ?_
  by_cases hin : 0 ≤ v n (src32 p.g (p.g.lane n) b) ∧ (v n (src32 p.g (p.g.lane n) b)).toNat ∈ party p x
  · obtain ⟨hpos, hmem⟩ := hin
    have hk := (hj n (src32 p.g (p.g.lane n) b) _ (lt_of_mem_party hmem)).2 (Int.toNat_of_nonneg hpos).symm
    rw [if_pos ⟨hpos, hmem⟩, hk]
    exact congrArg (src32 p.g · a) (if_pos (List.contains_iff_mem.2 hmem))
  · rw [if_neg hin]
    cases hk : j n (src32 p.g (p.g.lane n) b) with
    | none => rfl
    | some k =>
      refine congrArg (src32 p.g · a) (if_neg fun hmem => hin ?_)
      have hparty : k ∈ party p x := List.contains_iff_mem.1 hmem
      have hv := (hj n (src32 p.g (p.g.lane n) b) k (lt_of_mem_party hparty)).1 hk
      rw [hv]
      exact ⟨Int.natCast_nonneg k, hparty⟩

/-! ### Votes (R221) -/

theorem lanesMask_cons (j : Nat) (ls : List Nat) : lanesMask (j :: ls) = BitVec.ofNat 32 (2 ^ j) ||| lanesMask ls := by
  apply BitVec.eq_of_getLsbD_eq
  intro k hk
  rw [BitVec.getLsbD_or, getLsbD_lanesMask, getLsbD_lanesMask, BitVec.getLsbD_ofNat, Nat.testBit_two_pow]
  simp only [hk, decide_true, Bool.true_and, List.mem_cons, Bool.decide_or, eq_comm]

/-- The mask of different lanes is the sum of their powers of two. -/
theorem lanesMask_eq_laneSum {ls : List Nat} (hnodup : ls.Nodup) : lanesMask ls = laneSum ls := by
  induction ls with
  | nil => rfl
  | cons j ls ih =>
    obtain ⟨hj, hnodup⟩ := List.nodup_cons.1 hnodup
    have hdisjoint : BitVec.ofNat 32 (2 ^ j) &&& lanesMask ls = 0 := by
      apply BitVec.eq_of_getLsbD_eq
      intro k hk
      rw [BitVec.getLsbD_and, getLsbD_lanesMask, BitVec.getLsbD_ofNat, Nat.testBit_two_pow]
      by_cases hjk : j = k
      · subst hjk; simp [hj]
      · simp [hjk]
    rw [lanesMask_cons, ← BitVec.add_eq_or_of_and_eq_zero _ _ hdisjoint, ih hnodup, laneSum, laneSum, List.map_cons, List.sum_cons,
      BitVec.ofNat_add]

theorem voteMask_eq (p : Path) (x : LExt) (f : Lane → Bool) :
    voteMask p x f = laneSum ((party p x).filter fun j => f (p.g.lane j)) :=
  lanesMask_eq_laneSum ((nodup_party p x).filter _)

theorem getLsbD_voteMask (p : Path) (x : LExt) (f : Lane → Bool) (k : Nat) :
    (voteMask p x f).getLsbD k = true ↔ k ∈ party p x ∧ f (p.g.lane k) = true := by
  rw [voteMask, getLsbD_lanesMask, Bool.and_eq_true, decide_eq_true_eq, decide_eq_true_eq, List.mem_filter]
  exact ⟨And.right, fun h => ⟨lt_of_mem_party h.1, h⟩⟩

theorem voteMask_ne_zero (p : Path) (x : LExt) (f : Lane → Bool) :
    voteMask p x f ≠ 0 ↔ ∃ j ∈ party p x, f (p.g.lane j) = true := by
  constructor
  · intro h
    by_contra hnone
    refine h (BitVec.eq_of_getLsbD_eq fun k _ => ?_)
    rw [Bool.eq_false_iff.2 fun hk => hnone ⟨k, (getLsbD_voteMask p x f k).1 hk⟩]
    exact BitVec.getLsbD_zero.symm
  · rintro ⟨j, hj⟩ h
    have hbit := (getLsbD_voteMask p x f j).2 hj
    rw [h] at hbit
    exact Bool.false_ne_true (BitVec.getLsbD_zero.symm.trans hbit)

theorem voteMask_eq_all (p : Path) (x : LExt) (f : Lane → Bool) :
    voteMask p x f = voteMask p x (fun _ => true) ↔ ∀ j ∈ party p x, f (p.g.lane j) = true := by
  constructor
  · intro h j hj
    have hall := (getLsbD_voteMask p x (fun _ => true) j).2 ⟨hj, rfl⟩
    rw [← h] at hall
    exact ((getLsbD_voteMask p x f j).1 hall).2
  · intro h
    refine BitVec.eq_of_getLsbD_eq fun k _ => Bool.eq_iff_iff.2 ?_
    rw [getLsbD_voteMask, getLsbD_voteMask]
    exact ⟨fun hk => ⟨hk.1, rfl⟩, fun hk => ⟨hk.1, h k hk.1⟩⟩

/-! ### Reductions (R222) -/

/-- R222: the fold over the participating lanes is the claim's of their words, since the executing lane takes part. -/
theorem reduces_of_reduce {mk : BitVec 7 → BitVec 7 → LExt → Instr} {v : List Word → Word} (f : Word → Word → Word)
    (hexec : ∀ d a x s, exec (mk d a x) s = reduce (mk d a x) x d a f s) (hv : ∀ w ws, ws.foldl f w = v (w :: ws)) :
    Reduces mk v := by
  intro a d
  refine own_of_laneMap _ (hexec d a) fun x s p _ n hn => ?_
  obtain ⟨w, ws, hws⟩ := List.exists_cons_of_ne_nil
    (List.ne_nil_of_mem (List.mem_map_of_mem (f := fun k => src32 p.g (p.g.lane k) a) hn))
  have hparty : (party p x).map (fun k => src32 p.g (p.g.lane k) a) = w :: ws := hws
  simp only [hws, hparty, hv]

theorem foldl_mins (w : Word) (ws : List Word) : ws.foldl (fun u v => if u.toInt < v.toInt then u else v) w =
    BitVec.ofInt 32 (((w :: ws).map BitVec.toInt).foldl min 2147483647) := by
  have hfold : ∀ w : Word, ws.foldl (fun u v => if u.toInt < v.toInt then u else v) w =
      BitVec.ofInt 32 ((ws.map BitVec.toInt).foldl min w.toInt) := by
    induction ws with
    | nil => exact fun w => (BitVec.ofInt_toInt).symm
    | cons u ws ih =>
      intro w
      rw [List.foldl_cons, ih, List.map_cons, List.foldl_cons]
      congr 2
      split <;> omega
  have hhi := BitVec.toInt_lt (x := w)
  rw [hfold, List.map_cons, List.foldl_cons, min_eq_right (by omega)]

theorem foldl_maxs (w : Word) (ws : List Word) : ws.foldl (fun u v => if u.toInt < v.toInt then v else u) w =
    BitVec.ofInt 32 (((w :: ws).map BitVec.toInt).foldl max (-2147483648)) := by
  have hfold : ∀ w : Word, ws.foldl (fun u v => if u.toInt < v.toInt then v else u) w =
      BitVec.ofInt 32 ((ws.map BitVec.toInt).foldl max w.toInt) := by
    induction ws with
    | nil => exact fun w => (BitVec.ofInt_toInt).symm
    | cons u ws ih =>
      intro w
      rw [List.foldl_cons, ih, List.map_cons, List.foldl_cons]
      congr 2
      split <;> omega
  have hlo := BitVec.le_toInt w
  rw [hfold, List.map_cons, List.foldl_cons, max_eq_right (by omega)]

/-- Settles O6: the shuffles by the lane that each names, the votes by the mask of the lanes, the reductions by their folds. -/
theorem exchangeResults : Obligations.ExchangeResults := by
  unfold Obligations.ExchangeResults
  refine ⟨?shfl, ?shflx, ?shflup, ?shfldn, ?ballot, ?any, ?all, ?match', ?add, ?mins, ?maxs, ?and, ?or, ?xor, ?npath⟩
  case shfl =>
    refine shuffles_of_shuffle (fun _ c => some (c.toNat % 32)) (fun _ _ _ _ _ => rfl) fun n c k _ => ?_
    rw [Option.some_inj]
    omega
  case shflx =>
    refine shuffles_of_shuffle (fun n c => some (n ^^^ c.toNat % 32)) (fun _ _ _ _ _ => rfl) fun n c k _ => ?_
    rw [Option.some_inj, Int.ofNat_inj]
  case shflup =>
    refine shuffles_of_shuffle (fun n c => if n < c.toNat then none else some (n - c.toNat)) (fun _ _ _ _ _ => rfl)
      fun n c k _ => ?_
    by_cases hlt : n < c.toNat
    · simp only [if_pos hlt, reduceCtorEq, false_iff]
      omega
    · rw [if_neg hlt, Option.some_inj]
      omega
  case shfldn =>
    refine shuffles_of_shuffle (fun n c => if 31 < n + c.toNat then none else some (n + c.toNat)) (fun _ _ _ _ _ => rfl)
      fun n c k _ => ?_
    by_cases hlt : 31 < n + c.toNat
    · simp only [if_pos hlt, reduceCtorEq, false_iff]
      omega
    · rw [if_neg hlt, Option.some_inj]
      omega
  case ballot =>
    exact fun q d => own_of_laneMap (fun x p _ _ m => m.dst32 d (voteMask p x fun l => l.prd q)) (fun _ _ => rfl)
      fun x _ p _ _ _ => by rw [voteMask_eq]
  case any =>
    exact fun q d => own_of_laneMap
      (fun x p _ _ m => m.dst32 d (if voteMask p x (fun l => l.prd q) ≠ 0 then 1 else 0)) (fun _ _ => rfl)
      fun x _ p _ _ _ => by simp only [voteMask_ne_zero]
  case all =>
    exact fun q d => own_of_laneMap
      (fun x p _ _ m => m.dst32 d (if voteMask p x (fun l => l.prd q) = voteMask p x (fun _ => true) then 1 else 0))
      (fun _ _ => rfl) fun x _ p _ _ _ => by simp only [voteMask_eq_all]
  case match' =>
    exact fun a d => own_of_laneMap
      (fun x p _ l m => m.dst32 d (voteMask p x fun k => src32 p.g k a = src32 p.g l a)) (fun _ _ => rfl)
      fun x _ p _ _ _ => by rw [voteMask_eq]
  case add =>
    exact reduces_of_reduce (fun u v => u + v) (fun _ _ _ _ => rfl) fun w ws => by rw [List.foldl_cons, show (0 : Word) + w = w from BitVec.zero_add w]
  case mins =>
    exact reduces_of_reduce (fun u v => if u.toInt < v.toInt then u else v) (fun _ _ _ _ => rfl) foldl_mins
  case maxs =>
    exact reduces_of_reduce (fun u v => if u.toInt < v.toInt then v else u) (fun _ _ _ _ => rfl) foldl_maxs
  case and =>
    exact reduces_of_reduce (fun u v => u &&& v) (fun _ _ _ _ => rfl) fun w ws => by
      rw [List.foldl_cons, BitVec.allOnes_and]
  case or =>
    exact reduces_of_reduce (fun u v => u ||| v) (fun _ _ _ _ => rfl) fun w ws => by rw [List.foldl_cons, show (0 : Word) ||| w = w from BitVec.zero_or]
  case xor =>
    exact reduces_of_reduce (fun u v => u ^^^ v) (fun _ _ _ _ => rfl) fun w ws => by rw [List.foldl_cons, show (0 : Word) ^^^ w = w from BitVec.zero_xor]
  case npath => exact fun d => own_of_exec fun _ _ => rfl

/-! ### A lane and its place (R207, R208, R231, R232) -/

/-- R231: a yield lets its path go on, and enters the core's list of yields in the place of what its group had there. -/
theorem execCtlYield_of_runs {x : LExt} {s : State} {p : Path} (h : Runs s p (.ctlYield x) x) :
    exec (.ctlYield x) s = .next (noteYield (laneNext s p (.ctlYield x) x fun _ _ m => m) p) := by
  show execCtlYield x s = _
  unfold execCtlYield
  rw [h.path, laneMap_next h]

theorem cores_laneNext (s : State) (p : Path) (i : Instr) (x : LExt) (f : Nat → Lane → Lane → Lane) :
    (laneNext s p i x f).cores = s.cores := rfl

theorem coreOf_modCore (s : State) (n : Nat) (f : Core → Core) : coreOf (modCore s n f) n = f (coreOf s n) := by
  simp only [coreOf, modCore, cfind_cset, if_true, Option.getD_some]

theorem ctlYield_results (x : LExt) (s : State) (p : Path) (h : Runs s p (.ctlYield x) x) :
    ∃ t, exec (.ctlYield x) s = .next t ∧
      { t with cores := s.cores } = laneNext s p (.ctlYield x) x (fun _ _ m => m) ∧
      coreOf t p.b.core = { coreOf s p.b.core with
        yields := ((coreOf s p.b.core).yields.filter fun y => !(y.blk == p.iss.blk && y.grp == p.iss.grp)) ++
          [{ sub := p.g.sub, blk := p.iss.blk, grp := p.iss.grp, cycle := s.clk }] } :=
  ⟨_, execCtlYield_of_runs h, rfl, coreOf_modCore _ _ _⟩

/-- R232: GPC moves by a signed word, modulo 2^64. -/
theorem add_signExtend (u : DWord) (v : Word) : u + v.signExtend 64 = BitVec.ofInt 64 (u.toNat + v.toInt) := by
  rw [BitVec.ofInt_add, BitVec.ofInt_natCast, BitVec.ofNat_toNat, BitVec.setWidth_eq]
  rfl

/-- R208: selectors 0 to 4, and what a block from a phase or child record reads. -/
theorem placeNumber_eq (p : Path) {sel : BitVec 7} (hsel : sel.toNat ≤ 4) : placeNumber p sel.toNat =
    if sel = 4 then p.b.core
    else match p.b.origin with
      | .phase | .child _ _ => if sel = 3 then 1 else 0
      | _ => if sel = 0 then p.iss.grp else if sel = 1 then p.b.bnum else if sel = 2 then p.b.cnum else p.b.groups.length := by
  have hcases : sel = 0 ∨ sel = 1 ∨ sel = 2 ∨ sel = 3 ∨ sel = 4 := by
    simp only [← BitVec.toNat_inj]
    simp only [BitVec.toNat_ofNat, BitVec.ofNat_eq_ofNat]
    omega
  unfold placeNumber
  obtain rfl | rfl | rfl | rfl | rfl := hcases <;> cases p.b.origin <;> rfl

/-- R207, R208, R231, R232, R264: the instructions that read a lane's own values, or have no effect on architectural state. -/
theorem laneValueResults : LaneValueResults := by
  refine ⟨?nop, ?lane, ?tid, ?clk, ?yield, ?pref, ?rdpc, ?wrpc, ?addpc, ?rdop, ?wrop⟩
  case nop => exact own_of_exec fun _ _ => rfl
  case lane => exact fun d => own_of_exec fun _ _ => rfl
  case tid =>
    exact fun d => own_of_laneMap (fun _ _ _ l m => m.dst32 d (l.tid.setWidth 32)) (fun _ _ => rfl)
      fun _ _ _ _ _ _ => by rw [@setWidth_eq_zero_append]
  case clk =>
    exact fun d x s p hruns => laneMap_next hruns fun _ _ _ m => m.dst64 d (BitVec.ofNat 64 s.clk)
  case yield => exact ctlYield_results
  case pref => exact fun a size hs off => own_of_exec fun _ _ => rfl
  case rdpc => exact fun d => own_of_exec fun _ _ => rfl
  case wrpc => exact fun a => own_of_exec fun _ _ => rfl
  case addpc =>
    exact fun a => own_of_laneMap (fun _ p _ l m => { m with gpc := l.gpc + (src32 p.g l a).signExtend 64 }) (fun _ _ => rfl)
      fun _ _ _ _ _ _ => by rw [add_signExtend]
  case rdop =>
    exact fun d => own_of_laneMap (fun _ _ _ l m => m.dst32 d (l.gop.setWidth 32)) (fun _ _ => rfl)
      fun _ _ _ _ _ _ => by rw [@setWidth_eq_zero_append]
  case wrop =>
    exact fun a => own_of_laneMap (fun _ p _ l m => { m with gop := (src32 p.g l a).setWidth 8 }) (fun _ _ => rfl)
      fun _ _ _ _ _ _ => by rw [extractLsb'_zero]

/-- R208: `lsys.grp`. -/
theorem placeResults : PlaceResults :=
  fun sel hsel d => own_of_laneMap (fun _ p _ _ m => m.dst32 d (BitVec.ofNat 32 (placeNumber p sel.toNat))) (fun _ _ => rfl)
    fun _ _ p _ _ _ => congrArg (fun k => Lane.dst32 _ d (BitVec.ofNat 32 k)) (placeNumber_eq p hsel)

/-- Settles O7. -/
theorem lanePlaceResults : Obligations.LanePlaceResults := ⟨laneValueResults, placeResults⟩

end Sys2Proof.Proofs
end

section
/-! PROOFS. Number formats (R151, R154, R162, Table 7-5): every rounding gives a code of its format, a value that a format represents
rounds to its own code, and the special functions at their edges. -/

namespace Sys2Proof.Proofs

open Sys2Proof Sys2Proof.Machine Sys2Proof.Claims Sys2Proof.Laws

/-! ### Codes of a format -/

/-- The six formats of Table 7-2. -/
def formats : List Fl := [f32, f16, bf16, f64, e4m3, e5m2]

/-- The largest code, an infinity's or a NaN's, lies below the sign bit. -/
theorem codes_lt_signBit {f : Fl} (hf : f ∈ formats) :
    f.nan < f.signBit ∧ f.maxCode < f.signBit ∧ f.infCode < f.signBit := by
  simp only [formats, List.mem_cons, List.not_mem_nil, or_false] at hf
  obtain rfl | rfl | rfl | rfl | rfl | rfl := hf <;> decide

theorem signed_lt {f : Fl} {c : Nat} (hc : c < f.signBit) (neg : Bool) : f.signed neg c < 2 * f.signBit := by
  unfold Fl.signed
  split <;> omega

theorem overflow_lt {f : Fl} (hf : f ∈ formats) (rm : RMode) (sat neg : Bool) : f.overflow rm sat neg < 2 * f.signBit := by
  obtain ⟨hnan, hmax, hinf⟩ := codes_lt_signBit hf
  have hcode : ∀ b : Bool, f.signed neg (if b then f.infCode else f.maxCode) < 2 * f.signBit := fun b => by
    cases b
    · exact signed_lt hmax neg
    · exact signed_lt hinf neg
  unfold Fl.overflow
  split
  · exact signed_lt hmax neg
  · split
    · omega
    · exact hcode _

theorem roundQ_lt {f : Fl} (hf : f ∈ formats) (rm : RMode) (ftz sat neg : Bool) (num den : Nat) (exp : Int) :
    f.roundQ rm ftz sat neg num den exp < 2 * f.signBit := by
  obtain ⟨-, hmax, -⟩ := codes_lt_signBit hf
  have hzero : f.signed neg 0 < 2 * f.signBit := signed_lt (Nat.zero_lt_of_lt hmax) neg
  have hcode : ∀ c : Nat, (if f.maxCode < c then f.overflow rm sat neg
      else if ftz && c < 2 ^ f.m then f.signed neg 0 else f.signed neg c) < 2 * f.signBit := fun c => by
    split
    · exact overflow_lt hf rm sat neg
    · next hle =>
      split
      · exact hzero
      · exact signed_lt (Nat.lt_of_le_of_lt (Nat.not_lt.1 hle) hmax) neg
  unfold Fl.roundQ
  split
  · exact hzero
  · exact hcode _

/-- R154: a rounding to a format gives one of its codes. -/
theorem round_lt {f : Fl} (hf : f ∈ formats) (rm : RMode) (ftz sat : Bool) (v : Val) : f.round rm ftz sat v < 2 * f.signBit := by
  obtain ⟨hnan, hmax, hinf⟩ := codes_lt_signBit hf
  cases v with
  | nan => exact Nat.lt_of_lt_of_le hnan (by omega)
  | inf neg =>
    simp only [Fl.round]
    split
    · exact signed_lt hmax neg
    · split
      · omega
      · exact signed_lt hinf neg
  | fin neg num exp => exact roundQ_lt hf rm ftz sat neg num 1 exp

/-! ### Values that a format represents (R154) -/

theorem log2Ratio_one {num : Nat} (h : num ≠ 0) : log2Ratio num 1 = (Nat.log2 num : Int) := by
  have hle : 2 ^ num.log2 ≤ num := Nat.log2_self_le h
  have hone : Nat.log2 1 = 0 := by decide
  have hcast : ((num.log2 : Int) - (Nat.log2 1 : Int)) = (num.log2 : Int) := by rw [hone]; simp
  simp only [log2Ratio, hcast, Int.natAbs_natCast, Nat.one_mul, hle, decide_true, ite_true, if_neg (Int.not_lt.2 (Int.natCast_nonneg _))]

/-- A magnitude that lies on the format's grid, at the exponent of its binade, is rounded to itself, and flushed when it is subnormal. -/
theorem roundQ_exact {f : Fl} {rm : RMode} {ftz neg : Bool} {num : Nat} {exp : Int} (hnum : num ≠ 0)
    (hexp : max ((Nat.log2 num : Int) + exp) f.emin - f.m = exp) {code : Nat}
    (hcode : (if num < 2 ^ f.m then num else ((exp + f.m + f.bias).toNat - 1) * 2 ^ f.m + num) = code) (hmax : code ≤ f.maxCode) :
    f.roundQ rm ftz false neg num 1 exp = if ftz && code < 2 ^ f.m then f.signed neg 0 else f.signed neg code := by
  have hup : roundsUp rm neg num 0 1 = false := rfl
  unfold Fl.roundQ
  simp only [if_neg hnum, log2Ratio_one hnum, hexp, sub_self, Int.toNat_zero, Nat.pow_zero, Nat.mul_one, Nat.div_one, Nat.mod_one,
    hup, Bool.false_eq_true, if_false, hcode, if_neg (Nat.not_lt.2 hmax)]

/-- The parts of a code: sign, exponent field and fraction. -/
theorem signed_parts {f : Fl} {code : Nat} (hcode : code < 2 * f.signBit) :
    f.signed (code / f.signBit % 2 == 1) (code / 2 ^ f.m % 2 ^ f.e * 2 ^ f.m + code % 2 ^ f.m) = code := by
  have hpow : f.signBit = 2 ^ f.m * 2 ^ f.e := by rw [Fl.signBit, Nat.add_comm, Nat.pow_add]
  have hlow : code / 2 ^ f.m % 2 ^ f.e * 2 ^ f.m + code % 2 ^ f.m = code % f.signBit := by
    rw [hpow, Nat.mod_mul, Nat.mul_comm, Nat.add_comm]
  have hpos : 0 < f.signBit := Nat.pow_pos (by decide)
  have hdiv : code / f.signBit < 2 := Nat.div_lt_of_lt_mul (by rwa [Nat.mul_comm])
  have hsplit := Nat.div_add_mod code f.signBit
  rw [hlow, Nat.mod_eq_of_lt hdiv, Fl.signed]
  generalize code / f.signBit = q at hdiv hsplit
  obtain rfl | rfl : q = 0 ∨ q = 1 := by omega
  · simpa using hsplit
  · simpa using hsplit

/-- Fields of a finite code lie below the largest finite one. -/
theorem fields_le_maxCode {f : Fl} (hf : f ∈ formats) {e fr : Nat} (he : e < 2 ^ f.e) (hfr : fr < 2 ^ f.m)
    (hnan : ¬(e = 2 ^ f.e - 1 ∧ f.ofp = true ∧ fr = 2 ^ f.m - 1)) (hinf : ¬(e = 2 ^ f.e - 1 ∧ f.ofp = false)) :
    e * 2 ^ f.m + fr ≤ f.maxCode := by
  simp only [formats, List.mem_cons, List.not_mem_nil, or_false] at hf
  obtain rfl | rfl | rfl | rfl | rfl | rfl := hf <;>
    simp [f32, f16, bf16, f64, e4m3, e5m2, Fl.maxCode] at * <;> omega

/-- R151: the value of a normal code rounds to the code, flushed or not. -/
theorem round_normal {f : Fl} (hf : f ∈ formats) (rm : RMode) (ftz neg : Bool) {e fr : Nat} (hpos : e ≠ 0) (he : e < 2 ^ f.e)
    (hfr : fr < 2 ^ f.m) (hnan : ¬(e = 2 ^ f.e - 1 ∧ f.ofp = true ∧ fr = 2 ^ f.m - 1)) (hinf : ¬(e = 2 ^ f.e - 1 ∧ f.ofp = false)) :
    f.round rm ftz false (.fin neg (2 ^ f.m + fr) ((e : Int) - f.bias - f.m)) = f.signed neg (e * 2 ^ f.m + fr) := by
  have hmax := fields_le_maxCode hf he hfr hnan hinf
  have hne : 2 ^ f.m + fr ≠ 0 := by have := Nat.pow_pos (n := f.m) (show 0 < 2 by decide); omega
  have hlog : (2 ^ f.m + fr).log2 = f.m := (Nat.log2_eq_iff hne).2 ⟨Nat.le_add_right _ _, by rw [Nat.pow_succ]; omega⟩
  obtain ⟨k, rfl⟩ := Nat.exists_eq_succ_of_ne_zero hpos
  have hcode : (if 2 ^ f.m + fr < 2 ^ f.m then 2 ^ f.m + fr
      else ((((k + 1 : Nat) : Int) - f.bias - f.m + f.m + f.bias).toNat - 1) * 2 ^ f.m + (2 ^ f.m + fr)) =
      (k + 1) * 2 ^ f.m + fr := by
    rw [if_neg (by omega), show (((k + 1 : Nat) : Int) - f.bias - f.m + f.m + f.bias).toNat - 1 = k by omega, Nat.succ_mul]
    omega
  have hge : ¬(k + 1) * 2 ^ f.m + fr < 2 ^ f.m := by rw [Nat.succ_mul]; omega
  refine (roundQ_exact hne (by rw [hlog, Fl.emin]; omega) hcode hmax).trans (if_neg ?_)
  simp only [hge, decide_false, Bool.and_false, Bool.false_eq_true, not_false_eq_true]

/-- A zero rounds to the zero of its sign. -/
theorem round_zero (f : Fl) (rm : RMode) (ftz sat neg : Bool) (exp : Int) : f.round rm ftz sat (.fin neg 0 exp) = f.signed neg 0 := rfl

/-- R151: the value of a subnormal code rounds to the code. -/
theorem round_subnormal {f : Fl} (hf : f ∈ formats) (rm : RMode) (neg : Bool) {fr : Nat} (hfr : fr < 2 ^ f.m) :
    f.round rm false false (.fin neg fr (f.emin - f.m)) = f.signed neg fr := by
  by_cases hzero : fr = 0
  · subst hzero
    rfl
  · have hlog : fr.log2 < f.m := (Nat.log2_lt hzero).2 hfr
    have htop : (0 : Nat) ≠ 2 ^ f.e - 1 := by
      simp only [formats, List.mem_cons, List.not_mem_nil, or_false] at hf
      obtain rfl | rfl | rfl | rfl | rfl | rfl := hf <;> decide
    have hmax : fr ≤ f.maxCode := by
      have := fields_le_maxCode hf (Nat.pow_pos (by decide)) hfr (fun h => htop h.1) (fun h => htop h.1)
      omega
    exact roundQ_exact hzero (by omega) (if_pos hfr) hmax

/-- R151: what a code of a format is: a NaN, an infinity, a zero or subnormal number, or a normal number. -/
theorem decode_cases (f : Fl) (ftz : Bool) (code : Nat) :
    let neg := code / f.signBit % 2 == 1
    let e := code / 2 ^ f.m % 2 ^ f.e
    let fr := code % 2 ^ f.m
    f.decode ftz code = .nan ∨
    (f.decode ftz code = .inf neg ∧ e = 2 ^ f.e - 1 ∧ f.ofp = false ∧ fr = 0) ∨
    (f.decode ftz code = .fin neg (if ftz then 0 else fr) (f.emin - f.m) ∧ e = 0) ∨
    (f.decode ftz code = .fin neg (2 ^ f.m + fr) ((e : Int) - f.bias - f.m) ∧ e ≠ 0 ∧
      ¬(e = 2 ^ f.e - 1 ∧ f.ofp = true ∧ fr = 2 ^ f.m - 1) ∧ ¬(e = 2 ^ f.e - 1 ∧ f.ofp = false)) := by
  dsimp only
  unfold Fl.decode
  dsimp only
  generalize code / 2 ^ f.m % 2 ^ f.e = e
  generalize code % 2 ^ f.m = fr
  split
  · exact .inl rfl
  · next hofp =>
    split
    · next htop =>
      simp only [Bool.and_eq_true, decide_eq_true_eq, Bool.not_eq_true'] at htop
      split
      · next hfr => exact .inr (.inl ⟨rfl, htop.1, htop.2, hfr⟩)
      · exact .inl rfl
    · next htop =>
      simp only [Bool.and_eq_true, decide_eq_true_eq, Bool.not_eq_true', and_assoc] at hofp htop
      split
      · next hzero => exact .inr (.inr (.inl ⟨rfl, hzero⟩))
      · next hzero => exact .inr (.inr (.inr ⟨rfl, hzero, hofp, htop⟩))

theorem exponent_lt (f : Fl) (code : Nat) : code / 2 ^ f.m % 2 ^ f.e < 2 ^ f.e := Nat.mod_lt _ (Nat.pow_pos (by decide))

theorem fraction_lt (f : Fl) (code : Nat) : code % 2 ^ f.m < 2 ^ f.m := Nat.mod_lt _ (Nat.pow_pos (by decide))

/-- R157: a value that was read with subnormals flushed is rounded alike with and without `.ftz`. -/
theorem round_decode_ftz {f : Fl} (hf : f ∈ formats) (rm : RMode) (ftz : Bool) (code : Nat) :
    f.round rm ftz false (f.decode ftz code) = f.round rm false false (f.decode ftz code) := by
  obtain h | ⟨h, -⟩ | ⟨h, -⟩ | ⟨h, hpos, hnan, hinf⟩ := decode_cases f ftz code
  · rw [h]; rfl
  · rw [h]; rfl
  · cases ftz
    · rfl
    · rw [h]; rfl
  · rw [h, round_normal hf rm ftz _ hpos (exponent_lt f code) (fraction_lt f code) hnan hinf,
      round_normal hf rm false _ hpos (exponent_lt f code) (fraction_lt f code) hnan hinf]

/-- Settles O10: the fields of a code give it back from its value. -/
theorem roundingExact : Obligations.RoundingExact := by
  unfold Obligations.RoundingExact
  intro f hf rm code hcode hnan
  have hfields := signed_parts hcode
  obtain h | ⟨h, htop, hofp, hfr⟩ | ⟨h, hzero⟩ | ⟨h, hpos, hnotnan, hnotinf⟩ := decode_cases f false code
  · rw [h] at hnan
    exact absurd hnan.symm Bool.false_ne_true
  · rw [htop, hfr, Nat.add_zero] at hfields
    rw [h]
    simpa only [Fl.round, hofp, Bool.false_eq_true, if_false, Fl.infCode] using hfields
  · rw [hzero, Nat.zero_mul, Nat.zero_add] at hfields
    rw [h, if_neg Bool.false_ne_true, round_subnormal hf rm _ (fraction_lt f code), hfields]
  · rw [h, round_normal hf rm false _ hpos (exponent_lt f code) (fraction_lt f code) hnotnan hnotinf, hfields]

/-! ### The special functions (R162, R242, Table 7-5) -/

theorem decode_f32_inf (ftz neg : Bool) : f32.decode ftz (f32.signed neg f32.infCode) = .inf neg := by
  cases ftz <;> cases neg <;> decide

/-- R242: every `fspec` instruction writes the result of its function. -/
theorem specialResults : SpecialResults := by
  unfold SpecialResults
  intro e he d a
  simp only [List.mem_cons, List.not_mem_nil, or_false] at he
  obtain rfl | rfl | rfl | rfl | rfl | rfl | rfl | rfl := he <;> exact own_of_exec fun _ _ => rfl

/-- Table 7-5: the values at the edges depend neither on the rounding mode nor on `.ftz`. -/
theorem specialEdges : SpecialEdges := by
  unfold SpecialEdges
  intro rm ftz
  have hninf : f32.decode ftz 0xFF800000 = .inf true := decode_f32_inf ftz true
  have hpinf : f32.decode ftz 0x7F800000 = .inf false := decode_f32_inf ftz false
  have hnzero : f32.decode ftz 0x80000000 = .fin true 0 (-149) := decode_f32_zero ftz true
  have hpzero : f32.decode ftz 0 = .fin false 0 (-149) := decode_f32_zero ftz false
  refine ⟨?rcp, ?rsqrt, ?sqrt, ?exp2, ?log2, ?sin, ?cos, ?tanh, ?nan⟩
  case nan =>
    intro f code _ hnan
    unfold Spec.eval
    split
    · decide
    · next h => rw [h] at hnan; exact absurd hnan Bool.false_ne_true
    · next h => rw [h] at hnan; exact absurd hnan Bool.false_ne_true
  all_goals
    simp only [List.map_cons, List.map_nil, Spec.eval, hninf, hpinf, hnzero, hpzero, if_true]
    decide

/-- Settles O9. -/
theorem specialFunctionResults : Obligations.SpecialFunctionResults := ⟨specialResults, specialEdges⟩

end Sys2Proof.Proofs
end

section
/-! PROOFS. The arithmetic of f32, of packed f16 and bf16, and of f64 (R153, R238 to R241, R244): the model's operations on codes as the
claims write them, and the sign bits. -/

namespace Sys2Proof.Proofs

open Sys2Proof Sys2Proof.Machine Sys2Proof.Claims Sys2Proof.Laws

/-! ### Packed elements (R153) -/

/-- The two halves of a word as numbers. -/
theorem toNat_low_half (u : Word) : (u.extractLsb' 0 16).toNat = u.toNat % 65536 := by
  rw [← bits_toNat, bits, Nat.pow_zero, Nat.div_one]
  rfl

theorem toNat_high_half (u : Word) : (u.extractLsb' 16 16).toNat = u.toNat / 65536 := by
  have hlt : u.toNat / 65536 < 65536 := Nat.div_lt_of_lt_mul u.isLt
  rw [← bits_toNat, bits]
  exact Nat.mod_eq_of_lt hlt

/-- Two numbers side by side in the two fields of a word. -/
theorem ofNat_append {m n lo hi : Nat} (hlo : lo < 2 ^ n) :
    BitVec.ofNat (m + n) (lo + 2 ^ n * hi) = BitVec.ofNat m hi ++ BitVec.ofNat n lo := by
  apply BitVec.eq_of_toNat_eq
  rw [BitVec.toNat_append, BitVec.toNat_ofNat, BitVec.toNat_ofNat, BitVec.toNat_ofNat, Nat.mod_eq_of_lt hlo,
    ← Nat.shiftLeft_add_eq_or_of_lt hlo, Nat.shiftLeft_eq, Nat.pow_add, Nat.mul_comm (2 ^ m), Nat.mod_mul,
    Nat.add_mul_mod_self_left, Nat.mod_eq_of_lt hlo, Nat.add_mul_div_left _ _ (Nat.pow_pos (by decide)),
    Nat.div_eq_of_lt hlo, Nat.zero_add, Nat.add_comm, Nat.mul_comm]

theorem packed2_eq {f : Nat → Nat → Nat → Nat} (hf : ∀ u v w, f u v w < 65536) (u v w : Word) :
    packed2 f u v w =
      BitVec.ofNat 16 (f (u.extractLsb' 16 16).toNat (v.extractLsb' 16 16).toNat (w.extractLsb' 16 16).toNat) ++
        BitVec.ofNat 16 (f (u.extractLsb' 0 16).toNat (v.extractLsb' 0 16).toNat (w.extractLsb' 0 16).toNat) := by
  simp only [toNat_low_half, toNat_high_half]
  exact ofNat_append (m := 16) (n := 16) (hf _ _ _)

/-- A packed instruction, each of whose elements gives a code of 16 bits. -/
theorem packed3_of_packedOp {mk : BitVec 7 → BitVec 7 → BitVec 7 → LExt → Instr}
    (f : LExt → RMode → Nat → Nat → Nat → Nat) (hexec : ∀ d a b x s, exec (mk d a b x) s = packedOp (mk d a b x) x d a b (f x) s)
    (hf : ∀ x rm u v w, f x rm u v w < 65536) : Packed3 mk f :=
  fun d a b => own_of_laneMap _ (hexec d a b) fun x _ _ _ _ _ => congrArg (Lane.dst32 _ d) (packed2_eq (hf x _) _ _ _)

theorem float3_of_float2 {mk : BitVec 7 → BitVec 7 → BitVec 7 → LExt → Instr} {v : LExt → RMode → Nat → Nat → Nat → Nat}
    (f : LExt → RMode → Nat → Nat → Nat) (hexec : ∀ d a b x s, exec (mk d a b x) s = float2 (mk d a b x) x d a b (f x) s)
    (hv : ∀ x rm u w z, f x rm u w = v x rm u w z) : Float3 mk v :=
  fun d a b => own_of_laneMap _ (hexec d a b) fun _ _ _ _ _ _ => congrArg (fun k => Lane.dst32 _ d (BitVec.ofNat 32 k)) (hv _ _ _ _ _)

theorem float3_of_float3 {mk : BitVec 7 → BitVec 7 → BitVec 7 → LExt → Instr} (f : LExt → RMode → Nat → Nat → Nat → Nat)
    (hexec : ∀ d a b x s, exec (mk d a b x) s = float3 (mk d a b x) x d a b (f x) s) : Float3 mk f :=
  fun d a b => own_of_exec (hexec d a b)

theorem double3_of_double2 {mk : BitVec 7 → BitVec 7 → BitVec 7 → LExt → Instr} {v : RMode → Nat → Nat → Nat → Nat}
    (f : RMode → Nat → Nat → Nat → Nat) (hexec : ∀ d a b x s, exec (mk d a b x) s = double2 (mk d a b x) x d a b f s)
    (hv : ∀ rm u w z, f rm u w z = v rm u w z) : Double3 mk v :=
  fun d a b => own_of_laneMap _ (hexec d a b) fun _ _ _ _ _ _ => congrArg (fun k => Lane.dst64 _ d (BitVec.ofNat 64 k)) (hv _ _ _ _)

/-! ### Minimum and maximum (R238) -/

/-- R238: the model chooses the second operand where the claim keeps the first one back; the operand is rounded to its own code. -/
theorem minmax_eq_pickCode {f : Fl} (hf : f ∈ formats) (x : LExt) (larger : Bool) (u v : Nat) :
    f.minmax (ftzOf x) larger u v = pickCode f x larger u v := by
  unfold Fl.minmax pickCode fin rnd
  dsimp only
  split
  · rfl
  · have hless : ∀ b : Bool, (if (b != larger) = true then f.decode (ftzOf x) v else f.decode (ftzOf x) u) =
        if (b == larger) = true then f.decode (ftzOf x) u else f.decode (ftzOf x) v := fun b => by
      cases b <;> cases larger <;> rfl
    rw [hless, Val.ltz]
    split
    · exact (round_decode_ftz hf rne (ftzOf x) u).symm
    · exact (round_decode_ftz hf rne (ftzOf x) v).symm

/-! ### The sign bit (R239, R244) -/

/-- The sign bit apart from the rest of a code. -/
theorem sign_append {m : Nat} (u : BitVec (1 + m)) : u = u.extractLsb' m 1 ++ u.extractLsb' 0 m := by
  apply BitVec.eq_of_getLsbD_eq
  intro i hi
  rw [BitVec.getLsbD_append]
  by_cases him : i < m
  · simp [him]
  · obtain rfl : i = m := by omega
    simp

/-- A mask of all but the sign bit clears it. -/
theorem and_magnitude {m : Nat} (u : BitVec (1 + m)) :
    u &&& (0#1 ++ BitVec.allOnes m) = 0#1 ++ u.extractLsb' 0 m := by
  conv_lhs => rw [sign_append u]
  rw [BitVec.and_append, BitVec.and_zero, BitVec.and_allOnes]

/-- A mask of the sign bit alone keeps it. -/
theorem and_sign {m : Nat} (u : BitVec (1 + m)) : u &&& (1#1 ++ 0#m) = u.extractLsb' m 1 ++ 0#m := by
  conv_lhs => rw [sign_append u]
  rw [BitVec.and_append, BitVec.and_zero, show (1#1 : BitVec 1) = BitVec.allOnes 1 from rfl, BitVec.and_allOnes]

/-- The sign bit turned. -/
theorem xor_sign {m : Nat} (u : BitVec (1 + m)) : u ^^^ (1#1 ++ 0#m) = ~~~u.extractLsb' m 1 ++ u.extractLsb' 0 m := by
  conv_lhs => rw [sign_append u]
  rw [BitVec.xor_append, BitVec.xor_zero, show (1#1 : BitVec 1) = BitVec.allOnes 1 from rfl, BitVec.xor_allOnes]

/-- The magnitude of one code with the sign of another. -/
theorem or_sign {m : Nat} (u v : BitVec (1 + m)) :
    (u &&& (0#1 ++ BitVec.allOnes m)) ||| (v &&& (1#1 ++ 0#m)) = v.extractLsb' m 1 ++ u.extractLsb' 0 m := by
  rw [and_magnitude, and_sign, BitVec.or_append, BitVec.zero_or, BitVec.or_zero]

/-! ### The instructions -/

theorem f32_mem : f32 ∈ formats := by decide
theorem f64_mem : f64 ∈ formats := by decide

theorem f16_round_lt (rm : RMode) (ftz sat : Bool) (v : Val) : f16.round rm ftz sat v < 65536 := round_lt (by decide) rm ftz sat v
theorem bf16_round_lt (rm : RMode) (ftz sat : Bool) (v : Val) : bf16.round rm ftz sat v < 65536 := round_lt (by decide) rm ftz sat v

/-- R238 to R241: each instruction is an operation on codes; a packed one gives codes of 16 bits. -/
theorem floatResults : FloatResults := by
  refine ⟨?add, ?sub, ?min, ?max, ?add2h, ?sub2h, ?add2b, ?sub2b, ?abs, ?neg, ?csgn, ?mul, ?mul2h, ?mul2b, ?fma, ?fma2h, ?fma2b,
    ?fms, ?fnma⟩
  case add => exact float3_of_float2 (fun x => addCodes f32 (ftzOf x) false) (fun _ _ _ _ _ => rfl) fun _ _ _ _ _ => rfl
  case sub => exact float3_of_float2 (fun x => addCodes f32 (ftzOf x) true) (fun _ _ _ _ _ => rfl) fun _ _ _ _ _ => rfl
  case min =>
    exact float3_of_float2 (fun x _ => f32.minmax (ftzOf x) false) (fun _ _ _ _ _ => rfl)
      fun x _ u v _ => minmax_eq_pickCode f32_mem x false u v
  case max =>
    exact float3_of_float2 (fun x _ => f32.minmax (ftzOf x) true) (fun _ _ _ _ _ => rfl)
      fun x _ u v _ => minmax_eq_pickCode f32_mem x true u v
  case add2h =>
    exact packed3_of_packedOp (fun x rm u v _ => addCodes f16 (ftzOf x) false rm u v) (fun _ _ _ _ _ => rfl)
      fun _ _ _ _ _ => f16_round_lt _ _ _ _
  case sub2h =>
    exact packed3_of_packedOp (fun x rm u v _ => addCodes f16 (ftzOf x) true rm u v) (fun _ _ _ _ _ => rfl)
      fun _ _ _ _ _ => f16_round_lt _ _ _ _
  case add2b =>
    exact packed3_of_packedOp (fun x rm u v _ => addCodes bf16 (ftzOf x) false rm u v) (fun _ _ _ _ _ => rfl)
      fun _ _ _ _ _ => bf16_round_lt _ _ _ _
  case sub2b =>
    exact packed3_of_packedOp (fun x rm u v _ => addCodes bf16 (ftzOf x) true rm u v) (fun _ _ _ _ _ => rfl)
      fun _ _ _ _ _ => bf16_round_lt _ _ _ _
  case abs => exact word1_of_lane1 (fun _ u => u &&& 0x7FFFFFFF#32) (fun _ _ _ _ => rfl) fun _ u => and_magnitude (m := 31) u
  case neg => exact word1_of_lane1 (fun _ u => u ^^^ 0x80000000#32) (fun _ _ _ _ => rfl) fun _ u => xor_sign (m := 31) u
  case csgn =>
    exact word2_of_lane2 (fun _ u v => (u &&& 0x7FFFFFFF#32) ||| (v &&& 0x80000000#32)) (fun _ _ _ _ _ => rfl)
      fun _ u v => or_sign (m := 31) u v
  case mul => exact float3_of_float2 (fun x => mulCodes f32 (ftzOf x)) (fun _ _ _ _ _ => rfl) fun _ _ _ _ _ => rfl
  case mul2h =>
    exact packed3_of_packedOp (fun x rm u v _ => mulCodes f16 (ftzOf x) rm u v) (fun _ _ _ _ _ => rfl)
      fun _ _ _ _ _ => f16_round_lt _ _ _ _
  case mul2b =>
    exact packed3_of_packedOp (fun x rm u v _ => mulCodes bf16 (ftzOf x) rm u v) (fun _ _ _ _ _ => rfl)
      fun _ _ _ _ _ => bf16_round_lt _ _ _ _
  case fma => exact float3_of_float3 (fun x => fmaCodes f32 (ftzOf x) false false) fun _ _ _ _ _ => rfl
  case fma2h =>
    exact packed3_of_packedOp (fun x => fmaCodes f16 (ftzOf x) false false) (fun _ _ _ _ _ => rfl)
      fun _ _ _ _ _ => f16_round_lt _ _ _ _
  case fma2b =>
    exact packed3_of_packedOp (fun x => fmaCodes bf16 (ftzOf x) false false) (fun _ _ _ _ _ => rfl)
      fun _ _ _ _ _ => bf16_round_lt _ _ _ _
  case fms => exact float3_of_float3 (fun x => fmaCodes f32 (ftzOf x) false true) fun _ _ _ _ _ => rfl
  case fnma => exact float3_of_float3 (fun x => fmaCodes f32 (ftzOf x) true false) fun _ _ _ _ _ => rfl

/-- R244: each f64 instruction is an operation on codes, without flushing. -/
theorem doubleResults : DoubleResults := by
  refine ⟨?add, ?sub, ?mul, ?fma, ?min, ?max, ?abs, ?neg⟩
  case add =>
    exact double3_of_double2 (fun rm u v _ => addCodes f64 false false rm u v) (fun _ _ _ _ _ => rfl) fun _ _ _ _ => rfl
  case sub =>
    exact double3_of_double2 (fun rm u v _ => addCodes f64 false true rm u v) (fun _ _ _ _ _ => rfl) fun _ _ _ _ => rfl
  case mul =>
    exact double3_of_double2 (fun rm u v _ => mulCodes f64 false rm u v) (fun _ _ _ _ _ => rfl) fun _ _ _ _ => rfl
  case fma =>
    exact double3_of_double2 (fmaCodes f64 false false false) (fun _ _ _ _ _ => rfl) fun _ _ _ _ => rfl
  case min =>
    exact double3_of_double2 (fun _ u v _ => f64.minmax false false u v) (fun _ _ _ _ _ => rfl)
      fun _ u v _ => minmax_eq_pickCode f64_mem {} false u v
  case max =>
    exact double3_of_double2 (fun _ u v _ => f64.minmax false true u v) (fun _ _ _ _ _ => rfl)
      fun _ u v _ => minmax_eq_pickCode f64_mem {} true u v
  case abs =>
    exact fun d a => own_of_laneMap (fun _ p _ l m => m.dst64 d (src64 p.g l a &&& 0x7FFFFFFFFFFFFFFF#64)) (fun _ _ => rfl)
      fun _ _ _ _ _ _ => congrArg (Lane.dst64 _ d) (and_magnitude (m := 63) _)
  case neg =>
    exact fun d a => own_of_laneMap (fun _ p _ l m => m.dst64 d (src64 p.g l a ^^^ 0x8000000000000000#64)) (fun _ _ => rfl)
      fun _ _ _ _ _ _ => congrArg (Lane.dst64 _ d) (xor_sign (m := 63) _)

/-- Settles O11. -/
theorem floatArithmeticResults : Obligations.FloatArithmeticResults := ⟨floatResults, doubleResults⟩

end Sys2Proof.Proofs
end

section
/-! PROOFS. `cvt` (R236, R245, R246, Tables 7-1, 8-9, 11-3): what each format code stands for, the bits of a source that are read, and the
bits of a target that are written. -/

namespace Sys2Proof.Proofs

open Sys2Proof Sys2Proof.Machine Sys2Proof.Claims Sys2Proof.Laws

/-! ### Format codes (Table 8-9) -/

/-- A format code that is assigned names a floating format, fx128 or an integer format. -/
theorem format_code_cases (code : BitVec 4) (h : code ≠ 15) : code.toNat ≤ 5 ∨ code = 10 ∨ isIntCode code = true := by
  revert code
  decide

theorem isIntCode_cases {code : BitVec 4} (h : isIntCode code = true) :
    code = 6 ∨ code = 7 ∨ code = 8 ∨ code = 9 ∨ code = 11 ∨ code = 12 ∨ code = 13 ∨ code = 14 := by
  revert code
  decide

theorem not_float_of_isIntCode {code : BitVec 4} (h : isIntCode code = true) : ¬code.toNat ≤ 5 ∧ code.toNat ≠ 10 ∧ code ≠ 10 := by
  revert code
  decide

theorem flOfCode_eq_flFmt {code : BitVec 4} (h : code.toNat ≤ 5) : flOfCode code.toNat = flFmt code := by
  revert code
  decide

theorem intOfCode_eq {code : BitVec 4} (h : isIntCode code = true) :
    intOfCode code.toNat = { signed := signedFmt code, bits := fmtBits code } := by
  revert code
  decide

/-- Table 7-1: the range of an integer format. -/
theorem intOfCode_range {code : BitVec 4} (h : isIntCode code = true) :
    ((intOfCode code.toNat).min, (intOfCode code.toNat).max) = intRange code := by
  revert code
  decide

/-! ### Values of integer codes -/

/-- The low bits of a number below their power of two, read as two's complement. -/
theorem sext_of_lt {c n : Nat} (h : c < 2 ^ n) :
    sext c n = if 2 ^ (n - 1) ≤ c then (c : Int) - 2 ^ n else c := by
  rw [sext, Nat.mod_eq_of_lt h]
  by_cases hlo : c < 2 ^ (n - 1)
  · rw [if_pos hlo, if_neg (Nat.not_le.2 hlo)]
  · rw [if_neg hlo, if_pos (Nat.not_lt.1 hlo)]
    norm_cast

theorem intOfCode_value {code : BitVec 4} (h : isIntCode code = true) {c : Nat} (hc : c < 2 ^ fmtBits code) :
    (intOfCode code.toNat).value c = intValue code c := by
  rw [intOfCode_eq h, IntFmt.value, intValue, sext_of_lt hc, Nat.mod_eq_of_lt hc]
  cases signedFmt code <;> simp

/-! ### The value written (R245, Table 11-3) -/

/-- R245: the value of a source code. -/
theorem cvt_value_eq (x : LExt) {src : BitVec 4} (hsrc : src ≠ 15) {c : Nat} (hc : c < 2 ^ fmtBits src) :
    (if src.toNat ≤ 5 then (flOfCode src.toNat).decode (ftzOf x && decide (src.toNat ≤ 2)) c
      else if src.toNat = 10 then Val.ofInt (sext c 128) (-64)
      else Val.ofInt ((intOfCode src.toNat).value c) 0) =
    (if src.toNat ≤ 5 then (flFmt src).decode (ftzOf x && decide (src.toNat ≤ 2)) c
      else if src = 10 then Val.ofInt (if 2 ^ 127 ≤ c then (c : Int) - 2 ^ 128 else c) (-64)
      else Val.ofInt (intValue src c) 0) := by
  obtain hfloat | rfl | hint := format_code_cases src hsrc
  · rw [if_pos hfloat, if_pos hfloat, flOfCode_eq_flFmt hfloat]
  · exact congrArg (Val.ofInt · (-64)) (sext_of_lt (n := 128) hc)
  · obtain ⟨hge, hne, hne'⟩ := not_float_of_isIntCode hint
    rw [if_neg hge, if_neg hne, if_neg hge, if_neg hne', intOfCode_value hint hc]

/-- R245: the model's conversion is the claim's, between formats that an encoding assigns. -/
theorem convert_eq_cvtResult {d a : BitVec 7} {src tgt : BitVec 4} {x : LExt} (hassigned : Instr.unassigned (.cvt d a src tgt x) = false)
    (rm : RMode) {c : Nat} (hc : c < 2 ^ fmtBits src) :
    convert rm (ftzOf x) (satOf x) src.toNat tgt.toNat c = cvtResult x rm src tgt c := by
  simp only [Instr.unassigned, Bool.or_eq_false_iff, decide_eq_false_iff_not, Bool.and_eq_false_iff] at hassigned
  obtain ⟨⟨⟨⟨hsrc, htgt⟩, -⟩, hfixedInt⟩, hintFixed⟩ := hassigned
  unfold convert cvtResult
  rw [cvt_value_eq x hsrc hc]
  dsimp only
  obtain hfloat | rfl | hint := format_code_cases tgt htgt
  · have h4 : (tgt.toNat = 4) = (tgt = 4) := propext (BitVec.toNat_inj (y := 4#4))
    have h5 : (tgt.toNat = 5) = (tgt = 5) := propext (BitVec.toNat_inj (y := 5#4))
    simp only [if_pos hfloat, flOfCode_eq_flFmt hfloat, h4, h5]
  · rfl
  · obtain ⟨hge, hne, hne'⟩ := not_float_of_isIntCode hint
    have hrange := intOfCode_range hint
    rw [if_neg hge, if_neg hne, if_neg hge, if_neg hne', ← hrange]
    obtain hfloat | rfl | hintsrc := format_code_cases src hsrc
    · rw [if_pos hfloat, if_pos hfloat, if_pos hfloat]
    · exact absurd hint (Bool.eq_false_iff.1 (hfixedInt.resolve_left (by decide)))
    · obtain ⟨hge', -, -⟩ := not_float_of_isIntCode hintsrc
      rw [if_neg hge', if_neg hge', intOfCode_value hintsrc hc]
      rfl

/-! ### Source and target bits (R236, R246) -/

theorem srcBits_lt (g : Group) (l : Lane) (f : BitVec 7) (code : BitVec 4) :
    srcBits g l f (fmtRegBits code) < 2 ^ fmtRegBits code := by
  have hbits : fmtRegBits code = 32 ∨ fmtRegBits code = 64 ∨ fmtRegBits code = 128 := by
    revert code
    decide
  obtain h | h | h := hbits <;> rw [h] <;> exact BitVec.isLt _

/-- R236: a format of fewer bits than its register reads the low ones. -/
theorem cvtSource_eq (code : BitVec 4) {v : Nat} (hv : v < 2 ^ fmtRegBits code) :
    cvtSource code.toNat v = v % 2 ^ fmtBits code := by
  have hcases : (code = 1 ∨ code = 2 ∨ code = 4 ∨ code = 5 ∨ code = 11 ∨ code = 12 ∨ code = 13 ∨ code = 14) ∨
      (code = 0 ∨ code = 3 ∨ code = 6 ∨ code = 7 ∨ code = 8 ∨ code = 9 ∨ code = 10 ∨ code = 15) := by
    clear hv
    revert code
    decide
  obtain hnarrow | hwhole := hcases
  · obtain rfl | rfl | rfl | rfl | rfl | rfl | rfl | rfl := hnarrow <;> rfl
  · obtain ⟨hread, hbits⟩ : cvtSource code.toNat v = v ∧ fmtRegBits code = fmtBits code := by
      obtain rfl | rfl | rfl | rfl | rfl | rfl | rfl | rfl := hwhole <;> exact ⟨rfl, rfl⟩
    rw [hread, Nat.mod_eq_of_lt (hbits ▸ hv)]

theorem toNat_signExtend_ofInt (n : Nat) (v : Int) :
    ((BitVec.ofInt n v).signExtend 32).toNat = (sext (v % 2 ^ n).toNat n % 2 ^ 32).toNat := by
  have htoNat : (BitVec.ofInt n v).toNat = (v % 2 ^ n).toNat := by rw [BitVec.toNat_ofInt]; norm_cast
  rw [BitVec.signExtend, BitVec.toNat_ofInt, ← sext_toNat, htoNat]
  norm_cast

/-- A floating target gets a code of its format. -/
theorem cvtResult_of_float (x : LExt) (rm : RMode) (src : BitVec 4) {tgt : BitVec 4} (h : tgt.toNat ≤ 5) (c : Nat) :
    0 ≤ cvtResult x rm src tgt c ∧ cvtResult x rm src tgt c < 2 ^ fmtBits tgt := by
  have hformat : flFmt tgt ∈ formats ∧ 2 * (flFmt tgt).signBit = 2 ^ fmtBits tgt := by
    revert tgt
    decide
  unfold cvtResult
  dsimp only
  rw [if_pos h]
  have hlt := round_lt hformat.1 rm (ftzOf x && decide (tgt.toNat ≤ 2)) (satOf x && (decide (tgt = 4) || decide (tgt = 5)))
  rw [hformat.2] at hlt
  exact ⟨Int.natCast_nonneg _, by exact_mod_cast hlt _⟩

/-- R246: the register bits of the value: sign-extended from s16 and s8. -/
theorem cvtValue_eq_cvtBits {tgt : BitVec 4} {v : Int} (hfloat : tgt.toNat ≤ 5 → 0 ≤ v ∧ v < 2 ^ fmtBits tgt) :
    cvtValue tgt.toNat v = cvtBits tgt v := by
  have hlow : ∀ n : Nat, (v % 2 ^ n).toNat = (BitVec.ofInt n v).toNat := fun n => by rw [BitVec.toNat_ofInt]; norm_cast
  have hcases : tgt = 11 ∨ tgt = 13 ∨ (tgt = 1 ∨ tgt = 2 ∨ tgt = 4 ∨ tgt = 5) ∨
      (tgt = 0 ∨ tgt = 3 ∨ tgt = 6 ∨ tgt = 7 ∨ tgt = 8 ∨ tgt = 9 ∨ tgt = 10 ∨ tgt = 12 ∨ tgt = 14 ∨ tgt = 15) := by
    clear hfloat
    revert tgt
    decide
  obtain rfl | rfl | hnarrow | hwhole := hcases
  · exact (toNat_signExtend_ofInt 16 v).symm
  · exact (toNat_signExtend_ofInt 8 v).symm
  · have hle : tgt.toNat ≤ 5 ∧ 2 ^ fmtBits tgt ≤ (2 ^ 32 : Int) := by
      obtain rfl | rfl | rfl | rfl := hnarrow <;> decide
    obtain ⟨hpos, hlt⟩ := hfloat hle.1
    have hval : cvtValue tgt.toNat v = (v % 2 ^ 32).toNat := by
      obtain rfl | rfl | rfl | rfl := hnarrow <;> rfl
    have hbits : cvtBits tgt v = (v % 2 ^ fmtBits tgt).toNat := by
      rw [hlow]
      obtain rfl | rfl | rfl | rfl := hnarrow <;> rfl
    rw [hval, hbits, Int.emod_eq_of_lt hpos hlt, Int.emod_eq_of_lt hpos (Int.lt_of_lt_of_le hlt hle.2)]
  · have hbits : cvtBits tgt v = (v % 2 ^ fmtBits tgt).toNat := by
      rw [hlow]
      obtain rfl | rfl | rfl | rfl | rfl | rfl | rfl | rfl | rfl | rfl := hwhole <;> rfl
    rw [hbits]
    obtain rfl | rfl | rfl | rfl | rfl | rfl | rfl | rfl | rfl | rfl := hwhole <;> rfl

/-- Settles O12: the conversion by what each code stands for, its bits by the format's. -/
theorem convertResults : Obligations.ConvertResults := by
  unfold Obligations.ConvertResults
  intro d a src tgt x s p hassigned hruns
  refine (laneMap_next hruns _).trans (congrArg Host.Outcome.next (laneNext_congr fun n _ => ?_))
  have hpos : 0 < 2 ^ fmtBits src := Nat.pow_pos (by decide)
  rw [cvtSource_eq src (srcBits_lt _ _ _ _), convert_eq_cvtResult hassigned _ (Nat.mod_lt _ hpos),
    cvtValue_eq_cvtBits fun hfloat => cvtResult_of_float x _ src hfloat _]

end Sys2Proof.Proofs
end

section
/-! PROOFS. The dot products and the narrow formats (R158 to R165, R247 to R252): the elements of a word, integer and floating sums, the
decodes of codebook codes, and what is packed and unpacked. -/

namespace Sys2Proof.Proofs

open Sys2Proof Sys2Proof.Machine Sys2Proof.Claims Sys2Proof.Laws

/-! ### The elements of a word -/

/-- Element `t` of a word, by division. -/
theorem element_toNat {m : Nat} (w : BitVec m) (n t : Nat) : w.toNat / (2 ^ n) ^ t % 2 ^ n = (w.extractLsb' (n * t) n).toNat := by
  rw [← bits_toNat, bits, Nat.pow_mul]

theorem sext_mod (x n : Nat) : sext (x % 2 ^ n) n = sext x n := by
  simp only [sext, Nat.mod_mod]

/-- A byte of a word as a signed number. -/
theorem sext_element (w : Word) (t : Nat) : sext (w.toNat / 256 ^ t) 8 = (w.extractLsb' (8 * t) 8).toInt := by
  rw [← sext_toNat, ← element_toNat w 8 t, sext_mod]
  rfl

/-- A byte of a word as a number. -/
theorem byte_element (w : Word) (t : Nat) : w.toNat / 256 ^ t % 2 ^ 8 = (w.extractLsb' (8 * t) 8).toNat :=
  element_toNat w 8 t

/-! ### Integer dot products (R247) -/

theorem intDot_signed (u v : Word) :
    ((List.range 4).map fun t => IntFmt.value ⟨true, 8⟩ (u.toNat / 256 ^ t) * IntFmt.value ⟨true, 8⟩ (v.toNat / 256 ^ t)).sum =
      ((List.range 4).map fun t => (u.extractLsb' (8 * t) 8).toInt * (v.extractLsb' (8 * t) 8).toInt).sum := by
  simp only [IntFmt.value, if_true, sext_element]

theorem intDot_unsigned (u v : Word) :
    ((List.range 4).map fun t => IntFmt.value ⟨false, 8⟩ (u.toNat / 256 ^ t) * IntFmt.value ⟨false, 8⟩ (v.toNat / 256 ^ t)).sum =
      (((List.range 4).map fun t => (u.extractLsb' (8 * t) 8).toNat * (v.extractLsb' (8 * t) 8).toNat).sum : Nat) := by
  simp only [IntFmt.value, Bool.false_eq_true, if_false, byte_element]
  push_cast
  rw [List.map_map]
  rfl

/-- R147: the unsigned clamp of a number that is not negative. -/
theorem clamp_n32 (sat : Bool) (v : Nat) :
    toW (IntFmt.clamp ⟨false, 32⟩ sat (v : Int)) = BitVec.ofNat 32 (if sat then min v 4294967295 else v) := by
  have hclamp : IntFmt.clamp ⟨false, 32⟩ sat (v : Int) = ((if sat then min v 4294967295 else v : Nat) : Int) := by
    unfold IntFmt.clamp IntFmt.min IntFmt.max
    cases sat
    · rfl
    · simp only [if_true, Bool.false_eq_true, if_false]
      omega
  rw [hclamp]
  exact BitVec.ofInt_natCast _ _

/-! ### Floating dot products (R163 to R165, R247) -/

theorem any_eq_contains (ps : List Val) (v : Val) : (ps.any fun p => decide (p = v)) = ps.contains v := by
  rw [List.contains_eq_any_beq]
  refine congrArg (List.any ps) (funext fun p => ?_)
  rw [Bool.eq_iff_iff, decide_eq_true_eq, beq_iff_eq, eq_comm]

/-- R164, R165: the update by a k-group of products is the claim's, with their exact sum by the balanced tree. -/
theorem kUpdate_eq_dotCode (x : LExt) (rm : RMode) (c : Val) (ps : List Val) :
    kUpdate rm (ftzOf x) c ps = dotCode x rm c ps (treeSum ps) := by
  simp only [kUpdate, dotCode, any_eq_contains]
  rfl

/-- A floating dot product of elements that fill a word. -/
theorem dots_of_fdot {mk : BitVec 7 → BitVec 7 → BitVec 7 → LExt → Instr} (f : Fl) (n : Nat) {tree : (Nat → Val) → Val}
    (hexec : ∀ d a b x s, exec (mk d a b x) s = fdot (mk d a b x) x f n d a b s)
    (htree : ∀ q, treeSum ((List.range n).map q) = tree q) : Dots mk f n tree := by
  intro d a b
  refine own_of_laneMap _ (hexec d a b) fun x s p _ k _ => ?_
  dsimp only
  rw [kUpdate_eq_dotCode, htree]
  simp only [element_toNat]
  rfl

/-- Settles O13: the integer products by the bytes of a word, the floating ones by the elements and the balanced tree. -/
theorem dotResults : Obligations.DotResults := by
  unfold Obligations.DotResults
  refine ⟨?signed, ?unsigned, ?e4, ?e5, ?bf, ?half⟩
  case signed =>
    intro d a b
    refine own_of_laneMap (mk := .narrowDot4s d a b) _ (fun x s => show _ = idot _ x true d a b s from rfl) fun x s p _ n _ => ?_
    dsimp only
    rw [intDot_signed, IntFmt.value, if_pos rfl, sext_toNat]
    rfl
  case unsigned =>
    intro d a b
    refine own_of_laneMap (mk := .narrowDot4n d a b) _ (fun x s => show _ = idot _ x false d a b s from rfl) fun x s p _ n _ => ?_
    dsimp only
    rw [intDot_unsigned, IntFmt.value, if_neg Bool.false_ne_true, Nat.mod_eq_of_lt (BitVec.isLt _), ← Int.natCast_add, clamp_n32]
  case e4 => exact dots_of_fdot e4m3 4 (fun _ _ _ _ _ => rfl) fun _ => rfl
  case e5 => exact dots_of_fdot e5m2 4 (fun _ _ _ _ _ => rfl) fun _ => rfl
  case bf => exact dots_of_fdot bf16 2 (fun _ _ _ _ _ => rfl) fun _ => rfl
  case half => exact dots_of_fdot f16 2 (fun _ _ _ _ _ => rfl) fun _ => rfl

/-! ### Codebook decodes (R160, R161, R248) -/

theorem cb4Decode_lt {f : Fl} (hf : f ∈ formats) (c k s : Nat) : cb4Decode f c k s < 2 * f.signBit := by
  obtain ⟨hnan, -, -⟩ := codes_lt_signBit hf
  have hnan' : f.nan < 2 * f.signBit := by omega
  have hzero : 0 < 2 * f.signBit := by omega
  unfold cb4Decode
  dsimp only
  split
  · exact hnan'
  · split
    · exact hnan'
    · exact round_lt hf _ _ _ _
  · split
    · exact hzero
    · exact roundQ_lt hf _ _ _ _ _ _ _

theorem cbElem_eq_cbCode (f : Fl) (w : Word) (sc : DWord) (n : Nat) : cbElem f w sc n = cbCode f w sc n := by
  simp only [cbElem, cbCode, bits_toNat]

/-- R248: two codes decoded side by side. -/
theorem cbPair_own {mk : LExt → Instr} {f : Fl} (hf : f ∈ formats) (hbits : 2 * f.signBit = 65536) (d a b : BitVec 7)
    (hexec : ∀ x s, exec (mk x) s = cbPair (mk x) x f d a b s) : Own mk fun _ p _ l m =>
      let sc := src64 p.g l b
      let n := 2 * (sc.extractLsb' 40 2).toNat
      m.dst32 d (BitVec.ofNat 16 (cbCode f (src32 p.g l a) sc (n + 1)) ++ BitVec.ofNat 16 (cbCode f (src32 p.g l a) sc n)) := by
  refine own_of_laneMap _ hexec fun x s p _ n _ => ?_
  dsimp only
  refine congrArg (Lane.dst32 _ d) ?_
  simp only [cbElem_eq_cbCode, bits_toNat]
  exact ofNat_append (m := 16) (n := 16) (Nat.lt_of_lt_of_eq (cb4Decode_lt hf _ _ _) hbits)

/-! ### Packing and unpacking (R158, R159, R249 to R252) -/

/-- Four codes of a byte each in a word. -/
theorem ofNat_append4 {n a b c d : Nat} (ha : a < 2 ^ n) (hb : b < 2 ^ n) (hc : c < 2 ^ n) :
    BitVec.ofNat (n + n + n + n) (a + 2 ^ n * (b + 2 ^ n * (c + 2 ^ n * d))) =
      BitVec.ofNat n d ++ BitVec.ofNat n c ++ BitVec.ofNat n b ++ BitVec.ofNat n a := by
  rw [ofNat_append ha, ofNat_append hb, ofNat_append hc]

/-- The four words of two pairs. -/
theorem words_of_pairs (u v : DWord) :
    ((v ++ u).extractLsb' 0 32).toNat = u.toNat % 2 ^ 32 ∧ ((v ++ u).extractLsb' 32 32).toNat = u.toNat / 2 ^ 32 ∧
      ((v ++ u).extractLsb' 64 32).toNat = v.toNat % 2 ^ 32 ∧ ((v ++ u).extractLsb' 96 32).toNat = v.toNat / 2 ^ 32 := by
  have hlow : ∀ w : DWord, (w.extractLsb' 0 32).toNat = w.toNat % 2 ^ 32 := fun w => by
    rw [← bits_toNat, bits, Nat.pow_zero, Nat.div_one]
  have hhigh : ∀ w : DWord, (w.extractLsb' 32 32).toNat = w.toNat / 2 ^ 32 := fun w => by
    rw [← bits_toNat, bits]
    exact Nat.mod_eq_of_lt (Nat.div_lt_of_lt_mul w.isLt)
  rw [cut_lo _ _ _ _ (by decide), cut_lo _ _ _ _ (by decide), cut_hi _ _ _ _ (by decide), cut_hi _ _ _ _ (by decide)]
  exact ⟨hlow u, hhigh u, hlow v, hhigh v⟩

/-- R249: four f32 values packed, each rounded with the random operand turned by a byte more. -/
theorem pack4_own {mk : LExt → Instr} {f : Fl} (hf : f ∈ formats) (hbits : 2 * f.signBit = 256) (d a b : BitVec 7)
    (hexec : ∀ x s, exec (mk x) s = pack4 (mk x) x f d a b s) : Own mk fun x p _ l m =>
      let c := fun t => BitVec.ofNat 8 (f.round
        { code := (rmode x p.g l).code, r := ((auxWord x p.g l).rotateRight (8 * t)).toNat % 65536 } false (satOf x)
        (fin f32 x (((src64 p.g l b ++ src64 p.g l a).extractLsb' (32 * t) 32).toNat)))
      m.dst32 d (c 3 ++ c 2 ++ c 1 ++ c 0) := by
  have hlt : ∀ rm sat v, f.round rm false sat v < 2 ^ 8 := fun rm sat v =>
    Nat.lt_of_lt_of_eq (round_lt hf rm false sat v) hbits
  refine own_of_laneMap _ hexec fun x s p _ n _ => ?_
  dsimp only
  refine congrArg (Lane.dst32 _ d) ?_
  obtain ⟨h0, h1, h2, h3⟩ := words_of_pairs (src64 p.g (p.g.lane n) a) (src64 p.g (p.g.lane n) b)
  simp only [Nat.mul_zero, Nat.mul_one, Nat.reduceMul, h0, h1, h2, h3]
  refine Eq.trans (congrArg (BitVec.ofNat 32) ?_) (ofNat_append4 (n := 8) (hlt _ _ _) (hlt _ _ _) (hlt _ _ _))
  cases hmod : x.mod with
  | none =>
    simp only [fin, auxWord, hmod]
    omega
  | some k =>
    simp only [fin, auxWord, hmod]
    omega

/-- R252: four 8-bit elements unpacked to f16. -/
theorem unpack4_own {mk : LExt → Instr} (f : Fl) (d a : BitVec 7)
    (hexec : ∀ x s, exec (mk x) s = unpack4 (mk x) x f d a s) : Own mk fun _ p _ l m =>
      let h := fun t => BitVec.ofNat 16 (f16.round rne false false
        (f.decode false ((src32 p.g l a).extractLsb' (8 * t) 8).toNat))
      m.dst64 d (h 3 ++ h 2 ++ h 1 ++ h 0) := by
  refine own_of_laneMap _ hexec fun x s p _ n _ => ?_
  dsimp only
  refine congrArg (Lane.dst64 _ d) ?_
  simp only [toHalf, bits_toNat]
  refine Eq.trans (congrArg (BitVec.ofNat 64) ?_)
    (ofNat_append4 (n := 16) (f16_round_lt _ _ _ _) (f16_round_lt _ _ _ _) (f16_round_lt _ _ _ _))
  omega

/-- R159: a block's scale is a code of eight bits. -/
theorem mxScale_lt (xs : List Nat) : mxScale xs < 256 := by
  unfold mxScale
  dsimp only
  split
  · decide
  · split
    · decide
    · omega

/-- R250: scale and code of a packed block in the low half of a word. -/
theorem mxWord_eq {e : Nat} (he : e < 256) (v : Int) :
    BitVec.ofNat 32 ((v % 256).toNat + 256 * e) = 0#16 ++ BitVec.ofNat 8 e ++ BitVec.ofInt 8 v := by
  have hlow : (v % 256).toNat < 2 ^ 8 := by omega
  have hcode : BitVec.ofNat 8 (v % 256).toNat = BitVec.ofInt 8 v := by
    apply BitVec.eq_of_toNat_eq
    rw [BitVec.toNat_ofNat, BitVec.toNat_ofInt, Nat.mod_eq_of_lt hlow]
    rfl
  have hscale : BitVec.ofNat 24 e = 0#16 ++ BitVec.ofNat 8 e := ofNat_append (m := 16) (n := 8) (hi := 0) he
  rw [← hcode, ← hscale]
  exact ofNat_append (m := 24) (n := 8) hlow

/-- R251: an mxi8 code is read in its low eight bits. -/
theorem mxVal_low (u v : Word) : mxVal (v.toNat % 256) u.toNat = mxVal (v.extractLsb' 0 8).toNat (u.extractLsb' 0 8).toNat := by
  have hlow : ∀ w : Word, (w.extractLsb' 0 8).toNat = w.toNat % 2 ^ 8 := fun w => by
    rw [← bits_toNat, bits, Nat.pow_zero, Nat.div_one]
  simp only [mxVal, hlow, sext_mod]
  rfl

/-- Settles O14: each decode, packing and unpacking by the elements of its words. -/
theorem narrowResults : Obligations.NarrowResults := by
  unfold Obligations.NarrowResults
  refine ⟨?cb16, ?cb32, ?pack, ?mxpk, ?mxunpk, ?unpack⟩
  case cb16 =>
    intro e he d a b
    simp only [List.mem_cons, List.not_mem_nil, or_false] at he
    obtain rfl | rfl := he
    · exact cbPair_own (by decide) (by decide) d a b fun _ _ => rfl
    · exact cbPair_own (by decide) (by decide) d a b fun _ _ => rfl
  case cb32 =>
    exact fun d a b => own_of_laneMap (fun _ p _ l m =>
      m.dst32 d (BitVec.ofNat 32 (cbElem f32 (src32 p.g l a) (src64 p.g l b) (bits (src64 p.g l b).toNat 40 3)))) (fun _ _ => rfl)
      fun _ _ _ _ _ _ => by rw [cbElem_eq_cbCode, bits_toNat]
  case pack =>
    intro e he d a b
    simp only [List.mem_cons, List.not_mem_nil, or_false] at he
    obtain rfl | rfl := he
    · exact pack4_own (by decide) (by decide) d a b fun _ _ => rfl
    · exact pack4_own (by decide) (by decide) d a b fun _ _ => rfl
  case mxpk =>
    exact fun a d => own_of_laneMap (fun x p _ l m =>
      let e := mxScale ((p.exec x).map fun k => (src32 p.g (p.g.lane k) a).toNat)
      m.dst32 d (BitVec.ofNat 32 ((mxPack e (src32 p.g l a).toNat % 256).toNat + 256 * e))) (fun _ _ => rfl)
      fun _ _ _ _ _ _ => congrArg (Lane.dst32 _ d) (mxWord_eq (mxScale_lt _) _)
  case mxunpk =>
    exact word2_of_lane2 (fun _ u v => BitVec.ofNat 32 (f32.round rne false false (mxVal (v.toNat % 256) u.toNat)))
      (fun _ _ _ _ _ => rfl) fun _ u v => by rw [mxVal_low]
  case unpack =>
    intro e he d a
    simp only [List.mem_cons, List.not_mem_nil, or_false] at he
    obtain rfl | rfl := he
    · exact unpack4_own e4m3 d a fun _ _ => rfl
    · exact unpack4_own e5m2 d a fun _ _ => rfl

end Sys2Proof.Proofs
end
section
/-! PROOF of O20 (R122, R173, R174, R189): reads after writes. A write to a place is a write to one table; the table's rule is
`mget_mputs_at`, and what holds the table is found again by its number. -/

namespace Sys2Proof.Proofs

open Sys2Proof Sys2Proof.Machine Sys2Proof.Claims Sys2Proof.Laws

/-! ### Finding what a change has changed -/

/-- Changing the entries with one key, then looking for a key. -/
theorem find_modified {α κ : Type} [DecidableEq κ] (key : α → κ) (k j : κ) (f : α → α) (hf : ∀ a, key (f a) = key a) (l : List α) :
    (l.map fun a => if key a = k then f a else a).find? (fun a => key a = j) =
      if j = k then (l.find? fun a => key a = j).map f else l.find? fun a => key a = j := by
  induction l with
  | nil => simp
  | cons a l ih =>
    have ha : key (if key a = k then f a else a) = key a := by split <;> simp [hf]
    simp only [List.map_cons, List.find?_cons, ha]
    by_cases hj : key a = j
    · subst hj; by_cases e : key a = k <;> simp [e]
    · simp only [hj, decide_false, ih]

theorem clusterOf_modCluster (s : State) (id : Nat) (f : Cluster → Cluster) (hf : ∀ c, (f c).id = c.id) (k : Nat) :
    clusterOf (modCluster s id f) k = if k = id then (clusterOf s k).map f else clusterOf s k :=
  find_modified Cluster.id id k f hf s.clusters

theorem shadeOf_modShade (s : State) (sp : FeSpace) (f : Shade → Shade) (hf : ∀ h, (f h).space = h.space) (k : FeSpace) :
    shadeOf (modShade s sp f) k = if k = sp then (shadeOf s k).map f else shadeOf s k :=
  find_modified Shade.space sp k f hf s.shades

theorem groupOf_modGroup (s : State) (id gi : Nat) (f : Group → Group) (k j : Nat) :
    groupOf (modGroup s id gi f) k j = if k = id ∧ j = gi then (groupOf s k j).map f else groupOf s k j := by
  have hb : blockOf (modGroup s id gi f) k = if k = id then (blockOf s k).map fun b => b.modGroup gi f else blockOf s k :=
    blockOf_modBlock s id (fun b => b.modGroup gi f) (fun _ => rfl) k
  unfold groupOf
  rw [hb]
  by_cases hk : k = id
  · simp only [hk, if_true, true_and]
    cases blockOf s id with
    | none => simp
    | some b =>
      by_cases hj : j = gi
      · simp [Block.group, Block.modGroup, hj]
      · simp [Block.group, Block.modGroup, hj, Ne.symm hj]
  · simp [hk]

/-- The lanes of a group after one has changed. -/
theorem lane_modLane (g : Group) (n : Nat) (f : Lane → Lane) (hn : n < g.lanes.length) (m : Nat) :
    (g.modLane n f).lane m = if m = n then f (g.lane n) else g.lane m := by
  by_cases h : m = n
  · subst h; simp [Group.lane, Group.modLane, hn]
  · simp [Group.lane, Group.modLane, h, Ne.symm h]

/-! ### One change after another -/

/-- Changing the entries with one key twice. -/
theorem map_modified_twice {α κ : Type} [DecidableEq κ] (key : α → κ) (k : κ) (f h : α → α) (hf : ∀ a, key (f a) = key a)
    (l : List α) : ((l.map fun a => if key a = k then f a else a).map fun a => if key a = k then h a else a) =
      l.map fun a => if key a = k then h (f a) else a := by
  rw [List.map_map]
  refine List.map_congr_left fun a _ => ?_
  by_cases e : key a = k <;> simp [e, hf]

/-- Changing nothing of the entries with one key. -/
theorem map_modified_id {α κ : Type} [DecidableEq κ] (key : α → κ) (k : κ) (l : List α) :
    (l.map fun a => if key a = k then a else a) = l := by simp

theorem modBlock_comp (s : State) (id : Nat) (f h : Block → Block) (hf : ∀ b, (f b).id = b.id) :
    modBlock (modBlock s id f) id h = modBlock s id fun b => h (f b) :=
  congrArg (fun bs => { s with blocks := bs }) (map_modified_twice Block.id id f h hf s.blocks)

theorem modBlock_self (s : State) (id : Nat) : modBlock s id (fun b => b) = s :=
  congrArg (fun bs => { s with blocks := bs }) (map_modified_id Block.id id s.blocks)

theorem modCluster_comp (s : State) (id : Nat) (f h : Cluster → Cluster) (hf : ∀ c, (f c).id = c.id) :
    modCluster (modCluster s id f) id h = modCluster s id fun c => h (f c) :=
  congrArg (fun cs => { s with clusters := cs }) (map_modified_twice Cluster.id id f h hf s.clusters)

theorem modCluster_self (s : State) (id : Nat) : modCluster s id (fun c => c) = s :=
  congrArg (fun cs => { s with clusters := cs }) (map_modified_id Cluster.id id s.clusters)

theorem modShade_comp (s : State) (sp : FeSpace) (f h : Shade → Shade) (hf : ∀ h, (f h).space = h.space) :
    modShade (modShade s sp f) sp h = modShade s sp fun x => h (f x) :=
  congrArg (fun hs => { s with shades := hs }) (map_modified_twice Shade.space sp f h hf s.shades)

theorem modShade_self (s : State) (sp : FeSpace) : modShade s sp (fun h => h) = s :=
  congrArg (fun hs => { s with shades := hs }) (map_modified_id Shade.space sp s.shades)

theorem modGroup_comp (s : State) (id gi : Nat) (f h : Group → Group) :
    modGroup (modGroup s id gi f) id gi h = modGroup s id gi fun g => h (f g) := by
  refine (modBlock_comp s id (fun b => b.modGroup gi f) (fun b => b.modGroup gi h) fun _ => rfl).trans ?_
  refine congrArg (modBlock s id) (funext fun b => ?_)
  exact congrArg (fun gs => { b with groups := gs }) (List.modify_modify_eq f h gi b.groups)

theorem modGroup_self (s : State) (id gi : Nat) : modGroup s id gi (fun g => g) = s :=
  have hb (b : Block) : (b.modGroup gi fun g => g) = b := congrArg (fun gs => { b with groups := gs }) (List.modify_id gi b.groups)
  (congrArg (modBlock s id) (funext hb)).trans (modBlock_self s id)

theorem modLane_comp (s : State) (id gi n : Nat) (f h : Lane → Lane) :
    modLane (modLane s id gi n f) id gi n h = modLane s id gi n fun l => h (f l) := by
  refine (modGroup_comp s id gi (fun g => g.modLane n f) fun g => g.modLane n h).trans ?_
  refine congrArg (modGroup s id gi) (funext fun g => ?_)
  exact congrArg (fun ls => { g with lanes := ls }) (List.modify_modify_eq f h n g.lanes)

theorem modLane_self (s : State) (id gi n : Nat) : modLane s id gi n (fun l => l) = s :=
  have hg (g : Group) : (g.modLane n fun l => l) = g := congrArg (fun ls => { g with lanes := ls }) (List.modify_id n g.lanes)
  (congrArg (modGroup s id gi) (funext hg)).trans (modGroup_self s id gi)

/-! ### The bytes of a table -/

/-- What a table of bytes reads as after some were written from an address on. -/
theorem mget_mputs_at (m : Cells Byte) (a : Nat) (bs : List Byte) : ByteRule m (mputs m a bs) a bs := by
  induction bs generalizing m a with
  | nil => intro q; simp [mputs]
  | cons b bs ih =>
    intro q
    rw [mputs, ih (mput m a b) (a + 1) q, mget_mput, List.length_cons]
    by_cases hq : q = a
    · subst hq; simp
    · by_cases hin : a ≤ q ∧ q < a + (bs.length + 1)
      · obtain ⟨j, hj⟩ : ∃ j, q = a + 1 + j := ⟨q - (a + 1), by omega⟩
        subst hj
        have hd : a + 1 + j - a = j + 1 := by omega
        have hlt : j < bs.length := by omega
        simp [hd, hlt, hin]
      · rw [if_neg (by omega), if_neg hq, if_neg hin]

/-! ### A write to a place is a write to one table -/

theorem putBytes_dsp (s : State) (a : Nat) (bs : List Byte) : putBytes s (.dsp a) bs = { s with dsp := mputs s.dsp a bs } := by
  induction bs generalizing s a with
  | nil => rfl
  | cons b bs ih => exact ih _ (a + 1)

theorem physEach_dram (s : State) (pa : Nat) (bs : List Byte) (h : pa + bs.length ≤ 2 ^ 44) :
    physEach s pa bs = { s with dram := mputs s.dram pa bs } := by
  induction bs generalizing s pa with
  | nil => rfl
  | cons b bs ih =>
    rw [List.length_cons] at h
    have hc : paClass pa = 0 := Nat.div_eq_of_lt (by omega)
    have hw : physWrite s pa b = { s with dram := mput s.dram pa b } := by simp only [physWrite, hc]
    rw [physEach, ih _ _ (by omega), hw]
    rfl

theorem putBytes_priv (s : State) (id g n o : Nat) (bs : List Byte) :
    putBytes s (.priv id g n o) bs = modLane s id g n fun l => { l with priv := mputs l.priv o bs } := by
  induction bs generalizing s o with
  | nil => exact (modLane_self s id g n).symm
  | cons b bs ih => exact (ih _ (o + 1)).trans (modLane_comp s id g n _ _)

/-- A block and what is left of one, each changed. -/
theorem putBytes_scr (s : State) (id o : Nat) (bs : List Byte) :
    putBytes s (.scr id o) bs = modShade (modBlock s id fun b => { b with scratch := mputs b.scratch o bs }) (.scr id)
      fun h => { h with mem := mputs h.mem o bs } := by
  induction bs generalizing s o with
  | nil => exact ((modShade_self _ _).trans (modBlock_self s id)).symm
  | cons b bs ih =>
    refine (ih _ (o + 1)).trans ?_
    have hb := modBlock_comp s id (fun x => { x with scratch := mput x.scratch o b })
      (fun x => { x with scratch := mputs x.scratch (o + 1) bs }) fun _ => rfl
    have hs := modShade_comp (modBlock (modBlock s id fun x => { x with scratch := mput x.scratch o b }) id
      fun x => { x with scratch := mputs x.scratch (o + 1) bs }) (.scr id) (fun h => { h with mem := mput h.mem o b })
      (fun h => { h with mem := mputs h.mem (o + 1) bs }) fun _ => rfl
    exact hs.trans (congrArg (fun t => modShade t (.scr id) fun h => { h with mem := mputs h.mem o (b :: bs) }) hb)

theorem putBytes_csh (s : State) (id o : Nat) (bs : List Byte) :
    putBytes s (.csh id o) bs = modShade (modCluster s id fun c => { c with mem := mputs c.mem o bs }) (.csh id)
      fun h => { h with mem := mputs h.mem o bs } := by
  induction bs generalizing s o with
  | nil => exact ((modShade_self _ _).trans (modCluster_self s id)).symm
  | cons b bs ih =>
    refine (ih _ (o + 1)).trans ?_
    have hc := modCluster_comp s id (fun x => { x with mem := mput x.mem o b })
      (fun x => { x with mem := mputs x.mem (o + 1) bs }) fun _ => rfl
    have hs := modShade_comp (modCluster (modCluster s id fun x => { x with mem := mput x.mem o b }) id
      fun x => { x with mem := mputs x.mem (o + 1) bs }) (.csh id) (fun h => { h with mem := mput h.mem o b })
      (fun h => { h with mem := mputs h.mem (o + 1) bs }) fun _ => rfl
    exact hs.trans (congrArg (fun t => modShade t (.csh id) fun h => { h with mem := mputs h.mem o (b :: bs) }) hc)

/-! ### Each kind of memory -/

theorem dram_written (s : State) (pa : Nat) (bs : List Byte) (h : pa + bs.length ≤ 2 ^ 44) :
    writePlace s (.phys pa) bs = { s with dram := mputs s.dram pa bs } := by
  cases bs with
  | nil =>
    unfold writePlace physWrites
    dsimp only
    split
    · exact congrArg (fun p => { s with posted := p }) (List.append_nil s.posted)
    · rfl
  | cons b bs =>
    rw [List.length_cons] at h
    have hc : paClass pa = 0 := Nat.div_eq_of_lt (by omega)
    refine Eq.trans ?_ (physEach_dram s pa (b :: bs) (by rw [List.length_cons]; omega))
    exact if_neg (by simp [hc])

theorem scratch_written (s : State) (id : Nat) (b : Block) (o : Nat) (bs : List Byte) (hb : blockOf s id = some b) :
    let t := writePlace s (.scr id o) bs
    (∃ b', blockOf t id = some b' ∧ ByteRule b.scratch b'.scratch o bs ∧ { b' with scratch := b.scratch } = b) ∧
    (∀ k, k ≠ id → blockOf t k = blockOf s k) ∧ (∀ sp, sp ≠ .scr id → shadeOf t sp = shadeOf s sp) ∧
    { t with blocks := s.blocks, shades := s.shades } = s := by
  have hw : writePlace s (.scr id o) bs = _ := putBytes_scr s id o bs
  have hk := blockOf_modBlock s id (fun b => { b with scratch := mputs b.scratch o bs }) fun _ => rfl
  rw [hw]
  refine ⟨⟨{ b with scratch := mputs b.scratch o bs }, ?_, mget_mputs_at _ _ _, rfl⟩, fun k hne => ?_, fun sp hne => ?_, rfl⟩
  · exact (hk id).trans (by rw [if_pos rfl, hb]; rfl)
  · exact (hk k).trans (if_neg hne)
  · exact (shadeOf_modShade _ _ (fun h => { h with mem := mputs h.mem o bs }) (fun _ => rfl) sp).trans (if_neg hne)

theorem ended_scratch_written (s : State) (id : Nat) (h : Shade) (o : Nat) (bs : List Byte) (hb : blockOf s id = none)
    (hs : shadeOf s (.scr id) = some h) :
    let t := writePlace s (.scr id o) bs
    (∃ h', shadeOf t (.scr id) = some h' ∧ ByteRule h.mem h'.mem o bs ∧ { h' with mem := h.mem } = h) ∧
    (∀ sp, sp ≠ .scr id → shadeOf t sp = shadeOf s sp) ∧ { t with shades := s.shades } = s := by
  have hw : writePlace s (.scr id o) bs = _ := putBytes_scr s id o bs
  have hnone : ∀ b ∈ s.blocks, b.id ≠ id := by simpa [blockOf] using hb
  have hm : modBlock s id (fun b => { b with scratch := mputs b.scratch o bs }) = s :=
    congrArg (fun bs => { s with blocks := bs })
      ((List.map_congr_left fun b hbs => if_neg (hnone b hbs)).trans (List.map_id' s.blocks))
  have hsp := shadeOf_modShade s (.scr id) (fun h => { h with mem := mputs h.mem o bs }) fun _ => rfl
  rw [hw, hm]
  refine ⟨⟨{ h with mem := mputs h.mem o bs }, ?_, mget_mputs_at _ _ _, rfl⟩, fun sp hne => (hsp sp).trans (if_neg hne), rfl⟩
  exact (hsp (.scr id)).trans (by rw [if_pos rfl, hs]; rfl)

theorem shared_written (s : State) (id : Nat) (c : Cluster) (o : Nat) (bs : List Byte) (hc : clusterOf s id = some c) :
    let t := writePlace s (.csh id o) bs
    (∃ c', clusterOf t id = some c' ∧ ByteRule c.mem c'.mem o bs ∧ { c' with mem := c.mem } = c) ∧
    (∀ k, k ≠ id → clusterOf t k = clusterOf s k) ∧ (∀ sp, sp ≠ .csh id → shadeOf t sp = shadeOf s sp) ∧
    { t with clusters := s.clusters, shades := s.shades } = s := by
  have hw : writePlace s (.csh id o) bs = _ := putBytes_csh s id o bs
  have hk := clusterOf_modCluster s id (fun c => { c with mem := mputs c.mem o bs }) fun _ => rfl
  rw [hw]
  refine ⟨⟨{ c with mem := mputs c.mem o bs }, ?_, mget_mputs_at _ _ _, rfl⟩, fun k hne => ?_, fun sp hne => ?_, rfl⟩
  · exact (hk id).trans (by rw [if_pos rfl, hc]; rfl)
  · exact (hk k).trans (if_neg hne)
  · exact (shadeOf_modShade _ _ (fun h => { h with mem := mputs h.mem o bs }) (fun _ => rfl) sp).trans (if_neg hne)

theorem private_written (s : State) (id gi : Nat) (g : Group) (n o : Nat) (bs : List Byte) (hg : groupOf s id gi = some g)
    (hn : n < g.lanes.length) :
    let t := writePlace s (.priv id gi n o) bs
    (∃ g', groupOf t id gi = some g' ∧ ByteRule (g.lane n).priv (g'.lane n).priv o bs ∧
      { g'.lane n with priv := (g.lane n).priv } = g.lane n ∧ (∀ m, m ≠ n → g'.lane m = g.lane m) ∧
      { g' with lanes := g.lanes } = g) ∧
    (∀ k j, ¬(k = id ∧ j = gi) → groupOf t k j = groupOf s k j) ∧
    (∀ k b, blockOf s k = some b → ∃ b', blockOf t k = some b' ∧ { b' with groups := b.groups } = b) ∧
    { t with blocks := s.blocks } = s := by
  have hw : writePlace s (.priv id gi n o) bs = _ := putBytes_priv s id gi n o bs
  have hgr := groupOf_modGroup s id gi fun g => g.modLane n fun l => { l with priv := mputs l.priv o bs }
  have hl := lane_modLane g n (fun l => { l with priv := mputs l.priv o bs }) hn
  have hbk := blockOf_modBlock s id (fun b => b.modGroup gi fun g => g.modLane n fun l => { l with priv := mputs l.priv o bs })
    fun _ => rfl
  rw [hw]
  refine ⟨⟨g.modLane n fun l => { l with priv := mputs l.priv o bs }, ?_, ?_, ?_, fun m hm => (hl m).trans (if_neg hm), rfl⟩,
    fun k j hne => (hgr k j).trans (if_neg hne), fun k b hb => ?_, rfl⟩
  · exact (hgr id gi).trans (by rw [if_pos ⟨rfl, rfl⟩, hg]; rfl)
  · rw [hl n, if_pos rfl]; exact mget_mputs_at _ _ _
  · rw [hl n, if_pos rfl]
  · by_cases hk : k = id
    · exact ⟨b.modGroup gi fun g => g.modLane n fun l => { l with priv := mputs l.priv o bs },
        (hbk k).trans (by rw [if_pos hk, hb]; rfl), rfl⟩
    · exact ⟨b, (hbk k).trans ((if_neg hk).trans hb), rfl⟩

theorem memoryWrites : MemoryWrites :=
  ⟨fun s a bs => by
      have hw : writePlace s (.dsp a) bs = _ := putBytes_dsp s a bs
      rw [hw]
      exact ⟨mget_mputs_at _ _ _, rfl⟩,
    fun s pa bs h => by rw [dram_written s pa bs h]; exact ⟨mget_mputs_at _ _ _, rfl⟩,
    scratch_written, ended_scratch_written, shared_written, private_written⟩

/-! ### Registers and predicates -/

theorem reg_setReg (l : Lane) (k : Nat) (v : Word) (n : Nat) : (l.setReg k v).reg n = if n = k then v else l.reg n :=
  cget_cput _ _ _ _ _

theorem dst64_reg (l : Lane) (d : BitVec 7) (v : DWord) (n : Nat) : (l.dst64 d v).reg n =
    if n = d.toNat then v.extractLsb' 0 32 else if n = d.toNat + 1 then v.extractLsb' 32 32 else l.reg n := by
  unfold Lane.dst64
  rw [reg_setReg, reg_setReg, extractLsb'_zero]
  by_cases h : n = d.toNat
  · rw [if_neg (by omega), if_pos h, if_pos h]
  · simp only [if_neg h]

theorem dst128_reg (l : Lane) (d : BitVec 7) (v : BitVec 128) (n : Nat) : (l.dst128 d v).reg n =
    if d.toNat ≤ n ∧ n < d.toNat + 4 then v.extractLsb' (32 * (n - d.toNat)) 32 else l.reg n := by
  unfold Lane.dst128
  simp only [reg_setReg]
  by_cases h : d.toNat ≤ n ∧ n < d.toNat + 4
  · rw [if_pos h]
    obtain ⟨k, rfl⟩ : ∃ k, n = d.toNat + k := ⟨n - d.toNat, by omega⟩
    have hk : k < 4 := by omega
    rw [Nat.add_sub_cancel_left]
    match k, hk with
    | 0, _ => simp [extractLsb'_zero]
    | 1, _ => simp
    | 2, _ => simp
    | 3, _ => simp
  · rw [if_neg (by omega), if_neg (by omega), if_neg (by omega), if_neg (by omega), if_neg h]

theorem not_namesUniform {f : BitVec 7} (h : f.toNat < 112) : namesUniform f = false := by simp [namesUniform, h]

theorem namesUniform_of_ge {f : BitVec 7} (h : 112 ≤ f.toNat) : namesUniform f = true := by simp [namesUniform, h]

theorem lane_source (g : Group) (l : Lane) (f : BitVec 7) (h : f.toNat < 112) : src32 g l f = l.reg f.toNat ∧
    (src64 g l f).extractLsb' 0 32 = l.reg f.toNat ∧ (src64 g l f).extractLsb' 32 32 = l.reg (f.toNat + 1) ∧
    ∀ k, k < 4 → (src128 l f).extractLsb' (32 * k) 32 = l.reg (f.toNat + k) := by
  have h64 : src64 g l f = l.reg (f.toNat + 1) ++ l.reg f.toNat := by simp [src64, not_namesUniform h]
  refine ⟨by simp [src32, not_namesUniform h], ?_, ?_, fun k hk => ?_⟩
  · rw [h64, cut_lo _ _ _ _ (by decide)]; exact BitVec.extractLsb'_eq_self
  · rw [h64, cut_hi _ _ _ _ (by decide)]; exact BitVec.extractLsb'_eq_self
  · unfold src128
    match k, hk with
    | 0, _ => rw [cut_lo _ _ _ _ (by decide)]; exact BitVec.extractLsb'_eq_self
    | 1, _ => rw [cut_hi _ _ _ _ (by decide), cut_lo _ _ _ _ (by decide)]; exact BitVec.extractLsb'_eq_self
    | 2, _ =>
      rw [cut_hi _ _ _ _ (by decide), cut_hi _ _ _ _ (by decide), cut_lo _ _ _ _ (by decide)]
      exact BitVec.extractLsb'_eq_self
    | 3, _ =>
      rw [cut_hi _ _ _ _ (by decide), cut_hi _ _ _ _ (by decide), cut_hi _ _ _ _ (by decide)]
      exact BitVec.extractLsb'_eq_self

theorem uniform_source (g : Group) (l : Lane) (f : BitVec 7) (h : 112 ≤ f.toNat) :
    src32 g l f = (g.usrc (f.toNat - 112)).extractLsb' 0 32 ∧ src64 g l f = g.usrc (f.toNat - 112) := by
  simp [src32, src64, namesUniform_of_ge h, extractLsb'_zero]

/-- A bit of a mask after the bit of one number was set or cleared. -/
theorem getLsbD_written {w : Nat} (m : BitVec w) (n k : Nat) (v : Bool) (hn : n < w) :
    (if v then m ||| BitVec.ofNat w (2 ^ n) else m &&& ~~~(BitVec.ofNat w (2 ^ n))).getLsbD k = if k = n then v else m.getLsbD k := by
  have hbit : (BitVec.ofNat w (2 ^ n)).getLsbD k = decide (k = n) := by
    rw [BitVec.getLsbD_ofNat, Nat.testBit_two_pow]
    by_cases h : k = n
    · subst h; simp [hn]
    · simp [h, Ne.symm h]
  generalize BitVec.ofNat w (2 ^ n) = bit at hbit
  by_cases hk : k = n
  · subst hk
    cases v
    · simp [hbit]
    · simp [hbit]
  · cases v
    · simp only [Bool.false_eq_true, if_false, BitVec.getLsbD_and, BitVec.getLsbD_not, hbit, hk, decide_false, Bool.not_false,
        Bool.and_true]
      by_cases hw : k < w
      · simp [hw]
      · simp [hw, BitVec.getLsbD_of_ge m k (by omega)]
    · simp [hbit, hk]

theorem prd_setPred (l : Lane) (pd p : BitVec 5) (v : Bool) :
    (l.setPred pd.toNat v).prd p = if p = pd ∧ pd.toNat < 24 then v else l.prd p := by
  have he : p = pd ↔ p.toNat = pd.toNat := BitVec.toNat_inj.symm
  by_cases hd : pd.toNat < 24
  · unfold Lane.setPred Lane.prd
    simp only [hd, if_true, and_true, he, getLsbD_written _ _ _ _ hd]
    by_cases hp : p.toNat = pd.toNat
    · simp [hp, hd]
    · simp [hp]
  · rw [setPred_of_ge l (by omega) v, if_neg fun h => hd h.2]

theorem setPred_keeps (l : Lane) (n : Nat) (v : Bool) : { l.setPred n v with preds := l.preds } = l := by
  unfold Lane.setPred
  split <;> rfl

theorem usrc_udst (g : Group) (n k : Nat) (v : DWord) : (g.udst n v).usrc k = if k = n then v else g.usrc k :=
  cget_cput _ _ _ _ _

theorem qrd_qwr (g : Group) (n k : Nat) (v : Bool) : (g.qwr n v).qrd k = if k = n ∧ n < 7 then v else g.qrd k := by
  by_cases hn : n < 7
  · unfold Group.qwr Group.qrd
    simp only [hn, if_true, and_true, getLsbD_written _ _ _ _ hn]
    by_cases hk : k = n
    · simp [hk, hn]
    · simp [hk]
  · simp [Group.qwr, hn]

theorem qwr_keeps (g : Group) (n : Nat) (v : Bool) : { g.qwr n v with upred := g.upred } = g := by
  unfold Group.qwr
  split <;> rfl

theorem registerWrites : RegisterWrites :=
  ⟨fun l d v n => ⟨reg_setReg l d.toNat v n, rfl⟩, fun l d v n => ⟨dst64_reg l d v n, rfl⟩,
    fun l d v n => ⟨dst128_reg l d v n, rfl⟩, fun _ _ _ => ⟨rfl, rfl, rfl⟩, lane_source, uniform_source,
    fun l pd p comb t => ⟨prd_setPred l pd p _, fun h => by simp [Lane.prd, Nat.not_lt.2 h], setPred_keeps l _ _⟩,
    fun g n k v => ⟨usrc_udst g n k v, rfl⟩, fun g n k v => ⟨qrd_qwr g n k v, rfl, qwr_keeps g n v⟩⟩

/-- Settles O20: each memory and each register file by the rule of its own table. -/
theorem writeThenRead : Obligations.WriteThenRead := ⟨memoryWrites, registerWrites⟩

end Sys2Proof.Proofs
end
section
/-! SUPPORT for the accesses of lanes: what an access does, and what it finds, does not depend on the issuing group, whose other lanes have
gone to NEXT before it or not. -/

namespace Sys2Proof.Proofs

open Sys2Proof Sys2Proof.Machine Sys2Proof.Claims Sys2Proof.Laws

/-! ### Operations that do not look at the issuing group -/

/-- The operation neither looks at the issuing group nor changes it. -/
def BlindTo (p : Path) (F : State → State) : Prop := ∀ G s, F (withGroup s p G) = withGroup (F s) p G

/-- The operation neither looks at the issuing group nor changes it, and answers the same. -/
def Blind {α : Type} (p : Path) (F : State → State × α) : Prop := ∀ G s, F (withGroup s p G) = (withGroup (F s).1 p G, (F s).2)

theorem BlindTo.foldl {β : Type} {p : Path} {f : State → β → State} (hf : ∀ x, BlindTo p fun s => f s x) (xs : List β) :
    BlindTo p fun s => xs.foldl f s := by
  intro G s
  induction xs generalizing s with
  | nil => rfl
  | cons x xs ih => exact (congrArg (fun t => xs.foldl f t) (hf x G s)).trans (ih (f s x))

/-- The same for a fold that also carries something else. -/
theorem Blind.foldl {β γ : Type} {p : Path} {f : State × γ → β → State × γ} (hf : ∀ x c, Blind p fun s => f (s, c) x) (xs : List β)
    (c : γ) : Blind p fun s => xs.foldl f (s, c) := by
  intro G s
  induction xs generalizing s c with
  | nil => rfl
  | cons x xs ih => exact (congrArg (fun t => xs.foldl f t) (hf x c G s)).trans (ih _ _)

theorem blockOf_withGroup (s : State) (p : Path) (G : Group → Group) (k : Nat) : blockOf (withGroup s p G) k =
    if k = p.iss.blk then (blockOf s k).map fun b => b.modGroup p.iss.grp G else blockOf s k :=
  blockOf_modBlock s p.iss.blk (fun b => b.modGroup p.iss.grp G) (fun _ => rfl) k

/-- What a block is but for its groups. -/
theorem blockOf_map_withGroup {α : Type} (s : State) (p : Path) (G : Group → Group) (k : Nat) (f : Block → α)
    (hf : ∀ b g, f (b.modGroup g G) = f b) : (blockOf (withGroup s p G) k).map f = (blockOf s k).map f := by
  rw [blockOf_withGroup]
  split
  · cases blockOf s k with
    | none => rfl
    | some b => exact congrArg some (hf b _)
  · rfl

/-! ### Translation and checks -/

theorem blind_tlbFill (p : Path) (draw : Nat) (e : TlbEntry) : BlindTo p fun s => tlbFill s draw e := by
  intro G s
  have hin : (withGroup s p G).tlb.contains e = s.tlb.contains e := rfl
  have hfull : tlbFull (withGroup s p G) e = tlbFull s e := rfl
  simp only [tlbFill, hin, hfull]
  split
  · rfl
  · split
    · rfl
    · split <;> rfl

theorem walkFrom_withGroup (s : State) (p : Path) (G : Group → Group) (d : Desc) (va : DWord) (ls : List (Nat × Nat × Nat))
    (tab : Nat) : walkFrom (withGroup s p G) d va ls tab = walkFrom s d va ls tab := by
  induction ls generalizing tab with
  | nil => rfl
  | cons q ls ih =>
    obtain ⟨lvl, lo, n⟩ := q
    have hp (u : PoisonUnit) : isPoisoned (withGroup s p G) u = isPoisoned s u := rfl
    have hd : (withGroup s p G).dram = s.dram := rfl
    simp only [walkFrom, ih, hp, hd]

theorem blind_translate (p : Path) (core part ctx trc : Nat) (va : DWord) (draw : Nat) :
    Blind p fun s => Machine.translate s core part ctx trc va draw := by
  intro G s
  have fill (e : TlbEntry) := BlindTo.foldl (p := p) (f := fun s u => tlbFill s draw { e with unit := u })
    (fun u => blind_tlbFill p draw { e with unit := u }) (coreTlbs core) G s
  have hhit (a : Nat) : tlbHit (withGroup s p G) (coreTlbs core) part ctx trc a = tlbHit s (coreTlbs core) part ctx trc a := rfl
  have hwalk : walk (withGroup s p G) part ctx trc va = walk s part ctx trc va := by
    have ht : trcOf (withGroup s p G) part ctx trc = trcOf s part ctx trc := rfl
    have hq : partOf (withGroup s p G) part = partOf s part := rfl
    simp only [walk, walkBy, ht, hq, walkFrom_withGroup]
  simp only [Machine.translate, translateBy, hhit, hwalk]
  split
  · rfl
  · split
    · exact Prod.ext (fill _) rfl
    · split
      · rfl
      · next b n leaf _ => exact Prod.ext (fill { unit := .die 0, part := part, ctx := ctx, trc := trc
                                                  va := va.toNat % 2 ^ 57 / n * n, size := n, pa := b, leaf := leaf }) rfl

theorem blind_globalPlace (p : Path) (w : Who) (kind : AccessKind) (va : DWord) (draw : Nat) :
    Blind p fun s => globalPlace s w kind va draw := by
  intro G s
  have h := blind_translate p w.core w.part w.ctx w.trc va draw G s
  unfold globalPlace
  dsimp only at h ⊢
  rw [h]
  generalize Machine.translate s w.core w.part w.ctx w.trc va draw = r
  obtain ⟨t, _ | ⟨pa, leaf⟩⟩ := r
  · rfl
  · have hleaf : leafCheck (withGroup t p G) w.part w.level1 kind va pa leaf = leafCheck t w.part w.level1 kind va pa leaf := rfl
    have hphys : physCheck (withGroup t p G) w.part pa va kind = physCheck t w.part pa va kind := rfl
    simp only [hleaf, hphys]
    split
    · rfl
    · split <;> rfl

theorem localPlace_withGroup (s : State) (p : Path) (G : Group → Group) (b : Block) (grp lane space : Nat) (kind : AccessKind)
    (off n : Nat) : localPlace (withGroup s p G) b grp lane space kind off n = localPlace s b grp lane space kind off n := rfl

theorem placePoisoned_withGroup (s : State) (p : Path) (G : Group → Group) (pl : Place) (n : Nat) :
    placePoisoned (withGroup s p G) pl n = placePoisoned s pl n := rfl

theorem blind_checkRange (p : Path) (b : Block) (grp lane : Nat) (kind : AccessKind) (t : Target) (n : Nat) :
    Blind p fun s => checkRange s b grp lane kind t n := by
  intro G s
  unfold checkRange
  dsimp only
  split
  · rfl
  · cases t with
    | global va => exact blind_globalPlace p (whoOf s b) kind va (drawOf s lane 512) G s
    | loc sp off => rfl

theorem blind_checkAccess (p : Path) (b : Block) (grp lane : Nat) (kind : AccessKind) (t : Target) (n : Nat) :
    Blind p fun s => checkAccess s b grp lane kind t n := by
  intro G s
  have h := blind_checkRange p b grp lane kind t n G s
  unfold checkAccess
  dsimp only at h ⊢
  rw [h]
  generalize checkRange s b grp lane kind t n = r
  obtain ⟨u, _ | pl⟩ := r
  · rfl
  · have hpp : placePoisoned (withGroup u p G) pl n = placePoisoned u pl n := rfl
    dsimp only
    rw [hpp]
    split <;> rfl

/-! ### Reads -/

theorem blind_poolTouch (p : Path) (core a n draw : Nat) : BlindTo p fun s => poolTouch s core a n draw := by
  intro G s
  have hl (t : State) : poolLease (withGroup t p G) core (a / 64) = poolLease t core (a / 64) := rfl
  have hd := BlindTo.foldl (p := p) (f := fun s k => dropStale s (a + k)) (fun _ _ _ => rfl)
    ((List.range n).filter fun k => !((poolLease s core (a / 64)).any fun l => (cfind l.stale (a + k)).isSome)) G s
  simp only [poolTouch, hl] at hd ⊢
  rw [hd]
  generalize ((List.range n).filter _).foldl (fun s k => dropStale s (a + k)) s = t
  have hm : (withGroup t p G).poolLines = t.poolLines := rfl
  cases (poolLease s core (a / 64)).isSome
  · by_cases hcore : Config.cores ≤ core
    · simp only [hcore, decide_true, Bool.or_true, if_true, Bool.false_or, hm]
      cases (cfind t.poolLines (a / 64)).isSome <;> rfl
    · simp only [hcore, decide_false, Bool.or_false, Bool.false_eq_true, if_false, Bool.false_or, hm]
      cases (cfind t.poolLines (a / 64)).isSome <;> rfl
  · rfl

theorem blind_touchPlace (p : Path) (core draw : Nat) (pl : Place) (n : Nat) : BlindTo p fun s => touchPlace s core draw pl n := by
  intro G s
  cases pl with
  | phys pa =>
    unfold touchPlace
    dsimp only
    split
    · exact blind_poolTouch p core (pa % 2 ^ 44) n draw G s
    · rfl
  | _ => rfl

/-- The place lies in memory that is no lane's own. -/
def Common : Place → Prop
  | .priv _ _ _ _ | .window _ _ _ _ => False
  | _ => True

theorem common_shift {pl : Place} (h : Common pl) (k : Nat) : Common (pl.shift k) := by cases pl <;> exact h

theorem common_place (sp : FeSpace) (o : Nat) : Common (sp.place o) := by cases sp <;> trivial

theorem byte_common {pl : Place} (h : Common pl) (s : State) (p : Path) (G : Group → Group) (core draw : Nat) :
    pl.byte (withGroup s p G) core draw = pl.byte s core draw := by
  cases pl with
  | scr b o =>
    have hb := blockOf_map_withGroup s p G b Block.scratch fun _ _ => rfl
    have hs : shadeByte (withGroup s p G) (.scr b) o = shadeByte s (.scr b) o := rfl
    unfold Place.byte
    dsimp only
    rw [hs]
    cases hn : blockOf (withGroup s p G) b <;> cases ho : blockOf s b <;> simp_all
  | priv => exact h.elim
  | window => exact h.elim
  | _ => rfl

theorem readPlace_common {pl : Place} (h : Common pl) (s : State) (p : Path) (G : Group → Group) (core draw n : Nat) :
    readPlace (withGroup s p G) core draw pl n = readPlace s core draw pl n :=
  List.map_congr_left fun k _ => byte_common (common_shift h k) s p G core (draw + k)

theorem unitLives_withGroup (s : State) (p : Path) (G : Group → Group) (sp : FeSpace) :
    unitLives (withGroup s p G) sp = unitLives s sp := by
  cases sp with
  | scr b =>
    have hb := congrArg Option.isSome (blockOf_map_withGroup s p G b (fun _ => ()) fun _ _ => rfl)
    simp only [Option.isSome_map] at hb
    exact congrArg (· || (shadeOf s (.scr b)).isSome) hb
  | csh c => rfl
  | dsp => rfl

theorem blind_globalParts (p : Path) (c : Cmd) (kind : AccessKind) (va : DWord) (rs : List (Nat × Nat)) :
    Blind p fun s => globalParts s c kind va rs := by
  intro G s
  induction rs generalizing s with
  | nil => rfl
  | cons q rs ih =>
    obtain ⟨o, n⟩ := q
    have h := blind_globalPlace p c.who kind (va + BitVec.ofNat 64 o) (drawOf s 200 o) G s
    have hdraw : drawOf (withGroup s p G) 200 o = drawOf s 200 o := rfl
    simp only [globalParts, hdraw] at h ih ⊢
    rw [h]
    generalize globalPlace s c.who kind (va + BitVec.ofNat 64 o) (drawOf s 200 o) = r
    obtain ⟨t, _ | pl⟩ := r
    · rfl
    · cases pl with
      | phys pa =>
        have k := ih t
        have hpage : hitPage (withGroup t p G) c (va + BitVec.ofNat 64 o) = hitPage t c (va + BitVec.ofNat 64 o) := rfl
        dsimp only at k ⊢
        rw [k, hpage]
        generalize globalParts t c kind va rs = r
        obtain ⟨u, _ | ps⟩ := r <;> rfl
      | _ => rfl

theorem blind_engineRead (p : Path) (c : Cmd) (a : EngAddr) (n : Nat) : Blind p fun s => engineRead s c a n := by
  intro G s
  have hdraw (i k : Nat) : drawOf (withGroup s p G) i k = drawOf s i k := rfl
  cases a with
  | global va =>
    have h := blind_globalParts p c .read va (segments va.toNat n) G s
    simp only [engineRead, hdraw] at h ⊢
    rw [h]
    generalize globalParts s c .read va (segments va.toNat n) = r
    obtain ⟨t, _ | ps⟩ := r
    · rfl
    · generalize drawOf s 201 0 = draw
      generalize Config.cores = core
      have ht := BlindTo.foldl (p := p)
        (f := fun s (q : Nat × Nat × Nat × (Nat × Nat)) => touchPlace s core (draw + 900) (.phys q.1) q.2.2.1)
        (fun q => blind_touchPlace p core (draw + 900) (.phys q.1) q.2.2.1) ps G t
      exact congrArg (fun u => (u, Except.ok (ps.flatMap fun q => readPlace u core (draw + q.2.1) (.phys q.1) q.2.2.1,
        ps.any fun q => placePoisoned u (.phys q.1) q.2.2.1))) ht
  | loc sp o =>
    simp only [engineRead, hdraw, unitLives_withGroup, readPlace_common (common_place sp o), placePoisoned_withGroup]
    split <;> rfl
  | tile h o =>
    have ht : tileOf (withGroup s p G) c.part c.ctx h = tileOf s c.part c.ctx h := rfl
    simp only [engineRead, hdraw, ht]
    split
    · next t _ => simp only [readPlace_common (common_place t.space (t.base + o)), placePoisoned_withGroup]
    · rfl

theorem blind_pieceSrc (p : Path) (c : Cmd) (o : Nat) : Blind p fun s => pieceSrc s c o := by
  intro G s
  unfold pieceSrc
  dsimp only
  split
  case h_3 base len pitch blk idx wide _ =>
    have h := blind_engineRead p c (indexPlace o len blk idx wide).1 (indexPlace o len blk idx wide).2 G s
    dsimp only at h ⊢
    rw [h]
    generalize engineRead s c (indexPlace o len blk idx wide).1 (indexPlace o len blk idx wide).2 = r
    obtain ⟨t, _ | _⟩ := r <;> rfl
  all_goals rfl

theorem blind_readSource (p : Path) (c : Cmd) (o n : Nat) : Blind p fun s => readSource s c o n := by
  intro G s
  have h := blind_pieceSrc p c o G s
  unfold readSource
  dsimp only at h ⊢
  rw [h]
  generalize pieceSrc s c o = r
  obtain ⟨t, _ | ⟨a, bad⟩⟩ := r
  · rfl
  · have k := blind_engineRead p c a n G t
    dsimp only at k ⊢
    rw [k]
    generalize engineRead t c a n = r
    obtain ⟨u, _ | _⟩ := r <;> rfl

theorem blind_earlier (p : Path) (o : Nat) (c : Cmd) : Blind p fun s => earlier (s, c) o := by
  intro G s
  have h := blind_readSource p c o 1 G s
  unfold earlier
  dsimp only at h ⊢
  split
  · rfl
  · rw [h]
    generalize readSource s c o 1 = r
    obtain ⟨t, _ | ⟨_ | ⟨b, _ | ⟨b', bs⟩⟩, bad⟩⟩ := r <;> rfl

theorem blind_readAhead (p : Path) (cmd o : Nat) : BlindTo p fun s => readAhead cmd s o := by
  intro G s
  have hc : (withGroup s p G).cmds = s.cmds := rfl
  unfold readAhead
  dsimp only
  rw [hc]
  split
  · rfl
  · next c _ =>
    have h := blind_earlier p o c G s
    dsimp only at h ⊢
    rw [h]
    rfl

theorem blind_rowsAhead (p : Path) (ra : Nat) (mine : BfqRow → Bool) (rows : List BfqRow) :
    Blind p fun s => rowsAhead ra mine s rows := by
  refine Blind.foldl (fun r c G s => ?_) rows []
  dsimp only
  split
  · have h := Blind.foldl (p := p) (f := earlier) (fun o c => blind_earlier p o c) (List.range ra) (r.source (.global r.res)) G s
    unfold rowAhead
    dsimp only at h ⊢
    rw [h]
  · rfl

theorem blind_bindingAhead (p : Path) (mine : BfqRow → Bool) (unit : Nat) : BlindTo p fun s => bindingAhead mine s unit := by
  intro G s
  have hb : (withGroup s p G).bfqs = s.bfqs := rfl
  unfold bindingAhead
  dsimp only
  rw [hb]
  split
  · rfl
  · next q _ =>
    have hh := blind_rowsAhead p q.ra mine q.held G s
    have hp := Blind.foldl (p := p) (f := fun (a : State × List BfqPair) r =>
      if r.closed then (a.1, a.2 ++ [r])
      else
        let w := rowsAhead q.ra mine a.1 r.rows
        (w.1, a.2 ++ [{ r with rows := w.2 }])) (fun r c G s => by
          have h := blind_rowsAhead p q.ra mine r.rows G s
          dsimp only at h ⊢
          rw [h]
          split <;> rfl) q.pairs [] G (rowsAhead q.ra mine s q.held).1
    dsimp only at hh hp ⊢
    rw [hh, hp]
    rfl

/-- What the thread's commands read before its access. -/
theorem blind_sealSources (p : Path) (blk : Nat) (tids : List (BitVec 16)) : BlindTo p fun s => sealSources s blk tids := by
  intro G s
  have hc := BlindTo.foldl (p := p) (f := fun s (c : Cmd) => c.unread.foldl (readAhead c.id) s)
    (fun c => .foldl (fun o => blind_readAhead p c.id o) c.unread)
    (s.cmds.filter fun c => c.blk = blk && !c.fault && tids.any c.tids.contains) G s
  have hcmds : (withGroup s p G).cmds = s.cmds := rfl
  unfold sealSources
  dsimp only at hc ⊢
  rw [hcmds, hc]
  generalize (s.cmds.filter _).foldl (fun s (c : Cmd) => c.unread.foldl (readAhead c.id) s) s = t
  exact BlindTo.foldl (fun unit => blind_bindingAhead p _ unit) _ G t

/-! ### Writes -/

theorem blind_coverPlace (p : Path) (pl : Place) (n : Nat) : BlindTo p fun s => coverPlace s pl n :=
  BlindTo.foldl (f := fun s k => coverPoison s (pl.shift k).unit.1 (pl.shift k).unit.2 1) (fun _ _ _ => rfl) (List.range n)

end Sys2Proof.Proofs
end
section
/-! SUPPORT. A lane instruction on memory takes its lanes one after another (`laneFold`). What it leaves, when its lanes act on themselves
alone, and when one lane of it executes: an access, or a trap. -/

namespace Sys2Proof.Proofs

open Sys2Proof Sys2Proof.Machine Sys2Proof.Claims Sys2Proof.Laws

/-! ### The lanes that have had their turn -/

/-- The group once some lanes of the path have had their turn: executing lane `m` is `k m` of itself at NEXT. -/
def turned (p : Path) (x : LExt) (k : Nat → Lane → Lane) (done : List Nat) (g : Group) : Group :=
  { g with lanes := g.lanes.mapIdx fun m l => if m ∈ done then
      (if guardHolds x (p.g.lane m) then k m (goTo l p.iss.next) else goTo l p.iss.next) else l }

theorem turned_nil (p : Path) (x : LExt) (k : Nat → Lane → Lane) : turned p x k [] = fun g => g := by
  funext g
  refine congrArg (fun ls => { g with lanes := ls }) (List.mapIdx_eq_iff.2 fun m => ?_)
  simp

theorem withGroup_self (s : State) (p : Path) : withGroup s p (fun g => g) = s := modGroup_self s p.iss.blk p.iss.grp

theorem modLane_withGroup (s : State) (p : Path) (G : Group → Group) (n : Nat) (f : Lane → Lane) :
    modLane (withGroup s p G) p.iss.blk p.iss.grp n f = withGroup s p fun g => (G g).modLane n f :=
  modGroup_comp s p.iss.blk p.iss.grp G fun g => g.modLane n f

/-- One more lane has its turn. -/
theorem turned_append (p : Path) (x : LExt) (k : Nat → Lane → Lane) (done : List Nat) {n : Nat} (hn : n ∉ done) (g : Group) :
    turned p x k (done ++ [n]) g = (turned p x k done g).modLane n fun l =>
      if guardHolds x (p.g.lane n) then k n (goTo l p.iss.next) else goTo l p.iss.next := by
  refine congrArg (fun ls => { g with lanes := ls }) (List.ext_getElem? fun m => ?_)
  simp only [turned, List.getElem?_modify, List.getElem?_mapIdx]
  by_cases hm : n = m
  · subst hm; cases g.lanes[n]? <;> simp [hn]
  · cases g.lanes[m]? <;> simp [hm, Ne.symm hm]

/-- All lanes of the path have had their turn. -/
theorem turned_all (p : Path) (x : LExt) (k : Nat → Lane → Lane) {done : List Nat} (h : ∀ n, n ∈ done ↔ n ∈ p.lanes) :
    turned p x k done = withLanes p fun n l =>
      if guardHolds x (p.g.lane n) then k n (goTo l p.iss.next) else goTo l p.iss.next := by
  funext g
  simp only [turned, withLanes, h]

/-! ### The order of the turns -/

theorem mem_accessOrder (order lanes : List Nat) (n : Nat) : n ∈ accessOrder order lanes ↔ n ∈ lanes := by
  unfold accessOrder
  simp only [List.mem_append, List.mem_eraseDups, List.mem_filter, List.contains_eq_mem, decide_eq_true_eq, Bool.not_eq_true',
    decide_eq_false_iff_not]
  constructor
  · rintro (h | h)
    · exact h.2
    · exact h.1
  · intro h
    by_cases ho : n ∈ order
    · exact .inl ⟨ho, h⟩
    · exact .inr ⟨h, fun c => ho c.1⟩

theorem nodup_lanes (p : Path) : p.lanes.Nodup := ((List.nodup_range).filter _).filter _

theorem nodup_eraseDups (ls : List Nat) : ls.eraseDups.Nodup := by
  match ls with
  | [] => exact List.nodup_nil
  | a :: as =>
    rw [List.eraseDups_cons]
    exact List.nodup_cons.2 ⟨fun h => by simp at h, nodup_eraseDups _⟩
termination_by ls.length
decreasing_by exact Nat.lt_succ_of_le (List.length_filter_le _ _)

theorem nodup_accessOrder (order : List Nat) {lanes : List Nat} (h : lanes.Nodup) : (accessOrder order lanes).Nodup := by
  unfold accessOrder
  refine List.nodup_append.2 ⟨nodup_eraseDups _, h.filter _, fun a ha b hb e => ?_⟩
  subst e
  simp only [List.mem_filter, List.contains_eq_mem, Bool.not_eq_true', decide_eq_false_iff_not] at hb
  exact hb.2 ha

/-! ### Folding the turns -/

section
variable {p : Path} {i : Instr} {x : LExt} {f : Path → Nat → State → State × Option NoAccess}

/-- A lane whose guard does not hold goes to NEXT. -/
theorem laneTurn_idle {n : Nat} (hg : guardHolds x (p.g.lane n) = false) (t : State) (k : Nat → Lane → Lane) {done : List Nat}
    (hn : n ∉ done) (es : List (Nat × NoAccess)) : laneTurn p i x f (withGroup t p (turned p x k done), es) n =
      (withGroup t p (turned p x k (done ++ [n])), es) := by
  have ht : turned p x k (done ++ [n]) = fun g => (turned p x k done g).modLane n fun l => l.advance p.iss.next := by
    funext g
    rw [turned_append p x k done hn g]
    simp only [hg, Bool.false_eq_true, if_false]
    rfl
  unfold laneTurn
  simp only [hg, Bool.not_false, if_true, modLane_withGroup, ht]

/-- Lanes whose guards do not hold go to NEXT. -/
theorem foldl_idle (t : State) (k : Nat → Lane → Lane) (es : List (Nat × NoAccess)) (ls done : List Nat) (hnd : (done ++ ls).Nodup)
    (hg : ∀ n ∈ ls, guardHolds x (p.g.lane n) = false) :
    ls.foldl (laneTurn p i x f) (withGroup t p (turned p x k done), es) = (withGroup t p (turned p x k (done ++ ls)), es) := by
  induction ls generalizing done with
  | nil => simp
  | cons n ls ih =>
    have hn : n ∉ done := fun h => (List.nodup_append.1 hnd).2.2 n h n List.mem_cons_self rfl
    rw [List.foldl_cons, laneTurn_idle (hg n List.mem_cons_self) t k hn es,
      ih (done ++ [n]) (by simpa using hnd) fun m hm => hg m (List.mem_cons_of_mem _ hm)]
    simp

/-- One lane executes: every other one goes to NEXT, before it or after. -/
theorem foldl_one {s u : State} {n : Nat} (hexec : p.exec x = [n]) (k : Nat → Lane → Lane) (es : List (Nat × NoAccess))
    (hturn : ∀ done, n ∉ done → (∀ m ∈ done, guardHolds x (p.g.lane m) = false) →
      laneTurn p i x f (withGroup s p (turned p x k done), []) n = (withGroup u p (turned p x k (done ++ [n])), es))
    (order : List Nat) :
    (accessOrder order p.lanes).foldl (laneTurn p i x f) (s, []) = (memNext u p x k, es) := by
  have hn : n ∈ p.exec x := by simp [hexec]
  have hmem : n ∈ accessOrder order p.lanes := (mem_accessOrder _ _ _).2 (List.mem_of_mem_filter hn)
  have hnd := nodup_accessOrder order (nodup_lanes p)
  have hall := mem_accessOrder order p.lanes
  obtain ⟨before, rest, hsplit⟩ := List.append_of_mem hmem
  rw [hsplit] at hnd hall ⊢
  have hidle : ∀ m ∈ before ++ rest, guardHolds x (p.g.lane m) = false := by
    intro m hm
    have hne : m ≠ n := by
      rintro rfl
      simp only [List.nodup_append, List.nodup_cons, List.mem_append, List.mem_cons] at hnd hm
      rcases hm with hm | hm
      · exact hnd.2.2 m hm m (.inl rfl) rfl
      · exact hnd.2.1.1 hm
    have hlane : m ∈ p.lanes := (hall m).1 (by simp only [List.mem_append, List.mem_cons] at hm ⊢; tauto)
    by_contra hg
    have : m ∈ p.exec x := List.mem_filter.2 ⟨hlane, by simpa using hg⟩
    rw [hexec] at this
    exact hne (List.mem_singleton.1 this)
  have hnb : n ∉ before := fun h => (List.nodup_append.1 hnd).2.2 n h n List.mem_cons_self rfl
  have hstart : (s, ([] : List (Nat × NoAccess))) = (withGroup s p (turned p x k []), []) := by rw [turned_nil, withGroup_self]
  rw [List.foldl_append, List.foldl_cons, hstart,
    foldl_idle s k [] before [] (by simpa using (List.nodup_append.1 hnd).1) fun m hm => hidle m (by simp [hm]), List.nil_append,
    hturn before hnb (fun m hm => hidle m (by simp [hm])), foldl_idle u k es rest (before ++ [n]) (by simpa using hnd) fun m hm => hidle m (by simp [hm]),
    List.append_assoc, List.singleton_append, turned_all p x k hall]
  rfl

/-- Every executing lane acts on itself alone. -/
theorem foldl_own {s : State} (k : Nat → Lane → Lane)
    (hturn : ∀ n ∈ p.exec x, ∀ done, n ∉ done → laneTurn p i x f (withGroup s p (turned p x k done), []) n =
      (withGroup s p (turned p x k (done ++ [n])), [])) (order : List Nat) :
    (accessOrder order p.lanes).foldl (laneTurn p i x f) (s, []) = (memNext s p x k, []) := by
  have fold : ∀ (ls done : List Nat), (∀ n ∈ ls, n ∈ p.lanes) → (done ++ ls).Nodup →
      ls.foldl (laneTurn p i x f) (withGroup s p (turned p x k done), []) = (withGroup s p (turned p x k (done ++ ls)), []) := by
    intro ls
    induction ls with
    | nil => intro done _ _; simp
    | cons n ls ih =>
      intro done hls hnd
      have hn : n ∉ done := fun h => (List.nodup_append.1 hnd).2.2 n h n List.mem_cons_self rfl
      have ht : laneTurn p i x f (withGroup s p (turned p x k done), []) n = (withGroup s p (turned p x k (done ++ [n])), []) := by
        by_cases hg : guardHolds x (p.g.lane n) = true
        · exact hturn n (List.mem_filter.2 ⟨hls n List.mem_cons_self, hg⟩) done hn
        · exact laneTurn_idle (by simpa using hg) s k hn []
      rw [List.foldl_cons, ht, ih (done ++ [n]) (fun m hm => hls m (List.mem_cons_of_mem _ hm)) (by simpa using hnd)]
      simp
  have hall := mem_accessOrder order p.lanes
  have := fold (accessOrder order p.lanes) [] (fun n hn => (hall n).1 hn) (by simpa using nodup_accessOrder order (nodup_lanes p))
  rw [turned_nil, withGroup_self, List.nil_append, turned_all p x k hall] at this
  exact this

/-! ### The turn of an executing lane -/

/-- The turn of an executing lane that passes the checks and raises nothing. -/
theorem laneTurn_runs {s t : State} {n : Nat} (h : Runs s p i x) (hn : n ∈ p.exec x) {es : List (Nat × NoAccess)} {G : Group → Group}
    (hf : f p n (withGroup s p fun g => (G g).modLane n fun l => l.advance p.iss.next) = (t, none)) :
    laneTurn p i x f (withGroup s p G, es) n = (unpoison t p i [n], es) := by
  obtain ⟨hlane, hg⟩ := List.mem_filter.1 hn
  have hc : laneCheck (withGroup s p G) p i x n = none := check_none h hlane hg
  unfold laneTurn
  simp only [hg, Bool.not_true, Bool.false_eq_true, if_false, hc, modLane_withGroup, hf]

/-- The turn of an executing lane that passes the checks and raises something. -/
theorem laneTurn_stops {s t : State} {n : Nat} (h : Runs s p i x) (hn : n ∈ p.exec x) {es : List (Nat × NoAccess)} {G : Group → Group}
    {e : NoAccess} (hf : f p n (withGroup s p fun g => (G g).modLane n fun l => l.advance p.iss.next) = (t, some e)) :
    laneTurn p i x f (withGroup s p G, es) n = (modLane t p.iss.blk p.iss.grp n fun l =>
      { l with npc := p.iss.pc, hold := .none, seen := (p.g.lane n).seen, once := (p.g.lane n).once && !dispatches i }, (n, e) :: es) := by
  obtain ⟨hlane, hg⟩ := List.mem_filter.1 hn
  have hc : laneCheck (withGroup s p G) p i x n = none := check_none h hlane hg
  unfold laneTurn
  simp only [hg, Bool.not_true, Bool.false_eq_true, if_false, hc, modLane_withGroup, hf]

end

/-! ### The end of the instruction -/

theorem trapsOf_nil : trapsOf [] = [] := List.filterMap_eq_nil_iff.2 fun _ _ => rfl

theorem endTurns_nil (p : Path) (s : State) : endTurns p (s, []) = s := by
  show raiseLanes s p (trapsOf []) = s
  rw [trapsOf_nil]
  exact trapLanes_nil _ _ _ _

/-- THE NEXT STATE OF A LANE INSTRUCTION ON MEMORY whose lanes act on themselves alone and raise nothing. -/
theorem laneFold_own {s : State} {p : Path} {i : Instr} {x : LExt} {f : Path → Nat → State → State × Option NoAccess}
    (h : Runs s p i x) (k : Nat → Lane → Lane)
    (hturn : ∀ n ∈ p.exec x, ∀ done, n ∉ done → laneTurn p i x f (withGroup s p (turned p x k done), []) n =
      (withGroup s p (turned p x k (done ++ [n])), [])) :
    laneFold i x f (fun _ s => s) s = .next (memNext s p x k) := by
  unfold laneFold
  rw [h.path]
  simp only [foldl_own k hturn, ite_self]
  exact congrArg Host.Outcome.next (endTurns_nil p _)

end Sys2Proof.Proofs
end
section
/-! PROOF of O15 (R224 to R229): branches act on their lanes through `laneTrap`; calls and returns take their lanes one after another, and
each lane reads and writes its own slice alone. -/

namespace Sys2Proof.Proofs

open Sys2Proof Sys2Proof.Machine Sys2Proof.Claims Sys2Proof.Laws

/-! ### The issuing group -/

/-- The issuing path's block and group, as the state holds them. -/
structure PathGroup (s : State) (p : Path) (g : Group) : Prop where
  block : blockOf s p.iss.blk = some p.b
  group : p.b.group p.iss.grp = some g
  lanes : p.g.lanes = g.lanes
  stop : p.g.stop = g.stop

theorem pathGroup_of_pathOf {s : State} {p : Path} (h : pathOf s = some p) : ∃ g, PathGroup s p g := by
  unfold pathOf at h
  obtain ⟨b, hb, hp⟩ := Option.bind_eq_some_iff.1 h
  obtain ⟨g, hg, rfl⟩ := Option.map_eq_some_iff.1 hp
  refine ⟨g, hb, hg, ?_, ?_⟩ <;> · unfold Group.asRead; dsimp only; split <;> rfl

theorem PathGroup.groupOf_eq {s : State} {p : Path} {g : Group} (h : PathGroup s p g) : groupOf s p.iss.blk p.iss.grp = some g := by
  unfold groupOf
  rw [h.block]
  exact h.group

theorem PathGroup.lane_eq {s : State} {p : Path} {g : Group} (h : PathGroup s p g) (n : Nat) : p.g.lane n = g.lane n := by
  simp only [Group.lane, h.lanes]

theorem groupOf_withGroup {s : State} {p : Path} {g : Group} (h : PathGroup s p g) (G : Group → Group) :
    groupOf (withGroup s p G) p.iss.blk p.iss.grp = some (G g) := by
  have := groupOf_modGroup s p.iss.blk p.iss.grp G p.iss.blk p.iss.grp
  rw [if_pos ⟨rfl, rfl⟩, h.groupOf_eq] at this
  exact this

/-! ### Targets -/

theorem dispTarget_eq {n : Nat} (p : Path) (disp : BitVec n) : dispTarget p disp.toNat n = dispAddr p disp := by
  unfold dispTarget dispAddr
  rw [sext_toNat]
  rfl

theorem branchTaken_eq (l : Lane) (c : BitVec 5) (neg : BitVec 1) : branchTaken l c neg = (l.prd c != (neg == 1)) := by
  have h : ∀ (v : Bool) (neg : BitVec 1), xor v (decide (neg = 1)) = (v != (neg == 1)) := by decide
  exact h (l.prd c) neg

theorem targetOk_withGroup (s : State) (p : Path) (G : Group → Group) (b : Block) (t : Nat) :
    targetOk (withGroup s p G) b t = targetOk s b t := rfl

theorem bodyStart_withGroup (s : State) (p : Path) (G : Group → Group) (b : Block) :
    bodyStart (withGroup s p G) b = bodyStart s b := rfl

theorem directTrap_of_ok {s : State} {p : Path} {t : DWord} (h : targetOk s p.b (t - bodyStart s p.b).toNat = true) :
    directTrap s p t = none := if_pos h

theorem jumpResults : JumpResults := by
  constructor
  · intro c neg disp x s p hruns hok
    have hexec : exec (.br c neg disp x) s = laneTrap (.br c neg disp x) x (fun q _ l m =>
        let t := dispTarget q disp.toNat 19
        match directTrap s q t with
        | some e => (l, some e)
        | none => (if branchTaken l c neg then { m with npc := t } else m, none)) s := rfl
    have hlane (n : Nat) (l m : Lane) : (match directTrap s p (dispTarget p disp.toNat 19) with
        | some e => (l, some e)
        | none => (if branchTaken l c neg then { m with npc := dispTarget p disp.toNat 19 } else m, none)) =
        ((if l.prd c != (neg == 1) then { m with npc := dispAddr p disp } else m, none) : LaneEnd) := by
      rw [dispTarget_eq, directTrap_of_ok hok, branchTaken_eq]
    rw [hexec, laneTrap_next hruns _ fun n _ => congrArg Prod.snd (hlane n _ _)]
    exact congrArg Host.Outcome.next (laneNext_congr fun n _ => congrArg Prod.fst (hlane n _ _))
  · intro a x s p hruns hok
    have hexec : exec (.brxJmp a x) s = laneTrap (.brxJmp a x) x (fun q _ l m =>
        let t := src32 q.g l a
        if targetOk s q.b t.toNat then ({ m with npc := bodyStart s q.b + t.setWidth 64 }, none)
        else (l, some (targetTrap s q.b t))) s := rfl
    rw [hexec, laneTrap_next hruns _ fun n hn => congrArg Prod.snd (if_pos (hok n hn))]
    exact congrArg Host.Outcome.next (laneNext_congr fun n hn => congrArg Prod.fst (if_pos (hok n hn)))

/-! ### A lane that acts on itself -/

/-- An instruction that writes no register whole changes no poison. -/
theorem unpoison_none (s : State) (p : Path) {i : Instr} (h : writtenRegs i = []) (ls : List Nat) : unpoison s p i ls = s := by
  have hf : (s.poison.filter fun u => match u.1 with
      | .reg b g l n => !(b = p.iss.blk && g = p.iss.grp && ls.contains l && (writtenRegs i).contains n)
      | _ => true) = s.poison := by
    refine List.filter_eq_self.2 fun u _ => ?_
    cases u.1 with
    | reg b g l n => simp [h]
    | _ => rfl
  exact congrArg (fun q => { s with poison := q }) hf

/-- The slice of a lane that has not had its turn is as it was. -/
theorem priv_turned (p : Path) (x : LExt) (k : Nat → Lane → Lane) {done : List Nat} {n : Nat} (hn : n ∉ done) (g : Group) (pc : DWord) :
    (((turned p x k done g).modLane n fun l => l.advance pc).lane n).priv = (g.lane n).priv := by
  simp only [Group.lane, Group.modLane, turned, List.getElem?_modify, List.getElem?_mapIdx]
  cases g.lanes[n]? <;> simp [hn, Lane.advance]

/-- The turn of a lane that acts on itself. -/
theorem laneTurn_own {s : State} {p : Path} {i : Instr} {x : LExt} {f : Path → Nat → State → State × Option NoAccess}
    {k : Nat → Lane → Lane} {n : Nat} (h : Runs s p i x) (hn : n ∈ p.exec x) (hw : writtenRegs i = [])
    (hf : ∀ G : Group → Group, (∀ g, ((G g).lane n).priv = (g.lane n).priv) →
      f p n (withGroup s p G) = (modLane (withGroup s p G) p.iss.blk p.iss.grp n (k n), none)) (done : List Nat) (hd : n ∉ done) :
    laneTurn p i x f (withGroup s p (turned p x k done), []) n = (withGroup s p (turned p x k (done ++ [n])), []) := by
  have hg := (List.mem_filter.1 hn).2
  rw [laneTurn_runs h hn (hf _ fun g => priv_turned p x k hd g p.iss.next), unpoison_none _ p hw, modLane_withGroup]
  refine congrArg (fun G => (withGroup s p G, ([] : List (Nat × NoAccess)))) (funext fun g => ?_)
  rw [turned_append p x k done hd g]
  simp only [hg, if_true]
  exact congrArg (fun ls => { g with lanes := ls }) (List.modify_modify_eq _ _ n _)

/-! ### Slices without poison -/

theorem coverPlace_slice {s : State} {p : Path} (h : slicesClean s p) (n off k : Nat) :
    coverPlace s (.priv p.iss.blk p.iss.grp n off) k = s := by
  unfold coverPlace
  induction List.range k with
  | nil => rfl
  | cons j js ih =>
    have hc : coverPoison s ((Place.priv p.iss.blk p.iss.grp n off).shift j).unit.1
        ((Place.priv p.iss.blk p.iss.grp n off).shift j).unit.2 1 = s := by
      refine congrArg (fun q => { s with poison := q }) ((List.filterMap_congr fun u hu => ?_).trans List.filterMap_some)
      exact if_neg (h u hu n ((off + j) / 16))
    rw [List.foldl_cons, hc, ih]

theorem slicesClean_modLane {s : State} {p : Path} (h : slicesClean s p) (G : Group → Group) (n : Nat) (f : Lane → Lane) :
    slicesClean (modLane (withGroup s p G) p.iss.blk p.iss.grp n f) p := h

/-- A push onto a slice that has room. -/
theorem pushLane_eq {s : State} {p : Path} (h : slicesClean s p) {n : Nat} (hroom : 4 * ((p.g.lane n).cd + 1) ≤ p.b.privBytes)
    (t : DWord) (G : Group → Group) : pushLane t p n (withGroup s p G) =
      (modLane (withGroup s p G) p.iss.blk p.iss.grp n fun l => pushed s p n l (bodyStart s p.b + t), none) := by
  have hd : ¬ p.b.privBytes / 4 < (p.g.lane n).cd + 1 := by omega
  have hv : (p.iss.next - bodyStart s p.b).toNat % 2 ^ 32 = ((p.iss.next - bodyStart s p.b).setWidth 32).toNat := by simp
  unfold pushLane
  simp only [hd, if_false, bodyStart_withGroup, hv]
  have hstore (v : Nat) : storeAt (withGroup s p G) p.b
      (.priv p.iss.blk p.iss.grp n (p.b.privBytes - 4 * ((p.g.lane n).cd + 1))) 4 v =
      modLane (withGroup s p G) p.iss.blk p.iss.grp n fun l =>
        { l with priv := mputs l.priv (p.b.privBytes - 4 * ((p.g.lane n).cd + 1)) (leBytes 4 v) } := by
    show coverPlace (putBytes _ _ _) _ 4 = _
    rw [putBytes_priv]
    exact coverPlace_slice (slicesClean_modLane h G n _) n _ 4
  rw [hstore]
  exact congrArg (fun u => (u, none)) (modLane_comp (withGroup s p G) p.iss.blk p.iss.grp n _ _)

theorem callResults : CallResults := by
  constructor
  · intro c neg disp x s p hruns hclean hok hroom
    refine laneFold_own hruns (fun n l => if (p.g.lane n).prd c != (neg == 1) then pushed s p n l (dispAddr p disp) else l)
      fun n hn done hd => laneTurn_own hruns hn rfl (fun G _ => ?_) done hd
    have hb : bodyStart s p.b + (dispAddr p disp - bodyStart s p.b) = dispAddr p disp := by
      rw [BitVec.add_comm, BitVec.sub_add_cancel]
    have hdt : directTrap (withGroup s p G) p (dispAddr p disp) = none := directTrap_of_ok hok
    simp only [dispTarget_eq, hdt, branchTaken_eq, bodyStart_withGroup]
    by_cases ht : ((p.g.lane n).prd c != (neg == 1)) = true
    · simp only [ht, if_true]
      rw [pushLane_eq hclean (hroom n hn), hb]
    · simp only [ht, Bool.false_eq_true, if_false]
      rw [modLane_self]
  · intro a x s p hruns hclean hok
    refine laneFold_own hruns (fun n l => pushed s p n l (bodyStart s p.b + (src32 p.g (p.g.lane n) a).setWidth 64))
      fun n hn done hd => laneTurn_own hruns hn rfl (fun G _ => ?_) done hd
    obtain ⟨htarget, hroom⟩ := hok n hn
    simp only [targetOk_withGroup, htarget, if_true]
    exact pushLane_eq hclean hroom _ G

/-! ### Returns -/

/-- The number that bytes hold, the lowest first. -/
theorem leNat_eq_sum (f : Nat → Byte) (k : Nat) : leNat ((List.range k).map f) = ((List.range k).map fun j => (f j).toNat * 256 ^ j).sum := by
  induction k generalizing f with
  | zero => rfl
  | succ k ih =>
    rw [List.range_succ_eq_map, List.map_cons, List.map_map, List.map_cons, List.map_map, List.sum_cons, leNat]
    have hs := ih (f ∘ Nat.succ)
    rw [hs, ← List.sum_map_mul_left]
    simp only [Function.comp, Nat.pow_zero, Nat.mul_one]
    congr 2
    refine List.map_congr_left fun j _ => ?_
    show 256 * ((f (j + 1)).toNat * 256 ^ j) = (f (j + 1)).toNat * 256 ^ (j + 1)
    ring

theorem not_poisoned_slice {s : State} {p : Path} (h : slicesClean s p) (n off k : Nat) :
    placePoisoned s (.priv p.iss.blk p.iss.grp n off) k = false := by
  refine List.any_eq_false.2 fun j _ => ?_
  simp only [isPoisoned, List.any_eq_true, decide_eq_true_eq, not_exists, not_and]
  exact fun u hu => h u hu n ((off + j) / 16)

/-- The return offset, read from the slice of a lane that has not had its turn. -/
theorem readPlace_topReturn {s : State} {p : Path} {g : Group} (h : PathGroup s p g) {n : Nat} {G : Group → Group}
    (hG : ∀ g, ((G g).lane n).priv = (g.lane n).priv) (core : Nat) :
    leNat (readPlace (withGroup s p G) core 0 (.priv p.iss.blk p.iss.grp n (p.b.privBytes - 4 * (p.g.lane n).cd)) 4) = topReturn p n := by
  unfold readPlace topReturn
  rw [← leNat_eq_sum]
  refine congrArg leNat (List.map_congr_left fun j _ => ?_)
  simp only [Place.shift, Place.byte, groupOf_withGroup h G, hG g, h.lane_eq]

theorem returnResults : ReturnResults := by
  intro x s p hruns hclean hok
  obtain ⟨g, hpg⟩ := pathGroup_of_pathOf hruns.path
  refine laneFold_own hruns (fun n l => { l with cd := l.cd - 1, npc := bodyStart s p.b + BitVec.ofNat 64 (topReturn p n) })
    fun n hn done hd => laneTurn_own hruns hn rfl (fun G hG => ?_) done hd
  obtain ⟨hdepth, htarget⟩ := hok n hn
  have hclean' : placePoisoned (withGroup s p G) (.priv p.iss.blk p.iss.grp n (p.b.privBytes - 4 * (p.g.lane n).cd)) 4 = false :=
    not_poisoned_slice (s := withGroup s p G) hclean n _ 4
  unfold popLane
  simp only [Nat.ne_of_gt hdepth, if_false, hclean', Bool.false_eq_true, readPlace_topReturn hpg hG, targetOk_withGroup, htarget,
    if_true, bodyStart_withGroup]
  rfl

/-- Settles O15: branches by the next state of `laneTrap`, calls and returns lane by lane. -/
theorem branchResults : Obligations.BranchResults := ⟨jumpResults, callResults, returnResults⟩

end Sys2Proof.Proofs
end
section
/-! SUPPORT. One lane's access, made while the other lanes of its path stand at their instruction or at NEXT: what it reads and what it
writes are the same, and the lanes' places in the program stay apart from the memories. -/

namespace Sys2Proof.Proofs

open Sys2Proof Sys2Proof.Machine Sys2Proof.Claims Sys2Proof.Laws

/-! ### Changes of lanes that leave their memories alone -/

/-- Each lane of the group changed. -/
def eachLane (c : Nat → Lane → Lane) (g : Group) : Group := { g with lanes := g.lanes.mapIdx c }

/-- The change does not look at the lane's slice and registers, and keeps them. -/
structure LaneWise (c : Nat → Lane → Lane) : Prop where
  priv : ∀ m l v, c m { l with priv := v } = { c m l with priv := v }
  regs : ∀ m l v, c m { l with regs := v } = { c m l with regs := v }

theorem LaneWise.keeps_priv {c : Nat → Lane → Lane} (h : LaneWise c) (m : Nat) (l : Lane) : (c m l).priv = l.priv := by
  have e := congrArg Lane.priv (h.priv m l l.priv)
  exact e

theorem LaneWise.keeps_regs {c : Nat → Lane → Lane} (h : LaneWise c) (m : Nat) (l : Lane) : (c m l).regs = l.regs := by
  have e := congrArg Lane.regs (h.regs m l l.regs)
  exact e

/-- The lanes of a list at NEXT. -/
def toNext (p : Path) (ls : List Nat) (m : Nat) (l : Lane) : Lane := if m ∈ ls then goTo l p.iss.next else l

theorem laneWise_toNext (p : Path) (ls : List Nat) : LaneWise (toNext p ls) := by
  constructor <;> · intro m l v; unfold toNext; split <;> rfl

theorem lane_eachLane (g : Group) (c : Nat → Lane → Lane) (m : Nat) :
    (eachLane c g).lane m = if m < g.lanes.length then c m (g.lane m) else {} := by
  unfold eachLane Group.lane
  rw [List.getElem?_mapIdx]
  by_cases h : m < g.lanes.length
  · simp [h]
  · simp [h]

theorem lane_out {g : Group} {m : Nat} (h : ¬ m < g.lanes.length) : g.lane m = {} := by
  simp [Group.lane, List.getElem?_eq_none (Nat.not_lt.1 h)]

theorem priv_eachLane {c : Nat → Lane → Lane} (h : LaneWise c) (g : Group) (m : Nat) :
    ((eachLane c g).lane m).priv = (g.lane m).priv := by
  rw [lane_eachLane]
  split
  · exact h.keeps_priv m _
  · next hm => rw [lane_out hm]

theorem regs_eachLane {c : Nat → Lane → Lane} (h : LaneWise c) (g : Group) (m : Nat) :
    ((eachLane c g).lane m).regs = (g.lane m).regs := by
  rw [lane_eachLane]
  split
  · exact h.keeps_regs m _
  · next hm => rw [lane_out hm]

/-! ### Reads -/

/-- A change of the group that keeps its lanes' slices and registers. -/
structure KeepsLanes (G : Group → Group) : Prop where
  priv : ∀ g m, ((G g).lane m).priv = (g.lane m).priv
  regs : ∀ g m, ((G g).lane m).regs = (g.lane m).regs

theorem keepsLanes_eachLane {c : Nat → Lane → Lane} (h : LaneWise c) : KeepsLanes (eachLane c) := ⟨priv_eachLane h, regs_eachLane h⟩

/-- What a lane of some group shows, after the issuing group changed. -/
theorem groupOf_keeps {G : Group → Group} (s : State) (p : Path) (b g : Nat) :
    groupOf (withGroup s p G) b g = groupOf s b g ∨ groupOf (withGroup s p G) b g = (groupOf s b g).map G := by
  have h := groupOf_modGroup s p.iss.blk p.iss.grp G b g
  by_cases hc : b = p.iss.blk ∧ g = p.iss.grp
  · exact .inr (h.trans (if_pos hc))
  · exact .inl (h.trans (if_neg hc))

/-- A byte reads as before. -/
theorem byte_keeps {G : Group → Group} (h : KeepsLanes G) (s : State) (p : Path) (pl : Place) (core draw : Nat) :
    pl.byte (withGroup s p G) core draw = pl.byte s core draw := by
  cases pl with
  | priv b g l o =>
    unfold Place.byte
    dsimp only
    rcases groupOf_keeps s p b g with e | e
    · rw [e]
    · rw [e]
      cases groupOf s b g with
      | none => rfl
      | some gr => simp only [Option.map_some, h.priv]
  | window b g n o =>
    unfold Place.byte
    dsimp only
    rcases groupOf_keeps s p b g with e | e
    · rw [e]
    · rw [e]
      cases groupOf s b g with
      | none => rfl
      | some gr => simp only [Option.map_some, Lane.reg, h.regs]
  | _ => exact byte_common (by trivial) s p G core draw

theorem readPlace_keeps {G : Group → Group} (h : KeepsLanes G) (s : State) (p : Path) (pl : Place) (core draw n : Nat) :
    readPlace (withGroup s p G) core draw pl n = readPlace s core draw pl n :=
  List.map_congr_left fun k _ => byte_keeps h s p (pl.shift k) core (draw + k)

/-- What a load finds. -/
theorem loadAt_keeps {G : Group → Group} (h : KeepsLanes G) (s : State) (p : Path) (n : Nat) (pl : Place) (k : Nat) :
    loadAt (withGroup s p G) p.b n pl k =
      (withGroup (touchPlace s p.b.core (drawOf s n 900) pl k) p G, valueAt s p n pl k) := by
  refine Prod.ext (blind_touchPlace p p.b.core (drawOf s n 900) pl k G s) ?_
  show leNat (readPlace (withGroup s p G) p.b.core (drawOf s n 0) pl k) = valueAt s p n pl k
  rw [readPlace_keeps h]
  exact leNat_eq_sum (fun j => (pl.shift j).byte s p.b.core (drawOf s n 0 + j)) k

/-! ### Writes -/

theorem blind_physWrite (p : Path) (pa : Nat) (v : Byte) : BlindTo p fun s => physWrite s pa v := by
  intro G s
  unfold physWrite
  dsimp only
  split
  · rfl
  · show (if s.poolDead = true then _ else _) = _
    by_cases h : s.poolDead = true
    · simp only [h, if_true]
    · simp only [h, Bool.false_eq_true, if_false]; rfl
  · rfl
  · rfl

theorem blind_physEach (p : Path) (pa : Nat) (bs : List Byte) : BlindTo p fun s => physEach s pa bs := by
  intro G s
  induction bs generalizing s pa with
  | nil => rfl
  | cons b bs ih => exact (congrArg (fun t => physEach t (pa + 1) bs) (blind_physWrite p pa b G s)).trans (ih (pa + 1) _)

theorem blind_physWrites (p : Path) (pa : Nat) (bs : List Byte) : BlindTo p fun s => physWrites s pa bs := by
  intro G s
  unfold physWrites
  dsimp only
  split
  · rfl
  · exact blind_physEach p pa bs G s

/-- Changes of blocks that can be made in either order. -/
theorem modBlock_comm (s : State) (j k : Nat) (f h : Block → Block) (hf : ∀ b, (f b).id = b.id) (hh : ∀ b, (h b).id = b.id)
    (hc : ∀ b, f (h b) = h (f b)) : modBlock (modBlock s j f) k h = modBlock (modBlock s k h) j f := by
  refine congrArg (fun bs => { s with blocks := bs }) ((List.map_map.trans ?_).trans List.map_map.symm)
  refine List.map_congr_left fun b _ => ?_
  by_cases e : b.id = j <;> by_cases e' : b.id = k <;> simp [e, e', hf, hh, hc] <;> simp_all

theorem modLane_eachLane (s : State) (p : Path) (b g m : Nat) (f : Lane → Lane) {c : Nat → Lane → Lane}
    (hc : ∀ k l, f (c k l) = c k (f l)) :
    modLane (withGroup s p (eachLane c)) b g m f = withGroup (modLane s b g m f) p (eachLane c) := by
  refine (modBlock_comm s p.iss.blk b (fun x => x.modGroup p.iss.grp (eachLane c)) (fun x => x.modGroup g fun gr => gr.modLane m f)
    (fun _ => rfl) (fun _ => rfl) fun x => ?_)
  refine congrArg (fun gs => { x with groups := gs }) (List.ext_getElem? fun i => ?_)
  have hl (gr : Group) : eachLane c (gr.modLane m f) = (eachLane c gr).modLane m f := by
    refine congrArg (fun ls => { gr with lanes := ls }) (List.ext_getElem? fun i => ?_)
    simp only [eachLane, Group.modLane, List.getElem?_mapIdx, List.getElem?_modify]
    cases gr.lanes[i]? with
    | none => rfl
    | some l => by_cases e : m = i <;> simp [e, hc]
  simp only [Block.modGroup, List.getElem?_modify]
  cases x.groups[i]? with
  | none => rfl
  | some gr => by_cases e : p.iss.grp = i <;> by_cases e' : g = i <;> simp [e, e', hl]

theorem put_eachLane {c : Nat → Lane → Lane} (h : LaneWise c) (s : State) (p : Path) (pl : Place) (v : Byte) :
    pl.put (withGroup s p (eachLane c)) v = withGroup (pl.put s v) p (eachLane c) := by
  cases pl with
  | phys pa => exact blind_physWrite p pa v (eachLane c) s
  | priv b g l o =>
    refine modLane_eachLane s p b g l (fun x => { x with priv := mput x.priv o v }) fun k l => ?_
    rw [h.keeps_priv]
    exact (h.priv k l _).symm
  | scr b o =>
    exact congrArg (fun t => modShade t (.scr b) fun h => { h with mem := mput h.mem o v })
      (modBlock_comm s p.iss.blk b (fun x => x.modGroup p.iss.grp (eachLane c)) (fun x => { x with scratch := mput x.scratch o v })
        (fun _ => rfl) (fun _ => rfl) fun _ => rfl)
  | csh k o => rfl
  | dsp a => rfl
  | window b g n o =>
    refine modLane_eachLane s p b g (o / 4) (fun x => x.setReg n (wordByte (x.reg n) (o % 4) v)) fun k l => ?_
    simp only [Lane.setReg, Lane.reg, h.keeps_regs]
    exact (h.regs k l _).symm

theorem putBytes_eachLane {c : Nat → Lane → Lane} (h : LaneWise c) (s : State) (p : Path) (pl : Place) (bs : List Byte) :
    putBytes (withGroup s p (eachLane c)) pl bs = withGroup (putBytes s pl bs) p (eachLane c) := by
  induction bs generalizing s pl with
  | nil => rfl
  | cons b bs ih => rw [putBytes, put_eachLane h, ih]; rfl

/-- Bytes are written as before. -/
theorem writePlace_eachLane {c : Nat → Lane → Lane} (h : LaneWise c) (s : State) (p : Path) (pl : Place) (bs : List Byte) :
    writePlace (withGroup s p (eachLane c)) pl bs = withGroup (writePlace s pl bs) p (eachLane c) := by
  cases pl with
  | phys pa => exact blind_physWrites p pa bs (eachLane c) s
  | _ => exact putBytes_eachLane h s p _ bs

/-- A store that is not lost. -/
theorem storeAt_eachLane {c : Nat → Lane → Lane} (h : LaneWise c) (s : State) (p : Path) (b : Block) (pl : Place) (k v : Nat)
    (hl : storeLost s b.part pl = false) : storeAt (withGroup s p (eachLane c)) b pl k v =
      withGroup (coverPlace (writePlace s pl (leBytes k v)) pl k) p (eachLane c) := by
  have hl' : storeLost (withGroup s p (eachLane c)) b.part pl = false := by rw [← hl]; cases pl <;> rfl
  unfold storeAt
  simp only [hl', Bool.false_eq_true, if_false]
  rw [writePlace_eachLane h]
  exact blind_coverPlace p pl k (eachLane c) _

/-! ### The one executing lane -/

/-- The lanes that have been taken before lane `n`, and lane `n`, at NEXT. -/
theorem turned_idle (p : Path) (x : LExt) (k : Nat → Lane → Lane) {done : List Nat} {n : Nat} (hn : n ∉ done)
    (hd : ∀ m ∈ done, guardHolds x (p.g.lane m) = false) :
    (fun g => (turned p x k done g).modLane n fun l => l.advance p.iss.next) = eachLane (toNext p (done ++ [n])) := by
  funext g
  refine congrArg (fun ls => { g with lanes := ls }) (List.ext_getElem? fun m => ?_)
  simp only [turned, List.getElem?_modify, List.getElem?_mapIdx]
  cases g.lanes[m]? with
  | none => rfl
  | some l =>
    by_cases hm : n = m
    · subst hm; simp [toNext, hn, Lane.advance, goTo]
    · by_cases hmd : m ∈ done
      · simp [toNext, hm, hmd, hd m hmd]
      · simp [toNext, hm, Ne.symm hm, hmd]

section
variable {s : State} {p : Path} {i : Instr} {x : LExt} {f : Path → Nat → State → State × Option NoAccess} {n : Nat}

/-- Its change, after all at NEXT, is its turn. -/
theorem modLane_toNext (u : State) (p : Path) (x : LExt) (k : Nat → Lane → Lane) {done : List Nat} (hn : n ∉ done)
    (hd : ∀ m ∈ done, guardHolds x (p.g.lane m) = false) (hg : guardHolds x (p.g.lane n) = true) :
    modLane (withGroup u p (eachLane (toNext p (done ++ [n])))) p.iss.blk p.iss.grp n (k n) =
      withGroup u p (turned p x k (done ++ [n])) := by
  rw [modLane_withGroup, ← turned_idle p x k hn hd]
  refine congrArg (withGroup u p) (funext fun g => ?_)
  rw [turned_append p x k done hn g]
  simp only [hg, if_true]
  exact congrArg (fun ls => { g with lanes := ls }) (List.modify_modify_eq _ _ n _)

/-- THE NEXT STATE OF A LANE INSTRUCTION ON MEMORY of which one lane executes and raises nothing. -/
theorem laneFold_access {v : State} (h : Runs s p i x) (hexec : p.exec x = [n]) (k : Lane → Lane) (fin : Path → State → State)
    (hf : ∀ ls, n ∈ ls → f p n (withGroup s p (eachLane (toNext p ls))) =
      (modLane (withGroup v p (eachLane (toNext p ls))) p.iss.blk p.iss.grp n k, none)) :
    laneFold i x f fin s = .next (fin p (memNext (unpoison v p i [n]) p x fun _ => k)) := by
  have hn : n ∈ p.exec x := by simp [hexec]
  have hturn (done : List Nat) (hnd : n ∉ done) (hd : ∀ m ∈ done, guardHolds x (p.g.lane m) = false) :
      laneTurn p i x f (withGroup s p (turned p x (fun _ => k) done), []) n =
        (withGroup (unpoison v p i [n]) p (turned p x (fun _ => k) (done ++ [n])), []) := by
    rw [laneTurn_runs h hn ((congrArg (fun G => f p n (withGroup s p G)) (turned_idle p x (fun _ => k) hnd hd)).trans
      (hf _ (by simp))), modLane_toNext v p x (fun _ => k) hnd hd (List.mem_filter.1 hn).2]
    rfl
  unfold laneFold
  rw [h.path]
  simp only [foldl_one hexec (fun _ => k) [] hturn, hexec]
  exact congrArg Host.Outcome.next (endTurns_nil p _)

/-- A lane that raises something as it is again, but for what its effect did. -/
def laneBack (p : Path) (i : Instr) (n : Nat) (l : Lane) : Lane :=
  { l with npc := p.iss.pc, hold := .none, seen := (p.g.lane n).seen, once := (p.g.lane n).once && !dispatches i }

/-- THE NEXT STATE OF A LANE INSTRUCTION ON MEMORY of which one lane executes and traps. -/
theorem laneFold_trap {v : State} (h : Runs s p i x) (hexec : p.exec x = [n]) (k : Lane → Lane) (fin : Path → State → State) (t : Trap)
    (hf : ∀ ls, n ∈ ls → f p n (withGroup s p (eachLane (toNext p ls))) =
      (modLane (withGroup v p (eachLane (toNext p ls))) p.iss.blk p.iss.grp n k, some (.trap t))) :
    laneFold i x f fin s = .next (raiseLanes (memNext v p x fun _ l => laneBack p i n (k l)) p [(n, t)]) := by
  have hn : n ∈ p.exec x := by simp [hexec]
  have hturn (done : List Nat) (hnd : n ∉ done) (hd : ∀ m ∈ done, guardHolds x (p.g.lane m) = false) :
      laneTurn p i x f (withGroup s p (turned p x (fun _ l => laneBack p i n (k l)) done), []) n =
        (withGroup v p (turned p x (fun _ l => laneBack p i n (k l)) (done ++ [n])), [(n, .trap t)]) := by
    rw [laneTurn_stops h hn ((congrArg (fun G => f p n (withGroup s p G)) (turned_idle p x _ hnd hd)).trans (hf _ (by simp))),
      ← modLane_toNext v p x (fun _ l => laneBack p i n (k l)) hnd hd (List.mem_filter.1 hn).2]
    exact congrArg (fun u => (u, [(n, NoAccess.trap t)])) (modLane_comp _ _ _ n k (laneBack p i n))
  have hlt : n < 32 := lt_of_mem_lanes (List.mem_filter.1 hn).1
  have htraps : trapsOf [(n, .trap t)] = [(n, t)] := by
    unfold trapsOf
    interval_cases n <;> rfl
  unfold laneFold
  rw [h.path]
  simp only [foldl_one hexec (fun _ l => laneBack p i n (k l)) _ hturn, hexec]
  have hdid : ([n].any fun m => !([(n, NoAccess.trap t)].any fun e => e.1 = m)) = false := by simp
  simp only [hdid]
  exact congrArg (fun ts => Host.Outcome.next (raiseLanes (memNext v p x fun _ l => laneBack p i n (k l)) p ts)) htraps

end

end Sys2Proof.Proofs
end
section
/-! PROOF of O18 and O19 (R254, R256): loads and stores of one executing lane. -/

namespace Sys2Proof.Proofs

open Sys2Proof Sys2Proof.Machine Sys2Proof.Claims Sys2Proof.Laws

/-! ### What an access is checked with -/

theorem onlyRead_checkRange (s : State) (b : Block) (grp lane : Nat) (kind : AccessKind) (t : Target) (n : Nat) :
    OnlyRead s (checkRange s b grp lane kind t n).1 := by
  unfold checkRange
  split
  · exact .refl s
  · cases t with
    | global va => exact onlyRead_globalPlace s (whoOf s b) kind va (drawOf s lane 512)
    | loc sp off => exact .refl s

theorem onlyRead_checkAccess (s : State) (b : Block) (grp lane : Nat) (kind : AccessKind) (t : Target) (n : Nat) :
    OnlyRead s (checkAccess s b grp lane kind t n).1 := by
  have h := onlyRead_checkRange s b grp lane kind t n
  unfold checkAccess
  generalize checkRange s b grp lane kind t n = r at h
  obtain ⟨u, _ | pl⟩ := r
  · exact h
  · dsimp only
    split <;> exact h

/-- The draws of a step go by its tick, which no read changes. -/
theorem drawOf_onlyRead {s t : State} (h : OnlyRead s t) (lane k : Nat) : drawOf t lane k = drawOf s lane k := by
  unfold OnlyRead at h
  rw [h]
  rfl

/-- What the checks and the thread's commands change before the access. -/
theorem onlyRead_sealed {s s1 : State} {p : Path} {grp lane : Nat} {kind : AccessKind} {tg : Target} {k : Nat} {pl : Place}
    (h : checkAccess s p.b grp lane kind tg k = (s1, .ok pl)) (n : Nat) : OnlyRead s (sealed s1 p n) := by
  have hr := onlyRead_checkAccess s p.b grp lane kind tg k
  rw [h] at hr
  exact hr.trans (onlyRead_sealSources s1 p.iss.blk [(p.g.lane n).tid])

theorem checkAccess_eachLane {s s1 : State} {p : Path} {grp lane : Nat} {kind : AccessKind} {tg : Target} {k : Nat} {pl : Place}
    (h : checkAccess s p.b grp lane kind tg k = (s1, .ok pl)) (G : Group → Group) :
    checkAccess (withGroup s p G) p.b grp lane kind tg k = (withGroup s1 p G, .ok pl) := by
  have hb := blind_checkAccess p p.b grp lane kind tg k G s
  dsimp only at hb
  rw [hb, h]

theorem sealSources_withGroup (s : State) (p : Path) (n : Nat) (G : Group → Group) :
    sealSources (withGroup s p G) p.iss.blk [(p.g.lane n).tid] = withGroup (sealed s p n) p G :=
  blind_sealSources p p.iss.blk [(p.g.lane n).tid] G s

/-! ### Places of local accesses -/

/-- A local access is checked in the state as it is, and its place is no physical address. -/
theorem checkAccess_local {s s1 : State} {b : Block} {grp lane : Nat} {kind : AccessKind} {sp off k : Nat} {pl : Place}
    (h : checkAccess s b grp lane kind (.loc sp off) k = (s1, .ok pl)) : s1 = s ∧ ∀ pa, pl ≠ .phys pa := by
  have hplace : localPlace s b grp lane sp kind off k = .ok pl ∧ s1 = s := by
    unfold checkAccess checkRange at h
    by_cases ha : (Target.loc sp off).addr.toNat % k ≠ 0
    · simp [ha] at h
    · simp only [ha, if_false] at h
      cases hl : localPlace s b grp lane sp kind off k with
      | error e => rw [hl] at h; simp at h
      | ok q =>
        rw [hl] at h
        dsimp only at h
        split at h
        · simp at h
        · simp only [Prod.mk.injEq, Except.ok.injEq] at h
          exact ⟨congrArg _ h.2, h.1.symm⟩
  refine ⟨hplace.2, fun pa e => ?_⟩
  subst e
  have hp := hplace.1
  unfold localPlace at hp
  split at hp
  · split at hp <;> simp at hp
  · split at hp
    · split at hp <;> simp at hp
    · split at hp
      · next q hq =>
        split at hp
        · simp at hp
        · simp only [Except.ok.injEq] at hp
          subst hp
          unfold windowPlace at hq
          dsimp only at hq
          split at hq
          · split at hq <;> simp at hq
          · simp at hq
      · simp at hp
  · split at hp
    · split at hp <;> simp at hp
    · simp at hp
  · split at hp <;> simp at hp

theorem touchPlace_local {pl : Place} (h : ∀ pa, pl ≠ .phys pa) (s : State) (core draw n : Nat) : touchPlace s core draw pl n = s := by
  cases pl with
  | phys pa => exact absurd rfl (h pa)
  | _ => rfl

theorem sysNoted_local {pl : Place} (h : ∀ pa, pl ≠ .phys pa) (s : State) (p : Path) : sysNoted s p pl = s := by
  have hc : pl.sysClass = false := by
    cases pl with
    | phys pa => exact absurd rfl (h pa)
    | _ => rfl
  have hm : (fun g : Group => { g with loads := sysMark pl g.loads }) = fun g => g := by
    funext g
    simp only [sysMark, hc, Bool.false_eq_true, false_and, if_false]
  unfold sysNoted
  rw [hm, withGroup_self]

/-! ### Sizes -/

theorem sizeBytes_eq {size : BitVec 3} (h : size.toNat ≠ 7) : sizeBytes size = accessBytes size := by
  revert size; decide

theorem regBits_eq {size : BitVec 3} (h : size.toNat ≠ 7) : max 32 (8 * accessBytes size) = regBits (accessBytes size) := by
  revert size; decide

theorem toNat_signExtend_ofNat (w v : Nat) : ((BitVec.ofNat w v).signExtend 32).toNat = (toW (sext v w)).toNat := by
  have hs : (BitVec.ofNat w v).toInt = sext v w := by
    rw [← sext_toNat, BitVec.toNat_ofNat]
    unfold sext
    rw [Nat.mod_mod]
  unfold toW
  rw [← hs]
  rfl

theorem loadValue_eq {size : BitVec 3} (h : size.toNat ≠ 7) (v : Nat) : loadValue size v = loaded size v := by
  have hcases : ∀ size : BitVec 3, size.toNat ≠ 7 → size = 0 ∨ size = 1 ∨ size = 2 ∨ size = 3 ∨ size = 4 ∨ size = 5 ∨ size = 6 := by
    decide
  rcases hcases size h with rfl | rfl | rfl | rfl | rfl | rfl | rfl
  · rfl
  · rfl
  · rfl
  · rfl
  · rfl
  · exact (toNat_signExtend_ofNat 8 v).symm
  · exact (toNat_signExtend_ofNat 16 v).symm

theorem lmGlobal_eq (x : LExt) (p : Path) (l : Lane) (a : BitVec 7) (off : BitVec 6) {size : BitVec 3} (h : size.toNat ≠ 7) :
    lmGlobal x p.g l a off (sizeBytes size) = globalAt x p l a off size := by
  unfold lmGlobal globalAt
  rw [immS_eq_simm, sizeBytes_eq h]
  rfl

theorem lmLocal_eq (x : LExt) (p : Path) (l : Lane) (a : BitVec 7) (off : BitVec 6) (hs : BitVec 2) {size : BitVec 3}
    (h : size.toNat ≠ 7) : lmLocal x p.g l a off (sizeBytes size) hs = localAt x p l a off hs size := by
  unfold lmLocal localAt
  rw [immS_eq_simm, sizeBytes_eq h]
  rfl

/-! ### Counting -/

theorem noteSys_eq (pl : Place) (c : CountList) : c.noteSys pl = sysMark pl c := by
  unfold CountList.noteSys sysMark
  by_cases h : pl.sysClass = true ∧ c.issued ∉ c.sys
  · rw [if_pos h, if_pos (by simp [h.1, h.2])]
  · rw [if_neg h, if_neg (by simpa using h)]

theorem countAccess_eq (s : State) (p : Path) (x : LExt) (store : Bool) :
    countAccess s p store (lanesMask (p.exec x)) = counted store s p x := by
  cases store <;> rfl

/-- The registers that one lane writes whole. -/
theorem unpoison_one (s : State) (p : Path) (i : Instr) (n : Nat) : unpoison s p i [n] = cleaned s p i n := by
  refine congrArg (fun f => { s with poison := s.poison.filter f }) (funext fun u => ?_)
  cases u.1 with
  | reg b g l r =>
    have e (a c : Nat) : decide (a = c) = (a == c) := (beq_eq_decide a c).symm
    simp [e]
  | _ => rfl

/-- A list of the issuing group marked after one of its lanes changed. -/
theorem noteSys_modLane (s : State) (p : Path) (c : Nat → Lane → Lane) (n : Nat) (f : Lane → Lane) (pl : Place) :
    noteSys (modLane (withGroup s p (eachLane c)) p.iss.blk p.iss.grp n f) p false pl =
      modLane (withGroup (sysNoted s p pl) p (eachLane c)) p.iss.blk p.iss.grp n f := by
  unfold noteSys sysNoted pathGroup
  rw [modLane_withGroup, modGroup_eq, withGroup_comp, withGroup_comp, modLane_withGroup]
  refine congrArg (withGroup s p) (funext fun g => ?_)
  simp only [Function.comp, Bool.false_eq_true, if_false, noteSys_eq]
  rfl

/-- Marks, and the order in which the parts of a load's next state are written down. -/
theorem memNext_sysNoted (s : State) (p : Path) (x : LExt) (i : Instr) (n : Nat) (k : Nat → Lane → Lane) (pl : Place) :
    memNext (unpoison (sysNoted s p pl) p i [n]) p x k = sysNoted (cleaned (memNext s p x k) p i n) p pl := by
  have hcomm : memNext (sysNoted s p pl) p x k = sysNoted (memNext s p x k) p pl := by
    unfold memNext sysNoted
    rw [withGroup_comp, withGroup_comp]
    rfl
  rw [unpoison_one]
  exact congrArg (fun t => cleaned t p i n) hcomm

/-! ### Loads -/

/-- The effect of a load of the one executing lane. -/
theorem loadLane_eq {s s1 : State} {p : Path} {n : Nat} {d : BitVec 7} {size : BitVec 3} {t : Group → Lane → Target} {pl : Place}
    (hsize : size.toNat ≠ 7) (h : checkAccess s p.b p.iss.grp n .read (t p.g (p.g.lane n)) (accessBytes size) = (s1, .ok pl))
    {c : Nat → Lane → Lane} (hc : LaneWise c) : loadLane d size t p n (withGroup s p (eachLane c)) =
      (modLane (withGroup (sysNoted (touchPlace (sealed s1 p n) p.b.core (drawOf s n 900) pl (accessBytes size)) p pl) p (eachLane c))
        p.iss.blk p.iss.grp n fun l => l.dstBits d (regBits (accessBytes size))
          (loaded size (valueAt (sealed s1 p n) p n pl (accessBytes size))), none) := by
  unfold loadLane
  simp only [sizeBytes_eq hsize, checkAccess_eachLane h, sealSources_withGroup, loadAt_keeps (keepsLanes_eachLane hc),
    regBits_eq hsize, loadValue_eq hsize, setLane, noteSys_modLane, drawOf_onlyRead (onlyRead_sealed h n)]

/-- Settles O18: the access is blind to where the path's lanes stand, and the load is one turn. -/
theorem loadResults : Obligations.LoadResults := by
  intro d a size hs off x s p n s1 pl hsize hexec
  have step (i : Instr) (t : Group → Lane → Target) (hruns : Runs s p i x)
      (h : checkAccess s p.b p.iss.grp n .read (t p.g (p.g.lane n)) (accessBytes size) = (s1, .ok pl)) :
      laneFold i x (loadLane d size t) (countLoad x) s =
        .next (counted false (sysNoted (cleaned (memNext (touchPlace (sealed s1 p n) p.b.core (drawOf s n 900) pl (accessBytes size)) p x
          fun _ l => l.dstBits d (regBits (accessBytes size)) (loaded size (valueAt (sealed s1 p n) p n pl (accessBytes size)))) p i n)
            p pl) p x) := by
    rw [laneFold_access hruns hexec _ (countLoad x) fun ls _ => loadLane_eq hsize h (laneWise_toNext p ls), memNext_sysNoted]
    exact congrArg Host.Outcome.next (countAccess_eq _ p x false)
  refine ⟨fun hruns h => ?_, fun hruns h => ?_⟩
  · exact step (.ld d a size hs off x) (fun g l => lmGlobal x g l a off (sizeBytes size)) hruns (by rw [lmGlobal_eq x p _ a off hsize]; exact h)
  · obtain ⟨rfl, hpl⟩ := checkAccess_local h
    have := step (.ldl d a size hs off x) (fun g l => lmLocal x g l a off (sizeBytes size) hs) hruns
      (by rw [lmLocal_eq x p _ a off hs hsize]; exact h)
    rw [touchPlace_local hpl, sysNoted_local hpl] at this
    exact this

/-! ### Stores -/

/-- The effect of a store of the one executing lane. -/
theorem storeLane_eq {s s1 : State} {p : Path} {n : Nat} {d : BitVec 7} {size : BitVec 3} {t : Group → Lane → Target} {pl : Place}
    (hsize : size.toNat ≠ 7) (h : checkAccess s p.b p.iss.grp n .write (t p.g (p.g.lane n)) (accessBytes size) = (s1, .ok pl))
    (hlost : storeLost s p.b.part pl = false) {c : Nat → Lane → Lane} (hc : LaneWise c) :
    storeLane d size t p n (withGroup s p (eachLane c)) =
      (withGroup (coverPlace (writePlace (sealed s1 p n) pl
        (leBytes (accessBytes size) (srcBits p.g (p.g.lane n) d (regBits (accessBytes size))))) pl (accessBytes size)) p (eachLane c), none) := by
  have hl : storeLost (sealed s1 p n) p.b.part pl = false := by
    have hr := onlyRead_sealed h n
    unfold OnlyRead at hr
    rw [hr, ← hlost]
    cases pl <;> rfl
  unfold storeLane
  simp only [sizeBytes_eq hsize, checkAccess_eachLane h, sealSources_withGroup, regBits_eq hsize,
    storeAt_eachLane hc (sealed s1 p n) p p.b pl (accessBytes size) _ hl]

/-- Settles O19: the store is one turn, and its place no other than that of the lane at its instruction. -/
theorem storeResults : Obligations.StoreResults := by
  intro d a size hs off x s p n s1 pl hle hexec k bytes
  have hsize : size.toNat ≠ 7 := by omega
  have step (i : Instr) (t : Group → Lane → Target) (hruns : Runs s p i x) (hw : writtenRegs i = [])
      (h : checkAccess s p.b p.iss.grp n .write (t p.g (p.g.lane n)) k = (s1, .ok pl)) (hlost : storeLost s p.b.part pl = false) :
      laneFold i x (storeLane d size t) (countStore x) s =
        .next (counted true (memNext (coverPlace (writePlace (sealed s1 p n) pl bytes) pl k) p x fun _ l => l) p x) := by
    rw [laneFold_access hruns hexec (fun l => l) (countStore x) fun ls _ =>
      (storeLane_eq hsize h hlost (laneWise_toNext p ls)).trans (congrArg (fun u => (u, none)) (modLane_self _ _ _ n).symm),
      unpoison_none _ p hw]
    exact congrArg Host.Outcome.next (countAccess_eq _ p x true)
  refine ⟨fun hruns h hlost => ?_, fun hruns h => ?_⟩
  · exact step (.st d a size hs off x) (fun g l => lmGlobal x g l a off (sizeBytes size)) hruns rfl
      (by rw [lmGlobal_eq x p _ a off hsize]; exact h) hlost
  · obtain ⟨rfl, hpl⟩ := checkAccess_local h
    have hlost : storeLost s1 p.b.part pl = false := by
      cases pl with
      | phys pa => exact absurd rfl (hpl pa)
      | _ => rfl
    exact step (.stl d a size hs off x) (fun g l => lmLocal x g l a off (sizeBytes size) hs) hruns rfl
      (by rw [lmLocal_eq x p _ a off hs hsize]; exact h) hlost

end Sys2Proof.Proofs
end
section
/-! PROOF of O22 (R261 to R263): the atomics of one executing lane, in DRAM or a local space. -/

namespace Sys2Proof.Proofs

open Sys2Proof Sys2Proof.Machine Sys2Proof.Claims Sys2Proof.Laws

/-- A place outside the pool and the host-visible windows. -/
def Near (pl : Place) : Prop := ∀ pa, pl = .phys pa → paClass pa = 0

/-- The state after an atomic whose new value is `v`, when it writes one. -/
def updated (s : State) (pl : Place) (w : Nat) (v : Option Nat) : State :=
  match v with
  | some x => coverPlace (writePlace s pl (leBytes w x)) pl w
  | none => s

theorem storeLost_near {pl : Place} (h : Near pl) (s : State) (part : Nat) : storeLost s part pl = false := by
  cases pl with
  | phys pa =>
    show (decide (paClass pa = 2) && hostLost (partOf s part) pa) = false
    rw [h pa rfl]
    rfl
  | _ => rfl

theorem sysMark_near {pl : Place} (h : Near pl) (c : CountList) : sysMark pl c = c := by
  have hs : pl.sysClass = false := by
    cases pl with
    | phys pa =>
      show (decide (paClass pa = 1) || decide (paClass pa = 2)) = false
      rw [h pa rfl]
      rfl
    | _ => rfl
  unfold sysMark
  simp [hs]

theorem noteSys_near {pl : Place} (h : Near pl) (s : State) (p : Path) (store : Bool) : noteSys s p store pl = s := by
  have hg : (fun g : Group => if store then { g with stores := g.stores.noteSys pl } else { g with loads := g.loads.noteSys pl }) =
      fun g => g := by
    funext g
    simp only [noteSys_eq, sysMark_near h, ite_self]
  unfold noteSys pathGroup
  rw [hg]
  exact withGroup_self s p

/-- An atomic outside the pool reads, and stores its new value, if it writes one. -/
theorem updateAt_eq {pl : Place} (h : Near pl) (s : State) (b : Block) (n w : Nat) (f : Nat → Option Nat) :
    updateAt s b n pl w f =
      (match f (leNat (readPlace s b.core (drawOf s n 0) pl w)) with
        | some x => storeAt s b pl w x
        | none => s, leNat (readPlace s b.core (drawOf s n 0) pl w)) := by
  cases pl with
  | phys pa =>
    have hp : ¬ paClass pa = 1 := by rw [h pa rfl]; decide
    simp only [updateAt, ownLine, hp, if_false]
    cases f _ <;> rfl
  | _ =>
    simp only [updateAt, ownLine]
    cases f _ <;> rfl

/-- What an atomic finds and leaves. -/
theorem updateAt_near {pl : Place} (h : Near pl) {c : Nat → Lane → Lane} (hc : LaneWise c) (s : State) (p : Path) (n w : Nat)
    (f : Nat → Option Nat) : updateAt (withGroup s p (eachLane c)) p.b n pl w f =
      (withGroup (updated s pl w (f (valueAt s p n pl w))) p (eachLane c), valueAt s p n pl w) := by
  have hread : leNat (readPlace (withGroup s p (eachLane c)) p.b.core (drawOf (withGroup s p (eachLane c)) n 0) pl w) =
      valueAt s p n pl w := congrArg Prod.snd (loadAt_keeps (keepsLanes_eachLane hc) s p n pl w)
  rw [updateAt_eq h, hread]
  cases f (valueAt s p n pl w) with
  | none => rfl
  | some x => exact congrArg (fun t => (t, valueAt s p n pl w)) (storeAt_eachLane hc s p p.b pl w x (storeLost_near h s _))

/-! ### Atomics of 32 and 64 bits -/

/-- An atomic whose new value is the model's `h` of the old one, in the terms of Table 12-4. -/
theorem atomIs_of {mk : BitVec 7 → BitVec 7 → BitVec 7 → LExt → Instr} {w : Nat} {f : Group → Lane → BitVec 7 → Nat → Option Nat}
    (h : Group → Lane → BitVec 7 → Nat → Option Nat) (hw : 8 * w = regBits w)
    (hexec : ∀ d a b x s, exec (mk d a b x) s = atom (mk d a b x) x d a w (fun g l m => h g l b m) s)
    (hf : ∀ g l b m, h g l b m = f g l b m) : AtomIs mk w f := by
  intro d a b x s p n s1 pl hruns hexec1 hca hnear _
  have hlane (ls : List Nat) : atomLane x d a w (fun g l m => h g l b m) p n (withGroup s p (eachLane (toNext p ls))) =
      (modLane (withGroup (updated (sealed s1 p n) pl w (f p.g (p.g.lane n) b (valueAt (sealed s1 p n) p n pl w))) p
        (eachLane (toNext p ls))) p.iss.blk p.iss.grp n fun l => l.dstBits d (regBits w) (valueAt (sealed s1 p n) p n pl w), none) := by
    unfold atomLane
    simp only [checkAccess_eachLane hca, sealSources_withGroup, updateAt_near hnear (laneWise_toNext p ls), noteSys_near hnear, hf, hw]
    rfl
  rw [hexec, atom, laneFold_access hruns hexec1 _ (countLoad x) fun ls _ => hlane ls, unpoison_one]
  exact congrArg Host.Outcome.next (countAccess_eq _ p x false)

theorem signed_min (u v : Word) : (if u.toInt ≤ v.toInt then u else v) = BitVec.ofInt 32 (min u.toInt v.toInt) := by
  rw [ite_toInt]
  rfl

theorem signed_max (u v : Word) : (if v.toInt ≤ u.toInt then u else v) = BitVec.ofInt 32 (max u.toInt v.toInt) := by
  rw [ite_toInt, max_comm]
  rfl

theorem unsigned_min (u v : Word) : (if u.toNat ≤ v.toNat then u else v) = BitVec.ofNat 32 (min u.toNat v.toNat) := by
  rw [ite_toNat]
  rfl

theorem unsigned_max (u v : Word) : (if v.toNat ≤ u.toNat then u else v) = BitVec.ofNat 32 (max u.toNat v.toNat) := by
  rw [ite_toNat, max_comm]
  rfl

/-- The halves of a pair of words or double words, as numbers. -/
theorem halves {w : Nat} (y : BitVec (2 * w)) : (y.extractLsb' 0 w).toNat = y.toNat % 2 ^ w ∧ (y.extractLsb' w w).toNat = y.toNat / 2 ^ w := by
  have hlt := y.isLt
  have hpow : 2 ^ (2 * w) = 2 ^ w * 2 ^ w := by rw [Nat.two_mul, Nat.pow_add]
  constructor
  · exact BitVec.extractLsb'_toNat ..
  · rw [BitVec.extractLsb'_toNat, Nat.shiftRight_eq_div_pow]
    exact Nat.mod_eq_of_lt (Nat.div_lt_of_lt_mul (hpow ▸ hlt))

/-- An atomic of one word, whose operand is a word. -/
theorem atomIs_word {mk : BitVec 7 → BitVec 7 → BitVec 7 → LExt → Instr} {f : Word → Word → Word} (h : Word → Word → Word)
    (hexec : ∀ d a b x s, exec (mk d a b x) s = atom32 (mk d a b x) x d a b h s) (hf : ∀ u v, h u v = f u v) :
    AtomIs mk 4 fun g l b m => some (f (BitVec.ofNat 32 m) (src32 g l b)).toNat :=
  atomIs_of (fun g l b m => some (h (BitVec.ofNat 32 m) (src32 g l b)).toNat) rfl hexec fun _ _ _ _ => by rw [hf]

/-- An atomic of a pair, whose operand is a pair. -/
theorem atomIs_pair {mk : BitVec 7 → BitVec 7 → BitVec 7 → LExt → Instr} (f : DWord → DWord → DWord)
    (hexec : ∀ d a b x s, exec (mk d a b x) s = atom64 (mk d a b x) x d a b f s) :
    AtomIs mk 8 fun g l b m => some (f (BitVec.ofNat 64 m) (src64 g l b)).toNat :=
  atomIs_of (fun g l b m => some (f (BitVec.ofNat 64 m) (src64 g l b)).toNat) rfl hexec fun _ _ _ _ => rfl

theorem atomCas_is : AtomIs .atomCas 4 fun g l b m =>
    if m = ((src64 g l b).extractLsb' 0 32).toNat then some ((src64 g l b).extractLsb' 32 32).toNat else none := by
  refine atomIs_of (fun g l b m =>
    let y := (src64 g l b).toNat
    if m = y % 2 ^ 32 then some (y / 2 ^ 32) else none) rfl (fun _ _ _ _ _ => rfl) fun g l b m => ?_
  obtain ⟨lo, hi⟩ := halves (w := 32) (src64 g l b)
  rw [lo, hi]

theorem atomCas64_is : AtomIs .atomCas64 8 fun _ l b m =>
    if m = ((src128 l b).extractLsb' 0 64).toNat then some ((src128 l b).extractLsb' 64 64).toNat else none := by
  refine atomIs_of (fun _ l b m =>
    let y := (src128 l b).toNat
    if m = y % 2 ^ 64 then some (y / 2 ^ 64) else none) rfl (fun _ _ _ _ _ => rfl) fun g l b m => ?_
  obtain ⟨lo, hi⟩ := halves (w := 64) (src128 l b)
  rw [lo, hi]

theorem atomResults : AtomResults := by
  refine ⟨?_, ?_, ?_, ?_, ?_, ?_, ?_, ?_, ?_, ?_, atomCas_is, ?_, ?_, atomCas64_is⟩
  · exact atomIs_word (f := fun m y => m + y) (fun m y => m + y) (fun _ _ _ _ _ => rfl) fun _ _ => rfl
  · exact atomIs_word (f := fun m y => m &&& y) (fun m y => m &&& y) (fun _ _ _ _ _ => rfl) fun _ _ => rfl
  · exact atomIs_word (f := fun m y => m ||| y) (fun m y => m ||| y) (fun _ _ _ _ _ => rfl) fun _ _ => rfl
  · exact atomIs_word (f := fun m y => m ^^^ y) (fun m y => m ^^^ y) (fun _ _ _ _ _ => rfl) fun _ _ => rfl
  · exact atomIs_word (f := fun _ y => y) (fun _ y => y) (fun _ _ _ _ _ => rfl) fun _ _ => rfl
  · exact atomIs_word (f := fun m y => BitVec.ofInt 32 (min m.toInt y.toInt)) (fun m y => if m.toInt ≤ y.toInt then m else y)
      (fun _ _ _ _ _ => rfl) signed_min
  · exact atomIs_word (f := fun m y => BitVec.ofInt 32 (max m.toInt y.toInt)) (fun m y => if y.toInt ≤ m.toInt then m else y)
      (fun _ _ _ _ _ => rfl) signed_max
  · exact atomIs_word (f := fun m y => BitVec.ofNat 32 (min m.toNat y.toNat)) (fun m y => if m.toNat ≤ y.toNat then m else y)
      (fun _ _ _ _ _ => rfl) unsigned_min
  · exact atomIs_word (f := fun m y => BitVec.ofNat 32 (max m.toNat y.toNat)) (fun m y => if y.toNat ≤ m.toNat then m else y)
      (fun _ _ _ _ _ => rfl) unsigned_max
  · exact atomIs_word (f := fun m y => BitVec.ofNat 32
      (f32.round rne false false ((f32.decode false m.toNat).add false (f32.decode false y.toNat))))
      (fun m y => BitVec.ofNat 32 (addF32 m.toNat y.toNat)) (fun _ _ _ _ _ => rfl) fun _ _ => rfl
  · exact atomIs_pair (fun m y => m + y) fun _ _ _ _ _ => rfl
  · exact atomIs_pair (fun _ y => y) fun _ _ _ _ _ => rfl

/-! ### Fixed-point atomics -/

theorem fixed_sum (m : Nat) (y : BitVec 128) : (m + y.toNat) % 2 ^ 128 = (BitVec.ofNat 128 m + y).toNat := by
  rw [BitVec.toNat_add, BitVec.toNat_ofNat, Nat.mod_add_mod]

/-- The fixed-point sum that the model stores. -/
theorem updated_fixed (s : State) (pl : Place) (m : Nat) (y : BitVec 128) : updated s pl 16 (some ((m + y.toNat) % 2 ^ 128)) =
    coverPlace (writePlace s pl (leBytes 16 (BitVec.ofNat 128 m + y).toNat)) pl 16 := by
  rw [fixed_sum]
  rfl

theorem memNext_cleaned (s : State) (p : Path) (x : LExt) (i : Instr) (n : Nat) (k : Nat → Lane → Lane) :
    memNext (cleaned s p i n) p x k = cleaned (memNext s p x k) p i n := rfl

theorem dstBits_128 (l : Lane) (d : BitVec 7) (v : Nat) : l.dstBits d 128 v = l.dst128 d (BitVec.ofNat 128 v) := rfl

theorem fixedAtomResults : FixedAtomResults := by
  constructor
  · intro d a b x s p n s1 pl hruns hexec hca hnear _
    have hlane (ls : List Nat) : atomfxLane x (some d) a b p n (withGroup s p (eachLane (toNext p ls))) =
        (modLane (withGroup (updated (sealed s1 p n) pl 16
          (some ((valueAt (sealed s1 p n) p n pl 16 + (src128 (p.g.lane n) b).toNat) % 2 ^ 128))) p (eachLane (toNext p ls)))
          p.iss.blk p.iss.grp n fun l => l.dstBits d 128 (valueAt (sealed s1 p n) p n pl 16), none) := by
      unfold atomfxLane
      simp only [checkAccess_eachLane hca, sealSources_withGroup, updateAt_near hnear (laneWise_toNext p ls), noteSys_near hnear, setLane]
    have hexec' : exec (.atomfxFetch d a b x) s = laneFold (.atomfxFetch d a b x) x (atomfxLane x (some d) a b) (countLoad x) s := rfl
    rw [hexec', laneFold_access hruns hexec _ (countLoad x) fun ls _ => hlane ls, unpoison_one, memNext_cleaned, updated_fixed]
    simp only [dstBits_128]
    exact congrArg Host.Outcome.next (countAccess_eq _ p x false)
  · intro a b x s p n s1 pl hruns hexec hca hnear _
    have hlane (ls : List Nat) : atomfxLane x none a b p n (withGroup s p (eachLane (toNext p ls))) =
        (modLane (withGroup (updated (sealed s1 p n) pl 16
          (some ((valueAt (sealed s1 p n) p n pl 16 + (src128 (p.g.lane n) b).toNat) % 2 ^ 128))) p (eachLane (toNext p ls)))
          p.iss.blk p.iss.grp n fun l => l, none) := by
      unfold atomfxLane
      simp only [checkAccess_eachLane hca, sealSources_withGroup, updateAt_near hnear (laneWise_toNext p ls), noteSys_near hnear, modLane_self]
    have hexec' : exec (.atomfxAdd a b x) s = laneFold (.atomfxAdd a b x) x (atomfxLane x none a b) (countStore x) s := rfl
    rw [hexec', laneFold_access hruns hexec _ (countStore x) fun ls _ => hlane ls, unpoison_none _ p rfl, updated_fixed]
    exact congrArg Host.Outcome.next (countAccess_eq _ p x true)

/-- Settles O22: each atomic is one turn that reads and writes the place that the checks gave. -/
theorem atomicResults : Obligations.AtomicResults := ⟨atomResults, fixedAtomResults⟩

end Sys2Proof.Proofs
end
section
/-! PROOF of O16 and O17 (R48, R50, R352, R353): a guest dispatch of one lane, which makes two accesses, and the entry into a pool. -/

namespace Sys2Proof.Proofs

open Sys2Proof Sys2Proof.Machine Sys2Proof.Claims Sys2Proof.Laws

/-! ### What reads leave alone -/

theorem targetOk_onlyRead {s t : State} (h : OnlyRead s t) (b : Block) (v : Nat) : targetOk t b v = targetOk s b v := by
  unfold OnlyRead at h
  rw [h]
  rfl

theorem bodyStart_onlyRead {s t : State} (h : OnlyRead s t) (b : Block) : bodyStart t b = bodyStart s b := by
  unfold OnlyRead at h
  rw [h]
  rfl

theorem groupOf_onlyRead {s t : State} (h : OnlyRead s t) (k j : Nat) : groupOf t k j = groupOf s k j := by
  unfold OnlyRead at h
  rw [h]
  rfl

theorem onlyRead_withGroup {s t : State} (h : OnlyRead s t) (p : Path) (G : Group → Group) :
    OnlyRead (withGroup s p G) (withGroup t p G) := by
  unfold OnlyRead at *
  rw [h]
  rfl

/-- A live lane of the path is one of its group. -/
theorem PathGroup.lane_lt {s : State} {p : Path} {g : Group} (h : PathGroup s p g) {n : Nat} (hn : n ∈ p.lanes) : n < g.lanes.length := by
  by_contra hlt
  have hlive : (p.g.lane n).live = true := (List.mem_filter.1 hn).2
  rw [h.lane_eq, lane_out hlt] at hlive
  exact Bool.false_ne_true hlive

/-- One lane more changed. -/
theorem modLane_eachLane_eq (s : State) (p : Path) (c : Nat → Lane → Lane) (n : Nat) (f : Lane → Lane) :
    modLane (withGroup s p (eachLane c)) p.iss.blk p.iss.grp n f =
      withGroup s p (eachLane fun m l => if m = n then f (c m l) else c m l) := by
  rw [modLane_withGroup]
  refine congrArg (withGroup s p) (funext fun g => congrArg (fun ls => { g with lanes := ls }) (List.ext_getElem? fun m => ?_))
  simp only [eachLane, List.getElem?_modify, List.getElem?_mapIdx]
  by_cases h : n = m
  · subst h; cases g.lanes[n]? <;> simp
  · cases g.lanes[m]? <;> simp [h, Ne.symm h]

theorem laneWise_gop {c : Nat → Lane → Lane} (h : LaneWise c) (n : Nat) (v : Byte) :
    LaneWise fun m l => if m = n then { c m l with gop := v } else c m l := by
  constructor
  · intro m l w
    dsimp only
    rw [h.priv]
    split <;> rfl
  · intro m l w
    dsimp only
    rw [h.regs]
    split <;> rfl

/-! ### The two accesses of a dispatch -/

/-- The byte that a dispatch fetches. -/
def fetched (s1 : State) (p : Path) (n : Nat) (pl : Place) : Byte := BitVec.ofNat 8 (valueAt (sealed s1 p n) p n pl 1)

/-- The state after the fetch, but for GOP. -/
def afterFetch (s s1 : State) (p : Path) (n : Nat) (pl : Place) : State :=
  touchPlace (sealed s1 p n) p.b.core (drawOf s n 900) pl 1

/-- The state after the lookup of the handler. -/
def afterLookup (s s2 : State) (p : Path) (n : Nat) (pe : Place) : State :=
  touchPlace (sealed s2 p n) p.b.core (drawOf s (n + 64) 900) pe 4

section
variable {s s1 s2 : State} {p : Path} {n : Nat} {pl pe : Place}

theorem onlyRead_afterFetch (h : checkAccess s p.b p.iss.grp n .read (.global (p.g.gcb + (p.g.lane n).gpc)) 1 = (s1, .ok pl)) :
    OnlyRead s (afterFetch s s1 p n pl) := (onlyRead_sealed h n).trans (onlyRead_touchPlace _ _ _ _ _)

/-- The breakpoint check passes, and the byte is fetched. -/
theorem guestFetch_eq (hbreak : (p.g.lane n).once = true ∨ breakpoint (ctxOf s p.b.part p.b.ctx) (p.g.lane n).gpc = none)
    (h : checkAccess s p.b p.iss.grp n .read (.global (p.g.gcb + (p.g.lane n).gpc)) 1 = (s1, .ok pl)) {c : Nat → Lane → Lane}
    (hc : LaneWise c) : guestFetch (withGroup s p (eachLane c)) p n =
      (modLane (withGroup (afterFetch s s1 p n pl) p (eachLane c)) p.iss.blk p.iss.grp n fun l =>
        { l with gop := fetched s1 p n pl }, none) := by
  have hctx : ctxOf (withGroup s p (eachLane c)) p.b.part p.b.ctx = ctxOf s p.b.part p.b.ctx := rfl
  have hnone : (if (p.g.lane n).once = true then none else breakpoint (ctxOf s p.b.part p.b.ctx) (p.g.lane n).gpc) = none := by
    rcases hbreak with ho | hb
    · exact if_pos ho
    · rw [hb, ite_self]
  unfold guestFetch
  simp only [hctx, hnone, checkAccess_eachLane h, sealSources_withGroup, loadAt_keeps (keepsLanes_eachLane hc),
    drawOf_onlyRead (onlyRead_sealed h n)]
  rfl

/-- Where the handler's entry sends a lane, or what it raises. -/
def entryEnd (s : State) (p : Path) (gop : Byte) (t : Nat) : Except NoAccess DWord :=
  if t = 0xFFFFFFFF then .error (.trap { cause := 0x10, addr := entryAddr p.b p.g gop, info := gop.setWidth 64 })
  else if targetOk s p.b t then .ok (bodyStart s p.b + BitVec.ofNat 64 t)
  else .error (.trap (targetTrap s p.b (BitVec.ofNat 32 t)))

theorem targetTrap_onlyRead {s t : State} (h : OnlyRead s t) (b : Block) (w : Word) : targetTrap t b w = targetTrap s b w := by
  unfold targetTrap
  rw [bodyStart_onlyRead h]

/-- The lookup of the handler of an opcode. -/
theorem guestLookup_eq {t1 : State} {gop : Byte} (hr : OnlyRead s t1) (hid : p.b.id = p.iss.blk)
    (h : checkAccess t1 p.b p.iss.grp (n + 64) .read (.global (entryAddr p.b p.g gop)) 4 = (s2, .ok pe)) {c : Nat → Lane → Lane}
    (hc : LaneWise c) : guestLookup (withGroup t1 p (eachLane c)) p.b p.g p.iss.grp n gop =
      (withGroup (afterLookup s s2 p n pe) p (eachLane c), entryEnd s p gop (valueAt (sealed s2 p n) p (n + 64) pe 4)) := by
  have hsealed : OnlyRead s (sealed s2 p n) := hr.trans (onlyRead_sealed h n)
  have hafter : OnlyRead s (afterLookup s s2 p n pe) := hsealed.trans (onlyRead_touchPlace _ _ _ _ _)
  have hload := loadAt_keeps (keepsLanes_eachLane hc) (sealed s2 p n) p (n + 64) pe 4
  rw [drawOf_onlyRead hsealed] at hload
  have htarget (v : Nat) : targetOk (withGroup (afterLookup s s2 p n pe) p (eachLane c)) p.b v = targetOk s p.b v :=
    targetOk_onlyRead hafter p.b v
  have hstart : bodyStart (withGroup (afterLookup s s2 p n pe) p (eachLane c)) p.b = bodyStart s p.b := bodyStart_onlyRead hafter p.b
  have htrap (w : Word) : targetTrap (withGroup (afterLookup s s2 p n pe) p (eachLane c)) p.b w = targetTrap s p.b w :=
    targetTrap_onlyRead hafter p.b w
  unfold guestLookup
  simp only [checkAccess_eachLane h, hid, sealSources_withGroup, hload]
  show (if valueAt (sealed s2 p n) p (n + 64) pe 4 = 0xFFFFFFFF then (withGroup (afterLookup s s2 p n pe) p (eachLane c), Except.error _)
    else if targetOk (withGroup (afterLookup s s2 p n pe) p (eachLane c)) p.b _ = true then
      (_, Except.ok (bodyStart (withGroup (afterLookup s s2 p n pe) p (eachLane c)) p.b + _))
    else (_, Except.error (NoAccess.trap (targetTrap (withGroup (afterLookup s s2 p n pe) p (eachLane c)) p.b _)))) = _
  rw [htarget, hstart, htrap]
  unfold entryEnd
  split
  · rfl
  · split <;> rfl

/-- The dispatch of a lane, up to where its handler's entry sends it. -/
theorem guestDispatchLane_eq {g : Group} (hpg : PathGroup s p g) (hn : n ∈ p.lanes)
    (hbreak : (p.g.lane n).once = true ∨ breakpoint (ctxOf s p.b.part p.b.ctx) (p.g.lane n).gpc = none)
    (h : checkAccess s p.b p.iss.grp n .read (.global (p.g.gcb + (p.g.lane n).gpc)) 1 = (s1, .ok pl))
    (h2 : checkAccess (afterFetch s s1 p n pl) p.b p.iss.grp (n + 64) .read (.global (entryAddr p.b p.g (fetched s1 p n pl))) 4 =
      (s2, .ok pe)) {c : Nat → Lane → Lane} (hc : LaneWise c) :
    guestDispatchLane p n (withGroup s p (eachLane c)) =
      (match entryEnd s p (fetched s1 p n pl) (valueAt (sealed s2 p n) p (n + 64) pe 4) with
        | .ok pc => (modLane (withGroup (afterLookup s s2 p n pe) p (eachLane c)) p.iss.blk p.iss.grp n fun l =>
            { l with gop := fetched s1 p n pl, npc := pc }, none)
        | .error e => (modLane (withGroup (afterLookup s s2 p n pe) p (eachLane c)) p.iss.blk p.iss.grp n fun l =>
            { l with gop := fetched s1 p n pl }, some e)) := by
  have hr := onlyRead_afterFetch h
  have hgop : ((groupOf (modLane (withGroup (afterFetch s s1 p n pl) p (eachLane c)) p.iss.blk p.iss.grp n fun l =>
      { l with gop := fetched s1 p n pl }) p.iss.blk p.iss.grp).map fun g => (g.lane n).gop).getD 0 = fetched s1 p n pl := by
    have hg : groupOf (withGroup (afterFetch s s1 p n pl) p fun g =>
        (eachLane c g).modLane n fun l => { l with gop := fetched s1 p n pl }) p.iss.blk p.iss.grp =
        some ((eachLane c g).modLane n fun l => { l with gop := fetched s1 p n pl }) := by
      rw [groupOf_onlyRead (onlyRead_withGroup hr p _)]
      exact groupOf_withGroup hpg _
    have hlen : n < (eachLane c g).lanes.length := by simpa [eachLane] using hpg.lane_lt hn
    rw [modLane_withGroup, hg]
    simp only [Option.map_some, Option.getD_some, lane_modLane _ _ _ hlen, if_true]
  unfold guestDispatchLane
  simp only [guestFetch_eq hbreak h hc, hgop]
  have hset := modLane_eachLane_eq (afterLookup s s2 p n pe) p c n fun l => { l with gop := fetched s1 p n pl }
  rw [modLane_eachLane_eq, guestLookup_eq hr (blockOf_id hpg.block) h2 (laneWise_gop hc n _)]
  cases entryEnd s p (fetched s1 p n pl) (valueAt (sealed s2 p n) p (n + 64) pe 4) with
  | error e => exact congrArg (fun t => (t, some e)) hset.symm
  | ok pc =>
    dsimp only at hset ⊢
    rw [← hset, modLane_comp]

end

/-! ### Dispatches -/

/-- Both dispatches, the pooling one while GRG_MODE is 0. -/
theorem exec_dispatch {s : State} {p : Path} {i : Instr} {x : LExt} (h : i = .guestDispatch x ∨ i = .guestDispatchRg x ∧ p.g.grgMode = 0)
    (hpath : pathOf s = some p) : exec i s = laneFold i x guestDispatchLane (fun _ s => s) s ∧ writtenRegs i = [] ∧ dispatches i = true := by
  rcases h with rfl | ⟨rfl, hmode⟩
  · exact ⟨rfl, rfl, rfl⟩
  · have hoff : regroupOff s = true := by
      unfold regroupOff
      rw [hpath]
      simp [hmode]
    refine ⟨?_, rfl, rfl⟩
    show execGuestDispatchRg x s = _
    unfold execGuestDispatchRg
    rw [if_pos hoff]
    rfl

/-- Settles O16: the fetch and the lookup of the one lane are one turn. -/
theorem dispatchResults : Obligations.DispatchResults := by
  intro i x s p n s1 s2 pl pe hi hruns hexec hbreak h gop t1 h2 t hall htarget
  obtain ⟨hdisp, hw, _⟩ := exec_dispatch hi hruns.path
  obtain ⟨g, hpg⟩ := pathGroup_of_pathOf hruns.path
  have hn : n ∈ p.lanes := List.mem_of_mem_filter (p := fun i => guardHolds x (p.g.lane i)) (by
    show n ∈ p.exec x
    simp [hexec])
  have hend : entryEnd s p (fetched s1 p n pl) (valueAt (sealed s2 p n) p (n + 64) pe 4) =
      .ok (bodyStart s p.b + BitVec.ofNat 64 t) := (if_neg hall).trans (if_pos htarget)
  have hlane (ls : List Nat) := guestDispatchLane_eq hpg hn hbreak h h2 (laneWise_toNext p ls)
  simp only [hend] at hlane
  rw [hdisp, laneFold_access hruns hexec _ _ fun ls _ => hlane ls, unpoison_none _ p hw]
  rfl

/-! ### The pool -/

/-- A path of one lane: changing its lanes is changing that lane. -/
theorem withLanes_one {p : Path} {n : Nat} (h : p.lanes = [n]) (f : Lane → Lane) : (fun g : Group => g.modLane n f) = withLanes p fun _ l => f l := by
  funext g
  refine congrArg (fun ls => { g with lanes := ls }) (List.ext_getElem? fun m => ?_)
  simp only [h, List.mem_singleton, List.getElem?_modify, List.getElem?_mapIdx]
  by_cases e : n = m
  · subst e; cases g.lanes[n]? <;> simp
  · cases g.lanes[m]? <;> simp [e, Ne.symm e]

/-- A live lane that has not entered keeps the round of its block open. -/
theorem roundComplete_waiting {b : Block} {k j : Nat} {g : Group} (hg : b.group k = some g) (hstop : g.stop = none)
    (hlive : (g.lane j).live = true) (hj : j < 32) (hhold : (g.lane j).hold ≠ .pool) : roundComplete b = false := by
  have hmem : j ∈ g.live := List.mem_filter.2 ⟨List.mem_range.2 hj, hlive⟩
  have hk : k < b.groups.length := by
    by_contra hlt
    rw [Block.group, List.getElem?_eq_none (Nat.not_lt.1 hlt)] at hg
    cases hg
  have hended : g.ended = false := by
    unfold Group.ended
    cases hl : g.live with
    | nil => rw [hl] at hmem; cases hmem
    | cons _ _ => rfl
  have hkl : k ∈ b.liveGroups := by
    refine List.mem_filter.2 ⟨List.mem_range.2 hk, ?_⟩
    have : b.groups[k]? = some g := hg
    simp [this, hended]
  have harrived : g.arrived = false := List.all_eq_false.2 ⟨j, hmem, by simpa using hhold⟩
  refine List.all_eq_false.2 ⟨k, hkl, ?_⟩
  simp [hg, harrived, hstop]

/-- A round that has to wait for a lane does not close. -/
theorem checkRound_open {t : State} {blk : Nat} {b : Block} (hb : blockOf t blk = some b) (h : roundComplete b = false) :
    checkRound t blk = t := by
  unfold checkRound
  simp [hb, h]

/-- Some other live lane of a group that is not stopped has not entered. -/
def OtherWaits (p : Path) (n : Nat) : Prop :=
  ∃ k g j, p.b.group k = some g ∧ g.stop = none ∧ (g.lane j).live = true ∧ j < 32 ∧ (g.lane j).hold ≠ .pool ∧ (k, j) ≠ (p.iss.grp, n)

/-- It still waits when the issuing group's lane `n` has changed. -/
theorem roundComplete_otherWaits {p : Path} {n : Nat} (h : OtherWaits p n) {G : Group → Group} (hstop : ∀ g, (G g).stop = g.stop)
    (hlane : ∀ g j, j ≠ n → (G g).lane j = g.lane j) {b : Block} (hb : b.groups = (p.b.modGroup p.iss.grp G).groups) :
    roundComplete b = false := by
  obtain ⟨k, g, j, hg, hs, hlive, hj, hhold, hne⟩ := h
  have hgk : b.group k = some (if p.iss.grp = k then G g else g) := by
    have : p.b.groups[k]? = some g := hg
    simp only [Block.group, hb, Block.modGroup, List.getElem?_modify, this]
    split <;> rfl
  by_cases hk : p.iss.grp = k
  · have hjn : j ≠ n := fun e => hne (by rw [hk, e])
    rw [if_pos hk] at hgk
    exact roundComplete_waiting hgk ((hstop g).trans hs) (by rw [hlane g j hjn]; exact hlive) hj (by rw [hlane g j hjn]; exact hhold)
  · rw [if_neg hk] at hgk
    exact roundComplete_waiting hgk hs hlive hj hhold

theorem lane_modLane_other (g : Group) {n j : Nat} (h : j ≠ n) (f : Lane → Lane) : (g.modLane n f).lane j = g.lane j := by
  simp [Group.lane, Group.modLane, Ne.symm h]

/-- The one lane of the path after it changed, in a state that reads have changed. -/
theorem lane_of_one {s t : State} {p : Path} {g : Group} {n : Nat} (hpg : PathGroup s p g) (hn : n ∈ p.lanes)
    (ht : groupOf t p.iss.blk p.iss.grp = groupOf s p.iss.blk p.iss.grp) (G : Group → Group) (f : Lane → Lane)
    (hG : ∀ g, (G g).lanes = (g.modLane n f).lanes) :
    (groupOf (withGroup t p G) p.iss.blk p.iss.grp).map (fun g => (g.lane n).hold) = some (f (g.lane n)).hold := by
  have hgr := groupOf_modGroup t p.iss.blk p.iss.grp G p.iss.blk p.iss.grp
  rw [if_pos ⟨rfl, rfl⟩, ht, hpg.groupOf_eq] at hgr
  have hl : (G g).lane n = f (g.lane n) := by
    have := lane_modLane g n f (hpg.lane_lt hn) n
    rw [if_pos rfl] at this
    rw [← this]
    simp only [Group.lane, hG]
  show Option.map _ (groupOf (modGroup t p.iss.blk p.iss.grp G) p.iss.blk p.iss.grp) = _
  rw [hgr, Option.map_some, Option.map_some, hl]

/-- The issuing block after its issuing group changed, in a state that reads have changed. -/
theorem blockOf_path {s t : State} {p : Path} {g : Group} (hpg : PathGroup s p g) (hr : OnlyRead s t) (G : Group → Group) :
    blockOf (withGroup t p G) p.iss.blk = some (p.b.modGroup p.iss.grp G) := by
  have hb : blockOf t p.iss.blk = blockOf s p.iss.blk := by
    unfold OnlyRead at hr
    rw [hr]
    rfl
  rw [blockOf_withGroup, if_pos rfl, hb, hpg.block]
  rfl

theorem lane_withLanes_other {p : Path} {n : Nat} (h : p.lanes = [n]) (f : Nat → Lane → Lane) (g : Group) {j : Nat} (hj : j ≠ n) :
    (withLanes p f g).lane j = g.lane j := by
  simp only [Group.lane, withLanes, h, List.getElem?_mapIdx, List.mem_singleton]
  cases g.lanes[j]? <;> simp [hj]

/-- `guest.dispatch.rg` of a path of one lane in a group that regroups. -/
theorem exec_pool {s : State} {p : Path} {n : Nat} {x : LExt} (hpath : pathOf s = some p) (hlanes : p.lanes = [n])
    (hmode : p.g.grgMode ≠ 0) {t : State} (hlane : poolLane p (s, []) n = (t, [])) : exec (.guestDispatchRg x) s = .next (checkRound
      (if (groupOf t p.iss.blk p.iss.grp).map (fun g => (g.lane n).hold) = some .pool then openRound t p else t) p.iss.blk) := by
  have hoff : regroupOff s = false := by
    unfold regroupOff
    rw [hpath]
    exact decide_eq_false hmode
  show execGuestDispatchRg x s = _
  unfold execGuestDispatchRg poolPath
  rw [hoff, hpath]
  simp only [Bool.false_eq_true, if_false, hlanes, List.foldl_cons, List.foldl_nil, hlane, List.any_cons, List.any_nil, Bool.or_false,
    decide_eq_true_eq, endTurns_nil]

/-- The group of a lane that enters the pool with its opcode. -/
def enters (p : Path) (gop : Byte) : Group → Group :=
  withLanes p fun _ l => { l with gop := gop, hold := .pool, once := false, seen := none }

/-- The group of a lane that waits before it enters the pool. -/
def waitsFirst (p : Path) (n : Nat) (g : Group) : Group :=
  { withLanes p (fun _ l => { l with hold := .retry .waitc }) g with
    stepLanes := if g.stepMode = 0 then g.stepLanes else g.stepLanes ||| lanesMask [n] }

/-- Settles O17: the lane waits, or fetches and enters, and the round waits for the other lane. -/
theorem poolEntryResults : Obligations.PoolEntryResults := by
  intro x s p n hpath hlanes hmode hother
  obtain ⟨g, hpg⟩ := pathGroup_of_pathOf hpath
  have hn : n ∈ p.lanes := by simp [hlanes]
  constructor
  · intro s1 pl hopen hbreak h
    have hfetch := guestFetch_eq hbreak h (c := fun _ l => l) ⟨fun _ _ _ => rfl, fun _ _ _ => rfl⟩
    have hself (t : State) : withGroup t p (eachLane fun _ l => l) = t := by
      have : eachLane (fun _ l => l) = fun g => g := by
        funext g
        refine congrArg (fun ls => { g with lanes := ls }) (List.mapIdx_eq_iff.2 fun m => ?_)
        simp
      rw [this, withGroup_self]
    simp only [hself] at hfetch
    have henter : poolLane p (s, []) n = (withGroup (afterFetch s s1 p n pl) p (enters p (fetched s1 p n pl)), []) := by
      unfold enters
      rw [← withLanes_one hlanes]
      unfold poolLane
      simp only [hopen, ne_eq, not_true_eq_false, if_false, hfetch, setLane, modLane_comp]
      rfl
    have hr := onlyRead_afterFetch h
    have hhold := lane_of_one hpg hn (groupOf_onlyRead hr _ _) (enters p (fetched s1 p n pl))
      (fun l => { l with gop := fetched s1 p n pl, hold := .pool, once := false, seen := none })
      fun g => congrArg (fun G => (G g).lanes) (withLanes_one hlanes _).symm
    have hclk : (afterFetch s s1 p n pl).clk = s.clk := by
      unfold OnlyRead at hr
      rw [hr]
    let round := fun b : Block => { b with round := some (b.round.getD { mode := p.g.grgMode, start := (afterFetch s s1 p n pl).clk }) }
    have hblock := blockOf_modBlock (withGroup (afterFetch s s1 p n pl) p (enters p (fetched s1 p n pl))) p.iss.blk round
      (fun _ => rfl) p.iss.blk
    rw [if_pos rfl, blockOf_path hpg hr] at hblock
    have hround := roundComplete_otherWaits hother (G := enters p (fetched s1 p n pl))
      (b := round (p.b.modGroup p.iss.grp (enters p (fetched s1 p n pl)))) (fun _ => rfl)
      (fun g j hj => lane_withLanes_other hlanes _ g hj) rfl
    rw [exec_pool hpath hlanes hmode henter, if_pos hhold]
    refine (congrArg Host.Outcome.next (checkRound_open hblock hround)).trans ?_
    simp only [round, hclk]
    rfl
  · intro hopen
    have hwait : poolLane p (s, []) n = (withGroup s p (waitsFirst p n), []) := by
      have hw := withLanes_one hlanes fun l => { l with hold := .retry .waitc }
      unfold poolLane waitsFirst
      rw [if_pos hopen, ← hw]
      rfl
    have hhold := lane_of_one hpg hn (t := s) rfl (waitsFirst p n) (fun l => { l with hold := .retry .waitc })
      fun g => congrArg (fun G => (G g).lanes) (withLanes_one hlanes _).symm
    have hround := roundComplete_otherWaits hother (G := waitsFirst p n) (b := p.b.modGroup p.iss.grp (waitsFirst p n)) (fun _ => rfl)
      (fun g j hj => lane_withLanes_other hlanes (fun _ l => { l with hold := .retry .waitc }) g hj) rfl
    rw [exec_pool hpath hlanes hmode hwait, if_neg (by rw [hhold]; simp)]
    exact congrArg Host.Outcome.next (checkRound_open (blockOf_path hpg (.refl s) _) hround)

end Sys2Proof.Proofs
end
section
/-! REFUTATION of O23 (R396): the statement says of every state what the executing lane's block looks like after the trap, and a state that
holds two blocks of one number, which no run reaches, tells the model's frame from the stated one. -/

namespace Sys2Proof.Proofs

open Sys2Proof Sys2Proof.Machine Sys2Proof.Claims Sys2Proof.Tests

/-- Two resident blocks of the number 1, each with a budget of one chunk; the lane of the second one stands at address 4. -/
def twins : State :=
  { world small 1 with blocks := [small, tBlock { tGroup [{ tLane [] with npc := 4 }] with budget := 1 }] }

/-- Where the lane of the second block stands. -/
def twinNpc (o : Out) : Option DWord :=
  match o with
  | .next t => (t.blocks[1]?).bind fun b => (b.group 0).map fun g => (g.lane 0).npc
  | _ => none

/-- The model leaves the lane of the second block where it is: `brx.call` of register 8 makes no access. -/
theorem twinNpc_exec : twinNpc (exec (.brxCall 8 {}) twins) = some 4 := by decide +kernel

/-- The stated frame sends the executing lane's number in every block of its number back to the instruction. -/
theorem twinNpc_stated (r : TrapRec) :
    twinNpc (.next (stopIn (lanesBack twins (tPath small 1) {}) (tPath small 1) [r])) = some 0 := rfl

/-- Refutes O23: REG_FIELD of a `brx.call` in a state with two blocks of one number leaves the second block's lane at 4, not at 0. -/
theorem not_operandAndAlignTraps : ¬ Obligations.OperandAndAlignTraps := by
  rintro ⟨⟨_, _, hforms⟩, _⟩
  obtain ⟨t, _, r, hexec, hstate, _⟩ := hforms (.brxCall 8 {}) {} twins (tPath small 1) 0 rfl rfl rfl (by decide) (by decide) rfl rfl rfl
    (fun _ h => by cases h)
  have hnpc := twinNpc_exec
  rw [hexec, hstate, twinNpc_stated] at hnpc
  exact absurd hnpc (by decide)

end Sys2Proof.Proofs
end
section
/-! REFUTATION of O21 (R138, R254): a store to a pool byte enters the order after every earlier store of a system agent to that byte, and an
agent's store is seen whole. So where a core's lease still shows what a byte was before an agent stored two bytes at once, a store to the
first of them lets the core read what the agent stored in the second one, a byte outside the stored bytes. -/

namespace Sys2Proof.Proofs

open Sys2Proof Sys2Proof.Machine Sys2Proof.Claims Sys2Proof.Tests

/-- The machine with one lane, virtual page 0 translated to the pool's first page, and a lease of core 0 that still shows 7 for pool byte 1,
which an agent has stored together with byte 0. -/
def leased : State :=
  { tS with
    tlb := [{ unit := .core 0, part := 0, ctx := 0, trc := 0, va := 0, size := 65536, pa := 2 ^ 44, leaf := 13 }]
    poolLeases := [{ core := 0, line := 0, granted := 0, stale := [(1, 7)], runs := [[0, 1]] }] }

/-- The store of a byte to pool byte 0. -/
def storePool : Instr := .st 0 0 0 0 0 {}

/-- Pool byte 1, as core 0 reads it. -/
def besides (o : Out) : Byte :=
  match o with
  | .next t => (Place.phys (2 ^ 44 + 1)).byte t 0 0
  | _ => 0xFF

theorem besides_before : (Place.phys (2 ^ 44 + 1)).byte leased 0 0 = 7 := by decide +kernel

theorem besides_after : besides (exec storePool leased) = 0 := by decide +kernel

theorem path_leased : pathOf leased = some tP := rfl

theorem runs_leased : Runs leased tP storePool {} := by
  refine ⟨path_leased, by decide, fun n _ => List.find?_eq_none.2 fun k _ => ?_⟩
  have : leased.poison = [] := rfl
  simp [this]

theorem check_leased : (checkAccess leased tP.b tP.iss.grp 0 .write (globalAt {} tP (tP.g.lane 0) 0 0 0) (accessBytes 0)).2 =
    .ok (.phys (2 ^ 44)) := by rfl

/-- Refutes O21: after the store to pool byte 0, core 0 reads 0 and no longer 7 in pool byte 1. -/
theorem not_storeFrame : ¬ Obligations.StoreFrame := by
  intro h
  have hafter := besides_after
  cases hexec : exec storePool leased with
  | next t =>
    have hframe := (h 0 0 0 0 0 {} leased tP 0 _ (.phys (2 ^ 44)) t (by decide) (by decide) (by decide +kernel)
      (.inl ⟨runs_leased, hexec, Prod.ext rfl check_leased⟩)).1 (.phys (2 ^ 44 + 1)) 0 0
      (fun pa e => by cases e; decide) fun j hj e => by
        have hj : j < 1 := hj
        obtain rfl : j = 0 := by omega
        simp [Place.shift] at e
    rw [besides_before] at hframe
    rw [hexec] at hafter
    exact absurd (hframe.symm.trans hafter) (by decide)
  | fault f =>
    have hff : (0xFF : Byte) = 0 := by rw [hexec] at hafter; exact hafter
    exact absurd hff (by decide)
  | refused r =>
    have hff : (0xFF : Byte) = 0 := by rw [hexec] at hafter; exact hafter
    exact absurd hff (by decide)

end Sys2Proof.Proofs
end
section
/-! PROOFS of O54 (words of the manual) and O24 (R397): a trap of the uniform half, or one for a group, is one record in the group's stop. -/

namespace Sys2Proof.Proofs

open Sys2Proof Sys2Proof.Machine Sys2Proof.Claims Sys2Proof.Laws

/-- Settles O54: the decoder evaluates on each of the ten words. -/
theorem decodeWords : Obligations.DecodeWords := by
  refine ⟨?_, ?_, ?_, ?_, ?_, ?_, ?_, ?_, ?_, ?_⟩ <;> decide +kernel

/-! ### A group traps -/

/-- The records of a trap join the group's stop: at most 32 of them. -/
theorem stopWith_eq {s : State} {p : Path} {rs : List TrapRec} (h : rs ≠ []) (hlen : rs.length ≤ 32) :
    stopWith s p.iss.blk p.iss.grp rs = stopIn s p rs := by
  have hempty : rs.isEmpty = false := by simpa using h
  unfold stopWith stopIn
  rw [hempty, modGroup_eq]
  refine congrArg (withGroup s p) (funext fun g => ?_)
  unfold Group.addRecs
  cases g.stop with
  | some st => rfl
  | none => simp [List.drop_eq_nil_of_le hlen]

/-- A trap for a group is one record in its stop, which names the lane as the state has it. -/
theorem trapGroup_eq {s : State} {p : Path} {b : Block} {g : Group} (hb : blockOf s p.iss.blk = some b) (hg : b.group p.iss.grp = some g)
    (i : Nat) (t : Trap) : trapGroup s p.iss.blk p.iss.grp i t = stopIn s p [mkRec s b p.iss.grp g 1 i t false] := by
  unfold trapGroup
  simp only [hb, hg]
  exact stopWith_eq (by simp) (by simp)

/-- A uniform instruction that traps: its group stops, with one record of its lowest lane. -/
theorem uniform_trap {s : State} {p : Path} {x : UExt} {e : Trap} (h : URuns s p x) {k : Path → State → UEnd} (hk : k p s = .trap s e) :
    ∃ r, uniform x k s = .next (stopIn s p [r]) ∧ GroupRec p r e.cause e.addr e.info (p.g.lane p.lead).npc := by
  obtain ⟨g, hpg⟩ := pathGroup_of_pathOf h.path
  rw [uniform_runs h, hk]
  refine ⟨_, congrArg Host.Outcome.next (trapGroup_eq hpg.block hpg.group p.lead e), rfl, rfl, rfl, rfl, rfl, rfl, ?_⟩
  rw [hpg.lane_eq]
  rfl

/-! ### Privilege -/

theorem privileged_low {p : Path} (h : p.b.level1 = false) (f : Path → State → UEnd) (s : State) :
    privileged f p s = .trap s (wordTrap p 0x03) := by
  unfold privileged
  rw [h]
  rfl

/-- A trap whose TRAP_INFO is the base word. -/
theorem uniform_wordTrap {s : State} {p : Path} {x : UExt} {cause : Nat} (h : URuns s p x) {k : Path → State → UEnd}
    (hk : k p s = .trap s (wordTrap p cause)) :
    ∃ r, uniform x k s = .next (stopIn s p [r]) ∧ GroupRec p r cause 0 (p.iss.word.setWidth 64) (p.g.lane p.lead).npc :=
  uniform_trap h hk

/-- `isSysReg`, as a proposition about the number. -/
theorem isSysReg_iff (n : Nat) : isSysReg n = true ↔ (0x010 ≤ n ∧ n ≤ 0x013) ∨ n = 0x020 ∨ (0x030 ≤ n ∧ n ≤ 0x032) ∨
    (0x034 ≤ n ∧ n ≤ 0x037) ∨ (0x040 ≤ n ∧ n ≤ 0x048) ∨ n = 0x060 ∨ n = 0x070 ∨ n = 0x071 ∨ n = 0x080 ∨ (0x090 ≤ n ∧ n ≤ 0x09F) := by
  simp [isSysReg, or_assoc]

theorem isSysReg_of_reads {n : Nat} (h : ReadsAbove n) : isSysReg n = true := by
  rw [isSysReg_iff]
  unfold ReadsAbove at h
  omega

theorem isSysReg_of_writes {n : Nat} (h : WritesAbove n) : isSysReg n = true := by
  rw [isSysReg_iff]
  unfold WritesAbove at h
  omega

theorem readNeedsOne_iff (n : Nat) : readNeedsOne n = true ↔ ReadsAbove n := by
  simp [readNeedsOne, ReadsAbove]

/-- Only GCB, GHT and GRG_MODE are written at level 0. -/
theorem writeLevel_pos {n : Nat} (h : WritesAbove n) : 0 < writeLevel n := by
  unfold WritesAbove at h
  unfold writeLevel
  split
  · exact Nat.zero_lt_two
  · rw [if_neg (by simp only [Bool.and_eq_true, decide_eq_true_eq]; omega)]
    exact Nat.one_pos

theorem sysr_privilege {s : State} {p : Path} {x : UExt} (d : BitVec 6) {num : BitVec 12} (h : URuns s p x) (hl : p.b.level1 = false)
    (hn : ReadsAbove num.toNat) : ∃ r, exec (.sysr d num x) s = .next (stopIn s p [r]) ∧
      GroupRec p r 0x03 0 (p.iss.word.setWidth 64) (p.g.lane p.lead).npc := by
  show ∃ r, execSysr d num x s = _ ∧ _
  unfold execSysr
  refine uniform_wordTrap h ?_
  simp only [isSysReg_of_reads hn, (readNeedsOne_iff _).2 hn, hl, Bool.not_true, Bool.not_false, Bool.and_true, Bool.false_eq_true,
    if_false, if_true]

/-- A write that needs more than the path's level. -/
theorem sysw_privilege {s : State} {p : Path} {x : UExt} (a : BitVec 6) {num : BitVec 12} (h : URuns s p x)
    (hreg : isSysReg num.toNat = true) (hl : p.b.level1.toNat < writeLevel num.toNat) :
    ∃ r, exec (.sysw a num x) s = .next (stopIn s p [r]) ∧ GroupRec p r 0x03 0 (p.iss.word.setWidth 64) (p.g.lane p.lead).npc := by
  show ∃ r, execSysw a num x s = _ ∧ _
  unfold execSysw
  refine uniform_wordTrap h ?_
  simp only [hreg, hl, Bool.not_true, Bool.false_eq_true, if_false, if_true]

/-- No level that runs writes a register of level 2. -/
theorem level_lt_two (b : Bool) : b.toNat < 2 := by cases b <;> decide

/-- Settles O24: each privileged instruction looks at the level before it does anything. -/
theorem privilegeTraps : Obligations.PrivilegeTraps := by
  rintro i x s p h (⟨hl, hi⟩ | ⟨a, rfl | rfl⟩)
  · obtain ⟨a, b, rfl⟩ | ⟨a, rfl⟩ | rfl | ⟨d, num, hn, rfl⟩ | ⟨a, num, hn, rfl⟩ := hi
    · exact uniform_wordTrap h (privileged_low hl _ s)
    · exact uniform_wordTrap h (privileged_low hl _ s)
    · exact uniform_wordTrap h (privileged_low hl _ s)
    · exact sysr_privilege d h hl hn
    · refine sysw_privilege a h (isSysReg_of_writes hn) ?_
      rw [hl]
      exact writeLevel_pos hn
  · exact sysw_privilege a h (by decide) (level_lt_two _)
  · exact sysw_privilege a h (by decide) (level_lt_two _)

end Sys2Proof.Proofs
end
section
/-! PROOFS of O29 (R265, R266) and O28 (R177, R268, R295 to R297): uniform loads, stores and moves; the uniform arithmetic; and every
uniform instruction whose guard does not hold. -/

namespace Sys2Proof.Proofs

open Sys2Proof Sys2Proof.Machine Sys2Proof.Claims Sys2Proof.Laws

/-! ### Loads, stores and moves -/

theorem uniformTarget_eq (x : UExt) (g : Group) (a : BitVec 6) (imm : BitVec 13) :
    uniformTarget x g a imm = .global (g.usrc a.toNat + BitVec.ofInt 64 (simm x.imm imm * 8)) := by
  unfold uniformTarget
  rw [immS_eq_simm]
  rfl

theorem storeLost_onlyRead {s t : State} (h : OnlyRead s t) (part : Nat) (pl : Place) : storeLost t part pl = storeLost s part pl := by
  unfold OnlyRead at h
  rw [h]
  cases pl <;> rfl

theorem addFor_eq (c : CountList) (m : BitVec 32) (w : Word) : c.addFor m w = oneMoreOf c m w := rfl

/-- A load at a place: the bytes there, as a number. -/
theorem loadAt_eq (s : State) (p : Path) (n : Nat) (pl : Place) (k : Nat) :
    loadAt s p.b n pl k = (touchPlace s p.b.core (drawOf s n 900) pl k, valueAt s p n pl k) :=
  Prod.ext rfl (leNat_eq_sum (fun j => (pl.shift j).byte s p.b.core (drawOf s n 0 + j)) k)

/-- What an access does before it: the checks, and what the commands of the path's threads have not read of their sources. -/
def pathSealed (s : State) (p : Path) : State := sealSources s p.iss.blk (p.lanes.map fun i => (p.g.lane i).tid)

theorem onlyRead_pathSealed (s : State) (p : Path) : OnlyRead s (pathSealed s p) :=
  onlyRead_sealSources s p.iss.blk (p.lanes.map fun i => (p.g.lane i).tid)

/-- A load of the group: its register, its mark and its entry in the list of loads are one change of the group. -/
theorem listedLoad_eq (s : State) (p : Path) (n : Nat) (v : DWord) (pl : Place) (m : BitVec 32) :
    countAccess (noteSys (pathGroup s p fun g => g.udst n v) p false pl) p false m =
      withGroup s p fun g => { g.udst n v with loads := oneMoreOf (sysMark pl g.loads) m p.iss.word } := by
  unfold countAccess noteSys pathGroup
  simp only [Bool.false_eq_true, if_false, modGroup_eq, withGroup_comp, noteSys_eq]
  rfl

/-- A uniform load: its group's register, its mark and its entry in the list of loads are one change of the group. -/
theorem uld_results (d a : BitVec 6) (imm : BitVec 13) {x : UExt} {s s1 : State} {p : Path} {pl : Place} (hruns : URuns s p x)
    (h : checkAccess s p.b p.iss.grp p.lead .read (uniformTarget x p.g a imm) 8 = (s1, .ok pl)) :
    exec (.uld d a imm x) s = .next (uniNext (touchPlace (pathSealed s1 p) p.b.core (drawOf s1 p.lead 900) pl 8) p p.iss.next fun g =>
      { g.udst d.toNat (BitVec.ofNat 64 (valueAt (pathSealed s1 p) p p.lead pl 8)) with
        loads := oneMoreOf (sysMark pl g.loads) p.iss.lanes p.iss.word }) := by
  show execUld d a imm x s = _
  unfold execUld
  rw [uniform_runs hruns]
  dsimp only
  rw [h]
  dsimp only
  rw [show sealSources s1 p.iss.blk (p.lanes.map fun i => (p.g.lane i).tid) = pathSealed s1 p from rfl, loadAt_eq,
    drawOf_onlyRead (onlyRead_pathSealed s1 p)]
  rw [listedLoad_eq]
  simp only [UEnd.out, pathTo_eq]
  exact congrArg Host.Outcome.next (atNext_group _ p _)

/-- A uniform store, and its entry in the list of stores. -/
theorem ust_results (d a : BitVec 6) (imm : BitVec 13) {x : UExt} {s s1 : State} {p : Path} {pl : Place} (hruns : URuns s p x)
    (h : checkAccess s p.b p.iss.grp p.lead .write (uniformTarget x p.g a imm) 8 = (s1, .ok pl))
    (hlost : storeLost s1 p.b.part pl = false) :
    exec (.ust d a imm x) s = .next (uniNext (coverPlace (writePlace (pathSealed s1 p) pl (leBytes 8 (p.g.usrc d.toNat).toNat)) pl 8) p
      p.iss.next fun g => { g with stores := oneMoreOf g.stores p.iss.lanes p.iss.word }) := by
  show execUst d a imm x s = _
  unfold execUst
  rw [uniform_runs hruns]
  dsimp only
  rw [h]
  dsimp only
  rw [show sealSources s1 p.iss.blk (p.lanes.map fun i => (p.g.lane i).tid) = pathSealed s1 p from rfl]
  unfold storeAt countAccess pathGroup
  simp only [storeLost_onlyRead (onlyRead_pathSealed s1 p), hlost, Bool.false_eq_true, if_false, if_true, modGroup_eq, UEnd.out, pathTo_eq]
  refine (congrArg Host.Outcome.next (atNext_group _ p _)).trans
    (congrArg (fun f => Host.Outcome.next (uniNext _ p p.iss.next f)) (funext fun g => ?_))
  rfl

/-- A lane register copied to a uniform one, of a lane whose register is in the budget and, where that lane is of the path, not
poisoned. -/
theorem umovl_results (d a : BitVec 6) (sel : Path → Nat) {x : UExt} {s : State} {p : Path} (hruns : URuns s p x)
    (hbudget : a.toNat < 8 * p.g.budget)
    (hclean : sel p ∈ p.lanes → isPoisoned s (.reg p.iss.blk p.iss.grp (sel p) a.toNat) = false) :
    umovl x d a sel s = .next (uniNext s p p.iss.next fun g =>
      g.udst d.toNat (if sel p ∈ p.lanes then 0#32 ++ (p.g.lane (sel p)).reg a.toNat else 0)) := by
  have hread : umovlRead s p (sel p) a.toNat = .ok (((p.g.lane (sel p)).reg a.toNat).setWidth 64) := by
    unfold umovlRead
    rw [if_neg (by omega), if_neg]
    simp only [List.contains_eq_mem, Bool.and_eq_true, decide_eq_true_eq, not_and, Bool.not_eq_true]
    exact hclean
  unfold umovl
  rw [uniform_runs hruns]
  rw [hread]
  unfold pathGroup
  simp only [modGroup_eq, UEnd.out, pathTo_eq, List.contains_eq_mem, decide_eq_true_eq]
  refine congrArg Host.Outcome.next ((atNext_group _ p _).trans (congrArg (uniNext s p p.iss.next) (funext fun g => ?_)))
  rw [show ((p.g.lane (sel p)).reg a.toNat).setWidth 64 = 0#32 ++ (p.g.lane (sel p)).reg a.toNat from setWidth_eq_zero_append (m := 32) _]

/-- Settles O29. -/
theorem uniformMoves : Obligations.UniformMoves := by
  refine ⟨?_, ?_, ?_, ?_⟩
  · intro d a imm x s p s1 pl hruns h
    exact uld_results d a imm hruns (by rw [uniformTarget_eq]; exact h)
  · intro d a imm x s p s1 pl hruns h hlost
    exact ust_results d a imm hruns (by rw [uniformTarget_eq]; exact h) hlost
  · intro d a x s p hruns hne hbudget hclean
    have hmem : p.lead ∈ p.lanes := by
      unfold Path.lead
      cases h : p.lanes with
      | nil => exact absurd h hne
      | cons n ns => exact List.mem_cons_self
    have h := umovl_results d a Path.lead hruns hbudget fun _ => hclean
    rw [if_pos hmem] at h
    exact h
  · intro d a b x s p hruns hbudget k hclean
    exact umovl_results d a (fun p => (p.g.usrc b.toNat).toNat % 32) hruns hbudget hclean

end Sys2Proof.Proofs
end
section
/-! PROOF of O28 (R177, R268, R295 to R297): the uniform arithmetic, and every uniform instruction whose guard does not hold. -/

namespace Sys2Proof.Proofs

open Sys2Proof Sys2Proof.Machine Sys2Proof.Claims Sys2Proof.Laws

/-! ### Uniform instructions of the group's own registers -/

/-- A uniform instruction that changes the issuing group and goes on. -/
theorem uown_of_exec {mk : UExt → Instr} {f : UExt → Group → Group} (F : UExt → Path → Group → Group)
    (hexec : ∀ x s, exec (mk x) s = uniform x (fun p s => .done (pathGroup s p (F x p))) s) (hF : ∀ x p g, F x p g = f x g) :
    UOwn mk f := by
  intro x s p h
  rw [hexec, uniform_next h (F x p) p.iss.next _ rfl]
  exact congrArg (fun k => Host.Outcome.next (uniNext s p p.iss.next k)) (funext (hF x p))

theorem uword2_of_uni2 {mk : BitVec 6 → BitVec 6 → BitVec 6 → UExt → Instr} {v : DWord → DWord → DWord} (w : DWord → DWord → DWord)
    (hexec : ∀ d a b x s, exec (mk d a b x) s = uni2 x d a b w s) (hv : ∀ u k, w u k = v u k) : UWord2 mk v := by
  intro d a b
  refine uown_of_exec (fun _ _ g => g.udst d.toNat (w (g.usrc a.toNat) (g.usrc b.toNat))) (hexec d a b) fun x p g => ?_
  rw [hv]

theorem upred2_of_ucompare {mk : BitVec 3 → BitVec 6 → BitVec 6 → UExt → Instr} {t : DWord → DWord → Bool} (r : Rel)
    (hexec : ∀ q a b x s, exec (mk q a b x) s = ucompare x r q a b s) (ht : ∀ u k : DWord, r.holds u k = t u k) : UPred2 mk t := by
  intro q a b
  refine uown_of_exec (fun _ _ g => g.qwr q.toNat (r.holds (g.usrc a.toNat) (g.usrc b.toNat))) (hexec q a b) fun x p g => ?_
  rw [ht]

/-! ### Values of 64 bits -/

theorem shl64_eq (u v : DWord) :
    (if 64 ≤ v.toNat then 0 else u <<< v.toNat) = if v.toNat < 64 then BitVec.ofNat 64 (u.toNat * 2 ^ v.toNat) else 0 := by
  by_cases h : v.toNat < 64
  · rw [if_neg (by omega), if_pos h]
    refine BitVec.eq_of_toNat_eq ?_
    simp [BitVec.toNat_shiftLeft, Nat.shiftLeft_eq]
  · rw [if_pos (by omega), if_neg h]

theorem shr64_eq (u v : DWord) :
    (if 64 ≤ v.toNat then 0 else u >>> v.toNat) = if v.toNat < 64 then BitVec.ofNat 64 (u.toNat / 2 ^ v.toNat) else 0 := by
  by_cases h : v.toNat < 64
  · rw [if_neg (by omega), if_pos h]
    refine BitVec.eq_of_toNat_eq ?_
    have hlt : u.toNat / 2 ^ v.toNat < 2 ^ 64 := Nat.lt_of_le_of_lt (Nat.div_le_self _ _) u.isLt
    rw [BitVec.toNat_ushiftRight, Nat.shiftRight_eq_div_pow, BitVec.toNat_ofNat, Nat.mod_eq_of_lt hlt]
  · rw [if_pos (by omega), if_neg h]

/-- A shift right by 64 and more leaves the sign in every bit. -/
theorem sar64_eq (u v : DWord) : u.sshiftRight (min v.toNat 63) =
    if v.toNat < 64 then BitVec.ofInt 64 (u.toInt / 2 ^ v.toNat) else if u.toInt < 0 then BitVec.ofInt 64 (-1) else 0 := by
  rw [BitVec.sshiftRight, Int.shiftRight_eq_div_pow]
  have hlo := BitVec.le_toInt u
  have hhi := BitVec.toInt_lt (x := u)
  by_cases h : v.toNat < 64
  · rw [if_pos h, Nat.min_eq_left (by omega)]
    norm_cast
  · rw [if_neg h, Nat.min_eq_right (by omega)]
    split
    · congr 1; omega
    · rw [show u.toInt / ((2 ^ 63 : Nat) : Int) = 0 by omega]
      rfl

theorem mins64_eq (u v : DWord) : (if u.toInt ≤ v.toInt then u else v) = BitVec.ofInt 64 (min u.toInt v.toInt) := by
  split
  · rw [Int.min_eq_left (by omega), BitVec.ofInt_toInt]
  · rw [Int.min_eq_right (by omega), BitVec.ofInt_toInt]

theorem maxs64_eq (u v : DWord) : (if v.toInt ≤ u.toInt then u else v) = BitVec.ofInt 64 (max u.toInt v.toInt) := by
  split
  · rw [Int.max_eq_left (by omega), BitVec.ofInt_toInt]
  · rw [Int.max_eq_right (by omega), BitVec.ofInt_toInt]

theorem minn64_eq (u v : DWord) : (if u.toNat ≤ v.toNat then u else v) = BitVec.ofNat 64 (min u.toNat v.toNat) := by
  split
  · rw [Nat.min_eq_left (by omega), BitVec.ofNat_toNat, BitVec.setWidth_eq]
  · rw [Nat.min_eq_right (by omega), BitVec.ofNat_toNat, BitVec.setWidth_eq]

theorem maxn64_eq (u v : DWord) : (if v.toNat ≤ u.toNat then u else v) = BitVec.ofNat 64 (max u.toNat v.toNat) := by
  split
  · rw [Nat.max_eq_left (by omega), BitVec.ofNat_toNat, BitVec.setWidth_eq]
  · rw [Nat.max_eq_right (by omega), BitVec.ofNat_toNat, BitVec.setWidth_eq]

theorem toD_add (u : DWord) (k : Int) : u + toD k = BitVec.ofInt 64 (u.toInt + k) := by
  unfold toD
  rw [BitVec.ofInt_add, BitVec.ofInt_toInt]

theorem ubr_taken (p : Path) (q : BitVec 3) (neg : BitVec 1) : xor (p.g.qrd q.toNat) (decide (neg = 1)) = (p.g.qrd q.toNat != (neg == 1)) := by
  have h : ∀ (v : Bool) (neg : BitVec 1), xor v (decide (neg = 1)) = (v != (neg == 1)) := by decide
  exact h (p.g.qrd q.toNat) neg

/-- A uniform branch to the first word of an instruction. -/
theorem ubr_results (q : BitVec 3) (neg : BitVec 1) (disp : BitVec 21) {x : UExt} {s : State} {p : Path} (hruns : URuns s p x)
    (hok : targetOk s p.b (dispAddr p disp - bodyStart s p.b).toNat = true) : exec (.ubr q neg disp x) s =
      .next (uniNext s p (if p.g.qrd q.toNat != (neg == 1) then dispAddr p disp else p.iss.next) id) := by
  show execUbr q neg disp x s = _
  unfold execUbr
  rw [uniform_runs hruns]
  simp only [dispTarget_eq, directTrap_of_ok hok, ubr_taken]
  cases p.g.qrd q.toNat != (neg == 1) with
  | false => exact congrArg Host.Outcome.next (pathTo_eq s p p.iss.next)
  | true => exact congrArg Host.Outcome.next (pathTo_eq s p (dispAddr p disp))

theorem uniformResults : UniformResults := by
  unfold UniformResults
  refine ⟨?add, ?sub, ?and, ?or, ?xor, ?mul, ?shl, ?shr, ?sar, ?mins, ?maxs, ?minn, ?maxn, ?addi, ?movi, ?movhi, ?eq, ?ne, ?lts, ?les, ?gts,
    ?ges, ?ltn, ?len, ?gtn, ?gen, ?qand, ?qor, ?qxor, ?br⟩
  case add => exact uword2_of_uni2 (fun u v => u + v) (fun _ _ _ _ _ => rfl) fun _ _ => rfl
  case sub => exact uword2_of_uni2 (fun u v => u - v) (fun _ _ _ _ _ => rfl) fun _ _ => rfl
  case and => exact uword2_of_uni2 (fun u v => u &&& v) (fun _ _ _ _ _ => rfl) fun _ _ => rfl
  case or => exact uword2_of_uni2 (fun u v => u ||| v) (fun _ _ _ _ _ => rfl) fun _ _ => rfl
  case xor => exact uword2_of_uni2 (fun u v => u ^^^ v) (fun _ _ _ _ _ => rfl) fun _ _ => rfl
  case mul => exact uword2_of_uni2 (fun u v => u * v) (fun _ _ _ _ _ => rfl) fun _ _ => rfl
  case shl => exact uword2_of_uni2 (fun u v => if 64 ≤ v.toNat then 0 else u <<< v.toNat) (fun _ _ _ _ _ => rfl) shl64_eq
  case shr => exact uword2_of_uni2 (fun u v => if 64 ≤ v.toNat then 0 else u >>> v.toNat) (fun _ _ _ _ _ => rfl) shr64_eq
  case sar => exact uword2_of_uni2 (fun u v => u.sshiftRight (min v.toNat 63)) (fun _ _ _ _ _ => rfl) sar64_eq
  case mins => exact uword2_of_uni2 (fun u v => if u.toInt ≤ v.toInt then u else v) (fun _ _ _ _ _ => rfl) mins64_eq
  case maxs => exact uword2_of_uni2 (fun u v => if v.toInt ≤ u.toInt then u else v) (fun _ _ _ _ _ => rfl) maxs64_eq
  case minn => exact uword2_of_uni2 (fun u v => if u.toNat ≤ v.toNat then u else v) (fun _ _ _ _ _ => rfl) minn64_eq
  case maxn => exact uword2_of_uni2 (fun u v => if v.toNat ≤ u.toNat then u else v) (fun _ _ _ _ _ => rfl) maxn64_eq
  case addi =>
    intro d a imm
    refine uown_of_exec (fun x _ g => g.udst d.toNat (g.usrc a.toNat + toD (immS x.imm imm.toNat 13))) (fun _ _ => rfl) fun x _ g => ?_
    rw [toD_add, immS_eq_simm]
  case movi =>
    intro d imm
    refine uown_of_exec (fun x _ g => g.udst d.toNat (toD (immS x.imm imm.toNat 19))) (fun _ _ => rfl) fun x _ g => ?_
    rw [immS_eq_simm]
    rfl
  case movhi =>
    intro d imm
    refine uown_of_exec (fun x _ g => g.udst d.toNat (BitVec.ofNat 32 (immU x.imm imm.toNat 19) ++ (g.usrc d.toNat).setWidth 32))
      (fun _ _ => rfl) fun x _ g => ?_
    rw [immU_eq_nimm, extractLsb'_zero]
  case eq => exact upred2_of_ucompare .eq (fun _ _ _ _ _ => rfl) rel_holds_eq
  case ne => exact upred2_of_ucompare .ne (fun _ _ _ _ _ => rfl) rel_holds_ne
  case lts => exact upred2_of_ucompare .lts (fun _ _ _ _ _ => rfl) rel_holds_lts
  case les => exact upred2_of_ucompare .les (fun _ _ _ _ _ => rfl) rel_holds_les
  case gts => exact upred2_of_ucompare .gts (fun _ _ _ _ _ => rfl) rel_holds_gts
  case ges => exact upred2_of_ucompare .ges (fun _ _ _ _ _ => rfl) rel_holds_ges
  case ltn => exact upred2_of_ucompare .ltn (fun _ _ _ _ _ => rfl) rel_holds_ltn
  case len => exact upred2_of_ucompare .len (fun _ _ _ _ _ => rfl) rel_holds_len
  case gtn => exact upred2_of_ucompare .gtn (fun _ _ _ _ _ => rfl) rel_holds_gtn
  case gen => exact upred2_of_ucompare .gen (fun _ _ _ _ _ => rfl) rel_holds_gen
  case qand =>
    intro q a b
    exact uown_of_exec (fun _ _ g => g.qwr q.toNat (g.qrd a.toNat && g.qrd b.toNat)) (fun _ _ => rfl) fun _ _ _ => rfl
  case qor =>
    intro q a b
    exact uown_of_exec (fun _ _ g => g.qwr q.toNat (g.qrd a.toNat || g.qrd b.toNat)) (fun _ _ => rfl) fun _ _ _ => rfl
  case qxor =>
    intro q a b
    refine uown_of_exec (fun _ _ g => g.qwr q.toNat (xor (g.qrd a.toNat) (g.qrd b.toNat))) (fun _ _ => rfl) fun _ _ g => ?_
    cases g.qrd a.toNat <;> cases g.qrd b.toNat <;> rfl
  case br => exact fun q neg disp x s p hruns hok => ubr_results q neg disp hruns hok

/-! ### A guard that does not hold -/

/-- A barrier's arrival is a uniform instruction, above level 0 one that waits for its group. -/
theorem arrival_form (x : UExt) (level : BitVec 2) (f : Path → State → UEnd) :
    ∃ k, ∀ s, arrival x level f s = if (level != 0) = true then uniformConv x k s else uniform x k s := by
  refine ⟨fun p s => if p.quiet then f p s else .stay (pathHold s p (.retry .waitc)), fun s => ?_⟩
  unfold arrival
  by_cases h : level = 0
  · simp [h]
  · simp only [bne_iff_ne, ne_eq, h, not_false_eq_true, if_true, if_false]

/-- An instruction that waits for its group, as the two forms of `uniform_form` are told apart. -/
def ConvForm (x : UExt) (e : State → Out) : Prop := ∃ k, ∀ s, e s = uniformConv x k s

theorem whenQuiet_form (x : UExt) (f : Path → State → UEnd) : ConvForm x (whenQuiet x f) :=
  ⟨fun p s => if p.g.quiet then f p s else .stay (pathHold s p (.retry .waitc)), fun _ => rfl⟩

theorem mig_form (x : UExt) (kind : Nat) (id : BitVec 12) : ConvForm x (mig kind id x) := whenQuiet_form x _

theorem rega_form (x : UExt) (f : Path → State → UEnd) : ConvForm x (rega x f) :=
  ⟨fun p s => if p.g.loads.pend.isEmpty then f p s else .stay (pathHold s p (.retry .waitc)), fun _ => rfl⟩

/-- What every uniform instruction is: an effect of its path, once its group is there or at once. -/
theorem uniform_form {i : Instr} {x : UExt} (h : i.uext = some x) :
    ∃ k, ∀ s, exec i s = if meets i then uniformConv x k s else uniform x k s := by
  cases i <;> cases h
  case barArrive => exact arrival_form _ _ _
  case barArriveCnt => exact arrival_form _ _ _
  case barSync => exact arrival_form _ _ _
  case taskPhase a => exact (whenQuiet_form x _ : ConvForm x (execTaskPhase a x))
  case taskMerge => exact (whenQuiet_form x _ : ConvForm x (execTaskMerge x))
  case migL imm => exact (mig_form x _ imm : ConvForm x (execMigL imm x))
  case migD imm => exact (mig_form x _ imm : ConvForm x (execMigD imm x))
  case migAuto imm => exact (mig_form x _ imm : ConvForm x (execMigAuto imm x))
  case regaGrowWait n => exact (rega_form x _ : ConvForm x (execRegaGrowWait n x))
  case regaGrowTry q n => exact (rega_form x _ : ConvForm x (execRegaGrowTry q n x))
  case regaShrink n => exact (rega_form x _ : ConvForm x (execRegaShrink n x))
  all_goals exact ⟨_, fun _ => rfl⟩

/-- A uniform instruction that waits for its group, which is there, and whose guard does not hold. -/
theorem uniformConv_off {s : State} {p : Path} {x : UExt} (h : pathOf s = some p) (hg : uguardHolds x p.g = false)
    (hw : ∀ n ∈ p.g.live, n ∈ p.lanes) (k : Path → State → UEnd) : uniformConv x k s = .next (atNext (freed s p) p) := by
  unfold uniformConv
  rw [h]
  simp only [(reconverged_iff p).2 hw, if_true, hg, Bool.false_eq_true, if_false, UEnd.out, pathTo_eq, pathHold_eq]
  rfl

/-- Settles O28: every uniform instruction is one of the two forms, whatever its effect. -/
theorem uniformInstructionResults : Obligations.UniformInstructionResults := by
  refine ⟨uniformResults, fun i x s p hx hp hg hmeets => ?_⟩
  obtain ⟨k, hk⟩ := uniform_form hx
  rw [hk]
  cases hm : meets i with
  | false => exact uniform_off hp hg k
  | true => exact uniformConv_off hp hg (hmeets hm) k

end Sys2Proof.Proofs
end
section
/-! PROOF of O32 (R69, R142, R385): what is published at the end of a phase reaches memory alone, so a slot is then as its turn leaves it. -/

namespace Sys2Proof.Proofs

open Sys2Proof Sys2Proof.Machine Sys2Proof.Claims Sys2Proof.Laws

/-! ### Engine data that takes its place in the order -/

/-- `t` is `s` but for the bytes of DRAM, what is queued and posted, what leases show, poison, and engine data not in the order yet. -/
def Landed (s t : State) : Prop :=
  t = { s with dram := t.dram, poolLeases := t.poolLeases, sysq := t.sysq, posted := t.posted, poison := t.poison, unpub := t.unpub,
               atOnce := t.atOnce }

namespace Landed

theorem refl (s : State) : Landed s s := rfl

theorem trans {s t u : State} (h : Landed s t) (k : Landed t u) : Landed s u := by
  unfold Landed at *
  rw [k, h]

theorem foldl {β : Type} {f : State → β → State} (hf : ∀ s x, Landed s (f s x)) (xs : List β) (s : State) : Landed s (xs.foldl f s) := by
  induction xs generalizing s with
  | nil => exact refl s
  | cons x xs ih => exact (hf s x).trans (ih _)

end Landed

theorem landed_physWrite (s : State) (pa : Nat) (v : Byte) : Landed s (physWrite s pa v) := by
  unfold physWrite
  split
  · rfl
  · split <;> rfl
  · rfl
  · rfl

theorem landed_physEach (s : State) (pa : Nat) (bs : List Byte) : Landed s (physEach s pa bs) := by
  induction bs generalizing s pa with
  | nil => exact .refl s
  | cons v vs ih => exact (landed_physWrite s pa v).trans (ih _ _)

theorem landed_physWrites (s : State) (pa : Nat) (bs : List Byte) : Landed s (physWrites s pa bs) := by
  unfold physWrites
  split
  · rfl
  · exact landed_physEach s pa bs

theorem landed_coverPlace (s : State) (pl : Place) (n : Nat) : Landed s (coverPlace s pl n) :=
  Landed.foldl (f := fun s k => coverPoison s (pl.shift k).unit.1 (pl.shift k).unit.2 1) (fun _ _ => rfl) (List.range n) s

theorem landed_poisonPlace (s : State) (pl : Place) (n : Nat) : Landed s (poisonPlace s pl n) :=
  Landed.foldl (f := addPoison) (fun _ _ => rfl) _ s

theorem landed_landPart (s : State) (q : Part16) : Landed s (landPart s q) := by
  have h (bs : List Byte) (n : Nat) : Landed s (coverPlace (physWrites s q.pa bs) (.phys q.pa) n) :=
    (landed_physWrites s q.pa bs).trans (landed_coverPlace _ _ n)
  unfold landPart
  dsimp only
  split
  · exact (h _ _).trans (landed_poisonPlace _ _ _)
  · exact h _ _

theorem landed_landWhere (s : State) (f : Unpub → Bool) (g : Update → Bool) : Landed s (landWhere s f g) := by
  have hfirst : Landed s { s with unpub := s.unpub.filter fun u => !f u, atOnce := s.atOnce.filter fun u => !g u } := rfl
  have hwrites := Landed.foldl (f := fun s (r : Nat × List Byte) => physWrites s r.1 r.2) (fun s r => landed_physWrites s r.1 r.2)
  have hupdates := Landed.foldl (f := landUpdate) fun s u => Landed.foldl landed_landPart u.parts s
  exact (hfirst.trans (hwrites _ _)).trans (hupdates _ _)

theorem landed_publish (s : State) (cmd : Nat) : Landed s (publish s cmd) := landed_landWhere s _ _

/-! ### Slots -/

theorem gridOf_modGrid (s : State) (id : Nat) (f : Grid → Grid) (hf : ∀ g, (f g).id = g.id) (k : Nat) :
    gridOf (modGrid s id f) k = if k = id then (gridOf s k).map f else gridOf s k := find_modified Grid.id id k f hf s.grids

/-- A slot of a unit's slots after it has changed. -/
theorem bind_slots {α : Type} (o : Option α) (slots : α → List BarSlot) (F : α → α) (n : Nat) (f : BarSlot → BarSlot)
    (hF : ∀ a, slots (F a) = (slots a).modify n f) : (o.map F).bind (fun x => (slots x)[n]?) = (o.bind fun x => (slots x)[n]?).map f := by
  cases o with
  | none => rfl
  | some a => simp [hF]

theorem slotOf_modSlot (s : State) (k : SlotKey) (f : BarSlot → BarSlot) : slotOf (modSlot s k f) k = (slotOf s k).map f := by
  cases k with
  | grp b g n =>
    have h := groupOf_modGroup s b g (fun x => { x with slots := x.slots.modify n f }) b g
    rw [if_pos ⟨rfl, rfl⟩] at h
    exact (congrArg (fun o => Option.bind o fun x : Group => x.slots[n]?) h).trans (bind_slots _ Group.slots _ n f fun _ => rfl)
  | blk b n =>
    have h := blockOf_modBlock s b (fun x => { x with slots := x.slots.modify n f }) (fun _ => rfl) b
    rw [if_pos rfl] at h
    exact (congrArg (fun o => Option.bind o fun x : Block => x.slots[n]?) h).trans (bind_slots _ Block.slots _ n f fun _ => rfl)
  | cls c n =>
    have h := clusterOf_modCluster s c (fun x => { x with slots := x.slots.modify n f }) (fun _ => rfl) c
    rw [if_pos rfl] at h
    exact (congrArg (fun o => Option.bind o fun x : Cluster => x.slots[n]?) h).trans (bind_slots _ Cluster.slots _ n f fun _ => rfl)
  | grd g n =>
    have h := gridOf_modGrid s g (fun x => { x with slots := x.slots.modify n f }) (fun _ => rfl) g
    rw [if_pos rfl] at h
    exact (congrArg (fun o => Option.bind o fun x : Grid => x.slots[n]?) h).trans (bind_slots _ Grid.slots _ n f fun _ => rfl)

theorem slotOf_landed {s t : State} (h : Landed s t) (k : SlotKey) : slotOf t k = slotOf s k := by
  unfold Landed at h
  rw [h]
  cases k <;> rfl

/-- What the release of a slot's waiters makes of a group. -/
def releasedGroup (k : SlotKey) (g : Group) : Group :=
  if g.imaged then g
  else { g with lanes := g.lanes.map fun l => match l.hold with
    | .slot j next _ _ => if j = k then { l with npc := next, hold := .none, once := false } else l
    | _ => l }

theorem releaseSlot_eq (s : State) (k : SlotKey) :
    releaseSlot s k = { s with blocks := s.blocks.map fun b => { b with groups := b.groups.map (releasedGroup k) } } := rfl

theorem releasedGroup_slots (k : SlotKey) (g : Group) : (releasedGroup k g).slots = g.slots := by
  unfold releasedGroup
  split <;> rfl

theorem releasedGroup_imaged (k : SlotKey) (g : Group) : (releasedGroup k g).imaged = g.imaged := by
  unfold releasedGroup
  split <;> rfl

/-- No lane of a released group waits on the slot. -/
theorem releasedGroup_free (k : SlotKey) {g : Group} (hg : g.imaged = false) {l : Lane} (hl : l ∈ (releasedGroup k g).lanes) (next : DWord)
    (sy pa : Bool) : l.hold ≠ .slot k next sy pa := by
  unfold releasedGroup at hl
  rw [hg] at hl
  obtain ⟨m, -, rfl⟩ := List.mem_map.1 hl
  cases hm : m.hold with
  | slot j q y z =>
    dsimp only
    by_cases hj : j = k
    · simp [hj]
    · simp [hj, hm]
  | _ => simp [hm]

theorem blockOf_releaseSlot (s : State) (k : SlotKey) (id : Nat) :
    blockOf (releaseSlot s k) id = (blockOf s id).map fun b => { b with groups := b.groups.map (releasedGroup k) } := by
  rw [releaseSlot_eq]
  unfold blockOf
  rw [List.find?_map]
  rfl

theorem slotOf_releaseSlot (s : State) (k j : SlotKey) : slotOf (releaseSlot s k) j = slotOf s j := by
  cases j with
  | grp b g n =>
    show ((blockOf (releaseSlot s k) b).bind fun x => x.group g).bind (fun x => x.slots[n]?) =
      ((blockOf s b).bind fun x => x.group g).bind fun x => x.slots[n]?
    rw [blockOf_releaseSlot]
    cases blockOf s b with
    | none => rfl
    | some bl =>
      simp only [Option.map_some, Option.bind_some, Block.group, List.getElem?_map]
      cases bl.groups[g]? with
      | none => rfl
      | some gr => simp only [Option.map_some, Option.bind_some, releasedGroup_slots]
  | blk b n =>
    show (blockOf (releaseSlot s k) b).bind (fun x => x.slots[n]?) = (blockOf s b).bind fun x => x.slots[n]?
    rw [blockOf_releaseSlot]
    cases blockOf s b <;> rfl
  | cls c n => rfl
  | grd g n => rfl

/-- What the phase's end needs, as the statement says it. -/
theorem complete_iff (b : BarSlot) : b.complete = true ↔ b.latch = some b.arrivals ∧ b.expected ≤ b.accrued := by
  unfold BarSlot.complete
  cases h : b.latch with
  | none => simp
  | some n =>
    simp only [Bool.and_eq_true, decide_eq_true_eq, Option.some.injEq]
    exact and_congr_left' eq_comm

/-- A slot, and its waiters, after it was changed and its phase completed or not. -/
theorem settleSlot_slot {s : State} {k : SlotKey} {b b1 : BarSlot} {f : BarSlot → BarSlot} (hb : slotOf s k = some b) (hf : f b = b1) :
    let t := settleSlot (modSlot s k f) k
    if b1.latch = some b1.arrivals ∧ b1.expected ≤ b1.accrued then
      slotOf t k = some { accrued := b1.accrued - b1.expected, parity := !b1.parity } ∧
      ∀ bl ∈ t.blocks, ∀ g ∈ bl.groups, g.imaged = false → ∀ l ∈ g.lanes, ∀ next sy pa, l.hold ≠ .slot k next sy pa
    else slotOf t k = some b1 := by
  have h1 : slotOf (modSlot s k f) k = some b1 := by rw [slotOf_modSlot, hb, ← hf]; rfl
  intro t
  have ht : t = if b1.complete then releaseSlot (b1.cmds.foldl publish (modSlot (modSlot s k f) k BarSlot.turned)) k else modSlot s k f := by
    show settleSlot (modSlot s k f) k = _
    unfold settleSlot
    rw [h1]
  by_cases hc : b1.complete = true
  · rw [if_pos ((complete_iff b1).1 hc), ht, if_pos hc]
    refine ⟨?_, fun bl hbl g hg himg l hl next sy pa => ?_⟩
    · rw [slotOf_releaseSlot, slotOf_landed (Landed.foldl landed_publish _ _), slotOf_modSlot, h1]
      rfl
    · rw [releaseSlot_eq] at hbl
      obtain ⟨b0, -, rfl⟩ := List.mem_map.1 hbl
      obtain ⟨g0, -, rfl⟩ := List.mem_map.1 hg
      rw [releasedGroup_imaged] at himg
      exact releasedGroup_free k himg hl next sy pa
  · rw [if_neg fun h => hc ((complete_iff b1).2 h), ht, if_neg hc]
    exact h1

/-- Settles O32: an arrival, an expectation and a byte count each change the slot and then look whether its phase is complete. -/
theorem slotPhases : Obligations.SlotPhases := by
  rintro s k b hb t b1 (⟨n, rfl, rfl⟩ | ⟨n, rfl, rfl⟩ | ⟨n, c, rfl, rfl⟩)
  · exact settleSlot_slot hb rfl
  · exact settleSlot_slot hb rfl
  · have h : addBytes s k n c = settleSlot (modSlot s k fun b => b.accrue n c) k := by
      unfold addBytes
      rw [hb]
    rw [h]
    exact settleSlot_slot hb rfl

end Sys2Proof.Proofs
end
section
/-! PROOF of O31 (R45, R142, R144, R267): an arrival looks at its slot through the state in which its group is gathered, which the slot
does not show. -/

namespace Sys2Proof.Proofs

open Sys2Proof Sys2Proof.Machine Sys2Proof.Claims Sys2Proof.Laws

/-! ### Lanes of a group whose path's lanes have changed -/

theorem lane_withLanes (p : Path) (f : Nat → Lane → Lane) (g : Group) {m : Nat} (hm : m < g.lanes.length) :
    (withLanes p f g).lane m = if m ∈ p.lanes then f m (g.lane m) else g.lane m := by
  simp [Group.lane, withLanes, hm]

theorem live_lane_withLanes (p : Path) {f : Nat → Lane → Lane} (hf : ∀ n l, (f n l).live = l.live) (g : Group) (m : Nat) :
    ((withLanes p f g).lane m).live = (g.lane m).live := by
  by_cases hm : m < g.lanes.length
  · rw [lane_withLanes p f g hm]
    split
    · exact hf _ _
    · rfl
  · rw [lane_out hm, lane_out (g := withLanes p f g) (by simpa [withLanes] using hm)]

theorem live_withLanes (p : Path) {f : Nat → Lane → Lane} (hf : ∀ n l, (f n l).live = l.live) (g : Group) :
    (withLanes p f g).live = g.live :=
  List.filter_congr fun m _ => live_lane_withLanes p hf g m

/-- A live lane is one of the group's lanes. -/
theorem lt_of_live {g : Group} {m : Nat} (h : m ∈ g.live) : m < g.lanes.length := by
  by_contra hm
  have hl : (g.lane m).live = true := by simpa [Group.live] using (List.mem_filter.1 h).2
  rw [lane_out hm] at hl
  exact Bool.false_ne_true hl

theorem PathGroup.live_eq {s : State} {p : Path} {g : Group} (h : PathGroup s p g) : p.g.live = g.live :=
  List.filter_congr fun m _ => congrArg Lane.live (h.lane_eq m)

/-! ### Held paths -/

/-- Where a path is held, its lanes are as if they had not been freed before. -/
theorem held_freed (s : State) (p : Path) (h : Hold) : held (freed s p) p h = held s p h := by
  unfold held freed
  rw [withGroup_comp]
  refine congrArg (withGroup s p) (funext fun g => ?_)
  simp only [Function.comp, withLanes, List.mapIdx_mapIdx]
  refine congrArg (fun ls => { g with lanes := ls }) (List.mapIdx_eq_mapIdx_iff.2 fun n hn => ?_)
  by_cases hm : n ∈ p.lanes <;> simp [hm]

/-- A group that waits for a lane that is not held for reconvergence has not diverged. -/
theorem not_diverged {g : Group} {m : Nat} (hm : m ∈ g.live) (hh : (g.lane m).hold ≠ .reconv) : diverged g = false := by
  unfold diverged
  rw [Bool.and_eq_false_iff]
  refine .inl (List.all_eq_false.2 ⟨m, hm, ?_⟩)
  simpa using hh

/-- A path that has not every live lane of its group with it is held. -/
theorem holdReconv_eq {s : State} {p : Path} (hp : pathOf s = some p) {m : Nat} (hlive : m ∈ p.g.live) (hm : m ∉ p.lanes)
    (hh : (p.g.lane m).hold ≠ .reconv) : holdReconv s p = held s p .reconv := by
  obtain ⟨g, hpg⟩ := pathGroup_of_pathOf hp
  rw [hpg.live_eq] at hlive
  rw [hpg.lane_eq] at hh
  unfold holdReconv
  rw [pathHold_eq]
  unfold checkDiverged
  have hg : groupOf (held s p .reconv) p.iss.blk p.iss.grp =
      some (withLanes p (fun _ l => { l with hold := .reconv, once := false, seen := none }) g) := groupOf_withGroup hpg _
  have hd : diverged (withLanes p (fun _ l => { l with hold := .reconv, once := false, seen := none }) g) = false := by
    refine not_diverged (m := m) ?_ ?_
    · rw [live_withLanes]
      · exact hlive
      · exact fun _ _ => rfl
    · rw [lane_withLanes p _ g (lt_of_live hlive), if_neg hm]
      exact hh
  rw [hg]
  simp only [hd, Bool.false_and, Bool.false_eq_true, if_false]

theorem conv_holds {s : State} {p : Path} {x : UExt} (hp : pathOf s = some p) {m : Nat} (hlive : m ∈ p.g.live) (hm : m ∉ p.lanes)
    (hh : (p.g.lane m).hold ≠ .reconv) (k : Path → State → UEnd) : uniformConv x k s = .next (held s p .reconv) := by
  have hr : reconverged p = false := by
    unfold reconverged
    refine List.all_eq_false.2 ⟨m, hlive, ?_⟩
    simpa using hm
  unfold uniformConv
  rw [hp]
  simp only [hr, Bool.false_eq_true, if_false, holdReconv_eq hp hlive hm hh]

theorem barrierHolds : BarrierHolds := by
  intro desc slot level x s p m hlevel hp hlive hm hh
  have harr (f : Path → State → UEnd) : arrival x level f s = .next (held s p .reconv) := by
    unfold arrival
    rw [if_neg hlevel]
    exact conv_holds hp hlive hm hh _
  exact ⟨harr _, harr _⟩

/-! ### Slots, as a state with the issuing group changed shows them -/

/-- A change of a group that its slots and its live lanes do not show. -/
structure KeepsSlots (G : Group → Group) : Prop where
  slots : ∀ g, (G g).slots = g.slots
  live : ∀ g, (G g).live = g.live

theorem slotOf_withGroup {G : Group → Group} (hG : KeepsSlots G) (s : State) (p : Path) (k : SlotKey) :
    slotOf (withGroup s p G) k = slotOf s k := by
  cases k with
  | grp b g n =>
    show (groupOf (withGroup s p G) b g).bind (fun x => x.slots[n]?) = (groupOf s b g).bind fun x => x.slots[n]?
    rcases groupOf_keeps (G := G) s p b g with e | e <;> rw [e]
    cases groupOf s b g with
    | none => rfl
    | some gr => simp only [Option.map_some, Option.bind_some, hG.slots]
  | blk b n =>
    have h := blockOf_map_withGroup s p G b Block.slots fun _ _ => rfl
    have hbind (o : Option Block) : (o.bind fun x => x.slots[n]?) = (o.map Block.slots).bind fun x => x[n]? := by cases o <;> rfl
    exact (hbind _).trans ((congrArg (fun o => Option.bind o fun x => x[n]?) h).trans (hbind _).symm)
  | cls c n => rfl
  | grd g n => rfl

/-- The groups of a block that have not ended, one of them changed. -/
theorem liveGroups_modGroup {G : Group → Group} (hG : ∀ g, (G g).live = g.live) (b : Block) (gi : Nat) :
    (b.modGroup gi G).liveGroups = b.liveGroups := by
  unfold Block.liveGroups Block.modGroup
  dsimp only
  rw [List.length_modify]
  refine List.filter_congr fun k _ => ?_
  rw [List.getElem?_modify]
  by_cases hk : gi = k
  · cases b.groups[k]? with
    | none => simp
    | some g => simp [hk, Group.ended, hG]
  · simp [hk]

theorem members_withGroup {G : Group → Group} (hG : KeepsSlots G) (s : State) (p : Path) (k : SlotKey) :
    members (withGroup s p G) k = members s k := by
  cases k with
  | blk b n =>
    exact congrArg (Option.getD · 0) (blockOf_map_withGroup s p G b (fun x => x.liveGroups.length) fun b g =>
      congrArg List.length (liveGroups_modGroup hG.live b g))
  | _ => rfl

theorem keepsSlots_freed (p : Path) : KeepsSlots (withLanes p fun _ l => { l with hold := .none, once := false, seen := none }) :=
  ⟨fun _ => rfl, live_withLanes p fun _ _ => rfl⟩

theorem keepsSlots_udst (n : Nat) (v : DWord) : KeepsSlots fun g => g.udst n v := ⟨fun _ => rfl, fun _ => rfl⟩

theorem slotOf_gathered (s : State) (p : Path) (level : BitVec 2) (k : SlotKey) : slotOf (gathered s p level) k = slotOf s k := by
  unfold gathered
  split
  · rfl
  · exact slotOf_withGroup (keepsSlots_freed p) s p k

theorem members_gathered (s : State) (p : Path) (level : BitVec 2) (k : SlotKey) : members (gathered s p level) k = members s k := by
  unfold gathered
  split
  · rfl
  · exact members_withGroup (keepsSlots_freed p) s p k

theorem parityOf_gathered (s : State) (p : Path) (level : BitVec 2) (k : SlotKey) : parityOf (gathered s p level) k = parityOf s k := by
  unfold parityOf
  rw [slotOf_gathered]

/-! ### Arrivals -/

theorem quiet_iff (p : Path) : p.quiet = true ↔ Settled p := by
  simp [Path.quiet, Settled]

/-- An arrival of a path that is together: its effect on the state in which its lanes are gathered, once earlier accesses are complete. -/
theorem arrival_runs {s : State} {p : Path} {x : UExt} {level : BitVec 2} (h : URuns s p x) (ht : Together p level)
    (f : Path → State → UEnd) : arrival x level f s = (if p.quiet then f p (gathered s p level)
      else .stay (pathHold (gathered s p level) p (.retry .waitc))).out p := by
  unfold arrival gathered
  by_cases hl : level = 0
  · simp only [hl, if_true]
    exact uniform_runs h _
  · simp only [hl, if_false]
    exact conv_runs h (ht.resolve_left hl) _

theorem arrival_waits {s : State} {p : Path} {x : UExt} {level : BitVec 2} (h : URuns s p x) (ht : Together p level)
    (hs : ¬Settled p) (f : Path → State → UEnd) : arrival x level f s = .next (held s p (.retry .waitc)) := by
  have hq : p.quiet = false := by rw [← quiet_iff] at hs; simpa using hs
  rw [arrival_runs h ht, hq]
  simp only [Bool.false_eq_true, if_false, UEnd.out, pathHold_eq]
  refine congrArg Host.Outcome.next ?_
  unfold gathered
  split
  · rfl
  · exact held_freed s p _

theorem arrival_settled {s : State} {p : Path} {x : UExt} {level : BitVec 2} (h : URuns s p x) (ht : Together p level)
    (hs : Settled p) (f : Path → State → UEnd) : arrival x level f s = (f p (gathered s p level)).out p := by
  rw [arrival_runs h ht, (quiet_iff p).2 hs, if_pos rfl]

/-- A member count turns no arrival away when a count is latched, or when it is one of 31 bits. -/
theorem arriveTrap_members {s : State} {k : SlotKey} (h : (slotOf s k).bind BarSlot.latch ≠ none ∨ members s k < 2 ^ 31) (level : BitVec 2)
    (slot : BitVec 4) : arriveTrap s k level slot none = none := by
  unfold arriveTrap
  cases hl : (slotOf s k).bind BarSlot.latch with
  | none =>
    have hm := h.resolve_left (not_not.2 hl)
    exact if_neg (Nat.not_le.2 hm)
  | some n => rfl

/-- A count that agrees turns no arrival away. -/
theorem arriveTrap_count {s : State} {k : SlotKey} {n : Nat} (h : (slotOf s k).bind BarSlot.latch = some n ∨
    (slotOf s k).bind BarSlot.latch = none ∧ 0 < n ∧ n ≤ members s k ∧ n < 2 ^ 31) (level : BitVec 2)
    (slot : BitVec 4) : arriveTrap s k level slot (some n) = none := by
  unfold arriveTrap
  rcases h with hl | ⟨hl, hpos, hle, hlt⟩
  · rw [hl]
    exact if_pos rfl
  · rw [hl]
    refine if_neg ?_
    simp only [Bool.or_eq_true, decide_eq_true_eq]
    omega

theorem arriveTrap_gathered (s : State) (p : Path) (k : SlotKey) (level : BitVec 2) (slot : BitVec 4) (count : Option Nat) :
    arriveTrap (gathered s p level) k level slot count = arriveTrap s k level slot count := by
  unfold arriveTrap
  rw [slotOf_gathered, members_gathered]

/-- An arrival that is taken writes the parity and arrives. -/
theorem arriveAt_taken {s : State} {p : Path} {x : UExt} {level : BitVec 2} {slot : BitVec 4} (h : URuns s p x) (ht : Together p level)
    (hs : Settled p) (desc : BitVec 6) (count : Path → Option Nat)
    (hc : arriveTrap s (slotKey p level slot) level slot (count p) = none) :
    arriveAt x desc slot level count s = .next (atNext (arriveSlot (withGroup (gathered s p level) p fun g =>
      g.udst desc.toNat (if parityOf s (slotKey p level slot) then 1 else 0)) (slotKey p level slot)
        ((count p).getD (members s (slotKey p level slot)))) p) := by
  unfold arriveAt
  rw [arrival_settled h ht hs]
  dsimp only
  rw [arriveTrap_gathered, hc]
  dsimp only
  unfold pathGroup
  rw [modGroup_eq, members_withGroup (keepsSlots_udst _ _), members_gathered, parityOf_gathered]
  exact congrArg Host.Outcome.next (pathTo_eq _ p p.iss.next)

theorem arriveResults : ArriveResults := by
  constructor
  · intro desc addr slot level x s p h ht hs i hi
    have hw := arrival_waits h ht hs
    simp only [List.mem_cons, List.not_mem_nil, or_false] at hi
    rcases hi with rfl | rfl | rfl
    · exact hw _
    · exact hw _
    · exact hw _
  · intro desc addr slot level x s p h ht hs
    refine ⟨fun hl => ?_, fun n hn hl => ?_⟩
    · exact arriveAt_taken h ht hs desc (fun _ => none) (arriveTrap_members hl level slot)
    · have hcount : (p.g.usrc addr.toNat).toNat % 2 ^ 32 = n := by
        rw [hn, extractLsb'_zero, BitVec.toNat_setWidth]
      have ha := arriveAt_taken h ht hs desc (fun p => some ((p.g.usrc addr.toNat).toNat % 2 ^ 32))
        (by rw [hcount]; exact arriveTrap_count hl level slot)
      rw [hcount] at ha
      exact ha

/-! ### Waits -/

theorem waitAt_out (p : Path) (s : State) (k : SlotKey) (sync parity : Bool) : (waitAt p s k sync parity).out p =
    .next (if parityOf s k = parity then held s p (.slot k p.iss.next sync parity) else atNext s p) := by
  unfold waitAt
  by_cases hp : parityOf s k = parity
  · rw [if_neg (not_not.2 hp), if_pos hp]
    exact congrArg Host.Outcome.next (pathHold_eq s p _)
  · rw [if_pos hp, if_neg hp]
    exact congrArg Host.Outcome.next (pathTo_eq s p p.iss.next)

theorem waitResults : WaitResults := by
  intro desc slot level x s p h
  refine ⟨?_, fun b n hb hn hlt => ?_, fun ht hs hl => ?_⟩
  · show execBarWait desc slot level x s = _
    unfold execBarWait
    rw [uniform_runs h]
    exact waitAt_out p s _ false _
  · have hcount : (p.g.usrc desc.toNat).toNat % 2 ^ 32 = n := by
      rw [hn, extractLsb'_zero, BitVec.toNat_setWidth]
    show execBarExpect desc slot level x s = _
    unfold execBarExpect
    refine uniform_done h ?_
    simp only [hcount, hb, if_neg (Nat.not_le.2 hlt)]
  · show execBarSync slot level x s = _
    unfold execBarSync
    rw [arrival_settled h ht hs]
    dsimp only
    rw [arriveTrap_gathered, arriveTrap_members hl level slot]
    dsimp only
    rw [members_gathered, parityOf_gathered]
    exact waitAt_out p _ _ true _

/-- Settles O31. -/
theorem barrierResults : Obligations.BarrierResults := ⟨barrierHolds, arriveResults, waitResults⟩

end Sys2Proof.Proofs
end
section
/-! PROOF of O33 (R133, R141, R271, R272): `waitc` and the fences look at lists of operations and at what is queued and posted. -/

namespace Sys2Proof.Proofs

open Sys2Proof Sys2Proof.Machine Sys2Proof.Claims Sys2Proof.Laws

/-- At most the last `n` operations of a list are incomplete. -/
theorem done_iff (c : CountList) (n : Nat) : c.done n = true ↔ ∀ e ∈ c.pend, c.issued ≤ e + n := by
  simp [CountList.done]

/-- A uniform instruction that holds its path where it stands. -/
theorem uniform_hold {s : State} {p : Path} {x : UExt} {h : Hold} (hruns : URuns s p x) {k : Path → State → UEnd}
    (hk : k p s = .stay (pathHold s p h)) : uniform x k s = .next (held s p h) := by
  rw [uniform_stay hruns hk, pathHold_eq]

theorem waitc_goes {s : State} {p : Path} {x : UExt} (h : URuns s p x) (nl ns nc nt : BitVec 4)
    (hdone : (p.g.loads.done nl.toNat && p.g.stores.done ns.toNat && p.g.copies.done nc.toNat && p.g.tiles.done nt.toNat) = true) :
    exec (.waitc nl ns nc nt x) s = .next (atNext (withGroup
      ((p.g.copies.required nc.toNat ++ p.g.tiles.required nt.toNat).foldl publish s) p fun g =>
        { g with copies := g.copies.forget nc.toNat, tiles := g.tiles.forget nt.toNat }) p) := by
  show execWaitc nl ns nc nt x s = _
  unfold execWaitc
  refine uniform_done h ?_
  simp only [hdone, if_true]
  rfl

theorem waitc_waits {s : State} {p : Path} {x : UExt} (h : URuns s p x) (nl ns nc nt : BitVec 4)
    (hdone : (p.g.loads.done nl.toNat && p.g.stores.done ns.toNat && p.g.copies.done nc.toNat && p.g.tiles.done nt.toNat) = false) :
    exec (.waitc nl ns nc nt x) s = .next (held s p (.retry .waitc)) := by
  show execWaitc nl ns nc nt x s = _
  unfold execWaitc
  refine uniform_hold h ?_
  simp only [hdone, Bool.false_eq_true, if_false]

/-! ### Fences -/

/-- An access to system-class memory by lane `n` is not complete. -/
theorem sysOf_iff (c : CountList) (n : Nat) : c.sysOf n = true ↔ ∃ e ∈ c.lanes, e.1 ∈ c.sys ∧ e.2.getLsbD n = true := by
  simp [CountList.sysOf]

theorem sysOpen_iff (p : Path) : p.sysOpen = true ↔ ∃ n ∈ p.lanes, p.g.loads.sysOf n = true ∨ p.g.stores.sysOf n = true := by
  simp [Path.sysOpen]

theorem dropLeases_eq (s : State) (core : Nat) :
    dropLeases s core = { s with poolLeases := s.poolLeases.filter fun l => l.core != core } := by
  unfold dropLeases
  simp only [bne, beq_eq_decide, ne_eq, decide_not]

theorem fenceAcq_open {p : Path} (h : p.sysOpen = true) (s : State) : fenceAcq p s = .stay (pathHold s p (.retry .waitc)) := if_pos h

theorem fenceAcq_clear {p : Path} (h : p.sysOpen = false) (s : State) : fenceAcq p s = .done (dropLeases s p.b.core) := by
  unfold fenceAcq
  rw [h]
  exact if_neg Bool.false_ne_true

theorem fenceRel_waits {s : State} {p : Path} {x : UExt} (h : URuns s p x) (hu : unreleased s p.b.part = true)
    (f : Path → State → UEnd) : fenceRel x f s = .next (held s p (.retry .fence)) := by
  unfold fenceRel
  exact uniform_hold h (by simp only [hu, if_true])

theorem fenceRel_goes {s : State} {p : Path} {x : UExt} (h : URuns s p x) (hu : unreleased s p.b.part = false)
    (f : Path → State → UEnd) : fenceRel x f s = uniform x f s := by
  unfold fenceRel
  rw [uniform_runs h, uniform_runs h]
  simp only [hu, Bool.false_eq_true, if_false]

theorem acquire_goes {s : State} {p : Path} {x : UExt} (h : URuns s p x) (hs : p.sysOpen = false) :
    uniform x fenceAcq s = .next (atNext { s with poolLeases := s.poolLeases.filter fun l => l.core != p.b.core } p) := by
  rw [uniform_done h (fenceAcq_clear hs s), dropLeases_eq]

theorem acquire_waits {s : State} {p : Path} {x : UExt} (h : URuns s p x) (hs : p.sysOpen = true) :
    uniform x fenceAcq s = .next (held s p (.retry .waitc)) := uniform_hold h (fenceAcq_open hs s)

/-- Settles O33. -/
theorem completionResults : Obligations.CompletionResults := by
  intro x s p h
  refine ⟨fun nl ns nc nt => ?_, ?_⟩
  · have hall : (p.g.loads.done nl.toNat && p.g.stores.done ns.toNat && p.g.copies.done nc.toNat && p.g.tiles.done nt.toNat) = true ↔
        (∀ e ∈ p.g.loads.pend, p.g.loads.issued ≤ e + nl.toNat) ∧ (∀ e ∈ p.g.stores.pend, p.g.stores.issued ≤ e + ns.toNat) ∧
        (∀ e ∈ p.g.copies.pend, p.g.copies.issued ≤ e + nc.toNat) ∧ ∀ e ∈ p.g.tiles.pend, p.g.tiles.issued ≤ e + nt.toNat := by
      simp only [Bool.and_eq_true, done_iff, and_assoc]
    intro few due keep
    refine ⟨fun hd => waitc_goes h nl ns nc nt (hall.2 hd), fun hd => waitc_waits h nl ns nc nt ?_⟩
    rw [← Bool.not_eq_true, hall]
    exact hd
  · intro acquired waits far
    have hopen : p.sysOpen = true ↔ ∃ n ∈ p.lanes, far p.g.loads n ∨ far p.g.stores n := by
      simp only [sysOpen_iff, sysOf_iff, far]
    refine ⟨fun hu => ?_, fun hn => ?_, fun hn => ?_, fun hu => ?_⟩
    · exact (fenceRel_goes h hu fun _ s => .done s).trans (uniform_done h rfl)
    · have hs : p.sysOpen = false := by
        rw [← Bool.not_eq_true, hopen]
        rintro ⟨n, hmem, hf⟩
        exact (not_or.2 (hn n hmem)) hf
      exact ⟨acquire_goes h hs, fun hu => (fenceRel_goes h hu fenceAcq).trans (acquire_goes h hs)⟩
    · have hs := hopen.2 hn
      exact ⟨acquire_waits h hs, fun hu => (fenceRel_goes h hu fenceAcq).trans (acquire_waits h hs)⟩
    · exact ⟨fenceRel_waits h hu _, fenceRel_waits h hu _⟩

end Sys2Proof.Proofs
end
section
/-! REFUTATION of O25 (R50, R352): the statement says of every state what a guest breakpoint before the entry into a regroup pool leaves
unchanged. Where the lane that issues is marked as one of the pool, which no run reaches, the model counts it as entered and opens a round. -/

namespace Sys2Proof.Proofs

open Sys2Proof Sys2Proof.Machine Sys2Proof.Claims Sys2Proof.Tests

/-- The block of two groups whose issuing lane is marked as one of the pool, at a guest breakpoint. -/
def marked : Block :=
  { brkBlock 1 with groups := (brkBlock 1).groups.modify 0 fun g => g.modLane 0 fun l => { l with hold := .pool } }

/-- The machine in which it issues. -/
def markedS : State := { brkS 1 with blocks := [marked] }

/-- Whether the first block has a round. -/
def opened (o : Out) : Option Bool :=
  match o with
  | .next t => t.blocks.head?.map fun b => b.round.isSome
  | _ => none

/-- The model opens a round as the lane traps. -/
theorem opened_exec : opened (exec (.guestDispatchRg {}) markedS) = some true := by decide +kernel

/-- The stated state has none. -/
theorem opened_stated (r : TrapRec) : opened (.next (stopIn (withGroup markedS (tPath marked 1)
    (withLanes (tPath marked 1) fun _ l => { l with once := false })) (tPath marked 1) [r])) = some false := rfl

theorem marked_other : ∃ q g j, (tPath marked 1).b.group q = some g ∧ g.stop = none ∧ (g.lane j).live = true ∧ j < 32 ∧
    (g.lane j).hold ≠ .pool ∧ q ≠ (tPath marked 1).iss.grp :=
  ⟨1, tGroup [tLane []], 0, rfl, rfl, rfl, by decide, by decide, by decide⟩

/-- Refutes O25: `guest.dispatch.rg` at a guest breakpoint, of a lane marked as one of the pool, opens a round. -/
theorem not_breakAndCallTraps : ¬ Obligations.BreakAndCallTraps := by
  rintro ⟨-, -, -, -, hpool, -⟩
  obtain ⟨r, hexec, -⟩ := hpool {} markedS (tPath marked 1) 0 0 rfl (by decide) (by decide) (by decide) rfl marked_other
    (by decide +kernel)
  have h := opened_exec
  rw [hexec, opened_stated] at h
  exact absurd h (by decide)

end Sys2Proof.Proofs
end
section
/-! PROOF of O26 (R25, R230): executing lanes that exit are dead lanes; while others live, nothing more follows, and when none does, the
block's last group ends and the block with it. -/

namespace Sys2Proof.Proofs

open Sys2Proof Sys2Proof.Machine Sys2Proof.Claims Sys2Proof.Laws

/-! ### Lanes of a group -/

theorem lane_modLanes (g : Group) (ls : List Nat) (f : Nat → Lane → Lane) {n : Nat} (hn : n < g.lanes.length) :
    (g.modLanes ls f).lane n = if n ∈ ls then f n (g.lane n) else g.lane n := by
  simp [Group.lane, Group.modLanes, hn]

theorem length_modLanes (g : Group) (ls : List Nat) (f : Nat → Lane → Lane) : (g.modLanes ls f).lanes.length = g.lanes.length := by
  simp [Group.modLanes]

theorem mem_live_iff (g : Group) (n : Nat) : n ∈ g.live ↔ n < 32 ∧ (g.lane n).live = true := by
  simp [Group.live]

/-- The group as the instruction reads it is the group but for uniform registers and predicates. -/
theorem asRead_of_pathOf {s : State} {p : Path} {g : Group} (hp : pathOf s = some p) (hpg : PathGroup s p g) :
    p.g = { g with ureg := p.g.ureg, upred := p.g.upred } := by
  unfold pathOf at hp
  obtain ⟨b, hb, hp⟩ := Option.bind_eq_some_iff.1 hp
  obtain ⟨g', hg', rfl⟩ := Option.map_eq_some_iff.1 hp
  have hgg : g' = g := Option.some_inj.1 (hg'.symm.trans hpg.group)
  subst hgg
  unfold Group.asRead
  dsimp only
  split <;> rfl

/-- The group whose lanes that are of the path and do not execute have gone on. -/
def movedOn (p : Path) (x : LExt) (g : Group) : Group :=
  g.modLanes (p.lanes.filter fun n => !(p.exec x).contains n) fun _ l => l.advance p.iss.next

/-- The group as the exit leaves its lanes: the executing ones dead, the others of the path at NEXT. -/
def exited (s : State) (p : Path) (x : LExt) (g : Group) : Group :=
  (movedOn p x g).modLanes (p.exec x) fun i _ => deadLane (drawOf s i 300) g.budget

section
variable {s : State} {p : Path} {x : LExt} {g : Group}

theorem lane_exited_of_exec {n : Nat} (hn : n ∈ p.exec x) (hlt : n < g.lanes.length) :
    (exited s p x g).lane n = deadLane (drawOf s n 300) g.budget := by
  unfold exited movedOn
  rw [lane_modLanes _ _ _ (by rwa [length_modLanes]), if_pos hn]

theorem lane_exited_of_not_exec {n : Nat} (hn : n ∉ p.exec x) (hlt : n < g.lanes.length) :
    (exited s p x g).lane n = if n ∈ p.lanes then goTo (g.lane n) p.iss.next else g.lane n := by
  unfold exited movedOn
  rw [lane_modLanes _ _ _ (by rwa [length_modLanes]), if_neg hn, lane_modLanes _ _ _ hlt]
  by_cases hl : n ∈ p.lanes <;> simp [hl, hn, Lane.advance, goTo]

/-- Executing lanes live no more, the others as before. -/
theorem live_lane_exited (n : Nat) : ((exited s p x g).lane n).live = (!(p.exec x).contains n && (g.lane n).live) := by
  by_cases hlt : n < g.lanes.length
  · by_cases hn : n ∈ p.exec x
    · rw [lane_exited_of_exec hn hlt]
      simp [hn, deadLane]
    · rw [lane_exited_of_not_exec hn hlt]
      split <;> simp [hn, goTo]
  · rw [lane_out hlt, lane_out (g := exited s p x g) (by unfold exited movedOn; rwa [length_modLanes, length_modLanes])]
    simp

end

/-- `ctl.exit` of a block without views whose group spawns nothing: the executing lanes exit. -/
theorem exec_exit {s : State} {p : Path} {x : LExt} (hp : pathOf s = some p) (he : p.exec x ≠ []) (hviews : p.b.views = [])
    (hfam : p.g.family = none) :
    exec (.ctlExit x) s = .next (exitLanes (withGroup s p (movedOn p x)) p.iss.blk p.iss.grp (p.exec x)) := by
  have hb : familyBroken (withGroup s p (movedOn p x)) p.g = false := by
    unfold familyBroken
    rw [hfam]
    rfl
  have hne : (p.exec x).isEmpty = false := by simpa using he
  have hx : exec (.ctlExit x) s = .next (exitPath x p s) := by
    show execCtlExit x s = _
    unfold execCtlExit
    rw [hp]
  rw [hx]
  unfold exitPath
  dsimp only
  rw [show (pathGroup s p fun g => g.modLanes (p.lanes.filter fun n => !(p.exec x).contains n) fun _ l => l.advance p.iss.next) =
    withGroup s p (movedOn p x) from rfl, hb, hviews, hne]
  simp only [List.isEmpty_nil, Bool.not_true, Bool.and_false, Bool.false_eq_true, if_false]

/-- The state after the executing lanes are dropped. -/
theorem dropLanes_exited (s : State) (p : Path) (x : LExt) : ∃ feq poison, dropLanes (withGroup s p (movedOn p x)) p.iss.blk p.iss.grp
    (p.exec x) = { withGroup s p (exited s p x) with feq := feq, poison := poison } := by
  unfold dropLanes
  dsimp only
  rw [modGroup_eq, withGroup_comp]
  exact ⟨_, _, rfl⟩

/-! ### While other threads of the group live -/

/-- A change of a group that keeps its lanes that are not held, who lives, and its own registers. -/
structure Releases (H : Group → Group) : Prop where
  free : ∀ g n, (g.lane n).hold = .none → (H g).lane n = g.lane n
  live : ∀ g, (H g).live = g.live
  ureg : ∀ g, (H g).ureg = g.ureg
  upred : ∀ g, (H g).upred = g.upred

theorem Releases.comp {H K : Group → Group} (hH : Releases H) (hK : Releases K) : Releases (K ∘ H) where
  free g n h := by
    have e := hH.free g n h
    exact (hK.free (H g) n (by rw [e]; exact h)).trans e
  live g := (hK.live (H g)).trans (hH.live g)
  ureg g := (hK.ureg (H g)).trans (hH.ureg g)
  upred g := (hK.upred (H g)).trans (hH.upred g)

/-- A lane that waits for the others of a full/empty instruction at an address, released. -/
def feGone (pc : DWord) (l : Lane) : Lane :=
  match l.hold with
  | .feDone next => if l.npc = pc then { l with npc := next, hold := .none, once := false } else l
  | _ => l

theorem feGone_live (pc : DWord) (l : Lane) : (feGone pc l).live = l.live := by
  unfold feGone
  split
  · split <;> rfl
  · rfl

theorem lane_map (g : Group) {f : Lane → Lane} (hf : f {} = {}) (n : Nat) : ({ g with lanes := g.lanes.map f } : Group).lane n = f (g.lane n) := by
  unfold Group.lane
  rw [List.getElem?_map]
  cases g.lanes[n]? with
  | none => exact hf.symm
  | some l => rfl

theorem releases_feGone (pc : DWord) : Releases fun g => { g with lanes := g.lanes.map (feGone pc) } where
  free g n h := by
    rw [lane_map g rfl]
    unfold feGone
    rw [h]
  live g := List.filter_congr fun n _ => by rw [lane_map g rfl, feGone_live]
  ureg _ := rfl
  upred _ := rfl

theorem releases_id : Releases fun g => g := ⟨fun _ _ _ => rfl, fun _ => rfl, fun _ => rfl, fun _ => rfl⟩

/-- What the release of lanes at an address can do. -/
theorem feRelease_releases (s : State) (p : Path) (pc : DWord) :
    ∃ H, Releases H ∧ feRelease s p.iss.blk p.iss.grp pc = withGroup s p H := by
  unfold feRelease
  split
  · exact ⟨_, releases_id, (withGroup_self s p).symm⟩
  · dsimp only
    split
    · exact ⟨_, releases_id, (withGroup_self s p).symm⟩
    · exact ⟨_, releases_feGone pc, rfl⟩

theorem feRelease_all (s : State) (p : Path) (pcs : List DWord) :
    ∃ H, Releases H ∧ pcs.foldl (fun s pc => feRelease s p.iss.blk p.iss.grp pc) s = withGroup s p H := by
  induction pcs generalizing s with
  | nil => exact ⟨_, releases_id, (withGroup_self s p).symm⟩
  | cons pc pcs ih =>
    obtain ⟨H, hH, e⟩ := feRelease_releases s p pc
    obtain ⟨K, hK, e'⟩ := ih (withGroup s p H)
    refine ⟨K ∘ H, hH.comp hK, ?_⟩
    rw [List.foldl_cons, e, e', withGroup_comp]

/-- A group of which some live lane is not held does not wait for reconvergence. -/
theorem recheckReconv_free {s : State} {blk grp : Nat} {g : Group} (hg : groupOf s blk grp = some g) {n : Nat} (hn : n ∈ g.live)
    (hh : (g.lane n).hold = .none) : recheckReconv s blk grp = s := by
  have hall : (g.live.all fun i => (g.lane i).hold = .reconv) = false := List.all_eq_false.2 ⟨n, hn, by simp [hh]⟩
  unfold recheckReconv
  rw [hg]
  simp only [hall, Bool.not_false, Bool.or_true, if_true]

/-- Without a round there is none to close. -/
theorem checkRound_none {s : State} {blk : Nat} (h : ∀ b, blockOf s blk = some b → b.round = none) : checkRound s blk = s := by
  unfold checkRound
  split
  · next b hb => rw [h b hb]; rfl
  · rfl

/-- What follows an exit that leaves a thread which is not held. -/
theorem afterExit_free {s : State} {p : Path} {g : Group} (hg : groupOf s p.iss.blk p.iss.grp = some g) {n : Nat} (hn : n ∈ g.live)
    (hh : (g.lane n).hold = .none) (hround : ∀ b, blockOf s p.iss.blk = some b → b.round = none) :
    ∃ H, Releases H ∧ afterExit s p.iss.blk p.iss.grp = withGroup s p H := by
  obtain ⟨H, hH, e⟩ := feRelease_all s p (g.live.map fun i => (g.lane i).npc).eraseDups
  have hended : g.ended = false := by
    unfold Group.ended
    cases hl : g.live with
    | nil => rw [hl] at hn; cases hn
    | cons _ _ => rfl
  have hg' : groupOf (withGroup s p H) p.iss.blk p.iss.grp = some (H g) := by
    have := groupOf_modGroup s p.iss.blk p.iss.grp H p.iss.blk p.iss.grp
    rw [if_pos ⟨rfl, rfl⟩, hg] at this
    exact this
  refine ⟨H, hH, ?_⟩
  unfold afterExit
  rw [hg]
  simp only [hended, Bool.false_eq_true, if_false]
  rw [e, recheckReconv_free hg' (by rw [hH.live]; exact hn) (by rw [hH.free g n hh]; exact hh), checkRound_none]
  intro b hb
  rw [blockOf_withGroup, if_pos rfl] at hb
  obtain ⟨b0, hb0, rfl⟩ := Option.map_eq_some_iff.1 hb
  exact hround b0 hb0

/-! ### The last threads of a block -/

/-- Every group of the block that the state finds under a number has ended. -/
def AllEnded (s : State) (blk : Nat) : Prop := ∀ b, blockOf s blk = some b → b.liveGroups = []

/-- Groups that change without one of their lanes beginning or ending to live. -/
theorem liveGroups_congr {b b' : Block} (hlen : b'.groups.length = b.groups.length)
    (h : ∀ k : Nat, (b'.groups[k]?).map Group.live = (b.groups[k]?).map Group.live) : b'.liveGroups = b.liveGroups := by
  unfold Block.liveGroups
  rw [hlen]
  refine List.filter_congr fun k _ => ?_
  have e (o : Option Group) : (o.map Group.ended) = (o.map Group.live).map List.isEmpty := by cases o <;> rfl
  rw [e, e, h]

theorem allEnded_modBlock {s : State} {blk : Nat} (h : AllEnded s blk) (id : Nat) {f : Block → Block} (hid : ∀ b, (f b).id = b.id)
    (hf : ∀ b, (f b).liveGroups = b.liveGroups) : AllEnded (modBlock s id f) blk := by
  intro b hb
  rw [blockOf_modBlock s id f hid] at hb
  split at hb
  · obtain ⟨b0, hb0, rfl⟩ := Option.map_eq_some_iff.1 hb
    rw [hf]
    exact h b0 hb0
  · exact h b hb

theorem allEnded_modGroup {s : State} {blk : Nat} (h : AllEnded s blk) (id gi : Nat) {G : Group → Group} (hG : ∀ g, (G g).live = g.live) :
    AllEnded (modGroup s id gi G) blk := allEnded_modBlock h id (fun _ => rfl) fun b => liveGroups_modGroup hG b gi

theorem allEnded_same {s t : State} {blk : Nat} (h : AllEnded s blk) (e : t.blocks = s.blocks) : AllEnded t blk := by
  intro b hb
  unfold blockOf at hb
  rw [e] at hb
  exact h b hb

theorem allEnded_trapGroup {s : State} {blk : Nat} (h : AllEnded s blk) (id gi i : Nat) (t : Trap) : AllEnded (trapGroup s id gi i t) blk := by
  unfold trapGroup
  split
  · exact h
  · split
    · exact h
    · exact allEnded_modGroup h id gi fun _ => rfl

/-- A hold that ends is no end of a thread. -/
theorem liveGroups_mapLanes (b : Block) {f : Lane → Lane} (h0 : f {} = {}) (hf : ∀ l, (f l).live = l.live) :
    ({ b with groups := b.groups.map fun g => { g with lanes := g.lanes.map f } } : Block).liveGroups = b.liveGroups := by
  refine liveGroups_congr (by simp) fun k => ?_
  simp only [List.getElem?_map, Option.map_map]
  refine congrArg (Option.map · _) (funext fun g => List.filter_congr fun n _ => ?_)
  rw [lane_map g h0, hf]

theorem mapIdx_eq_map {α β : Type} (f : α → β) (l : List α) : l.mapIdx (fun _ a => f a) = l.map f := by
  refine List.ext_getElem? fun n => ?_
  rw [List.getElem?_mapIdx, List.getElem?_map]

/-- A lane that is to execute its instruction again. -/
def woken (mine : Bool) (why : Retry) (l : Lane) : Lane := if mine && l.hold = .retry why then { l with hold := .none } else l

/-- A block whose lanes are. -/
def wokenBlock (q : Nat → Bool) (why : Retry) (b : Block) : Block :=
  { b with groups := b.groups.map fun g => { g with lanes := g.lanes.map (woken (q b.id) why) } }

theorem wakeRetry_eq (s : State) (q : Nat → Bool) (why : Retry) :
    wakeRetry s q why = { s with blocks := s.blocks.map (wokenBlock q why) } := by
  refine congrArg (fun bs => { s with blocks := bs }) (List.map_congr_left (g := wokenBlock q why) fun b _ => ?_)
  refine congrArg (fun gs => { b with groups := gs }) ?_
  refine (mapIdx_eq_map (fun g : Group => { g with lanes := g.lanes.mapIdx (fun _ l => woken (q b.id) why l) }) b.groups).trans ?_
  exact List.map_congr_left fun g _ => congrArg (fun ls => { g with lanes := ls }) (mapIdx_eq_map (woken (q b.id) why) g.lanes)

theorem blockOf_wakeRetry (s : State) (q : Nat → Bool) (why : Retry) (id : Nat) :
    blockOf (wakeRetry s q why) id = (blockOf s id).map (wokenBlock q why) := by
  rw [wakeRetry_eq]
  unfold blockOf
  rw [List.find?_map]
  rfl

theorem allEnded_wakeRetry {s : State} {blk : Nat} (h : AllEnded s blk) (q : Nat → Bool) (why : Retry) :
    AllEnded (wakeRetry s q why) blk := by
  intro b hb
  rw [blockOf_wakeRetry] at hb
  obtain ⟨b0, hb0, rfl⟩ := Option.map_eq_some_iff.1 hb
  exact (liveGroups_mapLanes b0 (by simp [woken]) fun l => by unfold woken; split <;> rfl).trans (h b0 hb0)

theorem allEnded_latchFault {s : State} {blk : Nat} (h : AllEnded s blk) (id : Nat) (gang : BitVec 32) :
    AllEnded (latchFault s id gang) blk := by
  unfold latchFault
  split
  · exact h
  · next b _ =>
    have hfold (ks : List Nat) (t : State) (ht : AllEnded t blk) : AllEnded (ks.foldl (fun s k =>
        trapGroup s id k (((groupOf s id k).map fun x => x.live.headD 0).getD 0) { cause := 0x1B, info := gang.setWidth 64 }) t) blk := by
      induction ks generalizing t with
      | nil => exact ht
      | cons k ks ih => exact ih _ (allEnded_trapGroup ht id k _ _)
    refine hfold _ _ (allEnded_modBlock h id (fun _ => rfl) fun b => ?_)
    exact liveGroups_mapLanes b (f := fun l => match l.hold with
      | .latch _ => { l with hold := .none }
      | _ => l) rfl fun l => by split <;> rfl

theorem allEnded_lease {s : State} {blk : Nat} (h : AllEnded s blk) (id : Nat) (F : Block → Lease) :
    AllEnded (modBlock s id fun b => { b with lease := F b }) blk := allEnded_modBlock h id (fun _ => rfl) fun _ => rfl

theorem allEnded_gangEnd {s : State} {blk : Nat} (h : AllEnded s blk) (id grp : Nat) : AllEnded (gangEnd s id grp) blk := by
  unfold gangEnd
  split
  · exact h
  · dsimp only
    refine allEnded_wakeRetry (allEnded_lease ?_ id _) _ _
    split
    · exact allEnded_latchFault h id _
    · exact h

/-- A block that ends is resident no more. -/
theorem not_mem_endBlock (s : State) (blk : Nat) : ∀ b ∈ (endBlock s blk).blocks, b.id ≠ blk := by
  unfold endBlock
  split
  · next hnone =>
    intro b hb e
    exact absurd (List.find?_eq_none.1 hnone b hb) (by simp [e])
  · next b0 _ =>
    intro b hb
    have hend (t : State) (id : Nat) : (endCluster t id).blocks = t.blocks := by
      unfold endCluster
      split
      · split
        · unfold leaveShade
          dsimp only
          split <;> rfl
        · rfl
      · rfl
    rw [hend] at hb
    have := (List.mem_filter.1 hb).2
    simpa using this

/-- A group that ends as the last one of its block, and that spawns nothing, ends its block. -/
theorem endGroup_last {s : State} {blk grp : Nat} {g : Group} (hg : groupOf s blk grp = some g) (hfam : g.family = none)
    (hended : AllEnded s blk) : ∀ b ∈ (endGroup s blk grp).blocks, b.id ≠ blk := by
  obtain ⟨b, hb, hbg⟩ := Option.bind_eq_some_iff.1 hg
  have hbroken : familyBroken s g = false := by
    unfold familyBroken
    rw [hfam]
    rfl
  have hclose : closeFamily s blk grp none [] = s := by
    unfold closeFamily
    rw [hg]
    simp only [Option.bind_some, hfam]
  have hpass (t : State) : (passFaults t b g).blocks = t.blocks := by
    unfold passFaults
    rw [hended b hb]
    dsimp only [List.head?_nil, Option.bind_none]
    split
    · rfl
    · exact modCtx_blocks _ _ _ _
  have hend (t : State) (ht : AllEnded t blk) : ((blockOf t blk).map fun b => b.liveGroups.isEmpty).getD true = true := by
    cases h : blockOf t blk with
    | none => rfl
    | some b => simp [ht b h]
  unfold endGroup
  rw [hb, hg]
  dsimp only
  rw [hbroken]
  simp only [Bool.false_eq_true, if_false, hclose]
  rw [if_pos (hend _ ?_)]
  · exact not_mem_endBlock _ blk
  · have hgone {u : State} (e : u.blocks = s.blocks) (F : Cluster → Cluster) (K : Grid → Grid) : AllEnded (modGrid (modCluster
        (modGroup u blk grp fun g => { g with stop := none, active := false }) b.cluster F) b.grid K) blk :=
      allEnded_same (allEnded_modGroup (G := fun g => { g with stop := none, active := false }) (allEnded_same hended e) blk grp
        fun _ => rfl) rfl
    refine allEnded_gangEnd (hgone ?_ _ _) blk grp
    exact hpass _

/-- A block's groups after the last live one of them has changed to one without live lanes. -/
theorem liveGroups_last {b : Block} {gi : Nat} {G : Group → Group} (hlast : b.liveGroups = [gi])
    (hG : ∀ g, b.group gi = some g → (G g).live = []) : (b.modGroup gi G).liveGroups = [] := by
  refine List.filter_eq_nil_iff.2 fun k hk => ?_
  have hk' : k < b.groups.length := by simpa [Block.modGroup] using hk
  have hget : (b.modGroup gi G).groups[k]? = some (if gi = k then G b.groups[k] else b.groups[k]) := by
    simp only [Block.modGroup, List.getElem?_modify, List.getElem?_eq_getElem hk']
    split <;> rfl
  rw [hget]
  by_cases h : gi = k
  · subst h
    have : b.group gi = some b.groups[gi] := List.getElem?_eq_getElem hk'
    simp [Group.ended, hG _ this]
  · have hnot : k ∉ b.liveGroups := by
      rw [hlast]
      simpa using Ne.symm h
    have : ¬ (!((b.groups[k]?).map Group.ended).getD true) = true := fun hc =>
      hnot (List.mem_filter.2 ⟨List.mem_range.2 hk', hc⟩)
    simpa [h, List.getElem?_eq_getElem hk'] using this

/-- The last live threads of a block exit. -/
theorem exitLanes_last {s : State} {blk grp : Nat} {b : Block} {g : Group} {lanes : List Nat} (hb : blockOf s blk = some b)
    (hg : b.group grp = some g) (hlast : b.liveGroups = [grp]) (hall : ∀ n ∈ g.live, n ∈ lanes) (hfam : g.family = none) :
    ∀ b' ∈ (exitLanes s blk grp lanes).blocks, b'.id ≠ blk := by
  let G : Group → Group := fun g => g.modLanes lanes fun i _ => deadLane (drawOf s i 300) g.budget
  have hgroup : groupOf (dropLanes s blk grp lanes) blk grp = some (G g) := by
    have h := groupOf_modGroup s blk grp G blk grp
    rw [if_pos ⟨rfl, rfl⟩, show groupOf s blk grp = some g by unfold groupOf; rw [hb]; exact hg] at h
    exact h
  have hdead : (G g).live = [] := List.filter_eq_nil_iff.2 fun n hn => by
    by_cases hlt : n < g.lanes.length
    · rw [show (G g).lane n = _ from lane_modLanes g lanes _ hlt]
      by_cases hlive : (g.lane n).live = true
      · rw [if_pos (hall n ((mem_live_iff g n).2 ⟨List.mem_range.1 hn, hlive⟩))]
        simp [deadLane]
      · split
        · simp [deadLane]
        · exact hlive
    · rw [lane_out (g := G g) (by rwa [show (G g).lanes.length = _ from length_modLanes g lanes _])]
      simp
  have hended : AllEnded (dropLanes s blk grp lanes) blk := by
    intro b' hb'
    have h := blockOf_modBlock s blk (fun b => b.modGroup grp G) (fun _ => rfl) blk
    rw [if_pos rfl, hb] at h
    have hbb : b.modGroup grp G = b' := Option.some_inj.1 (h.symm.trans hb')
    subst hbb
    refine liveGroups_last hlast fun g' hg' => ?_
    rw [hg] at hg'
    cases hg'
    exact hdead
  have hafter : exitLanes s blk grp lanes = endGroup (dropLanes s blk grp lanes) blk grp := by
    unfold exitLanes afterExit
    rw [hgroup]
    simp only [Group.ended, hdead, List.isEmpty_nil, if_true]
  rw [hafter]
  exact endGroup_last hgroup hfam hended

/-! ### The statement -/

/-- Settles O26. -/
theorem exitResults : Obligations.ExitResults := by
  intro x s p hp he hviews hfam hround
  obtain ⟨g, hpg⟩ := pathGroup_of_pathOf hp
  have hexec := exec_exit hp he hviews hfam
  obtain ⟨feq, poison, hdrop⟩ := dropLanes_exited s p x
  have hgroup : groupOf { withGroup s p (exited s p x) with feq := feq, poison := poison } p.iss.blk p.iss.grp = some (exited s p x g) :=
    groupOf_withGroup hpg _
  have hlt {n : Nat} (hn : n ∈ p.g.live) : n < g.lanes.length := lt_of_live (by rw [← hpg.live_eq]; exact hn)
  constructor
  · rintro ⟨m, hm, hme⟩ hhold
    have hmlive : m ∈ (exited s p x g).live := by
      rw [mem_live_iff, live_lane_exited]
      rw [hpg.live_eq, mem_live_iff] at hm
      simp [hm.1, hm.2, hme]
    have hmhold : ((exited s p x g).lane m).hold = .none := by
      rw [lane_exited_of_not_exec hme (hlt hm), ← hpg.lane_eq]
      split <;> exact hhold m hm
    obtain ⟨H, hH, hafter⟩ := afterExit_free hgroup hmlive hmhold fun b hb => by
      have hb' : blockOf (withGroup s p (exited s p x)) p.iss.blk = some b := hb
      rw [blockOf_path hpg (.refl s)] at hb'
      cases hb'
      exact hround
    have hexit : exitLanes (withGroup s p (movedOn p x)) p.iss.blk p.iss.grp (p.exec x) = _ :=
      (congrArg (fun u => afterExit u p.iss.blk p.iss.grp) hdrop).trans hafter
    refine ⟨_, H (exited s p x g), hexec.trans (congrArg Host.Outcome.next hexit), ?_, fun n hn => ?_, fun n hn hne => ?_, fun g' hg' => ?_,
      rfl, rfl, rfl⟩
    · have := groupOf_modGroup { withGroup s p (exited s p x) with feq := feq, poison := poison } p.iss.blk p.iss.grp H p.iss.blk p.iss.grp
      rw [if_pos ⟨rfl, rfl⟩, hgroup] at this
      exact this
    · have hn' : n ∈ p.lanes := (List.mem_filter.1 hn).1
      have hdead := lane_exited_of_exec (s := s) hn (hpg.lane_lt hn')
      rw [hH.free _ n (by rw [hdead]; rfl), hdead]
      exact ⟨rfl, rfl, rfl⟩
    · have hlane := lane_exited_of_not_exec (s := s) hne (hlt hn)
      rw [← hpg.lane_eq] at hlane
      rw [hH.free _ n (by rw [hlane]; split <;> exact hhold n hn), hlane]
    · rw [hpg.groupOf_eq] at hg'
      cases hg'
      exact ⟨hH.ureg _, hH.upred _⟩
  · intro hall hlast
    have hlive : ∀ g : Group, (movedOn p x g).live = g.live := fun g => List.filter_congr fun n _ => by
      unfold movedOn
      by_cases hlt : n < g.lanes.length
      · rw [lane_modLanes g _ _ hlt]
        split <;> rfl
      · rw [lane_out hlt, lane_out (by rwa [length_modLanes])]
    have hfam' : (movedOn p x g).family = none := by
      have : p.g.family = g.family := by rw [asRead_of_pathOf hp hpg]
      exact this.symm.trans hfam
    have hg : (p.b.modGroup p.iss.grp (movedOn p x)).group p.iss.grp = some (movedOn p x g) := by
      have h := groupOf_withGroup hpg (movedOn p x)
      unfold groupOf at h
      rwa [blockOf_path hpg (.refl s)] at h
    exact ⟨_, hexec, exitLanes_last (blockOf_path hpg (.refl s) _) hg ((liveGroups_modGroup hlive p.b p.iss.grp).trans hlast)
      (fun n hn => hall n (by rw [hpg.live_eq, ← hlive]; exact hn)) hfam'⟩

end Sys2Proof.Proofs
end
section
/-! PROOF of O30 (R109, R298, R310, R349): what `usys` does, and how a group leaves a stop whose records are all returned. -/

namespace Sys2Proof.Proofs

open Sys2Proof Sys2Proof.Machine Sys2Proof.Claims Sys2Proof.Laws

/-! ### `usys` at level 1 -/

theorem privileged_high {p : Path} (h : p.b.level1 = true) (f : Path → State → UEnd) (s : State) : privileged f p s = f p s := by
  unfold privileged
  rw [if_pos h]

/-- Engine data that lands leaves the TLBs as they are. -/
theorem landRange_tlb (s : State) (part ctx trc low high : Nat) : (landRange s part ctx trc low high).tlb = s.tlb := by
  have h : Landed s (landRange s part ctx trc low high) := landed_landWhere s _ _
  rw [h]

/-- Dropping translations that are named by part, context and a test, as a filter. -/
theorem dropTlb_landRange (s : State) (part ctx trc low high : Nat) {f g : TlbEntry → Bool}
    (hfg : ∀ e, g e = !(e.part = part && e.ctx = ctx && f e)) :
    dropTlb (landRange s part ctx trc low high) part ctx f = { landRange s part ctx trc low high with tlb := s.tlb.filter g } := by
  unfold dropTlb
  rw [landRange_tlb, List.filter_congr fun e _ => hfg e]

theorem svc_high {s : State} {p : Path} {x : UExt} (a : BitVec 6) (h : URuns s p x) (hl : p.b.level1 = true)
    (ha : (p.g.usrc a.toNat).toNat % 64 = 0) :
    exec (.usysSvc a x) s = .next (modPart (held s p (.svc p.iss.next (p.g.usrc a.toNat))) p.b.part fun q =>
      { q with reqs := q.reqs ++ [{ host := false, ctx := p.b.ctx, va := p.g.usrc a.toNat }] }) := by
  show execUsysSvc a x s = _
  unfold execUsysSvc
  refine uniform_stay h ?_
  simp only [hl, ha, Bool.not_true, Bool.false_eq_true, if_false, ne_eq, not_true_eq_false, pathHold_eq]

theorem tlbiva_drops {s : State} {p : Path} {x : UExt} (a b : BitVec 6) (h : URuns s p x) (hl : p.b.level1 = true)
    (hcan : canonical (p.g.usrc a.toNat) = true) (hva : (p.g.usrc a.toNat).toNat % 65536 = 0)
    (hc : (p.g.usrc b.toNat).extractLsb' 4 12 = 0) :
    exec (.usysTlbiva a b x) s = .next (atNext (tlbRange s p ((p.g.usrc b.toNat).extractLsb' 0 4).toNat
      ((p.g.usrc a.toNat).toNat % 2 ^ 57) ((p.g.usrc b.toNat).extractLsb' 16 48).toNat) p) := by
  show execUsysTlbiva a b x s = _
  unfold execUsysTlbiva
  refine uniform_done h ?_
  rw [privileged_high hl]
  simp only [hcan, hva, bits_toNat, hc, Bool.not_true, Bool.false_eq_true, if_false, ne_eq, not_true_eq_false, decide_false, Bool.or_false,
    show (0 : BitVec 12).toNat = 0 from rfl]

theorem tlbictx_drops {s : State} {p : Path} {x : UExt} (a : BitVec 6) (h : URuns s p x) (hl : p.b.level1 = true)
    (ha : (p.g.usrc a.toNat).toNat < 16) :
    exec (.usysTlbictx a x) s = .next (atNext (dropTlb (landRange s p.b.part p.b.ctx (p.g.usrc a.toNat).toNat 0 (2 ^ 57)) p.b.part
      p.b.ctx fun e => e.trc = (p.g.usrc a.toNat).toNat) p) := by
  show execUsysTlbictx a x s = _
  unfold execUsysTlbictx
  refine uniform_done h ?_
  rw [privileged_high hl]
  exact if_neg (Nat.not_le.2 ha)

/-! ### `usys.rti` -/

theorem rti_handler {s : State} {p : Path} {x : UExt} {slot k : Nat} (h : URuns s p x) (hl : p.b.level1 = true)
    (ho : p.b.origin = .handler slot k) (hfam : familyBroken s p.g = false) :
    exec (.usysRti x) s = .next (finishStop (returnRec (killGroup s p.iss.blk p.iss.grp) p.b.part p.b.ctx slot k) p.b.part p.b.ctx
      slot) := by
  show execUsysRti x s = _
  unfold execUsysRti
  refine uniform_stay h ?_
  rw [privileged_high hl]
  simp only [ho, hfam, Bool.false_eq_true, if_false]

theorem rti_notice {s : State} {p : Path} {x : UExt} {r : TrapRec} (h : URuns s p x) (hl : p.b.level1 = true)
    (ho : p.b.origin = .notice r) (hfam : familyBroken s p.g = false) :
    exec (.usysRti x) s = .next (killGroup s p.iss.blk p.iss.grp) := by
  show execUsysRti x s = _
  unfold execUsysRti
  refine uniform_stay h ?_
  rw [privileged_high hl]
  simp only [ho, hfam, Bool.false_eq_true, if_false]

/-- An unguarded `ctl.exit` has every lane of its path execute. -/
theorem exec_unguarded (p : Path) : p.exec {} = p.lanes := List.filter_eq_self.2 fun _ _ => rfl

theorem modLanes_nil (g : Group) (f : Nat → Lane → Lane) : g.modLanes [] f = g := by
  have h : g.lanes.mapIdx (fun i l => if ([] : List Nat).contains i then f i l else l) = g.lanes :=
    (mapIdx_eq_map id g.lanes).trans (List.map_id _)
  unfold Group.modLanes
  rw [h]

/-- The whole path exits. -/
theorem exitPath_whole {s : State} {p : Path} (hne : p.lanes ≠ []) (hviews : p.b.views = []) (hfam : p.g.family = none) :
    exitPath {} p s = exitLanes s p.iss.blk p.iss.grp p.lanes := by
  have hrest : p.lanes.filter (fun n => !p.lanes.contains n) = [] :=
    List.filter_eq_nil_iff.2 fun n hn => by simp [hn]
  have hgroup : (pathGroup s p fun g => g.modLanes [] fun _ l => l.advance p.iss.next) = s := by
    simp only [modLanes_nil]
    exact withGroup_self s p
  have hbroken (t : State) : familyBroken t p.g = false := by
    unfold familyBroken
    rw [hfam]
    rfl
  have hlanes : p.lanes.isEmpty = false := by simpa using hne
  unfold exitPath
  dsimp only
  rw [exec_unguarded, hrest, hgroup, hbroken, hviews, hlanes]
  simp only [List.isEmpty_nil, Bool.not_true, Bool.and_false, Bool.false_eq_true, if_false]

theorem rti_node {s : State} {p : Path} {x : UExt} (h : URuns s p x) (hl : p.b.level1 = true) (ho : p.b.origin = .node)
    (hne : p.lanes ≠ []) (hviews : p.b.views = []) (hfam : p.g.family = none) :
    exec (.usysRti x) s = .next (exitLanes s p.iss.blk p.iss.grp p.lanes) := by
  show execUsysRti x s = _
  unfold execUsysRti
  refine uniform_stay h ?_
  rw [privileged_high hl, ← exitPath_whole hne hviews hfam]
  simp only [ho]

/-- A stop with a record that is not returned yet is left as it is. -/
theorem finishStop_open {s : State} {p c slot : Nat} (h : ∀ q, stopOf s p c slot = some q → ∃ r ∈ q.recs, r.returned = false) :
    finishStop s p c slot = s := by
  unfold finishStop
  cases hq : stopOf s p c slot with
  | none => rfl
  | some q =>
    obtain ⟨r, hr, hopen⟩ := h q hq
    have hback : q.allBack = false := List.all_eq_false.2 ⟨r, hr, by simp [hopen]⟩
    simp only [hback, Bool.false_eq_true, if_false]

theorem supervisorResults : SupervisorResults := by
  refine ⟨fun x s p h => ?_, fun a x s p h hl ha => svc_high a h hl ha, fun a b x s p h hl hcan hva hc => ?_,
    fun a x s p h hl ha => ?_, fun x s p h hl => ⟨fun slot k ho hfam hopen => ?_, fun r ho hfam => rti_notice h hl ho hfam,
      fun ho hne hviews hfam => rti_node h hl ho hne hviews hfam⟩⟩
  · show execUsysNop x s = _
    unfold execUsysNop
    exact uniform_done h rfl
  · rw [tlbiva_drops a b h hl hcan (by omega) hc]
    unfold tlbRange
    rw [dropTlb_landRange (g := fun e => !(e.part == p.b.part && e.ctx == p.b.ctx && e.trc == ((p.g.usrc b.toNat).extractLsb' 0 4).toNat &&
      decide (e.va < (p.g.usrc a.toNat).toNat % 2 ^ 57 + ((p.g.usrc b.toNat).extractLsb' 16 48).toNat * 65536) &&
      decide ((p.g.usrc a.toNat).toNat % 2 ^ 57 < e.va + e.size)))]
    intro e
    simp only [beq_eq_decide, Bool.and_assoc]
  · rw [tlbictx_drops a h hl ha, dropTlb_landRange (g := fun e =>
      !(e.part == p.b.part && e.ctx == p.b.ctx && e.trc == (p.g.usrc a.toNat).toNat))]
    intro e
    simp only [beq_eq_decide, Bool.and_assoc]
  · rw [rti_handler h hl ho hfam, finishStop_open hopen]

/-! ### The end of a stop -/

theorem ctxOf_modCtx {s : State} {p c : Nat} (hp : (cfind s.parts p).isSome = true) (hc : (cfind (partOf s p).ctxs c).isSome = true)
    (f : Ctx → Ctx) : ctxOf (modCtx s p c f) p c = f (ctxOf s p c) := by
  obtain ⟨q, hq⟩ := Option.isSome_iff_exists.1 hp
  have hpart : partOf s p = q := by unfold partOf; rw [hq]; rfl
  rw [hpart] at hc
  obtain ⟨x, hx⟩ := Option.isSome_iff_exists.1 hc
  have hnew : partOf (modCtx s p c f) p = { q with ctxs := cset q.ctxs c (f x) } := by
    unfold modCtx modPart partOf
    rw [hq]
    dsimp only
    rw [hx, cfind_cset, if_pos rfl]
    rfl
  unfold ctxOf
  rw [hnew, hpart, hx]
  dsimp only
  rw [cfind_cset, if_pos rfl]
  rfl

/-- A stop slot that becomes free serves no stop. -/
theorem stopOf_dropStop {s : State} {p c : Nat} (hp : (cfind s.parts p).isSome = true)
    (hc : (cfind (partOf s p).ctxs c).isSome = true) (slot : Nat) : stopOf (dropStop s p c slot) p c slot = none := by
  unfold stopOf dropStop
  rw [ctxOf_modCtx hp hc]
  refine List.find?_eq_none.2 fun q hq => ?_
  simpa using (List.mem_filter.1 hq).2

theorem resume_dropStop (s : State) (p c slot : Nat) : (partOf (dropStop s p c slot) p).resume = (partOf s p).resume := by
  unfold dropStop modCtx modPart partOf
  cases hq : cfind s.parts p with
  | none => simp only [hq]
  | some q =>
    dsimp only
    rw [cfind_cset, if_pos rfl]
    cases cfind q.ctxs c <;> rfl

/-- R349: a stop whose records are all returned is over; what follows for its group, whose block does not wait to be placed again. -/
theorem finishStop_back {s : State} {p c slot : Nat} {q : StopSlot} (hq : stopOf s p c slot = some q)
    (hback : ∀ r ∈ q.recs, r.returned = true) (hres : ∀ b ∈ (partOf s p).resume, b.id ≠ q.blk) :
    finishStop s p c slot = leaveStop (dropStop s p c slot) p c q := by
  have hall : q.allBack = true := List.all_eq_true.2 hback
  have hnone : (partOf (dropStop s p c slot) p).resume.find? (fun b => b.id = q.blk) = none := by
    rw [resume_dropStop]
    exact List.find?_eq_none.2 fun b hb => by simpa using hres b hb
  unfold finishStop withParked
  rw [hq]
  simp only [hall, if_true, hnone]

theorem leaveStop_gone {s : State} {p c : Nat} {q : StopSlot} (h : blockOf s q.blk = none) : leaveStop s p c q = s := by
  unfold leaveStop
  rw [h]

theorem slot_of_stopOf {s : State} {p c slot : Nat} {q : StopSlot} (h : stopOf s p c slot = some q) : q.slot = slot := by
  simpa using List.find?_some h

/-- The largest of some ACT values reaches every one of them. -/
theorem le_maxAct (recs : List TrapRec) (m : Nat) :
    m ≤ recs.foldl (fun m r => max m r.act.toNat) m ∧ ∀ r ∈ recs, r.act.toNat ≤ recs.foldl (fun m r => max m r.act.toNat) m := by
  induction recs generalizing m with
  | nil => simp
  | cons r rs ih =>
    obtain ⟨hm, hrs⟩ := ih (max m r.act.toNat)
    refine ⟨by simp only [List.foldl_cons]; omega, fun r' hr' => ?_⟩
    rcases List.mem_cons.1 hr' with rfl | hr'
    · simp only [List.foldl_cons]; omega
    · exact hrs r' hr'

theorem maxAct_le (recs : List TrapRec) {m : Nat} (hm : m ≤ 3) : recs.foldl (fun m r => max m r.act.toNat) m ≤ 3 := by
  induction recs generalizing m with
  | nil => exact hm
  | cons r rs ih => exact ih (Nat.max_le.2 ⟨hm, by have := r.act.isLt; omega⟩)

/-- The only live group of a block ends, and the block with it. -/
theorem killGroup_last {s : State} {blk grp : Nat} {b : Block} {g : Group} (hb : blockOf s blk = some b) (hg : b.group grp = some g)
    (hlast : b.liveGroups = [grp]) (hfam : g.family = none) : ∀ b' ∈ (killGroup s blk grp).blocks, b'.id ≠ blk := by
  have hgroup : groupOf s blk grp = some g := by unfold groupOf; rw [hb]; exact hg
  have hlive : g.ended = false := by
    have hmem : grp ∈ b.liveGroups := by rw [hlast]; exact List.mem_singleton_self _
    have := (List.mem_filter.1 hmem).2
    rw [show b.groups[grp]? = some g from hg] at this
    simpa using this
  have hkill : killGroup s blk grp = exitLanes s blk grp g.live := by
    unfold killGroup
    rw [hgroup]
    simp only [hlive, Bool.false_eq_true, if_false]
  rw [hkill]
  exact exitLanes_last hb hg hlast (fun _ h => h) hfam

theorem killBlock_last {s : State} {blk grp : Nat} {b : Block} (hb : blockOf s blk = some b) (hlast : b.liveGroups = [grp]) :
    killBlock s blk = killGroup s blk grp := by
  unfold killBlock
  rw [hb]
  simp only [hlast, List.foldl_cons, List.foldl_nil]

/-- ACT 2 or 3 for the only live group of a block. -/
theorem leaveStop_last {s : State} {p c : Nat} {q : StopSlot} {b : Block} {g : Group} (hb : blockOf s q.blk = some b)
    (hg : b.group q.grp = some g) (hstop : g.stop.bind Stop.slot = some q.slot) (hlast : b.liveGroups = [q.grp])
    (hact : ∃ r ∈ q.recs, 2 ≤ r.act.toNat) : leaveStop s p c q = killGroup s q.blk q.grp := by
  have hgroup : groupOf s q.blk q.grp = some g := by unfold groupOf; rw [hb]; exact hg
  obtain ⟨r, hr, h2⟩ := hact
  have hge := (le_maxAct q.recs 0).2 r hr
  have hle := maxAct_le q.recs (m := 0) (by omega)
  unfold leaveStop
  rw [hb, hgroup]
  dsimp only
  rw [if_neg (by simp [hstop])]
  split
  · exact killBlock_last hb hlast
  · rw [if_pos (by omega)]

theorem stopReturns : StopReturns := by
  intro s p c slot q hq hback hres
  rw [finishStop_back hq hback hres]
  have hblocks : (dropStop s p c slot).blocks = s.blocks := modCtx_blocks _ _ _ _
  have hblk : blockOf (dropStop s p c slot) q.blk = blockOf s q.blk := by unfold blockOf; rw [hblocks]
  refine ⟨fun hnone hp hc => ?_, fun b g hb hg hstop hlast hfam hact => ?_⟩
  · rw [leaveStop_gone (hblk.trans hnone)]
    exact stopOf_dropStop hp hc slot
  · rw [leaveStop_last (hblk.trans hb) hg (by rw [hstop, slot_of_stopOf hq]) hlast hact]
    exact killGroup_last (hblk.trans hb) hg hlast hfam

/-- Settles O30. -/
theorem supervisorAndStopResults : Obligations.SupervisorAndStopResults := ⟨supervisorResults, stopReturns⟩

end Sys2Proof.Proofs
end
section
/-! PROOF of O43 (R299, R348, R398): the values of the system registers as one table, what `sysw` changes of it, and the record that a
handler serves. -/

namespace Sys2Proof.Proofs

open Sys2Proof Sys2Proof.Machine Sys2Proof.Claims Sys2Proof.Laws

/-! ### A path that goes on to NEXT -/

/-- A lane that has gone on to NEXT, free of holds. -/
def sentOn (p : Path) (l : Lane) : Lane := if l.live then { goTo l p.iss.next with hold := .none } else l

theorem groupOf_atNext {t : State} {p : Path} {g : Group} (h : groupOf t p.iss.blk p.iss.grp = some g) :
    groupOf (atNext t p) p.iss.blk p.iss.grp = some (withLanes p (fun _ => sentOn p) g) := by
  have e := groupOf_modGroup t p.iss.blk p.iss.grp (withLanes p fun _ => sentOn p) p.iss.blk p.iss.grp
  rw [if_pos ⟨rfl, rfl⟩, h, modGroup_eq] at e
  exact e

/-- The lanes of the path live in a group. -/
def LivePath (p : Path) (g : Group) : Prop := ∀ n ∈ p.lanes, (g.lane n).live = true

theorem PathGroup.livePath {s : State} {p : Path} {g : Group} (h : PathGroup s p g) : LivePath p g := fun n hn => by
  rw [← h.lane_eq]
  exact (List.mem_filter.1 hn).2

theorem lane_sentOn {p : Path} {g : Group} (h : LivePath p g) {n : Nat} (hn : n ∈ p.lanes) :
    (withLanes p (fun _ => sentOn p) g).lane n = { goTo (g.lane n) p.iss.next with hold := .none } := by
  have hlive := h n hn
  rw [lane_withLanes _ _ _ (lt_of_live ((mem_live_iff g n).2 ⟨lt_of_mem_lanes hn, hlive⟩)), if_pos hn]
  unfold sentOn
  rw [if_pos hlive]

/-- The path's lanes stand at NEXT. -/
theorem npc_sentOn {p : Path} {g : Group} (h : LivePath p g) : ∀ n ∈ p.lanes, ((withLanes p (fun _ => sentOn p) g).lane n).npc = p.iss.next :=
  fun n hn => by rw [lane_sentOn h hn]; rfl

/-! ### The values of the system registers -/

/-- The values of the system registers outside the trap registers: of a context, of a group, and of the clock. -/
def regView (c : Ctx) (g : Group) (pt n : Nat) : Option DWord :=
  if 0x034 ≤ n ∧ n ≤ 0x037 then some (c.gbp.getD (n - 0x034) 0)
  else if 0x090 ≤ n ∧ n ≤ 0x09F then some (c.trc.getD (n - 0x090) 0)
  else [(0x010, 0#56 ++ c.quantum), (0x011, 0#56 ++ c.leaseCap), (0x012, 0#48 ++ c.grgWait), (0x013, c.migLive),
    (0x020, 0#44 ++ c.ageSteal), (0x030, g.gcb), (0x031, g.ght), (0x032, 0#62 ++ g.grgMode), (0x040, c.trapVec),
    (0x060, BitVec.ofNat 64 (pt / 30000)), (0x070, 0#32 ++ c.split), (0x071, 0#28 ++ c.splitLimit),
    (0x080, 0#44 ++ c.bfqWait)].lookup n

theorem sysValue_eq (s : State) (p : Path) (n : Nat) : sysValue s p n = regView (ctxOf s p.b.part p.b.ctx) p.g s.ptime n := rfl

/-- The numbers of the table. -/
theorem number_of_sysValue {s : State} {p : Path} {n : Nat} {v : DWord} (h : sysValue s p n = some v) :
    (0x034 ≤ n ∧ n ≤ 0x037) ∨ (0x090 ≤ n ∧ n ≤ 0x09F) ∨
      n ∈ [0x010, 0x011, 0x012, 0x013, 0x020, 0x030, 0x031, 0x032, 0x040, 0x060, 0x070, 0x071, 0x080] := by
  unfold sysValue at h
  dsimp only at h
  split at h
  · exact .inl ‹_›
  · split at h
    · exact .inr (.inl ‹_›)
    · obtain ⟨l₁, l₂, hl, -⟩ := List.lookup_eq_some_iff.1 h
      refine .inr (.inr ?_)
      have hkey : n ∈ (l₁ ++ (n, v) :: l₂).map Prod.fst := by simp
      rw [← hl] at hkey
      exact hkey

theorem isSysReg_of_sysValue {s : State} {p : Path} {n : Nat} {v : DWord} (h : sysValue s p n = some v) : isSysReg n = true := by
  have := number_of_sysValue h
  rw [isSysReg_iff]
  simp only [List.mem_cons, List.not_mem_nil, or_false] at this
  omega

/-- `sysr` reads the table. -/
theorem readSys_of_sysValue {s : State} {p : Path} {n : Nat} {v : DWord} (h : sysValue s p n = some v) : readSys s p n = v := by
  rcases number_of_sysValue h with ⟨h1, h2⟩ | ⟨h1, h2⟩ | hn
  · interval_cases n <;> exact Option.some_inj.1 h
  · interval_cases n <;> exact Option.some_inj.1 h
  · simp only [List.mem_cons, List.not_mem_nil, or_false] at hn
    rcases hn with rfl | rfl | rfl | rfl | rfl | rfl | rfl | rfl | rfl | rfl | rfl | rfl | rfl <;>
      refine Eq.trans ?_ (Option.some_inj.1 h) <;> first | rfl | exact setWidth_eq_zero_append _

theorem sysr_reads {s : State} {p : Path} {x : UExt} (d : BitVec 6) {num : BitVec 12} (h : URuns s p x)
    (hreg : isSysReg num.toNat = true) (hl : p.b.level1 = true ∨ ¬ReadsAbove num.toNat) :
    exec (.sysr d num x) s = .next (uniNext s p p.iss.next fun g => g.udst d.toNat (readSys s p num.toNat)) := by
  have hlevel : (readNeedsOne num.toNat && !p.b.level1) = false := by
    rcases hl with hl | hl
    · rw [hl, Bool.not_true, Bool.and_false]
    · rw [Bool.eq_false_iff.2 (mt (readNeedsOne_iff _).1 hl), Bool.false_and]
  show execSysr d num x s = _
  unfold execSysr
  rw [← atNext_group]
  refine uniform_done h ?_
  simp only [hreg, hlevel, Bool.not_true, Bool.false_eq_true, if_false]
  exact congrArg UEnd.done (modGroup_eq s p _)

theorem systemReads : SystemReads := by
  intro d num x s p v h hv hl
  rw [sysr_reads d h (isSysReg_of_sysValue hv) hl, readSys_of_sysValue hv]

/-! ### Writes -/

/-- The registers of a context that `sysw` writes. -/
def InCtx (n : Nat) : Prop := (0x034 ≤ n ∧ n ≤ 0x037) ∨ (0x090 ≤ n ∧ n ≤ 0x09F) ∨ n ∈ [0x010, 0x011, 0x012, 0x013, 0x020, 0x040, 0x070, 0x080]

/-- The low bits of a word, the others 0. -/
theorem zero_append_setWidth {m k : Nat} (v : BitVec (m + k)) : 0#m ++ v.setWidth k = BitVec.ofNat (m + k) (2 ^ k - 1) &&& v := by
  have hlt : 2 ^ k - 1 < 2 ^ (m + k) := Nat.lt_of_lt_of_le (Nat.sub_one_lt (Nat.two_pow_pos k).ne') (Nat.pow_le_pow_right Nat.two_pos (Nat.le_add_left k m))
  apply BitVec.eq_of_toNat_eq
  rw [← setWidth_eq_zero_append, BitVec.toNat_setWidth, BitVec.toNat_setWidth, BitVec.toNat_and, BitVec.toNat_ofNat, Nat.mod_eq_of_lt hlt,
    Nat.and_comm, Nat.and_two_pow_sub_one_eq_mod]
  exact Nat.mod_eq_of_lt (Nat.lt_of_lt_of_le (Nat.mod_lt _ (Nat.two_pow_pos k)) (Nat.pow_le_pow_right Nat.two_pos (Nat.le_add_left k m)))

/-- A field of 8 bits in which 0 is stored as 1. -/
theorem zero_append_atLeastOne (v : DWord) :
    0#56 ++ atLeastOne (v.setWidth 8) = if v.extractLsb' 0 8 = 0 then 1 else v &&& 0xFF := by
  rw [extractLsb'_zero]
  unfold atLeastOne
  split
  · rfl
  · exact (zero_append_setWidth (m := 56) (k := 8) v).trans (BitVec.and_comm _ _)

/-- An entry of a list of four or sixteen registers after one is set. -/
theorem getD_set {l : List DWord} {i : Nat} (v : DWord) (h : i < l.length) (j : Nat) :
    (l.set i v).getD j 0 = if j = i then v else l.getD j 0 := by
  simp only [List.getD_eq_getElem?_getD, List.getElem?_set]
  by_cases e : i = j
  · subst e; simp [h]
  · simp [e, Ne.symm e]

section
variable (c : Ctx) (g : Group) (pt : Nat) {num : Nat} (v : DWord)

theorem regView_gbp (hnum : 0x034 ≤ num ∧ num ≤ 0x037) (hlen : c.gbp.length = 4) (n : Nat) :
    regView (c.writeSys num v) g pt n = if n = num then some (keptOf num v) else regView c g pt n := by
  have hc : c.writeSys num v = { c with gbp := c.gbp.set (num - 0x034) (v &&& 0x81FFFFFFFFFFFFFF) } := by
    obtain ⟨h1, h2⟩ := hnum
    interval_cases num <;> rfl
  have hkept : keptOf num v = v &&& 0x81FFFFFFFFFFFFFF := by
    unfold keptOf
    rw [if_neg (by omega), if_pos hnum]
  rw [hc, hkept]
  unfold regView
  dsimp only
  rw [getD_set _ (by omega)]
  split
  · next hn => by_cases e : n = num <;> simp [e]; omega
  · have hne : n ≠ num := by omega
    simp only [hne, if_false]

theorem regView_trc (hnum : 0x090 ≤ num ∧ num ≤ 0x09F) (hlen : c.trc.length = 16) (n : Nat) :
    regView (c.writeSys num v) g pt n = if n = num then some (keptOf num v) else regView c g pt n := by
  have hc : c.writeSys num v = { c with trc := c.trc.set (num - 0x090) (v &&& 0x000FFFFFFFFFF001) } := by
    obtain ⟨h1, h2⟩ := hnum
    interval_cases num <;> rfl
  have hkept : keptOf num v = v &&& 0x000FFFFFFFFFF001 := by
    unfold keptOf
    rw [if_neg (by omega), if_neg (by omega), if_pos hnum]
  rw [hc, hkept]
  unfold regView
  dsimp only
  rw [getD_set _ (by omega)]
  split
  · rw [if_neg (by omega)]
  · split
    · next hn => by_cases e : n = num <;> simp [e]; omega
    · have hne : n ≠ num := by omega
      simp only [hne, if_false]

/-- The value that a register of one field then reads. -/
theorem regView_same (hnum : num ∈ [0x010, 0x011, 0x012, 0x013, 0x020, 0x040, 0x070, 0x080]) :
    regView (c.writeSys num v) g pt num = some (keptOf num v) := by
  have hone : keptOf 0x010 v = 0#56 ++ atLeastOne (v.setWidth 8) := (zero_append_atLeastOne v).symm
  have hlow {m k : Nat} (e : m + k = 64) (w : BitVec (m + k)) : 0#m ++ w.setWidth k = BitVec.ofNat (m + k) (2 ^ k - 1) &&& w :=
    zero_append_setWidth w
  simp only [List.mem_cons, List.not_mem_nil, or_false] at hnum
  rcases hnum with rfl | rfl | rfl | rfl | rfl | rfl | rfl | rfl
  · exact congrArg some hone.symm
  · exact congrArg some hone.symm
  · exact congrArg some (zero_append_setWidth (m := 48) (k := 16) v)
  · exact congrArg some (BitVec.and_comm _ _)
  · exact congrArg some (zero_append_setWidth (m := 44) (k := 20) v)
  · exact congrArg some (BitVec.and_comm _ _)
  · exact congrArg some (zero_append_setWidth (m := 32) (k := 32) v)
  · exact congrArg some (zero_append_setWidth (m := 44) (k := 20) v)

/-- Every other register keeps its value. -/
theorem regView_other (hnum : num ∈ [0x010, 0x011, 0x012, 0x013, 0x020, 0x040, 0x070, 0x080]) {n : Nat} (hn : n ≠ num) :
    regView (c.writeSys num v) g pt n = regView c g pt n := by
  simp only [List.mem_cons, List.not_mem_nil, or_false] at hnum
  rcases hnum with rfl | rfl | rfl | rfl | rfl | rfl | rfl | rfl <;>
    simp only [regView, Ctx.writeSys, List.lookup_cons, beq_eq_false_iff_ne.2 hn]

/-- A write of a register of a context changes its entry alone. -/
theorem regView_writeSys (hnum : InCtx num) (hgbp : c.gbp.length = 4) (htrc : c.trc.length = 16) (n : Nat) :
    regView (c.writeSys num v) g pt n = if n = num then some (keptOf num v) else regView c g pt n := by
  rcases hnum with h | h | h
  · exact regView_gbp c g pt v h hgbp n
  · exact regView_trc c g pt v h htrc n
  · split
    · next e => rw [e]; exact regView_same c g pt v h
    · next e => exact regView_other c g pt v h e

end

/-- A register of the group written. -/
def groupWritten (num : Nat) (v : DWord) (g : Group) : Group :=
  match num with
  | 0x030 => { g with gcb := v }
  | 0x031 => { g with ght := v &&& 0xFFFFFFFFFFFFF800 }
  | 0x032 => { g with grgMode := v.setWidth 2 }
  | _ => g

/-- The registers of a group that `sysw` writes. -/
def InGroup (n : Nat) : Prop := n ∈ [0x030, 0x031, 0x032]

theorem groupWritten_keeps (num : Nat) (v : DWord) (g : Group) :
    (groupWritten num v g).lanes = g.lanes ∧ (groupWritten num v g).ureg = g.ureg := by
  unfold groupWritten
  split <;> exact ⟨rfl, rfl⟩

theorem writeSys_group (s : State) (p : Path) {num : Nat} (v : DWord) (h : InGroup num) :
    writeSys s p num v = withGroup s p (groupWritten num v) := by
  simp only [InGroup, List.mem_cons, List.not_mem_nil, or_false] at h
  rcases h with rfl | rfl | rfl <;> exact modGroup_eq s p _

theorem writeSys_ctx (s : State) (p : Path) {num : Nat} (v : DWord) (h : InCtx num) :
    writeSys s p num v = modCtx s p.b.part p.b.ctx fun c => c.writeSys num v := by
  rcases h with ⟨h1, h2⟩ | ⟨h1, h2⟩ | h
  · interval_cases num <;> rfl
  · interval_cases num <;> rfl
  · simp only [List.mem_cons, List.not_mem_nil, or_false] at h
    rcases h with rfl | rfl | rfl | rfl | rfl | rfl | rfl | rfl <;> rfl

/-- A write of a register of the group changes its entry alone. -/
theorem regView_groupWritten (c : Ctx) (g : Group) (pt : Nat) {num : Nat} (v : DWord) (h : InGroup num) (n : Nat) :
    regView c (groupWritten num v g) pt n = if n = num then some (keptOf num v) else regView c g pt n := by
  simp only [InGroup, List.mem_cons, List.not_mem_nil, or_false] at h
  split
  · next e =>
    subst e
    rcases h with rfl | rfl | rfl
    · exact congrArg some (BitVec.allOnes_and (x := v)).symm
    · exact congrArg some (BitVec.and_comm _ _)
    · exact congrArg some (zero_append_setWidth (m := 62) (k := 2) v)
  · next e =>
    rcases h with rfl | rfl | rfl <;>
      simp only [regView, groupWritten, List.lookup_cons, beq_eq_false_iff_ne.2 e]

/-- The table looks at three fields of a group. -/
theorem regView_congr (c : Ctx) {g g' : Group} (pt n : Nat) (h1 : g'.gcb = g.gcb) (h2 : g'.ght = g.ght) (h3 : g'.grgMode = g.grgMode) :
    regView c g' pt n = regView c g pt n := by
  unfold regView
  rw [h1, h2, h3]

/-- What a group that an instruction reads shows of the group. -/
theorem asRead_keeps (g : Group) (lanes : BitVec 32) : (g.asRead lanes).lanes = g.lanes ∧ (g.asRead lanes).gcb = g.gcb ∧
    (g.asRead lanes).ght = g.ght ∧ (g.asRead lanes).grgMode = g.grgMode := by
  unfold Group.asRead
  split <;> exact ⟨rfl, rfl, rfl, rfl⟩

/-- The path after its group has changed and it has gone on. -/
theorem pathOf_atNext {s u : State} {p : Path} {g : Group} (hp : pathOf s = some p) (hpg : PathGroup s p g) {G : Group → Group}
    (hblocks : u.blocks = (withGroup s p G).blocks) (hcur : u.cur = s.cur) (hlanes : (G g).lanes = g.lanes) : ∃ p',
    pathOf (atNext u p) = some p' ∧ p'.b.part = p.b.part ∧ p'.b.ctx = p.b.ctx ∧
      (∀ c pt n, regView c p'.g pt n = regView c (G g) pt n) ∧ (∀ n ∈ p.lanes, (p'.g.lane n).npc = p.iss.next) ∧
      groupOf (atNext u p) p.iss.blk p.iss.grp = some (withLanes p (fun _ => sentOn p) (G g)) := by
  have hiss : s.cur = p.iss := by
    unfold pathOf at hp
    obtain ⟨b, hb, hp⟩ := Option.bind_eq_some_iff.1 hp
    obtain ⟨g', hg', rfl⟩ := Option.map_eq_some_iff.1 hp
    rfl
  have hu : groupOf u p.iss.blk p.iss.grp = some (G g) := by
    rw [← groupOf_withGroup hpg G]
    unfold groupOf blockOf
    rw [hblocks]
  have hgroup := groupOf_atNext hu
  have hlive : LivePath p (G g) := fun n hn => by
    have := hpg.livePath n hn
    unfold Group.lane at this ⊢
    rwa [hlanes]
  obtain ⟨b', hb', hg'⟩ := Option.bind_eq_some_iff.1 hgroup
  have hids : b'.part = p.b.part ∧ b'.ctx = p.b.ctx := by
    have hmap (f : Block → Nat) (hf : ∀ (b : Block) (k : Nat) (F : Group → Group), f (b.modGroup k F) = f b) : f b' = f p.b := by
      have h1 := blockOf_withGroup u p (withLanes p fun _ => sentOn p) p.iss.blk
      have h2 : blockOf u p.iss.blk = some (p.b.modGroup p.iss.grp G) := by
        have := blockOf_withGroup s p G p.iss.blk
        rw [if_pos rfl, hpg.block] at this
        rw [← Option.map_some (f := fun b : Block => b.modGroup p.iss.grp G), ← this]
        unfold blockOf
        rw [hblocks]
      rw [if_pos rfl, h2] at h1
      have e : b' = (p.b.modGroup p.iss.grp G).modGroup p.iss.grp (withLanes p fun _ => sentOn p) :=
        Option.some_inj.1 (hb'.symm.trans h1)
      rw [e, hf, hf]
    exact ⟨hmap Block.part fun _ _ _ => rfl, hmap Block.ctx fun _ _ _ => rfl⟩
  refine ⟨{ iss := p.iss, b := b', g := (withLanes p (fun _ => sentOn p) (G g)).asRead p.iss.lanes }, ?_, hids.1, hids.2,
    fun c pt n => ?_, fun n hn => ?_, hgroup⟩
  · have hcur' : (atNext u p).cur = p.iss := hcur.trans hiss
    unfold pathOf
    rw [hcur', hb', Option.bind_some, hg']
    rfl
  · obtain ⟨-, h1, h2, h3⟩ := asRead_keeps (withLanes p (fun _ => sentOn p) (G g)) p.iss.lanes
    exact regView_congr c pt n h1 h2 h3
  · rw [← npc_sentOn hlive n hn]
    unfold Group.lane
    rw [(asRead_keeps _ _).1]

/-- `sysw` of a register that the level may write, with a value that is not reserved. -/
theorem sysw_writes {s : State} {p : Path} {x : UExt} {a : BitVec 6} {num : BitVec 12} (h : URuns s p x)
    (hreg : isSysReg num.toNat = true) (hl : writeLevel num.toNat ≤ p.b.level1.toNat)
    (hv : sysValueBad s p num.toNat (p.g.usrc a.toNat) = false) :
    exec (.sysw a num x) s = .next (atNext (writeSys s p num.toNat (p.g.usrc a.toNat)) p) := by
  show execSysw a num x s = _
  unfold execSysw
  refine uniform_done h ?_
  simp only [hreg, Nat.not_lt.2 hl, hv, Bool.not_true, Bool.false_eq_true, if_false]

/-- The level that suffices for a write. -/
theorem writeLevel_le {p : Path} {n : Nat} (hl : p.b.level1 = true ∨ ¬WritesAbove n) (hreg : isSysReg n = true) (h60 : n ≠ 0x060)
    (h71 : n ≠ 0x071) : writeLevel n ≤ p.b.level1.toNat := by
  unfold writeLevel
  rw [if_neg (by simp [h60, h71])]
  rcases hl with hl | hl
  · rw [hl]
    split <;> decide
  · rw [isSysReg_iff] at hreg
    unfold WritesAbove at hl
    rw [if_pos (by simp only [Bool.and_eq_true, decide_eq_true_eq]; omega)]
    exact Nat.zero_le _

theorem systemWrites : SystemWrites := by
  intro a num x s p h hl hn41 h60 h71 hval hpart hctx hgbp htrc hv
  obtain ⟨v0, hv0⟩ := Option.isSome_iff_exists.1 hval
  have hreg := isSysReg_of_sysValue hv0
  have h60' : num.toNat ≠ 0x060 := fun e => h60 (BitVec.eq_of_toNat_eq e)
  have h71' : num.toNat ≠ 0x071 := fun e => h71 (BitVec.eq_of_toNat_eq e)
  have hexec := sysw_writes (a := a) h hreg (writeLevel_le hl hreg h60' h71') hv
  obtain ⟨g, hpg⟩ := pathGroup_of_pathOf h.path
  have hg := asRead_of_pathOf h.path hpg
  have hview (c : Ctx) (pt n : Nat) : regView c p.g pt n = regView c g pt n := by
    rw [hg]
    rfl
  have hcases : InGroup num.toNat ∨ InCtx num.toNat := by
    have := number_of_sysValue hv0
    simp only [InGroup, InCtx, List.mem_cons, List.not_mem_nil, or_false] at this ⊢
    omega
  rcases hcases with hin | hin
  · obtain ⟨hlanes, hureg⟩ := groupWritten_keeps num.toNat (p.g.usrc a.toNat) g
    obtain ⟨p', hp', hpt, hcx, hp'g, hnpc, hg'⟩ := pathOf_atNext h.path hpg (G := groupWritten num.toNat (p.g.usrc a.toNat))
      (u := withGroup s p (groupWritten num.toNat (p.g.usrc a.toNat))) rfl rfl hlanes
    have hvals (n : Nat) : sysValue (atNext (withGroup s p (groupWritten num.toNat (p.g.usrc a.toNat))) p) p' n =
        if n = num.toNat then some (keptOf num.toNat (p.g.usrc a.toNat)) else sysValue s p n := by
      rw [sysValue_eq, sysValue_eq, hp'g, regView_groupWritten _ _ _ _ hin, hview, hpt, hcx]
      rfl
    rw [writeSys_group s p _ hin] at hexec
    refine ⟨_, p', hexec, hp', by rw [hvals, if_pos rfl], fun n hn => by rw [hvals, if_neg hn], hnpc, fun g0 g' h0 h1 => ?_, rfl⟩
    rw [hg'] at h1
    rw [hpg.groupOf_eq] at h0
    cases h1
    cases h0
    exact hureg
  · let u := modCtx s p.b.part p.b.ctx fun c => c.writeSys num.toNat (p.g.usrc a.toNat)
    obtain ⟨p', hp', hpt, hcx, hp'g, hnpc, hg'⟩ := pathOf_atNext h.path hpg (G := id) (u := u)
      ((modCtx_blocks _ _ _ _).trans (congrArg State.blocks (withGroup_self s p)).symm) (modCtx_cur _ _ _ _) rfl
    have hvals (n : Nat) : sysValue (atNext u p) p' n =
        if n = num.toNat then some (keptOf num.toNat (p.g.usrc a.toNat)) else sysValue s p n := by
      have hc : ctxOf (atNext u p) p.b.part p.b.ctx = (ctxOf s p.b.part p.b.ctx).writeSys num.toNat (p.g.usrc a.toNat) :=
        ctxOf_modCtx hpart hctx _
      have ht : (atNext u p).ptime = s.ptime := modCtx_ptime _ _ _ _
      rw [sysValue_eq, sysValue_eq, hp'g, hpt, hcx, hc, ht, regView_writeSys _ _ _ _ hin hgbp htrc, hview]
      rfl
    rw [writeSys_ctx s p _ hin] at hexec
    refine ⟨_, p', hexec, hp', ?_, fun n hn => ?_, hnpc, fun g0 g' h0 h1 => ?_, modCtx_dram _ _ _ _⟩
    · exact (hvals _).trans (if_pos rfl)
    · exact (hvals n).trans (if_neg hn)
    · rw [hpg.groupOf_eq] at h0
      have := hg'.symm.trans h1
      cases this
      cases h0
      rfl

/-! ### Trap registers -/

theorem isSysReg_trap {n : Nat} (h : 0x041 ≤ n ∧ n ≤ 0x048) : isSysReg n = true := by
  rw [isSysReg_iff]
  omega

/-- A trap register is read from the record that the group's block serves. -/
theorem readSys_trap (s : State) (p : Path) {n : Nat} (h : 0x041 ≤ n ∧ n ≤ 0x048) : readSys s p n = trapReg s p.b n := by
  obtain ⟨h1, h2⟩ := h
  interval_cases n <;> rfl

theorem trapReg_of_served {s : State} {b : Block} {r : TrapRec} {slot k : Nat} (h : servedRec s b = some (r, slot, k)) {e : BitVec 12 × DWord}
    (he : e ∈ [((0x041 : BitVec 12), trapCause r slot k), (0x042, r.npcW.getD r.npc), (0x043, r.xpc), (0x044, r.gpcW.getD r.gpc),
      (0x045, 0#56 ++ r.gopW.getD r.gop), (0x046, trapTid r), (0x047, r.addr), (0x048, r.info)]) : trapReg s b e.1.toNat = e.2 := by
  unfold trapReg
  rw [h]
  simp only [List.mem_cons, List.not_mem_nil, or_false] at he
  rcases he with rfl | rfl | rfl | rfl | rfl | rfl | rfl | rfl
  case inr.inr.inr.inr.inl => exact setWidth_eq_zero_append (m := 56) _
  all_goals rfl

theorem trapReg_none {s : State} {b : Block} (h : servedRec s b = none) (n : Nat) : trapReg s b n = 0 := by
  unfold trapReg
  rw [h]

/-- A write of a trap register is one of its record. -/
theorem writeSys_trap (s : State) (p : Path) {n : Nat} (v : DWord) (h : 0x041 ≤ n ∧ n ≤ 0x048) :
    writeSys s p n v = modServed s p.b fun r => r.write n v := by
  obtain ⟨h1, h2⟩ := h
  interval_cases n <;> rfl

theorem write_eq_writtenRec (r : TrapRec) {n : Nat} (v : DWord) (h : 0x041 ≤ n ∧ n ≤ 0x048) : r.write n v = writtenRec r n v := by
  by_cases hnpc : n = 0x042
  · subst hnpc
    unfold TrapRec.write writtenRec
    cases hc : r.cmd <;> simp
  · obtain rfl | hlate : n = 0x041 ∨ 0x043 ≤ n := by omega
    · rfl
    · obtain ⟨-, h2⟩ := h
      interval_cases n <;> rfl

/-- A write of a trap register with a legal stepping mode. -/
theorem sysw_trap {s : State} {p : Path} {x : UExt} {a : BitVec 6} {num : BitVec 12} (h : URuns s p x) (hl : p.b.level1 = true)
    (hnum : 0x041 ≤ num.toNat ∧ num.toNat ≤ 0x048) (hv : num = 0x041 → (p.g.usrc a.toNat).extractLsb' 10 2 ≠ 3) :
    exec (.sysw a num x) s = .next (atNext (modServed s p.b fun r => writtenRec r num.toNat (p.g.usrc a.toNat)) p) := by
  have hgood : sysValueBad s p num.toNat (p.g.usrc a.toNat) = false := by
    have h41 : num.toNat = 0x041 → ¬ bits (p.g.usrc a.toNat).toNat 10 2 = 3 := fun e h3 => by
      rw [bits_toNat] at h3
      exact hv (BitVec.eq_of_toNat_eq e) (BitVec.eq_of_toNat_eq h3)
    have h32 : num.toNat ≠ 0x032 := by omega
    have h70 : num.toNat ≠ 0x070 := by omega
    unfold sysValueBad
    by_cases e : num.toNat = 0x041
    · simp [h32, h70, h41 e]
    · simp [h32, h70, e]
  have hlevel : writeLevel num.toNat ≤ p.b.level1.toNat := by
    refine writeLevel_le (.inl hl) (isSysReg_trap hnum) ?_ ?_ <;> omega
  rw [sysw_writes h (isSysReg_trap hnum) hlevel hgood, writeSys_trap _ _ _ hnum]
  simp only [write_eq_writtenRec _ _ hnum]

/-- A context that has a stop exists. -/
theorem exists_of_stopOf {s : State} {p c slot : Nat} {q : StopSlot} (h : stopOf s p c slot = some q) :
    (cfind s.parts p).isSome = true ∧ (cfind (partOf s p).ctxs c).isSome = true := by
  have hmem := List.mem_of_find?_eq_some h
  constructor
  · by_contra hn
    rw [Option.not_isSome_iff_eq_none] at hn
    simp [ctxOf, partOf, hn, cfind] at hmem
  · by_contra hn
    rw [Option.not_isSome_iff_eq_none] at hn
    simp [ctxOf, hn] at hmem

/-- The record that a handler of a stop serves, changed. -/
theorem stopOf_modServed {s : State} {b : Block} {slot k : Nat} {q : StopSlot} {r : TrapRec} (ho : b.origin = .handler slot k)
    (hq : stopOf s b.part b.ctx slot = some q) (hr : q.recs[k]? = some r) (f : TrapRec → TrapRec) :
    stopOf (modServed s b f) b.part b.ctx slot = some { q with recs := q.recs.set k (f r) } := by
  obtain ⟨hp, hc⟩ := exists_of_stopOf hq
  have hmod : q.recs.modify k f = q.recs.set k (f r) := by
    rw [List.modify_eq_set_getElem?, hr]
    rfl
  unfold stopOf modServed
  rw [ho]
  dsimp only
  rw [ctxOf_modCtx hp hc]
  refine (find_modified StopSlot.slot slot slot (fun q => { q with recs := q.recs.modify k f }) (fun _ => rfl) _).trans ?_
  rw [if_pos rfl, show (ctxOf s b.part b.ctx).stops.find? (fun q => q.slot = slot) = some q from hq, Option.map_some, hmod]

/-- The record of a notice's handler after a write. -/
def noticeWritten (n : Nat) (v : DWord) (b : Block) : Block :=
  { b with origin := match b.origin with
      | .notice r => .notice (writtenRec r n v)
      | o => o }

theorem systemTrapRegisters : TrapRegisters := by
  refine ⟨fun d x s p r slot k h hl hserved e he => ?_, fun d num x s p h hl hserved h1 h2 => ?_, fun a num x s p h hl h1 h2 => ?_⟩
  · have hnum : 0x041 ≤ e.1.toNat ∧ e.1.toNat ≤ 0x048 := by
      simp only [List.mem_cons, List.not_mem_nil, or_false] at he
      rcases he with rfl | rfl | rfl | rfl | rfl | rfl | rfl | rfl <;> exact ⟨Nat.le_of_ble_eq_true rfl, Nat.le_of_ble_eq_true rfl⟩
    rw [sysr_reads d h (isSysReg_trap hnum) (.inl hl), readSys_trap s p hnum, trapReg_of_served hserved he]
  · rw [sysr_reads d h (isSysReg_trap ⟨h1, h2⟩) (.inl hl), readSys_trap s p ⟨h1, h2⟩, trapReg_none hserved]
  · intro v hv
    constructor
    · intro slot k q r ho hq hr
      obtain ⟨g, hpg⟩ := pathGroup_of_pathOf h.path
      have hg : groupOf (modServed s p.b fun r => writtenRec r num.toNat v) p.iss.blk p.iss.grp = some g := by
        rw [← hpg.groupOf_eq]
        unfold groupOf blockOf modServed
        rw [ho]
        dsimp only
        rw [modCtx_blocks]
      exact ⟨_, _, sysw_trap h hl ⟨h1, h2⟩ hv, stopOf_modServed ho hq hr _, groupOf_atNext hg, npc_sentOn hpg.livePath⟩
    · intro r ho
      obtain ⟨g, hpg⟩ := pathGroup_of_pathOf h.path
      have hid : p.b.id = p.iss.blk := by simpa using List.find?_some hpg.block
      have hserved : modServed s p.b (fun r => writtenRec r num.toNat v) = modBlock s p.b.id (noticeWritten num.toNat v) := by
        unfold modServed
        rw [ho]
        rfl
      have hblk := blockOf_modBlock s p.b.id (noticeWritten num.toNat v) (fun _ => rfl) p.iss.blk
      rw [if_pos hid.symm, hpg.block] at hblk
      have hnext := blockOf_withGroup (modBlock s p.b.id (noticeWritten num.toNat v)) p (withLanes p fun _ => sentOn p) p.iss.blk
      rw [if_pos rfl, hblk] at hnext
      refine ⟨_, (noticeWritten num.toNat v p.b).modGroup p.iss.grp (withLanes p fun _ => sentOn p), withLanes p (fun _ => sentOn p) g,
        sysw_trap h hl ⟨h1, h2⟩ hv, ?_, ?_, ?_, npc_sentOn hpg.livePath⟩
      · rw [hserved]
        exact hnext
      · show (noticeWritten num.toNat v p.b).origin = _
        unfold noticeWritten
        rw [ho]
      · show ((noticeWritten num.toNat v p.b).groups.modify p.iss.grp _)[p.iss.grp]? = _
        rw [List.getElem?_modify, show (noticeWritten num.toNat v p.b).groups[p.iss.grp]? = some g from hpg.group]
        simp

/-- Settles O43. -/
theorem systemRegisterResults : Obligations.SystemRegisterResults := ⟨systemReads, systemWrites, systemTrapRegisters⟩

end Sys2Proof.Proofs
end
section
/-! FACTS for O44, O42 and O27: which threads live, and in which groups, is left as it is by writes to memory, by granules that change, and
by the waiting operations that are then done. -/

namespace Sys2Proof.Proofs

open Sys2Proof Sys2Proof.Machine Sys2Proof.Claims Sys2Proof.Laws

/-! ### Blocks, groups and live lanes -/

/-- The live lanes of a group. -/
def groupLives (g : Group) : List Bool := g.lanes.map Lane.live

/-- The blocks with their groups' live lanes. -/
def lives (s : State) : List (Nat × List (List Bool)) := s.blocks.map fun b => (b.id, b.groups.map groupLives)

/-- The same blocks, groups and live lanes are there. -/
def SameLives (s t : State) : Prop := lives t = lives s

namespace SameLives

theorem refl (s : State) : SameLives s s := rfl

theorem trans {s t u : State} (h : SameLives s t) (k : SameLives t u) : SameLives s u := Eq.trans k h

theorem foldl {β : Type} {f : State → β → State} (hf : ∀ s x, SameLives s (f s x)) (xs : List β) (s : State) :
    SameLives s (xs.foldl f s) := by
  induction xs generalizing s with
  | nil => exact refl s
  | cons x xs ih => exact (hf s x).trans (ih _)

theorem of_blocks {s t : State} (h : t.blocks = s.blocks) : SameLives s t := by
  unfold SameLives lives
  rw [h]

theorem modBlock (s : State) (id : Nat) {f : Block → Block} (hid : ∀ b, (f b).id = b.id)
    (hf : ∀ b, (f b).groups.map groupLives = b.groups.map groupLives) : SameLives s (modBlock s id f) := by
  unfold SameLives lives Machine.modBlock
  rw [List.map_map]
  refine List.map_congr_left fun b _ => ?_
  simp only [Function.comp]
  split
  · rw [hid, hf]
  · rfl

theorem modGroup (s : State) (id gi : Nat) {f : Group → Group} (hf : ∀ g, groupLives (f g) = groupLives g) : SameLives s (modGroup s id gi f) := by
  refine modBlock (f := fun b => b.modGroup gi f) s id (fun _ => rfl) fun b => ?_
  refine List.ext_getElem? fun k => ?_
  rw [List.getElem?_map, List.getElem?_map, Block.modGroup, List.getElem?_modify]
  cases b.groups[k]? with
  | none => rfl
  | some g =>
    simp only [Option.map_some, Option.map_eq_map]
    split
    · rw [hf]
    · rfl

theorem modLane (s : State) (id gi n : Nat) {f : Lane → Lane} (hf : ∀ l, (f l).live = l.live) : SameLives s (modLane s id gi n f) := by
  refine SameLives.modGroup s id gi (f := fun g => g.modLane n f) fun g => ?_
  refine List.ext_getElem? fun k => ?_
  unfold groupLives
  rw [List.getElem?_map, List.getElem?_map, Group.modLane, List.getElem?_modify]
  cases g.lanes[k]? with
  | none => rfl
  | some l =>
    simp only [Option.map_some, Option.map_eq_map]
    split
    · rw [hf]
    · rfl

/-- The group is there still, and the same lanes of it live. -/
theorem group {s t : State} (h : SameLives s t) {blk grp : Nat} {g : Group} (hg : groupOf s blk grp = some g) :
    ∃ g', groupOf t blk grp = some g' ∧ ∀ n, (g'.lane n).live = (g.lane n).live := by
  have hfind (u : State) : (groupOf u blk grp).map groupLives =
      ((lives u).find? fun e => e.1 = blk).bind fun e => e.2[grp]? := by
    unfold groupOf blockOf lives
    rw [List.find?_map]
    simp only [Function.comp_def, Block.group]
    cases u.blocks.find? fun b => b.id = blk with
    | none => rfl
    | some b => simp
  have e : (groupOf t blk grp).map groupLives = some (groupLives g) := by
    rw [hfind, h, ← hfind, hg, Option.map_some]
  obtain ⟨g', hg', hlives⟩ := Option.map_eq_some_iff.1 e
  refine ⟨g', hg', fun n => ?_⟩
  have hn (x : Group) : (x.lane n).live = ((groupLives x)[n]?).getD false := by
    unfold Group.lane groupLives
    rw [List.getElem?_map]
    cases x.lanes[n]? <;> rfl
  rw [hn, hn, hlives]

end SameLives

/-! ### Memory and granules -/

theorem sameLives_put (s : State) (v : Byte) (p : Place) : SameLives s (p.put s v) := by
  cases p with
  | phys pa => exact .of_blocks (by rw [show Place.put s v (.phys pa) = physWrite s pa v from rfl, landed_physWrite s pa v])
  | priv b g l o => exact .modLane s b g l fun _ => rfl
  | scr b o => exact (SameLives.modBlock s b (f := fun x => { x with scratch := mput x.scratch o v }) (fun _ => rfl) fun _ => rfl).trans (.of_blocks rfl)
  | csh c o => exact .of_blocks rfl
  | dsp a => exact .of_blocks rfl
  | window b g n o => exact .modLane s b g (o / 4) fun _ => rfl

theorem sameLives_putBytes (s : State) (p : Place) (bs : List Byte) : SameLives s (putBytes s p bs) := by
  induction bs generalizing s p with
  | nil => exact .refl s
  | cons v vs ih => exact (sameLives_put s v p).trans (ih _ _)

theorem sameLives_landed {s t : State} (h : Landed s t) : SameLives s t := .of_blocks (by rw [h])

theorem sameLives_writePlace (s : State) (p : Place) (bs : List Byte) : SameLives s (writePlace s p bs) := by
  unfold writePlace
  split
  · exact sameLives_landed (landed_physWrites s _ bs)
  · exact sameLives_putBytes s p bs

theorem sameLives_modFull (s : State) (sp : FeSpace) (f : List Nat → List Nat) : SameLives s (modFull s sp f) := by
  unfold modFull
  cases sp with
  | scr b => exact (SameLives.of_blocks rfl).trans (.modBlock _ b (fun _ => rfl) fun _ => rfl)
  | csh c => exact .of_blocks rfl
  | dsp => exact .of_blocks rfl

theorem sameLives_setFull (s : State) (sp : FeSpace) (k : Nat) (v : Bool) : SameLives s (setFull s sp k v) :=
  (SameLives.of_blocks (t := restartWaits s sp [k] v) rfl).trans ((sameLives_modFull _ sp _).trans (.of_blocks rfl))

/-! ### Waiting operations -/

theorem sameLives_feRelease (s : State) (blk grp : Nat) (pc : DWord) : SameLives s (feRelease s blk grp pc) := by
  unfold feRelease
  split
  · exact .refl s
  · dsimp only
    split
    · exact .refl s
    · refine .modGroup s blk grp fun g => ?_
      unfold groupLives
      rw [List.map_map]
      refine List.map_congr_left fun l _ => ?_
      exact feGone_live pc l

theorem sameLives_trapLanes (s : State) (blk grp : Nat) (rg : Bool) (ts : List (Nat × Trap)) :
    SameLives s (trapLanes s blk grp rg ts) := by
  unfold trapLanes
  split
  · exact .refl s
  · split
    · exact .refl s
    · unfold stopWith
      split
      · exact .refl s
      · exact .modGroup s blk grp fun _ => rfl

theorem sameLives_feStop (s : State) (w : FeWait) (t : Trap) : SameLives s (feStop s w t) := by
  unfold feStop
  refine .trans (.trans ?_ (sameLives_trapLanes _ _ _ _ _)) (sameLives_feRelease _ _ _ _)
  exact .modLane s w.blk w.grp w.lane fun _ => rfl

theorem sameLives_sealSources (s : State) (blk : Nat) (tids : List (BitVec 16)) : SameLives s (sealSources s blk tids) :=
  .of_blocks (by rw [onlyRead_sealSources s blk tids])

theorem dstBits_live (l : Lane) (d : BitVec 7) (n x : Nat) : (l.dstBits d n x).live = l.live := by
  unfold Lane.dstBits
  split
  · rfl
  · split <;> rfl

/-- What a lane is once its waiting operation is done. -/
theorem feDone_live (l : Lane) : (match l.hold with
    | .fe next => { l with hold := .feDone next }
    | _ => l : Lane).live = l.live := by
  split <;> rfl

theorem sameLives_fePerform (s : State) (w : FeWait) : SameLives s (fePerform s w) := by
  have hseal := sameLives_sealSources s w.blk [((groupOf s w.blk w.grp).map fun g => (g.lane w.lane).tid).getD 0]
  unfold fePerform
  refine .trans (hseal.trans ?_) (sameLives_feRelease _ _ _ _)
  cases w.op with
  | load clear =>
    dsimp only
    refine .trans (.trans ?_ (.foldl (f := fun s k => coverPoison s (.reg w.blk w.grp w.lane (w.d.toNat + k)) 0 4)
      (fun _ _ => .of_blocks rfl) _ _)) (.modLane _ _ _ _ fun l => ?_)
    · cases clear
      · exact .refl _
      · exact sameLives_setFull _ _ _ _
    · exact (feDone_live _).trans (dstBits_live _ _ _ _)
  | store v =>
    refine .trans (.trans (sameLives_writePlace _ _ _) (.trans (sameLives_landed (landed_coverPlace _ _ _)) (sameLives_setFull _ _ _ _)))
      (.modLane _ _ _ _ feDone_live)

theorem sameLives_feServe (fuel : Nat) (s : State) : SameLives s (feServe fuel s) := by
  induction fuel generalizing s with
  | zero => exact .refl s
  | succ fuel ih =>
    unfold feServe
    split
    · exact .refl s
    · next w _ =>
      refine .trans (.trans (.of_blocks (t := { s with feq := s.feq.erase w }) rfl) ?_) (ih _)
      split
      · exact sameLives_feStop _ _ _
      · exact sameLives_fePerform _ _

theorem sameLives_engineLocal (s : State) (p : Place) (bad : Bool) (bs : List Byte) : SameLives s (engineLocal s p bad bs) := by
  have hfulls (t : State) (sp : FeSpace) (k : Nat) (is : List Nat) : SameLives t (is.foldl (fun s i => setFull s sp (k + i) true) t) :=
    .foldl (fun _ _ => sameLives_setFull _ _ _ _) _ _
  have hbytes : SameLives s (coverPlace (writePlace s p bs) p bs.length) :=
    (sameLives_writePlace s p bs).trans (sameLives_landed (landed_coverPlace _ p bs.length))
  have hbad : SameLives s (if bad then poisonPlace (coverPlace (writePlace s p bs) p bs.length) p bs.length else
      coverPlace (writePlace s p bs) p bs.length) := by
    split
    · exact hbytes.trans (sameLives_landed (landed_poisonPlace _ _ _))
    · exact hbytes
  unfold engineLocal
  refine .trans (hbad.trans ?_) (sameLives_feServe _ _)
  generalize (if bad then poisonPlace (coverPlace (writePlace s p bs) p bs.length) p bs.length else
    coverPlace (writePlace s p bs) p bs.length) = t
  split
  · split
    · exact hfulls _ _ _ _
    · exact .refl _
  · exact .refl _

end Sys2Proof.Proofs
end
section
/-! PROOF of O44 (R300, R332, R334 to R338): the counters of a context, the start and end of sampling, and a marker. -/

namespace Sys2Proof.Proofs

open Sys2Proof Sys2Proof.Machine Sys2Proof.Claims Sys2Proof.Laws

/-! ### Counters -/

theorem perfRd_reads {s : State} {p : Path} {x : UExt} (d a : BitVec 6) (h : URuns s p x) :
    exec (.perfRd d a x) s = .next (uniNext s p p.iss.next fun g => g.udst d.toNat
      (if cget 0 (ctxOf s p.b.part p.b.ctx).sels ((p.g.usrc a.toNat).toNat % 64) = 0x070 ∨
          cget 0 (ctxOf s p.b.part p.b.ctx).sels ((p.g.usrc a.toNat).toNat % 64) = 0x071 then 0
        else 0#16 ++ cget 0 (ctxOf s p.b.part p.b.ctx).counters ((p.g.usrc a.toNat).toNat % 64))) := by
  show execPerfRd d a x s = _
  unfold execPerfRd
  rw [← atNext_group]
  refine uniform_done h ?_
  dsimp only
  simp only [Bool.or_eq_true, decide_eq_true_eq]
  rw [← setWidth_eq_zero_append (m := 16)]
  exact congrArg UEnd.done (modGroup_eq s p _)

theorem isEventCode_iff (n : Nat) : isEventCode n = true ↔ EventCode n := by
  simp [isEventCode, EventCode, or_assoc]

/-- Bit 15 of a double word, as a field of one bit. -/
theorem bits_one (v : DWord) (k : Nat) : bits v.toNat k 1 = 1 ↔ v.getLsbD k = true := by
  rw [bits, Nat.pow_one, BitVec.getLsbD, Nat.testBit_eq_decide_div_mod_eq, decide_eq_true_eq]

theorem perfSel_selects {s : State} {p : Path} {x : UExt} (a b : BitVec 6) (h : URuns s p x)
    (hk : (p.g.usrc a.toNat).toNat % 64 < 62) (he : EventCode ((p.g.usrc b.toNat).extractLsb' 0 12).toNat) :
    exec (.perfSel a b x) s = .next (atNext (modCtx s p.b.part p.b.ctx fun c =>
      { c with
        sels := cput 0 c.sels ((p.g.usrc a.toNat).toNat % 64) ((p.g.usrc b.toNat).extractLsb' 0 12).toNat
        armed := if (p.g.usrc b.toNat).getLsbD 15 then sinsert c.armed ((p.g.usrc a.toNat).toNat % 64)
          else sremove c.armed ((p.g.usrc a.toNat).toNat % 64)
        former := cset c.former ((p.g.usrc a.toNat).toNat % 64)
          (s.clk, cget 0 c.sels ((p.g.usrc a.toNat).toNat % 64), c.armed.contains ((p.g.usrc a.toNat).toNat % 64)) }) p) := by
  show execPerfSel a b x s = _
  unfold execPerfSel
  refine uniform_done h ?_
  simp only [bits_toNat _ 0, (isEventCode_iff _).2 he, Nat.not_le.2 hk, bits_one, decide_false, Bool.not_true, Bool.or_false,
    Bool.false_eq_true, if_false]

theorem perfSel_traps {s : State} {p : Path} {x : UExt} (a b : BitVec 6) (h : URuns s p x)
    (hk : 62 ≤ (p.g.usrc a.toNat).toNat % 64 ∨ ¬EventCode ((p.g.usrc b.toNat).extractLsb' 0 12).toNat) :
    ∃ r, exec (.perfSel a b x) s = .next (stopIn s p [r]) ∧ GroupRec p r 0x05 0 (p.iss.word.setWidth 64) (p.g.lane p.lead).npc := by
  show ∃ r, execPerfSel a b x s = _ ∧ _
  unfold execPerfSel
  refine uniform_wordTrap h ?_
  dsimp only
  rw [bits_toNat _ 0, if_pos]
  rw [Bool.or_eq_true, decide_eq_true_eq, Bool.not_eq_true', Bool.eq_false_iff]
  exact hk.imp_right fun hn he => hn ((isEventCode_iff _).1 he)

/-- Events that a counter does not select leave it. -/
theorem counter_addTo_other {k : Nat} (ks : List Nat) (hk : k ∉ ks) (armed : Ctx → Nat → Bool) (n : Nat) (c : Ctx) :
    cget 0 (ks.foldl (fun x k => x.addTo (armed x k) k n) c).counters k = cget 0 c.counters k := by
  induction ks generalizing c with
  | nil => rfl
  | cons j js ih =>
    rw [List.mem_cons, not_or] at hk
    rw [List.foldl_cons, ih hk.2, Ctx.addTo, cget_cput, if_neg hk.1]

theorem exists_of_former {s : State} {p c k : Nat} {e : Nat × Nat × Bool} (h : cfind (ctxOf s p c).former k = some e) :
    (cfind s.parts p).isSome = true ∧ (cfind (partOf s p).ctxs c).isSome = true := by
  constructor
  · by_contra hn
    rw [Option.not_isSome_iff_eq_none] at hn
    simp [ctxOf, partOf, hn, cfind] at h
  · by_contra hn
    rw [Option.not_isSome_iff_eq_none] at hn
    simp [ctxOf, hn, cfind] at h

/-- A counter whose selection has changed counts by the former one in that cycle. -/
theorem countEvent_other {s : State} {p c k q e code : Nat} {arm : Bool} (hf : cfind (ctxOf s p c).former k = some (q, e, arm))
    (hcode : code ≠ if q = s.clk then e else cget 0 (ctxOf s p c).sels k) (n : Nat) :
    cget 0 (ctxOf (countEvent s p c code n) p c).counters k = cget 0 (ctxOf s p c).counters k := by
  have hnot : k ∉ (ctxOf s p c).counting s.clk code := fun hmem => by
    have hsel := of_decide_eq_true (List.mem_filter.1 hmem).2
    unfold Ctx.selected at hsel
    rw [hf] at hsel
    refine hcode ?_
    rw [← hsel]
    dsimp only
    split <;> rfl
  unfold countEvent
  split
  · obtain ⟨hp, hc⟩ := exists_of_former hf
    rw [ctxOf_modCtx hp hc]
    exact counter_addTo_other _ hnot (fun x k => (x.selected s.clk k).2) n _
  · rfl

/-! ### Sampling -/

theorem perfSample_ends {s : State} {p : Path} {x : UExt} (a : BitVec 6) (h : URuns s p x)
    (h0 : (p.g.usrc a.toNat).extractLsb' 0 32 = 0) :
    exec (.perfSample a x) s = .next (atNext (modCtx s p.b.part p.b.ctx fun c =>
      { c with sampling := { c.sampling with interval := 0 } }) p) := by
  show execPerfSample a x s = _
  unfold execPerfSample
  refine uniform_done h ?_
  dsimp only
  rw [bits_toNat, h0]
  exact if_pos rfl

/-- `perf.sample` with an interval. -/
theorem perfSample_starts {s : State} {p : Path} {x : UExt} (a : BitVec 6) (h : URuns s p x)
    (h0 : (p.g.usrc a.toNat).extractLsb' 0 32 ≠ 0) :
    exec (.perfSample a x) s = (startSampling s p ((p.g.usrc a.toNat).extractLsb' 0 32).toNat
      ((p.g.usrc a.toNat).extractLsb' 32 32).toNat).out p := by
  have hne : ((p.g.usrc a.toNat).extractLsb' 0 32).toNat ≠ 0 := fun e => h0 (BitVec.eq_of_toNat_eq e)
  show execPerfSample a x s = _
  unfold execPerfSample
  rw [uniform_runs h]
  dsimp only
  rw [bits_toNat, bits_toNat, if_neg hne]

theorem perfSample_traps {s : State} {p : Path} {x : UExt} (a : BitVec 6) (h : URuns s p x)
    (h0 : (p.g.usrc a.toNat).extractLsb' 0 32 ≠ 0)
    (hd : ((p.g.usrc a.toNat).extractLsb' 32 32).toNat % 16 ≠ 0 ∨
      dspAddr (partOf s p.b.part).desc ((p.g.usrc a.toNat).extractLsb' 32 32).toNat 16 = none) :
    ∃ r, exec (.perfSample a x) s = .next (stopIn s p [r]) ∧
      GroupRec p r 0x0C (BitVec.ofNat 64 ((p.g.usrc a.toNat).extractLsb' 32 32).toNat) 3 (p.g.lane p.lead).npc := by
  have hnone : (if ((p.g.usrc a.toNat).extractLsb' 32 32).toNat % 16 = 0 then
      dspAddr (partOf s p.b.part).desc ((p.g.usrc a.toNat).extractLsb' 32 32).toNat 16 else none) = none := by
    rcases hd with hd | hd
    · exact if_neg hd
    · rw [hd, ite_self]
  rw [perfSample_starts a h h0, ← uniform_runs h fun p s => startSampling s p ((p.g.usrc a.toNat).extractLsb' 0 32).toNat
      ((p.g.usrc a.toNat).extractLsb' 32 32).toNat]
  refine uniform_trap h (e := outTrap 3 ((p.g.usrc a.toNat).extractLsb' 32 32).toNat) ?_
  unfold startSampling
  dsimp only
  rw [hnone]

/-- A number in the bytes of a place of the die scratchpads. -/
theorem fieldAt_dsp (s : State) (core m off k n : Nat) (h : off + k ≤ n) :
    fieldAt (readPlace s core 0 (.dsp m) n) off k = dspNum s (m + off) k := by
  have hbytes : readPlace s core 0 (.dsp m) n = (List.range n).map fun j => mget s.dsp (m + j) := rfl
  have hfield : ((((List.range n).map fun j => mget s.dsp (m + j)).drop off).take k) =
      (List.range k).map fun j => mget s.dsp (m + off + j) := by
    refine List.ext_getElem (by simp; omega) fun i h1 h2 => ?_
    simp [Nat.add_assoc]
  unfold fieldAt dspNum
  rw [hbytes, hfield, leNat_eq_sum]

/-- The ring that a descriptor gives. -/
theorem ringOf_good {s : State} {d : Desc} {core m n : Nat} (hlen : dspNum s (m + 4) 4 = 2 ^ n) (h4 : 4 ≤ n) (h16 : n ≤ 16)
    (hbase : dspNum s m 4 % 32 = 0) (hroom : (dspAddr d (dspNum s m 4) (32 * 2 ^ n)).isSome = true) :
    ringOf d (readPlace s core 0 (.dsp m) 16) = some (dspNum s m 4, 2 ^ n) := by
  have hlow : 16 ≤ 2 ^ n := Nat.pow_le_pow_right Nat.two_pos h4
  have hhigh : 2 ^ n ≤ 65536 := Nat.pow_le_pow_right Nat.two_pos h16
  unfold ringOf
  dsimp only
  rw [fieldAt_dsp s core m 0 4 16 (by omega), fieldAt_dsp s core m 4 4 16 (by omega), hlen, Nat.add_zero]
  simp only [hbase, hlow, hhigh, Nat.log2_two_pow, hroom, decide_true, Bool.and_self, if_true]

theorem perfSample_ring {s : State} {p : Path} {x : UExt} (a : BitVec 6) (h : URuns s p x) {m n : Nat}
    (h0 : (p.g.usrc a.toNat).extractLsb' 0 32 ≠ 0) (halign : ((p.g.usrc a.toNat).extractLsb' 32 32).toNat % 16 = 0)
    (hd : dspAddr (partOf s p.b.part).desc ((p.g.usrc a.toNat).extractLsb' 32 32).toNat 16 = some m)
    (hclean : placePoisoned s (.dsp m) 16 = false) (hlen : dspNum s (m + 4) 4 = 2 ^ n) (h4 : 4 ≤ n) (h16 : n ≤ 16)
    (hbase : dspNum s m 4 % 32 = 0) (hroom : (dspAddr (partOf s p.b.part).desc (dspNum s m 4) (32 * 2 ^ n)).isSome = true) :
    exec (.perfSample a x) s = .next (atNext (modCtx s p.b.part p.b.ctx fun c => { c with sampling :=
      { interval := max ((p.g.usrc a.toNat).extractLsb' 0 32).toNat 4096, ring := some (dspNum s m 4, 2 ^ n), widx := 0 } }) p) := by
  have hstart : startSampling s p ((p.g.usrc a.toNat).extractLsb' 0 32).toNat ((p.g.usrc a.toNat).extractLsb' 32 32).toNat =
      .done (modCtx s p.b.part p.b.ctx fun c => { c with sampling :=
        { interval := max ((p.g.usrc a.toNat).extractLsb' 0 32).toNat 4096, ring := some (dspNum s m 4, 2 ^ n), widx := 0 } }) := by
    unfold startSampling
    dsimp only
    rw [if_pos halign, hd]
    dsimp only
    rw [ringOf_good hlen h4 h16 hbase hroom]
    dsimp only
    rw [hclean]
    exact if_neg Bool.false_ne_true
  rw [perfSample_starts a h h0, hstart]
  exact congrArg Host.Outcome.next (pathTo_eq _ p p.iss.next)

/-! ### Markers -/

/-- The record of a marker. -/
def markOf (s : State) (p : Path) (v : DWord) : RingRec :=
  { time := ptimeOf s, noff := (p.iss.pc - bodyStart s p.b).toNat % 2 ^ 32, core := p.b.core
    gslot := gslotOf s p.b.core p.iss.blk p.iss.grp, flags := 0x80 + (if p.b.lbody then 0x40 else 0), part := p.b.part
    ctx := p.b.ctx, launch := p.b.launch, live := lanesMask p.lanes, value := v }

theorem perfMark_puts {s : State} {p : Path} {x : UExt} (a : BitVec 6) (h : URuns s p x) :
    exec (.perfMark a x) s = .next (atNext (putRecord s p.b.part p.b.ctx (markOf s p (p.g.usrc a.toNat))) p) := by
  show execPerfMark a x s = _
  exact uniform_done h rfl

/-- A number's low bytes are those of its remainder. -/
theorem leBytes_mod (n x : Nat) : leBytes n (x % 256 ^ n) = leBytes n x := by
  induction n generalizing x with
  | zero => rfl
  | succ n ih =>
    have hlow : BitVec.ofNat 8 (x % 256 ^ (n + 1)) = BitVec.ofNat 8 x := by
      apply BitVec.eq_of_toNat_eq
      simp only [BitVec.toNat_ofNat]
      exact Nat.mod_mod_of_dvd x (Dvd.intro_left (256 ^ n) rfl)
    have hhigh : x % 256 ^ (n + 1) / 256 = x / 256 % 256 ^ n := by
      rw [Nat.pow_succ, Nat.mul_comm, Nat.mod_mul_right_div_self]
    simp only [leBytes, hlow, hhigh, ih]

/-- Table 18-2: the 32 bytes of a marker. -/
theorem bytes_markOf (s : State) (p : Path) (v : DWord) : (markOf s p v).bytes = markBytes s p v := by
  have htime : leBytes 8 (ptimeOf s).toNat = leBytes 8 (s.ptime / 30000) := by
    rw [ptimeOf, BitVec.toNat_ofNat]
    exact leBytes_mod 8 _
  have hnoff (n : Nat) : leBytes 4 (n % 2 ^ 32) = leBytes 4 n := leBytes_mod 4 n
  have hflags : leBytes 1 (0x80 + (if p.b.lbody then 0x40 else 0)) = [if p.b.lbody then 0xC0 else 0x80] := by
    cases p.b.lbody <;> rfl
  unfold RingRec.bytes markBytes markOf
  dsimp only
  rw [htime, hnoff, hflags]

theorem length_leBytes (n x : Nat) : (leBytes n x).length = n := by
  induction n generalizing x with
  | zero => rfl
  | succ n ih => simp [leBytes, ih]

theorem length_markBytes (s : State) (p : Path) (v : DWord) : (markBytes s p v).length = 32 := by
  simp only [markBytes, List.length_append, length_leBytes, List.length_singleton]

/-- The same groups live after a record is put, so the path goes on. -/
theorem sameLives_putRecord (s : State) (p c : Nat) (r : RingRec) : SameLives s (putRecord s p c r) := by
  have hctx (f : Ctx → Ctx) : SameLives s (modCtx s p c f) := .of_blocks (modCtx_blocks _ _ _ _)
  unfold putRecord
  dsimp only
  split
  · exact hctx _
  · split
    · exact hctx _
    · split
      · exact hctx _
      · exact (hctx _).trans (sameLives_engineLocal _ _ _ _)

theorem perfMark_goes {s : State} {p : Path} {x : UExt} (a : BitVec 6) (h : URuns s p x) : ∃ t g',
    exec (.perfMark a x) s = .next t ∧ groupOf t p.iss.blk p.iss.grp = some g' ∧ ∀ n ∈ p.lanes, (g'.lane n).npc = p.iss.next := by
  obtain ⟨g, hpg⟩ := pathGroup_of_pathOf h.path
  obtain ⟨g', hg', hlive⟩ := (sameLives_putRecord s p.b.part p.b.ctx (markOf s p (p.g.usrc a.toNat))).group hpg.groupOf_eq
  exact ⟨_, _, perfMark_puts a h, groupOf_atNext hg', npc_sentOn fun n hn => (hlive n).trans (hpg.livePath n hn)⟩

theorem putRecord_noRing {s : State} {p c : Nat} (r : RingRec) (h : (ctxOf s p c).sampling.ring = none) :
    putRecord s p c r = modCtx s p c fun c => c.addCounter 63 1 := by
  unfold putRecord
  dsimp only
  rw [h]
  rfl

/-- The slot of the ring that comes next. -/
structure NextSlot (s : State) (p c base n m : Nat) : Prop where
  ring : (ctxOf s p c).sampling.ring = some (base, n)
  addr : dspAddr (partOf s p).desc (base + 32 * ((ctxOf s p c).sampling.widx % n)) 32 = some m

theorem putRecord_full {s : State} {p c base n m : Nat} (r : RingRec) (h : NextSlot s p c base n m)
    (hfull : isFull s .dsp (m / 16) = true ∨ isFull s .dsp (m / 16 + 1) = true) :
    putRecord s p c r = modCtx s p c fun c => c.addCounter 63 1 := by
  unfold putRecord
  dsimp only
  rw [h.ring]
  dsimp only
  rw [h.addr]
  exact if_pos (by rw [Bool.or_eq_true]; exact hfull)

theorem putRecord_empty {s : State} {p c base n m : Nat} (r : RingRec) (h : NextSlot s p c base n m)
    (h0 : isFull s .dsp (m / 16) = false) (h1 : isFull s .dsp (m / 16 + 1) = false) :
    putRecord s p c r = engineLocal (modCtx s p c fun x => { x with sampling := { x.sampling with widx := x.sampling.widx + 1 } })
      (.dsp m) false r.bytes := by
  unfold putRecord
  dsimp only
  rw [h.ring]
  dsimp only
  rw [h.addr]
  exact if_neg (by simp [h0, h1])

/-- A ring's slots are of 32 bytes. -/
theorem dspAddr_aligned {d : Desc} {a n m : Nat} (h : dspAddr d a n = some m) (ha : a % 32 = 0) : m % 32 = 0 := by
  unfold dspAddr at h
  dsimp only at h
  split at h
  · have := Option.some_inj.1 h
    omega
  · cases h

/-- Without waiting operations none is done. -/
theorem feRetry_none {s : State} (h : s.feq = []) : feRetry s = s := by
  unfold feRetry
  rw [h]
  rfl

/-- What a granule of the die scratchpads that becomes full changes. -/
theorem setFull_dsp (s : State) (k : Nat) : (setFull s .dsp k true).dsp = s.dsp ∧ (setFull s .dsp k true).parts = s.parts ∧
    (setFull s .dsp k true).dspFull = sinsert s.dspFull k ∧ (s.feq = [] → (setFull s .dsp k true).feq = []) := by
  refine ⟨rfl, rfl, rfl, fun h => ?_⟩
  show (restartWaits s .dsp [k] true).feq = []
  unfold restartWaits
  rw [h]
  rfl

theorem contains_sinsert (l : List Nat) (k j : Nat) : (sinsert l k).contains j = (l.contains j || j == k) := by
  induction l with
  | nil => exact (Bool.or_false _).trans (Bool.false_or _).symm
  | cons a l ih =>
    unfold sinsert
    split
    · simp only [List.contains_cons, Bool.or_comm]
    · split
      · next h => subst h; simp only [List.contains_cons]; cases (j == k) <;> simp
      · simp only [List.contains_cons, ih, Bool.or_assoc]

/-- Without waiting operations, bytes that reach a slot of the die scratchpads fill its two granules. -/
theorem engineLocal_slot {s : State} {m : Nat} {bs : List Byte} (hq : s.feq = []) (hlen : bs.length = 32) (hm : m % 32 = 0) :
    (engineLocal s (.dsp m) false bs).dsp = mputs s.dsp m bs ∧ (engineLocal s (.dsp m) false bs).parts = s.parts ∧
      (engineLocal s (.dsp m) false bs).dspFull = sinsert (sinsert s.dspFull (m / 16)) (m / 16 + 1) := by
  have hj : (m + (32 - 1)) / 16 + 1 - m / 16 = 2 := by omega
  have hwritten : writePlace s (.dsp m) bs = { s with dsp := mputs s.dsp m bs } := putBytes_dsp s m bs
  have hcover := landed_coverPlace (writePlace s (.dsp m) bs) (.dsp m) 32
  rw [hwritten] at hcover
  have hfull : engineLocal s (.dsp m) false bs = feRetry (setFull (setFull (coverPlace { s with dsp := mputs s.dsp m bs } (.dsp m) 32)
      .dsp (m / 16) true) .dsp (m / 16 + 1) true) := by
    unfold engineLocal
    rw [hlen, hwritten]
    simp only [Place.granule, Place.shift, hj, Bool.false_eq_true, if_false]
    rfl
  generalize coverPlace { s with dsp := mputs s.dsp m bs } (.dsp m) 32 = u at hcover hfull
  obtain ⟨hd1, hp1, hf1, he1⟩ := setFull_dsp u (m / 16)
  obtain ⟨hd2, hp2, hf2, he2⟩ := setFull_dsp (setFull u .dsp (m / 16) true) (m / 16 + 1)
  have hu : u.dsp = mputs s.dsp m bs ∧ u.parts = s.parts ∧ u.dspFull = s.dspFull ∧ u.feq = s.feq := by
    rw [hcover]
    exact ⟨rfl, rfl, rfl, rfl⟩
  obtain ⟨hud, hup, huf, huq⟩ := hu
  rw [hfull, feRetry_none (he2 (he1 (huq.trans hq)))]
  exact ⟨hd2.trans (hd1.trans hud), hp2.trans (hp1.trans hup), by rw [hf2, hf1, huf]⟩

/-- A context whose sampling has a ring exists. -/
theorem exists_of_ring {s : State} {p c : Nat} {r : Nat × Nat} (h : (ctxOf s p c).sampling.ring = some r) :
    (cfind s.parts p).isSome = true ∧ (cfind (partOf s p).ctxs c).isSome = true := by
  constructor
  · by_contra hn
    rw [Option.not_isSome_iff_eq_none] at hn
    simp [ctxOf, partOf, hn, cfind] at h
  · by_contra hn
    rw [Option.not_isSome_iff_eq_none] at hn
    simp [ctxOf, hn] at h

theorem perfMark_writes {s : State} {p : Path} {x : UExt} (a : BitVec 6) (h : URuns s p x) {base n m : Nat}
    (hslot : NextSlot s p.b.part p.b.ctx base n m) (h0 : isFull s .dsp (m / 16) = false) (h1 : isFull s .dsp (m / 16 + 1) = false)
    (hbase : base % 32 = 0) (hq : s.feq = []) : ∃ t, exec (.perfMark a x) s = .next t ∧
      ByteRule s.dsp t.dsp m (markBytes s p (p.g.usrc a.toNat)) ∧
      (∀ j, isFull t .dsp j = (isFull s .dsp j || j == m / 16 || j == m / 16 + 1)) ∧
      (ctxOf t p.b.part p.b.ctx).sampling =
        { (ctxOf s p.b.part p.b.ctx).sampling with widx := (ctxOf s p.b.part p.b.ctx).sampling.widx + 1 } := by
  obtain ⟨hp, hc⟩ := exists_of_ring hslot.ring
  have hm : m % 32 = 0 := dspAddr_aligned hslot.addr (by omega)
  have hput := putRecord_empty (markOf s p (p.g.usrc a.toNat)) hslot h0 h1
  rw [bytes_markOf] at hput
  have hctx := ctxOf_modCtx hp hc fun x => { x with sampling := { x.sampling with widx := x.sampling.widx + 1 } }
  have hsame := modCtx_dsp s p.b.part p.b.ctx fun x => { x with sampling := { x.sampling with widx := x.sampling.widx + 1 } }
  have hfull := modCtx_dspFull s p.b.part p.b.ctx fun x => { x with sampling := { x.sampling with widx := x.sampling.widx + 1 } }
  have hfeq := modCtx_feq s p.b.part p.b.ctx fun x => { x with sampling := { x.sampling with widx := x.sampling.widx + 1 } }
  generalize modCtx s p.b.part p.b.ctx (fun x => { x with sampling := { x.sampling with widx := x.sampling.widx + 1 } }) = u
    at hput hctx hsame hfull hfeq
  obtain ⟨hd, hparts, hf⟩ := engineLocal_slot (hfeq.trans hq) (length_markBytes s p (p.g.usrc a.toNat)) hm
  refine ⟨_, perfMark_puts a h, ?_, fun j => ?_, ?_⟩
  · show ByteRule s.dsp (putRecord s _ _ _).dsp m _
    rw [hput, hd, hsame]
    exact mget_mputs_at _ _ _
  · show (putRecord s _ _ _).dspFull.contains j = _
    rw [hput, hf, contains_sinsert, contains_sinsert, hfull]
    rfl
  · have e : ctxOf (atNext (putRecord s p.b.part p.b.ctx (markOf s p (p.g.usrc a.toNat))) p) p.b.part p.b.ctx =
        ctxOf u p.b.part p.b.ctx := by
      show ctxOf (putRecord s _ _ _) _ _ = _
      rw [hput]
      unfold ctxOf partOf
      rw [hparts]
    rw [e, hctx]

/-- Settles O44. -/
theorem counterResults : Obligations.CounterResults := by
  intro d a b x s p h
  refine ⟨perfRd_reads d a h, perfSel_selects a b h, fun q e' arm code n _ hf hcode => countEvent_other hf hcode n, perfSel_traps a b h,
    perfSample_ends a h, fun h0 => ⟨fun m n halign hd hclean => ?_, perfSample_traps a h h0⟩, perfMark_goes a h, fun hring => ?_,
    fun base n m hring hm => ⟨fun hfull => ?_, fun h0 h1 hbase hq _ => perfMark_writes a h ⟨hring, hm⟩ h0 h1 hbase hq⟩⟩
  · intro base hlen h4 h16 hbase hroom
    exact perfSample_ring a h h0 halign hd hclean hlen h4 h16 hbase hroom
  · rw [perfMark_puts a h, putRecord_noRing _ hring]
  · rw [perfMark_puts a h, putRecord_full _ ⟨hring, hm⟩ hfull]

end Sys2Proof.Proofs
end
section
/-! FACTS for O27 and O42: what local memory reads and which granules are full, and what leaves them as they are. -/

namespace Sys2Proof.Proofs

open Sys2Proof Sys2Proof.Machine Sys2Proof.Claims Sys2Proof.Laws

/-! ### What local memory and its granules look at -/

/-- A value found by its key, in the table of keys and values. -/
theorem find_keyed {α κ β : Type} [DecidableEq κ] (key : α → κ) (val : α → β) (k : κ) (l : List α) :
    (l.find? fun a => key a = k).map val = ((l.map fun a => (key a, val a)).find? fun e => e.1 = k).map Prod.snd := by
  rw [List.find?_map, Option.map_map]
  rfl

/-- The bytes of local memory: of blocks, of clusters, of what ended units leave, and of the die scratchpads. -/
def memView (s : State) : List (Nat × Cells Byte) × List (Nat × Cells Byte) × List (FeSpace × Cells Byte) × Cells Byte :=
  (s.blocks.map fun b => (b.id, b.scratch), s.clusters.map fun c => (c.id, c.mem), s.shades.map fun h => (h.space, h.mem), s.dsp)

/-- The full granules of local memory. -/
def fullView (s : State) : List (Nat × List Nat) × List (Nat × List Nat) × List (FeSpace × List Nat) × List Nat :=
  (s.blocks.map fun b => (b.id, b.full), s.clusters.map fun c => (c.id, c.full), s.shades.map fun h => (h.space, h.full), s.dspFull)

/-- Local memory holds the same bytes. -/
def SameMem (s t : State) : Prop := memView t = memView s

/-- The same granules are full. -/
def SameFull (s t : State) : Prop := fullView t = fullView s

theorem SameMem.trans {s t u : State} (h : SameMem s t) (k : SameMem t u) : SameMem s u := Eq.trans k h

theorem SameFull.trans {s t u : State} (h : SameFull s t) (k : SameFull t u) : SameFull s u := Eq.trans k h

theorem sameMem_of {s t : State} (hb : t.blocks = s.blocks) (hc : t.clusters = s.clusters) (hs : t.shades = s.shades)
    (hd : t.dsp = s.dsp) : SameMem s t := by
  unfold SameMem memView
  rw [hb, hc, hs, hd]

theorem sameFull_of {s t : State} (hb : t.blocks = s.blocks) (hc : t.clusters = s.clusters) (hs : t.shades = s.shades)
    (hd : t.dspFull = s.dspFull) : SameFull s t := by
  unfold SameFull fullView
  rw [hb, hc, hs, hd]

/-- A map of a list that keeps a view of its elements keeps the list of views. -/
theorem map_view {α β : Type} (val : α → β) {f : α → α} (hf : ∀ a, val (f a) = val a) (l : List α) : (l.map f).map val = l.map val := by
  rw [List.map_map]
  exact List.map_congr_left fun a _ => hf a

theorem sameMem_modBlock (s : State) (id : Nat) {f : Block → Block} (hid : ∀ b, (f b).id = b.id) (hf : ∀ b, (f b).scratch = b.scratch) :
    SameMem s (modBlock s id f) := by
  unfold SameMem memView modBlock
  dsimp only
  rw [map_view (fun b : Block => (b.id, b.scratch)) fun b => ?_]
  split
  · rw [hid, hf]
  · rfl

theorem sameFull_modBlock (s : State) (id : Nat) {f : Block → Block} (hid : ∀ b, (f b).id = b.id) (hf : ∀ b, (f b).full = b.full) :
    SameFull s (modBlock s id f) := by
  unfold SameFull fullView modBlock
  dsimp only
  rw [map_view (fun b : Block => (b.id, b.full)) fun b => ?_]
  split
  · rw [hid, hf]
  · rfl

theorem sameMem_modGroup (s : State) (id gi : Nat) (f : Group → Group) : SameMem s (modGroup s id gi f) :=
  sameMem_modBlock s id (fun _ => rfl) fun _ => rfl

theorem sameFull_modGroup (s : State) (id gi : Nat) (f : Group → Group) : SameFull s (modGroup s id gi f) :=
  sameFull_modBlock s id (fun _ => rfl) fun _ => rfl

theorem sameMem_onlyRead {s t : State} (h : OnlyRead s t) : SameMem s t := by
  unfold OnlyRead at h
  rw [h]
  rfl

theorem sameFull_onlyRead {s t : State} (h : OnlyRead s t) : SameFull s t := by
  unfold OnlyRead at h
  rw [h]
  rfl

theorem sameFull_landed {s t : State} (h : Landed s t) : SameFull s t := by
  unfold Landed at h
  rw [h]
  rfl

theorem sameMem_landed {s t : State} (h : Landed s t) : SameMem s t := by
  unfold Landed at h
  rw [h]
  rfl

/-- The granules that are full, by the view. -/
theorem fullOf_same {s t : State} (h : SameFull s t) (sp : FeSpace) : fullOf t sp = fullOf s sp := by
  unfold SameFull fullView at h
  obtain ⟨hb, hc, hs, hd⟩ : _ ∧ _ ∧ _ ∧ _ := by simpa only [Prod.mk.injEq] using h
  have hshade (sp : FeSpace) : (t.shades.find? fun h => h.space = sp).map Shade.full = (s.shades.find? fun h => h.space = sp).map Shade.full := by
    rw [find_keyed Shade.space, find_keyed Shade.space, hs]
  cases sp with
  | scr b =>
    unfold fullOf blockOf
    dsimp only
    rw [hshade, find_keyed Block.id, find_keyed Block.id, hb]
  | csh c =>
    unfold fullOf clusterOf
    dsimp only
    rw [hshade, find_keyed Cluster.id, find_keyed Cluster.id, hc]
  | dsp => exact hd

theorem isFull_same {s t : State} (h : SameFull s t) (sp : FeSpace) (k : Nat) : isFull t sp k = isFull s sp k := by
  unfold isFull
  rw [fullOf_same h]

/-- The byte of a local place, whoever reads it. -/
theorem byte_same {s t : State} (h : SameMem s t) {pl : Place} {g : FeSpace × Nat} (hpl : pl.granule = some g) (c d c' d' : Nat) :
    pl.byte t c d = pl.byte s c' d' := by
  unfold SameMem memView at h
  obtain ⟨hb, hc, hs, hd⟩ : _ ∧ _ ∧ _ ∧ _ := by simpa only [Prod.mk.injEq] using h
  have hshade (sp : FeSpace) (o : Nat) : shadeByte t sp o = shadeByte s sp o := by
    have hm (u : State) : (shadeOf u sp).map (fun h => mget h.mem o) = ((shadeOf u sp).map Shade.mem).map fun m => mget m o := by
      rw [Option.map_map]; rfl
    unfold shadeByte
    rw [hm, hm]
    unfold shadeOf
    rw [find_keyed Shade.space, find_keyed Shade.space, hs]
  have hscr (b o : Nat) (u : State) (c d : Nat) : (Place.scr b o).byte u c d =
      (((blockOf u b).map Block.scratch).map fun m => mget m o).getD (shadeByte u (.scr b) o) := by
    unfold Place.byte
    dsimp only
    cases blockOf u b <;> rfl
  have hcsh (k o : Nat) (u : State) (c d : Nat) : (Place.csh k o).byte u c d =
      (((clusterOf u k).map Cluster.mem).map fun m => mget m o).getD (shadeByte u (.csh k) o) := by
    unfold Place.byte
    dsimp only
    cases clusterOf u k <;> rfl
  cases pl with
  | scr b o =>
    rw [hscr, hscr, hshade]
    unfold blockOf
    rw [find_keyed Block.id, find_keyed Block.id, hb]
  | csh k o =>
    rw [hcsh, hcsh, hshade]
    unfold clusterOf
    rw [find_keyed Cluster.id, find_keyed Cluster.id, hc]
  | dsp a => exact congrArg (mget · a) hd
  | _ => cases hpl

/-! ### Granules that change -/

/-- The full granules of a unit that is still there, changed. -/
theorem fullOf_modFull {s : State} {sp : FeSpace} (h : unitLives s sp = true) (f : List Nat → List Nat) :
    fullOf (modFull s sp f) sp = f (fullOf s sp) := by
  have hshade (sp : FeSpace) (hf : ∀ h : Shade, ({ h with full := f h.full } : Shade).space = h.space) :
      (s.shades.map fun h => if h.space = sp then { h with full := f h.full } else h).find? (fun h => h.space = sp) =
        (s.shades.find? fun h => h.space = sp).map fun h => { h with full := f h.full } := by
    rw [find_modified Shade.space sp sp (fun h : Shade => { h with full := f h.full }) hf, if_pos rfl]
  cases sp with
  | scr b =>
    unfold fullOf modFull
    dsimp only
    rw [blockOf_modBlock _ b (fun x : Block => { x with full := f x.full }) (fun _ => rfl), if_pos rfl]
    show ((blockOf s b).map _ |>.map Block.full).getD (((List.find? _ (s.shades.map _)).map Shade.full).getD []) = _
    rw [hshade (.scr b) fun _ => rfl]
    dsimp only [unitLives, shadeOf] at h
    cases hb : blockOf s b with
    | some b => rfl
    | none =>
      rw [hb] at h
      cases hs : s.shades.find? fun h => h.space = .scr b with
      | some h => rfl
      | none => rw [hs] at h; cases h
  | csh c =>
    unfold fullOf modFull
    dsimp only
    rw [clusterOf_modCluster _ c (fun x : Cluster => { x with full := f x.full }) (fun _ => rfl), if_pos rfl]
    show ((clusterOf s c).map _ |>.map Cluster.full).getD (((List.find? _ (s.shades.map _)).map Shade.full).getD []) = _
    rw [hshade (.csh c) fun _ => rfl]
    dsimp only [unitLives, shadeOf] at h
    cases hb : clusterOf s c with
    | some b => rfl
    | none =>
      rw [hb] at h
      cases hs : s.shades.find? fun h => h.space = .csh c with
      | some h => rfl
      | none => rw [hs] at h; cases h
  | dsp => rfl

theorem contains_sremove (l : List Nat) (k j : Nat) : (sremove l k).contains j = (l.contains j && j != k) := by
  rw [Bool.eq_iff_iff]
  simp [sremove]

/-- A set of granules of a unit becomes full or empty. -/
theorem isFull_setFulls {s : State} {sp : FeSpace} (h : unitLives s sp = true) (ks : List Nat) (v : Bool) (j : Nat) :
    isFull (setFulls s sp ks v) sp j = if j ∈ ks then v else isFull s sp j := by
  have hfold (l : List Nat) : (ks.foldl (fun l k => if v then sinsert l k else sremove l k) l).contains j =
      if j ∈ ks then v else l.contains j := by
    induction ks generalizing l with
    | nil => rfl
    | cons k ks ih =>
      have hone : (if v then sinsert l k else sremove l k).contains j = if j = k then v else l.contains j := by
        cases v
        · rw [if_neg Bool.false_ne_true, contains_sremove]
          by_cases e : j = k <;> simp [e]
        · rw [if_pos rfl, contains_sinsert]
          by_cases e : j = k <;> simp [e]
      rw [List.foldl_cons, ih, hone]
      by_cases hk : j ∈ ks <;> by_cases e : j = k <;> simp [hk, e]
  have hview : fullOf (setFulls s sp ks v) sp = fullOf (modFull (restartWaits s sp ks v) sp fun l =>
      ks.foldl (fun l k => if v then sinsert l k else sremove l k) l) sp := fullOf_same (sameFull_of rfl rfl rfl rfl) sp
  unfold isFull
  rw [hview, fullOf_modFull (s := restartWaits s sp ks v) h, hfold]
  rfl

theorem sameMem_modFull (s : State) (sp : FeSpace) (f : List Nat → List Nat) : SameMem s (modFull s sp f) := by
  have hshades : (s.shades.map fun h => if h.space = sp then { h with full := f h.full } else h).map (fun h => (h.space, h.mem)) =
      s.shades.map fun h => (h.space, h.mem) := map_view _ (fun h => by split <;> rfl) _
  have hfirst : SameMem s { s with shades := s.shades.map fun h => if h.space = sp then { h with full := f h.full } else h } := by
    unfold SameMem memView
    dsimp only
    rw [hshades]
  unfold modFull
  cases sp with
  | scr b => exact hfirst.trans (sameMem_modBlock _ b (fun _ => rfl) fun _ => rfl)
  | csh c =>
    refine hfirst.trans ?_
    unfold SameMem memView modCluster
    dsimp only
    rw [map_view (fun c : Cluster => (c.id, c.mem)) fun k => ?_]
    split <;> rfl
  | dsp => exact hfirst

theorem sameMem_setFulls (s : State) (sp : FeSpace) (ks : List Nat) (v : Bool) : SameMem s (setFulls s sp ks v) :=
  (sameMem_of (t := restartWaits s sp ks v) rfl rfl rfl rfl).trans ((sameMem_modFull _ sp _).trans (sameMem_of rfl rfl rfl rfl))

/-- A change of a block that keeps its groups. -/
theorem groupOf_modBlock (s : State) (id : Nat) {f : Block → Block} (hid : ∀ b, (f b).id = b.id) (hf : ∀ b, (f b).groups = b.groups)
    (blk grp : Nat) : groupOf (modBlock s id f) blk grp = groupOf s blk grp := by
  unfold groupOf
  rw [blockOf_modBlock s id f hid]
  split
  · cases blockOf s blk with
    | none => rfl
    | some b => exact congrArg (·[grp]?) (hf b)
  · rfl

/-- Groups are no part of granules. -/
theorem groupOf_setFulls (s : State) (sp : FeSpace) (ks : List Nat) (v : Bool) (blk grp : Nat) :
    groupOf (setFulls s sp ks v) blk grp = groupOf s blk grp := by
  cases sp with
  | scr b =>
    show groupOf (modBlock _ b _) blk grp = _
    refine (groupOf_modBlock _ b ?_ ?_ blk grp).trans rfl
    · exact fun _ => rfl
    · exact fun _ => rfl
  | csh c => rfl
  | dsp => rfl

theorem feq_setFulls (s : State) (sp : FeSpace) (ks : List Nat) (v : Bool) (h : s.feq = []) : (setFulls s sp ks v).feq = [] := by
  have e : (restartWaits s sp ks v).feq = [] := by
    unfold restartWaits
    rw [h]
    rfl
  cases sp <;> exact e

/-! ### Bytes written to local memory -/

/-- A table with the entry of one key changed. -/
def tableMod {κ β : Type} [DecidableEq κ] (k : κ) (f : β → β) (l : List (κ × β)) : List (κ × β) :=
  l.map fun e => if e.1 = k then (e.1, f e.2) else e

theorem view_modified {α κ β : Type} [DecidableEq κ] (key : α → κ) (val : α → β) {g : α → α} {f : β → β} (k : κ)
    (hkey : ∀ a, key (g a) = key a) (hval : ∀ a, val (g a) = f (val a)) (l : List α) :
    (l.map fun a => if key a = k then g a else a).map (fun a => (key a, val a)) = tableMod k f (l.map fun a => (key a, val a)) := by
  unfold tableMod
  rw [List.map_map, List.map_map]
  refine List.map_congr_left fun a _ => ?_
  by_cases h : key a = k <;> simp [h, hkey, hval]

/-- A byte put to a local place changes one entry of a table. -/
theorem sameMem_put {s t : State} (h : SameMem s t) {pl : Place} {g : FeSpace × Nat} (hpl : pl.granule = some g) (v : Byte) :
    SameMem (pl.put s v) (pl.put t v) := by
  unfold SameMem memView at h ⊢
  obtain ⟨hb, hc, hs, hd⟩ : _ ∧ _ ∧ _ ∧ _ := by simpa only [Prod.mk.injEq] using h
  cases pl with
  | scr id o =>
    have hput (u : State) : (u.blocks.map fun b => if b.id = id then { b with scratch := mput b.scratch o v } else b).map
        (fun b => (b.id, b.scratch)) = _ := view_modified Block.id Block.scratch (f := (mput · o v))
        (g := fun b => { b with scratch := mput b.scratch o v }) id (fun _ => rfl) (fun _ => rfl) _
    have hshade (u : State) : (u.shades.map fun h => if h.space = .scr id then { h with mem := mput h.mem o v } else h).map
        (fun h => (h.space, h.mem)) = _ := view_modified Shade.space Shade.mem (f := (mput · o v))
        (g := fun h => { h with mem := mput h.mem o v }) (.scr id) (fun _ => rfl) (fun _ => rfl) _
    simp only [Place.put, modShade, modBlock]
    rw [hput, hput, hshade, hshade, hb, hc, hs, hd]
  | csh id o =>
    have hput (u : State) : (u.clusters.map fun c => if c.id = id then { c with mem := mput c.mem o v } else c).map
        (fun c => (c.id, c.mem)) = _ := view_modified Cluster.id Cluster.mem (f := (mput · o v))
        (g := fun c => { c with mem := mput c.mem o v }) id (fun _ => rfl) (fun _ => rfl) _
    have hshade (u : State) : (u.shades.map fun h => if h.space = .csh id then { h with mem := mput h.mem o v } else h).map
        (fun h => (h.space, h.mem)) = _ := view_modified Shade.space Shade.mem (f := (mput · o v))
        (g := fun h => { h with mem := mput h.mem o v }) (.csh id) (fun _ => rfl) (fun _ => rfl) _
    simp only [Place.put, modShade, modCluster]
    rw [hput, hput, hshade, hshade, hb, hc, hs, hd]
  | dsp a =>
    simp only [Place.put]
    rw [hb, hc, hs, hd]
  | _ => cases hpl

theorem granule_shift {pl : Place} {g : FeSpace × Nat} (hpl : pl.granule = some g) (k : Nat) : ∃ g', (pl.shift k).granule = some g' := by
  cases pl with
  | scr id o => exact ⟨_, rfl⟩
  | csh id o => exact ⟨_, rfl⟩
  | dsp a => exact ⟨_, rfl⟩
  | _ => cases hpl

theorem writePlace_local (s : State) {pl : Place} {g : FeSpace × Nat} (hpl : pl.granule = some g) (bs : List Byte) :
    writePlace s pl bs = putBytes s pl bs := by
  cases pl with
  | phys pa => cases hpl
  | _ => rfl

/-- Bytes written to a local place, on states whose local memory is the same. -/
theorem sameMem_writePlace {s t : State} (h : SameMem s t) {pl : Place} {g : FeSpace × Nat} (hpl : pl.granule = some g) (bs : List Byte) :
    SameMem (writePlace s pl bs) (writePlace t pl bs) := by
  rw [writePlace_local s hpl, writePlace_local t hpl]
  induction bs generalizing s t pl g with
  | nil => exact h
  | cons v vs ih =>
    obtain ⟨g', hg'⟩ := granule_shift hpl 1
    exact ih (sameMem_put h hpl v) hg'

/-- What a byte put to a local place leaves: the groups, the granules, and what waits. -/
theorem put_local (s : State) (v : Byte) {pl : Place} {g : FeSpace × Nat} (hpl : pl.granule = some g) :
    (∀ blk grp, groupOf (pl.put s v) blk grp = groupOf s blk grp) ∧ SameFull s (pl.put s v) ∧ (pl.put s v).feq = s.feq ∧
      (pl.put s v).poison = s.poison := by
  have hshades (sp : FeSpace) (o : Nat) (u : State) : SameFull u (modShade u sp fun h => { h with mem := mput h.mem o v }) := by
    unfold SameFull fullView modShade
    dsimp only
    rw [map_view (fun h : Shade => (h.space, h.full)) fun h => by split <;> rfl]
  cases pl with
  | scr id o =>
    refine ⟨fun blk grp => ?_, (sameFull_modBlock s id (f := fun x => { x with scratch := mput x.scratch o v }) (fun _ => rfl)
      fun _ => rfl).trans (hshades _ o _), rfl, rfl⟩
    exact groupOf_modBlock s id (f := fun x => { x with scratch := mput x.scratch o v }) (fun _ => rfl) (fun _ => rfl) blk grp
  | csh id o =>
    have hc : SameFull s (modCluster s id fun x => { x with mem := mput x.mem o v }) := by
      unfold SameFull fullView modCluster
      dsimp only
      rw [map_view (fun c : Cluster => (c.id, c.full)) fun c => by split <;> rfl]
    exact ⟨fun _ _ => rfl, hc.trans (hshades _ o _), rfl, rfl⟩
  | dsp a => exact ⟨fun _ _ => rfl, rfl, rfl, rfl⟩
  | _ => cases hpl

theorem writePlace_keeps (s : State) {pl : Place} {g : FeSpace × Nat} (hpl : pl.granule = some g) (bs : List Byte) :
    (∀ blk grp, groupOf (writePlace s pl bs) blk grp = groupOf s blk grp) ∧ SameFull s (writePlace s pl bs) ∧
      (writePlace s pl bs).feq = s.feq ∧ (writePlace s pl bs).poison = s.poison := by
  rw [writePlace_local s hpl]
  induction bs generalizing s pl g with
  | nil => exact ⟨fun _ _ => rfl, rfl, rfl, rfl⟩
  | cons v vs ih =>
    obtain ⟨g', hg'⟩ := granule_shift hpl 1
    obtain ⟨hg, hf, hq, hp⟩ := put_local s v hpl
    obtain ⟨hg2, hf2, hq2, hp2⟩ := ih (pl.put s v) hg'
    exact ⟨fun blk grp => (hg2 blk grp).trans (hg blk grp), hf.trans hf2, hq2.trans hq, hp2.trans hp⟩

end Sys2Proof.Proofs
end
section
/-! PROOF of O27 (R123, R124, R258): the one lane of a full/empty instruction begins to wait; it is the only one that waits, so its
granule decides whether its operation is done at once, and its path goes on with it. -/

namespace Sys2Proof.Proofs

open Sys2Proof Sys2Proof.Machine Sys2Proof.Claims Sys2Proof.Laws

/-! ### The lane begins to wait -/

/-- The space of a granule and the offset of a place in it. -/
def feSpot : Place → FeSpace × Nat
  | .scr b o => (.scr b, o)
  | .csh c o => (.csh c, o)
  | .dsp a => (.dsp, a)
  | _ => (.dsp, 0)

theorem feSpot_granule {pl : Place} {sp : FeSpace} {k : Nat} (h : pl.granule = some (sp, k)) :
    (feSpot pl).1 = sp ∧ (feSpot pl).2 / 16 = k ∧ (feSpot pl).1.place (feSpot pl).2 = pl := by
  cases pl with
  | scr b o => cases h; exact ⟨rfl, rfl, rfl⟩
  | csh c o => cases h; exact ⟨rfl, rfl, rfl⟩
  | dsp a => cases h; exact ⟨rfl, rfl, rfl⟩
  | _ => cases h

/-- A place that a local access is given lies in a unit that is there. -/
theorem unitLives_of_checkRange {s : State} {p : Path} {g : Group} {n len space off : Nat} {pl : Place} {sp : FeSpace} {k : Nat}
    (hpg : PathGroup s p g) (hr : checkRange s p.b p.iss.grp n .rmw (.loc space off) len = (s, .ok pl))
    (hk : pl.granule = some (sp, k)) : unitLives s sp = true := by
  have hid : p.b.id = p.iss.blk := by simpa using List.find?_some hpg.block
  have hblk : (blockOf s p.b.id).isSome = true := by rw [hid, hpg.block]; rfl
  unfold checkRange at hr
  split at hr
  · cases hr
  · have hl : localPlace s p.b p.iss.grp n space .rmw off len = .ok pl := (Prod.mk.inj hr).2
    unfold localPlace at hl
    split at hl
    · split at hl <;> cases hl
      cases hk
    · split at hl
      · split at hl <;> cases hl
        cases hk
        dsimp only [unitLives]
        rw [hblk, Bool.true_or]
      · split at hl
        · cases hl
        · cases hl
    · split at hl
      · next c hc =>
        split at hl <;> cases hl
        cases hk
        have hcid : c.id = p.b.cluster := by simpa using List.find?_some hc
        dsimp only [unitLives]
        rw [hcid, hc]
        rfl
      · cases hl
    · split at hl <;> cases hl
      cases hk
      rfl

/-- The space code and the offset of a local access. -/
def feCode : Target → Nat × Nat
  | .loc c o => (c, o)
  | .global _ => (0, 0)

/-- The operation of the instruction's lane, as it waits. -/
def feWait (s : State) (p : Path) (n len : Nat) (t : Target) (pl : Place) (op : FeOp) (d : BitVec 7) (store : Bool) : FeWait :=
  { blk := p.iss.blk, grp := p.iss.grp, lane := n, space := (feSpot pl).1, off := (feSpot pl).2, bytes := len, op := op, d := d,
    start := s.clk, addr := (feCode t).2, code := (feCode t).1
    entry := if store then p.g.stores.issued else p.g.loads.issued }

/-- The state in which it waits. -/
def feBegun (s : State) (p : Path) (x : LExt) (n : Nat) (w : FeWait) (store : Bool) : State :=
  countAccess (setLane { s with feq := [w] } p n fun l => { l with hold := .fe p.iss.next }) p store (lanesMask (p.exec x))

/-- The state in which its operation is done, no longer waiting. -/
def feServed (s : State) (p : Path) (x : LExt) (n : Nat) (w : FeWait) (store : Bool) : State :=
  { feBegun s p x n w store with feq := [] }

theorem exec_fe {s : State} {p : Path} {i : Instr} {x : LExt} {n len : Nat} {t : Target} {pl : Place} {sp : FeSpace} {k : Nat}
    (h : FeAlone s p i x n t len pl sp k) {tf : Group → Lane → Target} (ht : tf p.g (p.g.lane n) = t) (op : Group → Lane → FeOp)
    (d : BitVec 7) (store : Bool) :
    fullEmpty i x len tf op d store s = .next (feRelease (feRetry (feBegun s p x n
      (feWait s p n len t pl (op p.g (p.g.lane n)) d store) store)) p.iss.blk p.iss.grp p.iss.pc) := by
  obtain ⟨hruns, hlanes, hexec, -, hfeq, -, hrange, -, hgran⟩ := h
  have hmem : n ∈ p.exec x := by rw [hexec]; exact List.mem_singleton_self n
  obtain ⟨hlane, hguard⟩ := List.mem_filter.1 hmem
  have hcheck : laneCheck s p i x n = none := check_none hruns hlane hguard
  have hone : feLane i x len tf op d store p (s, []) n =
      (setLane { s with feq := [feWait s p n len t pl (op p.g (p.g.lane n)) d store] } p n fun l => { l with hold := .fe p.iss.next }, []) := by
    unfold feLane
    simp only [hguard, Bool.not_true, Bool.false_eq_true, if_false, hcheck, ht, hrange, hfeq, List.nil_append]
    cases pl with
    | scr b o => rfl
    | csh c o => rfl
    | dsp a => rfl
    | _ => cases hgran
  unfold fullEmpty
  rw [hruns.path]
  dsimp only
  rw [hlanes, List.foldl_cons, List.foldl_nil, hone, hexec]
  simp only [List.any_nil, Bool.not_false, List.any_cons, Bool.or_false, if_true]
  rw [endTurns_nil, ← hexec]
  rfl

/-! ### Whether its operation is done at once -/

section
variable {s : State} {p : Path} {g : Group} {x : LExt} {n : Nat} {w : FeWait} {store : Bool}

theorem feBegun_feq : (feBegun s p x n w store).feq = [w] := rfl

theorem sameFull_feBegun : SameFull s (feBegun s p x n w store) :=
  (sameFull_of (t := { s with feq := [w] }) rfl rfl rfl rfl).trans ((sameFull_modGroup _ _ _ _).trans (sameFull_modGroup _ _ _ _))

theorem sameMem_feBegun : SameMem s (feBegun s p x n w store) :=
  (sameMem_of (t := { s with feq := [w] }) rfl rfl rfl rfl).trans ((sameMem_modGroup _ _ _ _).trans (sameMem_modGroup _ _ _ _))

/-- The group in which the lane waits. -/
def begunGroup (p : Path) (x : LExt) (n : Nat) (store : Bool) (g : Group) : Group :=
  let g := g.modLane n fun l => { l with hold := .fe p.iss.next }
  if store then { g with stores := g.stores.addFor (lanesMask (p.exec x)) p.iss.word }
  else { g with loads := g.loads.addFor (lanesMask (p.exec x)) p.iss.word }

theorem groupOf_feBegun (hpg : PathGroup s p g) :
    groupOf (feBegun s p x n w store) p.iss.blk p.iss.grp = some (begunGroup p x n store g) := by
  unfold feBegun countAccess pathGroup setLane modLane
  rw [groupOf_modGroup, if_pos ⟨rfl, rfl⟩, groupOf_modGroup, if_pos ⟨rfl, rfl⟩,
    show groupOf { s with feq := [w] } p.iss.blk p.iss.grp = some g from hpg.groupOf_eq]
  rfl

theorem lane_begunGroup (hn : n < g.lanes.length) (m : Nat) :
    (begunGroup p x n store g).lane m = if m = n then { g.lane n with hold := .fe p.iss.next } else g.lane m := by
  have h := lane_modLane g n (fun l => { l with hold := .fe p.iss.next }) hn m
  unfold begunGroup
  cases store <;> exact h

end

/-- A lane whose waiting operation is done. -/
def feFinish (l : Lane) : Lane :=
  match l.hold with
  | .fe next => { l with hold := .feDone next }
  | _ => l

/-- Retrying the one operation that waits. -/
theorem feRetry_one {u : State} {w : FeWait} (h : u.feq = [w]) (hclean : fePoisoned u w = false) :
    feRetry u = if feAllows u w then fePerform { u with feq := [] } w else u := by
  unfold feRetry
  rw [h]
  show feServe 1 u = _
  unfold feServe
  rw [h, List.find?_cons]
  cases hallow : feAllows u w with
  | false => rfl
  | true =>
    have herase : [w].erase w = [] := by simp
    simp only [herase, hclean, Bool.false_eq_true, if_false, if_true]
    rfl

/-- The lanes of a group at an address that wait for the others of their instruction go on, once no lane there still waits. -/
theorem groupOf_feRelease {u : State} {blk grp : Nat} {g : Group} (hg : groupOf u blk grp = some g) (pc : DWord) :
    (∀ l ∈ g.lanes, ∀ next, l.hold ≠ .fe next) →
      groupOf (feRelease u blk grp pc) blk grp = some { g with lanes := g.lanes.map (feGone pc) } := by
  intro hfree
  have hnone : (g.lanes.any fun l => l.live && l.npc = pc && (match l.hold with
      | .fe _ => true
      | _ => false)) = false := by
    rw [List.any_eq_false]
    intro l hl
    cases hh : l.hold with
    | fe next => exact absurd hh (hfree l hl next)
    | _ => simp
  unfold feRelease
  rw [hg]
  dsimp only
  split
  · next hw =>
    refine absurd ?_ (Bool.eq_false_iff.1 hnone)
    exact hw
  · rw [groupOf_modGroup, if_pos ⟨rfl, rfl⟩, hg]
    rfl

/-- While a lane at the address waits, none goes on. -/
theorem feRelease_waits {u : State} {blk grp n : Nat} {g : Group} (hg : groupOf u blk grp = some g) {pc next : DWord}
    (hlive : (g.lane n).live = true) (hpc : (g.lane n).npc = pc) (hhold : (g.lane n).hold = .fe next) : feRelease u blk grp pc = u := by
  have hn : n < g.lanes.length := by
    by_contra hn
    rw [lane_out hn] at hlive
    cases hlive
  have hlane : g.lane n = g.lanes[n] := by simp [Group.lane, hn]
  unfold feRelease
  rw [hg]
  dsimp only
  rw [if_pos]
  rw [List.any_eq_true]
  refine ⟨g.lane n, ?_, ?_⟩
  · rw [hlane]; exact List.getElem_mem hn
  · rw [hlive, hhold, hpc]
    simp

/-! ### The operation is done -/

theorem feRelease_cases (u : State) (blk grp : Nat) (pc : DWord) :
    feRelease u blk grp pc = u ∨ ∃ f, feRelease u blk grp pc = modGroup u blk grp f := by
  unfold feRelease
  split
  · exact .inl rfl
  · dsimp only
    split
    · exact .inl rfl
    · exact .inr ⟨_, rfl⟩

/-- The release of lanes leaves memory, granules and what waits as they are. -/
theorem feRelease_keeps (u : State) (blk grp : Nat) (pc : DWord) :
    SameMem u (feRelease u blk grp pc) ∧ SameFull u (feRelease u blk grp pc) ∧ (feRelease u blk grp pc).feq = u.feq := by
  rcases feRelease_cases u blk grp pc with e | ⟨f, e⟩
  · rw [e]; exact ⟨rfl, rfl, rfl⟩
  · rw [e]; exact ⟨sameMem_modGroup _ _ _ _, sameFull_modGroup _ _ _ _, rfl⟩

/-- The end of an operation: its lane is done, and the lanes of its path go on. -/
def feEnded (v : State) (w : FeWait) (h : Lane → Lane) (pc : DWord) : State :=
  feRelease (modLane v w.blk w.grp w.lane fun l => feFinish (h l)) w.blk w.grp pc

theorem feEnded_keeps (v : State) (w : FeWait) (h : Lane → Lane) (pc : DWord) :
    SameMem v (feEnded v w h pc) ∧ SameFull v (feEnded v w h pc) ∧ (feEnded v w h pc).feq = v.feq := by
  obtain ⟨h1, h2, h3⟩ := feRelease_keeps (modLane v w.blk w.grp w.lane fun l => feFinish (h l)) w.blk w.grp pc
  exact ⟨(sameMem_modGroup _ _ _ _).trans h1, (sameFull_modGroup _ _ _ _).trans h2, h3⟩

/-- Every lane of a group, by its number. -/
theorem forall_lanes {g : Group} {q : Lane → Prop} (h : ∀ n, q (g.lane n)) : ∀ l ∈ g.lanes, q l := fun l hl => by
  obtain ⟨n, hn, rfl⟩ := List.mem_iff_getElem.1 hl
  have := h n
  rwa [show g.lane n = g.lanes[n] by simp [Group.lane, hn]] at this

/-- The only lane that waits, done and released, stands at NEXT. -/
theorem lane_feEnded {v : State} {w : FeWait} {G : Group} {pc next : DWord} (hG : groupOf v w.blk w.grp = some G)
    (hn : w.lane < G.lanes.length) (hhold : (G.lane w.lane).hold = .fe next) (hpc : (G.lane w.lane).npc = pc)
    (hothers : ∀ m, m ≠ w.lane → ∀ k, (G.lane m).hold ≠ .fe k) {h : Lane → Lane} (hh : ∀ l, (h l).hold = l.hold)
    (hp : ∀ l, (h l).npc = l.npc) : ∃ G', groupOf (feRelease (feEnded v w h pc) w.blk w.grp pc) w.blk w.grp = some G' ∧
      G'.lane w.lane = { h (G.lane w.lane) with npc := next, once := false, hold := .none } := by
  have hdone : feFinish (h (G.lane w.lane)) = { h (G.lane w.lane) with hold := .feDone next } := by
    unfold feFinish
    rw [hh, hhold]
  have hmod : groupOf (modLane v w.blk w.grp w.lane fun l => feFinish (h l)) w.blk w.grp =
      some (G.modLane w.lane fun l => feFinish (h l)) := by
    unfold modLane
    rw [groupOf_modGroup, if_pos ⟨rfl, rfl⟩, hG]
    rfl
  have hlane (m : Nat) : (G.modLane w.lane fun l => feFinish (h l)).lane m =
      if m = w.lane then { h (G.lane w.lane) with hold := .feDone next } else G.lane m := by
    rw [lane_modLane G w.lane (fun l => feFinish (h l)) hn m, hdone]
  have hfree (m : Nat) : ∀ k, ((G.modLane w.lane fun l => feFinish (h l)).lane m).hold ≠ .fe k := by
    rw [hlane]
    split
    · intro k e; cases e
    · next hm => exact hothers m hm
  have hgone (l : Lane) (hl : ∀ k, l.hold ≠ .fe k) : ∀ k, (feGone pc l).hold ≠ .fe k := by
    unfold feGone
    split
    · split
      · intro k e; cases e
      · exact hl
    · exact hl
  have h1 := groupOf_feRelease hmod pc (forall_lanes hfree)
  have h2 := groupOf_feRelease h1 pc (forall_lanes fun m => by
    rw [lane_map _ rfl]
    exact hgone _ (hfree m))
  refine ⟨_, h2, ?_⟩
  rw [lane_map _ rfl, lane_map _ rfl, hlane, if_pos rfl]
  have hone : feGone pc { h (G.lane w.lane) with hold := .feDone next } =
      { h (G.lane w.lane) with npc := next, once := false, hold := .none } := by
    unfold feGone
    rw [show ({ h (G.lane w.lane) with hold := .feDone next } : Lane).npc = pc from (hp _).trans hpc]
    exact if_pos rfl
  rw [hone]
  rfl

/-- A load: its value, and its granule as it leaves it. -/
theorem fePerform_load (u : State) {w : FeWait} {clear : Bool} (h : w.op = .load clear) : ∃ v, OnlyRead u v ∧
    fePerform u w = feEnded ((List.range (max 1 (w.bytes / 4))).foldl
      (fun s k => coverPoison s (.reg w.blk w.grp w.lane (w.d.toNat + k)) 0 4)
      (if clear then setFull v w.space (w.off / 16) false else v)) w
        (fun l => l.dstBits w.d (max 32 (8 * w.bytes)) (leNat (readPlace v 0 0 (w.space.place w.off) w.bytes)))
        (((groupOf v w.blk w.grp).map fun g => (g.lane w.lane).npc).getD 0) := by
  refine ⟨sealSources u w.blk [((groupOf u w.blk w.grp).map fun g => (g.lane w.lane).tid).getD 0], onlyRead_sealSources _ _ _, ?_⟩
  unfold fePerform
  rw [h]
  rfl

/-- A store: its bytes, then its granule full. -/
theorem fePerform_store (u : State) {w : FeWait} {x : Nat} (h : w.op = .store x) : ∃ v, OnlyRead u v ∧
    fePerform u w = feEnded (setFull (coverPlace (writePlace v (w.space.place w.off) (leBytes w.bytes x)) (w.space.place w.off) w.bytes)
      w.space (w.off / 16) true) w id (((groupOf v w.blk w.grp).map fun g => (g.lane w.lane).npc).getD 0) := by
  refine ⟨sealSources u w.blk [((groupOf u w.blk w.grp).map fun g => (g.lane w.lane).tid).getD 0], onlyRead_sealSources _ _ _, ?_⟩
  unfold fePerform
  rw [h]
  rfl

/-- Poison in a local place. -/
theorem placePoisoned_local {s t : State} (h : t.poison = s.poison) {pl : Place} {g : FeSpace × Nat} (hpl : pl.granule = some g)
    (n : Nat) : placePoisoned t pl n = placePoisoned s pl n := by
  have hu (x : PoisonUnit) : isPoisoned t x = isPoisoned s x := by unfold isPoisoned; rw [h]
  unfold placePoisoned
  cases pl with
  | phys pa => cases hpl
  | _ => simp only [hu]


theorem unitLives_same {s t : State} (h : SameFull s t) (sp : FeSpace) : unitLives t sp = unitLives s sp := by
  unfold SameFull fullView at h
  obtain ⟨hb, hc, hs, -⟩ : _ ∧ _ ∧ _ ∧ _ := by simpa only [Prod.mk.injEq] using h
  have hsome {α β : Type} (f : α → β) (o : Option α) : o.isSome = (o.map f).isSome := by cases o <;> rfl
  have hshade : (shadeOf t sp).isSome = (shadeOf s sp).isSome := by
    unfold shadeOf
    rw [hsome Shade.full, find_keyed Shade.space, hs, ← find_keyed Shade.space, ← hsome]
  have hblock (b : Nat) : (blockOf t b).isSome = (blockOf s b).isSome := by
    unfold blockOf
    rw [hsome Block.full, find_keyed Block.id, hb, ← find_keyed Block.id, ← hsome]
  have hcluster (c : Nat) : (clusterOf t c).isSome = (clusterOf s c).isSome := by
    unfold clusterOf
    rw [hsome Cluster.full, find_keyed Cluster.id, hc, ← find_keyed Cluster.id, ← hsome]
  cases sp with
  | scr b => dsimp only [unitLives]; rw [hblock, hshade]
  | csh c => dsimp only [unitLives]; rw [hcluster, hshade]
  | dsp => rfl

/-! ### The instruction of one lane -/

section
variable {s : State} {p : Path} {i : Instr} {x : LExt} {n len : Nat} {t : Target} {pl : Place} {sp : FeSpace} {k : Nat} {g : Group}

/-- On a granule that does not allow the operation the lane waits. -/
theorem fe_waits (h : FeAlone s p i x n t len pl sp k) (hpg : PathGroup s p g) {w : FeWait} (store : Bool) (hno : feAllows (feBegun s p x n w store) w = false) :
    feRelease (feRetry (feBegun s p x n w store)) p.iss.blk p.iss.grp p.iss.pc = feBegun s p x n w store ∧
      ∃ g', groupOf (feBegun s p x n w store) p.iss.blk p.iss.grp = some g' ∧ g'.lane n = { p.g.lane n with hold := .fe p.iss.next } := by
  obtain ⟨-, hlanes, -, hpc, -⟩ := h
  have hn : n ∈ p.lanes := by rw [hlanes]; exact List.mem_singleton_self n
  have hlane : (begunGroup p x n store g).lane n = { p.g.lane n with hold := .fe p.iss.next } := by
    rw [lane_begunGroup (hpg.lane_lt hn), if_pos rfl, hpg.lane_eq]
  have hretry : feRetry (feBegun s p x n w store) = feBegun s p x n w store := by
    show feServe 1 _ = _
    unfold feServe
    rw [feBegun_feq, List.find?_cons, hno]
    rfl
  rw [hretry]
  refine ⟨feRelease_waits (groupOf_feBegun hpg) (n := n) (next := p.iss.next) ?_ ?_ ?_, _, groupOf_feBegun hpg, hlane⟩
  · rw [hlane]; exact (List.mem_filter.1 hn).2
  · rw [hlane]; exact hpc
  · rw [hlane]

/-- The group of the one lane, as it waits: no other lane waits for a granule. -/
theorem fe_group (h : FeAlone s p i x n t len pl sp k) (hpg : PathGroup s p g) (store : Bool) :
    n < (begunGroup p x n store g).lanes.length ∧
      (begunGroup p x n store g).lane n = { p.g.lane n with hold := .fe p.iss.next } ∧
      ∀ m, m ≠ n → ∀ next, ((begunGroup p x n store g).lane m).hold ≠ .fe next := by
  obtain ⟨-, hlanes, -, -, -, hfree, -⟩ := h
  have hn : n < g.lanes.length := hpg.lane_lt (by rw [hlanes]; exact List.mem_singleton_self n)
  refine ⟨?_, by rw [lane_begunGroup hn, if_pos rfl, hpg.lane_eq], fun m hm next => ?_⟩
  · unfold begunGroup Group.modLane
    cases store <;> simpa using hn
  · rw [lane_begunGroup hn, if_neg hm, ← hpg.lane_eq]
    exact hfree m next

/-- On a granule that allows the operation it is done: its poison checked, its place and granule are as the step leaves them, and its
lane goes on. -/
theorem fe_performs (h : FeAlone s p i x n t len pl sp k) {w : FeWait} (store : Bool) (hplace : w.space.place w.off = pl)
    (hbytes : w.bytes = len) (hyes : feAllows (feBegun s p x n w store) w = true) :
    feRetry (feBegun s p x n w store) = fePerform (feServed s p x n w store) w := by
  obtain ⟨-, -, -, -, -, -, -, hclean, hgran⟩ := h
  have hpoison : fePoisoned (feBegun s p x n w store) w = false := by
    unfold fePoisoned
    rw [hplace, hbytes, placePoisoned_local (s := s) (t := feBegun s p x n w store) rfl hgran, hclean]
  rw [feRetry_one feBegun_feq hpoison, if_pos hyes]
  rfl

/-- The lane's state when its operation is done. -/
theorem fe_lane (h : FeAlone s p i x n t len pl sp k) (hpg : PathGroup s p g) {w : FeWait}
    (hw : w.blk = p.iss.blk ∧ w.grp = p.iss.grp ∧ w.lane = n) (store : Bool) {u v : State}
    (hu : ∀ blk grp, groupOf u blk grp = groupOf (feBegun s p x n w store) blk grp)
    (hv : ∀ blk grp, groupOf v blk grp = groupOf u blk grp) {f : Lane → Lane} (hh : ∀ l, (f l).hold = l.hold)
    (hp : ∀ l, (f l).npc = l.npc) : ∃ G', groupOf (feRelease (feEnded v w f (((groupOf u w.blk w.grp).map
      fun g => (g.lane w.lane).npc).getD 0)) p.iss.blk p.iss.grp p.iss.pc) p.iss.blk p.iss.grp = some G' ∧
      G'.lane n = { f { p.g.lane n with hold := .fe p.iss.next } with npc := p.iss.next, once := false, hold := .none } := by
  obtain ⟨hlt, hlane, hothers⟩ := fe_group h hpg store
  obtain ⟨-, -, -, hpc, -⟩ := h
  obtain ⟨hblk, hgrp, rfl⟩ := hw
  have hG : groupOf u w.blk w.grp = some (begunGroup p x w.lane store g) := by
    rw [hu, hblk, hgrp]
    exact groupOf_feBegun hpg
  have hat : (((groupOf u w.blk w.grp).map fun g => (g.lane w.lane).npc).getD 0) = p.iss.pc := by
    rw [hG]
    show ((begunGroup p x w.lane store g).lane w.lane).npc = _
    rw [hlane]
    exact hpc
  obtain ⟨G', hG', hl⟩ := lane_feEnded (v := v) (pc := p.iss.pc) (next := p.iss.next) ((hv _ _).trans hG) hlt (by rw [hlane])
    (by rw [hlane]; exact hpc) hothers hh hp
  rw [hblk, hgrp] at hG'
  rw [hlane] at hl
  rw [hat]
  exact ⟨G', hG', hl⟩

end

/-- Table 12-3: the bytes of a full/empty access. -/
theorem feBytes_eq : ∀ size : BitVec 3, 2 ≤ size.toNat → feBytes size = feLen size := by decide

theorem max_eq_regBits (k : Nat) : max 32 (8 * k) = regBits k := by
  unfold regBits
  split <;> omega

theorem lmLocal_eq_feAt (x : LExt) (p : Path) (l : Lane) (a : BitVec 7) (off : BitVec 6) (hs : BitVec 2) {size : BitVec 3}
    (h : 2 ≤ size.toNat) : lmLocal x p.g l a off (feBytes size) hs = feAt x p l a off hs size := by
  unfold lmLocal feAt
  rw [feBytes_eq size h, immS_eq_simm]
  rfl

/-- What a load of a register leaves of its lane. -/
theorem dstBits_keeps (l : Lane) (d : BitVec 7) (n x : Nat) : (l.dstBits d n x).hold = l.hold ∧ (l.dstBits d n x).npc = l.npc ∧
    ∀ hd, ({ l with hold := hd } : Lane).dstBits d n x = { l.dstBits d n x with hold := hd } := by
  unfold Lane.dstBits
  split
  · exact ⟨rfl, rfl, fun _ => rfl⟩
  · split <;> exact ⟨rfl, rfl, fun _ => rfl⟩

/-- The number at a local place. -/
theorem leNat_readPlace {s v : State} (h : SameMem s v) {pl : Place} {g : FeSpace × Nat} (hpl : pl.granule = some g) (p : Path)
    (n len : Nat) : leNat (readPlace v 0 0 pl len) = valueAt s p n pl len := by
  unfold readPlace valueAt
  rw [leNat_eq_sum]
  refine congrArg List.sum (List.map_congr_left fun j _ => ?_)
  obtain ⟨g', hg'⟩ := granule_shift hpl j
  rw [byte_same h hg' 0 (0 + j) p.b.core (drawOf s n 0 + j)]

theorem landed_coverRegs (ks : List Nat) (w : FeWait) (v : State) :
    Landed v (ks.foldl (fun s k => coverPoison s (.reg w.blk w.grp w.lane (w.d.toNat + k)) 0 4) v) :=
  Landed.foldl (f := fun s k => coverPoison s (.reg w.blk w.grp w.lane (w.d.toNat + k)) 0 4) (fun _ _ => rfl) ks v

theorem groupOf_landed {s t : State} (h : Landed s t) (blk grp : Nat) : groupOf t blk grp = groupOf s blk grp := by
  unfold Landed at h
  rw [h]
  rfl

theorem feq_landed {s t : State} (h : Landed s t) : t.feq = s.feq := by
  unfold Landed at h
  rw [h]

theorem feq_onlyRead {s t : State} (h : OnlyRead s t) : t.feq = s.feq := by
  unfold OnlyRead at h
  rw [h]

/-- The instruction's operation waits on granule `k` of space `sp`. -/
structure WaitsAt (p : Path) (n len : Nat) (pl : Place) (sp : FeSpace) (k : Nat) (w : FeWait) : Prop where
  ids : w.blk = p.iss.blk ∧ w.grp = p.iss.grp ∧ w.lane = n
  space : w.space = sp
  granule : w.off / 16 = k
  place : w.space.place w.off = pl
  bytes : w.bytes = len

theorem waitsAt_feWait (s : State) (p : Path) (n len : Nat) (t : Target) {pl : Place} {sp : FeSpace} {k : Nat}
    (h : pl.granule = some (sp, k)) (op : FeOp) (d : BitVec 7) (store : Bool) :
    WaitsAt p n len pl sp k (feWait s p n len t pl op d store) := by
  obtain ⟨hsp, hk, hpl⟩ := feSpot_granule h
  exact ⟨⟨rfl, rfl, rfl⟩, hsp, hk, hpl, rfl⟩

section
variable {s : State} {p : Path} {i : Instr} {x : LExt} {n len : Nat} {t : Target} {pl : Place} {sp : FeSpace} {k : Nat} {g : Group}
  {w : FeWait}

/-- What the operation finds: memory and granules as the instruction found them. -/
theorem begun_read {v : State} {store : Bool} (h : OnlyRead (feServed s p x n w store) v) : SameMem s v ∧ SameFull s v ∧
    v.feq = [] ∧ ∀ blk grp, groupOf v blk grp = groupOf (feBegun s p x n w store) blk grp :=
  ⟨sameMem_feBegun.trans (SameMem.trans (t := feServed s p x n w store) rfl (sameMem_onlyRead h)),
    sameFull_feBegun.trans (SameFull.trans (t := feServed s p x n w store) rfl (sameFull_onlyRead h)), feq_onlyRead h,
    fun blk grp => (groupOf_onlyRead h blk grp).trans rfl⟩

/-- A load on a full granule. -/
theorem fe_loads (h : FeAlone s p i x n t len pl sp k) (hpg : PathGroup s p g) (hlives : unitLives s sp = true)
    (hw : WaitsAt p n len pl sp k w) {clear : Bool} (hop : w.op = .load clear) (hfull : isFull s sp k = true) : ∃ g',
      groupOf (feRelease (feRetry (feBegun s p x n w false)) p.iss.blk p.iss.grp p.iss.pc) p.iss.blk p.iss.grp = some g' ∧
      g'.lane n = { (p.g.lane n).dstBits w.d (regBits len) (valueAt s p n pl len) with npc := p.iss.next, once := false, hold := .none } ∧
      isFull (feRelease (feRetry (feBegun s p x n w false)) p.iss.blk p.iss.grp p.iss.pc) sp k = !clear ∧
      (feRelease (feRetry (feBegun s p x n w false)) p.iss.blk p.iss.grp p.iss.pc).feq = [] := by
  have hgran : pl.granule = some (sp, k) := h.2.2.2.2.2.2.2.2
  have hallow : feAllows (feBegun s p x n w false) w = true := by
    unfold feAllows
    rw [hop]
    dsimp only
    rw [hw.space, hw.granule, isFull_same sameFull_feBegun, hfull]
  rw [fe_performs h false hw.place hw.bytes hallow]
  obtain ⟨v, hread, hperf⟩ := fePerform_load (feServed s p x n w false) hop
  obtain ⟨hmem, hful, hq, hgroup⟩ := begun_read hread
  rw [hperf, hw.place, hw.space, hw.granule, hw.bytes, leNat_readPlace hmem hgran p n len, max_eq_regBits]
  have hc := landed_coverRegs (List.range (max 1 (len / 4))) w (if clear then setFull v sp k false else v)
  generalize hu : (List.range (max 1 (len / 4))).foldl (fun s k => coverPoison s (.reg w.blk w.grp w.lane (w.d.toNat + k)) 0 4)
    (if clear then setFull v sp k false else v) = u at hc
  have hmid : (∀ blk grp, groupOf u blk grp = groupOf v blk grp) ∧ isFull u sp k = !clear ∧ u.feq = [] := by
    cases clear with
    | true =>
      refine ⟨fun blk grp => (groupOf_landed hc blk grp).trans (groupOf_setFulls v sp [k] false blk grp), ?_,
        (feq_landed hc).trans (feq_setFulls v sp [k] false hq)⟩
      rw [isFull_same (sameFull_landed hc)]
      exact (isFull_setFulls ((unitLives_same hful sp).trans hlives) [k] false k).trans (if_pos (List.mem_singleton_self k))
    | false =>
      refine ⟨groupOf_landed hc, ?_, (feq_landed hc).trans hq⟩
      rw [isFull_same (sameFull_landed hc)]
      exact (isFull_same hful sp k).trans hfull
  obtain ⟨hug, huf, huq⟩ := hmid
  obtain ⟨G', hG', hl⟩ := fe_lane h hpg hw.ids false hgroup hug
    (f := fun l => l.dstBits w.d (regBits len) (valueAt s p n pl len)) (fun l => (dstBits_keeps l _ _ _).1) fun l => (dstBits_keeps l _ _ _).2.1
  obtain ⟨-, hf1, hq1⟩ := feEnded_keeps u w (fun l => l.dstBits w.d (regBits len) (valueAt s p n pl len))
    (((groupOf v w.blk w.grp).map fun g => (g.lane w.lane).npc).getD 0)
  obtain ⟨-, hf2, hq2⟩ := feRelease_keeps (feEnded u w (fun l => l.dstBits w.d (regBits len) (valueAt s p n pl len))
    (((groupOf v w.blk w.grp).map fun g => (g.lane w.lane).npc).getD 0)) p.iss.blk p.iss.grp p.iss.pc
  refine ⟨G', hG', ?_, ?_, (hq2.trans hq1).trans huq⟩
  · rw [hl, (dstBits_keeps _ _ _ _).2.2]
  · rw [isFull_same (hf1.trans hf2), huf]

/-- A store on an empty granule. -/
theorem fe_stores (h : FeAlone s p i x n t len pl sp k) (hpg : PathGroup s p g) (hlives : unitLives s sp = true)
    (hw : WaitsAt p n len pl sp k w) {val : Nat} (hop : w.op = .store val) (hempty : isFull s sp k = false) : ∃ g',
      groupOf (feRelease (feRetry (feBegun s p x n w true)) p.iss.blk p.iss.grp p.iss.pc) p.iss.blk p.iss.grp = some g' ∧
      g'.lane n = { p.g.lane n with npc := p.iss.next, once := false, hold := .none } ∧
      isFull (feRelease (feRetry (feBegun s p x n w true)) p.iss.blk p.iss.grp p.iss.pc) sp k = true ∧
      (feRelease (feRetry (feBegun s p x n w true)) p.iss.blk p.iss.grp p.iss.pc).feq = [] ∧
      ∀ j, (pl.shift j).byte (feRelease (feRetry (feBegun s p x n w true)) p.iss.blk p.iss.grp p.iss.pc) 0 0 =
        (pl.shift j).byte (writePlace s pl (leBytes len val)) 0 0 := by
  have hgran : pl.granule = some (sp, k) := h.2.2.2.2.2.2.2.2
  have hallow : feAllows (feBegun s p x n w true) w = true := by
    unfold feAllows
    rw [hop]
    dsimp only
    rw [hw.space, hw.granule, isFull_same sameFull_feBegun, hempty]
    rfl
  rw [fe_performs h true hw.place hw.bytes hallow]
  obtain ⟨v, hread, hperf⟩ := fePerform_store (feServed s p x n w true) hop
  obtain ⟨hmem, hful, hq, hgroup⟩ := begun_read hread
  rw [hperf, hw.place, hw.space, hw.granule, hw.bytes]
  obtain ⟨hwg, hwf, hwq, -⟩ := writePlace_keeps v hgran (leBytes len val)
  have hc := landed_coverPlace (writePlace v pl (leBytes len val)) pl len
  generalize coverPlace (writePlace v pl (leBytes len val)) pl len = c at hc
  have hcq : c.feq = [] := (feq_landed hc).trans (hwq.trans hq)
  have hcf : SameFull s c := hful.trans (hwf.trans (sameFull_landed hc))
  obtain ⟨G', hG', hl⟩ := fe_lane h hpg hw.ids true hgroup (v := setFull c sp k true) (f := id)
    (fun blk grp => (groupOf_setFulls c sp [k] true blk grp).trans ((groupOf_landed hc blk grp).trans (hwg blk grp))) (fun _ => rfl) fun _ => rfl
  obtain ⟨hm1, hf1, hq1⟩ := feEnded_keeps (setFull c sp k true) w id (((groupOf v w.blk w.grp).map fun g => (g.lane w.lane).npc).getD 0)
  obtain ⟨hm2, hf2, hq2⟩ := feRelease_keeps (feEnded (setFull c sp k true) w id
    (((groupOf v w.blk w.grp).map fun g => (g.lane w.lane).npc).getD 0)) p.iss.blk p.iss.grp p.iss.pc
  refine ⟨G', hG', hl, ?_, (hq2.trans hq1).trans (feq_setFulls c sp [k] true hcq), fun j => ?_⟩
  · rw [isFull_same (hf1.trans hf2)]
    exact (isFull_setFulls ((unitLives_same hcf sp).trans hlives) [k] true k).trans (if_pos (List.mem_singleton_self k))
  · obtain ⟨g', hg'⟩ := granule_shift hgran j
    refine byte_same (.trans ?_ ((sameMem_setFulls c sp [k] true).trans (hm1.trans hm2))) hg' 0 0 0 0
    exact (sameMem_writePlace hmem hgran _).trans (sameMem_landed hc)

end

section
variable {s : State} {p : Path} {x : LExt} {n : Nat} {pl : Place} {sp : FeSpace} {k : Nat} {d a : BitVec 7} {size : BitVec 3} {hs : BitVec 2}
  {off : BitVec 6}

/-- The operation of `ldfe`. -/
def ldfeWait (s : State) (p : Path) (x : LExt) (n : Nat) (pl : Place) (d a : BitVec 7) (size : BitVec 3) (hs : BitVec 2)
    (off : BitVec 6) : FeWait :=
  feWait s p n (feLen size) (feAt x p (p.g.lane n) a off hs size) pl (.load (5 ≤ size.toNat)) d false

/-- The operation of `stfe`. -/
def stfeWait (s : State) (p : Path) (x : LExt) (n : Nat) (pl : Place) (d a : BitVec 7) (size : BitVec 3) (hs : BitVec 2)
    (off : BitVec 6) : FeWait :=
  feWait s p n (feLen size) (feAt x p (p.g.lane n) a off hs size) pl (.store (srcBits p.g (p.g.lane n) d (8 * feLen size))) d true

theorem exec_ldfe (h2 : 2 ≤ size.toNat) (h : FeAlone s p (.ldfe d a size hs off x) x n (feAt x p (p.g.lane n) a off hs size)
    (feLen size) pl sp k) : exec (.ldfe d a size hs off x) s =
      .next (feRelease (feRetry (feBegun s p x n (ldfeWait s p x n pl d a size hs off) false)) p.iss.blk p.iss.grp p.iss.pc) := by
  show fullEmpty _ x (feBytes size) _ _ d false s = _
  rw [feBytes_eq size h2]
  refine exec_fe h (tf := fun g l => lmLocal x g l a off (feLen size) hs) ?_ (fun _ _ => .load (5 ≤ size.toNat)) d false
  rw [← feBytes_eq size h2]
  exact lmLocal_eq_feAt x p (p.g.lane n) a off hs h2

theorem exec_stfe (h2 : 2 ≤ size.toNat) (h : FeAlone s p (.stfe d a size hs off x) x n (feAt x p (p.g.lane n) a off hs size)
    (feLen size) pl sp k) : exec (.stfe d a size hs off x) s =
      .next (feRelease (feRetry (feBegun s p x n (stfeWait s p x n pl d a size hs off) true)) p.iss.blk p.iss.grp p.iss.pc) := by
  show fullEmpty _ x (feBytes size) _ _ d true s = _
  rw [feBytes_eq size h2]
  refine exec_fe h (tf := fun g l => lmLocal x g l a off (feLen size) hs) ?_ (fun g l => .store (srcBits g l d (8 * feLen size))) d true
  rw [← feBytes_eq size h2]
  exact lmLocal_eq_feAt x p (p.g.lane n) a off hs h2

end

/-- Settles O27. -/
theorem fullEmptyResults : Obligations.FullEmptyResults := by
  intro d a size hs off x s p n pl sp k h2
  refine ⟨fun h => ?_, fun h => ?_⟩
  · have hgran : pl.granule = some (sp, k) := h.2.2.2.2.2.2.2.2
    obtain ⟨g, hpg⟩ := pathGroup_of_pathOf h.1.path
    have hw : WaitsAt p n (feLen size) pl sp k (ldfeWait s p x n pl d a size hs off) := waitsAt_feWait s p n _ _ hgran _ d false
    rw [exec_ldfe h2 h]
    split
    · next hfull =>
      obtain ⟨g', hg', hl, hf, hq⟩ := fe_loads h hpg (unitLives_of_checkRange hpg h.2.2.2.2.2.2.1 hgran) hw rfl hfull
      refine ⟨_, g', rfl, hg', hl, hf.trans ?_, hq⟩
      by_cases h5 : 5 ≤ size.toNat
      · simp [h5]
      · simp [h5, Nat.lt_of_not_le h5]
    · next hempty =>
      have hempty := Bool.eq_false_iff.2 hempty
      obtain ⟨hstay, g', hg', hl⟩ := fe_waits h hpg (w := ldfeWait s p x n pl d a size hs off) false (by
        unfold feAllows
        show isFull _ (ldfeWait s p x n pl d a size hs off).space _ = _
        rw [hw.space, hw.granule, isFull_same sameFull_feBegun, hempty])
      rw [hstay]
      exact ⟨_, g', rfl, hg', hl, rfl, (isFull_same sameFull_feBegun sp k).trans hempty⟩
  · have hgran : pl.granule = some (sp, k) := h.2.2.2.2.2.2.2.2
    obtain ⟨g, hpg⟩ := pathGroup_of_pathOf h.1.path
    have hw : WaitsAt p n (feLen size) pl sp k (stfeWait s p x n pl d a size hs off) := waitsAt_feWait s p n _ _ hgran _ d true
    rw [exec_stfe h2 h]
    split
    · next hfull =>
      obtain ⟨hstay, g', hg', hl⟩ := fe_waits h hpg (w := stfeWait s p x n pl d a size hs off) true (by
        unfold feAllows
        show (!isFull _ (stfeWait s p x n pl d a size hs off).space _) = _
        rw [hw.space, hw.granule, isFull_same sameFull_feBegun, hfull]
        rfl)
      rw [hstay]
      exact ⟨_, g', rfl, hg', hl, rfl, (isFull_same sameFull_feBegun sp k).trans hfull⟩
    · next hempty =>
      obtain ⟨g', hg', hl, hf, hq, hbytes⟩ := fe_stores h hpg (unitLives_of_checkRange hpg h.2.2.2.2.2.2.1 hgran) hw rfl
        (Bool.eq_false_iff.2 hempty)
      exact ⟨_, g', rfl, hg', hl, hf, hq, hbytes⟩

end Sys2Proof.Proofs
end
section
/-! PROOF of O42 (R126, R127, R293): the lowest free slot of a handle table, and what the handle instructions do. -/

namespace Sys2Proof.Proofs

open Sys2Proof Sys2Proof.Machine Sys2Proof.Claims Sys2Proof.Laws

/-! ### The lowest free slot -/

/-- A slot is free, as the search tests it. -/
theorem slotFree_iff (hs : Cells HSlot) (k : Nat) : slotFree hs k ↔ (match cfind hs k with
    | none => true
    | some e => e.obj.isNone && decide (e.gen < 4096)) = true := by
  unfold slotFree
  cases cfind hs k with
  | none => simp
  | some e => simp

/-- The search stops at a free slot. -/
theorem freeSlotFrom_free {hs : Cells HSlot} {k : Nat} (hk : k < 2 ^ 20) (hfree : slotFree hs k) (fuel : Nat) :
    freeSlotFrom hs (fuel + 1) k = some k := by
  rw [slotFree_iff] at hfree
  unfold freeSlotFrom
  rw [if_neg (Nat.not_le.2 hk)]
  cases he : cfind hs k with
  | none => rfl
  | some e =>
    rw [he] at hfree
    exact if_pos hfree

/-- The search goes past a slot that is not free. -/
theorem freeSlotFrom_taken {hs : Cells HSlot} {k : Nat} (hk : k < 2 ^ 20) (htaken : ¬slotFree hs k) (fuel : Nat) :
    freeSlotFrom hs (fuel + 1) k = freeSlotFrom hs fuel (k + 1) := by
  rw [slotFree_iff] at htaken
  conv_lhs => unfold freeSlotFrom
  rw [if_neg (Nat.not_le.2 hk)]
  cases he : cfind hs k with
  | none =>
    rw [he] at htaken
    exact absurd rfl htaken
  | some e =>
    rw [he] at htaken
    exact if_neg htaken

theorem freeSlotFrom_reaches {hs : Cells HSlot} {k : Nat} (hk : k < 2 ^ 20) (hfree : slotFree hs k) (n j : Nat) (hj : j + n = k)
    (htaken : ∀ i, j ≤ i → i < k → ¬slotFree hs i) (fuel : Nat) : freeSlotFrom hs (fuel + n + 1) j = some k := by
  induction n generalizing j with
  | zero =>
    obtain rfl : j = k := hj
    exact freeSlotFrom_free hk hfree fuel
  | succ n ih =>
    rw [freeSlotFrom_taken (by omega) (htaken j (Nat.le_refl j) (by omega))]
    exact ih (j + 1) (by omega) fun i hi => htaken i (by omega)

/-- Slots that are not free are listed, so there are no more of them than entries. -/
theorem taken_le_length {hs : Cells HSlot} {k : Nat} (hk : 1 ≤ k) (htaken : ∀ j, 1 ≤ j → j < k → ¬slotFree hs j) : k ≤ hs.length + 1 := by
  have hsub : List.range' 1 (k - 1) ⊆ hs.map Prod.fst := fun j hj => by
    rw [List.mem_range'_1] at hj
    cases he : cfind hs j with
    | none =>
      refine absurd ?_ (htaken j hj.1 (by omega))
      rw [slotFree_iff, he]
    | some e => exact List.mem_map_of_mem (f := Prod.fst) (mem_of_cfind he)
  have hlen := (List.Nodup.subperm (List.nodup_range' (s := 1) (n := k - 1)) hsub).length_le
  rw [List.length_range', List.length_map] at hlen
  omega

theorem freeSlot_lowest {hs : Cells HSlot} {k : Nat} (h1 : 1 ≤ k) (hk : k < 2 ^ 20) (hfree : slotFree hs k)
    (htaken : ∀ j, 1 ≤ j → j < k → ¬slotFree hs j) : freeSlot hs = some k := by
  have hlen := taken_le_length h1 htaken
  have := freeSlotFrom_reaches hk hfree (k - 1) 1 (by omega) htaken (hs.length + 1 - k)
  rwa [show hs.length + 1 - k + (k - 1) + 1 = hs.length + 1 by omega] at this

theorem freeSlot_none {hs : Cells HSlot} (htaken : ∀ k, 1 ≤ k → k < 2 ^ 20 → ¬slotFree hs k) : freeSlot hs = none := by
  have hfrom (fuel k : Nat) (h1 : 1 ≤ k) : freeSlotFrom hs fuel k = none := by
    induction fuel generalizing k with
    | zero => rfl
    | succ fuel ih =>
      by_cases hk : k < 2 ^ 20
      · rw [freeSlotFrom_taken hk (htaken k h1 hk)]
        exact ih (k + 1) (by omega)
      · unfold freeSlotFrom
        exact if_pos (Nat.not_lt.1 hk)
  exact hfrom _ 1 (Nat.le_refl 1)

theorem allocHandle_some {s : State} {p c : Nat} (o : Obj) {k : Nat} (h : freeSlot (ctxOf s p c).handles = some k) :
    allocHandle s p c o = (modCtx s p c fun x =>
      { x with handles := cset x.handles k ⟨((cfind (ctxOf s p c).handles k).map HSlot.gen).getD 1, some o⟩ }, some (mkHandle k (((cfind (ctxOf s p c).handles k).map HSlot.gen).getD 1))) := by
  unfold allocHandle
  dsimp only
  rw [h]

theorem allocHandle_none {s : State} {p c : Nat} (o : Obj) (h : freeSlot (ctxOf s p c).handles = none) :
    allocHandle s p c o = (s, none) := by
  unfold allocHandle
  dsimp only
  rw [h]

/-! ### The instructions -/

section
variable {s : State} {p : Path} {x : UExt}

/-- The state after an object has taken a slot, its handle in a uniform register. -/
theorem takeSlot_next (h : URuns s p x) (d : BitVec 6) (o : Obj) {k : Path → State → UEnd} (hk : k p s = takeSlot s p d o) :
    uniform x k s = .next (uniNext (allocHandle s p.b.part p.b.ctx o).1 p p.iss.next fun g =>
      g.udst d.toNat (0#32 ++ (allocHandle s p.b.part p.b.ctx o).2.getD 0)) := by
  rw [← atNext_group, ← setWidth_eq_zero_append (m := 32)]
  refine uniform_done h (hk.trans ?_)
  exact congrArg UEnd.done (modGroup_eq _ p _)

theorem allocTile_ok {space base size : Nat} (h16 : 16 ≤ size) (h64 : size ≤ 65536) (hs : size % 16 = 0) (hb : base % 16 = 0) :
    allocTile s p space base size = (match space with
      | 1 => if base + size ≤ p.b.scrBytes then some (.tile (.scr p.iss.blk) base size false) else none
      | 2 =>
        if base + size ≤ ((clusterOf s p.b.cluster).map Cluster.bytes).getD 0 then
          some (.tile (.csh p.b.cluster) base size false)
        else none
      | 3 => (dspAddr (partOf s p.b.part).desc base size).map fun a => .tile .dsp a size false
      | _ => none) := by
  unfold allocTile
  exact if_neg (by simp only [Bool.or_eq_true, decide_eq_true_eq]; omega)

theorem handleAlloc_tile (d a b : BitVec 6) (h : URuns s p x) (hw0 : (p.g.usrc b.toNat).extractLsb' 60 4 = 0)
    (hw1 : (p.g.usrc b.toNat).extractLsb' 17 43 = 0) (hv : (p.g.usrc a.toNat).extractLsb' 35 29 = 0) {o : Obj}
    (ho : allocTile s p ((p.g.usrc a.toNat).extractLsb' 32 3).toNat ((p.g.usrc a.toNat).extractLsb' 0 32).toNat
      ((p.g.usrc b.toNat).extractLsb' 0 17).toNat = some o) :
    exec (.handleAlloc d a b x) s = .next (uniNext (allocHandle s p.b.part p.b.ctx o).1 p p.iss.next fun g =>
      g.udst d.toNat (0#32 ++ (allocHandle s p.b.part p.b.ctx o).2.getD 0)) := by
  show execHandleAlloc d a b x s = _
  refine takeSlot_next h d o ?_
  simp only [bits_toNat, hw0, hw1, hv, ho]
  rfl

theorem handleAlloc_seq (d a b : BitVec 6) (h : URuns s p x) (hw : (p.g.usrc b.toNat).extractLsb' 60 4 = 1) :
    exec (.handleAlloc d a b x) s = .next (uniNext (allocHandle s p.b.part p.b.ctx .seq).1 p p.iss.next fun g =>
      g.udst d.toNat (0#32 ++ (allocHandle s p.b.part p.b.ctx .seq).2.getD 0)) := by
  show execHandleAlloc d a b x s = _
  refine takeSlot_next h d .seq ?_
  simp only [bits_toNat, hw]
  rfl

theorem handleShape_copies (d a : BitVec 6) (h : URuns s p x)
    (hoff : ((p.g.usrc a.toNat).extractLsb' 0 32).toNat % 16 = 0)
    (hroom : ((p.g.usrc a.toNat).extractLsb' 0 32).toNat + 64 ≤ p.b.scrBytes)
    (hclean : scratchPoisoned s p ((p.g.usrc a.toNat).extractLsb' 0 32).toNat 64 = false) :
    exec (.handleShape d a x) s =
      .next (uniNext (allocHandle s p.b.part p.b.ctx (.shape (scratchBytes s p ((p.g.usrc a.toNat).extractLsb' 0 32).toNat 64))).1 p
        p.iss.next fun g => g.udst d.toNat
          (0#32 ++ (allocHandle s p.b.part p.b.ctx (.shape (scratchBytes s p ((p.g.usrc a.toNat).extractLsb' 0 32).toNat 64))).2.getD 0)) := by
  have hmod : (p.g.usrc a.toNat).toNat % 2 ^ 32 = ((p.g.usrc a.toNat).extractLsb' 0 32).toNat := by
    rw [← bits_toNat, bits, Nat.pow_zero, Nat.div_one]
  show execHandleShape d a x s = _
  refine takeSlot_next h d _ ?_
  dsimp only
  rw [hmod, if_neg (by omega), if_neg (by omega), hclean]
  rfl

end

/-! ### Retiring -/

/-- A context that does not exist is none after a change. -/
theorem ctxOf_modCtx_none {s : State} {p c : Nat} (h : ¬((cfind s.parts p).isSome = true ∧ (cfind (partOf s p).ctxs c).isSome = true))
    (f : Ctx → Ctx) : ctxOf (modCtx s p c f) p c = ctxOf s p c := by
  unfold modCtx modPart
  cases hp : cfind s.parts p with
  | none => rfl
  | some q =>
    have hq : partOf s p = q := by unfold partOf; rw [hp]; rfl
    rw [hp, hq] at h
    have hc : cfind q.ctxs c = none := by simpa using h
    dsimp only
    rw [hc]
    unfold ctxOf partOf
    dsimp only
    rw [cfind_cset, if_pos rfl, hp]

/-- A change of a context that keeps its handles. -/
theorem handles_modCtx {s : State} {p c : Nat} {f : Ctx → Ctx} (hf : ∀ x, (f x).handles = x.handles) :
    (ctxOf (modCtx s p c f) p c).handles = (ctxOf s p c).handles := by
  by_cases h : (cfind s.parts p).isSome = true ∧ (cfind (partOf s p).ctxs c).isSome = true
  · rw [ctxOf_modCtx h.1 h.2, hf]
  · rw [ctxOf_modCtx_none h]

theorem handles_dropRecs (s : State) (p c : Nat) (h : Word) :
    (ctxOf (dropRecs s p c h) p c).handles = (ctxOf s p c).handles := by
  unfold dropRecs
  dsimp only
  split
  · rfl
  · unfold bumpCounter
    refine (handles_modCtx ?_).trans ((handles_modCtx ?_).trans rfl)
    · exact fun _ => rfl
    · exact fun _ => rfl

theorem families_dropRecs (s : State) (p c : Nat) (h : Word) (hf : s.families = []) : (dropRecs s p c h).families = [] := by
  unfold dropRecs
  dsimp only
  split
  · rw [hf]; rfl
  · unfold bumpCounter
    rw [modCtx_families, modCtx_families, hf]
    rfl

theorem exists_of_objOf {s : State} {p c : Nat} {h : Word} {o : Obj} (ho : objOf s p c h = some o) :
    (cfind s.parts p).isSome = true ∧ (cfind (partOf s p).ctxs c).isSome = true := by
  by_contra hn
  have hnone : (ctxOf s p c).handles = [] := by
    unfold ctxOf
    cases hp : cfind s.parts p with
    | none => simp [partOf, hp, cfind]
    | some q =>
      have hc : cfind (partOf s p).ctxs c = none := by simpa [hp] using hn
      rw [hc]
      rfl
  unfold objOf at ho
  rw [hnone] at ho
  cases ho

/-- The slot of a current handle, and its generation. -/
theorem slot_of_objOf {s : State} {p c : Nat} {h : Word} {o : Obj} (ho : objOf s p c h = some o) :
    cfind (ctxOf s p c).handles (handleSlot h) = some { gen := handleGen h, obj := some o } := by
  unfold objOf at ho
  split at ho
  · next e he =>
    split at ho
    · next hcond =>
      simp only [Bool.and_eq_true, decide_eq_true_eq] at hcond
      rw [he, ← hcond.2, ← ho]
    · cases ho
  · cases ho

/-- A retired handle's slot, and every other one. -/
theorem handles_retireSlot {s : State} {p c : Nat} {h : Word} {o : Obj} (ho : objOf s p c h = some o) :
    (ctxOf (retireSlot s p c h) p c).handles =
      cset (ctxOf s p c).handles (handleSlot h) { gen := handleGen h + 1, obj := none } := by
  obtain ⟨hp, hc⟩ := exists_of_objOf ho
  unfold retireSlot
  rw [ctxOf_modCtx hp hc]
  dsimp only
  rw [slot_of_objOf ho]
  rfl

section
variable {s : State} {p : Path} {x : UExt}

theorem handleRetire_retires (a : BitVec 6) (h : URuns s p x) {o : Obj}
    (ho : objOf s p.b.part p.b.ctx ((p.g.usrc a.toNat).setWidth 32) = some o) (hst : ∀ sp k n, o ≠ .tile sp k n true) (hf : s.families = []) :
    exec (.handleRetire a x) s = .next (atNext (retireHandle s p.b.part p.b.ctx ((p.g.usrc a.toNat).setWidth 32)) p) := by
  have hsettle : settleFamilies (retireHandle s p.b.part p.b.ctx ((p.g.usrc a.toNat).setWidth 32)) =
      retireHandle s p.b.part p.b.ctx ((p.g.usrc a.toNat).setWidth 32) := by
    have hnone : (retireHandle s p.b.part p.b.ctx ((p.g.usrc a.toNat).setWidth 32)).families = [] :=
      families_dropRecs _ _ _ _ ((modCtx_families _ _ _ _).trans hf)
    unfold settleFamilies
    rw [hnone]
    rfl
  show execHandleRetire a x s = _
  refine uniform_done h ?_
  dsimp only
  rw [ho]
  split
  · next hnone => cases hnone
  · next sp k n hs => exact absurd (Option.some_inj.1 hs) (hst sp k n)
  · rw [hsettle]

/-! ### Fill, clear and summary -/

theorem summary_eq (s : State) (t : Tile) : BitVec.ofNat 64 (t.summary s) = (if ∀ k ∈ t.granules, isFull s t.space k = true then 2
    else if ∃ k ∈ t.granules, isFull s t.space k = true then 1 else 0 : DWord) := by
  have hall : (t.granules.all (fullOf s t.space).contains = true) ↔ ∀ k ∈ t.granules, isFull s t.space k = true := List.all_eq_true
  have hany : (t.granules.any (fullOf s t.space).contains = true) ↔ ∃ k ∈ t.granules, isFull s t.space k = true := List.any_eq_true
  unfold Tile.summary
  dsimp only
  split
  · next h => exact (if_pos (hall.1 h)).symm
  · next h =>
    rw [if_neg (mt hall.2 h)]
    split
    · next h => exact (if_pos (hany.1 h)).symm
    · next h => exact (if_neg (mt hany.2 h)).symm

theorem handleSumm_reads (d a : BitVec 6) (h : URuns s p x) {t : Tile}
    (ht : tileOf s p.b.part p.b.ctx ((p.g.usrc a.toNat).setWidth 32) = some t) :
    exec (.handleSumm d a x) s = .next (uniNext s p p.iss.next fun g => g.udst d.toNat (
      if ∀ k ∈ t.granules, isFull s t.space k = true then 2
      else if ∃ k ∈ t.granules, isFull s t.space k = true then 1 else 0)) := by
  show execHandleSumm d a x s = _
  rw [← atNext_group]
  refine uniform_done h ?_
  dsimp only
  rw [ht]
  dsimp only
  rw [summary_eq]
  exact congrArg UEnd.done (modGroup_eq s p _)

/-- A group that counts one more tile operation, complete at once. -/
def tileCounted (g : Group) : Group := { g with tiles := { g.tiles with issued := g.tiles.issued + 1 } }

theorem setTile_sets (v : Bool) (a : BitVec 6) (h : URuns s p x) {t : Tile}
    (ht : tileOf s p.b.part p.b.ctx ((p.g.usrc a.toNat).setWidth 32) = some t) (hst : t.staging = false) (hq : s.feq = []) :
    setTile v a x s = .next (atNext (setFulls (withGroup s p tileCounted) t.space t.granules v) p) := by
  have hprog : programTile s p.b ((p.g.usrc a.toNat).setWidth 32) = some t := by
    unfold programTile
    rw [ht, Option.filter_some, hst]
    rfl
  refine uniform_done h ?_
  dsimp only
  rw [hprog]
  dsimp only
  rw [show (pathGroup s p fun g => { g with tiles := { g.tiles with issued := g.tiles.issued + 1 } }) = withGroup s p tileCounted from
    modGroup_eq s p _, feRetry_none (feq_setFulls (withGroup s p tileCounted) t.space t.granules v hq)]

theorem setTile_result (v : Bool) (a : BitVec 6) (h : URuns s p x) {t : Tile}
    (ht : tileOf s p.b.part p.b.ctx ((p.g.usrc a.toNat).setWidth 32) = some t) (hst : t.staging = false) (hq : s.feq = []) : ∃ u g',
      setTile v a x s = .next u ∧ groupOf u p.iss.blk p.iss.grp = some g' ∧ (∀ n ∈ p.lanes, (g'.lane n).npc = p.iss.next) ∧
      g'.tiles.issued = p.g.tiles.issued + 1 ∧ (unitLives s t.space = true → ∀ k ∈ t.granules, isFull u t.space k = v) := by
  obtain ⟨g, hpg⟩ := pathGroup_of_pathOf h.path
  have hgroup : groupOf (setFulls (withGroup s p tileCounted) t.space t.granules v) p.iss.blk p.iss.grp = some (tileCounted g) :=
    (groupOf_setFulls _ _ _ _ _ _).trans (groupOf_withGroup hpg tileCounted)
  have hfull : SameFull s (withGroup s p tileCounted) := by
    rw [← modGroup_eq]
    exact sameFull_modGroup _ _ _ _
  refine ⟨_, _, setTile_sets v a h ht hst hq, groupOf_atNext hgroup, npc_sentOn (g := tileCounted g) hpg.livePath, ?_, fun hlives k hk => ?_⟩
  · rw [asRead_of_pathOf h.path hpg]
    rfl
  · have hnext : isFull (atNext (setFulls (withGroup s p tileCounted) t.space t.granules v) p) t.space k =
        isFull (setFulls (withGroup s p tileCounted) t.space t.granules v) t.space k := by
      refine isFull_same ?_ t.space k
      have := sameFull_modGroup (setFulls (withGroup s p tileCounted) t.space t.granules v) p.iss.blk p.iss.grp
        (withLanes p fun _ => sentOn p)
      rwa [modGroup_eq] at this
    rw [hnext, isFull_setFulls ((unitLives_same hfull t.space).trans hlives), if_pos hk]

end

/-- Settles O42. -/
theorem handleResults : Obligations.HandleResults := by
  intro d a b x s p hruns
  have hlow : (p.g.usrc a.toNat).extractLsb' 0 32 = (p.g.usrc a.toNat).setWidth 32 := extractLsb'_zero _ 32
  dsimp only
  refine ⟨fun o k hp hc h1 hk hfree htaken => ?_, fun o htaken => allocHandle_none o (freeSlot_none htaken),
    fun hw0 hw1 hv h16 h64 hs hb => ⟨fun hsp hroom => ?_, fun c hsp hc hroom => ?_, fun m hsp hm => ?_⟩, handleAlloc_seq d a b hruns,
    handleShape_copies d a hruns, fun o ho hst hf => ?_, fun t ht => ⟨?_, fun hst hq e he => ?_⟩⟩
  · rw [allocHandle_some o (freeSlot_lowest h1 hk hfree htaken), ctxOf_modCtx hp hc]
    refine ⟨rfl, ?_, fun j hj => ?_⟩
    · rw [cfind_cset, if_pos rfl]
    · rw [cfind_cset, if_neg hj]
  · refine handleAlloc_tile d a b hruns hw0 hw1 hv ?_
    rw [allocTile_ok h16 h64 hs hb, hsp]
    exact if_pos hroom
  · refine handleAlloc_tile d a b hruns hw0 hw1 hv ?_
    rw [allocTile_ok h16 h64 hs hb, hsp]
    refine if_pos ?_
    rw [hc]
    exact hroom
  · refine handleAlloc_tile d a b hruns hw0 hw1 hv ?_
    rw [allocTile_ok h16 h64 hs hb, hsp]
    show (dspAddr _ _ _).map _ = _
    rw [hm]
    rfl
  · have hslot := handles_retireSlot ho
    rw [hlow] at ho hslot ⊢
    have hall : (ctxOf (atNext (retireHandle s p.b.part p.b.ctx ((p.g.usrc a.toNat).setWidth 32)) p) p.b.part p.b.ctx).handles =
        cset (ctxOf s p.b.part p.b.ctx).handles (handleSlot ((p.g.usrc a.toNat).setWidth 32))
          { gen := handleGen ((p.g.usrc a.toNat).setWidth 32) + 1, obj := none } := (handles_dropRecs _ _ _ _).trans hslot
    have hnew := cfind_cset (ctxOf s p.b.part p.b.ctx).handles (handleSlot ((p.g.usrc a.toNat).setWidth 32))
      (handleSlot ((p.g.usrc a.toNat).setWidth 32)) { gen := handleGen ((p.g.usrc a.toNat).setWidth 32) + 1, obj := none }
    rw [if_pos rfl] at hnew
    refine ⟨_, handleRetire_retires a hruns ho hst hf, ?_, ?_, fun j hj => ?_⟩
    · unfold objOf
      rw [hall, hnew]
      exact ite_self _
    · rw [hall]
      exact hnew
    · rw [hall, cfind_cset]
      exact if_neg hj
  · rw [hlow] at ht
    exact handleSumm_reads d a hruns ht
  · rw [hlow] at ht
    simp only [List.mem_cons, List.not_mem_nil, or_false] at he
    rcases he with rfl | rfl
    · exact setTile_result true a hruns ht hst hq
    · exact setTile_result false a hruns ht hst hq

end Sys2Proof.Proofs
end
section
/-! REFUTATION of O41 (R292): `rega` ends its lanes' holds before it sends them on, in every block of the issuing block's number, and of the
second block of a number, which no run reaches, the stated frame keeps a dead lane's hold. -/

namespace Sys2Proof.Proofs

open Sys2Proof Sys2Proof.Machine Sys2Proof.Claims Sys2Proof.Tests

/-- Two resident blocks of the number 1; the lane of the second one is dead, and held. -/
def heldTwins : State :=
  { uS (uni []) with blocks := [uni [], tBlock { tGroup [{ tLane [] with live := false, hold := .reconv }] with budget := 1 }] }

/-- The hold of the lane of the second block. -/
def twinHold (o : Out) : Option Hold :=
  match o with
  | .next t => (t.blocks[1]?).bind fun b => (b.group 0).map fun g => (g.lane 0).hold
  | _ => none

theorem quiet_heldTwins : Quiet heldTwins (uP (uni [])) {} := ⟨⟨rfl, rfl⟩, by decide, rfl, rfl⟩

/-- A grow by 0 ends the hold of the second block's lane. -/
theorem twinHold_exec : twinHold (exec (.regaGrowWait 0 {}) heldTwins) = some .none := by decide +kernel

/-- The stated frame keeps it. -/
theorem twinHold_stated : twinHold (.next (atNext heldTwins (uP (uni [])))) = some .reconv := by decide +kernel

/-- Refutes O41: a grow by 0 in a state with two blocks of one number. -/
theorem not_budgetResults : ¬ Obligations.BudgetResults := by
  intro h
  obtain ⟨-, -, -, -, -, hzero⟩ := h 0 0 {} heldTwins (uP (uni [])) quiet_heldTwins
  have hhold := twinHold_exec
  rw [(hzero rfl).1, twinHold_stated] at hhold
  exact absurd hhold (by decide)

end Sys2Proof.Proofs
end
section
/-! PROOF of O40 (R62, R291): a group that arrives at a rendezvous joins its list and waits, while another live group has not arrived. -/

namespace Sys2Proof.Proofs

open Sys2Proof Sys2Proof.Machine Sys2Proof.Claims Sys2Proof.Laws

/-! ### Instructions of a quiet group -/

/-- An instruction that wants its group reconverged and quiet. -/
theorem whenQuiet_runs {s : State} {p : Path} {x : UExt} (h : Quiet s p x) (f : Path → State → UEnd) :
    whenQuiet x f s = (f p (freed s p)).out p := by
  have hq : p.g.quiet = true := by
    unfold Group.quiet
    rw [h.loads, h.stores]
    rfl
  unfold whenQuiet
  rw [conv_runs h.runs h.whole, if_pos hq]

/-! ### The list of arrivals -/

/-- A block whose rendezvous lists one more group. -/
def arrivedAt (grp kind id : Nat) (b : Block) : Block :=
  { b with rdv := some (match b.rdv with
      | some r => { r with arrived := r.arrived ++ [grp] }
      | none => { eqp := id, kind := kind, arrived := [grp] }) }

/-- A change of a block that leaves its groups, before or after a change of a group of it. -/
theorem withGroup_modBlock (s : State) (p : Path) (G : Group → Group) {F : Block → Block} (hid : ∀ b, (F b).id = b.id)
    (hF : ∀ (b : Block) (k : Nat) (G : Group → Group), F (b.modGroup k G) = (F b).modGroup k G) :
    withGroup (modBlock s p.iss.blk F) p G = modBlock (withGroup s p G) p.iss.blk F := by
  unfold withGroup modBlock
  dsimp only
  rw [List.map_map, List.map_map]
  refine congrArg (fun bs => { s with blocks := bs }) (List.map_congr_left fun b _ => ?_)
  simp only [Function.comp]
  by_cases hb : b.id = p.iss.blk
  · rw [if_pos hb, if_pos ((hid b).trans hb), if_pos hb]
    show (F b).modGroup p.iss.grp G = _
    rw [← hF b]
    exact (if_pos hb).symm
  · simp only [hb, if_false]

/-- A rendezvous that some live group has not reached stays as it is. -/
theorem checkRdv_waits {s : State} {blk j : Nat} {b : Block} {r : Rendezvous} (hb : blockOf s blk = some b) (hr : b.rdv = some r)
    (hj : j ∈ b.liveGroups) (hnot : j ∉ r.arrived) : checkRdv s blk = s := by
  have hall : b.liveGroups.all r.arrived.contains = false :=
    List.all_eq_false.2 ⟨j, hj, by simpa using hnot⟩
  unfold checkRdv
  rw [hb]
  dsimp only
  rw [hr]
  split
  · next r' k hr' _ =>
    cases hr'
    rw [hall]
    exact if_pos (by simp)
  · rfl

/-- The block once its rendezvous lists the group. -/
theorem arrivedAt_rdv (grp kind id : Nat) (b : Block) : ∃ r, (arrivedAt grp kind id b).rdv = some r ∧
    ∀ j, j ≠ grp → (∀ r', b.rdv = some r' → j ∉ r'.arrived) → j ∉ r.arrived := by
  refine ⟨_, rfl, fun j hne hnot => ?_⟩
  cases hr : b.rdv with
  | none => simpa using hne
  | some r =>
    show j ∉ r.arrived ++ [grp]
    simpa [hne] using hnot r hr

/-- The block of a path that is held lists the same live groups and the same rendezvous. -/
theorem blockOf_held {s : State} {p : Path} {h : Hold} {b : Block} (hb : blockOf s p.iss.blk = some b) :
    ∃ b', blockOf (held s p h) p.iss.blk = some b' ∧ b'.liveGroups = b.liveGroups ∧ b'.rdv = b.rdv := by
  have hb' : blockOf (held s p h) p.iss.blk = _ := blockOf_withGroup s p _ p.iss.blk
  rw [if_pos rfl, hb] at hb'
  refine ⟨_, hb', ?_, rfl⟩
  rw [liveGroups_modGroup]
  refine fun g => live_withLanes p ?_ g
  exact fun _ _ => rfl

/-- A group joins a rendezvous that another live group has not reached: it is held there, and the block lists it. -/
theorem joinRdv_waits {s : State} {p : Path} {kind id j : Nat} (hb : blockOf s p.iss.blk = some p.b)
    (hj : j ∈ p.b.liveGroups) (hne : j ≠ p.iss.grp) (hnot : ∀ r, p.b.rdv = some r → j ∉ r.arrived) :
    joinRdv (freed s p) p kind id = modBlock (held s p (.mig p.iss.next)) p.iss.blk (arrivedAt p.iss.grp kind id) := by
  have hcomm : pathHold (modBlock (freed s p) p.iss.blk (arrivedAt p.iss.grp kind id)) p (.mig p.iss.next) =
      modBlock (held s p (.mig p.iss.next)) p.iss.blk (arrivedAt p.iss.grp kind id) := by
    rw [pathHold_eq, ← held_freed s p]
    exact withGroup_modBlock (freed s p) p _ (F := arrivedAt p.iss.grp kind id) (fun _ => rfl) fun _ _ _ => rfl
  obtain ⟨b', hb', hlive, hrdv⟩ := blockOf_held (h := .mig p.iss.next) hb
  obtain ⟨r, hr, hr'⟩ := arrivedAt_rdv p.iss.grp kind id b'
  show checkRdv (pathHold (modBlock (freed s p) p.iss.blk (arrivedAt p.iss.grp kind id)) p (.mig p.iss.next)) p.iss.blk = _
  rw [hcomm]
  refine checkRdv_waits (b := arrivedAt p.iss.grp kind id b') (r := r) (j := j) ?_ hr ?_ (hr' j hne (hrdv ▸ hnot))
  · rw [blockOf_modBlock (f := arrivedAt p.iss.grp kind id) (hf := fun _ => rfl), if_pos rfl, hb']
    rfl
  · exact (hlive ▸ hj : j ∈ b'.liveGroups)

/-- Settles O40: the arrival that leaves another live group awaited only lists the group and holds its path. -/
theorem migrateResults : Obligations.MigrateResults := by
  intro e he imm x s p k j hquiet hfault hkernel hj hne hrdv
  obtain ⟨g, hg⟩ := pathGroup_of_pathOf hquiet.runs.path
  have hmig : mig e.2 imm x s = .next (modBlock (held s p (.mig p.iss.next)) p.iss.blk (arrivedAt p.iss.grp e.2 imm.toNat)) := by
    unfold mig
    rw [whenQuiet_runs hquiet, show migFault (freed s p) p e.2 imm.toNat = none from hfault]
    exact congrArg Host.Outcome.next (joinRdv_waits hg.block hj hne fun r hr => (hrdv r hr).1)
  simp only [List.mem_cons, List.not_mem_nil, or_false] at he
  obtain rfl | rfl | rfl := he <;> exact hmig

end Sys2Proof.Proofs
end
section
/-! PROOF of O36 (R95, R96, R281): the gang instructions of a block whose latch is empty. -/

namespace Sys2Proof.Proofs

open Sys2Proof Sys2Proof.Machine Sys2Proof.Claims Sys2Proof.Laws

/-! ### Lists -/

theorem all_contains_of {l ks : List Nat} (h : ∀ k ∈ ks, k ∈ l) : ks.all l.contains = true :=
  List.all_eq_true.2 fun k hk => List.contains_iff_mem.2 (h k hk)

theorem map_eq_self {α : Type} {f : α → α} {l : List α} (h : ∀ a ∈ l, f a = a) : l.map f = l :=
  (List.map_congr_left h).trans (List.map_id l)

/-! ### An empty latch -/

/-- R277: nothing waits in the latch, so nothing is accepted from it. -/
theorem tryLatch_empty {s : State} {blk : Nat} (h : ∀ b, blockOf s blk = some b → b.latch = []) : tryLatch s blk = s := by
  unfold tryLatch
  cases hb : blockOf s blk with
  | none => rfl
  | some b =>
    dsimp only
    rw [h b hb]

/-- R281: no arrival leaves an empty latch. -/
theorem dropUnlisted_empty {s : State} {blk : Nat} (m : BitVec 32) (h : ∀ b ∈ s.blocks, b.id = blk → b.latch = []) :
    dropUnlisted s blk m = s := by
  refine congrArg (fun bs => { s with blocks := bs }) (map_eq_self fun b hb => ?_)
  by_cases hid : b.id = blk
  · rw [if_pos hid]
    dsimp only
    rw [h b hb hid]
    show ({ b with latch := [], groups := b.groups.mapIdx fun _ g => g } : Block) = b
    rw [mapIdx_eq_map fun g => g, List.map_id']
    rw [← h b hb hid]
  · exact if_neg hid

theorem mem_of_blockOf {s : State} {blk : Nat} {b : Block} (h : blockOf s blk = some b) : b ∈ s.blocks ∧ b.id = blk :=
  ⟨List.mem_of_find?_eq_some h, by simpa using List.find?_some h⟩

/-- The block whose lease is changed and whose paths issue again. -/
theorem lease_again {s : State} {blk k : Nat} {f : Lease → Lease} {q : Nat → Bool} {why : Retry} {b : Block}
    (hb : blockOf (wakeRetry (modBlock s k fun b => { b with lease := f b.lease }) q why) blk = some b) :
    ∃ b', blockOf s blk = some b' ∧ b.latch = b'.latch ∧ b.lease = if blk = k then f b'.lease else b'.lease := by
  rw [blockOf_wakeRetry, blockOf_modBlock (f := fun b => { b with lease := f b.lease }) (hf := fun _ => rfl)] at hb
  obtain ⟨b1, hb1, rfl⟩ := Option.map_eq_some_iff.1 hb
  split at hb1
  · next hk =>
    obtain ⟨b', hb', rfl⟩ := Option.map_eq_some_iff.1 hb1
    exact ⟨b', hb', rfl, (if_pos hk).symm⟩
  · next hk => exact ⟨b1, hb1, rfl, (if_neg hk).symm⟩

/-- R281: once the lease has changed, paths of the block that wait for the engine issue again, and nothing else is done. -/
theorem tryLatch_again {s : State} {blk : Nat} (f : Lease → Lease) (q : Nat → Bool) (why : Retry)
    (h : ∀ b ∈ s.blocks, b.id = blk → b.latch = []) :
    tryLatch (wakeRetry (modBlock s blk fun b => { b with lease := f b.lease }) q why) blk =
      wakeRetry (modBlock s blk fun b => { b with lease := f b.lease }) q why := by
  refine tryLatch_empty fun b hb => ?_
  obtain ⟨b', hb', hl, -⟩ := lease_again hb
  obtain ⟨hmem, hid⟩ := mem_of_blockOf hb'
  exact hl.trans (h b' hmem hid)

/-! ### The instructions -/

section
variable {s : State} {p : Path} {x : UExt}

theorem gangList_taken (a : BitVec 6) (h : URuns s p x) (hlatch : ∀ b ∈ s.blocks, b.id = p.iss.blk → b.latch = [])
    (hword : (p.g.usrc a.toNat).toNat < 2 ^ 32) {m : BitVec 32} (hm : m = (p.g.usrc a.toNat).setWidth 32)
    (hlen : maskLanes m = [] ∨ 2 ≤ (maskLanes m).length ∧ (maskLanes m).length ≤ 6) (hlive : ∀ g ∈ maskLanes m, g ∈ p.b.liveGroups) :
    exec (.gangList a x) s = .next (atNext (wakeRetry (modBlock s p.iss.blk fun b => { b with lease := { b.lease with gang := m } })
      (fun k => k = p.iss.blk) .lease) p) := by
  subst hm
  show execGangList a x s = _
  refine uniform_done h ?_
  have hok : (decide ((p.g.usrc a.toNat).toNat < 2 ^ 32) && ((gangList ((p.g.usrc a.toNat).setWidth 32)).isEmpty ||
      (decide (2 ≤ (gangList ((p.g.usrc a.toNat).setWidth 32)).length) &&
        decide ((gangList ((p.g.usrc a.toNat).setWidth 32)).length ≤ 6))) &&
      (gangList ((p.g.usrc a.toNat).setWidth 32)).all p.b.liveGroups.contains) = true := by
    rw [Bool.and_eq_true, Bool.and_eq_true]
    refine ⟨⟨decide_eq_true hword, ?_⟩, all_contains_of hlive⟩
    obtain hnil | ⟨hlow, hhigh⟩ := hlen
    · simp [gangList, hnil]
    · exact Bool.or_eq_true_iff.2 (.inr (Bool.and_eq_true_iff.2 ⟨decide_eq_true hlow, decide_eq_true hhigh⟩))
  dsimp only
  rw [hok]
  refine (if_neg Bool.false_ne_true).trans (congrArg UEnd.done ?_)
  have hdrop : ∀ b ∈ (pathBlock s p fun b => { b with lease := { b.lease with gang := (p.g.usrc a.toNat).setWidth 32 } }).blocks,
      b.id = p.iss.blk → b.latch = [] := by
    intro b hb hid
    obtain ⟨b', hb', rfl⟩ := List.mem_map.1 hb
    split at hid
    · next hk =>
      rw [if_pos hk]
      exact hlatch b' hb' hk
    · next hk => exact absurd hid hk
  rw [dropUnlisted_empty _ hdrop]
  exact tryLatch_again (fun l => { l with gang := (p.g.usrc a.toNat).setWidth 32 }) _ _ hlatch

theorem gangBaton_taken (a : BitVec 6) (h : URuns s p x) (hlatch : ∀ b ∈ s.blocks, b.id = p.iss.blk → b.latch = [])
    (hgrp : p.iss.grp = p.b.lease.baton) (hv : (p.g.usrc a.toNat).toNat < 32) (hlive : (p.g.usrc a.toNat).toNat ∈ p.b.liveGroups) :
    exec (.gangBaton a x) s = .next (atNext (wakeRetry (modBlock s p.iss.blk fun b =>
      { b with lease := { b.lease with baton := (p.g.usrc a.toNat).toNat } }) (fun k => k = p.iss.blk) .lease) p) := by
  show execGangBaton a x s = _
  refine uniform_done h ?_
  dsimp only
  rw [if_neg (not_not.2 hgrp), if_neg (by simp [hlive, hv])]
  exact congrArg UEnd.done (tryLatch_again (fun l => { l with baton := (p.g.usrc a.toNat).toNat }) _ _ hlatch)

theorem gangLease_asks (h : URuns s p x) : exec (.gangLease x) s = .next (atNext (
    if (coreOf s p.b.core).holder = some p.iss.blk ∨ p.iss.blk ∈ (coreOf s p.b.core).leaseQueue then s
    else modCore (modBlock s p.iss.blk fun b => { b with lease := { b.lease with asker := p.iss.grp, asked := s.tick } }) p.b.core
      fun c => { c with leaseQueue := c.leaseQueue ++ [p.iss.blk] }) p) := by
  show execGangLease x s = _
  refine uniform_done h (congrArg UEnd.done ?_)
  exact if_congr (by simp) rfl rfl

theorem gangRelease_free (h : URuns s p x) (hfree : (coreOf s p.b.core).holder ≠ some p.iss.blk) :
    exec (.gangRelease x) s = .next (atNext s p) := by
  show execGangRelease x s = _
  exact uniform_done h (if_pos hfree)

/-- R96: the holder that has every operation done gives the engine up, its accumulators saved with the block. -/
theorem gangRelease_spills (h : URuns s p x) (hheld : (coreOf s p.b.core).holder = some p.iss.blk)
    (hops : (coreOf s p.b.core).ops = []) :
    exec (.gangRelease x) s = .next (atNext (spillLease s p.iss.blk p.b.core true) p) := by
  show execGangRelease x s = _
  refine uniform_done h ?_
  dsimp only
  rw [if_neg (not_not.2 hheld), hops]
  rfl

end

theorem coreOf_spillLease (s : State) (blk core : Nat) (rel : Bool) :
    coreOf (spillLease s blk core rel) core = { coreOf s core with holder := none, acc := [] } := by
  show coreOf (modCore (modBlock s blk fun b =>
    { b with lease := { b.lease with acc := (coreOf s core).acc, released := rel, everHeld := true } }) core
    fun c => { c with holder := none, acc := [] }) core = _
  rw [coreOf_modCore]
  rfl

theorem lease_spillLease {s : State} {blk core : Nat} {rel : Bool} {b b' : Block} (hb : blockOf s blk = some b)
    (hb' : blockOf (spillLease s blk core rel) blk = some b') :
    b'.lease = { b.lease with acc := (coreOf s core).acc, released := rel, everHeld := true } := by
  obtain ⟨b1, hb1, -, hl⟩ := lease_again (s := s) (k := blk) (q := fun k => k = blk) (why := .lease)
    (f := fun l => { l with acc := (coreOf s core).acc, released := rel, everHeld := true }) hb'
  rw [if_pos rfl] at hl
  rw [hb] at hb1
  cases hb1
  exact hl

/-- Settles O36: the list and the baton wake the block's paths and leave the empty latch; a lease is asked for unless it is held or
asked for; a release spills the accumulators. -/
theorem gangResults : Obligations.GangResults := by
  intro a x s p h
  obtain ⟨g, hg⟩ := pathGroup_of_pathOf h.path
  refine ⟨fun hlatch => ⟨fun hword hlen hlive => gangList_taken a h hlatch hword rfl hlen hlive, gangBaton_taken a h hlatch⟩,
    gangLease_asks h, gangRelease_free h, fun hheld hops => ⟨_, gangRelease_spills h hheld hops, ?_, ?_, fun b' hb' => ?_⟩⟩
  · show (coreOf (spillLease s p.iss.blk p.b.core true) p.b.core).holder = none
    rw [coreOf_spillLease]
  · show (coreOf (spillLease s p.iss.blk p.b.core true) p.b.core).acc = []
    rw [coreOf_spillLease]
  · have hb1 : blockOf (atNext (spillLease s p.iss.blk p.b.core true) p) p.iss.blk = _ :=
      blockOf_withGroup (spillLease s p.iss.blk p.b.core true) p _ p.iss.blk
    rw [if_pos rfl] at hb1
    obtain ⟨b1, hb2, rfl⟩ := Option.map_eq_some_iff.1 (hb1.symm.trans hb')
    exact (lease_spillLease hg.block hb2 :)

end Sys2Proof.Proofs
end
section
/-! PROOF of O34 (R96, R276, R277): a solo `mma` that the engine serves is accepted with its fragments, or its path waits for room. -/

namespace Sys2Proof.Proofs

open Sys2Proof Sys2Proof.Machine Sys2Proof.Claims Sys2Proof.Laws

/-! ### Counting an accepted operation -/

theorem leaseCap_addTo (x : Ctx) (ks : List Nat) (f : Ctx → Nat → Bool) (n : Nat) :
    (ks.foldl (fun x k => x.addTo (f x k) k n) x).leaseCap = x.leaseCap := by
  induction ks generalizing x with
  | nil => rfl
  | cons k ks ih => exact ih _

/-- R337: an event that is counted changes nothing outside the partitions, and no LEASE_CAP. -/
theorem countEvent_cap (s : State) (p c code n : Nat) :
    (∃ ps, countEvent s p c code n = { s with parts := ps }) ∧ (ctxOf (countEvent s p c code n) p c).leaseCap = (ctxOf s p c).leaseCap := by
  unfold countEvent
  split
  · refine ⟨?_, ?_⟩
    · unfold modCtx modPart
      split
      · exact ⟨_, rfl⟩
      · exact ⟨s.parts, rfl⟩
    · by_cases h : (cfind s.parts p).isSome = true ∧ (cfind (partOf s p).ctxs c).isSome = true
      · rw [ctxOf_modCtx h.1 h.2]
        exact leaseCap_addTo _ _ _ _
      · rw [ctxOf_modCtx_none h]
  · exact ⟨⟨s.parts, rfl⟩, rfl⟩

/-- R96: OPS after an accepted operation. -/
def opsAfter (s : State) (b : Block) (n : Nat) : Nat :=
  if leaseCapOf s b ≤ n + 1 ∧ (coreOf s b.core).leaseQueue = [] then 0 else n + 1

/-- A block whose OPS counts one more operation. -/
def opCounted (s : State) (b b' : Block) : Block := { b' with lease := { b'.lease with ops := opsAfter s b b'.lease.ops } }

theorem countOp_eq (s : State) (b : Block) : ∃ ps, countOp s b = modBlock { s with parts := ps } b.id (opCounted s b) := by
  obtain ⟨⟨ps, hps⟩, hcap⟩ := countEvent_cap s b.part b.ctx 0x020 1
  refine ⟨ps, ?_⟩
  have hlease : leaseCapOf (countEvent s b.part b.ctx 0x020 1) b = leaseCapOf s b := congrArg BitVec.toNat hcap
  unfold countOp
  dsimp only
  rw [hlease, hps]
  refine congrArg (modBlock { s with parts := ps } b.id) (funext fun b' => ?_)
  refine congrArg (fun n => { b' with lease := { b'.lease with ops := n } }) ?_
  unfold opsAfter
  simp only [Bool.and_eq_true, decide_eq_true_iff, List.isEmpty_iff]
  rfl

/-! ### Fragments -/

/-- A table that lists what is not the default. -/
theorem cget_listed {α : Type} [DecidableEq α] (d : α) (w : Nat → α) (l : List Nat) (k : Nat) :
    cget d ((l.map fun j => (j, w j)).filter fun q => q.2 ≠ d) k = if k ∈ l then w k else d := by
  induction l with
  | nil => rfl
  | cons j l ih =>
    rw [List.map_cons, List.filter_cons]
    by_cases hj : w j = d
    · rw [if_neg (by simpa using hj), ih]
      by_cases hk : k = j
      · subst hk
        simp [hj]
      · simp [hk]
    · rw [if_pos (by simpa using hj)]
      by_cases hk : k = j
      · subst hk
        simp [cget, cfind]
      · refine Eq.trans ?_ (ih.trans ?_)
        · exact congrArg (fun o => Option.getD o d) (if_neg hk)
        · simp [hk]

/-- The word of a place of a fragment that one group supplies. -/
def fragWord (s : State) (blk gi : Nat) (base : BitVec 7) (k : Nat) : Word :=
  match groupOf s blk gi with
  | some g => (g.lane (k % 32)).reg (base.toNat + k / 32)
  | none => 0

theorem capture_one (s : State) (blk gi : Nat) (base : BitVec 7) (shape : Nat) : capture s blk [gi] base shape =
    ((List.range (32 * fragRegs shape)).map fun k => (k, fragWord s blk gi base k)).filter fun q => q.2 ≠ 0 := by
  unfold capture fragWord
  simp only [List.length_singleton, Nat.mod_one, Nat.div_one, List.getD_cons_zero] <;> rfl

/-- R276: the fragment that one group supplies. -/
theorem cget_capture {s : State} {blk gi : Nat} {g : Group} (h : groupOf s blk gi = some g) (base : BitVec 7) (shape : Nat) {r n : Nat}
    (hr : r < fragRegs shape) (hn : n < 32) : cget 0 (capture s blk [gi] base shape) (32 * r + n) = (g.lane n).reg (base.toNat + r) := by
  have hdiv : (32 * r + n) / 32 = r := by omega
  have hmod : (32 * r + n) % 32 = n := by omega
  rw [capture_one, cget_listed, if_pos (List.mem_range.2 (by omega))]
  unfold fragWord
  rw [h, hdiv, hmod]

/-! ### A solo `mma` -/

section
variable {s : State} {p : Path} {va vb : BitVec 7} {shape : BitVec 4}

theorem solo_members (h : Solo s p va vb shape) : mmaMembers p = [p.iss.grp] := by
  unfold mmaMembers
  rw [h.alone]
  rfl

theorem solo_rank (h : Solo s p va vb shape) : mmaRank p = 0 := by
  unfold mmaRank
  rw [solo_members h]
  simp

theorem solo_inBudget (h : Solo s p va vb shape) : mmaInBudget p va vb shape.toNat = true := by
  unfold mmaInBudget fragInBudget
  rw [solo_members h, solo_rank h]
  have hregs : rankRegs shape.toNat 0 [p.iss.grp].length = fragRegs shape.toNat := by simp [rankRegs]
  rw [hregs]
  simpa using h.budget

theorem solo_noPoison (h : Solo s p va vb shape) : mmaPoison (pathHold s p .none) p va vb shape.toNat = [] := by
  have hnone : ∀ n k, isPoisoned (pathHold s p .none) (.reg p.iss.blk p.iss.grp n k) = false := h.clean
  unfold mmaPoison fragPoison
  simp [hnone]

theorem mma_solo (h : Solo s p va vb shape) (fn : Nat) (acc : BitVec 2) :
    mma fn va vb acc shape s =
      if (coreOf s p.b.core).ops.length ≤ 2 then
        .next (atNext (acceptMma (freed s p) p.b [p.iss.grp] va vb acc.toNat fn shape.toNat p.iss.word) p)
      else .next (held s p (.retry .lease)) := by
  have hserves : engineServes (pathHold s p .none) p.b p.iss.grp = true := h.serves
  unfold mma
  rw [h.path]
  dsimp only
  rw [(reconverged_iff p).2 h.whole, solo_inBudget h, hserves, solo_noPoison h, h.alone, solo_members h, pathTo_eq, pathHold_eq, pathHold_eq]
  have hroom : engineRoom (held s p .none) p.b.core = decide ((coreOf s p.b.core).ops.length ≤ 2) := rfl
  have hheld : held (held s p .none) p (.retry .lease) = held s p (.retry .lease) := held_freed s p _
  rw [hroom, hheld]
  simp only [Bool.not_true, Bool.and_false, Bool.false_eq_true, if_false, List.isEmpty_nil, decide_eq_true_eq]
  rfl

end

/-- The operation that a solo `mma` hands to the engine. -/
def soloOp (s : State) (p : Path) (fn acc shape : Nat) (va vb : BitVec 7) (s15 : DWord) : MatOp :=
  .mma p.b.id fn acc shape (capture s p.b.id [p.iss.grp] va shape) (capture s p.b.id [p.iss.grp] vb shape) s15 p.iss.word p.iss.grp 0

/-- A core whose engine has accepted one more operation. -/
def accepted (o : MatOp) (c : Core) : Core := { c with ops := c.ops ++ [o] }

theorem acceptMma_solo {s : State} {p : Path} {g : Group} (hg : groupOf s p.b.id p.iss.grp = some g) (va vb : BitVec 7)
    (acc fn shape : Nat) : ∃ ps, acceptMma s p.b [p.iss.grp] va vb acc fn shape p.iss.word =
      modBlock { modCore s p.b.core (accepted (soloOp s p fn acc shape va vb (if 2 ≤ fn then g.usrc 15 else 0))) with parts := ps } p.b.id
        (opCounted (modCore s p.b.core (accepted (soloOp s p fn acc shape va vb (if 2 ≤ fn then g.usrc 15 else 0)))) p.b) := by
  have hs15 : (if 2 ≤ fn then ((groupOf s p.b.id ([p.iss.grp].headD 0)).map fun g => g.usrc 15).getD 0 else 0) =
      if 2 ≤ fn then g.usrc 15 else 0 := by
    show (if 2 ≤ fn then ((groupOf s p.b.id p.iss.grp).map fun g => g.usrc 15).getD 0 else 0) = _
    rw [hg]
    rfl
  obtain ⟨ps, hps⟩ := countOp_eq (modCore s p.b.core (accepted (soloOp s p fn acc shape va vb (if 2 ≤ fn then g.usrc 15 else 0)))) p.b
  refine ⟨ps, Eq.trans ?_ hps⟩
  unfold acceptMma
  rw [hs15]
  rfl

theorem opsAfter_accepted (s : State) (b : Block) (o : MatOp) (n : Nat) : opsAfter (modCore s b.core (accepted o)) b n = opsAfter s b n := by
  unfold opsAfter
  rw [coreOf_modCore]
  rfl

/-- The lanes of the path free of holds. -/
def freedLanes (p : Path) : Group → Group := withLanes p fun _ l => { l with hold := .none, once := false, seen := none }

theorem regs_freedLanes (p : Path) (g : Group) (n : Nat) : ((freedLanes p g).lane n).regs = (g.lane n).regs := by
  unfold freedLanes
  by_cases hn : n < g.lanes.length
  · rw [lane_withLanes _ _ _ hn]
    split <;> rfl
  · rw [lane_out hn, lane_out]
    simpa [withLanes] using hn

theorem livePath_freedLanes {p : Path} {g : Group} (h : LivePath p g) : LivePath p (freedLanes p g) := fun n hn =>
  (live_lane_withLanes p (f := fun _ l => { l with hold := .none, once := false, seen := none }) (fun _ _ => rfl) g n).trans (h n hn)

/-- The state once the engine has accepted the operation of a solo `mma`. -/
theorem accepted_solo {s u : State} {p : Path} {g : Group} {va vb : BitVec 7} {acc fn shape : Nat} (hg : PathGroup s p g)
    (hu : u = acceptMma (freed s p) p.b [p.iss.grp] va vb acc fn shape p.iss.word) :
    groupOf u p.iss.blk p.iss.grp = some (freedLanes p g) ∧
      coreOf u p.b.core = accepted (soloOp (freed s p) p fn acc shape va vb (if 2 ≤ fn then g.usrc 15 else 0)) (coreOf s p.b.core) ∧
      ∃ b, blockOf u p.iss.blk = some b ∧ b.lease.ops = opsAfter s p.b p.b.lease.ops := by
  have hid : p.b.id = p.iss.blk := (mem_of_blockOf hg.block).2
  have hg1 : groupOf (freed s p) p.iss.blk p.iss.grp = some (freedLanes p g) := groupOf_withGroup hg (freedLanes p)
  obtain ⟨ps, hps⟩ := acceptMma_solo (s := freed s p) (p := p) (g := freedLanes p g) (hid ▸ hg1) va vb acc fn shape
  rw [← hu] at hps
  subst hps
  refine ⟨?_, coreOf_modCore (freed s p) p.b.core _, ?_⟩
  · rw [groupOf_modBlock (f := opCounted _ p.b) (hid := fun _ => rfl) (hf := fun _ => rfl)]
    exact hg1
  · have hb : blockOf (freed s p) p.iss.blk = some (p.b.modGroup p.iss.grp (freedLanes p)) := by
      refine (blockOf_withGroup s p (freedLanes p) p.iss.blk).trans ?_
      rw [if_pos rfl, hg.block]
      rfl
    refine ⟨opCounted _ p.b (p.b.modGroup p.iss.grp (freedLanes p)), ?_, opsAfter_accepted (freed s p) p.b
      (soloOp (freed s p) p fn acc shape va vb (if 2 ≤ fn then g.usrc 15 else 0)) _⟩
    rw [blockOf_modBlock (f := opCounted _ p.b) (hf := fun _ => rfl), if_pos hid.symm]
    exact congrArg (Option.map _) hb

/-- Settles O34: with room the engine's queue gets the captured fragments and OPS counts them; without, the path waits. -/
theorem mmaResults : Obligations.MmaResults := by
  intro mk hmk va vb acc shape x s p g0 h hg0
  have hexec : exec (mk.1 va vb acc shape x) s = mma mk.2 va vb acc shape s := by
    simp only [List.mem_cons, List.not_mem_nil, or_false] at hmk
    obtain rfl | rfl | rfl | rfl := hmk <;> rfl
  rw [hexec, mma_solo h]
  refine ⟨fun hroom => ?_, fun hroom => if_neg (by omega)⟩
  rw [if_pos hroom]
  obtain ⟨g, hg⟩ := pathGroup_of_pathOf h.path
  obtain rfl : g0 = g := Option.some_inj.1 (hg0.symm.trans hg.groupOf_eq)
  have hid : p.b.id = p.iss.blk := (mem_of_blockOf hg.block).2
  generalize hu : acceptMma (freed s p) p.b [p.iss.grp] va vb acc.toNat mk.2 shape.toNat p.iss.word = u
  obtain ⟨hgroup, hcore, b, hb, hops⟩ := accepted_solo hg hu.symm
  have hcore' : coreOf (atNext u p) p.b.core = _ := hcore
  have hreg : ∀ n k, ((freedLanes p g0).lane n).reg k = (p.g.lane n).reg k := fun n k => by
    rw [hg.lane_eq]
    exact congrArg (fun r => cget 0 r k) (regs_freedLanes p g0 n)
  have hfrag : groupOf (freed s p) p.b.id p.iss.grp = some (freedLanes p g0) := hid ▸ groupOf_withGroup hg (freedLanes p)
  refine ⟨atNext u p, capture (freed s p) p.b.id [p.iss.grp] va shape.toNat, capture (freed s p) p.b.id [p.iss.grp] vb shape.toNat, _,
    rfl, groupOf_atNext hgroup, ?_, ?_, fun r n hr hn => ⟨?_, ?_⟩, fun n hn => ?_, fun b' hb' => ?_⟩
  · rw [hcore']
    rfl
  · rw [hcore']
    rfl
  · rw [cget_capture hfrag va shape.toNat hr hn, hreg]
  · rw [cget_capture hfrag vb shape.toNat hr hn, hreg]
  · rw [lane_sentOn (livePath_freedLanes hg.livePath) (h.whole n hn)]
    exact ⟨rfl, rfl, (regs_freedLanes p g0 n).trans (congrArg Lane.regs (hg.lane_eq n).symm)⟩
  · have hnext : blockOf (atNext u p) p.iss.blk = _ := blockOf_withGroup u p _ p.iss.blk
    rw [if_pos rfl, hb] at hnext
    obtain rfl := Option.some_inj.1 (hb'.symm.trans hnext)
    exact hops

end Sys2Proof.Proofs
end
section
/-! PROOF of O35 (R280): `mfrag` reads, writes and zeroes elements of the accumulators. -/

namespace Sys2Proof.Proofs

open Sys2Proof Sys2Proof.Machine Sys2Proof.Claims Sys2Proof.Laws

/-! ### Tables -/

theorem cfind_append {α : Type} (a b : Cells α) (k : Nat) : cfind (a ++ b) k = (cfind a k).or (cfind b k) := by
  induction a with
  | nil => rfl
  | cons q a ih =>
    obtain ⟨j, v⟩ := q
    rw [List.cons_append, cfind, cfind, ih]
    split <;> rfl

/-- A table with some keys left out. -/
theorem cfind_filter {α : Type} (q : Nat → Bool) (c : Cells α) (k : Nat) :
    cfind (c.filter fun p => q p.1) k = if q k then cfind c k else none := by
  induction c with
  | nil => simp [cfind]
  | cons e c ih =>
    obtain ⟨j, v⟩ := e
    rw [List.filter_cons]
    by_cases hk : k = j
    · subst hk
      by_cases hq : q k = true
      · rw [if_pos hq, if_pos hq, cfind, cfind, if_pos rfl, if_pos rfl]
      · rw [if_neg hq, if_neg hq, ih, if_neg hq]
    · split
      · rw [cfind, cfind, if_neg hk, if_neg hk, ih]
      · rw [cfind, if_neg hk, ih]

/-- An accumulator that is zeroed, and the other three. -/
theorem cget_setAcc_nil (c : Cells Word) (a k : Nat) : cget 0 (setAcc c a []) k = if k / 4096 = a then 0 else cget 0 c k := by
  unfold cget setAcc
  have hlow : cfind (c.filter fun p => p.1 < 4096 * a) k = if k < 4096 * a then cfind c k else none := by
    rw [cfind_filter (fun j => decide (j < 4096 * a))]
    simp
  have hhigh : cfind (c.filter fun p => 4096 * (a + 1) ≤ p.1) k = if 4096 * (a + 1) ≤ k then cfind c k else none := by
    rw [cfind_filter (fun j => decide (4096 * (a + 1) ≤ j))]
    simp
  rw [cfind_append, cfind_append, hlow, hhigh]
  by_cases hk : k / 4096 = a
  · rw [if_pos hk, if_neg (by omega), if_neg (by omega)]
    rfl
  · rw [if_neg hk]
    rcases (by omega : k < 4096 * a ∨ 4096 * (a + 1) ≤ k) with h | h
    · rw [if_pos h, if_neg (by omega)]
      cases cfind c k <;> rfl
    · rw [if_neg (by omega), if_pos h]
      rfl

/-! ### One executing lane -/

theorem accessOrder_nil (ls : List Nat) : accessOrder [] ls = ls := by
  unfold accessOrder
  simp

section
variable {s : State} {p : Path} {i : Instr} {x : LExt} {f : Path → Nat → State → State × Option NoAccess} {n : Nat}

/-- THE NEXT STATE of an instruction whose lanes act in ascending order, of which one executes and raises nothing. -/
theorem ascending_access {v : State} (h : Runs s p i x) (hexec : p.exec x = [n]) (k : Lane → Lane)
    (hf : ∀ ls, n ∈ ls → f p n (withGroup s p (eachLane (toNext p ls))) =
      (modLane (withGroup v p (eachLane (toNext p ls))) p.iss.blk p.iss.grp n k, none)) :
    ascending i x f p s = .next (memNext (unpoison v p i [n]) p x fun _ => k) := by
  have hn : n ∈ p.exec x := by simp [hexec]
  have hturn (done : List Nat) (hnd : n ∉ done) (hd : ∀ m ∈ done, guardHolds x (p.g.lane m) = false) :
      laneTurn p i x f (withGroup s p (turned p x (fun _ => k) done), []) n =
        (withGroup (unpoison v p i [n]) p (turned p x (fun _ => k) (done ++ [n])), []) := by
    rw [laneTurn_runs h hn ((congrArg (fun G => f p n (withGroup s p G)) (turned_idle p x (fun _ => k) hnd hd)).trans
      (hf _ (by simp))), modLane_toNext v p x (fun _ => k) hnd hd (List.mem_filter.1 hn).2]
    rfl
  have hfold := foldl_one hexec (fun _ => k) [] hturn []
  rw [accessOrder_nil] at hfold
  unfold ascending
  rw [hfold, endTurns_nil]

/-- R280: an `mfrag` that the idle engine serves has its effect. -/
theorem mfrag_runs {e : Path → State → Out} (hp : pathOf s = some p) (hexec : p.exec x ≠ [])
    (hserves : engineServes s p.b p.iss.grp = true) (hops : (coreOf s p.b.core).ops = []) : mfrag i x e s = e p s := by
  unfold mfrag
  rw [hp]
  simp [hexec, hserves, hops]

end

/-! ### The element -/

theorem fragIndex_eq (c : Word) {n : Nat} (hn : n < 32) (acc : BitVec 2) :
    elemOf acc c n = 4096 * acc.toNat + fragIndex (c.toNat % 128) n ∧ fragIndex (c.toNat % 128) n < 4096 := by
  have hc : (c.extractLsb' 0 7).toNat = c.toNat % 128 := by simp
  refine ⟨?_, ?_⟩
  · unfold elemOf fragIndex
    dsimp only
    rw [hc]
    omega
  · unfold fragIndex
    omega

section
variable {s : State} {p : Path} {x : LExt} {d b : BitVec 7} {acc : BitVec 2} {n : Nat}

theorem mfragRd_one (hserves : engineServes s p.b p.iss.grp = true) (hops : (coreOf s p.b.core).ops = [])
    (h : Runs s p (.mfragRd d acc b x) x) (hexec : p.exec x = [n]) (hn : n < 32)
    (hclean : isPoisoned s (.acc p.iss.blk acc.toNat (elemOf acc (src32 p.g (p.g.lane n) b) n % 4096)) = false) :
    exec (.mfragRd d acc b x) s = .next (cleaned (memNext s p x fun _ l =>
      l.dst32 d (cget 0 (coreOf s p.b.core).acc (elemOf acc (src32 p.g (p.g.lane n) b) n))) p (.mfragRd d acc b x) n) := by
  obtain ⟨helem, hlt⟩ := fragIndex_eq (src32 p.g (p.g.lane n) b) hn acc
  show execMfragRd d acc b x s = _
  unfold execMfragRd
  rw [mfrag_runs h.path (by simp [hexec]) hserves hops, ← memNext_cleaned s p x (.mfragRd d acc b x) n, ← unpoison_one]
  refine ascending_access h hexec _ fun ls _ => ?_
  rw [helem, Nat.mul_add_mod, Nat.mod_eq_of_lt hlt] at hclean
  rw [helem]
  exact if_neg (Bool.eq_false_iff.1 hclean)

/-- The state once the lane's element is written. -/
def elementWritten (s : State) (p : Path) (acc : BitVec 2) (k : Nat) (v : Word) : State :=
  coverPoison (modCore s p.b.core fun c => { c with acc := cput 0 c.acc (4096 * acc.toNat + k) v }) (.acc p.iss.blk acc.toNat k) 0 4

theorem mfragWr_one (hserves : engineServes s p.b p.iss.grp = true) (hops : (coreOf s p.b.core).ops = [])
    (h : Runs s p (.mfragWr d acc b x) x) (hexec : p.exec x = [n]) :
    exec (.mfragWr d acc b x) s = .next (memNext (unpoison (elementWritten s p acc
      (fragIndex ((src32 p.g (p.g.lane n) b).toNat % 128) n) (src32 p.g (p.g.lane n) d)) p (.mfragWr d acc b x) [n]) p x fun _ l => l) := by
  show execMfragWr d acc b x s = _
  unfold execMfragWr
  rw [mfrag_runs h.path (by simp [hexec]) hserves hops]
  refine ascending_access h hexec (fun l => l) fun ls _ => ?_
  rw [modLane_self]
  rfl

theorem mfragZero_some (hserves : engineServes s p.b p.iss.grp = true) (hops : (coreOf s p.b.core).ops = [])
    (hp : pathOf s = some p) (hexec : p.exec x ≠ []) : exec (.mfragZero acc x) s = .next (atNext (clearAcc (modCore s p.b.core fun c =>
      { c with acc := setAcc c.acc acc.toNat [] }) p.iss.blk acc.toNat) p) := by
  show execMfragZero acc x s = _
  unfold execMfragZero
  rw [mfrag_runs hp hexec hserves hops]
  exact congrArg Host.Outcome.next (pathTo_eq _ p p.iss.next)

end

/-- The lane of a path at NEXT once it has had its turn. -/
theorem lane_memNext {p : Path} {g : Group} (x : LExt) {n : Nat} (hlive : (g.lane n).live = true) (hn : n ∈ p.lanes) :
    ((withLanes p (fun m l => if guardHolds x (p.g.lane m) then goTo l p.iss.next else goTo l p.iss.next) g).lane n) =
      goTo (g.lane n) p.iss.next := by
  rw [lane_withLanes _ _ _ (lt_of_live ((mem_live_iff g n).2 ⟨lt_of_mem_lanes hn, hlive⟩)), if_pos hn]
  exact ite_self _

theorem regs_sentOn (p : Path) (g : Group) (n : Nat) : ((withLanes p (fun _ => sentOn p) g).lane n).regs = (g.lane n).regs := by
  by_cases hn : n < g.lanes.length
  · rw [lane_withLanes _ _ _ hn]
    unfold sentOn
    split_ifs <;> rfl
  · rw [lane_out hn, lane_out]
    simpa [withLanes] using hn

/-- Settles O35: the one lane's element is read or written; zeroing leaves out just the elements of its accumulator. -/
theorem fragmentResults : Obligations.FragmentResults := by
  intro d b acc x s p hserves hops
  refine ⟨fun n h hexec hn hclean => mfragRd_one hserves hops h hexec hn hclean, fun n h hexec hn _ => ?_, fun hp hexec => ?_⟩
  · obtain ⟨g, hg⟩ := pathGroup_of_pathOf h.path
    have hlane : n ∈ p.lanes := List.mem_of_mem_filter (show n ∈ p.exec x by simp [hexec])
    have hnext := lane_memNext x (hg.livePath n hlane) hlane
    refine ⟨_, _, mfragWr_one hserves hops h hexec, groupOf_withGroup (s := s) hg _, fun k => ?_, ?_, ?_⟩
    · rw [(fragIndex_eq (src32 p.g (p.g.lane n) b) hn acc).1]
      show cget 0 (coreOf (modCore s p.b.core fun c => { c with acc := _ }) p.b.core).acc k = _
      rw [coreOf_modCore]
      exact cget_cput _ _ _ _ _
    · exact (congrArg Lane.npc hnext).trans rfl
    · refine (congrArg Lane.regs hnext).trans ?_
      rw [hg.lane_eq]
      rfl
  · obtain ⟨g, hg⟩ := pathGroup_of_pathOf hp
    have hcore : ∀ k, cget 0 (coreOf (atNext (clearAcc (modCore s p.b.core fun c =>
        { c with acc := setAcc c.acc acc.toNat [] }) p.iss.blk acc.toNat) p) p.b.core).acc k =
          if k / 4096 = acc.toNat then 0 else cget 0 (coreOf s p.b.core).acc k := fun k => by
      show cget 0 (coreOf (modCore s p.b.core fun c => { c with acc := setAcc c.acc acc.toNat [] }) p.b.core).acc k = _
      rw [coreOf_modCore]
      exact cget_setAcc_nil _ _ _
    refine ⟨_, _, mfragZero_some hserves hops hp hexec, groupOf_atNext (t := clearAcc (modCore s p.b.core fun c =>
        { c with acc := setAcc c.acc acc.toNat [] }) p.iss.blk acc.toNat) hg.groupOf_eq, fun k hk => ?_, fun _ k hk => ?_,
      npc_sentOn hg.livePath, fun n => ?_⟩
    · rw [hcore, if_pos hk]
    · rw [hcore, if_neg hk]
    · rw [regs_sentOn, hg.lane_eq]

end Sys2Proof.Proofs
end
section
/-! REFUTATION of O39 (R78, R25, R410): a `task.phase` that ends its block has the engine perform what the block has left there; where a
drain of it comes to a foreign place, the running context is killed, and the record that the phase has just made goes with it. -/

namespace Sys2Proof.Proofs

open Sys2Proof Sys2Proof.Machine Sys2Proof.Claims Sys2Proof.Tests

/-- A drain to address 0 of the block's context. -/
def foreignDrain : Cmd :=
  { id := 4, part := 0, ctx := 0, blk := 1, grp := 0, core := 0, trc := 0, level1 := false, major := 0, pc := 0, key := .blk 1 0
    kind := .mdrain (.global 0) 0 256 false, total := 16 }

/-- A translation of address 0 to DRAM behind the last channel, which no partition has. -/
def foreignPage : TlbEntry :=
  { unit := .core 0, part := 0, ctx := 0, trc := 0, va := 0, size := 4096, pa := 6 * 2 ^ 30, leaf := 12 }

/-- The machine of a block that holds the engine, with that drain accepted. -/
def drainingS : State :=
  { taskS (maker 0 .node) with
    cores := [(0, { split := some (24, 8), holder := some 1, ops := [.mdrain 1 0 4 0] })]
    cmds := [foreignDrain]
    tlb := [foreignPage] }

theorem quiet_draining : Quiet drainingS (uP (maker 0 .node)) {} := ⟨⟨rfl, rfl⟩, by decide, rfl, rfl⟩

/-- The records that an outcome leaves. -/
def recsLeft (o : Out) : Option (List TaskRec) :=
  match o with
  | .next t => some t.recs
  | _ => none

theorem phase_draining : recsLeft (exec (.taskPhase 0 {}) drainingS) = some [] := by decide +kernel

theorem taken_draining : taskTrap drainingS (uP (maker 0 .node)) false 0
    (taskDesc (scratchBytes drainingS (uP (maker 0 .node)) 0 32)) = none := by decide +kernel

/-- Refutes O39: the phase leaves no record. -/
theorem not_taskResults : ¬ Obligations.TaskResults := by
  rintro ⟨-, hphase, -⟩
  obtain ⟨t, r, hexec, hr, -⟩ := hphase 0 {} drainingS (uP (maker 0 .node)) quiet_draining (by decide) rfl (by decide) (by decide)
    (by decide) (by decide) taken_draining
  have hleft := phase_draining
  rw [hexec] at hleft
  have hnil : t.recs = [] := Option.some_inj.1 hleft
  rw [hnil] at hr
  exact absurd hr List.not_mem_nil

end Sys2Proof.Proofs
end
section
/-! PROOF of O37 (R283 to R287): a copy or a gather whose checks pass hands its command to the copy engine. -/

namespace Sys2Proof.Proofs

open Sys2Proof Sys2Proof.Machine Sys2Proof.Claims Sys2Proof.Laws

/-! ### Checks that pass -/

theorem check_passes {α : Type} {c : Bool} (h : c = false) (t : Trap) (k : Except Trap α) : check c t k = k := by
  subst h
  rfl

theorem checkFor_passes {α : Type} {o : Option Trap} (h : o = none) (k : Except Trap α) : checkFor o k = k := by
  subst h
  rfl

theorem command_done {s t : State} {p : Path} {x : UExt} (h : URuns s p x) {f : Path → State → Except Trap State} (hf : f p s = .ok t) :
    command x f s = .next (atNext t p) := by
  unfold command
  refine uniform_done h ?_
  rw [hf]

/-! ### Addresses -/

/-- Whether an address register names a run of bytes does not depend on whether it is a source or a destination. -/
theorem engAddr_ok {s : State} {p : Path} {w : Bool} {code n : Nat} {v : DWord} {d : EngAddr} (h : engAddr s p w code v n = .ok d)
    (w' : Bool) : ∃ d', engAddr s p w' code v n = .ok d' := by
  match code with
  | 0 | 1 | 2 | 3 => exact ⟨d, h⟩
  | k + 4 =>
    unfold engAddr at h ⊢
    dsimp only at h ⊢
    cases ht : tileOf s p.b.part p.b.ctx (v.setWidth 32) with
    | none =>
      rw [ht] at h
      cases h
    | some t =>
      rw [ht] at h
      by_cases hin : addrValue (k + 4) v + max n 1 ≤ t.size
      · exact ⟨_, if_pos hin⟩
      · dsimp only at h
        rw [if_neg hin] at h
        cases h

theorem engOut_none {s : State} {p : Path} {w : Bool} {code n : Nat} {v : DWord} {d : EngAddr} (h : engAddr s p w code v n = .ok d) :
    engOut s p code v n = none := by
  obtain ⟨d', hd'⟩ := engAddr_ok h true
  unfold engOut
  rw [hd']

/-! ### Handing over -/

/-- R271, R282: what a `cpy` or a `gather` leaves. -/
theorem issueCopy_eq (s : State) (p : Path) (major : Nat) (key : SlotKey) (kind : CmdKind) (total : Nat) :
    issueCopy s p major key kind total = handed s p major key kind total true false := rfl

/-- A field of a register word is 0. -/
theorem bits_zero {v : DWord} {lo n : Nat} (h : v.extractLsb' lo n = 0) : bits v.toNat lo n = 0 := by
  rw [bits_toNat, h]
  rfl

section
variable {s : State} {p : Path} {x : UExt} {d f : EngAddr}

theorem issueLin_ok {dst ctl src : DWord} {dsp ssp len : Nat} (hdsp : bits ctl.toNat 0 3 = dsp) (hssp : bits ctl.toNat 3 3 = ssp)
    (hlen : bits ctl.toNat 8 24 = len) (hd4 : dsp ≤ 4) (hs4 : ssp ≤ 4) (h6 : ctl.extractLsb' 6 2 = 0) (h32 : ctl.extractLsb' 32 32 = 0)
    (hdst : addrValue dsp dst % 16 = 0) (hsrc : addrValue ssp src % 16 = 0) (h16 : len % 16 = 0) (h0 : len ≠ 0) (key : SlotKey)
    (hd : engAddr s p true dsp dst len = .ok d) (hf : engAddr s p false ssp src len = .ok f) :
    issueLin dst ctl src key p s = .ok (handed s p 0x0C key (.rect d f len 1 0 0) len true false) := by
  unfold issueLin
  dsimp only
  rw [hdsp, hssp, hlen, bits_zero h6, bits_zero h32, check_passes (by simp; omega), check_passes (by simp [hdst]),
    check_passes (by simp [hsrc]), check_passes (by simp [h16]), checkFor_passes (engOut_none hd), checkFor_passes (engOut_none hf),
    check_passes (by simp [h0]), hd, hf]
  rfl

theorem issueRect_ok {dst ctl src pitches : DWord} {dsp ssp len rows sp dp : Nat} (hdsp : bits ctl.toNat 0 3 = dsp)
    (hssp : bits ctl.toNat 3 3 = ssp) (hlen : bits ctl.toNat 8 24 = len) (hrows : bits ctl.toNat 32 16 = rows)
    (hsp : bits pitches.toNat 0 32 = sp) (hdp : bits pitches.toNat 32 32 = dp) (hd4 : dsp ≤ 4) (hs4 : ssp ≤ 4)
    (h6 : ctl.extractLsb' 6 2 = 0) (h48 : ctl.extractLsb' 48 16 = 0) (hdst : addrValue dsp dst % 16 = 0)
    (hsrc : addrValue ssp src % 16 = 0) (h16 : len % 16 = 0) (hsp16 : sp % 16 = 0) (hdp16 : dp % 16 = 0) (h0 : len ≠ 0)
    (hrows0 : rows ≠ 0) (key : SlotKey) (hd : engAddr s p true dsp dst (rectSpan len rows dp) = .ok d)
    (hf : engAddr s p false ssp src (rectSpan len rows sp) = .ok f) :
    issueRect dst ctl src pitches key p s = .ok (handed s p 0x0C key (.rect d f len rows sp dp) (len * rows) true false) := by
  unfold issueRect
  dsimp only
  rw [hdsp, hssp, hlen, hrows, hsp, hdp, bits_zero h6, bits_zero h48, check_passes (by simp; omega), check_passes (by simp [hdst]),
    check_passes (by simp [hsrc]), check_passes (by simp [h16]), check_passes (by simp [hsp16]), check_passes (by simp [hdp16]),
    checkFor_passes (engOut_none hd), checkFor_passes (engOut_none hf), check_passes (by simp [h0, hrows0]), hd, hf]
  rfl

theorem issueTens_ok {dst ctl v : DWord} {dsp off : Nat} {bs : List Byte} {t : Tensor} (hdsp : bits ctl.toNat 0 3 = dsp)
    (hoff : v.toNat / 2 ^ 32 = off) (ht : tensorOf bs (scratchBytes s p off 48) = t) (hd4 : dsp ≤ 4) (h3 : bits ctl.toNat 3 3 = 0)
    (h6 : bits ctl.toNat 6 42 = 0) (h49 : ctl.extractLsb' 49 15 = 0) (hdst : addrValue dsp dst % 16 = 0) (h16 : off % 16 = 0)
    (hin : off + 48 ≤ p.b.scrBytes) (hclean : scratchPoisoned s p off 48 = false)
    (hobj : objOf s p.b.part p.b.ctx (v.setWidth 32) = some (.shape bs)) (hgood : tensorBad (fieldAt bs 8 1) t = false)
    (hrow : t.extent.getD 0 1 * 2 ^ t.esz % 16 = 0) (hbase : t.base.toNat % 16 = 0) (key : SlotKey)
    (hd : engAddr s p (!ctl.getLsbD 48) dsp dst t.bytes = .ok d) :
    issueTens dst ctl v key p s = .ok (handed s p 0x0C key (.tens d t (ctl.getLsbD 48)) t.bytes true false) := by
  subst ht
  unfold issueTens
  dsimp only
  rw [hdsp, hoff, hobj]
  dsimp only [Option.getD_some, Option.isSome_some]
  rw [h3, h6, bits_zero h49, check_passes (by simp; omega), check_passes (by simp [hdst]), check_passes (by simp [h16]),
    checkFor_passes (by simpa [hin] using engOut_none hd), check_passes (by simp), check_passes (by simp [hin]), check_passes hgood,
    check_passes (decide_eq_false (not_not.2 hrow)), check_passes (by simp [hbase]), hd]
  dsimp only
  rw [check_passes hclean]
  rfl

theorem issueGather_ok {wide : Bool} {dst ctl base v : DWord} {dsp len rows idx pitch w : Nat} (hdsp : bits ctl.toNat 0 3 = dsp)
    (hlen : bits ctl.toNat 8 24 = len) (hrows : bits ctl.toNat 32 16 = rows) (hidx : v.toNat % 2 ^ 32 = idx)
    (hpitch : v.toNat / 2 ^ 32 = pitch) (hw : (if wide then 8 else 4) = w) (hd4 : dsp ≤ 4) (h3 : ctl.extractLsb' 3 3 = 0)
    (h6 : ctl.extractLsb' 6 2 = 0) (h48 : ctl.extractLsb' 48 16 = 0) (hdst : addrValue dsp dst % 16 = 0) (hbase : base.toNat % 16 = 0)
    (h16 : len % 16 = 0) (h0 : len ≠ 0) (hrows0 : rows ≠ 0) (hpitch16 : pitch % 16 = 0) (hin : idx + rows * w ≤ p.b.scrBytes)
    (halign : idx % w = 0) (key : SlotKey) (hd : engAddr s p true dsp dst (rows * len) = .ok d) :
    issueGather wide dst ctl base v key p s =
      .ok (handed s p 0x0D key (.gather d base len pitch p.iss.blk idx wide) (rows * len) true false) := by
  have hw1 : 1 ≤ rows * w := Nat.mul_pos (Nat.pos_of_ne_zero hrows0) (by subst hw; split <;> decide)
  unfold issueGather
  dsimp only
  rw [hdsp, hlen, hrows, hidx, hpitch, hw, bits_zero h3, bits_zero h6, bits_zero h48, check_passes (by simp; omega),
    check_passes (by simp [hdst]), check_passes (by simp [hbase]), check_passes (by simp [h16]), check_passes (by simp [hpitch16]),
    checkFor_passes (engOut_none hd), check_passes (by simp [h0, hrows0]), check_passes (by simp),
    check_passes (by rw [Nat.max_eq_left hw1]; simpa using hin), check_passes (by simp [halign]), hd]
  rfl

end

/-! ### The instructions -/

theorem copyResults : CopyResults := by
  intro desc addr slot level x s p d f h
  dsimp only
  intro hd4 hs4 h6 hdst hsrc h16 h0
  refine ⟨fun h32 hd hf => ?_, fun h48 hrows hsp hdp hd hf => ?_⟩
  · show execCpyLin desc addr slot level x s = _
    exact command_done h (issueLin_ok (bits_toNat _ _ _) (bits_toNat _ _ _) (bits_toNat _ _ _) hd4 hs4 h6 h32 hdst hsrc h16 h0 _ hd hf)
  · show execCpyRect desc addr slot level x s = _
    exact command_done h (issueRect_ok (bits_toNat _ _ _) (bits_toNat _ _ _) (bits_toNat _ _ _) (bits_toNat _ _ _) (bits_toNat _ _ _)
      (bits_toNat _ _ _) hd4 hs4 h6 h48 hdst hsrc h16 hsp hdp h0 hrows _ hd hf)

/-- The high half of a register word. -/
theorem high_half (v : DWord) : v.toNat / 2 ^ 32 = (v.extractLsb' 32 32).toNat := by
  rw [← bits_toNat, bits]
  have := v.isLt
  omega

theorem low_half (v : DWord) : v.toNat % 2 ^ 32 = (v.extractLsb' 0 32).toNat := by
  rw [← bits_toNat, bits, Nat.pow_zero, Nat.div_one]

theorem gatherResults : GatherResults := by
  intro desc addr slot level x s p d h
  dsimp only
  intro hd4 h3 h6 hdst
  refine ⟨fun bs h8 h49 h16 hin hclean hobj hgood hrow hbase hd => ?_, fun e he h48 hbase h16 h0 hrows hpitch hin halign hd => ?_⟩
  · have hctl : bits (p.g.usrc (desc.toNat + 1)).toNat 6 42 = 0 := by
      have e6 := bits_zero h6
      have e8 := bits_zero h8
      unfold bits at *
      omega
    show execCpyTens desc addr slot level x s = _
    exact command_done h (issueTens_ok (bits_toNat _ _ _) (high_half _) rfl hd4 (bits_zero h3) hctl h49 hdst h16 hin hclean hobj hgood
      hrow hbase _ hd)
  · have hexec : exec (e.1 desc addr slot level x) s = command x (fun p s => issueGather e.2 (p.g.usrc desc.toNat)
        (p.g.usrc (desc.toNat + 1)) (p.g.usrc addr.toNat) (p.g.usrc (addr.toNat + 1)) (slotKey p level slot) p s) s := by
      simp only [List.mem_cons, List.not_mem_nil, or_false] at he
      obtain rfl | rfl := he <;> rfl
    rw [hexec]
    exact command_done h (issueGather_ok (bits_toNat _ _ _) (bits_toNat _ _ _) (bits_toNat _ _ _) (low_half _) (high_half _) rfl hd4 h3
      h6 h48 hdst hbase h16 h0 hrows hpitch hin halign _ hd)

/-- Settles O37: each check of Table 22-6 passes, and the command is handed over. -/
theorem copyAndGatherResults : Obligations.CopyAndGatherResults := ⟨copyResults, gatherResults⟩

end Sys2Proof.Proofs
end
section
/-! PROOF of O38 (R283, R284, R288, R289): a drain that the engine serves and a collective, whose checks pass, hand over their commands. -/

namespace Sys2Proof.Proofs

open Sys2Proof Sys2Proof.Machine Sys2Proof.Claims Sys2Proof.Laws

/-! ### Drains -/

section
variable {s : State} {p : Path} {d : EngAddr}

/-- R127: the destination that a drain's checks have found is the one that it names when it issues again. -/
theorem drainDst_ok {dsp n : Nat} {dst : DWord} (h : engAddr s p true dsp dst n = .ok d) (again : Bool) :
    drainDst again s p dsp dst n = .ok d := by
  unfold drainDst
  split
  · next hagain =>
    obtain ⟨-, rfl⟩ : again = true ∧ dsp = 4 := by simpa using hagain
    unfold engAddr at h
    dsimp only at h
    cases ht : tileOf s p.b.part p.b.ctx (dst.setWidth 32) with
    | none =>
      rw [ht] at h
      cases h
    | some t =>
      rw [ht] at h
      change (if addrValue 4 dst + max n 1 ≤ t.size then Except.ok (EngAddr.tile (dst.setWidth 32) (addrValue 4 dst)) else .error _) = _ at h
      split at h
      · exact h
      · cases h
  · exact h

/-- The bytes of a row of a drained tile. -/
theorem row_bytes (fmt : Nat) : 64 * drainBytes fmt = if fmt = 0 then 256 else 128 := by
  unfold drainBytes
  split <;> rfl

theorem drainArgs_ok {add : Bool} {dst ctl : DWord} {dsp fmt pitch row : Nat} (hdsp : bits ctl.toNat 0 3 = dsp)
    (hfmt : bits ctl.toNat 6 2 = fmt) (hpitch : bits ctl.toNat 8 24 = pitch) (hrow : (if fmt = 0 then 256 else 128) = row) (hd4 : dsp ≤ 4)
    (h3 : ctl.extractLsb' 3 3 = 0) (h32 : ctl.extractLsb' 32 32 = 0) (hdst : addrValue dsp dst % 16 = 0) (hpitch16 : pitch % 16 = 0)
    (hwide : row ≤ pitch) (hd : engAddr s p true dsp dst (63 * pitch + row) = .ok d) (hf : fmt < if add then 1 else 3) (again : Bool) :
    drainArgs again add dst ctl p s = .ok (d, fmt, pitch) := by
  have hspan : rectSpan (64 * drainBytes fmt) 64 pitch = 63 * pitch + row := by rw [row_bytes, hrow, rectSpan]
  have hfmt3 : (decide (fmt = 3) || (add && decide (fmt ≠ 0))) = false := by
    cases add
    · simp only [Bool.false_eq_true, if_false] at hf
      simp only [Bool.false_and, Bool.or_false, decide_eq_false_iff_not]
      omega
    · simp only [if_true] at hf
      obtain rfl : fmt = 0 := by omega
      rfl
  unfold drainArgs
  dsimp only
  rw [hdsp, hfmt, hpitch, bits_zero h3, bits_zero h32, hspan, check_passes (by simp; omega), check_passes (by simp [hdst]),
    check_passes (by simp [hpitch16]), checkFor_passes (by rw [engOut_none hd, ite_self]), check_passes hfmt3,
    check_passes (by rw [row_bytes, hrow]; simpa using hwide), drainDst_ok hd]

end

/-- R282: an accepted drain: the command handed over, and its operation at the end of the engine's queue. -/
theorem drain_accepted {s : State} {p : Path} {x : UExt} {desc : BitVec 6} {d : EngAddr} {fmt pitch : Nat} {add : Bool} (h : URuns s p x)
    (hserves : engineServes s p.b p.iss.grp = true)
    (hargs : drainArgs p.again add (p.g.usrc desc.toNat) (p.g.usrc (desc.toNat + 1)) p s = .ok (d, fmt, pitch)) (acc : BitVec 2)
    (slot : BitVec 4) (level : BitVec 2) :
    ((coreOf s p.b.core).ops.length ≤ 2 → mdrain add x desc acc slot level s = .next (atNext (modCore
      (handed s p 0x0F (slotKey p level slot) (.mdrain d fmt pitch add) (4096 * drainBytes fmt) false true) p.b.core fun c =>
        { c with ops := c.ops ++ [.mdrain p.iss.blk acc.toNat s.fresh p.iss.word] }) p)) ∧
    (2 < (coreOf s p.b.core).ops.length → mdrain add x desc acc slot level s = .next (held s p (.retry .lease))) := by
  have hnot : (!engineServes s p.b p.iss.grp) = false := by rw [hserves]; rfl
  constructor
  · intro hroom
    have hfull : (!engineRoom s p.b.core) = false := by unfold engineRoom; simpa using hroom
    refine uniform_done h ?_
    rw [hargs]
    dsimp only
    rw [hnot, hfull]
    rfl
  · intro hfull
    have hroom : (!engineRoom s p.b.core) = true := by unfold engineRoom; simpa using hfull
    refine uniform_stay h ?_
    rw [hargs]
    dsimp only
    rw [hnot, hroom, ← pathHold_eq]
    rfl

theorem drainResults : DrainResults := by
  intro desc acc slot level x s p d h hserves
  dsimp only
  intro hd4 h3 h32 hdst hpitch hwide hd e he hf
  have hexec : exec (e.1 desc acc slot level x) s = mdrain e.2 x desc acc slot level s := by
    simp only [List.mem_cons, List.not_mem_nil, or_false] at he
    obtain rfl | rfl := he <;> rfl
  have hargs := drainArgs_ok (bits_toNat _ _ _) (bits_toNat _ _ _) (bits_toNat _ _ _) rfl hd4 h3 h32 hdst hpitch hwide hd hf p.again
  have hbytes (k : Nat) : 64 * (if k = 0 then 256 else 128) = 4096 * drainBytes k := by
    rw [← row_bytes]
    omega
  rw [hexec, hbytes]
  exact drain_accepted h hserves hargs acc slot level

/-! ### Collectives -/

section
variable {s : State} {p : Path} {x : UExt} {desc : BitVec 6} {off : Nat} {bs : List Byte} {c : Coll}

/-- A descriptor that the rows of Table 22-6 let pass, whatever its function; its fields are those of Table 13-3. -/
structure GoodColl (s : State) (p : Path) (off : Nat) (bs : List Byte) (c : Coll) : Prop where
  bytes : scratchBytes s p off 32 = bs
  aligned : off % 16 = 0
  inside : off + 32 ≤ p.b.scrBytes
  clean : scratchPoisoned s p off 32 = false
  src : fieldAt bs 8 8 % 16 = 0
  dst : fieldAt bs 0x10 8 % 16 = 0
  unit : fieldAt bs 0 1 ≤ 31 ∧ fieldAt bs 0 1 ∈ (partOf s p.b.part).desc.eng
  table : cfind s.colls (fieldAt bs 0 1) = some c

/-- R282: a command that joins no list of its group. -/
theorem newCmd_unlisted (s : State) (p : Path) (major : Nat) (key : SlotKey) (kind : CmdKind) (total : Nat) :
    (newCmd s p major key kind total none none).1 = handed s p major key kind total false false :=
  (congrArg (fun t : State => ({ t with fresh := s.fresh + 1, cmds := (newCmd s p major key kind total none none).1.cmds } : State))
    (withGroup_self s p)).symm

theorem coll_handed (h : URuns s p x) (hoff : (p.g.usrc desc.toNat).toNat % 2 ^ 32 = off) (hg : GoodColl s p off bs c) {fn : Nat}
    (hbad : collBad fn (fieldAt bs 1 1) (fieldAt bs 2 2) (fieldAt bs 0x18 4) (fieldAt bs 0x1C 4) (some c) = false) (slot : BitVec 4)
    (level : BitVec 2) {n : Nat} (hn : collBytes fn (fieldAt bs 0x18 4) (fieldAt bs 0x1C 4) c.members = n) :
    coll fn x desc slot level s = .next (atNext (handed s p 0x0E (slotKey p level slot)
      (.coll fn (fieldAt bs 0 1) (fieldAt bs 1 1) (fieldAt bs 2 2) (BitVec.ofNat 64 (fieldAt bs 8 8)) (BitVec.ofNat 64 (fieldAt bs 0x10 8))
        (fieldAt bs 0x18 4) (fieldAt bs 0x1C 4)) n false false) p) := by
  obtain ⟨hlow, howned⟩ := hg.unit
  have hunit : (decide (31 < fieldAt bs 0 1) || !((partOf s p.b.part).desc.eng.contains (fieldAt bs 0 1))) = false := by
    simp [howned, hlow]
  subst hn
  refine command_done h ?_
  unfold issueColl collTable
  dsimp only
  rw [hoff, hg.bytes, hg.table, check_passes (by simp [hg.aligned]), check_passes (by simpa using hg.inside), check_passes (by simp [hg.src]),
    check_passes (by simp [hg.dst]), check_passes hunit, check_passes hbad, check_passes hg.clean]
  exact congrArg Except.ok (newCmd_unlisted s p 0x0E (slotKey p level slot) _ _)

end

theorem collBad_folds {fn op root count dcount : Nat} {c : Coll} (hfn : fn = 0 ∨ fn = 1 ∨ fn = 4) (hop : op ≤ 9) (h0 : count ≠ 0)
    (h16 : count % 16 = 0) (hsparse : fn = 4 → op ≠ 1 ∧ dcount ≠ 0) (hparts : fn = 1 → count % (16 * c.members) = 0) :
    collBad fn op root count dcount (some c) = false := by
  unfold collBad
  have h8 : count % 8 = 0 := by omega
  rcases hfn with rfl | rfl | rfl
  · simp [h0, h16, hop]
  · simp [h0, h16, hop, hparts rfl]
  · simp [h0, h16, hop, h8, hsparse rfl]

theorem collBad_moves {fn root count dcount : Nat} {c : Coll} (hfn : fn = 2 ∨ fn = 3 ∨ fn = 5) (h0 : count ≠ 0) (h16 : count % 16 = 0)
    (hroot : fn = 3 → root < c.members) (hparts : fn = 5 → count % (16 * c.members) = 0) :
    collBad fn 0xFF root count dcount (some c) = false := by
  unfold collBad
  rcases hfn with rfl | rfl | rfl
  · simp [h0, h16]
  · simp [h0, h16, hroot rfl]
  · simp [h0, h16, hparts rfl]

theorem collectiveResults : CollectiveResults := by
  intro desc slot level x s p c h
  dsimp only
  intro h16 hin hclean hsrc hdst hunit howned htable hc0 hc16
  have hg : GoodColl s p _ _ c := ⟨rfl, h16, hin, hclean, hsrc, hdst, ⟨hunit, howned⟩, htable⟩
  have handed {fn n : Nat} hbad hn := coll_handed (fn := fn) (n := n) h (low_half _) hg hbad slot level hn
  refine ⟨fun hop => ⟨?_, fun hparts => ?_, fun hop1 hd => ?_⟩, fun hop => ⟨?_, fun hroot => ?_, fun hparts => ?_⟩⟩
  · exact handed (collBad_folds (.inl rfl) hop hc0 hc16 (by simp) (by simp)) rfl
  · exact handed (collBad_folds (.inr (.inl rfl)) hop hc0 hc16 (by simp) fun _ => hparts) rfl
  · exact handed (collBad_folds (.inr (.inr rfl)) hop hc0 hc16 (fun _ => ⟨hop1, hd⟩) (by simp)) rfl
  · exact handed (by rw [fieldAt, hop]; exact collBad_moves (.inl rfl) hc0 hc16 (by simp) (by simp)) rfl
  · exact handed (by rw [fieldAt, hop]; exact collBad_moves (.inr (.inl rfl)) hc0 hc16 (fun _ => hroot) (by simp)) rfl
  · exact handed (by rw [fieldAt, hop]; exact collBad_moves (.inr (.inr rfl)) hc0 hc16 (by simp) fun _ => hparts) rfl

/-- Settles O38: the checks pass and the command is handed over, a drain's with its operation. -/
theorem drainAndCollectiveResults : Obligations.DrainAndCollectiveResults := ⟨drainResults, collectiveResults⟩

end Sys2Proof.Proofs
end
section
/-! PROOF of O45 (R98, R99, R102, R294): the batch-forming queue binds, takes rows and begins its release. -/

namespace Sys2Proof.Proofs

open Sys2Proof Sys2Proof.Machine Sys2Proof.Claims Sys2Proof.Laws

/-! ### Staging tiles -/

theorem allocHandle_keeps (s : State) (p c : Nat) (o : Obj) :
    (allocHandle s p c o).1.blocks = s.blocks ∧ (allocHandle s p c o).1.bfqs = s.bfqs := by
  unfold allocHandle
  dsimp only
  split
  · exact ⟨rfl, rfl⟩
  · exact ⟨by simp, by simp⟩

theorem takeStaging_keeps (s : State) (p c : Nat) (ts : List (Nat × Nat)) :
    (takeStaging s p c ts).1.blocks = s.blocks ∧ (takeStaging s p c ts).1.bfqs = s.bfqs := by
  induction ts generalizing s with
  | nil => exact ⟨rfl, rfl⟩
  | cons t ts ih =>
    obtain ⟨hblocks, hbfqs⟩ := allocHandle_keeps s p c (.tile .dsp t.1 t.2 true)
    obtain ⟨hblocks', hbfqs'⟩ := ih (allocHandle s p c (.tile .dsp t.1 t.2 true)).1
    exact ⟨hblocks'.trans hblocks, hbfqs'.trans hbfqs⟩

theorem bfqs_setFulls (s : State) (sp : FeSpace) (ks : List Nat) (v : Bool) : (setFulls s sp ks v).bfqs = s.bfqs := by
  unfold setFulls modFull
  cases sp
  · dsimp only
    split <;> rfl
  · dsimp only
    split <;> rfl
  · rfl

theorem setStaging_keeps (s : State) (q : Bfq) (h : Word) (v : Bool) :
    (setStaging s q h v).bfqs = s.bfqs ∧ ∀ blk grp, groupOf (setStaging s q h v) blk grp = groupOf s blk grp := by
  unfold setStaging
  split
  · exact ⟨bfqs_setFulls _ _ _ _, groupOf_setFulls _ _ _ _⟩
  · exact ⟨rfl, fun _ _ => rfl⟩

theorem setStagings_keep (s : State) (q : Bfq) (hs : List Word) (v : Bool) :
    (hs.foldl (fun s h => setStaging s q h v) s).bfqs = s.bfqs ∧
      ∀ blk grp, groupOf (hs.foldl (fun s h => setStaging s q h v) s) blk grp = groupOf s blk grp := by
  induction hs generalizing s with
  | nil => exact ⟨rfl, fun _ _ => rfl⟩
  | cons h hs ih =>
    obtain ⟨hbfqs, hgroup⟩ := setStaging_keeps s q h v
    obtain ⟨hbfqs', hgroup'⟩ := ih (setStaging s q h v)
    exact ⟨hbfqs'.trans hbfqs, fun blk grp => (hgroup' blk grp).trans (hgroup blk grp)⟩

/-! ### Binding -/

section
variable {s : State} {p : Path} {x : UExt} {u : Nat}

/-- The binding that `bfq.bind` makes, its tiles' handles as they are given. -/
def boundAs (p : Path) (weight : Word) (entry ra rb : Nat) (h : Nat → Word) : Bfq :=
  { part := p.b.part, ctx := p.b.ctx, launch := p.b.launch, node := p.b.node, ver := p.b.ver, core := p.b.core,
    prio := p.b.prio, weight := weight, entry := entry, ra := ra, rb := rb, gathering := some 0
    pairs := [{ act := h 0, res := h 1 }, { act := h 2, res := h 3 }] }

theorem bindBfq_keeps (s : State) (p : Path) (u : Nat) (weight : Word) (entry ra rb : Nat) (places : List (Nat × Nat)) :
    (∃ h, cfind (bindBfq s p u weight entry ra rb places).bfqs u = some (boundAs p weight entry ra rb h)) ∧
      ∀ blk grp, groupOf (bindBfq s p u weight entry ra rb places) blk grp = groupOf s blk grp := by
  obtain ⟨hblocks, -⟩ := takeStaging_keeps s p.b.part p.b.ctx places
  let t := takeStaging s p.b.part p.b.ctx places
  let q := boundAs p weight entry ra rb fun k => t.2.getD k 0
  obtain ⟨hbfqs, hgroup⟩ := setStagings_keep { t.1 with bfqs := cset t.1.bfqs u q } q t.2 false
  refine ⟨⟨fun k => t.2.getD k 0, ?_⟩, fun blk grp => (hgroup blk grp).trans ?_⟩
  · refine (congrArg (fun c => cfind c u) hbfqs).trans ?_
    rw [cfind_cset, if_pos rfl]
  · unfold groupOf blockOf
    show (t.1.blocks.find? _).bind _ = _
    rw [hblocks]

/-- R402: the partition owns the context named. -/
theorem bfqUnit_owned {v : DWord} (hu : (v.extractLsb' 32 8).toNat = u) (hlow : 32 ≤ u) (hhigh : u ≤ 47)
    (howned : u ∈ (partOf s p.b.part).desc.eng) : bfqUnit s p v = some u := by
  unfold bfqUnit
  dsimp only
  rw [bits_toNat, hu]
  exact if_pos (by simp [hlow, hhigh, howned])

theorem bfqBind_binds (desc addr : BitVec 6) (h : URuns s p x) (hunit : bfqUnit s p (p.g.usrc addr.toNat) = some u) {ra rb entry : Nat}
    (hra : bits (p.g.usrc addr.toNat).toNat 0 16 = ra) (hrb : bits (p.g.usrc addr.toNat).toNat 16 16 = rb)
    (hentry : bits (p.g.usrc desc.toNat).toNat 32 12 = entry) (hra16 : rowBytesOk ra = true) (hrb16 : rowBytesOk rb = true)
    (hfree : cfind s.bfqs u = none) {places : List (Nat × Nat)} (hroom : stagingRoom s p u ra rb = some places)
    (hver : ((versionOf s p.b.ver).bind fun k => k.entries[entry]?).isSome = true)
    (hobj : (objOf s p.b.part p.b.ctx ((p.g.usrc desc.toNat).setWidth 32)).isSome = true) :
    exec (.bfqBind desc addr x) s =
      .next (atNext (bindBfq s p u ((p.g.usrc desc.toNat).setWidth 32) entry ra rb places) p) := by
  show execBfqBind desc addr x s = _
  refine uniform_done h ?_
  dsimp only
  rw [hunit, hra, hrb, hentry, hra16, hrb16]
  dsimp only
  rw [hroom]
  dsimp only
  rw [if_neg (by rw [Option.isNone_eq_false_iff.2 hver]; simp), show bfqOf s u = none from hfree, if_neg (by simp),
    if_neg (by rw [Option.isNone_eq_false_iff.2 hobj]; simp)]

/-! ### Joining -/

/-- R99: the row of a `bfq.join`. -/
def joinedRow (s : State) (p : Path) (key : SlotKey) (sequence : Word) (act res : DWord) : BfqRow :=
  { sequence := sequence, act := act, res := res, key := key, part := p.b.part
    ctx := p.b.ctx, trc := ((versionOf s p.b.ver).map Version.trc).getD 0, level1 := p.b.level1, blk := p.iss.blk
    grp := p.iss.grp, core := p.b.core, pc := p.iss.pc, tids := p.lanes.map fun n => (p.g.lane n).tid }

/-- R99: a `bfq.join` that its checks let pass offers its row. -/
theorem bfqJoin_offers (desc addr : BitVec 6) (slot : BitVec 4) {level : BitVec 2} (h : URuns s p x)
    (hunit : bfqUnit s p (p.g.usrc addr.toNat) = some u) {q : Bfq} (hq : cfind s.bfqs u = some q) (hrel : q.releasing = false)
    (hact : (p.g.usrc desc.toNat).toNat % 16 = 0) (hres : (p.g.usrc (desc.toNat + 1)).toNat % 16 = 0) (hlevel : level = 1 ∨ level = 2)
    (hobj : objOf s p.b.part p.b.ctx ((p.g.usrc addr.toNat).setWidth 32) = some .seq) (hstores : p.g.stores.pend = []) {o : UEnd}
    (ho : offerRow s p u q (joinedRow s p (slotKey p level slot) ((p.g.usrc addr.toNat).setWidth 32) (p.g.usrc desc.toNat)
      (p.g.usrc (desc.toNat + 1))) = o) : exec (.bfqJoin desc addr slot level x) s = o.out p := by
  have hq' : (bfqOf s u).filter (fun q => !q.releasing) = some q := by
    rw [show bfqOf s u = some q from hq]
    simp [hrel]
  have hlevel' : (decide (level = 0) || decide (level = 3)) = false := by rcases hlevel with rfl | rfl <;> rfl
  show execBfqJoin desc addr slot level x s = _
  unfold execBfqJoin
  rw [uniform_runs h]
  dsimp only
  rw [hunit]
  dsimp only
  rw [hact, hres, hobj, hstores, if_neg (by simp), if_neg (by simp), hlevel', if_neg (by simp), hq']
  dsimp only
  rw [if_neg (by simp), if_neg (by simp), ← ho]
  rfl

theorem holds_of_mem {q : Bfq} {e : BfqPair} {r : BfqRow} {w : Word} (he : e ∈ q.pairs) (hr : r ∈ e.rows) (hw : r.sequence = w) :
    q.holds w = true :=
  List.any_eq_true.2 ⟨e, he, List.any_eq_true.2 ⟨r, hr, decide_eq_true hw⟩⟩

theorem holds_eq_false {q : Bfq} {w : Word} (h : ∀ e ∈ q.pairs, ∀ r ∈ e.rows, r.sequence ≠ w) : q.holds w = false :=
  List.any_eq_false.2 fun e he => by
    rw [Bool.not_eq_true]
    exact List.any_eq_false.2 fun r hr => by simpa using h e he r hr

/-- R99: a row whose sequence has a row in the batch is held. -/
theorem offerRow_held {q : Bfq} {r : BfqRow} (hq : cfind s.bfqs u = some q) (hh : q.holds r.sequence = true) :
    offerRow s p u q r = .done { s with bfqs := cset s.bfqs u { q with held := q.held ++ [r] } } := by
  unfold offerRow modBfq
  rw [hh, show bfqOf s u = some q from hq]
  rfl

/-- A pair that one more row has joined. -/
def rowJoined (clk : Nat) (r : BfqRow) (f : BfqPair) : BfqPair :=
  if f.rows = [] then { f with rows := [r], start := clk, waited := 0 } else { f with rows := f.rows ++ [r] }

/-- R99: a row that is admitted, and fills no batch, joins the gathering pair. -/
theorem admitRow_joins {s t : State} {q : Bfq} {k : Nat} {e : BfqPair} {r : BfqRow} (hq : cfind s.bfqs u = some q)
    (hk : q.gathering = some k) (he : q.pairs[k]? = some e) (hroom : e.rows.length < 63)
    (hrun : copyRun s (r.source (.tile e.act (e.rows.length * q.ra))) 0 (q.ra / 16) = (t, .ok ())) :
    ∃ t', admitRow s u r = (t', none) ∧ ∀ q1, cfind t.bfqs u = some q1 →
      cfind t'.bfqs u = some { q1 with pairs := q1.pairs.modify k (rowJoined t.clk r) } := by
  have hpair : ((bfqOf s u).bind fun q => q.gathering.bind fun k => (q.pair k).map fun p => (q, k, p)) = some (q, k, e) := by
    rw [show bfqOf s u = some q from hq]
    show q.gathering.bind (fun k => (q.pair k).map fun p => (q, k, p)) = _
    rw [hk]
    show (q.pairs[k]?).map (fun p => (q, k, p)) = _
    rw [he]
    rfl
  have hlen : ¬(e.rows.length + 1 = 64) := by omega
  refine ⟨modBfq (countDie t q.part ((u - 32) / 4) 0 0 q.ra) u fun q => { q with pairs := q.pairs.modify k (rowJoined t.clk r) }, ?_,
    fun q1 hq1 => ?_⟩
  · unfold admitRow
    rw [hpair]
    dsimp only
    rw [hrun]
    dsimp only
    rw [if_neg hlen]
    have hclk : (countDie t q.part ((u - 32) / 4) 0 0 q.ra).clk = t.clk := by unfold countDie; simp
    rw [hclk]
    refine congrArg (fun f => (modBfq (countDie t q.part ((u - 32) / 4) 0 0 q.ra) u f, (none : Option NoAccess))) (funext fun q => ?_)
    refine congrArg (fun f => { q with pairs := q.pairs.modify k f }) (funext fun f => ?_)
    exact if_congr List.isEmpty_iff rfl rfl
  · have hbfqs : (countDie t q.part ((u - 32) / 4) 0 0 q.ra).bfqs = t.bfqs := by unfold countDie; simp
    unfold modBfq bfqOf
    rw [hbfqs, hq1]
    exact (cfind_cset _ _ _ _).trans (if_pos rfl)

theorem offerRow_admits {q : Bfq} {k : Nat} {r : BfqRow} {t' : State} (hh : q.holds r.sequence = false)
    (hheld : ∀ k ∈ q.held, k.sequence ≠ r.sequence) (hk : q.gathering = some k) (hadmit : admitRow (atNext s p) u r = (t', none)) :
    offerRow s p u q r = .stay t' := by
  have hany : (q.held.any fun k => k.sequence = r.sequence) = false := List.any_eq_false.2 fun j hj => by simpa using hheld j hj
  unfold offerRow
  rw [hh, hany, hk, pathTo_eq]
  rw [show admitRow (uniNext s p p.iss.next id) u r = (t', none) from hadmit]
  rfl

/-! ### Unbinding -/

theorem bfqUnbind_begins (addr : BitVec 6) (h : URuns s p x) (hunit : bfqUnit s p (p.g.usrc addr.toNat) = some u) {q : Bfq}
    (hq : cfind s.bfqs u = some q) :
    exec (.bfqUnbind addr x) s = .next (beginRelease (held s p (.unbind u p.iss.next)) u) := by
  show execBfqUnbind addr x s = _
  refine uniform_stay h ?_
  rw [hunit]
  dsimp only
  rw [show bfqOf s u = some q from hq, ← pathHold_eq]

theorem bfqUnbind_unbound (addr : BitVec 6) (h : URuns s p x) (hunit : bfqUnit s p (p.g.usrc addr.toNat) = some u)
    (hq : cfind s.bfqs u = none) : ∃ r, exec (.bfqUnbind addr x) s = .next (stopIn s p [r]) ∧ r.cause = 0x38 := by
  obtain ⟨r, hr, hrec⟩ := uniform_trap (e := boundTrap) h (k := fun p s => match bfqUnit s p (p.g.usrc addr.toNat) with
    | none => .trap s (wordTrap p 0x05)
    | some u => match bfqOf s u with
      | none => .trap s boundTrap
      | some _ => .stay (beginRelease (pathHold s p (.unbind u p.iss.next)) u)) (by
        rw [hunit]
        dsimp only
        rw [show bfqOf s u = none from hq])
  exact ⟨r, hr, hrec.1⟩

end

/-- Settles O45: each instruction's checks pass, and its effect on the binding is read off. -/
theorem batchResults : Obligations.BatchResults := by
  intro desc addr slot level x s p h
  dsimp only
  intro hlow hhigh howned
  have hunit := bfqUnit_owned rfl hlow hhigh howned
  obtain ⟨g, hg⟩ := pathGroup_of_pathOf h.path
  simp only [extractLsb'_zero]
  refine ⟨fun places hra hrb hfree hroom hver hobj => ?_, fun q hq hrel hact hres hlevel hobj hstores => ?_,
    fun q k e t r hq hrel hact hres hlevel hobj hstores hnone hheld hk he hroom hr hrun => ?_, fun q hq => ?_, fun hq => ?_⟩
  · obtain ⟨⟨hs, hbfq⟩, hgroup⟩ := bindBfq_keeps s p _ ((p.g.usrc desc.toNat).setWidth 32) _ _ _ places
    refine ⟨_, _, _, bfqBind_binds desc addr h hunit ?_ (bits_toNat _ _ _) (bits_toNat _ _ _) hra hrb hfree hroom hver hobj, hbfq, rfl, rfl,
      rfl, rfl, rfl, rfl, rfl, rfl, rfl, rfl, rfl, rfl, rfl, rfl, ?_, groupOf_atNext ((hgroup _ _).trans hg.groupOf_eq), npc_sentOn hg.livePath⟩
    · rw [bits_toNat, extractLsb'_zero]
    · intro e he
      obtain rfl | rfl := List.mem_pair.1 he <;> exact ⟨rfl, rfl⟩
  · rintro ⟨e, he, r, hr, hw⟩
    have hjoin := bfqJoin_offers desc addr slot h hunit hq hrel hact hres hlevel hobj hstores
      (offerRow_held hq (holds_of_mem he hr hw))
    exact ⟨_, _, _, hjoin.trans (congrArg Host.Outcome.next (pathTo_eq _ p p.iss.next)), by rw [cfind_cset, if_pos rfl], rfl, rfl, rfl, rfl,
      rfl, rfl⟩
  · subst hr
    obtain ⟨t', hadmit, hbfq⟩ := admitRow_joins (s := atNext s p) hq hk he hroom hrun
    exact ⟨t', bfqJoin_offers desc addr slot h hunit hq hrel hact hres hlevel hobj hstores
      (offerRow_admits (holds_eq_false hnone) hheld hk hadmit), hbfq⟩
  · exact bfqUnbind_begins addr h hunit hq
  · exact bfqUnbind_unbound addr h hunit hq

end Sys2Proof.Proofs
end
section
/-! PROOF of O46 (chapters 6, 17, 18, 24): what the pool's coherence, the power arbiter, the clocks and the links do. -/

namespace Sys2Proof.Proofs

open Sys2Proof Sys2Proof.Machine Sys2Proof.Claims Sys2Proof.Laws

/-! ### Tables and folds -/

/-- A table whose values change by their keys. -/
theorem cfind_map {α β : Type} (f : Nat → α → β) (c : Cells α) (k : Nat) :
    cfind (c.map fun q => (q.1, f q.1 q.2)) k = (cfind c k).map (f k) := by
  induction c with
  | nil => rfl
  | cons q c ih =>
    rw [List.map_cons, cfind, ih]
    conv_rhs => rw [show q = (q.1, q.2) from rfl, cfind]
    split
    · next h => rw [h]; rfl
    · rfl

theorem isEmpty_false_of {α : Type} {l : List α} (h : l ≠ []) : l.isEmpty = false := by simpa using h

theorem cfind_foldl_cdel {α : Type} (ks : List Nat) (c : Cells α) {k : Nat} (h : k ∈ ks ∨ cfind c k = none) :
    cfind (ks.foldl cdel c) k = none := by
  induction ks generalizing c with
  | nil =>
    obtain h | h := h
    · cases h
    · exact h
  | cons j ks ih =>
    refine ih (cdel c j) ?_
    rw [cfind_cdel]
    by_cases hk : k = j
    · exact .inr (if_pos hk)
    · obtain h | h := h
      · exact .inl ((List.mem_cons.1 h).resolve_left hk)
      · exact .inr (by rw [if_neg hk, h])

/-! ### Leases on pool lines -/

/-- R138: a run that meets the bytes joins them. -/
theorem mem_foldl_runs {runs : List (List Nat)} {as : List Nat} {a : Nat} (ha : a ∈ as) :
    a ∈ runs.foldl (fun as r => if r.any as.contains then as ++ r else as) as := by
  induction runs generalizing as with
  | nil => exact ha
  | cons r runs ih =>
    rw [List.foldl_cons]
    split
    · exact ih (List.mem_append_left _ ha)
    · exact ih ha

theorem mem_foldl_joined {runs : List (List Nat)} {as r : List Nat} {a b : Nat} (hr : r ∈ runs) (har : a ∈ r) (hbr : b ∈ r) (ha : a ∈ as) :
    b ∈ runs.foldl (fun as r => if r.any as.contains then as ++ r else as) as := by
  induction runs generalizing as with
  | nil => cases hr
  | cons q runs ih =>
    rw [List.foldl_cons]
    obtain rfl | hr := List.mem_cons.1 hr
    · rw [if_pos (List.any_eq_true.2 ⟨a, har, List.contains_iff_mem.2 ha⟩)]
      exact mem_foldl_runs (List.mem_append_right _ hbr)
    · split
      · exact ih hr (List.mem_append_left _ ha)
      · exact ih hr ha

/-- R138: the other bytes of a run of which one is named. -/
theorem mem_joinRuns {runs : List (List Nat)} {r : List Nat} {a b : Nat} (hr : r ∈ runs) (ha : a ∈ r) (hb : b ∈ r) :
    b ∈ joinRuns runs [a] := by
  have later (n : List (List Nat)) {as : List Nat} (h : b ∈ as) :
      b ∈ n.foldl (fun as _ => runs.foldl (fun as r => if r.any as.contains then as ++ r else as) as) as := by
    induction n generalizing as with
    | nil => exact h
    | cons _ n ih => exact ih (mem_foldl_runs h)
  unfold joinRuns
  cases hn : runs with
  | nil => rw [hn] at hr; cases hr
  | cons q rest =>
    rw [← hn, show runs.foldl (fun as _ => runs.foldl (fun as r => if r.any as.contains then as ++ r else as) as) [a] =
      (q :: rest).foldl (fun as _ => runs.foldl (fun as r => if r.any as.contains then as ++ r else as) as) [a] by rw [← hn],
      List.foldl_cons]
    exact later rest (mem_foldl_joined hr ha hb List.mem_cons_self)

theorem seen_run {l : PoolLease} {a b : Nat} {r : List Nat} (hr : r ∈ l.runs) (ha : a ∈ r) (hb : b ∈ r) : cfind (l.seen a).stale b = none :=
  cfind_foldl_cdel _ _ (.inl (mem_joinRuns hr ha hb))

theorem foldl_dropStale (es : List QueuedStore) (s : State) :
    ∃ ls, es.foldl (fun t e => dropStale t e.addr) s = { s with poolLeases := ls } := by
  induction es generalizing s with
  | nil => exact ⟨s.poolLeases, rfl⟩
  | cons e es ih =>
    obtain ⟨ls, h⟩ := ih (dropStale s e.addr)
    exact ⟨ls, h⟩

theorem agentByte_pool (s : State) (a : Nat) (v : Byte) : (agentByte s a v).pool = mput s.pool a v := rfl

theorem agentStore_pool (line : Nat) (bytes : List (Nat × Byte)) (s : State) :
    (agentStore s line bytes).pool = bytes.foldl (fun m q => mput m (64 * line + q.1) q.2) s.pool := by
  show (bytes.foldl (fun s q => agentByte s (64 * line + q.1) q.2) s).pool = _
  induction bytes generalizing s with
  | nil => rfl
  | cons q bytes ih => exact ih _

theorem agentByte_lease {s : State} {a : Nat} {v : Byte} {l : PoolLease} (hl : l ∈ s.poolLeases) (hline : l.line = a / 64)
    (hnone : cfind l.stale a = none) :
    (if (queued s.sysq a).isSome then l else { l with stale := cset l.stale a (poolHome s a) }) ∈ (agentByte s a v).poolLeases := by
  refine List.mem_map.2 ⟨l, hl, ?_⟩
  rw [hline, hnone]
  cases queued s.sysq a <;> simp

/-! ### Coherence -/

theorem dropLine_eq {s : State} {line : Nat} {l : PoolLine} (h : cfind s.poolLines line = some l) : dropLine s line =
    { s with pool := l.dirty.foldl (fun m e => mput m e.1 e.2) s.pool, poolLines := cdel s.poolLines line } := by
  unfold dropLine poolWriteBack
  rw [h]

theorem poolStoreMerge_runs {line : Nat} {e : QueuedStore} {s : State} (he : e ∈ s.sysq) (hline : e.addr / 64 = line)
    (halive : s.poolDead = false) (hup : s.cxlUp ≠ []) : exec (.poolStoreMerge line) s = .next (wakeFences (poolMerge s line)) := by
  have hany : (s.sysq.any fun e => e.addr / 64 = line) = true := List.any_eq_true.2 ⟨e, he, decide_eq_true hline⟩
  show execPoolStoreMerge line s = _
  unfold execPoolStoreMerge
  dsimp only
  rw [hany, halive, isEmpty_false_of hup]
  simp

theorem poolMerge_eq (s : State) (line : Nat) :
    poolMerge s line = { (s.sysq.filter fun e => e.addr / 64 == line).foldl (fun t e => dropStale t e.addr) s with
      sysq := s.sysq.filter fun e => e.addr / 64 != line
      poolLines := cset s.poolLines line
        { st := .M, dirty := (s.sysq.filter fun e => e.addr / 64 == line).foldl (fun d e => cset d e.addr e.byte)
            (((cfind s.poolLines line).map PoolLine.dirty).getD []) } } := by
  have hmine : (s.sysq.filter fun e => decide (e.addr / 64 = line)) = s.sysq.filter fun e => e.addr / 64 == line :=
    List.filter_congr fun e _ => (beq_eq_decide _ _).symm
  have hrest : (s.sysq.filter fun e => decide (e.addr / 64 ≠ line)) = s.sysq.filter fun e => e.addr / 64 != line :=
    List.filter_congr fun e _ => by simp [bne, beq_eq_decide]
  have hdirty : ((cfind s.poolLines line).getD { st := .M }).dirty = ((cfind s.poolLines line).map PoolLine.dirty).getD [] := by
    cases cfind s.poolLines line <;> rfl
  unfold poolMerge
  dsimp only
  rw [hmine]
  obtain ⟨ls, hls⟩ := foldl_dropStale (s.sysq.filter fun e => e.addr / 64 == line) s
  rw [hls, hdirty]
  dsimp only
  rw [hrest]

/-- R138: what hosts have stored of their own is there. -/
theorem hostWriteAck_none {s : State} (hup : s.portsUp ≠ []) (hnone : s.posted = []) : exec .hostWriteAck s = .next (hostAgent s) := by
  have hposted : (hostAgent s).posted = [] := hnone
  show execHostWriteAck s = _
  unfold execHostWriteAck
  dsimp only
  rw [isEmpty_false_of hup, if_neg Bool.false_ne_true, hposted]

theorem hostWriteAck_some {s : State} (hup : s.portsUp ≠ []) {e : Nat × List Byte} {rest : List (Nat × List Byte)}
    (hsome : s.posted = e :: rest) : exec .hostWriteAck s = .next (wakeFences (moveWindowPorts { hostAgent s with
      posted := rest, hostMem := (e.2.mapIdx fun k b => (e.1 + k, b)).foldl (fun m q => mput m q.1 q.2) (hostAgent s).hostMem })) := by
  have hposted : (hostAgent s).posted = e :: rest := hsome
  show execHostWriteAck s = _
  unfold execHostWriteAck
  dsimp only
  rw [isEmpty_false_of hup, if_neg Bool.false_ne_true, hposted]

theorem coherenceEvents : CoherenceEvents := by
  refine ⟨fun core pa s hpa => ?_, fun line l s hl hup => ⟨?_, ?_, fun bytes hbytes => ?_⟩, fun line e s he hline halive hup => ?_,
    fun s hup => ⟨fun hnone => ?_, fun e rest hposted => ?_⟩, fun a v s => ⟨agentByte_pool s a v, fun l hl hline hnone => agentByte_lease hl hline hnone⟩,
    agentStore_pool, fun l a b r _ hr ha hb => seen_run hr ha hb⟩
  · refine congrArg (fun ls => Host.Outcome.next { s with poolLeases := ls }) (List.filter_congr fun l _ => ?_)
    simp [hpa, beq_eq_decide]
  · show execBisnpdata line s = _
    unfold execBisnpdata poolWriteBack
    rw [hl, hup]
    rfl
  · show execL2Eviction line s = _
    unfold execL2Eviction
    rw [hup, dropLine_eq hl]
    rfl
  · have hall : bytes.filter (fun q => decide (q.1 < 64)) = bytes := List.filter_eq_self.2 fun q hq => decide_eq_true (hbytes q hq)
    show execBisnpinv line bytes s = _
    unfold execBisnpinv
    rw [hup, dropLine_eq hl, hall]
    rfl
  · rw [poolStoreMerge_runs he hline halive hup, poolMerge_eq]
    rfl
  · exact hostWriteAck_none hup hnone
  · exact hostWriteAck_some hup hposted

/-! ### Power -/

theorem allowanceOf_share (s : State) (share est : Nat → Nat) (p : Nat) : share p ≤ allowanceOf s share est p := by
  unfold allowanceOf
  dsimp only
  split
  · exact Nat.le_refl _
  · exact Nat.le_add_right _ _

theorem allowanceOf_own {s : State} {share est : Nat → Nat} {p : Nat} (h : s.budgetMode = true ∨ est p ≤ share p) :
    allowanceOf s share est p = share p := by
  unfold allowanceOf
  dsimp only
  split
  · rfl
  · next hshared =>
    have hle : est p ≤ share p := h.resolve_left fun hmode => hshared (by simp [hmode])
    rw [Nat.sub_eq_zero_of_le hle, Nat.mul_zero, Nat.zero_div, Nat.add_zero]

/-- A field of partitions that a change of one leaves. -/
theorem partField_modPart {α : Type} {F : Part → α} {f : Part → Part} (hf : ∀ q, F (f q) = F q) (s : State) (p k : Nat) :
    F (partOf (modPart s p f) k) = F (partOf s k) := by
  unfold modPart partOf
  cases hp : cfind s.parts p with
  | none => rfl
  | some q =>
    dsimp only
    rw [cfind_cset]
    split
    · next h =>
      rw [h, hp]
      exact hf q
    · rfl

theorem partField_logPart {α : Type} {F : Part → α} (hF : ∀ (q : Part) n l, F { q with seq := n, log := l } = F q) (s : State)
    (p code ctx unit ukind count : Nat) (info : DWord) (k : Nat) :
    F (partOf (logPart s p code ctx unit ukind count info) k) = F (partOf s k) := by
  unfold logPart logTo
  dsimp only
  split
  · exact partField_modPart (fun q => hF q _ _) s p k
  · exact partField_modPart (fun q => hF q _ _) s p k

theorem tick_logPart (s : State) (p code ctx unit ukind count : Nat) (info : DWord) :
    (logPart s p code ctx unit ukind count info).tick = s.tick := by
  unfold logPart logTo
  dsimp only
  split <;> simp

/-- A partition's clamp in an event, and its record, with the current drawn over what was allowed. -/
def clampOf (die : Nat) (excess : Nat → Nat) (t : State) (p : Nat) : State :=
  logPart (modPart t p fun q => { q with clamped := true }) p 0x78 0xFF die 7 1 (BitVec.ofNat 64 (excess p))

/-- What a partition draws over its allowance is none of a clamp's business. -/
theorem overCurrent_clampOf (die : Nat) (excess : Nat → Nat) (t : State) (p k : Nat) :
    overCurrent (clampOf die excess t p) die k = overCurrent t die k := by
  have htick : (clampOf die excess t p).tick = t.tick := (tick_logPart _ _ _ _ _ _ _ _).trans (by simp)
  have hdie : (partOf (clampOf die excess t p) k).dieAllowed = (partOf t k).dieAllowed := by
    refine (partField_logPart (F := Part.dieAllowed) (fun _ _ _ => rfl) _ _ _ _ _ _ _ _ k).trans ?_
    refine partField_modPart (F := Part.dieAllowed) ?_ t p k
    exact fun _ => rfl
  unfold overCurrent partDraw
  rw [htick, hdie]

theorem foldl_clampOf {s t : State} {die : Nat} (ps : List Nat) (h : ∀ k, overCurrent t die k = overCurrent s die k) :
    ps.foldl (fun t p => clampOf die (overCurrent t die) t p) t = ps.foldl (clampOf die (overCurrent s die)) t := by
  induction ps generalizing t with
  | nil => rw [List.foldl_nil, List.foldl_nil]
  | cons p ps ih =>
    rw [List.foldl_cons, List.foldl_cons, show overCurrent t die = overCurrent s die from funext h]
    exact ih (t := clampOf die (overCurrent s die) t p) fun k => (overCurrent_clampOf die (overCurrent s die) t p k).trans (h k)

theorem currentClamp_eq (die : Nat) (s : State) : exec (.currentClamp die) s = .next (
    if ((onDie s die).map fun p => (cfind (partOf s p).dieAllowed die).getD 0).sum <
        ((onDie s die).map fun p => Config.supplyCurrent (s.tick * 32 + p)).sum
    then ((onDie s die).filter fun p => !s.budgetMode ||
        decide ((cfind (partOf s p).dieAllowed die).getD 0 < Config.supplyCurrent (s.tick * 32 + p))).foldl
      (clampOf die (overCurrent s die)) s
    else s) := by
  have hhit (p : Nat) : decide (0 < overCurrent s die p) =
      decide ((cfind (partOf s p).dieAllowed die).getD 0 < Config.supplyCurrent (s.tick * 32 + p)) := decide_eq_decide.2 Nat.sub_pos_iff_lt
  show execCurrentClamp die s = _
  unfold execCurrentClamp dieOver
  dsimp only
  rw [List.filter_congr fun p _ => congrArg (fun b => !s.budgetMode || b) (hhit p)]
  exact congrArg Host.Outcome.next (if_congr decide_eq_true_iff (foldl_clampOf _ fun _ => rfl) rfl)

theorem thermalThrottle_cool {die temp : Nat} {s : State} (hdie : die < Config.dies) (h : temp ≤ 105) :
    exec (.thermalThrottle die temp) s = .next (noteHot s die temp) := by
  show execThermalThrottle die temp s = _
  unfold execThermalThrottle
  rw [if_neg (Nat.not_le.2 hdie), if_pos h]

theorem thermalThrottle_hot {die temp : Nat} {s : State} (hdie : die < Config.dies) (h : 105 < temp) :
    exec (.thermalThrottle die temp) s =
      if s.hotDies ≠ [] ∧ s.clk < s.coolAt + 3000000 then
        .next { s with hotAt := cset s.hotAt die s.clk, hotDies := sinsert s.hotDies die }
      else .next (logAll (lowerCap { s with hotAt := cset s.hotAt die s.clk, hotDies := sinsert s.hotDies die }) 0x79 die 7 1
        (BitVec.ofNat 64 temp)) := by
  have hnote : noteHot s die temp = { s with hotAt := cset s.hotAt die s.clk } := if_pos (by omega)
  show execThermalThrottle die temp s = _
  unfold execThermalThrottle
  dsimp only
  rw [if_neg (Nat.not_le.2 hdie), if_neg (Nat.not_le.2 h), hnote]
  refine if_congr ?_ rfl rfl
  rw [Bool.and_eq_true, Bool.not_eq_true', List.isEmpty_eq_false_iff, decide_eq_true_iff]

theorem thermalCapRestore_cooled {die : Nat} {s : State} (hdie : die ∈ s.hotDies) (h : (cfind s.hotAt die).getD 0 + 300000000 ≤ s.clk) :
    exec (.thermalCapRestore die) s = .next { s with
      hotDies := sremove s.hotDies die, cap := if sremove s.hotDies die = [] then s.capBefore else s.cap } := by
  have hno : ¬((!s.hotDies.contains die || decide (s.clk < (cfind s.hotAt die).getD 0 + 300000000)) = true) := by
    simp [hdie, Nat.not_lt.2 h]
  show execThermalCapRestore die s = _
  unfold execThermalCapRestore
  rw [if_neg hno]
  exact congrArg (fun n => Host.Outcome.next { s with hotDies := sremove s.hotDies die, cap := n })
    (if_congr (Q := sremove s.hotDies die = []) List.isEmpty_iff rfl rfl)

/-! ### Time -/

theorem countEvent_steered (s : State) (p c code n : Nat) : (countEvent s p c code n).steered = s.steered := by
  unfold countEvent
  split
  · simp
  · rfl

theorem foldl_keeps_steered {α : Type} {f : State → α → State} (hf : ∀ s a, (f s a).steered = s.steered) (as : List α) (s : State) :
    (as.foldl f s).steered = s.steered := by
  induction as generalizing s with
  | nil => rfl
  | cons a as ih => exact (ih _).trans (hf _ _)

theorem countTime_steered (s : State) (cycles : Nat) : (countTime s cycles).steered = s.steered := by
  unfold countTime countStalls
  refine (foldl_keeps_steered (fun s q => ?_) _ _).trans (foldl_keeps_steered (fun s q => ?_) _ _)
  · exact (foldl_keeps_steered (fun s code => countEvent_steered _ _ _ _ _) _ _).trans (countEvent_steered _ _ _ _ _)
  · exact foldl_keeps_steered (fun s k => countEvent_steered _ _ _ _ _) _ _

/-! ### Links -/

/-- A table of what some positions of a list give, where that is not 0. -/
theorem cget_mapIdx {β : Type} (f : Nat → β → Nat) {ws : List β} {w : β} {k : Nat} (h : ws[k]? = some w) :
    cget 0 ((ws.mapIdx fun k w => (k, f k w)).filter fun e => e.2 ≠ 0) k = f k w := by
  have hlist : (ws.mapIdx fun k w => (k, f k w)) = (List.range ws.length).map fun k => (k, ((ws[k]?).map (f k)).getD 0) := by
    refine List.ext_getElem (by simp) fun j hj _ => ?_
    have hj' : j < ws.length := by simpa using hj
    simp [List.getElem?_eq_getElem hj']
  rw [hlist, cget_listed, if_pos (List.mem_range.2 (List.getElem?_eq_some_iff.1 h).1), h]
  rfl

/-- R412: a partition whose windows have moved away from ports that are down. -/
def windowsMoved (s : State) (low : Nat) (q : Part) : Part :=
  { q with winPorts := (q.desc.hostw.mapIdx fun k w => (k, portOf s q low k w)).filter fun e => e.2 ≠ 0 }

/-- R412: the port of a window once windows have moved away from ports that are down. -/
theorem winPort_moved {s : State} {p k : Nat} {q : Part} {w : Nat × Nat × DWord} (hup : s.portsUp ≠ []) (hq : cfind s.parts p = some q)
    (hw : q.desc.hostw[k]? = some w) :
    (cfind (partOf (moveWindowPorts s) p).winPorts k).getD 0 = portOf s q (s.portsUp.headD 0) k w := by
  obtain ⟨low, rest, hports⟩ := List.exists_cons_of_ne_nil hup
  have hpart : (partOf (moveWindowPorts s) p).winPorts =
      (q.desc.hostw.mapIdx fun k w => (k, portOf s q low k w)).filter fun e => e.2 ≠ 0 := by
    have hcell := cfind_map (fun _ => windowsMoved s low) s.parts p
    rw [hq] at hcell
    unfold partOf moveWindowPorts
    rw [hports]
    exact congrArg (fun o : Option Part => (o.getD {}).winPorts) hcell
  rw [hpart, hports]
  exact cget_mapIdx _ hw

theorem portDown_eq {port : Nat} {s : State} (h : port ∈ s.portsUp) : exec (.portDown port) s = .next (logAll
    (moveWindowPorts { s with portsUp := sremove s.portsUp port, portsAt := s.clk }) 0x60 port 5 1 (BitVec.ofNat 64 port)) := by
  show execPortDown port s = _
  unfold execPortDown
  exact if_neg (by simpa using h)

theorem portUp_eq {port : Nat} {s : State} (h : port ∉ s.portsUp) (hlow : port < 16) : exec (.portUp port) s = .next (wakeLinks
    (logAll (moveWindowPorts { s with portsUp := sinsert s.portsUp port }) 0x61 port 5 1 (BitVec.ofNat 64 port))) := by
  show execPortUp port s = _
  unfold execPortUp
  exact if_neg (by simp [h, hlow])

theorem hostWindowLost_eq {p idx : Nat} {w : Nat × Nat × DWord} {s : State} (hw : (partOf s p).desc.hostw[idx]? = some w) (hsize : w.2.1 ≠ 0)
    (hdown : s.portsUp = []) (hlong : s.portsAt + 3000000 ≤ s.clk) (hnew : idx ∉ (partOf s p).lost) :
    exec (.hostWindowLost p idx) s = .next (loseWindow s p idx w) := by
  show execHostWindowLost p idx s = _
  unfold execHostWindowLost
  dsimp only
  rw [hw]
  exact congrArg Host.Outcome.next (if_pos (by simp [hsize, hdown, hlong, hnew]))

theorem cxlPortFail_eq {port : Nat} {s : State} (h : port ∈ s.cxlUp) : exec (.cxlPortFail port) s = .next (logAll
    { s with cxlUp := sremove s.cxlUp port, cxlAt := s.clk } 0x63 port 6 1
    (if sremove s.cxlUp port = [] then 0xFF else BitVec.ofNat 64 port)) := by
  show execCxlPortFail port s = _
  unfold execCxlPortFail
  refine (if_neg (by simpa using h)).trans ?_
  exact congrArg (fun n => Host.Outcome.next (logAll { s with cxlUp := sremove s.cxlUp port, cxlAt := s.clk } 0x63 port 6 1 n))
    (if_congr (Q := _ = []) List.isEmpty_iff rfl rfl)

theorem cxlPortRecover_eq {port : Nat} {s : State} (h : port ∉ s.cxlUp) (hlow : port < 2) : exec (.cxlPortRecover port) s =
    .next (wakeLinks { s with cxlUp := sinsert s.cxlUp port }) := by
  show execCxlPortRecover port s = _
  unfold execCxlPortRecover
  exact if_neg (by simp [h, hlow])

theorem poolLost_eq {s : State} (hdown : s.cxlUp = []) (hlong : s.cxlAt + 30000000 ≤ s.clk) (halive : s.poolDead = false) :
    exec .poolLost s = .next (losePool s) := by
  show execPoolLost s = _
  unfold execPoolLost
  exact congrArg Host.Outcome.next (if_pos (by simp [hdown, hlong, halive]))

theorem powerAndLinkEvents : PowerAndLinkEvents := by
  refine ⟨fun s hdue => ⟨?_, fun n hcap hpos => ?_, fun share est p => ⟨allowanceOf_share s share est p, allowanceOf_own⟩⟩,
    fun die s => ⟨fun hover => ?_, fun hok => ?_⟩, fun die temp s hdie => ⟨fun hcool => ?_, fun hwarm hok => ?_, fun hhot => ⟨fun hfirst => ?_,
    fun hwas hsoon => ?_⟩⟩, fun die s hdie hcool => thermalCapRestore_cooled hdie hcool, fun time s hup => ⟨fun hfree => ?_, fun hlocked => ?_⟩,
    fun s => ⟨rfl, rfl⟩, fun s hlost => ?_, fun port s h => portDown_eq h, fun port s h hlow => portUp_eq h hlow,
    fun s p q k w hup hq hw => ?_, fun p idx w s hw hsize hdown hlong hnew => hostWindowLost_eq hw hsize hdown hlong hnew,
    fun port s h => cxlPortFail_eq h, fun port s h hlow => cxlPortRecover_eq h hlow, fun s hdown hlong halive => poolLost_eq hdown hlong halive⟩
  · show execArbiterWindow s = _
    unfold execArbiterWindow
    exact if_neg (Nat.not_lt.2 hdue)
  · unfold watted
    rw [hcap, if_neg (Nat.pos_iff_ne_zero.1 hpos), Nat.mul_div_cancel _ hpos]
  · rw [currentClamp_eq]
    exact congrArg Host.Outcome.next (if_pos hover)
  · rw [currentClamp_eq]
    exact congrArg Host.Outcome.next (if_neg (Nat.not_lt.2 hok))
  · rw [thermalThrottle_cool hdie (by omega)]
    exact congrArg Host.Outcome.next (if_neg (by omega))
  · rw [thermalThrottle_cool hdie hok]
    exact congrArg Host.Outcome.next (if_pos hwarm)
  · rw [thermalThrottle_hot hdie hhot]
    refine if_neg fun ⟨hne, hlt⟩ => ?_
    exact hfirst.elim hne fun hlate => absurd hlt (Nat.not_lt.2 hlate)
  · rw [thermalThrottle_hot hdie hhot]
    exact if_pos ⟨hwas, hsoon⟩
  · show execPtpMessage time s = _
    unfold execPtpMessage
    rw [isEmpty_false_of hup, hfree]
    rfl
  · show execPtpMessage time s = _
    unfold execPtpMessage
    rw [isEmpty_false_of hup]
    exact congrArg Host.Outcome.next ((if_neg Bool.false_ne_true).trans (if_pos hlocked))
  · have hsteer : steerOf s = s.steered := by
      unfold steerOf
      rw [hlost]
      rfl
    exact ⟨hsteer, (countTime_steered _ _).trans hsteer⟩
  · dsimp only
    rw [winPort_moved hup hq hw]
    have hkeeps : ((s.portsUp.contains ((cfind q.winPorts k).getD 0) || s.posted.any fun p => inWindows [(w.1, w.2.1)] p.1) = true) ↔
        (cfind q.winPorts k).getD 0 ∈ s.portsUp ∨ ∃ e ∈ s.posted, inWindows [(w.1, w.2.1)] e.1 = true := by
      rw [Bool.or_eq_true, List.contains_iff_mem, List.any_eq_true]
    exact ⟨fun h => if_pos (hkeeps.2 h), fun hdown hnone => if_neg fun h => (hkeeps.1 h).elim hdown hnone⟩

/-- Settles O46: each event's condition holds, and its effect is read off. -/
theorem worldEvents : Obligations.WorldEvents := ⟨coherenceEvents, powerAndLinkEvents⟩

end Sys2Proof.Proofs
end
section
/-! PROOF of O47 (R389 to R393, R410, R414, R416): errors, isolation violations and words that are no instruction. -/

namespace Sys2Proof.Proofs

open Sys2Proof Sys2Proof.Machine Sys2Proof.Claims Sys2Proof.Laws

section
variable {s : State} {u : PoisonUnit} {p : Nat}

/-- R414: a correction of a unit that a partition owns. -/
theorem correctableError_owned (h : unitOwner s u = some p) : exec (.correctableError u) s =
    if correctedOf s (unitNumber s u) + 1 < 1000 then .next { s with
      corrected := (s.corrected.filter fun q => q.1 ≠ unitNumber s u) ++ [(unitNumber s u, correctedOf s (unitNumber s u) + 1)] }
    else .next (logUnit { s with corrected := s.corrected.filter fun q => q.1 ≠ unitNumber s u } p 0x70 0xFF (unitNumber s u).1
      (unitNumber s u).2 (correctedOf s (unitNumber s u) + 1) (BitVec.ofNat 64 (correctedOf s (unitNumber s u) + 1))) := by
  show execCorrectableError u s = _
  unfold execCorrectableError
  rw [h]

/-- R416: an uncorrected error of state that no unit owns. -/
theorem uncorrectableError_unowned {q c : Nat} (h : unitOwner s (.unowned q c) = some p) (hthere : unitThere s (.unowned q c) = true) :
    exec (.uncorrectableError (.unowned q c)) s = .next (uncontained (logUnit s p 0x71 c (unitNumber s (.unowned q c)).1
      (unitNumber s (.unowned q c)).2 1 0) p c (unitNumber s (.unowned q c)) 0) := by
  show execUncorrectableError (.unowned q c) s = _
  unfold execUncorrectableError
  rw [h, hthere]
  rfl

/-- R414: an uncorrected error of any other unit. -/
theorem uncorrectableError_owned (h : unitOwner s u = some p) (hthere : unitThere s u = true) (hu : ∀ q c, u ≠ .unowned q c) :
    exec (.uncorrectableError u) s = .next (logUnit (addPoison s (heldUnit u)) p 0x71 0xFF (unitNumber s u).1 (unitNumber s u).2 1
      (unitAddr u)) := by
  show execUncorrectableError u s = _
  unfold execUncorrectableError
  rw [h, hthere]
  cases u with
  | unowned q c => exact absurd rfl (hu q c)
  | _ => rfl

theorem heldUnit_eq (hu : ∀ pa, u ≠ .l2 pa) : heldUnit u = u := by
  cases u with
  | l2 pa => exact absurd rfl (hu pa)
  | _ => rfl

end

/-- Table 24-1: where a granule of shared memory is recorded. -/
theorem unitNumber_shared {s : State} {c o : Nat} {k : Cluster} (hk : clusterOf s c = some k) (hconst : k.const < 64) :
    unitNumber s (.shared c o) = (10 * k.const + (k.base + 16 * o) / 4096 % 10, 0) := by
  have hres : residentCluster s c = some k := by
    unfold residentCluster
    rw [hk]
    simp [Option.filter, hconst]
  unfold unitNumber
  dsimp only
  rw [hres]
  rfl

/-- Settles O47: each event's owner is there, and its effect is read off. -/
theorem errorEvents : Obligations.ErrorEvents := by
  refine ⟨fun u p s h => ⟨fun hn => ?_, fun hn => ?_⟩, fun u p s h hthere => ⟨?_, ?_, fun hl2 hun => ?_⟩,
    fun c o s k hk hconst => unitNumber_shared hk hconst, fun core target p s h => ?_, fun w s p hw hp => ?_, fun w s p hw h => ?_⟩
  · rw [correctableError_owned h]
    exact if_pos hn
  · rw [correctableError_owned h]
    exact if_neg (Nat.not_lt.2 hn)
  · rintro pa rfl
    exact uncorrectableError_owned h hthere (by simp)
  · rintro q c rfl
    exact uncorrectableError_unowned h hthere
  · rw [uncorrectableError_owned h hthere hun, heldUnit_eq hl2]
  · show execIsolationViolation core target s = _
    unfold execIsolationViolation
    rw [h]
    rfl
  · show execNonInstructionWord w s = _
    unfold execNonInstructionWord
    dsimp only
    rw [if_neg (by rw [hw]; exact Bool.false_ne_true), hp]
    rfl
  · have hexec : exec (.nonInstructionWord w) s =
        uniform { mod := w.uguard } (fun _ s => .trap s { cause := w.cause, info := w.info.setWidth 64 }) s := if_pos hw
    rw [hexec]
    exact uniform_trap (e := { cause := w.cause, info := w.info.setWidth 64 }) (k := fun _ s => .trap s _) h rfl

end Sys2Proof.Proofs
end
section
/-! PROOF of O48 (R8, R324, R361, R366, R382, R417): the ladder, the emergency and the resets. -/

namespace Sys2Proof.Proofs

open Sys2Proof Sys2Proof.Machine Sys2Proof.Claims Sys2Proof.Laws

theorem partOf_of {s : State} {p : Nat} {q : Part} (h : cfind s.parts p = some q) : partOf s p = q := by unfold partOf; rw [h]; rfl

theorem modPart_of {s : State} {p : Nat} {q : Part} (h : cfind s.parts p = some q) (f : Part → Part) :
    modPart s p f = { s with parts := cset s.parts p (f q) } := by unfold modPart; rw [h]

/-! ### EN -/

theorem controlAccess_served {s : State} {p peer : Nat} (f : State → State) (hup : answersParts s = true)
    (hp : (cfind s.parts p).isSome = true) (hc : controlled s p peer = true) : controlAccess s p peer f = f s := by
  unfold controlAccess
  rw [hup, Option.isNone_eq_false_iff.2 hp, hc]
  rfl

theorem controlAccess_refused {s : State} {p peer : Nat} (f : State → State) (hup : answersParts s = true)
    (hp : (cfind s.parts p).isSome = true) (hc : controlled s p peer = false) : controlAccess s p peer f = replyWith s false [] := by
  unfold controlAccess
  rw [hup, Option.isNone_eq_false_iff.2 hp, hc]
  rfl

theorem clearEn_begins {s : State} {p : Nat} {q : Part} (h : cfind s.parts p = some q) (hen : q.en = true) (hrung : q.rung = .none) :
    clearEn s p = { s with parts := cset s.parts p { q with en := false, rung := .soft true, rungAt := s.clk } } := by
  unfold clearEn
  rw [modPart_of h, hen, hrung]
  rfl

theorem clearEn_climbing {s : State} {p : Nat} {q : Part} (h : cfind s.parts p = some q) (hno : q.en = false ∨ q.rung ≠ .none) :
    clearEn s p = { s with parts := cset s.parts p { q with en := false } } := by
  have hbegin : ¬((q.en && decide (q.rung = .none)) = true) := by
    obtain h | h := hno <;> simp [h]
  unfold clearEn
  rw [modPart_of h, if_neg hbegin]

theorem setEn_idle {s : State} {p : Nat} {q : Part} (h : cfind s.parts p = some q) (hrung : q.rung = .none) :
    setEn s p = { s with parts := cset s.parts p { q with en := true } } := by
  unfold setEn
  dsimp only
  rw [partOf_of h, modPart_of h, hrung, ite_self]

theorem setEn_soft {s : State} {p : Nat} {q : Part} (h : cfind s.parts p = some q) (hrung : q.rung = .soft true) (hok : s.emergency = none) :
    setEn s p = modPart (holdAges { s with parts := cset s.parts p { q with en := true } } p q.running q.rungAt) p fun q =>
      { q with rung := .none } := by
  have hcalm : (modPart s p fun q => { q with en := true }).emergency.isSome = false := by rw [modPart_emergency, hok]; rfl
  unfold setEn
  dsimp only
  rw [hcalm, if_neg Bool.false_ne_true, partOf_of h, modPart_of h]
  simp only [hrung]

theorem setEn_emergency {s : State} {p : Nat} {q : Part} (h : cfind s.parts p = some q) (hhot : s.emergency ≠ none) :
    setEn s p = { s with parts := cset s.parts p { q with en := true } } := by
  have hsome : (modPart s p fun q => { q with en := true }).emergency.isSome = true := by
    rw [modPart_emergency]
    exact Option.isSome_iff_ne_none.2 hhot
  unfold setEn
  dsimp only
  rw [hsome, if_pos rfl, modPart_of h]

/-! ### The rungs -/

theorem sliceExpiry_due {s : State} {p : Nat} {q : Part} (h : cfind s.parts p = some q) (hen : q.en = true) (hrung : q.rung = .none)
    (hslice : q.desc.slice ≠ 0) (hdue : q.sliceAt + 3000 * q.desc.slice ≤ s.clk) (hlive : liveCtx s p = true) :
    exec (.sliceExpiry p) s =
      if resident s p q.running then .next (modPart s p fun q => { q with rung := .soft false, rungAt := s.clk })
      else .next (goOn (saveCtx s p q.running) p false) := by
  show execSliceExpiry p s = _
  unfold execSliceExpiry
  dsimp only
  rw [partOf_of h]
  exact if_neg (by simp [hslice, hen, hrung, hlive, Nat.not_lt.2 hdue])

theorem graceExpiry_due {s : State} {p : Nat} {q : Part} {byEn : Bool} (h : cfind s.parts p = some q) (hrung : q.rung = .soft byEn)
    (hdue : q.rungAt + q.desc.grace ≤ s.clk ∨ resident s p q.running = false) :
    exec (.graceExpiry p) s = .next (modPart (holdAges s p q.running q.rungAt) p fun q => { q with rung := .halt byEn, rungAt := s.clk }) := by
  have hno : ¬((decide (s.clk < q.rungAt + q.desc.grace) && resident s p q.running) = true) := by
    obtain h | h := hdue
    · simp [Nat.not_lt.2 h]
    · simp [h]
  show execGraceExpiry p s = _
  unfold execGraceExpiry
  dsimp only
  rw [partOf_of h, hrung]
  exact if_neg hno

theorem haltComplete_live {s : State} {p : Nat} {q : Part} {byEn : Bool} (h : cfind s.parts p = some q) (hrung : q.rung = .halt byEn)
    (hlive : liveCtx s p = true) :
    exec (.haltComplete p) s = .next (goOn (saveCtx (holdAges s p q.running q.rungAt) p q.running) p byEn) := by
  show execHaltComplete p s = _
  unfold execHaltComplete
  dsimp only
  rw [partOf_of h, hrung]
  exact if_neg (by simp [hlive])

theorem killExpiry_due {s : State} {p : Nat} {q : Part} {byEn : Bool} (h : cfind s.parts p = some q) (hrung : q.rung = .halt byEn)
    (hlive : liveCtx s p = true) (hdue : q.rungAt + q.desc.kill ≤ s.clk) :
    exec (.killExpiry p) s = .next (goOn (setAside (killLogged s p q.running 0 0 (if s.emergency = none then 1 else 4)) p q.running) p byEn) := by
  have hcause : (if s.emergency.isSome = true then 4 else 1 : DWord) = if s.emergency = none then 1 else 4 := by
    cases s.emergency <;> rfl
  show execKillExpiry p s = _
  unfold execKillExpiry
  dsimp only
  rw [partOf_of h, hrung, hcause]
  exact if_neg (by simp [hlive, Nat.not_lt.2 hdue])

theorem goOn_stays {s : State} {p : Nat} (byEn : Bool) (h : (partOf s p).en = false ∨ s.boot.powered = false ∨ s.emergency ≠ none) :
    goOn s p byEn = modPart s p fun q => { q with rung := .halt byEn } := by
  unfold goOn
  exact if_pos (by
    obtain h | h | h := h
    · simp [h]
    · simp [h]
    · simp [Option.isSome_iff_ne_none.2 h])

theorem mem_holdAges {s : State} {p c start : Nat} {r : TaskRec} (hr : r ∈ s.recs) (hp : r.part = p) (hc : r.ctx = c) (hq : r.queued = true) :
    { r with queuedAt := r.queuedAt + (s.clk - max start r.queuedAt) } ∈ (holdAges s p c start).recs :=
  List.mem_map.2 ⟨r, hr, if_pos (by simp [hp, hc, hq])⟩

/-! ### The emergency -/

theorem mem_cset {α : Type} {c : Cells α} {k : Nat} {v : α} {e : Nat × α} (h : e ∈ cset c k v) : e = (k, v) ∨ e ∈ c := by
  induction c with
  | nil => exact .inl (List.mem_singleton.1 h)
  | cons q c ih =>
    unfold cset at h
    split at h
    · exact List.mem_cons.1 h
    · split at h
      · exact (List.mem_cons.1 h).imp id (List.mem_cons_of_mem _)
      · obtain h | h := List.mem_cons.1 h
        · exact .inr (h ▸ List.mem_cons_self)
        · exact (ih h).imp id (List.mem_cons_of_mem _)

/-- A change of a partition makes none. -/
theorem key_of_modPart {s : State} {p k : Nat} {f : Part → Part} (h : k ∈ (modPart s p f).parts.map Prod.fst) : k ∈ s.parts.map Prod.fst := by
  unfold modPart at h
  cases hp : cfind s.parts p with
  | none => rwa [hp] at h
  | some q =>
    rw [hp] at h
    obtain ⟨e, he, rfl⟩ := List.mem_map.1 h
    obtain rfl | he := mem_cset he
    · exact List.mem_map.2 ⟨_, mem_of_cfind hp, rfl⟩
    · exact List.mem_map.2 ⟨e, he, rfl⟩

theorem foldl_climb_keeps (ps : List Nat) (s : State) :
    (ps.foldl climb s).emergency = s.emergency ∧ ∀ k ∈ (ps.foldl climb s).parts.map Prod.fst, k ∈ s.parts.map Prod.fst := by
  induction ps generalizing s with
  | nil => exact ⟨rfl, fun _ h => h⟩
  | cons p ps ih =>
    obtain ⟨he, hk⟩ := ih (climb s p)
    exact ⟨he.trans (modPart_emergency _ _ _), fun k h => key_of_modPart (hk k h)⟩

theorem thermalShutdown_climbs {die temp : Nat} {s : State} (hon : s.boot.powered = true) (hdie : die < Config.dies) (hcalm : s.emergency = none) :
    exec (.thermalShutdown die temp) s = .next ((s.parts.map Prod.fst).foldl climb { s with emergency := some (die, temp) }) := by
  show execThermalShutdown die temp s = _
  unfold execThermalShutdown
  exact if_neg (by simp [hon, hcalm, Nat.not_le.2 hdie])

theorem settleEmergency_over {s t : State} {die temp : Nat}
    (ht : t = (s.parts.map Prod.fst).foldl climb { s with emergency := some (die, temp) })
    (hover : (s.parts.map Prod.fst).any (liveCtx t) = false) : settleEmergency t = logAll
      { t with boot := { t.boot with powered := false }, emergency := none } 0x7A die 7 1 (BitVec.ofNat 64 temp) := by
  obtain ⟨he, hk⟩ := foldl_climb_keeps (s.parts.map Prod.fst) { s with emergency := some (die, temp) }
  rw [← ht] at he hk
  have hnone : (t.parts.map Prod.fst).any (liveCtx t) = false := List.any_eq_false.2 fun k h => List.any_eq_false.1 hover k (hk k h)
  unfold settleEmergency
  rw [he, hnone]
  rfl

/-! ### The resets -/

theorem bootUp_first {b : Boot} (h : slotStatus b 0 = 0) : (bootUp b).image = b.slots[0]? ∧ (bootUp b).status = 0 := by
  have h : slotStatus { b with powered := true, staged := [] } 0 = 0 := h
  unfold bootUp
  dsimp only
  rw [if_pos h]
  exact ⟨rfl, rfl⟩

theorem bootUp_second {b : Boot} (h0 : slotStatus b 0 ≠ 0) (h1 : slotStatus b 1 = 0) :
    (bootUp b).image = b.slots[1]? ∧ (bootUp b).status = 0 := by
  have h0 : slotStatus { b with powered := true, staged := [] } 0 ≠ 0 := h0
  have h1 : slotStatus { b with powered := true, staged := [] } 1 = 0 := h1
  unfold bootUp
  dsimp only
  rw [if_neg h0, if_pos h1]
  exact ⟨rfl, rfl⟩

theorem bootUp_none {b : Boot} (h0 : slotStatus b 0 ≠ 0) (h1 : slotStatus b 1 ≠ 0) : (bootUp b).image = none := by
  have h0 : slotStatus { b with powered := true, staged := [] } 0 ≠ 0 := h0
  have h1 : slotStatus { b with powered := true, staged := [] } 1 ≠ 0 := h1
  unfold bootUp
  dsimp only
  rw [if_neg h0, if_neg h1]

/-- R417: the partitions that outlast a power-on reset are at the reset of their registers. -/
theorem powerOn_parts {s : State} {q : Nat × Part} (h : q ∈ (powerOn s).parts) : ∃ k : Part, q.2 = k.afterShutdown s.clk := by
  have h : q ∈ (if (!s.boot.powered && decide ((bootUp s.boot).status = 0)) = true
    then s.parts.map fun q => (q.1, q.2.afterShutdown s.clk) else []) := h
  split at h
  · obtain ⟨k, _, rfl⟩ := List.mem_map.1 h
    exact ⟨k.2, rfl⟩
  · cases h

theorem parts_setLeaf (s : State) (p : Nat) (t va : DWord) (leaf : Nat) :
    (setLeaf s p t va leaf).parts = s.parts ∧ (setLeaf s p t va leaf).versions = s.versions := by
  unfold setLeaf
  dsimp only
  generalize (if dramOwned (partOf s p).desc (bits t.toNat 12 40 * 4096) = true then
    leafAddr s (partOf s p).desc (va.toNat % 2 ^ 57) walkLevels (bits t.toNat 12 40 * 4096) else none) = o
  cases o <;> exact ⟨rfl, rfl⟩

theorem parts_clearLeaf (s : State) (v : Version) (k : Nat) (t : DWord) :
    (clearLeaf s v k t).parts = s.parts ∧ (clearLeaf s v k t).versions = s.versions := by
  unfold clearLeaf
  dsimp only
  generalize walkBy s v.part t (v.imgva + BitVec.ofNat 64 (k * Config.pageBytes)) = o
  cases o with
  | error _ => exact ⟨rfl, rfl⟩
  | ok e =>
    dsimp only
    split
    · exact parts_setLeaf _ _ _ _ _
    · exact ⟨rfl, rfl⟩

theorem foldl_fieldKept {α β : Type} {F : State → β} {f : State → α → State} (hf : ∀ s a, F (f s a) = F s) (as : List α) (s : State) :
    F (as.foldl f s) = F s := by
  induction as generalizing s with
  | nil => rfl
  | cons a as ih => exact (ih _).trans (hf _ _)

theorem parts_freeVersion (s : State) (v : Version) : (freeVersion s v).parts = s.parts :=
  foldl_fieldKept (F := State.parts) (fun s t => foldl_fieldKept (F := State.parts) (fun s k => (parts_clearLeaf s v k t).1) _ s) _ s

theorem versions_freeVersion (s : State) (v : Version) : (freeVersion s v).versions = s.versions.filter fun w => w.id ≠ v.id :=
  congrArg (List.filter fun w : Version => decide (w.id ≠ v.id)) (foldl_fieldKept (F := State.versions)
    (fun s t => foldl_fieldKept (F := State.versions) (fun s k => (parts_clearLeaf s v k t).2) (List.range v.frames.length) s) (v.roots s) s)

theorem mem_foldl_freeVersion {vs : List Version} {s : State} {w : Version} (h : w ∈ (vs.foldl freeVersion s).versions) :
    w ∈ s.versions ∧ w ∉ vs := by
  induction vs generalizing s with
  | nil => exact ⟨h, List.not_mem_nil⟩
  | cons v vs ih =>
    obtain ⟨hw, hvs⟩ := ih h
    rw [versions_freeVersion] at hw
    obtain ⟨hw, hid⟩ := List.mem_filter.1 hw
    refine ⟨hw, fun hmem => ?_⟩
    obtain rfl | hmem := List.mem_cons.1 hmem
    · exact of_decide_eq_true hid rfl
    · exact hvs hmem

/-- `t` holds of a partition's registers, and of versions, what the reset of the partition needs of `s`. -/
structure ResetKept (p : Nat) (s t : State) : Prop where
  found : (cfind s.parts p).isSome = true → (cfind t.parts p).isSome = true
  desc : (partOf t p).desc = (partOf s p).desc
  versions : t.versions = s.versions

theorem ResetKept.trans {p : Nat} {s t u : State} (h : ResetKept p s t) (k : ResetKept p t u) : ResetKept p s u :=
  ⟨fun hs => k.found (h.found hs), k.desc.trans h.desc, k.versions.trans h.versions⟩

theorem ResetKept.of_eq {p : Nat} {s t : State} (h : t.parts = s.parts) (k : t.versions = s.versions) : ResetKept p s t :=
  ⟨fun hs => by rwa [h], by unfold partOf; rw [h], k⟩

theorem ResetKept.foldl {α : Type} {p : Nat} {f : State → α → State} (hf : ∀ s a, ResetKept p s (f s a)) (as : List α) (s : State) :
    ResetKept p s (as.foldl f s) := by
  induction as generalizing s with
  | nil => exact .of_eq rfl rfl
  | cons a as ih => exact (hf s a).trans (ih _)

theorem found_modPart {s : State} {p k : Nat} {f : Part → Part} (h : (cfind s.parts k).isSome = true) :
    (cfind (modPart s p f).parts k).isSome = true := by
  unfold modPart
  split
  · rw [cfind_cset]
    split
    · rfl
    · exact h
  · exact h

theorem resetKept_modPart {f : Part → Part} (hf : ∀ q, (f q).desc = q.desc) (s : State) (p k : Nat) : ResetKept k s (modPart s p f) :=
  ⟨found_modPart, partField_modPart hf s p k, modPart_versions s p f⟩

theorem resetKept_landed {p : Nat} {s t : State} (h : Landed s t) : ResetKept p s t := .of_eq (by rw [h]) (by rw [h])

theorem landed_landAll (s : State) (p : Nat) (mine : Nat → Bool) : Landed s (landAll s p mine) := landed_landWhere s _ _

theorem resetKept_killCtx (p c : Nat) (s : State) : ResetKept p s (killCtx s p c) := by
  have hleave (bs : List Block) : ResetKept p s (bs.foldl leaveCore s) := ResetKept.foldl (f := leaveCore) (fun _ _ => .of_eq rfl rfl) bs s
  have hland (t : State) : ResetKept p t (landAll (discardCmds t fun k => k.part = p && k.ctx = c) p fun k => k = c) :=
    (ResetKept.of_eq (s := t) (t := discardCmds t fun k => k.part = p && k.ctx = c) rfl rfl).trans (resetKept_landed (landed_landAll _ p _))
  unfold killCtx
  dsimp only
  refine (((hleave (s.blocks.filter fun b => b.part = p && b.ctx = c)).trans (hland _)).trans ?_).trans (resetKept_modPart ?_ _ p p)
  · exact .of_eq rfl rfl
  · exact fun _ => rfl

/-- A core of a partition at reset. -/
theorem resetKept_core (p : Nat) (s : State) (n : Nat) :
    ResetKept p s (if (cfind s.cores n).isSome then modCore s n fun _ => {} else s) := by
  split <;> exact .of_eq rfl rfl

/-- What a partition's reset leaves of its registers. -/
def partReset (d : Desc) (q : Part) : Part :=
  { desc := d.timersReset, log := q.log, seq := q.seq, eps := q.eps.filter fun e => e.control, loans := q.loans }

/-- R8: the state as the reset of a partition finds it once versions, contexts and cores are gone. -/
theorem partitionReset_clauses {p : Nat} {s : State} (hp : (cfind s.parts p).isSome = true) :
    (partOf (resetPart s p) p).en = false ∧ (partOf (resetPart s p) p).ctxs = [] ∧ (partOf (resetPart s p) p).queue = [] ∧
    (∀ v ∈ (resetPart s p).versions, v.part ≠ p) ∧
    (partOf (resetPart s p) p).desc = { (partOf s p).desc with grace := 9000, kill := 60000, slice := 0 } ∧
    (∀ w ∈ (resetPart s p).fmt, w.2.part ≠ p) ∧ ∀ e ∈ (resetPart s p).dsp, windowRel (partOf s p).desc e.1 = none := by
  have hparts : ((s.versions.filter fun v => v.part = p).foldl freeVersion s).parts = s.parts :=
    foldl_fieldKept (F := State.parts) parts_freeVersion _ s
  generalize hfreed : (s.versions.filter fun v => v.part = p).foldl freeVersion s = f at hparts
  have hkept := (ResetKept.foldl (f := fun s c => killCtx s p c) (fun s c => resetKept_killCtx p c s) ((partOf f p).ctxs.map Prod.fst) f)
  have hcores (t : State) := ResetKept.foldl (f := fun s n => if (cfind s.cores n).isSome then modCore s n fun _ => {} else s)
    (resetKept_core p) (coresOf t p) t
  have hkept := hkept.trans (hcores _)
  have hf : (cfind f.parts p).isSome = true := by rwa [hparts]
  unfold resetPart
  dsimp only
  rw [hfreed]
  generalize ((coresOf (((partOf f p).ctxs.map Prod.fst).foldl (fun s c => killCtx s p c) f) p).foldl
    (fun s n => if (cfind s.cores n).isSome then modCore s n fun _ => {} else s)
    (((partOf f p).ctxs.map Prod.fst).foldl (fun s c => killCtx s p c) f)) = t at hkept
  obtain ⟨q, hq⟩ := Option.isSome_iff_exists.1 (hkept.found hf)
  unfold modPart
  dsimp only
  rw [hq]
  dsimp only
  rw [partOf_of (q := partReset (partOf s p).desc q) (by dsimp only; rw [cfind_cset, if_pos rfl]; rfl)]
  refine ⟨rfl, rfl, rfl, fun v hv hvp => ?_, rfl, fun w hw => of_decide_eq_true (List.mem_filter.1 hw).2, fun e he =>
    Option.isNone_iff_eq_none.1 (List.mem_filter.1 he).2⟩
  have hv : v ∈ t.versions := hv
  rw [hkept.versions, ← hfreed] at hv
  obtain ⟨hold, hnot⟩ := mem_foldl_freeVersion hv
  exact hnot (List.mem_filter.2 ⟨hold, decide_eq_true hvp⟩)

/-- Settles O48, event by event: the guard of each is decided by its hypotheses, and what resets fold over keeps the partition. -/
theorem ladderEvents : Obligations.LadderEvents := by
  refine ⟨fun a s hup => ⟨fun q hq hc => ?_, fun hp hc => ?_⟩, fun p q s hq => ⟨?_, ?_, ?_, fun byEn hrung hlive => ⟨?_, ?_⟩⟩,
    fun s p c start r => mem_holdAges, fun s p byEn => goOn_stays byEn, fun die temp s hon hdie hcalm => ?_,
    fun s p q hq => modPart_of hq _, fun s => ⟨_, rfl, rfl, rfl, rfl, rfl, rfl, bootUp_first, bootUp_second, bootUp_none, ?_⟩,
    fun p s hp => ?_⟩
  · have hp : (cfind s.parts a.part).isSome = true := by rw [hq]; rfl
    have hclear : exec (.pctlEnClear a) s = .next (clearEn (replyWith s true []) a.part) :=
      congrArg Host.Outcome.next (controlAccess_served _ hup hp hc)
    have hset : exec (.pctlEnSet a) s = .next (setEn (replyWith s true []) a.part) :=
      congrArg Host.Outcome.next (controlAccess_served _ hup hp hc)
    have hq : cfind (replyWith s true []).parts a.part = some q := hq
    refine ⟨fun hen hrung => ?_, fun hno => ?_, fun hrung => ?_, fun hrung hok => ?_, fun _ hhot => ?_⟩
    · rw [hclear, clearEn_begins hq hen hrung]
      rfl
    · rw [hclear, clearEn_climbing hq hno]
      rfl
    · rw [hset, setEn_idle hq hrung]
      rfl
    · rw [hset, setEn_soft hq hrung hok]
      rfl
    · rw [hset, setEn_emergency hq hhot]
      rfl
  · exact ⟨congrArg Host.Outcome.next (controlAccess_refused _ hup hp hc), congrArg Host.Outcome.next (controlAccess_refused _ hup hp hc)⟩
  · intro hen hrung hslice hdue hlive hres
    rw [sliceExpiry_due hq hen hrung hslice hdue hlive, if_pos hres, modPart_of hq]
  · intro hen hrung hslice hdue hlive hres
    rw [sliceExpiry_due hq hen hrung hslice hdue hlive, hres, if_neg Bool.false_ne_true]
  · exact fun byEn hrung => graceExpiry_due hq hrung
  · exact haltComplete_live hq hrung hlive
  · exact fun hdue => killExpiry_due hq hrung hlive hdue
  · exact ⟨_, thermalShutdown_climbs hon hdie hcalm, rfl, settleEmergency_over rfl⟩
  · intro q hq
    obtain ⟨k, hk⟩ := powerOn_parts hq
    rw [hk]
    exact ⟨rfl, rfl, rfl, rfl, rfl⟩
  · exact ⟨_, congrArg Host.Outcome.next (if_pos hp), partitionReset_clauses hp⟩

end Sys2Proof.Proofs
end
section
/-! PROOF of O49 (chapters 2 to 4): launches, nodes, placement, swaps, rounds, moves, records and grows, each event through its guard. -/

namespace Sys2Proof.Proofs

open Sys2Proof Sys2Proof.Machine Sys2Proof.Claims Sys2Proof.Laws

/-! ### Launches and nodes -/

theorem startLaunch_runs {s : State} {p c slot : Nat} {g : Graph} {v : Version} {w : DWord} (hplaces : places s p c = true)
    (hen : (partOf s p).en = true)
    (hnone : ∀ l ∈ (partOf s p).launches, ¬(l.ctx = c ∧ l.graph = slot ∧ wordGen l.word = wordGen w))
    (hg : cfind (ctxOf s p c).graphs slot = some g) (hlive : g.live = true) (hv : versionOf s g.ver = some v)
    (hw : (partOf s p).queue.find? (fun w => wordCtx w = c && wordSlot w = slot) = some w) :
    startLaunch s p c slot =
      copyFrame (if (partOf s p).launches = [] then
        thaw (modPart s p fun q => { q with
          queue := q.queue.erase w
          launches := q.launches ++ [{ idx := freeIndex (partOf s p), ctx := c, graph := slot, ver := v.id, word := w,
                                       seq := (partOf s p).launchSeq, nodes := v.nodes.map fun _ => {} }]
          launchSeq := q.launchSeq + 1 }) p
      else modPart s p fun q => { q with
          queue := q.queue.erase w
          launches := q.launches ++ [{ idx := freeIndex (partOf s p), ctx := c, graph := slot, ver := v.id, word := w,
                                       seq := (partOf s p).launchSeq, nodes := v.nodes.map fun _ => {} }]
          launchSeq := q.launchSeq + 1 }) p v w := by
  have hver : ((some g).bind fun g => if g.live then versionOf s g.ver else none) = some v := by
    rw [Option.bind_some, hlive, if_pos rfl, hv]
  have hidle : ((partOf s p).launches.any fun l => l.ctx = c && l.graph = slot && wordGen l.word = wordGen w) = false :=
    List.any_eq_false.2 fun l hl h => hnone l hl (by simpa [and_assoc] using h)
  unfold startLaunch
  dsimp only
  rw [hg, hver, hw]
  dsimp only
  rw [hplaces, hen, hidle]
  refine (if_neg (by simp)).trans (congrArg (fun t => copyFrame t p v w) ?_)
  exact if_congr (Q := (partOf s p).launches = []) List.isEmpty_iff rfl rfl

theorem startNode_ready {s : State} {p idx node : Nat} {l : Launch} {v : Version} {r : NodeRun} (hl : launchOf s p idx = some l)
    (hv : versionOf s l.ver = some v) (hr : l.nodes[node]? = some r) (hnew : r.started = false) (hplaces : places s p l.ctx = true)
    (hroot : node = 0 ∨ depsOf v node ≠ []) (hdeps : ∀ j ∈ depsOf v node, nodeEnded s p l j = true) :
    startNode s p idx node =
      if (startsWith v node).all fun n => (nodeKernel v n).any (placeable s p l.ctx) then (startsWith v node).foldl (beginNode p l v) s
      else rejectLaunch s p l := by
  have hlone : (decide (node ≠ 0) && (depsOf v node).isEmpty) = false := by
    obtain rfl | h := hroot
    · rfl
    · rw [isEmpty_false_of h, Bool.and_false]
  unfold startNode
  rw [hl]
  dsimp only
  rw [hv, hr]
  dsimp only
  rw [hnew, hplaces, hlone, List.all_eq_true.2 hdeps]
  rfl

theorem mem_depsOf {v : Version} {node : Nat} {n : Node} (k : Nat) (h : v.nodes[node]? = some n) :
    k ∈ depsOf v node ↔ k < 64 ∧ n.deps.testBit k = true := by
  unfold depsOf
  rw [List.mem_filter, List.mem_range, h]
  refine and_congr_right fun _ => ?_
  rw [Nat.testBit_eq_decide_div_mod_eq]
  simp [bits]

/-! ### The end of a launch -/

theorem endLaunch_ended {s : State} {p idx : Nat} {l : Launch} {v : Version} (hl : launchOf s p idx = some l)
    (hv : versionOf s l.ver = some v) (hall : ∀ n, n < l.nodes.length → nodeEnded s p l n = true) (hrel : unreleased s p = false)
    {r : State × DonePlace} (hr : (if wordNotify l.word then donePlace s p l.ctx v.trc v.done else (s, .lost)) = r) :
    endLaunch s p idx = if r.2 = .wait then s else retireGraph (if wordNotify l.word then
      writeDone (modPart r.1 p fun q => { q with launches := q.launches.filter fun k => k.idx ≠ idx, doneCnt := q.doneCnt + 1 }) p l v r.2
      else modPart r.1 p fun q => { q with launches := q.launches.filter fun k => k.idx ≠ idx, doneCnt := q.doneCnt + 1 }) v := by
  have hended : ((List.range l.nodes.length).all fun n => nodeEnded s p l n) = true :=
    List.all_eq_true.2 fun n hn => hall n (List.mem_range.1 hn)
  unfold endLaunch
  rw [hl]
  dsimp only
  rw [hv]
  dsimp only
  rw [hended, hrel, hr]
  rfl

theorem versionFree_unused {s : State} {ver : Nat} {v : Version} (hv : versionOf s ver = some v) (hused : versionUsed s ver = false) :
    exec (.versionFree ver) s = .next (freeVersion s v) := by
  show execVersionFree ver s = _
  unfold execVersionFree
  rw [hv]
  dsimp only
  rw [hused]
  rfl

/-- R369: no translation that reaches a frame of the version alone stays. -/
theorem freeVersion_tlb {s : State} {v : Version} {f : Nat} {e : TlbEntry} (hf : f ∈ v.frames)
    (halone : ∀ w ∈ s.versions, w.id ≠ v.id → f ∉ w.frames) (he : e ∈ (freeVersion s v).tlb) :
    e.pa + e.size ≤ f * 65536 ∨ f * 65536 + 65536 ≤ e.pa := by
  have hvers (t : State) (hs : t.versions = s.versions) : f ∈ v.frames.filter fun f => !(t.versions.any fun w => w.id ≠ v.id && w.frames.contains f) := by
    refine List.mem_filter.2 ⟨hf, ?_⟩
    rw [hs, Bool.not_eq_true', List.any_eq_false]
    intro w hw h
    rw [Bool.and_eq_true, decide_eq_true_iff, List.contains_iff_mem] at h
    exact halone w hw h.1 h.2
  have hkept : ((v.roots s).foldl (fun s t => (List.range v.frames.length).foldl (fun s k => clearLeaf s v k t) s) s).versions = s.versions :=
    foldl_fieldKept (F := State.versions) (fun s t => foldl_fieldKept (F := State.versions) (fun s k => (parts_clearLeaf s v k t).2)
      (List.range v.frames.length) s) (v.roots s) s
  have hno := (List.mem_filter.1 he).2
  rw [Bool.not_eq_true', List.any_eq_false] at hno
  have hmiss := hno f (hvers _ hkept)
  rw [Bool.and_eq_true, decide_eq_true_iff, decide_eq_true_iff, not_and_or, Nat.not_lt, Nat.not_lt] at hmiss
  exact hmiss.symm

theorem launchEvents : LaunchEvents := by
  refine ⟨fun p c slot s v w g hplaces hen hnone hg hlive hv hw => ?_, fun p idx node s l v r hl hv hr hnew hplaces hroot hdeps => ?_,
    fun v node n k h => mem_depsOf k h, fun p l v s node n k hn hk => ?_, fun p idx node s t ht hrung => ?_,
    fun p idx node s l t hres hl hplaces hnone ht => ?_, fun p idx s l v hl hv hall hrel => ⟨fun hquiet => ?_, fun u pl hnote hdone => ?_,
    fun u hnote hdone => ?_, fun u hnote hdone => ?_⟩, fun ver v s hv hused => ?_⟩
  · exact congrArg Host.Outcome.next (startLaunch_runs hplaces hen hnone hg hlive hv hw)
  · have hstart : exec (.nodeStart p idx node) s = .next (startNode s p idx node) := rfl
    rw [hstart, startNode_ready hl hv hr hnew hplaces hroot hdeps]
    refine ⟨fun hfit => ?_, fun ⟨n, hn, hno⟩ => ?_⟩
    · refine congrArg Host.Outcome.next (if_pos (List.all_eq_true.2 fun n hn => ?_))
      obtain ⟨k, hk, hplace⟩ := hfit n hn
      rw [hk]
      exact hplace
    · refine congrArg Host.Outcome.next (if_neg fun h => ?_)
      obtain ⟨k, hk, hplace⟩ := (Option.any_eq_true _ _).1 (List.all_eq_true.1 h n hn)
      exact Bool.false_ne_true ((hno k hk).symm.trans hplace)
  · unfold beginNode
    rw [hk, hn]
    rfl
  · show Host.Outcome.next (placeNode s p idx node) = _
    unfold placeNode
    rw [ht]
    exact congrArg Host.Outcome.next (if_pos hrung)
  · have hno : resumeBlock s p = none := by
      unfold resumeBlock
      rw [hres]
    show Host.Outcome.next (placeNode s p idx node) = _
    unfold placeNode
    rw [hno, hl]
    dsimp only
    rw [hplaces, hnone, hres, ht]
    rfl
  · refine congrArg Host.Outcome.next ((endLaunch_ended hl hv hall hrel (r := (s, .lost)) (if_neg (by simp [hquiet]))).trans ?_)
    rw [if_neg (by simp), hquiet]
    rfl
  · refine congrArg Host.Outcome.next ((endLaunch_ended hl hv hall hrel (r := (u, .ok pl)) ((if_pos hnote).trans hdone)).trans ?_)
    rw [if_neg (by simp), hnote]
    rfl
  · refine congrArg Host.Outcome.next ((endLaunch_ended hl hv hall hrel (r := (u, .lost)) ((if_pos hnote).trans hdone)).trans ?_)
    rw [if_neg (by simp), hnote]
    rfl
  · refine congrArg Host.Outcome.next ((endLaunch_ended hl hv hall hrel (r := (u, .wait)) ((if_pos hnote).trans hdone)).trans ?_)
    exact if_pos rfl
  · refine ⟨_, versionFree_unused hv hused, rfl, fun w hw => ?_, fun f hf halone e he => freeVersion_tlb hf halone he⟩
    rw [versions_freeVersion] at hw
    have hid : v.id = ver := of_decide_eq_true (List.find?_some (p := fun v : Version => decide (v.id = ver)) hv)
    rw [← hid]
    exact of_decide_eq_true (List.mem_filter.1 hw).2

/-! ### Swaps -/

theorem swapFree_iff (s : State) (core sub : Nat) : swapFree s core sub = true ↔ ∀ k, cfind (coreOf s core).swapAt sub = some k → k < s.clk := by
  unfold swapFree
  rw [Option.all_eq_true]
  exact forall₂_congr fun k _ => decide_eq_true_iff

theorem swapFree_taken {s : State} {core sub : Nat} (h : ∃ k, cfind (coreOf s core).swapAt sub = some k ∧ s.clk ≤ k) :
    ¬(swapFree s core sub = true) := fun hfree => by
  obtain ⟨k, hk, hlt⟩ := h
  exact Nat.not_lt.2 hlt ((swapFree_iff s core sub).1 hfree k hk)

/-- R40: what a swap does when one group goes out and one comes in. -/
theorem groupSwap_pair {s : State} {core sub : Nat} {out inn : Nat × Nat × Group}
    (hout : lowestBy (fun q => q.2.2.blockedAt) (fun q => q.2.2.since) (onSub s core sub (blocked s)) = some out)
    (hinn : lowestBy (fun q => q.2.2.since) (fun q => q.1) (onSub s core sub fun _ g => g.waiting) = some inn) :
    groupSwap s core sub = if swapFree s core sub then swapGroups s core sub out inn else s := by
  unfold groupSwap
  dsimp only
  rw [hout, hinn]

theorem ageSwap_pair {s : State} {core sub : Nat} {out inn : Nat × Nat × Group}
    (hout : lowestBy (fun q => q.2.2.since) (fun q => q.1) (onSub s core sub fun _ g => g.active && !g.ended) = some out)
    (hinn : lowestBy (fun q => q.2.2.since) (fun q => q.1) (onSub s core sub fun _ g =>
      g.waiting && g.wasReady && decide (max g.mark g.since + 256 ≤ s.clk)) = some inn) :
    ageSwap s core sub = if swapFree s core sub then swapGroups s core sub out inn else s := by
  unfold ageSwap Group.overdue
  dsimp only
  rw [hout, hinn]

/-- R40: a lane that is free, is held for a supervisor, or waits at a fence keeps its group from being blocked. -/
theorem blocked_of_free {s : State} {b : Block} {g : Group} {i : Nat} (hi : i ∈ g.live)
    (h : (g.lane i).hold = .none ∨ (∃ next va, (g.lane i).hold = .svc next va) ∨ (g.lane i).hold = .retry .fence) :
    blocked s b g = false := by
  have hlane : waitsBlocked s b g i = false := by
    unfold waitsBlocked
    dsimp only
    obtain h | ⟨_, _, h⟩ | h := h <;> rw [h]
  have hall : g.live.all (waitsBlocked s b g) = false := List.all_eq_false.2 ⟨i, hi, by simp [hlane]⟩
  unfold blocked
  rw [hall, Bool.and_false]

theorem blocked_of_waits {s : State} {b : Block} {g : Group} (hactive : g.active = true) (hlive : g.ended = false) (hstop : g.stop = none)
    (h : ∀ i ∈ g.live, (∃ k next y q, (g.lane i).hold = .slot k next y q) ∨ (∃ next, (g.lane i).hold = .fe next) ∨
      (g.lane i).hold = .pool ∨ (g.lane i).hold = .retry .lease ∨ (∃ next, (g.lane i).hold = .rega next)) : blocked s b g = true := by
  have hall : g.live.all (waitsBlocked s b g) = true := by
    refine List.all_eq_true.2 fun i hi => ?_
    unfold waitsBlocked
    dsimp only
    obtain ⟨_, _, _, _, h⟩ | ⟨_, h⟩ | h | h | ⟨_, h⟩ := h i hi <;> rw [h]
  unfold blocked
  rw [hactive, hlive, hstop, hall]
  rfl

/-! ### Rounds and moves -/

theorem regroupTimeout_due {s : State} {blk : Nat} {b : Block} {r : Round} (hb : blockOf s blk = some b) (hr : b.round = some r)
    (hwait : (ctxOf s b.part b.ctx).grgWait ≠ 0) (hruns : runs s b.part b.ctx = true)
    (hdue : r.start + (ctxOf s b.part b.ctx).grgWait.toNat ≤ s.clk) :
    exec (.regroupTimeout blk) s = .next (closeRound (countEvent s b.part b.ctx 0x054 1) blk) := by
  have hne : (ctxOf s b.part b.ctx).grgWait.toNat ≠ 0 := fun h => hwait (BitVec.eq_of_toNat_eq h)
  show execRegroupTimeout blk s = _
  unfold execRegroupTimeout
  rw [hb]
  exact congrArg Host.Outcome.next (if_pos (by simp [hr, hruns, hne, hdue]))

theorem sameClassMove_taken {s t : State} {blk core : Nat} {b : Block} {k : Kernel} (hb : blockOf s blk = some b) (hk : kernelOf s b = some k)
    (hplaces : places s b.part b.ctx = true) (hmov : movable s b = true)
    (hstays : Config.constOf core = Config.constOf b.core ∨ b.alone k = true) (hclass : Config.isLCore core = b.lbody)
    (hown : core ∈ coresOf s b.part) (hne : core ≠ b.core) (hmove : moveSame s b core = some t) :
    exec (.sameClassMove blk core) s = .next (if gathers s t b core = true then t else s) := by
  have hok : (places s b.part b.ctx && movable s b && (decide (Config.constOf core = Config.constOf b.core) || (kernelOf s b).any b.alone) &&
      decide (Config.isLCore core = b.lbody) && (coresOf s b.part).contains core && decide (core ≠ b.core)) = true := by
    rw [hk]
    simp [hplaces, hmov, hstays, hclass, hown, hne]
  show execSameClassMove blk core s = _
  unfold execSameClassMove
  rw [hb]
  dsimp only
  rw [if_pos hok, hmove]

/-! ### Migrations -/

theorem rdvCore_kept {s : State} {b : Block} {r : Rendezvous} {n : Nat} (ht : r.target = some n) (hown : n ∈ coresOf s b.part) :
    rdvCore s b r = some n := by
  unfold rdvCore
  rw [ht, Option.filter_some_pos (List.contains_iff_mem.2 hown)]

theorem servedBefore_none {s : State} {b : Block} {r : Rendezvous}
    (h : ∀ o ∈ s.blocks, o.part = b.part → ∀ q, o.rdv = some q → q.ready = true → q.kind ≠ 2 → q.target = none → q.order < r.order →
      issues s o = true → rdvTarget s o = none) : servedBefore s b r = false := by
  refine List.any_eq_false.2 fun o ho hserved => ?_
  rw [Bool.and_eq_true, Bool.and_eq_true, Bool.and_eq_true, Option.any_eq_true] at hserved
  obtain ⟨⟨⟨hpart, q, hq, hwait⟩, hiss⟩, hroom⟩ := hserved
  rw [Bool.and_eq_true, Bool.and_eq_true, Bool.and_eq_true, decide_eq_true_iff, decide_eq_true_iff, Option.isNone_iff_eq_none] at hwait
  obtain ⟨⟨⟨hready, hkind⟩, htarget⟩, horder⟩ := hwait
  rw [h o ho (of_decide_eq_true hpart) q hq hready hkind htarget horder hiss] at hroom
  cases hroom

theorem rdvCore_chosen {s : State} {b : Block} {r : Rendezvous} {k : Kernel} (hk : kernelOf s b = some k) (ht : r.target = none)
    (h : r.kind = 2 ∨ servedBefore s b r = false) :
    rdvCore s b r = moveTarget s (classFits s b k (!b.lbody)) (!b.lbody) (moveScope s b k) := by
  have hno : ¬((decide (r.kind ≠ 2) && servedBefore s b r) = true) := by
    obtain h | h := h <;> simp [h]
  unfold rdvCore rdvTarget
  rw [ht, hk]
  exact if_neg hno

theorem migrate_chosen {s : State} {blk n : Nat} {b : Block} {r : Rendezvous} {v : Version} {k : Kernel} {e : Eqp}
    (hb : blockOf s blk = some b) (hr : b.rdv = some r) (hv : versionOf s b.ver = some v) (hk : kernelOf s b = some k)
    (hready : r.ready = true) (hiss : issues s b = true) (he : k.eqps.find? (fun e => e.id = r.eqp) = some e)
    (hcore : rdvCore s b r = some n) : exec (.migrate blk) s =
      .next (if opsDone s b then (migrateBlock s b v k e n).getD (setTarget s blk none) else setTarget s blk (some n)) := by
  show execMigrate blk s = _
  unfold execMigrate
  rw [hb]
  dsimp only
  rw [hr, hv, hk]
  dsimp only
  rw [hready, hiss, he, hcore]
  rfl

theorem migrate_noRoom {s : State} {blk : Nat} {b : Block} {r : Rendezvous} {v : Version} {k : Kernel}
    (hb : blockOf s blk = some b) (hr : b.rdv = some r) (hv : versionOf s b.ver = some v) (hk : kernelOf s b = some k)
    (hready : r.ready = true) (hiss : issues s b = true) (hcore : rdvCore s b r = none) :
    exec (.migrate blk) s = .next (if r.kind = 2 then rdvContinue s blk else s) := by
  show execMigrate blk s = _
  unfold execMigrate
  rw [hb]
  dsimp only
  rw [hr, hv, hk]
  dsimp only
  rw [hready, hiss, hcore]
  cases k.eqps.find? fun e => e.id = r.eqp <;> rfl

/-! ### Records and grows -/

/-- R84: with a core for every queued record, and no saved block that waits, a core's own queue comes first. -/
theorem claim_eq {s : State} {core p : Nat} (hown : ownerOf s core = some p) (hres : (partOf s p).resume = [])
    (hfits : ∀ r ∈ claimable s p, recCores s r ≠ []) :
    claim s core = match (ownHead (claimable s p) core).bind fun r => placeRec s r core with
      | some t => countEvent t p (partOf s p).running 0x050 1
      | none => match stealFrom s (claimable s p) core with
        | some t => countEvent (countEvent t p (partOf s p).running 0x050 1) p (partOf s p).running 0x051 1
        | none => s := by
  have hnone : ((claimable s p).filter fun r => (recCores s r).isEmpty) = [] :=
    List.filter_eq_nil_iff.2 fun r hr h => hfits r hr (List.isEmpty_iff.1 h)
  unfold claim
  rw [hown]
  dsimp only
  rw [hnone, List.foldl_nil, hres]
  rfl

theorem scheduleEvents : ScheduleEvents := by
  refine ⟨fun core sub s out inn => ⟨fun hout hinn => ⟨fun hfree => ?_, fun htaken => ?_⟩, fun hout hinn => ⟨fun hfree => ?_, fun htaken => ?_⟩⟩,
    fun s b g i hi h => blocked_of_free hi h, fun s b g hactive hlive hstop h => blocked_of_waits hactive hlive hstop h,
    fun blk s b r hb hr hwait hruns hdue => regroupTimeout_due hb hr hwait hruns hdue,
    fun blk core s b t k hb hk hplaces hmov hstays hclass hown hne hmove =>
      sameClassMove_taken hb hk hplaces hmov hstays hclass hown hne hmove,
    fun blk s b r v k hb hr hv hk hready hiss => ⟨fun n ht hown => rdvCore_kept ht hown, fun ht h =>
      rdvCore_chosen hk ht (h.imp id servedBefore_none), fun e n he hcore => ⟨fun t hdone hmig => ?_, fun hbusy => ?_⟩,
      fun hcore => migrate_noRoom hb hr hv hk hready hiss hcore⟩,
    fun core p r s t hown hres hfits hhead hplace => ?_, fun core p s t hown hres hfits hnone hsteal => ?_,
    fun n s => ⟨_, rfl, List.length_map _, fun k r hr => ?_⟩, fun core r rest s t hqueue hgrow => ?_⟩
  · refine congrArg Host.Outcome.next ((groupSwap_pair hout hinn).trans ?_)
    rw [if_pos ((swapFree_iff s core sub).2 hfree)]
    rfl
  · exact congrArg Host.Outcome.next ((groupSwap_pair hout hinn).trans (if_neg (swapFree_taken htaken)))
  · refine congrArg Host.Outcome.next ((ageSwap_pair hout hinn).trans ?_)
    rw [if_pos ((swapFree_iff s core sub).2 hfree)]
    rfl
  · exact congrArg Host.Outcome.next ((ageSwap_pair hout hinn).trans (if_neg (swapFree_taken htaken)))
  · rw [migrate_chosen hb hr hv hk hready hiss he hcore, hdone, if_pos rfl, hmig]
    rfl
  · rw [migrate_chosen hb hr hv hk hready hiss he hcore, hbusy, if_neg Bool.false_ne_true]
    rfl
  · refine congrArg Host.Outcome.next ((claim_eq hown hres hfits).trans ?_)
    rw [hhead, Option.bind_some, hplace]
  · have hown' : ((ownHead (claimable s p) core).bind fun r => placeRec s r core) = none := Option.bind_eq_none_iff.2 hnone
    refine congrArg Host.Outcome.next ((claim_eq hown hres hfits).trans ?_)
    rw [hown', hsteal]
  · refine (List.getElem?_map).trans ?_
    rw [hr]
    exact congrArg some (if_congr (Q := r.id = n ∧ r.queued = true ∧ places s r.part r.ctx = true ∧ r.queuedAt + r.age ≤ s.clk)
      (by simp [and_assoc]) rfl rfl)
  · show execRegaGrant core s = _
    unfold execRegaGrant
    rw [hqueue]
    dsimp only
    rewrite [hgrow]
    rfl

/-- Settles O49: its launches and its schedule, each event through the lemma about its guard. -/
theorem launchAndScheduleEvents : Obligations.LaunchAndScheduleEvents := ⟨launchEvents, scheduleEvents⟩

end Sys2Proof.Proofs
end
section
/-! REFUTATION of O50 (R279, R284, R412): a drain that meets a link that is down has written the pieces before it, so that the event of its
operation leaves another state, although the operation is not done. -/

namespace Sys2Proof.Proofs

open Sys2Proof Sys2Proof.Machine Sys2Proof.Claims Sys2Proof.Tests

/-- A drain whose first 16 bytes lie in DRAM, and the next in the pool, whose links are down. -/
def halfDrain : State :=
  { waitDrain with cmds := [{ drainCmd with kind := .mdrain (.global 131056) 0 256 false }] }

/-- The bytes that the commands of an outcome have done. -/
def doneLeft (o : Out) : Option (List Nat) :=
  match o with
  | .next t => some (t.cmds.map Cmd.done)
  | _ => none

theorem performOp_halfDrain : (performOp halfDrain 0 (.mdrain 1 0 5 0)).2 = false := by decide +kernel

theorem matrixOpComplete_halfDrain : doneLeft (exec (.matrixOpComplete 0) halfDrain) = some [16] := by decide +kernel

/-- Refutes O50: the event of the operation that waits moves the command on by 16 bytes. -/
theorem not_engineEvents : ¬ Obligations.EngineEvents := by
  rintro ⟨-, -, -, -, hwaits, -⟩
  have hsame := hwaits 0 (.mdrain 1 0 5 0) [] halfDrain _ rfl (Prod.ext rfl performOp_halfDrain)
  have hleft := matrixOpComplete_halfDrain
  rw [hsame] at hleft
  exact absurd hleft (by decide)

end Sys2Proof.Proofs
end
section
/-! PROOF of O51 (R307 to R310, R314, R316 to R318, R409): RMA, and the control and management windows. -/

namespace Sys2Proof.Proofs

open Sys2Proof Sys2Proof.Machine Sys2Proof.Claims Sys2Proof.Laws

/-! ### RMA -/

theorem serving {e : Endpoint} {peer : Nat} (h : e.serves peer = true) : ((some e).filter fun e => e.serves peer) = some e := by
  rw [Option.filter_some, if_pos h]

theorem rmaWrite_served {p ep peer : Nat} {va : DWord} {data : List Byte} {s : State} {e : Endpoint} (hup : answersParts s = true)
    (he : dataEndpoint s p ep = some e) (hserves : e.serves peer = true) :
    (∀ t rs, checkPages s p e.ctx e.trc .rma true va data.length = (t, .ok rs) →
      exec (.rmaWrite p ep peer va data) s = .next (replyWith (writeRuns t data rs) true [])) ∧
    (∀ t a, checkPages s p e.ctx e.trc .rma true va data.length = (t, .bad a) →
      exec (.rmaWrite p ep peer va data) s = .next (rmaError t p e a)) ∧
    ∀ t a u, checkPages s p e.ctx e.trc .rma true va data.length = (t, .foreign a u) →
      exec (.rmaWrite p ep peer va data) s = .next (isolateEndpoint t p e u) := by
  have hexec : exec (.rmaWrite p ep peer va data) s = execRmaWrite p ep peer va data s := rfl
  rw [hexec]
  unfold execRmaWrite
  rw [hup, he, serving hserves]
  dsimp only
  exact ⟨fun t rs h => by rw [h]; rfl, fun t a h => by rw [h]; rfl, fun t a u h => by rw [h]; rfl⟩

theorem rmaRead_served {p ep peer : Nat} {va : DWord} {len : Nat} {s : State} {e : Endpoint} (hup : answersParts s = true)
    (he : dataEndpoint s p ep = some e) (hserves : e.serves peer = true) :
    (∀ t rs, checkPages s p e.ctx e.trc .rma false va len = (t, .ok rs) →
      (poisonIn t 0 rs = none → exec (.rmaRead p ep peer va len) s = .next (replyWith t true (readRuns t rs))) ∧
      ∀ k, poisonIn t 0 rs = some k → exec (.rmaRead p ep peer va len) s = .next (rmaError t p e (va + BitVec.ofNat 64 k))) ∧
    (∀ t a, checkPages s p e.ctx e.trc .rma false va len = (t, .bad a) →
      exec (.rmaRead p ep peer va len) s = .next (rmaError t p e a)) ∧
    ∀ t a u, checkPages s p e.ctx e.trc .rma false va len = (t, .foreign a u) →
      exec (.rmaRead p ep peer va len) s = .next (isolateEndpoint t p e u) := by
  have hexec : exec (.rmaRead p ep peer va len) s = execRmaRead p ep peer va len s := rfl
  rw [hexec]
  unfold execRmaRead
  rw [hup, he, serving hserves]
  dsimp only
  refine ⟨fun t rs h => ?_, fun t a h => by rw [h]; rfl, fun t a u h => by rw [h]; rfl⟩
  rw [h]
  dsimp only
  exact ⟨fun hno => by rw [hno]; rfl, fun k hk => by rw [hk]; rfl⟩

theorem rma_refused {p ep peer : Nat} {s : State} (hup : answersParts s = true)
    (hno : ∀ e, dataEndpoint s p ep = some e → e.serves peer = false) (va : DWord) (data : List Byte) (len : Nat) :
    exec (.rmaWrite p ep peer va data) s = .next (replyWith s false []) ∧
    exec (.rmaRead p ep peer va len) s = .next (replyWith s false []) := by
  have hnone : ((dataEndpoint s p ep).filter fun e => e.serves peer) = none := by
    rw [Option.filter_eq_none_iff]
    exact fun e he => by simp [hno e he]
  constructor
  · show execRmaWrite p ep peer va data s = _
    unfold execRmaWrite
    rw [hup, hnone]
    rfl
  · show execRmaRead p ep peer va len s = _
    unfold execRmaRead
    rw [hup, hnone]
    rfl

/-! ### The control window -/

theorem putLaunch_good {s : State} {p : Nat} {w : DWord} (h : wordBad (replyWith s true []) p w = false) :
    putLaunch s p w = modPart (replyWith s true []) p fun q => { q with queue := q.queue ++ [w] } := by
  unfold putLaunch
  dsimp only
  rw [h]
  exact if_neg Bool.false_ne_true

theorem putLaunch_bad {s : State} {p : Nat} {w : DWord} (h : wordBad (replyWith s true []) p w = true) :
    putLaunch s p w = logPart (replyWith s true []) p 0x68
      (if (cfind (partOf s p).ctxs (wordCtx w)).isSome then wordCtx w else 0xFF) 0 4 1 w := by
  unfold putLaunch
  dsimp only
  rw [h]
  exact if_pos rfl

theorem putRequest_named {s : State} {p : Nat} {v : DWord} (h : (cfind (partOf s p).ctxs (v.toNat % 4)).isSome = true) :
    putRequest s p v = modPart (replyWith s true []) p fun q =>
      { q with reqs := q.reqs ++ [{ host := true, ctx := v.toNat % 4, va := v &&& 0xFFFFFFFFFFFFFFC0 }] } := by
  have hsome : (cfind (partOf (replyWith s true []) p).ctxs (v.toNat % 4)).isNone = false := Option.isNone_eq_false_iff.2 h
  unfold putRequest
  dsimp only
  rw [hsome]
  exact if_neg Bool.false_ne_true

theorem invalidAccess_write (s : State) (w : Window) (off : Nat) :
    invalidAccess s w off false = controlError (replyWith s false []) w (BitVec.ofNat 64 (off % 65536)) := rfl

/-- R409: an offset that no control register has, and an access of another width, are invalid. -/
theorem writeControl_invalid {s : State} {p off : Nat} {vs : List DWord} (h : off ∉ [0x000, 0x008, 0x010, 0x018] ∨ vs.length ≠ 1) :
    writeControl s p off vs = invalidAccess s (.control p) off false := by
  unfold writeControl
  split
  · simp at h
  · simp at h
  · simp at h
  · simp at h
  · rfl

theorem windowAccess_served {s : State} {p peer : Nat} (f : State → State) (hup : answersParts s = true)
    (hp : (cfind s.parts p).isSome = true) (hc : controlled s p peer = true) :
    windowAccess s { window := .control p, peer := peer } f = f s := by
  unfold windowAccess
  exact controlAccess_served f hup hp hc

theorem windowAccess_refused {s : State} {p peer : Nat} (f : State → State) (hup : answersParts s = true)
    (hp : (cfind s.parts p).isSome = true) (hc : controlled s p peer = false) :
    windowAccess s { window := .control p, peer := peer } f = replyWith s false [] := by
  unfold windowAccess
  exact controlAccess_refused f hup hp hc

theorem registerWrite_control {s : State} {p peer : Nat} (off : Nat) (vs : List DWord) (hup : answersParts s = true)
    (hp : (cfind s.parts p).isSome = true) (hc : controlled s p peer = true) :
    exec (.registerWrite { window := .control p, peer := peer } off vs) s = .next (writeControl s p off vs) :=
  congrArg Host.Outcome.next (windowAccess_served _ hup hp hc)

theorem controlled_iff (p : Nat) (s : State) :
    (∃ e, controlEndpoint s p = some e ∧ e.enabled = true ∧ e.frozen = false ∧ ∀ peer, controlled s p peer = decide (e.peer = peer)) ∨
      ∀ peer, controlled s p peer = false := by
  unfold controlled
  cases he : controlEndpoint s p with
  | none => exact .inr fun _ => rfl
  | some e =>
    by_cases h : e.enabled = true ∧ e.frozen = false
    · obtain ⟨hen, hfr⟩ := h
      refine .inl ⟨e, rfl, hen, hfr, fun peer => ?_⟩
      rw [Option.any_some, Endpoint.serves, hen, hfr]
      rfl
    · refine .inr fun peer => ?_
      rw [Option.any_some, Endpoint.serves]
      cases hen : e.enabled <;> cases hfr : e.frozen <;> simp_all

/-! ### The management window -/

theorem registerWrite_management {s : State} {peer : Nat} (off : Nat) (vs : List DWord) (h : answersOperator s peer = true) :
    exec (.registerWrite { window := .management, peer := peer } off vs) s = .next (writeManagement s off vs) :=
  congrArg Host.Outcome.next (if_pos h)

theorem writeManagement_taken {s : State} {off : Nat} {vs : List DWord} (hoff : mgmtOffset off vs.length = true)
    (hmgo : off ≠ 0x40 ∨ s.mgmt.busy = false) :
    writeManagement s off vs = replyWith { s with mgmt := writeMgmt s.mgmt off vs } true [] := by
  have hno : ¬((decide (off = 0x40) && s.mgmt.busy) = true) := by
    obtain h | h := hmgo <;> simp [h]
  unfold writeManagement
  rw [hoff]
  exact (if_neg (by simp)).trans (if_neg hno)

theorem writeManagement_invalid {s : State} {off : Nat} {vs : List DWord} (hoff : mgmtOffset off vs.length = false) :
    writeManagement s off vs = invalidAccess s .management off false := by
  unfold writeManagement
  rw [hoff]
  exact if_pos rfl

theorem mgmtOffset_mbox {k n : Nat} (hk : k < 8) (hn : k + n ≤ 8) : mgmtOffset (8 * k) n = true := by
  have hlow : 8 * k < 0x40 := by omega
  have hend : 8 * k + 8 * n ≤ 0x40 := by omega
  simp [mgmtOffset, hlow, hend]

theorem mgmtOffset_stage {k n : Nat} (hk : k < 512) (hn : k + n ≤ 512) : mgmtOffset (0x1000 + 8 * k) n = true := by
  have halign : (0x1000 + 8 * k) % 8 = 0 := by omega
  have hlow : 0x1000 + 8 * k < 0x2000 := by omega
  have hend : 0x1000 + 8 * k + 8 * n ≤ 0x2000 := by omega
  simp [mgmtOffset, halign, hlow, hend]

theorem mgmtOffset_invalid {off n : Nat} (h : off % 8 ≠ 0 ∨ (0x60 ≤ off ∧ off < 0x1000) ∨ 0x2000 ≤ off ∨
    (off < 0x40 ∧ 0x40 < off + 8 * n) ∨ (0x40 ≤ off ∧ off < 0x60 ∧ n ≠ 1) ∨ (0x1000 ≤ off ∧ 0x2000 < off + 8 * n)) :
    mgmtOffset off n = false := by
  refine Bool.eq_false_iff.2 fun hok => ?_
  simp only [mgmtOffset, Bool.and_eq_true, Bool.or_eq_true, decide_eq_true_iff, List.contains_eq_mem, List.mem_cons, List.not_mem_nil,
    or_false] at hok
  omega

theorem writeMgmt_mbox {m : Mgmt} {k : Nat} (vs : List DWord) (hk : k < 8) :
    writeMgmt m (8 * k) vs = { m with mbox := splice m.mbox (8 * k) (wordBytes vs) } := if_pos (by omega)

theorem writeMgmt_stage {m : Mgmt} {k : Nat} (vs : List DWord) :
    writeMgmt m (0x1000 + 8 * k) vs = { m with stage := mputs m.stage (8 * k) (wordBytes vs) } := by
  unfold writeMgmt
  rw [if_neg (by omega), if_neg (by omega), if_neg (by omega), if_pos (by omega), Nat.add_sub_cancel_left]

/-- Settles O51: each access goes through the answer of its window, which its peer decides. -/
theorem windowEvents : Obligations.WindowEvents := by
  refine ⟨fun p ep peer va data s e => rmaWrite_served, fun p ep peer va len s e => rmaRead_served,
    fun p ep peer va data len s hup hno => rma_refused hup hno va data len,
    fun p peer s hup hp => ⟨fun hc => ⟨fun word hgood => ?_, fun word hbad => ?_, fun v => ?_, fun v => ?_, fun v hctx => ?_,
      fun off isRead => ?_, fun off v hoff => ?_⟩, fun hc off vs hlen => ?_, fun hc => ⟨fun word => ?_, fun off vs => ?_, fun off isRead => ?_⟩⟩,
    fun p s => controlled_iff p s, fun s peer off v hup hno => ?_, fun s peer hop => ⟨fun v => ⟨fun hidle => ?_, ?_, ?_, ?_⟩,
      fun k vs hk hn => ?_, fun k vs hk hn => ?_, fun off vs hoff => ?_, fun off isRead => ?_⟩, fun s hup hbusy => ?_⟩
  · have hlaunch : exec (.launchWord p peer word) s = .next (putLaunch s p word) :=
      congrArg Host.Outcome.next (controlAccess_served _ hup hp hc)
    dsimp only
    rw [hlaunch, registerWrite_control _ _ hup hp hc, ← putLaunch_good hgood]
    exact ⟨rfl, rfl⟩
  · have hlaunch : exec (.launchWord p peer word) s = .next (putLaunch s p word) :=
      congrArg Host.Outcome.next (controlAccess_served _ hup hp hc)
    dsimp only
    rw [hlaunch, registerWrite_control _ _ hup hp hc, ← putLaunch_bad hbad]
    exact ⟨rfl, rfl⟩
  · refine (registerWrite_control _ _ hup hp hc).trans (congrArg Host.Outcome.next ?_)
    show (if v.getLsbD 0 then setEn else clearEn) (replyWith s true []) p = _
    split <;> rfl
  · exact registerWrite_control _ _ hup hp hc
  · exact (registerWrite_control _ _ hup hp hc).trans (congrArg Host.Outcome.next (putRequest_named hctx))
  · exact congrArg Host.Outcome.next (windowAccess_served _ hup hp hc)
  · exact (registerWrite_control _ _ hup hp hc).trans (congrArg Host.Outcome.next (writeControl_invalid (.inl hoff)))
  · exact (registerWrite_control _ _ hup hp hc).trans (congrArg Host.Outcome.next (writeControl_invalid (.inr hlen)))
  · exact congrArg Host.Outcome.next (controlAccess_refused _ hup hp hc)
  · exact congrArg Host.Outcome.next (windowAccess_refused _ hup hp hc)
  · exact congrArg Host.Outcome.next (windowAccess_refused _ hup hp hc)
  · exact congrArg Host.Outcome.next ((if_neg (by simp [hno])).trans (if_pos hup))
  · exact (registerWrite_management _ _ hop).trans (congrArg Host.Outcome.next (writeManagement_taken rfl (.inr hidle)))
  · exact (registerWrite_management _ _ hop).trans (congrArg Host.Outcome.next (writeManagement_taken rfl (.inl (by decide))))
  · exact (registerWrite_management _ _ hop).trans (congrArg Host.Outcome.next (writeManagement_taken rfl (.inl (by decide))))
  · exact (registerWrite_management _ _ hop).trans (congrArg Host.Outcome.next (writeManagement_taken rfl (.inl (by decide))))
  · refine (registerWrite_management _ _ hop).trans (congrArg Host.Outcome.next ?_)
    rw [writeManagement_taken (mgmtOffset_mbox hk hn) (.inl (by omega)), writeMgmt_mbox vs hk]
    rfl
  · refine (registerWrite_management _ _ hop).trans (congrArg Host.Outcome.next ?_)
    rw [writeManagement_taken (mgmtOffset_stage hk hn) (.inl (by omega)), writeMgmt_stage vs]
    rfl
  · exact (registerWrite_management _ _ hop).trans (congrArg Host.Outcome.next (writeManagement_invalid (mgmtOffset_invalid hoff)))
  · exact congrArg Host.Outcome.next (if_pos hop)
  · show execMgoWriteWhileBusy s = _
    unfold execMgoWriteWhileBusy
    rw [hup, hbusy]
    rfl

end Sys2Proof.Proofs
end
section
/-! PROOF of O52 (R310 to R312, R330, R408): requests of hosts and supervisors to the device manager. -/

namespace Sys2Proof.Proofs

open Sys2Proof Sys2Proof.Machine Sys2Proof.Claims Sys2Proof.Laws

/-! ### Serving -/

/-- R310: the request at the head, of a KIND that its event serves. -/
theorem serve_asked {host : Bool} {s t : State} {p c pa : Nat} {va : DWord} {k : Nat → Bool} {may : Bool → Bool}
    {f : List Byte → State → Served} (h : Asks host s p c va t pa) (hk : k (num (blockAt t pa) 0 2) = true) {r : Served}
    (hr : (if may host then f (blockAt t pa) t else { state := t, code := 10 }) = r) :
    serve p c va k may f s = answerTo host r.state p c va pa r.code r.outs := by
  obtain ⟨rest, hreqs⟩ : ∃ rest, (partOf s p).reqs = { host := host, ctx := c, va := va } :: rest := by
    cases hl : (partOf s p).reqs with
    | nil => have hfirst := h.first; rw [hl] at hfirst; cases hfirst
    | cons q rest => have hfirst := h.first; rw [hl] at hfirst; cases hfirst; exact ⟨rest, rfl⟩
  have hmine : ¬((decide (c ≠ c) || decide (va ≠ va) || !s.boot.powered) = true) := by simp [h.up]
  unfold serve
  rw [hreqs]
  dsimp only
  rw [if_neg hmine, h.at']
  dsimp only
  refine (if_neg ?_).trans ?_
  · rw [show readRuns t [(pa, 64)] = blockAt t pa from rfl, hk]
    exact Bool.false_ne_true
  · rw [show readRuns t [(pa, 64)] = blockAt t pa from rfl, hr]
    rfl

theorem serve_refused {host : Bool} {s t : State} {p c pa : Nat} {va : DWord} {k : Nat → Bool} {may : Bool → Bool}
    (f : List Byte → State → Served) (h : Asks host s p c va t pa) (hk : k (num (blockAt t pa) 0 2) = true) (hmay : may host = false) :
    serve p c va k may f s = answerTo host t p c va pa 10 [] :=
  serve_asked h hk (if_neg (by rw [hmay]; exact Bool.false_ne_true))

theorem serve_allowed {host : Bool} {s t : State} {p c pa : Nat} {va : DWord} {k : Nat → Bool} {may : Bool → Bool}
    {f : List Byte → State → Served} (h : Asks host s p c va t pa) (hk : k (num (blockAt t pa) 0 2) = true) (hmay : may host = true)
    {r : Served} (hr : f (blockAt t pa) t = r) : serve p c va k may f s = answerTo host r.state p c va pa r.code r.outs :=
  serve_asked h hk ((if_pos hmay).trans hr)

/-- R310: a request that is not at the head is not served. -/
theorem serve_notFirst {s : State} {p c : Nat} {va : DWord}
    (h : ∀ host, (partOf s p).reqs.head? ≠ some { host := host, ctx := c, va := va }) (k : Nat → Bool) (may : Bool → Bool)
    (f : List Byte → State → Served) : serve p c va k may f s = s := by
  unfold serve
  cases hreqs : (partOf s p).reqs with
  | nil => rfl
  | cons q rest =>
    refine if_pos ?_
    by_contra hmine
    simp only [Bool.or_eq_true, decide_eq_true_iff, not_or, Decidable.not_not] at hmine
    obtain ⟨⟨hctx, hva⟩, _⟩ := hmine
    refine h q.host ?_
    rw [hreqs, ← hctx, ← hva]
    rfl

theorem serve_unreached {s t : State} {p c : Nat} {va : DWord} {host : Bool}
    (hfirst : (partOf s p).reqs.head? = some { host := host, ctx := c, va := va }) (hup : s.boot.powered = true)
    (hblock : blockAddr s p c va = (t, none)) (k : Nat → Bool) (may : Bool → Bool) (f : List Byte → State → Served) :
    serve p c va k may f s = modPart t p fun q => { q with reqs := q.reqs.drop 1 } := by
  have hmine : ¬((decide (c ≠ c) || decide (va ≠ va) || !s.boot.powered) = true) := by simp [hup]
  unfold serve
  cases hreqs : (partOf s p).reqs with
  | nil => rw [hreqs] at hfirst; cases hfirst
  | cons q rest =>
    rw [hreqs] at hfirst
    cases hfirst
    dsimp only
    rw [if_neg hmine, hblock]
    rfl

/-! ### The requests of a host -/

theorem unregister_named {p c : Nat} {b : List Byte} {t : State} {g : Graph}
    (hg : graphNamed t p c (num b 4 4 % 2 ^ 20) (num b 4 4 / 2 ^ 20) = some g) :
    unregister p c b t =
      let slot := num b 4 4 % 2 ^ 20
      let mine := fun (w : DWord) => wordCtx w = c && wordSlot w = slot
      let u := modCtx t p c fun x => { x with graphs := cset x.graphs slot { g with gen := g.gen + 1, live := false } }
      let gone := (partOf u p).queue.filter mine
      let v := modPart u p fun q => { q with queue := q.queue.filter fun w => !mine w }
      let w := match gone.head? with
        | some d => logPart v p 0x68 c 0 4 gone.length d
        | none => v
      { state := match versionOf w g.ver with
          | some k => retireGraph w k
          | none => w
        code := 1 } := by
  unfold unregister
  dsimp only
  rw [hg]
  dsimp only
  generalize List.filter (fun w => decide (wordCtx w = c) && decide (wordSlot w = num b 4 4 % 2 ^ 20))
    (partOf (modCtx t p c fun x => { x with graphs := cset x.graphs (num b 4 4 % 2 ^ 20) { g with gen := g.gen + 1, live := false } }) p).queue =
      gone
  cases gone <;> rfl

theorem attest_reached {p c : Nat} {b : List Byte} {t u : State} {rs : List (Nat × Nat)}
    (hbuf : bufferAt t p c (BitVec.ofNat 64 (num b 0x28 8)) 16384 true = (u, some rs)) :
    attest p c b t =
      if Config.identityUsable u.tick = true then
        if (report u p ((b.drop 8).take 32)).length ≤ 16384 then
          { state := writeRuns u (report u p ((b.drop 8).take 32)) (attest.cutRuns (report u p ((b.drop 8).take 32)).length rs), code := 1 }
        else { state := u, code := 9 }
      else { state := logAll u 0x72 0 7 1 0, code := 11 } := by
  have hlog : logUnit u p 0x72 c 0 7 1 0 = logAll u 0x72 0 7 1 0 := if_pos (by decide)
  unfold attest
  rw [hbuf]
  dsimp only
  generalize report u p ((b.drop 8).take 32) = out
  cases Config.identityUsable u.tick with
  | false => rw [if_pos (by rfl), if_neg Bool.false_ne_true, hlog]
  | true =>
    rw [if_neg (by simp), if_pos rfl]
    by_cases hlen : out.length ≤ 16384
    · rw [if_pos hlen, if_neg (Nat.not_lt.2 hlen)]
    · rw [if_neg hlen, if_pos (Nat.not_le.1 hlen)]

theorem readLog_reached {p c most : Nat} {b : List Byte} {t u : State} {rs : List EventRec} {next lost : Nat} {runs : List (Nat × Nat)}
    (hmost : most = num b 0x10 2) (hpos : 0 < most) (hle : most ≤ 256) (hlog : logFrom (partOf t p) (num b 4 4) most = (rs, next, lost))
    (hbuf : bufferAt t p c (BitVec.ofNat 64 (num b 8 8)) (32 * rs.length) true = (u, some runs)) :
    readLog p c b t = { state := writeRuns u (rs.flatMap EventRec.bytes) runs, code := 1
                        outs := [(4, leBytes 4 next), (0x12, leBytes 2 rs.length), (0x14, leBytes 4 lost)] } := by
  have hno : ¬((decide (num b 0x10 2 = 0) || decide (256 < num b 0x10 2)) = true) := by
    rw [← hmost]
    simp only [Bool.or_eq_true, decide_eq_true_iff]
    omega
  rw [hmost] at hlog
  unfold readLog
  refine (if_neg hno).trans ?_
  rw [hlog]
  dsimp only
  rw [hbuf]

/-! ### Registration -/

theorem registerObject_unread {p c : Nat} {frames : List Nat} {blk : List Byte} {s t : State}
    (h : bufferAt s p c (regReq blk).objva (regReq blk).objlen false = (t, none) ∨
      ∃ rs k, bufferAt s p c (regReq blk).objva (regReq blk).objlen false = (t, some rs) ∧ poisonIn t 0 rs = some k) :
    registerObject p c frames blk s = { state := t, code :=
      if (if (regReq blk).graph = 0 then freeGraph (ctxOf s p c) else some ((regReq blk).graph % 2 ^ 20)) = none then 8 else 9 } := by
  have hcode : (if (if (regReq blk).graph = 0 then freeGraph (ctxOf s p c) else some ((regReq blk).graph % 2 ^ 20)).isNone = true then 8 else 9) =
      if (if (regReq blk).graph = 0 then freeGraph (ctxOf s p c) else some ((regReq blk).graph % 2 ^ 20)) = none then 8 else 9 :=
    if_congr (Q := _ = none) Option.isNone_iff_eq_none rfl rfl
  unfold registerObject
  dsimp only
  rw [hcode]
  obtain h | ⟨rs, k, h, hk⟩ := h
  · rw [h]
  · rw [h]
    exact if_pos (by rw [hk]; rfl)

/-- R201: what a registration comes to once its object has been read. -/
theorem registerObject_read {p c : Nat} {frames : List Nat} {blk : List Byte} {s t : State} {rs : List (Nat × Nat)}
    (hbuf : bufferAt s p c (regReq blk).objva (regReq blk).objlen false = (t, some rs)) (hclean : poisonIn t 0 rs = none) :
    (∀ k, objectCode (readRuns t rs) = some k → registerObject p c frames blk s = { state := t, code := k }) ∧
    ∀ n tiles u hs img, objectCode (readRuns t rs) = none →
      (if (regReq blk).graph = 0 then freeGraph (ctxOf s p c) else some ((regReq blk).graph % 2 ^ 20)) = some n →
      objectTiles (partOf t p).desc (objectOf (readRuns t rs)) = some tiles →
      allocAll t p c (tiles ++ (records 64 ((objectOf (readRuns t rs)).only 10)).map Obj.shape) = (u, some hs) →
      relocateAll (objectOf (readRuns t rs)) (layOut 0 (objectOf (readRuns t rs)).sects) (regReq blk).imgva
        (hs.take (((objectOf (readRuns t rs)).only 9).length / 16)) (hs.drop (((objectOf (readRuns t rs)).only 9).length / 16)) = some img →
      (∀ k ∈ (objectOf (readRuns t rs)).krecs,
        placeable t p c (kernelAt (objectOf (readRuns t rs)) (layOut 0 (objectOf (readRuns t rs)).sects) k) = true) →
      registerObject p c frames blk s =
        let old := if (regReq blk).graph = 0 then none else graphNamed s p c ((regReq blk).graph % 2 ^ 20) ((regReq blk).graph / 2 ^ 20)
        let version := old.bind fun g => versionOf t g.ver
        let d := doneOk t p c (regReq blk).trc (regReq blk).done
        if !framesOk t p version img (max 1 ((img.length + 65535) / 65536)) frames then { state := t, code := 8 }
        else if fieldsBad t p c (regReq blk) || !d.2 then { state := d.1, code := 9 }
        else build p c frames
          { r := regReq blk, x := objectOf (readRuns t rs), slot := n
            gen := (old.map Graph.gen).getD (((cfind (ctxOf t p c).graphs n).map Graph.gen).getD 1)
            nver := (old.map Graph.nver).getD 0 + 1, handles := hs, img := img } version u := by
  unfold registerObject
  dsimp only
  rw [hbuf]
  dsimp only
  rw [hclean, if_neg (by simp)]
  refine ⟨fun k hk => by rw [hk], fun n tiles u hs img hcode hslot htiles halloc himg hplace => ?_⟩
  have hall : (((objectOf (readRuns t rs)).krecs.map (kernelAt (objectOf (readRuns t rs)) (layOut 0 (objectOf (readRuns t rs)).sects))).all
      (placeable t p c)) = true := List.all_eq_true.2 fun k hk => by
    obtain ⟨q, hq, rfl⟩ := List.mem_map.1 hk
    exact hplace q hq
  have hsize : max 1 ((img.length + Config.pageBytes - 1) / Config.pageBytes) = max 1 ((img.length + 65535) / 65536) := rfl
  rw [hcode, htiles, Option.getD_some, halloc, Option.getD_some, himg, hslot]
  dsimp only
  rw [hall, hsize]
  rfl

/-! ### The requests of a supervisor -/

theorem setMembers_owned {p unit n rank : Nat} {b : List Byte} {t : State} (hunit : unit = num b 4 1) (hn : n = num b 6 2)
    (hrank : rank = num b 8 2) (hlow : unit < 32) (hown : unit ∈ (partOf t p).desc.eng) (hlt : rank < n) :
    setMembers p b t = { state := { t with colls := cset t.colls unit { members := n, rank := rank } }, code := 1 } := by
  unfold setMembers
  dsimp only
  rw [← hunit, ← hn, ← hrank]
  refine if_neg ?_
  simp only [List.contains_iff_mem.2 hown, Bool.or_eq_true, decide_eq_true_iff, Bool.not_true, Bool.false_eq_true, or_false]
  omega

theorem modPart_congr {s : State} {p : Nat} {f g : Part → Part} (h : f (partOf s p) = g (partOf s p)) : modPart s p f = modPart s p g := by
  unfold modPart
  cases hp : cfind s.parts p with
  | none => rfl
  | some q =>
    rw [partOf_of hp] at h
    dsimp only
    rw [h]

/-- R310: the device manager adds a grant that is not there. -/
theorem grant_added {t : State} {p : Nat} {g : Bool × Nat × Nat} (hnew : g ∉ (partOf t p).grants) :
    (modPart t p fun q => { q with grants := if q.grants.contains g then q.grants else q.grants ++ [g] }) =
      modPart t p fun q => { q with grants := q.grants ++ [g] } := by
  refine modPart_congr ?_
  rw [if_neg (by simpa using hnew)]

theorem grantWindow_pool {p c k : Nat} {b : List Byte} {t : State} {w : Nat × Nat} (hkind : num b 4 1 = 0) (hk : k = num b 5 1)
    (hw : (partOf t p).desc.poolw[k]? = some w) (hsize : w.2 ≠ 0) (hnew : (false, c, k) ∉ (partOf t p).grants) :
    grantWindow p c b t = { state := modPart t p fun q => { q with grants := q.grants ++ [(false, c, k)] }, code := 1 } := by
  unfold grantWindow
  dsimp only
  rw [hkind, ← hk, hw]
  exact (if_neg (by simp [hsize])).trans (congrArg (fun s => ({ state := s, code := 1 } : Served)) (grant_added hnew))

theorem grantWindow_host {p c k : Nat} {b : List Byte} {t : State} {w : Nat × Nat × DWord} (hkind : num b 4 1 = 1) (hk : k = num b 5 1)
    (hw : (partOf t p).desc.hostw[k]? = some w) (hsize : w.2.1 ≠ 0) (hnew : (true, c, k) ∉ (partOf t p).grants) :
    grantWindow p c b t = { state := modPart t p fun q => { q with grants := q.grants ++ [(true, c, k)] }, code := 1 } := by
  unfold grantWindow
  dsimp only
  rw [hkind, ← hk, hw]
  exact (if_neg (by simp [hsize])).trans (congrArg (fun s => ({ state := s, code := 1 } : Served)) (grant_added hnew))

/-- R112: what an enabled window reads is the partition's, in the window's die. -/
theorem owned_of_windowOk {d : Desc} {die : Nat} {w : FmtWindow} (h : windowOk d die w = true) {r : Nat × Nat}
    (hr : r ∈ windowRanges w ((w.view.toNat % 2 ^ 16 * 2 ^ 16) / fmtBytes w)) :
    dramOwned d r.1 = true ∧ dramOwned d (r.1 + r.2 - 1) = true ∧ r.1 / 2 ^ 33 / 16 = die := by
  unfold windowOk at h
  rw [Bool.and_eq_true] at h
  have hall := List.all_eq_true.1 h.2 r hr
  unfold rangeOwned at hall
  rw [Bool.and_eq_true, Bool.and_eq_true, Bool.and_eq_true, decide_eq_true_iff, decide_eq_true_iff] at hall
  obtain ⟨⟨⟨hfirst, hlast⟩, _⟩, hdie⟩ := hall
  exact ⟨hfirst, hlast, hdie⟩

theorem requestEvents : RequestEvents := by
  refine ⟨fun p c va s t pa h => ⟨fun frames r hk hr => ?_, fun g hk hg => ?_, fun u rs hk hbuf => ?_,
    fun most rs next lost u runs hk hmost hpos hle hlog hbuf => ?_, fun hk => ?_, fun hk => ?_, fun hk => ?_, fun hk => ?_⟩,
    fun p c va s hno => ⟨fun frames => ?_, ?_, ?_, ?_, ?_, ?_, ?_, ?_⟩, fun p c va s t host hfirst hup hblock => ?_,
    fun p c frames blk s t => ⟨fun hnone => ?_, fun rs k hsome hk => ?_, fun rs hbuf hclean => ⟨?_, ?_⟩⟩⟩
  · exact congrArg Host.Outcome.next (serve_allowed h (decide_eq_true hk) rfl hr)
  · exact congrArg Host.Outcome.next (serve_allowed h (decide_eq_true hk) rfl (unregister_named hg))
  · have hserved : exec (.attestationReport p c va) s = _ :=
      congrArg Host.Outcome.next (serve_allowed h (k := fun k => decide (k = 3)) (decide_eq_true hk) rfl (attest_reached hbuf))
    dsimp only
    rw [hserved]
    split
    · split <;> rfl
    · rfl
  · exact congrArg Host.Outcome.next (serve_allowed h (decide_eq_true hk) rfl (readLog_reached hmost hpos hle hlog hbuf))
  · exact congrArg Host.Outcome.next (serve_allowed h (by simpa using hk) rfl rfl)
  · exact congrArg Host.Outcome.next (serve_refused _ h (decide_eq_true hk) rfl)
  · exact congrArg Host.Outcome.next (serve_refused _ h (decide_eq_true hk) rfl)
  · exact congrArg Host.Outcome.next (serve_refused _ h (decide_eq_true hk) rfl)
  · exact congrArg Host.Outcome.next (serve_notFirst hno _ _ _)
  · exact congrArg Host.Outcome.next (serve_notFirst hno _ _ _)
  · exact congrArg Host.Outcome.next (serve_notFirst hno _ _ _)
  · exact congrArg Host.Outcome.next (serve_notFirst hno _ _ _)
  · exact congrArg Host.Outcome.next (serve_notFirst hno _ _ _)
  · exact congrArg Host.Outcome.next (serve_notFirst hno _ _ _)
  · exact congrArg Host.Outcome.next (serve_notFirst hno _ _ _)
  · exact congrArg Host.Outcome.next (serve_notFirst hno _ _ _)
  · exact congrArg Host.Outcome.next (serve_unreached hfirst hup hblock _ _ _)
  · exact registerObject_unread (.inl hnone)
  · exact registerObject_unread (.inr ⟨rs, k, hsome, hk⟩)
  · exact (registerObject_read hbuf hclean).1
  · intro n tiles u hs img hcode hslot htiles halloc himg hplace
    have hread := (registerObject_read (frames := frames) hbuf hclean).2 n tiles u hs img hcode hslot htiles halloc himg hplace
    dsimp only at hread
    refine ⟨fun hframes => ?_, fun hframes => ⟨fun hbad => ?_, fun hfields hdone => ?_⟩⟩
    · rw [hread, hframes]
      rfl
    · have hno : ((fieldsBad t p c (regReq blk)) || !(doneOk t p c (regReq blk).trc (regReq blk).done).2) = true := by
        obtain h | h := hbad <;> simp [h]
      rw [hread, hframes, hno]
      rfl
    · have hdone : (doneOk t p c (regReq blk).trc (regReq blk).done).2 = true := hdone
      rw [hread, hframes, hfields, hdone]
      rfl

theorem supervisorRequestEvents : SupervisorRequestEvents := by
  refine fun p c va s t pa h => ⟨fun r hk hr => ?_, fun unit n rank hk hunit hn hrank hlow hown hlt => ?_,
    fun k w hk hpool hkey hw hsize hnew => ?_, fun k w hk hhost hkey hw hsize hnew => ?_,
    fun most rs next lost u runs hk hmost hpos hle hlog hbuf => ?_, fun hk frames => ?_, fun hk => ?_, fun hk => ?_, fun hk => ?_,
    fun d die w hok r hr => owned_of_windowOk hok hr⟩
  · exact congrArg Host.Outcome.next (serve_allowed h (decide_eq_true hk) rfl hr)
  · exact congrArg Host.Outcome.next (serve_allowed h (decide_eq_true hk) rfl (setMembers_owned hunit hn hrank hlow hown hlt))
  · exact congrArg Host.Outcome.next (serve_allowed h (decide_eq_true hk) rfl (grantWindow_pool hpool hkey hw hsize hnew))
  · exact congrArg Host.Outcome.next (serve_allowed h (decide_eq_true hk) rfl (grantWindow_host hhost hkey hw hsize hnew))
  · exact congrArg Host.Outcome.next (serve_allowed h (decide_eq_true hk) rfl (readLog_reached hmost hpos hle hlog hbuf))
  · exact congrArg Host.Outcome.next (serve_refused _ h (decide_eq_true hk) rfl)
  · exact congrArg Host.Outcome.next (serve_refused _ h (decide_eq_true hk) rfl)
  · exact congrArg Host.Outcome.next (serve_refused _ h (decide_eq_true hk) rfl)
  · exact congrArg Host.Outcome.next (serve_allowed h (by simpa using hk) rfl rfl)

/-- Settles O52: the request at the head is served by the event of its KIND, if its maker may make it. -/
theorem managerRequestEvents : Obligations.ManagerRequestEvents := ⟨requestEvents, supervisorRequestEvents⟩

end Sys2Proof.Proofs
end
section
/-! PROOF of O53 (R314 to R316, R321, R326, R327, R387, R418): the management context's requests. -/

namespace Sys2Proof.Proofs

open Sys2Proof Sys2Proof.Machine Sys2Proof.Claims Sys2Proof.Laws

/-- R315, R418: a request that may be served is served by the event of its KIND. -/
theorem serveMgmt_asked {s : State} {k : Nat} {f : List Byte → State → State × Nat} (h : ManagerAsks s k) {r : State × Nat}
    (hr : f s.mgmt.mbox s = r) : serveMgmt k f s = finishMgmt r.1 r.2 := by
  have hmine : ¬((!answers s || !s.mgmt.busy || decide (num s.mgmt.mbox 0 2 ≠ k)) = true) := by simp [h.up, h.busy, h.kind]
  have hboot : ¬((decide (s.boot.status ≠ 0) && decide (k ≠ 0x87)) = true) := by
    obtain h | h := h.booted <;> simp [h]
  unfold serveMgmt
  dsimp only
  rw [if_neg hmine, if_neg hboot, hr]

/-! ### Partition descriptors -/

theorem hasResident_none {s : State} {p : Nat} (hblocks : ∀ k ∈ s.blocks, k.part ≠ p)
    (hresume : ∀ k ∈ (partOf s p).resume, k.parked = true → k.away = true) : hasResident s p = false := by
  have hon : (s.blocks.any fun k => k.part = p) = false := List.any_eq_false.2 fun k hk h => hblocks k hk (of_decide_eq_true h)
  have hoff : ((partOf s p).resume.any fun b => b.parked && !b.away) = false := List.any_eq_false.2 fun k hk h => by
    rw [Bool.and_eq_true, Bool.not_eq_true'] at h
    exact absurd (hresume k hk h.1) (by simp [h.2])
  unfold hasResident
  rw [hon, hoff]
  rfl

/-- R321: what a descriptor that is taken does. -/
theorem putDescriptor_taken {m : List Byte} {s : State} (hp : num m 4 1 < Config.partitions) (halign : num m 8 4 % 64 = 0)
    (hfits : num m 8 4 + 320 ≤ 4096) (hlegal : descLegal (descOf (mgets s.mgmt.stage (num m 8 4) 320)) = true)
    (hshares : sharesOk s (num m 4 1) (descOf (mgets s.mgmt.stage (num m 8 4) 320)) = true)
    (hsaved : takesSaved s (num m 4 1) (descOf (mgets s.mgmt.stage (num m 8 4) 320)) = false)
    (hidle : hasResident s (num m 4 1) = false) :
    putDescriptor m s =
      let p := num m 4 1
      let d := descOf (mgets s.mgmt.stage (num m 8 4) 320)
      let o := (partOf s p).desc
      let t := clearEngines (leaveWindows (landAll s p fun _ => true) o d) p o d
      let t := if o.dspw = d.dspw then t else moveWindows t p o d
      let q := partOf t p
      let q :=
        { q with
          desc := d
          lost := if o.hostw = d.hostw then q.lost else []
          loans := q.loans.filter fun e => d.const.contains e.1 }
      let fmt := t.fmt.filter fun w => w.2.part ≠ p || !w.2.ctl.getLsbD 63 || windowOk d (w.1 / 16) w.2
      (limitSplits (vacate { t with parts := cset t.parts p q, fmt := fmt } p (o.const.filter fun k => !d.const.contains k)) p, 1) := by
  have hbad : ¬((decide (Config.partitions ≤ num m 4 1) || decide (num m 8 4 % 64 ≠ 0) || decide (4096 < num m 8 4 + 320) ||
      !descLegal (descOf (mgets s.mgmt.stage (num m 8 4) 320)) ||
      !sharesOk s (num m 4 1) (descOf (mgets s.mgmt.stage (num m 8 4) 320))) = true) := by
    rw [hlegal, hshares]
    simp only [Bool.or_eq_true, decide_eq_true_iff, Bool.not_true, Bool.false_eq_true, or_false]
    omega
  unfold putDescriptor
  dsimp only
  rw [if_neg hbad, hsaved, if_neg Bool.false_ne_true, hidle, if_neg Bool.false_ne_true]

/-! ### Constellations that leave -/

theorem coreOf_modCore_at (s : State) (k n : Nat) (f : Core → Core) :
    coreOf (modCore s k f) n = if n = k then f (coreOf s k) else coreOf s n := by
  show (cfind (cset s.cores k (f (coreOf s k))) n).getD {} = _
  rw [cfind_cset]
  split <;> rfl

theorem coreOf_reset (ns : List Nat) (s : State) (n : Nat) :
    coreOf (ns.foldl (fun s n => modCore s n fun _ => {}) s) n = if n ∈ ns then {} else coreOf s n := by
  induction ns generalizing s with
  | nil => simp
  | cons k ns ih =>
    rw [List.foldl_cons, ih, coreOf_modCore_at]
    by_cases hn : n ∈ ns
    · simp [hn]
    · by_cases hk : n = k <;> simp [hn, hk]

theorem fields_reset (ns : List Nat) (s : State) :
    ns.foldl (fun s n => modCore s n fun _ => {}) s = { s with cores := (ns.foldl (fun s n => modCore s n fun _ => {}) s).cores } := by
  induction ns generalizing s with
  | nil => rfl
  | cons n ns ih => exact ih (modCore s n fun _ => {})

/-- The constellations of a list that no partition has. -/
def ownerless (s : State) (ks : List Nat) : List Nat := ks.filter fun k => !s.parts.any fun q => q.2.desc.const.contains k

/-- The cores at reset once constellations have left. -/
def leftCores (s : State) (ks : List Nat) : List Nat :=
  (s.cores.map Prod.fst).filter fun n => (ownerless s ks).contains (Config.constOf n) && (coreOf s n).allocs.isEmpty

/-- The state as constellations leave it, but for the cores. -/
def leftState (s : State) (p : Nat) (ks : List Nat) : State :=
  { s with
    cmds := s.cmds.map (Cmd.rehome s p)
    frozenCopies := s.frozenCopies.filter fun k => !(ownerless s ks).contains k
    poolLeases := s.poolLeases.filter fun l => !(ownerless s ks).contains (Config.constOf l.core) }

theorem vacate_eq (s : State) (p : Nat) (ks : List Nat) :
    vacate s p ks = (leftCores s ks).foldl (fun s n => modCore s n fun _ => {}) (leftState s p ks) := rfl

theorem ownerless_owned {s : State} {k : Nat} (h : ∃ q ∈ s.parts, k ∈ q.2.desc.const) : ownerless s [k] = [] := by
  obtain ⟨q, hq, hk⟩ := h
  refine List.filter_eq_nil_iff.2 fun j hj hno => ?_
  rw [List.mem_singleton.1 hj, Bool.not_eq_true', List.any_eq_false] at hno
  exact hno q hq (List.contains_iff_mem.2 hk)

theorem ownerless_free {s : State} {k : Nat} (h : ∀ q ∈ s.parts, k ∉ q.2.desc.const) : ownerless s [k] = [k] := by
  refine List.filter_eq_self.2 fun j hj => ?_
  rw [List.mem_singleton.1 hj, Bool.not_eq_true', List.any_eq_false]
  exact fun q hq hin => h q hq (List.contains_iff_mem.1 hin)

theorem constOf_leftCores {s : State} {k n : Nat} (h : n ∈ leftCores s [k]) : Config.constOf n = k := by
  obtain ⟨_, hfree⟩ := List.mem_filter.1 h
  rw [Bool.and_eq_true, List.contains_iff_mem] at hfree
  exact List.mem_singleton.1 (List.mem_filter.1 hfree.1).1

theorem coreOf_unlisted {s : State} {n : Nat} (h : n ∉ s.cores.map Prod.fst) : coreOf s n = {} := by
  unfold coreOf
  cases hc : cfind s.cores n with
  | none => rfl
  | some c => exact absurd (List.mem_map.2 ⟨(n, c), mem_of_cfind hc, rfl⟩) h

theorem vacate_clauses (s : State) (p k : Nat) :
    (vacate s p [k]).parts = s.parts ∧ (vacate s p [k]).blocks = s.blocks ∧
    (∀ n, Config.constOf n ≠ k → coreOf (vacate s p [k]) n = coreOf s n) ∧
    (vacate s p [k]).cmds = s.cmds.map (Cmd.rehome s p) ∧
    ((∃ q ∈ s.parts, k ∈ q.2.desc.const) → (vacate s p [k]).cores = s.cores ∧ (vacate s p [k]).frozenCopies = s.frozenCopies) ∧
    ((∀ q ∈ s.parts, k ∉ q.2.desc.const) → k ∉ (vacate s p [k]).frozenCopies ∧
      ∀ n, Config.constOf n = k → (coreOf s n).allocs = [] → coreOf (vacate s p [k]) n = {}) := by
  have hfields := fields_reset (leftCores s [k]) (leftState s p [k])
  have hcore (n : Nat) : coreOf (vacate s p [k]) n = if n ∈ leftCores s [k] then {} else coreOf s n :=
    coreOf_reset (leftCores s [k]) (leftState s p [k]) n
  rw [← vacate_eq] at hfields
  refine ⟨by rw [hfields]; rfl, by rw [hfields]; rfl, fun n hn => ?_, by rw [hfields]; rfl, fun howned => ?_, fun hfree => ⟨?_, fun n hn hempty => ?_⟩⟩
  · rw [hcore, if_neg fun h => hn (constOf_leftCores h)]
  · have hnone : leftCores s [k] = [] := by
      unfold leftCores
      rw [ownerless_owned howned]
      exact List.filter_eq_nil_iff.2 fun _ _ h => Bool.false_ne_true h
    rw [vacate_eq, hnone, List.foldl_nil]
    refine ⟨rfl, ?_⟩
    show (s.frozenCopies.filter fun k' => !(ownerless s [k]).contains k') = s.frozenCopies
    rw [ownerless_owned howned]
    exact List.filter_eq_self.2 fun _ _ => rfl
  · rw [hfields]
    intro hin
    have hkept := (List.mem_filter.1 (show k ∈ s.frozenCopies.filter fun k' => !(ownerless s [k]).contains k' from hin)).2
    rw [ownerless_free hfree] at hkept
    simp at hkept
  · rw [hcore]
    split
    · rfl
    · next hnot =>
      refine coreOf_unlisted fun hkey => hnot (List.mem_filter.2 ⟨hkey, ?_⟩)
      rw [ownerless_free hfree, hn, hempty]
      simp

/-! ### SPLIT_LIMIT -/

theorem limited_cases (s : State) (p c : Nat) (v : BitVec 36) (x : Ctx) :
    x.limited s p c v = x ∨ x.limited s p c v = { x with splitLimit := v } := ite_eq_or_eq _ _ _

theorem limited_splitLimit (s : State) (p c : Nat) (v : BitVec 36) (x : Ctx) :
    x.limited s p c v = { x with splitLimit := (x.limited s p c v).splitLimit } := by
  obtain h | h := limited_cases s p c v x <;> rw [h]

/-- R114: the contexts of a partition with what the device manager sets. -/
def limitedCtxs (s : State) (p : Nat) (v : BitVec 36) (q : Part) : Part :=
  { q with ctxs := q.ctxs.map fun c => (c.1, c.2.limited s p c.1 v) }

theorem ctxOf_limited (s : State) (p c : Nat) (v : BitVec 36) :
    ctxOf (modPart s p (limitedCtxs s p v)) p c = ((cfind (partOf s p).ctxs c).map (Ctx.limited s p c v)).getD {} := by
  cases hp : cfind s.parts p with
  | none =>
    unfold ctxOf partOf modPart
    rw [hp]
    dsimp only
    rw [hp]
    rfl
  | some q =>
    unfold ctxOf
    rw [modPart_of hp, partOf_of hp, partOf_of (q := limitedCtxs s p v q) (by dsimp only; rw [cfind_cset, if_pos rfl])]
    exact congrArg (Option.getD · ({} : Ctx)) (cfind_map (fun k (x : Ctx) => x.limited s p k v) q.ctxs c)

theorem ctxOf_limitSplits (s : State) (p c : Nat) :
    ctxOf (limitSplits s p) p c = { ctxOf s p c with splitLimit := (ctxOf (limitSplits s p) p c).splitLimit } := by
  unfold limitSplits
  split
  · rfl
  · next v _ =>
    have hctx := ctxOf_limited s p c v
    unfold limitedCtxs at hctx
    rw [hctx]
    unfold ctxOf
    cases cfind (partOf s p).ctxs c with
    | none => rfl
    | some x => exact limited_splitLimit s p c v x

/-! ### Tenant and endpoint contexts -/

theorem addContext_new {m : List Byte} {s : State} {q : Part} (hp : num m 4 1 < Config.partitions) (hc : num m 5 1 < Config.contexts)
    (hq : cfind s.parts (num m 4 1) = some q) (hnew : cfind q.ctxs (num m 5 1) = none) :
    addContext m s =
      if (cfind q.ctxs q.running).isSome then
        ({ s with parts := cset s.parts (num m 4 1) { q with ctxs := cset q.ctxs (num m 5 1) { saved := some {} } } }, 1)
      else (startCtx { s with parts := cset s.parts (num m 4 1) { q with ctxs := cset q.ctxs (num m 5 1) { saved := some {} } } }
        (num m 4 1) (num m 5 1), 1) := by
  have hbad : ¬((decide (Config.partitions ≤ num m 4 1) || decide (Config.contexts ≤ num m 5 1)) = true) := by
    simp [Nat.not_le.2 hp, Nat.not_le.2 hc]
  unfold addContext
  dsimp only
  rw [if_neg hbad, hq]
  dsimp only
  rw [hnew, modPart_of hq]
  rfl

theorem dropContext_there {m : List Byte} {s : State} (hp : num m 4 1 < Config.partitions) (hc : num m 5 1 < Config.contexts)
    (hthere : (cfind (partOf s (num m 4 1)).ctxs (num m 5 1)).isSome = true) :
    dropContext m s =
      let t := modPart (killCtx s (num m 4 1) (num m 5 1)) (num m 4 1) fun q =>
        { q with
          ctxs := cdel q.ctxs (num m 5 1)
          eps := q.eps.filter fun e => e.control || e.ctx ≠ num m 5 1
          grants := q.grants.filter fun g => g.2.1 ≠ num m 5 1 }
      (if (partOf s (num m 4 1)).running = num m 5 1 then goOn t (num m 4 1) false else t, 1) := by
  have hbad : ¬((decide (Config.partitions ≤ num m 4 1) || decide (Config.contexts ≤ num m 5 1)) = true) := by
    simp [Nat.not_le.2 hp, Nat.not_le.2 hc]
  unfold dropContext
  dsimp only
  rw [if_neg hbad, Option.isNone_eq_false_iff.2 hthere, if_neg Bool.false_ne_true]

/-- The endpoint context that a KIND 0x83 request gives. -/
def endpointOf (m : List Byte) : Endpoint :=
  { control := !decide (num m 6 1 = 1), index := if num m 6 1 = 1 then num m 7 1 else 0, ctx := if num m 6 1 = 1 then num m 5 1 else 0
    trc := if num m 6 1 = 1 then num m 8 1 else 0, enabled := num m 9 1 = 1, peer := num m 16 16 }

/-- The other endpoint contexts of its partition. -/
def otherEndpoints (s : State) (m : List Byte) : List Endpoint :=
  (partOf s (num m 4 1)).eps.filter fun k =>
    !(k.control = (endpointOf m).control && k.index = (endpointOf m).index && k.ctx = (endpointOf m).ctx)

theorem putEndpoint_legal {m : List Byte} {s : State} (hp : num m 4 1 < Config.partitions) (hkind : num m 6 1 ≤ 1) (hen : num m 9 1 ≤ 1)
    (hctx : (endpointOf m).ctx < Config.contexts) (hidx : (endpointOf m).index < 64) (htrc : (endpointOf m).trc < 16)
    (hdata : num m 6 1 = 1 → ((otherEndpoints s m).filter fun k => !k.control).length < 64 ∧
      (cfind (partOf s (num m 4 1)).ctxs (endpointOf m).ctx).isSome = true) (hthere : (cfind s.parts (num m 4 1)).isSome = true) :
    putEndpoint m s = (modPart s (num m 4 1) fun q => { q with eps := otherEndpoints s m ++ [endpointOf m] }, 1) := by
  have hrange : ¬((decide (Config.partitions ≤ num m 4 1) || decide (1 < num m 6 1) || decide (1 < num m 9 1) ||
      decide (Config.contexts ≤ (endpointOf m).ctx) || decide (64 ≤ (endpointOf m).index) || decide (16 ≤ (endpointOf m).trc) ||
      (decide (num m 6 1 = 1) && decide (64 ≤ ((otherEndpoints s m).filter fun k => !k.control).length))) = true) := by
    simp only [Bool.or_eq_true, Bool.and_eq_true, decide_eq_true_iff]
    rintro ((((((h | h) | h) | h) | h) | h) | ⟨h, hfull⟩)
    · exact Nat.not_lt.2 h hp
    · exact Nat.not_lt.2 hkind h
    · exact Nat.not_lt.2 hen h
    · exact Nat.not_lt.2 h hctx
    · exact Nat.not_lt.2 h hidx
    · exact Nat.not_lt.2 h htrc
    · exact Nat.not_lt.2 hfull (hdata h).1
  have hnamed : ¬(((cfind s.parts (num m 4 1)).isNone ||
      (decide (num m 6 1 = 1) && (cfind (partOf s (num m 4 1)).ctxs (endpointOf m).ctx).isNone)) = true) := by
    rw [Option.isNone_eq_false_iff.2 hthere, Bool.false_or, Bool.and_eq_true, decide_eq_true_iff]
    rintro ⟨h, hnone⟩
    rw [Option.isNone_eq_false_iff.2 (hdata h).2] at hnone
    cases hnone
  exact (if_neg hrange).trans (if_neg hnamed)

/-! ### Lending -/

theorem lend_own {m : List Byte} {s : State} (hx : num m 4 1 < Config.partitions) (hy : num m 5 1 < Config.partitions)
    (hne : num m 4 1 ≠ num m 5 1) (hk : num m 6 1 < 64) (hthere : (cfind s.parts (num m 4 1)).isSome = true)
    (hown : num m 6 1 ∈ (partOf s (num m 4 1)).desc.const) (hloan : ∀ e ∈ (partOf s (num m 4 1)).loans, e.1 ≠ num m 6 1)
    (hmore : 2 ≤ (partOf s (num m 4 1)).desc.const.length) :
    lend m s =
      if (cfind s.parts (num m 5 1)).isNone then (s, 13)
      else if s.blocks.any fun b => b.part = num m 4 1 && Config.constOf b.core = num m 6 1 then (s, 13)
      else (modPart (vacate (modPart s (num m 4 1) fun q => { q with desc := { q.desc with const := sremove q.desc.const (num m 6 1) } })
        (num m 4 1) [num m 6 1]) (num m 5 1) fun q =>
          { q with desc := { q.desc with const := sinsert q.desc.const (num m 6 1) }, loans := q.loans ++ [(num m 6 1, num m 4 1)] }, 1) := by
  have hlent : ((partOf s (num m 4 1)).loans.any fun e => e.1 = num m 6 1) = false :=
    List.any_eq_false.2 fun e he h => hloan e he (of_decide_eq_true h)
  unfold lend
  dsimp only
  rw [hthere, hlent, List.contains_iff_mem.2 hown]
  refine (if_neg ?_).trans ?_
  · simp [Nat.not_le.2 hx, Nat.not_le.2 hy, hne, Nat.not_le.2 hk]
    omega
  · rfl

theorem lend_foreign {m : List Byte} {s : State} (hthere : (cfind s.parts (num m 4 1)).isSome = true)
    (hown : num m 6 1 ∉ (partOf s (num m 4 1)).desc.const) : lend m s = (s, 9) := by
  unfold lend
  dsimp only
  rw [hthere]
  exact if_pos (by simp [hown])

theorem reclaim_lent {m : List Byte} {s : State} {y : Nat} {q : Part} (hx : num m 4 1 < Config.partitions) (hk : num m 6 1 < 64)
    (hthere : (cfind s.parts (num m 4 1)).isSome = true)
    (hlent : s.parts.find? (fun e => e.2.loans.contains (num m 6 1, num m 4 1)) = some (y, q)) :
    reclaim m s =
      let t := ((s.blocks.filter fun b => b.part = y && Config.constOf b.core = num m 6 1).map Block.id).foldl (fun s b => evict s y b) s
      let t := modPart t y fun q =>
        { q with desc := { q.desc with const := sremove q.desc.const (num m 6 1) }
                 loans := q.loans.filter fun e => e ≠ (num m 6 1, num m 4 1) }
      let t := modPart (vacate t y [num m 6 1]) (num m 4 1) fun q =>
        { q with desc := { q.desc with const := sinsert q.desc.const (num m 6 1) } }
      ({ t with recs := t.recs.map fun r =>
          if r.part = y && r.queued && Config.constOf r.home = num m 6 1 then { r with home := homeOf t r } else r }, 1) := by
  have hbad : ¬((decide (Config.partitions ≤ num m 4 1) || decide (64 ≤ num m 6 1)) = true) := by
    simp [Nat.not_le.2 hx, Nat.not_le.2 hk]
  unfold reclaim
  dsimp only
  rw [if_neg hbad, Option.isNone_eq_false_iff.2 hthere, if_neg Bool.false_ne_true, hlent]
  rfl

/-! ### Power and firmware -/

theorem setCap_legal {m : List Byte} {s : State} (hmax : num m 8 4 ≤ 3200) (hmin : (s.parts.map fun q => q.2.desc.pwr).sum + 200 ≤ num m 8 4)
    (hmode : num m 12 1 ≤ 1) :
    setCap m s = ({ s with cap := num m 8 4, capBefore := num m 8 4, budgetMode := num m 12 1 = 1 }, 1) := by
  unfold setCap
  exact if_neg (by simp [Nat.not_lt.2 hmax, Nat.not_lt.2 hmin, Nat.not_lt.2 hmode])

/-- R315: what MBOX and STAGE have staged after a chunk. -/
def stagedBy (m : List Byte) (s : State) : List Byte :=
  splice (s.boot.staged ++ List.replicate (num m 8 4 - s.boot.staged.length) 0) (num m 8 4) (mgets s.mgmt.stage 0 (num m 12 4))

theorem putChunk_legal {m : List Byte} {s : State} (hmin : 8 ≤ num m 12 4) (hmax : num m 12 4 ≤ 4096) (halign : num m 12 4 % 8 = 0)
    (hlast : num m 16 1 ≤ 1) :
    putChunk m s =
      if num m 16 1 = 0 then ({ s with boot := { s.boot with staged := stagedBy m s } }, 1)
      else if slotStatus { s.boot with staged := stagedBy m s, slots := s.boot.slots.set 0 (stagedBy m s),
                                       readable := s.boot.readable.set 0 true } 0 = 0 then
        ({ s with boot := { s.boot with staged := [], slots := s.boot.slots.set 0 (stagedBy m s), readable := s.boot.readable.set 0 true } }, 1)
      else (s, 9) := by
  have hbad : ¬((decide (num m 12 4 < 8) || decide (4096 < num m 12 4) || decide (num m 12 4 % 8 ≠ 0) || decide (1 < num m 16 1)) = true) := by
    simp only [Bool.or_eq_true, decide_eq_true_iff]
    omega
  unfold putChunk
  dsimp only
  exact if_neg hbad

/-- Settles O53, KIND by KIND: the request that may be served is served by its event. -/
theorem managerEvents : Obligations.ManagerEvents := by
  rintro s m rfl
  refine ⟨fun h => ?_, fun p k => vacate_clauses s p k, fun p c => ctxOf_limitSplits s p c, fun h => ?_, fun h => ?_, fun h => ?_, fun h => ?_,
    fun h => ?_, fun h => ?_, fun h hmax hmin hmode => ?_, fun h => ?_, fun hup hbusy hkind c va => ?_⟩
  · dsimp only
    intro hp halign hfits hlegal hshares hsaved hblocks hresume
    exact congrArg Host.Outcome.next (serveMgmt_asked h
      (putDescriptor_taken hp halign hfits hlegal hshares hsaved (hasResident_none hblocks hresume)))
  · dsimp only
    intro q hp hc hq hnew
    have hserved : exec .createTenantContext s = _ := congrArg Host.Outcome.next (serveMgmt_asked h (addContext_new hp hc hq hnew))
    refine ⟨fun hruns => ?_, fun hnone => ?_⟩
    · rw [hserved, if_pos hruns]
    · rw [hserved, if_neg (by rw [hnone]; exact Bool.false_ne_true)]
  · dsimp only
    intro hp hc hthere
    exact congrArg Host.Outcome.next (serveMgmt_asked h (dropContext_there hp hc hthere))
  · dsimp only
    intro hp hkind hen hctx hidx htrc hdata hthere
    exact congrArg Host.Outcome.next (serveMgmt_asked h (putEndpoint_legal hp hkind hen hctx hidx htrc hdata hthere))
  · dsimp only
    intro hx hy hne hk hthere hown hloan hmore
    have hserved : exec .lendConstellation s = _ :=
      congrArg Host.Outcome.next (serveMgmt_asked h (lend_own hx hy hne hk hthere hown hloan hmore))
    refine ⟨fun hy hidle => ?_, fun hy => ?_⟩
    · have hnone : (s.blocks.any fun b => b.part = num s.mgmt.mbox 4 1 && Config.constOf b.core = num s.mgmt.mbox 6 1) = false :=
        List.any_eq_false.2 fun b hb hin => hidle b hb (by simpa using hin)
      rw [hserved, Option.isNone_eq_false_iff.2 hy, if_neg Bool.false_ne_true, hnone, if_neg Bool.false_ne_true]
    · rw [hserved, hy]
      rfl
  · intro hx hy hthere hown
    exact congrArg Host.Outcome.next (serveMgmt_asked h (lend_foreign hthere hown))
  · dsimp only
    intro y q hx hk hthere hlent
    refine (congrArg Host.Outcome.next (serveMgmt_asked h (reclaim_lent hx hk hthere hlent))).trans ?_
    simp only [Bool.and_eq_true, decide_eq_true_eq, and_assoc]
  · exact congrArg Host.Outcome.next (serveMgmt_asked h (setCap_legal hmax hmin hmode))
  · dsimp only
    intro hmin hmax halign
    refine ⟨fun hmore => ?_, fun hlast => ?_⟩
    · have hserved : exec .writeFirmwareChunk s = _ :=
        congrArg Host.Outcome.next (serveMgmt_asked h (putChunk_legal hmin hmax halign (by omega)))
      rw [hserved, if_pos hmore]
      rfl
    · have hserved : exec .writeFirmwareChunk s = _ :=
        congrArg Host.Outcome.next (serveMgmt_asked h (putChunk_legal hmin hmax halign (by omega)))
      rw [hserved, if_neg (by omega)]
      unfold stagedBy
      split <;> rfl
  · refine congrArg Host.Outcome.next (if_pos ?_)
    simpa [hup, hbusy] using hkind

end Sys2Proof.Proofs
end
section
/-! PROOF of O59: what it says of each kind of result that the memories stay canonical, and how a result taken apart by a match keeps them so. -/

namespace Sys2Proof.Proofs

open Sys2Proof Sys2Proof.Machine Sys2Proof.Laws

/-- The state that an instruction goes on to, if it does, has canonical memories. -/
def OutWf : Out → Prop
  | .next s => memWf s = true
  | _ => True

/-- The state that is there, if one is, has canonical memories. -/
def OptWf : Option State → Prop
  | some s => memWf s = true
  | none => True

/-- The state in which a uniform instruction ends for its path has canonical memories. -/
def EndWf : UEnd → Prop
  | .done s => memWf s = true
  | .goto s _ => memWf s = true
  | .stay s => memWf s = true
  | .trap s _ => memWf s = true
  | .trapNext s _ => memWf s = true

/-- The state that is there, when nothing traps, has canonical memories. -/
def OkWf : Except Trap State → Prop
  | .ok s => memWf s = true
  | .error _ => True

/-- The state in which an instruction issues, or in which none does, has canonical memories. -/
def IssWf : Except State Issuing → Prop
  | .ok n => memWf n.state = true
  | .error s => memWf s = true

theorem outWf_next {s : State} (h : memWf s = true) : OutWf (.next s) := h

theorem optWf_some {s : State} (h : memWf s = true) : OptWf (some s) := h

theorem optWf_of {o : Option State} (h : ∀ t, o = some t → memWf t = true) : OptWf o := by
  cases o with
  | none => trivial
  | some t => exact h t rfl

theorem okWf_ok {s : State} (h : memWf s = true) : OkWf (.ok s) := h

theorem issWf_ok {n : Issuing} (h : memWf n.state = true) : IssWf (.ok n) := h

theorem issWf_error {s : State} (h : memWf s = true) : IssWf (.error s) := h

theorem endWf_done {s : State} (h : memWf s = true) : EndWf (.done s) := h

theorem endWf_goto {s : State} {pc : DWord} (h : memWf s = true) : EndWf (.goto s pc) := h

theorem endWf_stay {s : State} (h : memWf s = true) : EndWf (.stay s) := h

theorem endWf_trap {s : State} {t : Trap} (h : memWf s = true) : EndWf (.trap s t) := h

theorem endWf_trapNext {s : State} {t : Trap} (h : memWf s = true) : EndWf (.trapNext s t) := h

theorem okWf_check (c : Bool) (t : Trap) (k : Except Trap State) (h : OkWf k) : OkWf (check c t k) := by
  unfold check
  split
  · trivial
  · exact h

theorem okWf_checkFor (o : Option Trap) (k : Except Trap State) (h : OkWf k) : OkWf (checkFor o k) := by
  unfold checkFor
  split
  · trivial
  · exact h

theorem memWf_fst {α : Type} {p : State × α} {t : State} {a : α} (e : p = (t, a)) (h : memWf p.1 = true) : memWf t = true := by
  rw [e] at h
  exact h

theorem memWf_some {o : Option State} {t : State} (e : o = some t) (h : OptWf o) : memWf t = true := by
  rw [e] at h
  exact h

theorem memWf_ok {o : Except Trap State} {t : State} (e : o = .ok t) (h : OkWf o) : memWf t = true := by
  rw [e] at h
  exact h

theorem memWf_next {o : Out} {t : State} (e : o = .next t) (h : OutWf o) : memWf t = true := by
  rw [e] at h
  exact h

/-- A read keeps the memories canonical. -/
theorem memWf_read {s t : State} (r : OnlyRead s t) (h : memWf s = true) : memWf t = true := (memWf_onlyRead r).trans h

/-- An operation that keeps the memories, done for every element of a list with something else carried along, keeps them. -/
theorem memWf_foldl_fst {β γ : Type} (f : State × γ → β → State × γ) (hf : ∀ r x, memWf r.1 = true → memWf (f r x).1 = true)
    (xs : List β) (r : State × γ) (h : memWf r.1 = true) : memWf (xs.foldl f r).1 = true := by
  induction xs generalizing r with
  | nil => exact h
  | cons x xs ih => exact ih _ (hf _ _ h)

theorem laneWf_same {l m : Lane} (h : laneWf l = true) (hp : m.priv = l.priv) (hr : m.regs = l.regs) : laneWf m = true := by
  rw [laneWf, hp, hr]
  exact h

theorem groupWf_same {g k : Group} (h : groupWf g = true) (hl : k.lanes = g.lanes) : groupWf k = true := by
  rw [groupWf, hl]
  exact h

theorem blockWf_same {b k : Block} (h : blockWf b = true) (hs : k.scratch = b.scratch) (hg : k.groups = b.groups) :
    blockWf k = true := by
  rw [blockWf, hs, hg]
  exact h

theorem partWf_same {q k : Part} (h : partWf q = true) (hr : k.resume = q.resume) (hc : k.ctxs = q.ctxs) : partWf k = true := by
  rw [partWf, hr, hc]
  exact h

theorem groupWf_modLanes (g : Group) (ls : List Nat) (f : Nat → Lane → Lane) (hf : ∀ i l, laneWf l = true → laneWf (f i l) = true)
    (h : groupWf g = true) : groupWf (g.modLanes ls f) = true :=
  groupWf_mapIdx g _ (fun i l hl => by split; exacts [hf i l hl, hl]) h

theorem groupWf_modLane (g : Group) (i : Nat) (f : Lane → Lane) (hf : ∀ l, laneWf l = true → laneWf (f l) = true)
    (h : groupWf g = true) : groupWf (g.modLane i f) = true := by
  simp only [groupWf, List.all_eq_true, Group.modLane] at h ⊢
  intro l hl
  obtain ⟨j, hj, rfl⟩ := List.mem_iff_getElem.1 hl
  rw [List.getElem_modify]
  have := h _ (List.getElem_mem (by simpa using hj))
  split
  · exact hf _ this
  · exact this

/-! ### Lanes written -/

theorem laneWf_setReg (l : Lane) (n : Nat) (v : Word) (h : laneWf l = true) : laneWf (l.setReg n v) = true := by
  simp only [laneWf, Bool.and_eq_true] at h ⊢
  exact ⟨h.1, cwf_cput _ _ _ _ h.2⟩

theorem laneWf_dst32 (l : Lane) (f : BitVec 7) (v : Word) (h : laneWf l = true) : laneWf (l.dst32 f v) = true :=
  laneWf_setReg _ _ _ h

theorem laneWf_dst64 (l : Lane) (f : BitVec 7) (v : DWord) (h : laneWf l = true) : laneWf (l.dst64 f v) = true :=
  laneWf_setReg _ _ _ (laneWf_setReg _ _ _ h)

theorem laneWf_dst128 (l : Lane) (f : BitVec 7) (v : BitVec 128) (h : laneWf l = true) : laneWf (l.dst128 f v) = true :=
  laneWf_setReg _ _ _ (laneWf_setReg _ _ _ (laneWf_setReg _ _ _ (laneWf_setReg _ _ _ h)))

theorem laneWf_dstBits (l : Lane) (f : BitVec 7) (n x : Nat) (h : laneWf l = true) : laneWf (l.dstBits f n x) = true := by
  unfold Lane.dstBits
  split
  · exact laneWf_dst128 _ _ _ h
  · split
    · exact laneWf_dst64 _ _ _ h
    · exact laneWf_dst32 _ _ _ h

theorem laneWf_setPred (l : Lane) (n : Nat) (v : Bool) (h : laneWf l = true) : laneWf (l.setPred n v) = true := by
  unfold Lane.setPred
  split <;> exact h

theorem laneWf_pwr (l : Lane) (pd : BitVec 5) (comb : BitVec 2) (t : Bool) (h : laneWf l = true) :
    laneWf (l.pwr pd comb t) = true := laneWf_setPred _ _ _ h

/-- A table over rising keys, without the entries that read alike unlisted, is canonical. -/
theorem cwf_pairs {α : Type} [DecidableEq α] (d : α) (f : Nat → α) (ks : List Nat) (h : ks.Pairwise (· < ·)) :
    cwf d ((ks.map fun k => (k, f k)).filter fun q => q.2 ≠ d) = true := by
  simp only [cwf, Bool.and_eq_true, List.all_eq_true]
  refine ⟨csorted_filter _ _ ?_, fun p hp => (List.mem_filter.1 hp).2⟩
  induction ks with
  | nil => rfl
  | cons k ks ih =>
    obtain ⟨hk, hks⟩ := List.pairwise_cons.1 h
    exact (csorted_cons _ _ _).2 ⟨List.forall_mem_map.2 fun j hj => hk j hj, ih hks⟩

theorem laneWf_deadLane (draw budget : Nat) : laneWf (deadLane draw budget) = true := by
  simp only [laneWf, Bool.and_eq_true]
  exact ⟨rfl, cwf_pairs _ _ _ List.pairwise_lt_range⟩

/-! ### Every lane, group or block changed -/

theorem groupWf_mapLanes (g : Group) (f : Lane → Lane) (hf : ∀ l, laneWf l = true → laneWf (f l) = true) (h : groupWf g = true) :
    (g.lanes.map f).all laneWf = true := by
  simp only [groupWf, List.all_eq_true] at h ⊢
  exact List.forall_mem_map.2 fun l hl => hf l (h l hl)

theorem blockWf_mapGroups (b : Block) (f : Group → Group) (hf : ∀ g, groupWf g = true → groupWf (f g) = true) (h : blockWf b = true) :
    blockWf { b with groups := b.groups.map f } = true := by
  simp only [blockWf, Bool.and_eq_true, List.all_eq_true] at h ⊢
  exact ⟨h.1, List.forall_mem_map.2 fun g hg => hf g (h.2 g hg)⟩

theorem blockWf_mapLanes (b : Block) (f : Lane → Lane) (hf : ∀ l, laneWf l = true → laneWf (f l) = true) (h : blockWf b = true) :
    blockWf { b with groups := b.groups.map fun g => { g with lanes := g.lanes.map f } } = true :=
  blockWf_mapGroups b _ (fun g hg => groupWf_mapLanes g f hf hg) h

theorem wf_clusterOf {s : State} {c : Nat} {k : Cluster} (e : clusterOf s c = some k) (h : memWf s = true) : Memory.wf k.mem = true :=
  ((memWf_iff s).1 h).clusters k (List.mem_of_find?_eq_some e)

theorem partWf_partOf {s : State} (h : memWf s = true) (p : Nat) : partWf (partOf s p) = true := by
  unfold partOf
  cases e : cfind s.parts p with
  | none => rfl
  | some q => exact ((memWf_iff s).1 h).parts _ (mem_of_cfind e)

/-- A partition with another resume queue. -/
theorem partWf_resume (q : Part) (bs : List Block) (hb : ∀ b ∈ bs, blockWf b = true) (h : partWf q = true) :
    partWf { q with resume := bs } = true := by
  simp only [partWf, Bool.and_eq_true, List.all_eq_true] at h ⊢
  exact ⟨hb, h.2⟩

theorem blockWf_resume {q : Part} (h : partWf q = true) : ∀ b ∈ q.resume, blockWf b = true := by
  simp only [partWf, Bool.and_eq_true, List.all_eq_true] at h
  exact h.1

theorem memWf_addBlock (s : State) (b : Block) (hb : blockWf b = true) (h : memWf s = true) :
    memWf { s with blocks := s.blocks ++ [b] } = true := by
  have w := (memWf_iff s).1 h
  exact (memWf_iff _).2 { w with blocks := List.forall_mem_append.2 ⟨w.blocks, List.forall_mem_singleton.2 hb⟩ }

theorem memWf_filterBlocks (s : State) (f : Block → Bool) (h : memWf s = true) :
    memWf { s with blocks := s.blocks.filter f } = true := by
  have w := (memWf_iff s).1 h
  exact (memWf_iff _).2 { w with blocks := fun b hb => w.blocks b (List.mem_of_mem_filter hb) }

/-- What is saved of a context, changed in what is no memory. -/
theorem savedWf_map (o : Option Saved) (g : Saved → Saved) (hg : ∀ v, savedWf v = true → savedWf (g v) = true)
    (h : (o.map savedWf).getD true = true) : ((o.map g).map savedWf).getD true = true := by
  cases o with
  | none => rfl
  | some v => exact hg v h

theorem memWf_mapBlocks (s : State) (f : Block → Block) (hf : ∀ b, blockWf b = true → blockWf (f b) = true) (h : memWf s = true) :
    memWf { s with blocks := s.blocks.map f } = true := by
  have w := (memWf_iff s).1 h
  exact (memWf_iff _).2 { w with blocks := List.forall_mem_map.2 fun b hb => hf b (w.blocks b hb) }

/-- A partition's parked blocks and what is saved of its contexts, changed. -/
theorem partWf_map (q : Part) (f : Block → Block) (g : Saved → Saved) (hf : ∀ b, blockWf b = true → blockWf (f b) = true)
    (hg : ∀ v, savedWf v = true → savedWf (g v) = true) (h : partWf q = true) :
    partWf { q with
      resume := q.resume.map f
      ctxs := q.ctxs.map fun x => (x.1, { x.2 with saved := x.2.saved.map g }) } = true := by
  simp only [partWf, Bool.and_eq_true, List.all_eq_true] at h ⊢
  exact ⟨List.forall_mem_map.2 fun b hb => hf b (h.1 b hb), List.forall_mem_map.2 fun x hx => savedWf_map _ g hg (h.2 x hx)⟩

/-- The blocks that are saved of a context, changed. -/
theorem savedWf_mapBlocks (v : Saved) (f g : Block → Block) (hf : ∀ b, blockWf b = true → blockWf (f b) = true)
    (hg : ∀ b, blockWf b = true → blockWf (g b) = true) (h : savedWf v = true) :
    savedWf { v with blocks := v.blocks.map f, resume := v.resume.map g } = true := by
  simp only [savedWf, Bool.and_eq_true, List.all_eq_true] at h ⊢
  obtain ⟨⟨hb, hr⟩, hc⟩ := h
  exact ⟨⟨List.forall_mem_map.2 fun b h => hf b (hb b h), List.forall_mem_map.2 fun b h => hg b (hr b h)⟩, hc⟩

/-! ### How a lane instruction and a uniform one end -/

theorem groupWf_group {b : Block} {g : Nat} {k : Group} (e : b.group g = some k) (h : blockWf b = true) : groupWf k = true := by
  simp only [blockWf, Bool.and_eq_true, List.all_eq_true] at h
  exact h.2 k (List.mem_of_getElem? e)

theorem blockWf_blockOf {s : State} {b : Nat} {k : Block} (e : blockOf s b = some k) (h : memWf s = true) : blockWf k = true :=
  ((memWf_iff s).1 h).blocks k (List.mem_of_find?_eq_some e)

theorem laneWf_lane {g : Group} (h : groupWf g = true) (i : Nat) : laneWf (g.lane i) = true := by
  unfold Group.lane
  cases e : g.lanes[i]? with
  | none => rfl
  | some l =>
    simp only [groupWf, List.all_eq_true] at h
    exact h l (List.mem_of_getElem? e)

/-- The group that issues has canonical memories when the state does. -/
theorem groupWf_pathOf {s : State} {p : Path} (e : pathOf s = some p) (h : memWf s = true) : groupWf p.g = true := by
  obtain ⟨b, hb, he⟩ := Option.bind_eq_some_iff.1 e
  obtain ⟨g, hg, rfl⟩ := Option.map_eq_some_iff.1 he
  have k := groupWf_group hg (blockWf_blockOf hb h)
  show groupWf (g.asRead s.cur.lanes) = true
  unfold Group.asRead
  split <;> exact k

end Sys2Proof.Proofs
end
section
/-! PROOF of O59: the combinators of instructions, contexts that are killed, counters. -/

namespace Sys2Proof.Proofs

open Sys2Proof Sys2Proof.Machine Sys2Proof.Laws

theorem memWf_logTo (s : State) (p code ctx unit ukind count : Nat) (info : DWord) (asPart : Nat) (h : memWf s = true) :
    memWf (logTo s p code ctx unit ukind count info asPart) = true := by
  unfold logTo
  dsimp only
  split <;> exact memWf_modPart_same _ _ _ (fun _ => rfl) (fun _ => rfl) h

theorem memWf_logPart (s : State) (p code ctx unit ukind count : Nat) (info : DWord) (h : memWf s = true) :
    memWf (logPart s p code ctx unit ukind count info) = true := memWf_logTo _ _ _ _ _ _ _ _ _ h

theorem memWf_logAll (s : State) (code unit ukind count : Nat) (info : DWord) (h : memWf s = true) :
    memWf (logAll s code unit ukind count info) = true :=
  memWf_foldl _ (fun _ _ k => memWf_logTo _ _ _ _ _ _ _ _ _ k) _ _ h

theorem memWf_logUnit (s : State) (p code ctx unit ukind count : Nat) (info : DWord) (h : memWf s = true) :
    memWf (logUnit s p code ctx unit ukind count info) = true := by
  unfold logUnit
  split
  · exact memWf_logAll _ _ _ _ _ _ h
  · exact memWf_logPart _ _ _ _ _ _ _ _ h

theorem memWf_trapGroup (s : State) (bid gi i : Nat) (t : Trap) (h : memWf s = true) : memWf (trapGroup s bid gi i t) = true := by
  unfold trapGroup
  split
  · exact h
  · split
    · exact h
    · exact memWf_stopWith _ _ _ _ h

theorem memWf_unpoison (s : State) (p : Path) (i : Instr) (lanes : List Nat) (h : memWf s = true) :
    memWf (unpoison s p i lanes) = true := h

theorem memWf_raiseLanes (s : State) (p : Path) (ts : List (Nat × Trap)) (h : memWf s = true) :
    memWf (raiseLanes s p ts) = true := memWf_trapLanes _ _ _ _ _ h

/-- A lane instruction keeps the memories when its effect keeps a lane's. -/
theorem outWf_laneTrap (i : Instr) (x : LExt) (f : Path → Nat → Lane → Lane → LaneEnd)
    (hf : ∀ p n l m, laneWf l = true → laneWf m = true → laneWf (f p n l m).1 = true) (s : State) (h : memWf s = true) :
    OutWf (laneTrap i x f s) := by
  unfold laneTrap
  split
  · trivial
  · next p hp =>
    have ends : ∀ n, laneWf (laneEnd s p i x (f p) n).1 = true := fun n => by
      have hl := laneWf_lane (groupWf_pathOf hp h) n
      have he := hf p n (p.g.lane n) ((p.g.lane n).advance p.iss.next) hl hl
      unfold laneEnd
      dsimp only
      split
      · exact hl
      · split
        · split
          · next hfe =>
            rw [hfe] at he
            split
            · exact he
            · exact hl
          · exact hl
        · exact he
    refine memWf_raiseLanes _ _ _ (memWf_unpoison _ _ _ _ (memWf_modGroup _ _ _ _ (fun g hg => groupWf_mapIdx g _ (fun n l hl => ?_) hg) h))
    split
    · next e he =>
      obtain ⟨k, -, rfl⟩ := List.mem_map.1 (List.mem_of_find?_eq_some he)
      exact ends k
    · exact hl

theorem outWf_laneMap (i : Instr) (x : LExt) (f : Path → Nat → Lane → Lane → Lane)
    (hf : ∀ p n l m, laneWf l = true → laneWf m = true → laneWf (f p n l m) = true) (s : State) (h : memWf s = true) :
    OutWf (laneMap i x f s) := outWf_laneTrap i x _ hf s h

theorem memWf_pathTo (s : State) (p : Path) (pc : DWord) (h : memWf s = true) : memWf (pathTo s p pc) = true :=
  memWf_modGroup _ _ _ _ (fun _ k => groupWf_modLanes _ _ _ (fun _ _ h => by split <;> exact h) k) h

theorem memWf_pathHold (s : State) (p : Path) (h : Hold) (hs : memWf s = true) : memWf (pathHold s p h) = true :=
  memWf_modGroup _ _ _ _ (fun _ k => groupWf_modLanes _ _ _ (fun _ _ k' => laneWf_same k' rfl rfl) k) hs

theorem memWf_pathGroup (s : State) (p : Path) (f : Group → Group) (hf : ∀ k, groupWf k = true → groupWf (f k) = true)
    (h : memWf s = true) : memWf (pathGroup s p f) = true := memWf_modGroup _ _ _ _ hf h

/-- A change of the issuing group but for its lanes keeps the memories. -/
theorem memWf_pathGroup_same (s : State) (p : Path) (f : Group → Group) (hf : ∀ k, (f k).lanes = k.lanes) (h : memWf s = true) :
    memWf (pathGroup s p f) = true := memWf_modGroup_same _ _ _ _ hf h

theorem memWf_pathBlock (s : State) (p : Path) (f : Block → Block) (hf : ∀ k, blockWf k = true → blockWf (f k) = true)
    (h : memWf s = true) : memWf (pathBlock s p f) = true := memWf_modBlock _ _ _ hf h

theorem outWf_out (p : Path) (e : UEnd) (h : EndWf e) : OutWf (e.out p) := by
  cases e with
  | done s => exact memWf_pathTo _ _ _ h
  | goto s pc => exact memWf_pathTo _ _ _ h
  | stay s => exact h
  | trap s t => exact memWf_trapGroup _ _ _ _ _ h
  | trapNext s t => exact memWf_trapGroup _ _ _ _ _ (memWf_pathTo _ _ _ h)

/-- A uniform instruction keeps the memories when its effect does. -/
theorem outWf_uniform (x : UExt) (f : Path → State → UEnd) (s : State) (hf : ∀ p t, memWf t = true → EndWf (f p t))
    (h : memWf s = true) : OutWf (uniform x f s) := by
  unfold uniform
  split
  · trivial
  · split
    · exact outWf_out _ _ (hf _ _ h)
    · exact outWf_out _ _ h

theorem memWf_checkDiverged (s : State) (bid gi : Nat) (h : memWf s = true) : memWf (checkDiverged s bid gi) = true := by
  unfold checkDiverged
  split
  · exact h
  · split
    · exact memWf_trapGroup _ _ _ _ _ h
    · exact h

theorem memWf_holdReconv (s : State) (p : Path) (h : memWf s = true) : memWf (holdReconv s p) = true :=
  memWf_checkDiverged _ _ _ (memWf_pathHold _ _ _ h)

theorem outWf_uniformConv (x : UExt) (f : Path → State → UEnd) (s : State) (hf : ∀ p t, memWf t = true → EndWf (f p t))
    (h : memWf s = true) : OutWf (uniformConv x f s) := by
  unfold uniformConv
  split
  · trivial
  · split
    · dsimp only
      split
      · exact outWf_out _ _ (hf _ _ (memWf_pathHold _ _ _ h))
      · exact outWf_out _ (.done _) (memWf_pathHold _ _ _ h)
    · exact memWf_holdReconv _ _ h

theorem memWf_tlbFill (s : State) (draw : Nat) (e : TlbEntry) (h : memWf s = true) : memWf (tlbFill s draw e) = true :=
  memWf_read (onlyRead_tlbFill _ _ _) h

theorem memWf_translateBy (s : State) (us : List TlbUnit) (part ctx trc : Nat) (va : DWord) (draw : Nat)
    (h : memWf s = true) :
    memWf (translateBy s us part ctx trc va draw).1 = true := by
  unfold translateBy
  split
  · exact h
  · dsimp only
    split
    · dsimp only
      exact memWf_foldl _ (fun _ _ k => memWf_tlbFill _ _ _ k) _ _ h
    · split
      · exact h
      · dsimp only
        exact memWf_foldl _ (fun _ _ k => memWf_tlbFill _ _ _ k) _ _ h

theorem memWf_translate (s : State) (core part ctx trc : Nat) (va : DWord) (draw : Nat) (h : memWf s = true) :
    memWf (Machine.translate s core part ctx trc va draw).1 = true := memWf_translateBy _ _ _ _ _ _ _ h

theorem memWf_translateMover (s : State) (part ctx trc : Nat) (va : DWord) (draw : Nat) (h : memWf s = true) :
    memWf (translateMover s part ctx trc va draw).1 = true := by
  unfold translateMover
  split
  · exact h
  · split
    · split
      · exact h
      · exact memWf_translateBy _ _ _ _ _ _ _ h
    · exact memWf_translateBy _ _ _ _ _ _ _ h

theorem memWf_dropTlb (s : State) (part ctx : Nat) (f : TlbEntry → Bool) (h : memWf s = true) :
    memWf (dropTlb s part ctx f) = true := h

theorem memWf_poolTouch (s : State) (core a n : Nat) (draw : Nat) (h : memWf s = true) :
    memWf (poolTouch s core a n draw) = true :=
  memWf_read (onlyRead_poolTouch _ _ _ _ _) h

theorem memWf_dropLeases (s : State) (core : Nat) (h : memWf s = true) : memWf (dropLeases s core) = true := h

theorem memWf_poolWrite (s : State) (a : Nat) (v : Byte) (h : memWf s = true) : memWf (poolWrite s a v) = true :=
  (memWf_dropStale _ _).trans h

theorem memWf_poolMerge (s : State) (line : Nat) (h : memWf s = true) : memWf (poolMerge s line) = true := by
  have k := memWf_foldl (fun s (q : QueuedStore) => dropStale s q.addr) (fun _ _ h => h) (s.sysq.filter fun q => q.addr / 64 = line) s h
  exact k

theorem memWf_publish (s : State) (cmd : Nat) (h : memWf s = true) : memWf (publish s cmd) = true :=
  memWf_landWhere _ _ _ h

theorem memWf_landAll (s : State) (part : Nat) (mine : Nat → Bool) (h : memWf s = true) : memWf (landAll s part mine) = true :=
  memWf_landWhere _ _ _ h

theorem memWf_landRange (s : State) (part ctx trc low high : Nat) (h : memWf s = true) :
    memWf (landRange s part ctx trc low high) = true := memWf_landWhere _ _ _ h

theorem memWf_leaveCore (s : State) (b : Block) (h : memWf s = true) : memWf (leaveCore s b) = true :=
  (memWf_modCore _ _ _).trans h

theorem memWf_discardCmds (s : State) (f : Cmd → Bool) (h : memWf s = true) : memWf (discardCmds s f) = true := by
  have w := (memWf_iff s).1 h
  exact (memWf_iff _).2 { w with shades := fun k hk => w.shades k (List.mem_of_mem_filter hk) }

theorem saved_killed (x : Ctx) : (x.killed.saved.map savedWf).getD true = true := by
  unfold Ctx.killed
  cases x.saved <;> rfl

theorem partWf_killed (c : Nat) (q : Part) (f : Block → Bool) (h : partWf q = true) :
    partWf { q with resume := q.resume.filter f, ctxs := cset q.ctxs c ((cfind q.ctxs c).getD {}).killed } = true := by
  simp only [partWf, Bool.and_eq_true, List.all_eq_true] at h ⊢
  exact ⟨fun b hb => h.1 b (List.mem_of_mem_filter hb),
    all_cset (P := fun x : Ctx => (x.saved.map savedWf).getD true = true) h.2 c (saved_killed _)⟩

theorem memWf_killCtx (s : State) (p c : Nat) (h : memWf s = true) : memWf (killCtx s p c) = true := by
  unfold killCtx
  dsimp only
  refine memWf_modPart _ _ _ (fun q hq => partWf_killed c q _ hq) ?_
  have k := memWf_landAll _ p (fun k => k = c) (memWf_discardCmds _ (fun k => k.part = p && k.ctx = c)
    (memWf_foldl leaveCore memWf_leaveCore (s.blocks.filter fun b => b.part = p && b.ctx = c) s h))
  have w := (memWf_iff _).1 k
  exact (memWf_iff _).2 ⟨w.dram, w.dsp, w.pool, w.host, w.stage, fun b hb => w.blocks b (List.mem_of_mem_filter hb),
    fun k hk => w.clusters k (List.mem_of_mem_filter hk), w.shades, w.parts⟩

theorem memWf_killLogged (s : State) (p c unit ukind : Nat) (info : DWord) (h : memWf s = true) :
    memWf (killLogged s p c unit ukind info) = true := memWf_logPart _ _ _ _ _ _ _ _ (memWf_killCtx _ _ _ h)

theorem memWf_isolate (s : State) (p core : Nat) (target : DWord) (h : memWf s = true) :
    memWf (isolate s p core target) = true :=
  memWf_killLogged _ _ _ _ _ _ (memWf_logPart _ _ _ _ _ _ _ _ ((memWf_modCore _ _ _).trans h))

theorem memWf_isolateCopy (s : State) (p core : Nat) (target : DWord) (h : memWf s = true) :
    memWf (isolateCopy s p core target) = true :=
  memWf_killLogged _ _ _ _ _ _ (memWf_logPart _ _ _ _ _ _ _ _ (memWf_discardCmds _ _ h))

theorem memWf_isolateEngine (s : State) (p unit : Nat) (target : DWord) (h : memWf s = true) :
    memWf (isolateEngine s p unit target) = true :=
  memWf_killLogged _ _ _ _ _ _ (memWf_logPart _ _ _ _ _ _ _ _ (memWf_discardCmds _ _ h))

theorem memWf_bumpCounter (s : State) (p c k n : Nat) (h : memWf s = true) : memWf (bumpCounter s p c k n) = true :=
  memWf_modCtx_same _ _ _ _ (fun _ => rfl) h

theorem saved_addTo (xs : List Nat) (f : Ctx → Nat → Ctx) (hf : ∀ x k, (f x k).saved = x.saved) (x : Ctx) :
    (xs.foldl f x).saved = x.saved := by
  induction xs generalizing x with
  | nil => rfl
  | cons k xs ih => exact (ih _).trans (hf x k)

theorem memWf_countEvent (s : State) (p c code n : Nat) (h : memWf s = true) : memWf (countEvent s p c code n) = true := by
  unfold countEvent
  split
  · exact memWf_modCtx_same _ _ _ _ (fun x => saved_addTo _ (fun x k => x.addTo (x.selected s.clk k).2 k n) (fun _ _ => rfl) x) h
  · exact h

theorem memWf_countDie (s : State) (p die ksteps vops bytes : Nat) (h : memWf s = true) :
    memWf (countDie s p die ksteps vops bytes) = true := memWf_modPart_same _ _ _ (fun _ => rfl) (fun _ => rfl) h

theorem memWf_countWork (s : State) (p core ksteps vops bytes : Nat) (h : memWf s = true) :
    memWf (countWork s p core ksteps vops bytes) = true := memWf_countDie _ _ _ _ _ _ h

end Sys2Proof.Proofs
end

section
/-! PROOF of O59: handles, records, commands, the places of engines. -/

namespace Sys2Proof.Proofs

open Sys2Proof Sys2Proof.Machine Sys2Proof.Laws

theorem memWf_allocHandle (s : State) (p c : Nat) (o : Obj) (h : memWf s = true) : memWf (allocHandle s p c o).1 = true := by
  unfold allocHandle
  dsimp only
  split
  · exact h
  · dsimp only
    exact memWf_modCtx_same _ _ _ _ (fun _ => rfl) h

theorem memWf_queueReady (s : State) (h : memWf s = true) : memWf (queueReady s) = true := h

theorem memWf_restartWaits (s : State) (sp : FeSpace) (ks : List Nat) (v : Bool) (h : memWf s = true) :
    memWf (restartWaits s sp ks v) = true := h

theorem memWf_modFull (s : State) (sp : FeSpace) (f : List Nat → List Nat) (h : memWf s = true) :
    memWf (modFull s sp f) = true := by
  unfold modFull
  dsimp only
  split
  · refine memWf_modBlock _ _ _ (fun _ k => blockWf_same k rfl rfl) ?_
    have w := (memWf_iff _).1 h
    exact (memWf_iff _).2 { w with shades := List.forall_mem_map.2 fun k hk => by split <;> exact w.shades k hk }
  · refine memWf_modCluster _ _ _ (fun _ h => h) ?_
    have w := (memWf_iff _).1 h
    exact (memWf_iff _).2 { w with shades := List.forall_mem_map.2 fun k hk => by split <;> exact w.shades k hk }
  · have w := (memWf_iff _).1 h
    exact (memWf_iff _).2 { w with shades := List.forall_mem_map.2 fun k hk => by split <;> exact w.shades k hk }

theorem memWf_setFulls (s : State) (sp : FeSpace) (ks : List Nat) (v : Bool) (h : memWf s = true) :
    memWf (setFulls s sp ks v) = true := memWf_queueReady _ (memWf_modFull _ _ _ (memWf_restartWaits _ _ _ _ h))

theorem memWf_setFull (s : State) (sp : FeSpace) (k : Nat) (v : Bool) (h : memWf s = true) : memWf (setFull s sp k v) = true :=
  memWf_setFulls _ _ _ _ h

theorem memWf_addRec (s : State) (r : TaskRec) (h : memWf s = true) : memWf (addRec s r) = true :=
  memWf_queueReady _ h

theorem memWf_dropRecs (s : State) (p c : Nat) (h : Word) (hs : memWf s = true) : memWf (dropRecs s p c h) = true := by
  unfold dropRecs
  dsimp only
  split
  · exact hs
  · exact memWf_bumpCounter _ _ _ _ _ (memWf_modCtx _ _ _ _ (fun _ hx => savedWf_map _ _ (fun _ hv => hv) hx) hs)

theorem memWf_retireSlot (s : State) (p c : Nat) (h : Word) (hs : memWf s = true) : memWf (retireSlot s p c h) = true :=
  memWf_modCtx_same _ _ _ _ (fun _ => rfl) hs

theorem memWf_retireHandle (s : State) (p c : Nat) (h : Word) (hs : memWf s = true) : memWf (retireHandle s p c h) = true :=
  memWf_dropRecs _ _ _ _ (memWf_retireSlot _ _ _ _ hs)

theorem memWf_globalPlace (s : State) (w : Who) (kind : AccessKind) (va : DWord) (draw : Nat) (h : memWf s = true) :
    memWf (globalPlace s w kind va draw).1 = true :=
  memWf_read (onlyRead_globalPlace _ _ _ _ _) h

theorem memWf_checkRange (s : State) (b : Block) (grp lane : Nat) (kind : AccessKind) (t : Target) (n : Nat)
    (h : memWf s = true) :
    memWf (checkRange s b grp lane kind t n).1 = true := by
  unfold checkRange
  split
  · exact h
  · split
    · exact memWf_globalPlace _ _ _ _ _ h
    · exact h

theorem memWf_checkAccess (s : State) (b : Block) (grp lane : Nat) (kind : AccessKind) (t : Target) (n : Nat)
    (h : memWf s = true) :
    memWf (checkAccess s b grp lane kind t n).1 = true := by
  unfold checkAccess
  split
  · next heq => exact memWf_fst heq (memWf_checkRange _ _ _ _ _ _ _ h)
  · split
    · next heq _ => exact memWf_fst heq (memWf_checkRange _ _ _ _ _ _ _ h)
    · next heq _ => exact memWf_fst heq (memWf_checkRange _ _ _ _ _ _ _ h)

theorem memWf_touchPlace (s : State) (core draw : Nat) (p : Place) (n : Nat) (h : memWf s = true) :
    memWf (touchPlace s core draw p n) = true :=
  memWf_read (onlyRead_touchPlace _ _ _ _ _) h

theorem memWf_loadAt (s : State) (b : Block) (lane : Nat) (p : Place) (n : Nat) (h : memWf s = true) :
    memWf (loadAt s b lane p n).1 = true := by
  unfold loadAt
  dsimp only
  exact memWf_touchPlace _ _ _ _ _ h

theorem memWf_storeAt (s : State) (b : Block) (p : Place) (n x : Nat) (h : memWf s = true) : memWf (storeAt s b p n x) = true := by
  unfold storeAt
  split
  · exact h
  · exact memWf_coverPlace _ _ _ (memWf_writePlace _ _ _ h)

theorem memWf_ownLine (s : State) (p : Place) (h : memWf s = true) : memWf (ownLine s p) = true := by
  unfold ownLine
  split
  · split
    · exact memWf_wakeRetry _ _ _ (memWf_poolMerge _ _ h)
    · exact h
  · exact h

theorem memWf_updateAt (s : State) (b : Block) (lane : Nat) (p : Place) (n : Nat) (f : Nat → Option Nat)
    (h : memWf s = true) :
    memWf (updateAt s b lane p n f).1 = true := by
  unfold updateAt
  dsimp only
  split
  · refine memWf_ownLine _ _ (memWf_storeAt _ _ _ _ _ ?_)
    split
    · split
      · exact memWf_foldl _ (fun _ _ k => (memWf_dropStale _ _).trans k) _ _ (memWf_ownLine _ _ h)
      · exact memWf_ownLine _ _ h
    · exact memWf_ownLine _ _ h
  · split
    · split
      · dsimp only
        exact memWf_foldl _ (fun _ _ k => (memWf_dropStale _ _).trans k) _ _ (memWf_ownLine _ _ h)
      · dsimp only
        exact memWf_ownLine _ _ h
    · dsimp only
      exact memWf_ownLine _ _ h

theorem memWf_modCmd (s : State) (id : Nat) (f : Cmd → Cmd) (h : memWf s = true) : memWf (modCmd s id f) = true := h

theorem memWf_globalParts (s : State) (c : Cmd) (kind : AccessKind) (va : DWord) (rs : List (Nat × Nat)) (h : memWf s = true) :
    memWf (globalParts s c kind va rs).1 = true := memWf_read (onlyRead_globalParts _ _ _ _ _) h

theorem memWf_engineRead (s : State) (c : Cmd) (a : EngAddr) (n : Nat) (h : memWf s = true) :
    memWf (engineRead s c a n).1 = true := memWf_read (onlyRead_engineRead _ _ _ _) h

theorem memWf_pieceSrc (s : State) (c : Cmd) (o : Nat) (h : memWf s = true) : memWf (pieceSrc s c o).1 = true := by
  unfold pieceSrc
  split
  · exact h
  · exact h
  · split
    · split
      · next heq2 => exact memWf_fst heq2 (memWf_engineRead _ _ _ _ h)
      · next heq2 => exact memWf_fst heq2 (memWf_engineRead _ _ _ _ h)
  · exact h
  · exact h

theorem memWf_readSource (s : State) (c : Cmd) (o n : Nat) (h : memWf s = true) : memWf (readSource s c o n).1 = true :=
  memWf_read (onlyRead_readSource _ _ _ _) h

theorem memWf_readPiece (s : State) (c : Cmd) (o : Nat) (h : memWf s = true) : memWf (readPiece s c o).1 = true := by
  unfold readPiece
  split
  · exact h
  · split
    · next heq => exact memWf_fst heq (memWf_readSource _ _ _ _ h)
    · exact memWf_readSource _ _ _ _ h

theorem memWf_earlier (r : State × Cmd) (o : Nat) (h : memWf r.1 = true) : memWf (earlier r o).1 = true :=
  memWf_read (onlyRead_earlier _ _) h

theorem memWf_readAhead (cmd : Nat) (s : State) (o : Nat) (h : memWf s = true) : memWf (readAhead cmd s o) = true :=
  memWf_read (onlyRead_readAhead _ _ _) h



theorem memWf_rowsAhead (ra : Nat) (mine : BfqRow → Bool) (s : State) (rows : List BfqRow) (h : memWf s = true) :
    memWf (rowsAhead ra mine s rows).1 = true :=
  memWf_read (onlyRead_rowsAhead _ _ _ _) h

theorem memWf_bindingAhead (mine : BfqRow → Bool) (s : State) (unit : Nat) (h : memWf s = true) :
    memWf (bindingAhead mine s unit) = true :=
  memWf_read (onlyRead_bindingAhead _ _ _) h

theorem laneWf_feDone (pc : DWord) (l : Lane) (h : laneWf l = true) : laneWf (match l.hold with
    | .feDone next => if l.npc = pc then { l with npc := next, hold := .none, once := false } else l
    | _ => l) = true := by
  split
  · split <;> exact h
  · exact h

theorem memWf_feRelease (s : State) (blk grp : Nat) (pc : DWord) (h : memWf s = true) : memWf (feRelease s blk grp pc) = true := by
  unfold feRelease
  split
  · exact h
  · dsimp only
    split
    · exact h
    · exact memWf_modGroup _ _ _ _ (fun k hk => groupWf_mapLanes k _ (laneWf_feDone pc) hk) h

theorem memWf_fePerform (s : State) (w : FeWait) (h : memWf s = true) : memWf (fePerform s w) = true := by
  have k : memWf (sealSources s w.blk [((groupOf s w.blk w.grp).map fun g => (g.lane w.lane).tid).getD 0]) = true :=
    (memWf_sealSources _ _ _).trans h
  unfold fePerform
  dsimp only
  refine memWf_feRelease _ _ _ _ ?_
  split
  · refine memWf_modLane _ _ _ _ _ (fun l hl => ?_) (memWf_foldl _ (fun _ _ k => (memWf_coverPoison _ _ _ _).trans k) _ _ ?_)
    · have hd := laneWf_dstBits l w.d (max 32 (8 * w.bytes)) (leNat (readPlace (sealSources s w.blk
        [((groupOf s w.blk w.grp).map fun g => (g.lane w.lane).tid).getD 0]) 0 0 (w.space.place w.off) w.bytes)) hl
      split <;> exact hd
    · split
      · exact memWf_setFull _ _ _ _ k
      · exact k
  · exact memWf_modLane _ _ _ _ _ (fun _ hl => by split <;> exact hl)
      (memWf_setFull _ _ _ _ (memWf_coverPlace _ _ _ (memWf_writePlace _ _ _ k)))

theorem memWf_feStop (s : State) (w : FeWait) (t : Trap) (h : memWf s = true) : memWf (feStop s w t) = true :=
  memWf_feRelease _ _ _ _ (memWf_trapLanes _ _ _ _ _ (memWf_modLane _ _ _ _ _ (fun _ k => laneWf_same k rfl rfl) h))

theorem memWf_feTrap (s : State) (w : FeWait) (h : memWf s = true) : memWf (feTrap s w) = true :=
  memWf_feStop _ _ _ h

theorem memWf_feServe (n : Nat) (s : State) (h : memWf s = true) : memWf (feServe n s) = true := by
  induction n generalizing s with
  | zero => exact h
  | succ n ih =>
    unfold feServe
    split
    · exact h
    · refine ih _ ?_
      split
      · exact memWf_feTrap _ _ h
      · exact memWf_fePerform _ _ h

theorem memWf_feRetry (s : State) (h : memWf s = true) : memWf (feRetry s) = true := memWf_feServe _ _ h

theorem memWf_engineLocal (s : State) (p : Place) (bad : Bool) (bs : List Byte) (h : memWf s = true) :
    memWf (engineLocal s p bad bs) = true := by
  unfold engineLocal
  dsimp only
  refine memWf_feRetry _ ?_
  split
  · split
    · refine memWf_foldl _ (fun _ _ k => memWf_setFull _ _ _ _ k) _ _ ?_
      split
      · exact memWf_poisonPlace _ _ _ (memWf_coverPlace _ _ _ (memWf_writePlace _ _ _ h))
      · exact memWf_coverPlace _ _ _ (memWf_writePlace _ _ _ h)
    · split
      · exact memWf_poisonPlace _ _ _ (memWf_coverPlace _ _ _ (memWf_writePlace _ _ _ h))
      · exact memWf_coverPlace _ _ _ (memWf_writePlace _ _ _ h)
  · split
    · exact memWf_poisonPlace _ _ _ (memWf_coverPlace _ _ _ (memWf_writePlace _ _ _ h))
    · exact memWf_coverPlace _ _ _ (memWf_writePlace _ _ _ h)

/-- R190: one lane's turn keeps the memories when its access does. -/
theorem memWf_laneTurn (p : Path) (i : Instr) (x : LExt) (f : Path → Nat → State → State × Option NoAccess)
    (hf : ∀ n t, memWf t = true → memWf (f p n t).1 = true) (acc : State × List (Nat × NoAccess)) (n : Nat)
    (h : memWf acc.1 = true) : memWf (laneTurn p i x f acc n).1 = true := by
  have go : memWf (modLane acc.1 p.iss.blk p.iss.grp n fun l => l.advance p.iss.next) = true :=
    memWf_modLane _ _ _ _ _ (fun _ hl => hl) h
  unfold laneTurn
  dsimp only
  split
  · exact go
  · split
    · exact h
    · split
      · next hr => exact memWf_unpoison _ _ _ _ (memWf_fst hr (hf n _ go))
      · next hr => exact memWf_modLane _ _ _ _ _ (fun _ hl => hl) (memWf_fst hr (hf n _ go))

theorem memWf_endTurns (p : Path) (r : State × List (Nat × NoAccess)) (h : memWf r.1 = true) : memWf (endTurns p r) = true := by
  unfold endTurns
  split
  · exact memWf_isolate _ _ _ _ h
  · exact memWf_raiseLanes _ _ _ h

theorem memWf_linkHold (s : State) (p : Path) (i : Instr) (h : memWf s = true) : memWf (linkHold s p i) = true :=
  memWf_modGroup _ _ _ _ (fun _ k => groupWf_modLanes _ _ _ (fun _ _ k' => laneWf_same k' rfl rfl) k) h

/-- R130, R190: a lane instruction on memory keeps the memories when each lane's access, and what follows, does. -/
theorem outWf_laneFold (i : Instr) (x : LExt) (f : Path → Nat → State → State × Option NoAccess) (fin : Path → State → State)
    (s : State) (hf : ∀ p n t, memWf t = true → memWf (f p n t).1 = true) (hfin : ∀ p t, memWf t = true → memWf (fin p t) = true)
    (h : memWf s = true) : OutWf (laneFold i x f fin s) := by
  unfold laneFold
  split
  · trivial
  · next p hp =>
    have k := memWf_foldl_fst (laneTurn p i x f) (fun r n hr => memWf_laneTurn p i x f (hf p) r n hr)
      (accessOrder s.laneOrder p.lanes) (s, []) h
    dsimp only [OutWf]
    generalize (accessOrder s.laneOrder p.lanes).foldl (laneTurn p i x f) (s, []) = r at k
    split
    · exact memWf_linkHold _ _ _ h
    · refine memWf_endTurns _ _ ?_
      split
      · exact hfin _ _ k
      · exact k

theorem endWf_uend (p : Path) (s : State) (e : NoAccess) (h : memWf s = true) : EndWf (e.uend p s) := by
  cases e with
  | trap t => exact h
  | foreign t => exact memWf_isolate _ _ _ _ h
  | wait => exact memWf_pathHold _ _ _ h

theorem memWf_noteSys (s : State) (p : Path) (store : Bool) (pl : Place) (h : memWf s = true) :
    memWf (noteSys s p store pl) = true := memWf_pathGroup_same _ _ _ (fun _ => by split <;> rfl) h

theorem memWf_countAccess (s : State) (p : Path) (store : Bool) (m : BitVec 32) (h : memWf s = true) :
    memWf (countAccess s p store m) = true := memWf_pathGroup_same _ _ _ (fun _ => by split <;> rfl) h

theorem memWf_modSlot (s : State) (k : SlotKey) (f : BarSlot → BarSlot) (h : memWf s = true) : memWf (modSlot s k f) = true := by
  unfold modSlot
  split
  · exact memWf_modGroup_same _ _ _ _ (fun _ => rfl) h
  · exact memWf_modBlock _ _ _ (fun _ k => blockWf_same k rfl rfl) h
  · exact memWf_modCluster _ _ _ (fun _ h => h) h
  · exact (memWf_modGrid _ _ _).trans h

theorem laneWf_slotGone (k : SlotKey) (l : Lane) (h : laneWf l = true) : laneWf (match l.hold with
    | .slot j next _ _ => if j = k then { l with npc := next, hold := .none, once := false } else l
    | _ => l) = true := by
  split
  · split <;> exact h
  · exact h

theorem memWf_releaseSlot (s : State) (k : SlotKey) (h : memWf s = true) : memWf (releaseSlot s k) = true := by
  have w := (memWf_iff s).1 h
  refine (memWf_iff _).2 { w with blocks := List.forall_mem_map.2 fun b hb => blockWf_mapGroups b _ (fun g hg => ?_) (w.blocks b hb) }
  split
  · exact hg
  · exact groupWf_mapLanes g _ (laneWf_slotGone k) hg

theorem memWf_settleSlot (s : State) (k : SlotKey) (h : memWf s = true) : memWf (settleSlot s k) = true := by
  unfold settleSlot
  split
  · split
    · exact memWf_releaseSlot _ _ (memWf_foldl _ (fun _ _ k' => memWf_publish _ _ k') _ _ (memWf_modSlot _ _ _ h))
    · exact h
  · exact h

theorem memWf_arriveSlot (s : State) (k : SlotKey) (count : Nat) (h : memWf s = true) : memWf (arriveSlot s k count) = true :=
  memWf_settleSlot _ _ (memWf_modSlot _ _ _ h)

theorem memWf_expectSlot (s : State) (k : SlotKey) (n : Nat) (h : memWf s = true) : memWf (expectSlot s k n) = true :=
  memWf_settleSlot _ _ (memWf_modSlot _ _ _ h)

theorem blockWf_hold (k : SlotKey) (n cmd : Nat) (b : Block) (h : blockWf b = true) : blockWf (b.hold k n cmd) = true := by
  unfold Block.hold
  split
  · split
    · exact blockWf_modGroup _ _ _ (fun _ hg => hg) h
    · exact h
  · split <;> exact h
  · exact h

theorem savedWf_hold (k : SlotKey) (n cmd : Nat) (v : Saved) (h : savedWf v = true) : savedWf (v.hold k n cmd) = true := by
  simp only [savedWf, Bool.and_eq_true, List.all_eq_true] at h ⊢
  obtain ⟨⟨hb, hr⟩, hc⟩ := h
  exact ⟨⟨List.forall_mem_map.2 fun b h => blockWf_hold k n cmd b (hb b h), List.forall_mem_map.2 fun b h => blockWf_hold k n cmd b (hr b h)⟩,
    List.forall_mem_map.2 fun c h => hc c h⟩

theorem partWf_hold (k : SlotKey) (n cmd : Nat) (q : Part) (h : partWf q = true) : partWf (q.hold k n cmd) = true := by
  simp only [partWf, Bool.and_eq_true, List.all_eq_true] at h ⊢
  exact ⟨List.forall_mem_map.2 fun b hb => blockWf_hold k n cmd b (h.1 b hb),
    List.forall_mem_map.2 fun c hc => savedWf_map _ _ (savedWf_hold k n cmd) (h.2 c hc)⟩

theorem memWf_holdCount (s : State) (k : SlotKey) (n cmd : Nat) (h : memWf s = true) : memWf (holdCount s k n cmd) = true := by
  have w := (memWf_iff s).1 h
  exact (memWf_iff _).2 { w with parts := List.forall_mem_map.2 fun q hq => partWf_hold k n cmd q.2 (w.parts q hq) }

theorem memWf_addBytes (s : State) (k : SlotKey) (n cmd : Nat) (h : memWf s = true) : memWf (addBytes s k n cmd) = true := by
  unfold addBytes
  split
  · exact memWf_settleSlot _ _ (memWf_modSlot _ _ _ h)
  · exact memWf_holdCount _ _ _ _ h

theorem memWf_overlay (s : State) (c : Cmd) (page : Nat × Nat) (va pa : Nat) (bs : List Byte) (h : memWf s = true) :
    memWf (overlay s c page va pa bs) = true := h

theorem memWf_globalWrite (s : State) (c : Cmd) (bad : Bool) (page : Nat × Nat) (va pa : Nat) (bs : List Byte)
    (h : memWf s = true) :
    memWf (globalWrite s c bad page va pa bs) = true := by
  unfold globalWrite
  split
  · exact h
  · dsimp only
    split
    · exact memWf_poisonPlace _ _ _ (memWf_coverPlace _ _ _ (memWf_overlay _ _ _ _ _ _ h))
    · exact memWf_coverPlace _ _ _ (memWf_overlay _ _ _ _ _ _ h)

theorem memWf_engineWrite (s : State) (c : Cmd) (bad : Bool) (a : EngAddr) (bs : List Byte) (h : memWf s = true) :
    memWf (engineWrite s c bad a bs).1 = true := by
  unfold engineWrite
  split
  · split
    · next heq => exact memWf_fst heq (memWf_globalParts _ _ _ _ _ h)
    · next heq =>
        dsimp only
        exact memWf_foldl _ (fun _ _ k => memWf_globalWrite _ _ _ _ _ _ _ k) _ _ (memWf_fst heq (memWf_globalParts _ _ _ _ _ h))
  · split
    · dsimp only
      exact memWf_engineLocal _ _ _ _ h
    · exact h
  · split
    · dsimp only
      exact memWf_engineLocal _ _ _ _ h
    · dsimp only
      exact memWf_bumpCounter _ _ _ _ _ (memWf_modCmd _ _ _ h)

theorem memWf_putPiece (s : State) (c : Cmd) (o : Nat) (h : memWf s = true) : memWf (putPiece s c o).1 = true := by
  unfold putPiece
  split
  · next heq => exact memWf_fst heq (memWf_readPiece _ _ _ h)
  · next heq => exact memWf_engineWrite _ _ _ _ _ (memWf_fst heq (memWf_readPiece _ _ _ h))

theorem memWf_movePiece (s : State) (c : Cmd) (h : memWf s = true) : memWf (movePiece s c).1 = true := by
  unfold movePiece
  split
  · next heq => exact memWf_fst heq (memWf_putPiece _ _ _ h)
  · next heq =>
      dsimp only
      exact memWf_modCmd _ _ _ (memWf_fst heq (memWf_putPiece _ _ _ h))

theorem memWf_dropShades (s : State) (h : memWf s = true) : memWf (dropShades s) = true := by
  unfold dropShades
  have w := (memWf_iff _).1 h
  exact (memWf_iff _).2 { w with shades := fun k hk => w.shades k (List.mem_of_mem_filter hk) }

theorem memWf_leaveShade (s : State) (h : Shade) (f : Cmd → Bool) (hm : Memory.wf h.mem = true) (hs : memWf s = true) :
    memWf (leaveShade s h f) = true := by
  unfold leaveShade
  dsimp only
  split
  · exact hs
  · have w := (memWf_iff s).1 hs
    refine (memWf_iff _).2 { w with shades := fun k hk => ?_ }
    rcases List.mem_append.1 hk with e | e
    · exact w.shades k e
    · rw [List.mem_singleton.1 e]
      exact hm

theorem memWf_retireCmd (s : State) (c : Cmd) (keep : Bool) (h : memWf s = true) : memWf (retireCmd s c keep) = true := by
  unfold retireCmd
  extract_lets out t u
  have ht : memWf t = true := memWf_modGroup_same _ _ _ _ (fun _ => rfl) h
  have hu : memWf u = true := memWf_wakeRetry _ _ _ ht
  exact memWf_dropShades _ hu

theorem memWf_finishCmd (s : State) (c : Cmd) (h : memWf s = true) : memWf (finishCmd s c) = true := by
  unfold finishCmd
  dsimp only
  split
  · split
    · exact memWf_addBytes _ _ _ _ (memWf_retireCmd _ _ _ h)
    · split
      · exact memWf_retireCmd _ _ _ h
      · exact memWf_bumpCounter _ _ _ _ _ (memWf_retireCmd _ _ _ h)
  · exact memWf_addBytes _ _ _ _ (memWf_retireCmd _ _ _ h)

theorem memWf_clearAcc (s : State) (blk a : Nat) (h : memWf s = true) : memWf (clearAcc s blk a) = true := h

theorem memWf_performMma (s : State) (core blk fn acc shape : Nat) (fa fb : Cells Word) (s15 : DWord) (k0 k1 : Nat)
    (h : memWf s = true) :
    memWf (performMma s core blk fn acc shape fa fb s15 k0 k1) = true := by
  unfold performMma
  dsimp only
  split
  · exact memWf_clearAcc _ _ _ (memWf_countWork _ _ _ _ _ _ ((memWf_modCore _ _ _).trans h))
  · exact memWf_countWork _ _ _ _ _ _ ((memWf_modCore _ _ _).trans h)

end Sys2Proof.Proofs
end

section
/-! PROOF of O59: drains, regroup pools, families. -/

namespace Sys2Proof.Proofs

open Sys2Proof Sys2Proof.Machine Sys2Proof.Laws

theorem memWf_drainPiece (s : State) (c : Cmd) (acc : Nat) (dst : EngAddr) (fmt pitch : Nat) (add : Bool)
    (h : memWf s = true) :
    memWf (drainPiece s c acc dst fmt pitch add).1 = true := by
  unfold drainPiece
  split
  · dsimp only
    split
    · split
      · next heq1 => exact memWf_fst heq1 (memWf_engineRead _ _ _ _ h)
      · split
        · next heq1 _ _ _ heq2 =>
            dsimp only
            exact memWf_modCmd _ _ _ (memWf_fst heq2 (memWf_engineWrite _ _ _ _ _ (memWf_fst heq1
                (memWf_engineRead _ _ _ _ h))))
        · next heq1 _ _ _ heq2 => exact memWf_fst heq2 (memWf_engineWrite _ _ _ _ _ (memWf_fst heq1
            (memWf_engineRead _ _ _ _ h)))
    · split
      · next heq1 =>
          dsimp only
          exact memWf_modCmd _ _ _ (memWf_fst heq1 (memWf_engineWrite _ _ _ _ _ h))
      · next heq1 => exact memWf_fst heq1 (memWf_engineWrite _ _ _ _ _ h)

theorem memWf_gatherParts (s : State) (c : Cmd) (ps : List (DWord × Part16)) (h : memWf s = true) :
    memWf (gatherParts s c ps).1 = true := by
  induction ps generalizing s with
  | nil => exact h
  | cons p ps ih =>
    obtain ⟨va, q⟩ := p
    have hg := memWf_globalParts s c .write va (segments va.toNat q.bytes.length) h
    unfold gatherParts
    split
    · next e => exact memWf_fst e hg
    · next e => exact ih _ (memWf_fst e hg)

theorem memWf_makeUpdate (c : Cmd) (s : State) (parts : List Part16) (h : memWf s = true) : memWf (makeUpdate c s parts) = true := by
  unfold makeUpdate
  dsimp only
  refine memWf_modCmd _ _ _ ?_
  split
  · exact memWf_landUpdate _ _ h
  · exact h

theorem memWf_meetFault (s : State) (c : Cmd) (t : Trap) (h : memWf s = true) : memWf (meetFault s c t) = true :=
  memWf_modCmd _ _ _ h

theorem memWf_putParts (s : State) (c : Cmd) (put : State → List Part16 → State) (foreign : State → DWord → State)
    (hp : ∀ t qs, memWf t = true → memWf (put t qs) = true) (hf : ∀ t a, memWf t = true → memWf (foreign t a) = true)
    (r : State × List Part16 × Option NoAccess) (hr : memWf r.1 = true) (h : memWf s = true) :
    memWf (putParts s c put foreign r).1 = true := by
  obtain ⟨t, qs, _ | e⟩ := r
  · exact hp _ _ hr
  · cases e with
    | trap e => exact memWf_meetFault _ _ _ (hp _ _ hr)
    | foreign a => exact hf _ _ hr
    | wait => exact h

theorem memWf_drainAdd (s : State) (c : Cmd) (acc : Nat) (va : DWord) (pitch : Nat) (h : memWf s = true) :
    memWf (drainAdd s c acc va pitch).1 = true := by
  unfold drainAdd
  extract_lets part
  exact memWf_putParts _ _ _ _ (fun _ _ k => memWf_makeUpdate _ _ _ k) (fun _ _ k => memWf_isolate _ _ _ _ k) _
    (memWf_gatherParts _ _ _ h) h

theorem memWf_drainAll (s : State) (id acc n : Nat) (h : memWf s = true) : memWf (drainAll s id acc n).1 = true := by
  induction n generalizing s with
  | zero => exact h
  | succ n ih =>
    unfold drainAll
    split
    · exact h
    · next c _ =>
      have hd := fun dst fmt pitch add => memWf_drainPiece s c acc dst fmt pitch add h
      split
      · split
        · exact h
        · exact memWf_drainAdd _ _ _ _ _ h
      · split
        · exact h
        · split
          · next e => exact ih _ (memWf_fst e (hd _ _ _ _))
          · next e => exact memWf_fst e (hd _ _ _ _)
          · next e =>
            dsimp only
            exact memWf_isolate _ _ _ _ (memWf_fst e (hd _ _ _ _))
          · next e =>
            dsimp only
            exact memWf_meetFault _ _ _ (memWf_fst e (hd _ _ _ _))
      · exact h

theorem memWf_performOp (s : State) (core : Nat) (o : MatOp) (h : memWf s = true) : memWf (performOp s core o).1 = true := by
  cases o with
  | mma => exact memWf_performMma _ _ _ _ _ _ _ _ _ _ _ h
  | mdrain blk acc cmd grp =>
    unfold performOp
    exact memWf_countWork _ _ _ _ _ _ (memWf_drainAll _ _ _ _ h)

theorem memWf_dropOp (s : State) (core : Nat) (o : MatOp) (h : memWf s = true) : memWf (dropOp s core o) = true :=
  (memWf_modCore _ _ _).trans h

theorem memWf_haltOp (s : State) (core : Nat) (h : memWf s = true) : memWf (haltOp s core) = true := by
  unfold haltOp
  split
  · exact h
  · exact (memWf_modCore _ _ _).trans (memWf_performMma _ _ _ _ _ _ _ _ _ _ _ h)
  · split
    · next heq1 => exact memWf_dropOp _ _ _ (memWf_fst heq1 (memWf_performOp _ _ _ h))
    · next heq1 => exact memWf_fst heq1 (memWf_performOp _ _ _ h)

theorem memWf_performAll (s : State) (core n : Nat) (h : memWf s = true) : memWf (performAll s core n) = true := by
  induction n generalizing s with
  | zero => exact h
  | succ n ih =>
    unfold performAll
    split
    · exact h
    · next o _ _ =>
      split
      · next e => exact ih _ (memWf_dropOp _ _ _ (memWf_fst e (memWf_performOp _ _ o h)))
      · next e => exact memWf_fst e (memWf_performOp _ _ o h)

theorem memWf_performPending (s : State) (b : Block) (h : memWf s = true) : memWf (performPending s b) = true := by
  unfold performPending
  split
  · exact h
  · exact (memWf_modCore _ _ _).trans (memWf_performAll _ _ _ ((memWf_modCore _ _ _).trans h))

theorem memWf_guestFetch (s : State) (p : Path) (n : Nat) (h : memWf s = true) : memWf (guestFetch s p n).1 = true := by
  unfold guestFetch
  dsimp only
  split
  · exact h
  · split
    · next heq1 => exact memWf_fst heq1 (memWf_checkAccess _ _ _ _ _ _ _ h)
    · next heq1 =>
        dsimp only
        exact memWf_modLane _ _ _ _ _ (fun _ k => laneWf_same k rfl rfl) (memWf_loadAt _ _ _ _ _
            ((memWf_sealSources _ _ _).trans (memWf_fst heq1 (memWf_checkAccess _ _ _ _ _ _ _ h))))

theorem memWf_guestLookup (s : State) (b : Block) (g : Group) (grp n : Nat) (gop : Byte) (h : memWf s = true) :
    memWf (guestLookup s b g grp n gop).1 = true := by
  unfold guestLookup
  dsimp only
  split
  · next heq => exact memWf_fst heq (memWf_checkAccess _ _ _ _ _ _ _ h)
  · split
    · next heq _ =>
        dsimp only
        exact memWf_loadAt _ _ _ _ _ ((memWf_sealSources _ _ _).trans (memWf_fst heq (memWf_checkAccess _ _ _ _ _ _ _ h)))
    · split
      · next heq _ _ =>
          dsimp only
          exact memWf_loadAt _ _ _ _ _ ((memWf_sealSources _ _ _).trans (memWf_fst heq (memWf_checkAccess _ _ _ _ _ _ _ h)))
      · next heq _ _ =>
          dsimp only
          exact memWf_loadAt _ _ _ _ _ ((memWf_sealSources _ _ _).trans (memWf_fst heq (memWf_checkAccess _ _ _ _ _ _ _ h)))

theorem memWf_guestDispatchLane (p : Path) (n : Nat) (s : State) (h : memWf s = true) :
    memWf (guestDispatchLane p n s).1 = true := by
  unfold guestDispatchLane
  split
  · next heq => exact memWf_fst heq (memWf_guestFetch _ _ _ h)
  · dsimp only
    split
    · next heq _ _ _ heq1 => exact memWf_fst heq1 (memWf_guestLookup _ _ _ _ _ _ (memWf_fst heq (memWf_guestFetch _ _ _ h)))
    · next heq _ _ _ heq1 =>
        dsimp only
        exact memWf_modLane _ _ _ _ _ (fun _ k => laneWf_same k rfl rfl) (memWf_fst heq1 (memWf_guestLookup _ _ _ _ _ _
            (memWf_fst heq (memWf_guestFetch _ _ _ h))))

theorem memWf_movePoison (s : State) (blk : Nat) (moves : List ((Nat × Nat) × (Nat × Nat))) (h : memWf s = true) :
    memWf (movePoison s blk moves) = true := h

theorem memWf_poolLookup (rg : Bool) (blk : Nat) (s : State) (at' : Nat × Nat) (h : memWf s = true) :
    memWf (poolLookup rg blk s at') = true := by
  unfold poolLookup
  split
  · exact h
  · split
    · exact h
    · dsimp only
      split
      · next heq2 => exact memWf_modLane _ _ _ _ _ (fun _ k => laneWf_same k rfl rfl) (memWf_fst heq2
          (memWf_guestLookup _ _ _ _ _ _ h))
      · next heq2 => exact memWf_trapLanes _ _ _ _ _ (memWf_modLane _ _ _ _ _ (fun _ k => laneWf_same k rfl rfl)
          (memWf_fst heq2 (memWf_guestLookup _ _ _ _ _ _ h)))
      · next heq2 => exact memWf_isolate _ _ _ _ (memWf_fst heq2 (memWf_guestLookup _ _ _ _ _ _ h))
      · next heq2 => exact memWf_modLane _ _ _ _ _ (fun _ k => laneWf_same k rfl rfl) (memWf_fst heq2
          (memWf_guestLookup _ _ _ _ _ _ h))

theorem memWf_wakeLookups (s : State) (of : Nat → Bool) (h : memWf s = true) : memWf (wakeLookups s of) = true :=
  memWf_foldl _ (fun _ _ k => memWf_poolLookup _ _ _ _ k) _ _ h

theorem pooled_insert {P : Pooled → Prop} (mode : BitVec 2) (x : Pooled) (ys : List Pooled) (hx : P x) (h : ∀ y ∈ ys, P y) :
    ∀ y ∈ insertPooled mode x ys, P y := by
  induction ys with
  | nil => exact List.forall_mem_singleton.2 hx
  | cons y ys ih =>
    obtain ⟨hy, hys⟩ := List.forall_mem_cons.1 h
    unfold insertPooled
    split
    · exact List.forall_mem_cons.2 ⟨hx, h⟩
    · exact List.forall_mem_cons.2 ⟨hy, ih hys⟩

theorem pooled_sort {P : Pooled → Prop} (mode : BitVec 2) (xs ys : List Pooled) (h : ∀ x ∈ xs, P x) (hy : ∀ y ∈ ys, P y) :
    ∀ y ∈ xs.foldl (fun l x => insertPooled mode x l) ys, P y := by
  induction xs generalizing ys with
  | nil => exact hy
  | cons x xs ih =>
    obtain ⟨hx, hxs⟩ := List.forall_mem_cons.1 h
    exact ih _ hxs (pooled_insert mode x ys hx hy)

theorem pooled_deal {P : Pooled → Prop} (gs : List (Nat × Nat)) (xs : List Pooled) (h : ∀ x ∈ xs, P x) :
    ∀ d ∈ deal gs xs, ∀ x ∈ d.2, P x := by
  induction gs generalizing xs with
  | nil => exact fun d hd => absurd hd List.not_mem_nil
  | cons g gs ih =>
    obtain ⟨g, n⟩ := g
    exact List.forall_mem_cons.2 ⟨fun x hx => h x (List.mem_of_mem_take hx), ih _ fun x hx => h x (List.mem_of_mem_drop hx)⟩

theorem groupWf_seat (draw : Nat) (g : Group) (xs : List Pooled) (h : ∀ x ∈ xs, laneWf x.thread = true) :
    groupWf (g.seat draw xs) = true := by
  simp only [groupWf, Group.seat, List.all_eq_true]
  refine List.forall_mem_map.2 fun i _ => ?_
  split
  · next x hx => exact h x (List.mem_of_getElem? hx)
  · exact laneWf_deadLane _ _

/-- R52, R53: the threads of a block's groups, dealt out, have canonical memories. -/
theorem laneWf_dealt (b : Block) (f : Nat × Group → Bool) (gs : List (Nat × Nat)) (mode : BitVec 2) (h : blockWf b = true) :
    ∀ d ∈ deal gs (sortPooled mode (((b.liveGroups.filterMap fun k => (b.group k).map fun g => (k, g)).filter f).flatMap
      fun q => q.2.live.map fun i => { grp := q.1, lane := i, thread := q.2.lane i : Pooled })), ∀ x ∈ d.2, laneWf x.thread = true := by
  refine pooled_deal gs _ (pooled_sort mode _ [] (fun x hx => ?_) (fun y hy => absurd hy List.not_mem_nil))
  obtain ⟨q, hq, hx⟩ := List.mem_flatMap.1 hx
  obtain ⟨i, -, rfl⟩ := List.mem_map.1 hx
  obtain ⟨k, -, hk⟩ := List.mem_filterMap.1 (List.mem_of_mem_filter hq)
  obtain ⟨g, hg, rfl⟩ := Option.map_eq_some_iff.1 hk
  exact laneWf_lane (groupWf_group hg h) i

theorem memWf_closeRound (s : State) (blk : Nat) (h : memWf s = true) : memWf (closeRound s blk) = true := by
  unfold closeRound
  split
  · exact h
  · next b hb =>
    dsimp only
    refine memWf_foldl _ (fun _ _ k => memWf_poolLookup _ _ _ _ k) _ _ (memWf_foldl _ (fun _ _ k => memWf_poolLookup _ _ _ _ k) _ _
      (memWf_movePoison _ _ _ (memWf_modBlock _ _ _ (fun x hx => ?_) (memWf_countEvent _ _ _ _ _ h))))
    simp only [blockWf, Bool.and_eq_true, List.all_eq_true] at hx ⊢
    refine ⟨hx.1, fun g hg => ?_⟩
    obtain ⟨i, hi, rfl⟩ := List.mem_mapIdx.1 hg
    split
    · next d hd =>
      exact groupWf_seat _ _ _ (laneWf_dealt b _ _ _ (blockWf_blockOf hb h) d (List.mem_of_find?_eq_some hd))
    · exact hx.2 _ (List.getElem_mem _)

theorem memWf_checkRound (s : State) (blk : Nat) (h : memWf s = true) : memWf (checkRound s blk) = true := by
  unfold checkRound
  split
  · split
    · exact memWf_closeRound _ _ h
    · exact h
  · exact h

theorem memWf_mergeTile (s : State) (f : Family) (op : Nat) (h : Word) (r : ViewData) (hs : memWf s = true) :
    memWf (mergeTile s f op h r) = true := by
  unfold mergeTile
  split
  · exact memWf_bumpCounter _ _ _ _ _ hs
  · exact memWf_feRetry _ (memWf_setFulls _ _ _ _ (memWf_foldl _ (fun _ _ k => memWf_poisonPlace _ _ _ k) _ _
      (memWf_coverPlace _ _ _ (memWf_writePlace _ _ _ hs))))

theorem memWf_mergeViews (f : Family) (vs : List (Nat × Word × Nat)) (r : State × List (Word × ViewData)) (h : memWf r.1 = true) :
    memWf (mergeViews f vs r).1 = true := by
  induction vs generalizing r with
  | nil => exact h
  | cons v vs ih =>
    obtain ⟨k, w, op⟩ := v
    obtain ⟨s, up⟩ := r
    unfold mergeViews
    split
    · exact ih _ h
    · exact ih _ (memWf_mergeTile _ _ _ _ _ h)

theorem memWf_putLeaf (s : State) (fid idx : Nat) (l : Leaf) (h : memWf s = true) : memWf (putLeaf s fid idx l) = true :=
  h

theorem memWf_abandonFamily (s : State) (fid : Nat) (h : memWf s = true) : memWf (abandonFamily s fid) = true := h

theorem memWf_loseLeaf (s : State) (fid : Nat) (h : memWf s = true) : memWf (loseLeaf s fid) = true := by
  unfold loseLeaf
  split
  · split
    · exact memWf_abandonFamily _ _ h
    · exact h
  · exact h

theorem memWf_mergeUp (n : Nat) (s : State) (fid : Nat) (h : memWf s = true) : memWf (mergeUp n s fid) = true := by
  induction n generalizing s fid with
  | zero => exact h
  | succ n ih =>
    unfold mergeUp
    split
    · exact h
    · next f _ =>
      have hv := memWf_mergeViews f (f.views.mapIdx fun k v => (k, v.1, v.2)) (s, f.upLeaf) h
      split
      · exact h
      · split
        · split
          · exact ih _ _ (memWf_loseLeaf _ _ h)
          · exact h
        · split
          · split
            · exact ih _ _ (memWf_putLeaf _ _ _ _ hv)
            · exact hv
          · exact h

theorem memWf_settleFamilies (s : State) (h : memWf s = true) : memWf (settleFamilies s) = true :=
  memWf_foldl _ (fun _ _ k => memWf_mergeUp _ _ _ k) _ _ h

theorem memWf_closeFamily (s : State) (blk grp : Nat) (up : Option (Nat × Nat)) (leaf : List (Word × ViewData)) (h : memWf s = true) :
    memWf (closeFamily s blk grp up leaf) = true := by
  unfold closeFamily
  split
  · exact h
  · extract_lets t u
    have ht : memWf t = true := memWf_modGroup_same _ _ _ _ (fun _ => rfl) h
    exact memWf_mergeUp _ u _ ht

theorem memWf_dropFamily (s : State) (blk grp : Nat) (h : memWf s = true) : memWf (dropFamily s blk grp) = true := by
  unfold dropFamily
  split
  · exact h
  · exact memWf_mergeUp _ _ _ (memWf_abandonFamily _ _ (memWf_modGroup_same _ _ _ _ (fun _ => rfl) h))

end Sys2Proof.Proofs
end

section
/-! PROOF of O59: ends of lanes, groups and blocks. -/

namespace Sys2Proof.Proofs

open Sys2Proof Sys2Proof.Machine Sys2Proof.Laws

theorem memWf_rdvContinue (s : State) (blk : Nat) (h : memWf s = true) : memWf (rdvContinue s blk) = true :=
  memWf_modBlock _ _ _ (fun _ k => blockWf_mapLanes _ _ (fun _ h => by split <;> exact h) k) h

theorem memWf_rdvCancel (s : State) (blk sub : Nat) (traps : List Nat) (h : memWf s = true) :
    memWf (rdvCancel s blk sub traps) = true :=
  memWf_foldl _ (fun _ _ k => memWf_trapGroup _ _ _ _ _ k) _ _ (memWf_modBlock _ _ _ (fun _ k => blockWf_mapLanes _ _
      (fun _ h => by split <;> exact h) k) h)

theorem memWf_checkRdv (s : State) (blk : Nat) (h : memWf s = true) : memWf (checkRdv s blk) = true := by
  unfold checkRdv
  split
  · exact h
  · split
    · split
      · exact h
      · dsimp only
        split
        · exact memWf_rdvContinue _ _ (memWf_modBlock _ _ _ (fun _ k => blockWf_mapGroups _ _
            (fun _ h => by split <;> exact h) k) h)
        · split
          · exact memWf_rdvContinue _ _ (memWf_modBlock _ _ _ (fun _ k => blockWf_mapGroups _ _
              (fun _ h => by split <;> exact h) k) h)
          · split
            · exact memWf_rdvCancel _ _ _ _ (memWf_modBlock _ _ _ (fun _ k => blockWf_mapGroups _ _
                (fun _ h => by split <;> exact h) k) h)
            · split
              · exact memWf_rdvCancel _ _ _ _ (memWf_modBlock _ _ _ (fun _ k => blockWf_mapGroups _ _
                  (fun _ h => by split <;> exact h) k) h)
              · exact memWf_modBlock _ _ _ (fun _ k => blockWf_same k rfl rfl) (memWf_modBlock _ _ _
                  (fun _ k => blockWf_mapGroups _ _ (fun _ h => by split <;> exact h) k) h)
    · exact h

theorem memWf_recheckReconv (s : State) (blk grp : Nat) (h : memWf s = true) : memWf (recheckReconv s blk grp) = true := by
  unfold recheckReconv
  split
  · exact h
  · split
    · exact h
    · split
      · exact memWf_modGroup _ _ _ _ (fun _ k => groupWf_mapLanes _ _ (fun _ h => by split <;> exact h) k) h
      · exact memWf_checkDiverged _ _ _ h

theorem memWf_latchFault (s : State) (blk : Nat) (gang : BitVec 32) (h : memWf s = true) :
    memWf (latchFault s blk gang) = true := by
  unfold latchFault
  split
  · exact h
  · exact memWf_foldl _ (fun _ _ k => memWf_trapGroup _ _ _ _ _ k) _ _ (memWf_modBlock _ _ _
      (fun _ k => blockWf_mapLanes _ _ (fun _ h => by split <;> exact h) k) h)

theorem memWf_gangEnd (s : State) (blk grp : Nat) (h : memWf s = true) : memWf (gangEnd s blk grp) = true := by
  unfold gangEnd
  split
  · exact h
  · dsimp only
    refine memWf_wakeRetry _ _ _ (memWf_modBlock _ _ _ (fun _ k => blockWf_same k rfl rfl) ?_)
    split
    · exact memWf_latchFault _ _ _ h
    · exact h

theorem memWf_retireViews (s : State) (b : Block) (h : memWf s = true) : memWf (retireViews s b) = true :=
  memWf_settleFamilies _ (memWf_foldl _ (fun _ _ k => memWf_retireHandle _ _ _ _ k) _ _ h)

theorem memWf_lostChild (s : State) (b : Block) (h : memWf s = true) : memWf (lostChild s b) = true := by
  unfold lostChild
  split
  · split
    · dsimp only
      split
      · exact h
      · exact memWf_mergeUp _ _ _ (memWf_loseLeaf _ _ h)
    · exact h
  · exact h

theorem memWf_endCluster (s : State) (id : Nat) (h : memWf s = true) : memWf (endCluster s id) = true := by
  unfold endCluster
  split
  · next c hc =>
    split
    · have k := memWf_leaveShade s { space := .csh id, mem := c.mem, full := c.full, const := c.const, base := c.base }
        (fun k => k.cluster = id) (wf_clusterOf hc h) h
      have w := (memWf_iff _).1 k
      exact (memWf_iff _).2 { w with clusters := fun c hc => ((memWf_iff s).1 h).clusters c (List.mem_of_mem_filter hc) }
    · exact h
  · exact h

theorem memWf_endBlock (s : State) (blk : Nat) (h : memWf s = true) : memWf (endBlock s blk) = true := by
  unfold endBlock
  split
  · exact h
  · next b _ =>
    extract_lets t u v w x y z
    have ht : memWf t = true := by
      unfold t
      split
      · exact memWf_performAll _ _ _ h
      · exact memWf_performPending _ _ h
    have hw : memWf w = true := memWf_leaveCore _ _ (memWf_retireViews _ _ (memWf_lostChild _ _ ht))
    have hx : memWf x = true := by
      unfold x
      split
      · next c hc =>
        have hs := blockWf_blockOf hc hw
        simp only [blockWf, Bool.and_eq_true] at hs
        exact memWf_leaveShade _ _ _ hs.1 hw
      · exact hw
    have hy : memWf y = true := (memWf_iff _).2 { (memWf_iff x).1 hx with
      blocks := fun k hk => ((memWf_iff x).1 hx).blocks k (List.mem_of_mem_filter hk) }
    have hz : memWf z = true := memWf_endCluster _ _ hy
    exact hz

theorem memWf_passFaults (s : State) (b : Block) (g : Group) (h : memWf s = true) : memWf (passFaults s b g) = true := by
  unfold passFaults
  dsimp only
  split
  · exact h
  · split
    · exact memWf_stopWith _ _ _ _ h
    · exact memWf_modCtx_same _ _ _ _ (fun _ => rfl) h

theorem memWf_endGroup (s : State) (blk grp : Nat) (h : memWf s = true) : memWf (endGroup s blk grp) = true := by
  unfold endGroup
  split
  · dsimp only
    split
    · split
      · exact memWf_endBlock _ _ (memWf_gangEnd _ _ _ ((memWf_modGrid _ _ _).trans (memWf_modCluster _ _ _ (fun _ h => h)
          (memWf_modGroup_same _ _ _ _ (fun _ => rfl) (memWf_passFaults _ _ _ ((memWf_modCore _ _ _).trans
          (memWf_dropFamily _ _ _ h)))))))
      · exact memWf_checkRdv _ _ (memWf_checkRound _ _ (memWf_gangEnd _ _ _ ((memWf_modGrid _ _ _).trans
          (memWf_modCluster _ _ _ (fun _ h => h) (memWf_modGroup_same _ _ _ _ (fun _ => rfl) (memWf_passFaults _ _ _
          ((memWf_modCore _ _ _).trans (memWf_dropFamily _ _ _ h))))))))
    · split
      · exact memWf_endBlock _ _ (memWf_gangEnd _ _ _ ((memWf_modGrid _ _ _).trans (memWf_modCluster _ _ _ (fun _ h => h)
          (memWf_modGroup_same _ _ _ _ (fun _ => rfl) (memWf_passFaults _ _ _ ((memWf_modCore _ _ _).trans
          (memWf_closeFamily _ _ _ _ _ h)))))))
      · exact memWf_checkRdv _ _ (memWf_checkRound _ _ (memWf_gangEnd _ _ _ ((memWf_modGrid _ _ _).trans
          (memWf_modCluster _ _ _ (fun _ h => h) (memWf_modGroup_same _ _ _ _ (fun _ => rfl) (memWf_passFaults _ _ _
          ((memWf_modCore _ _ _).trans (memWf_closeFamily _ _ _ _ _ h))))))))
  · exact h

theorem memWf_dropLanes (s : State) (blk grp : Nat) (lanes : List Nat) (h : memWf s = true) :
    memWf (dropLanes s blk grp lanes) = true :=
  memWf_modGroup _ _ _ _ (fun _ k => groupWf_modLanes _ _ _ (fun _ _ _ => laneWf_deadLane _ _) k) h

theorem memWf_afterExit (s : State) (blk grp : Nat) (h : memWf s = true) : memWf (afterExit s blk grp) = true := by
  unfold afterExit
  split
  · exact h
  · split
    · exact memWf_endGroup _ _ _ h
    · exact memWf_checkRound _ _ (memWf_recheckReconv _ _ _ (memWf_foldl _ (fun _ _ k => memWf_feRelease _ _ _ _ k) _ _ h))

theorem memWf_exitLanes (s : State) (blk grp : Nat) (lanes : List Nat) (h : memWf s = true) :
    memWf (exitLanes s blk grp lanes) = true := memWf_afterExit _ _ _ (memWf_dropLanes _ _ _ _ h)

theorem memWf_exitBy (s : State) (b : Block) (grp : Nat) (lanes : List Nat) (h : memWf s = true) :
    memWf (exitBy s b grp lanes) = true := by
  unfold exitBy
  split
  · exact h
  · split
    · exact memWf_trapLanes _ _ _ _ _ h
    · split
      · exact memWf_trapGroup _ _ _ _ _ (memWf_dropFamily _ _ _ h)
      · exact memWf_exitLanes _ _ _ _ h

theorem memWf_killGroup (s : State) (blk grp : Nat) (h : memWf s = true) : memWf (killGroup s blk grp) = true := by
  unfold killGroup
  split
  · split
    · exact h
    · exact memWf_exitLanes _ _ _ _ h
  · exact h

theorem memWf_killBlock (s : State) (blk : Nat) (h : memWf s = true) : memWf (killBlock s blk) = true := by
  unfold killBlock
  split
  · exact memWf_foldl _ (fun _ _ k => memWf_killGroup _ _ _ k) _ _ h
  · exact h

theorem memWf_noteYield (s : State) (p : Path) (h : memWf s = true) : memWf (noteYield s p) = true :=
  (memWf_modCore _ _ _).trans h

end Sys2Proof.Proofs
end

section
/-! PROOF of O59: lane arithmetic. -/

namespace Sys2Proof.Proofs

open Sys2Proof Sys2Proof.Machine Sys2Proof.Laws

theorem outWf_lane2 (i : Instr) (x : LExt) (d a b : BitVec 7) (f : Word → Word → Word) (s : State) (h : memWf s = true) :
    OutWf (lane2 i x d a b f s) := outWf_laneMap _ _ _ (fun _ _ _ _ _ k' => laneWf_dst32 _ _ _ k') _ h

theorem outWf_lane1 (i : Instr) (x : LExt) (d a : BitVec 7) (f : Word → Word) (s : State) (h : memWf s = true) :
    OutWf (lane1 i x d a f s) := outWf_laneMap _ _ _ (fun _ _ _ _ _ k' => laneWf_dst32 _ _ _ k') _ h

theorem outWf_lane3 (i : Instr) (x : LExt) (d a b : BitVec 7) (f : Word → Word → Word → Word) (s : State)
    (h : memWf s = true) :
    OutWf (lane3 i x d a b f s) := outWf_laneMap _ _ _ (fun _ _ _ _ _ k' => laneWf_dst32 _ _ _ k') _ h

theorem outWf_compare (i : Instr) (x : LExt) (r : Rel) (pd : BitVec 5) (comb : BitVec 2) (a b : BitVec 7) (s : State)
    (h : memWf s = true) : OutWf (Machine.compare i x r pd comb a b s) :=
  outWf_laneMap _ _ _ (fun _ _ _ _ _ k => laneWf_pwr _ _ _ _ k) _ h

theorem outWf_plog (i : Instr) (x : LExt) (f : Bool → Bool → Bool) (pd : BitVec 5) (comb : BitVec 2) (a b : BitVec 5)
    (s : State) (h : memWf s = true) :
    OutWf (plog i x f pd comb a b s) := outWf_laneMap _ _ _ (fun _ _ _ _ _ k' => laneWf_pwr _ _ _ _ k') _ h

theorem outWf_shuffle (i : Instr) (x : LExt) (d a b : BitVec 7) (j : Nat → Word → Option Nat) (s : State)
    (h : memWf s = true) :
    OutWf (shuffle i x d a b j s) := outWf_laneMap _ _ _ (fun _ _ _ _ _ k' => laneWf_dst32 _ _ _ k') _ h

theorem outWf_reduce (i : Instr) (x : LExt) (d a : BitVec 7) (f : Word → Word → Word) (s : State) (h : memWf s = true) :
    OutWf (reduce i x d a f s) := outWf_laneMap _ _ _ (fun _ _ _ _ _ k' => laneWf_dst32 _ _ _ k') _ h

theorem outWf_execLsysNop (x : LExt) (s : State) (h : memWf s = true) : OutWf (execLsysNop x s) := by
  unfold execLsysNop
  refine outWf_laneMap _ _ _ (fun y z w x' k k' => ?_) _ h
  exact k'

theorem outWf_execLsysLane (d : BitVec 7) (x : LExt) (s : State) (h : memWf s = true) : OutWf (execLsysLane d x s) :=
  outWf_laneMap _ _ _ (fun _ _ _ _ _ k' => laneWf_dst32 _ _ _ k') _ h

theorem outWf_execLsysTid (d : BitVec 7) (x : LExt) (s : State) (h : memWf s = true) : OutWf (execLsysTid d x s) :=
  outWf_laneMap _ _ _ (fun _ _ _ _ _ k' => laneWf_dst32 _ _ _ k') _ h

theorem outWf_execLsysGrp (d : BitVec 7) (sel : BitVec 7) (x : LExt) (s : State) (h : memWf s = true) :
    OutWf (execLsysGrp d sel x s) := outWf_laneMap _ _ _ (fun _ _ _ _ _ k' => laneWf_dst32 _ _ _ k') _ h

theorem outWf_execLsysClk (d : BitVec 7) (x : LExt) (s : State) (h : memWf s = true) : OutWf (execLsysClk d x s) :=
  outWf_laneMap _ _ _ (fun _ _ _ _ _ k' => laneWf_dst64 _ _ _ k') _ h

theorem outWf_execLsysBrk (x : LExt) (s : State) (h : memWf s = true) : OutWf (execLsysBrk x s) := by
  unfold execLsysBrk
  refine outWf_laneTrap _ _ _ (fun y z w x' k k' => ?_) _ h
  exact k'

theorem outWf_execIaluAdd (d : BitVec 7) (a : BitVec 7) (b : BitVec 7) (x : LExt) (s : State) (h : memWf s = true) :
    OutWf (execIaluAdd d a b x s) := outWf_lane2 _ _ _ _ _ _ _ h

theorem outWf_execIaluSub (d : BitVec 7) (a : BitVec 7) (b : BitVec 7) (x : LExt) (s : State) (h : memWf s = true) :
    OutWf (execIaluSub d a b x s) := outWf_lane2 _ _ _ _ _ _ _ h

theorem outWf_execIaluAnd (d : BitVec 7) (a : BitVec 7) (b : BitVec 7) (x : LExt) (s : State) (h : memWf s = true) :
    OutWf (execIaluAnd d a b x s) := outWf_lane2 _ _ _ _ _ _ _ h

theorem outWf_execIaluOr (d : BitVec 7) (a : BitVec 7) (b : BitVec 7) (x : LExt) (s : State) (h : memWf s = true) :
    OutWf (execIaluOr d a b x s) := outWf_lane2 _ _ _ _ _ _ _ h

theorem outWf_execIaluXor (d : BitVec 7) (a : BitVec 7) (b : BitVec 7) (x : LExt) (s : State) (h : memWf s = true) :
    OutWf (execIaluXor d a b x s) := outWf_lane2 _ _ _ _ _ _ _ h

theorem outWf_execIaluAndn (d : BitVec 7) (a : BitVec 7) (b : BitVec 7) (x : LExt) (s : State) (h : memWf s = true) :
    OutWf (execIaluAndn d a b x s) := outWf_lane2 _ _ _ _ _ _ _ h

theorem outWf_execIaluShl (d : BitVec 7) (a : BitVec 7) (b : BitVec 7) (x : LExt) (s : State) (h : memWf s = true) :
    OutWf (execIaluShl d a b x s) := outWf_lane2 _ _ _ _ _ _ _ h

theorem outWf_execIaluShr (d : BitVec 7) (a : BitVec 7) (b : BitVec 7) (x : LExt) (s : State) (h : memWf s = true) :
    OutWf (execIaluShr d a b x s) := outWf_lane2 _ _ _ _ _ _ _ h

theorem outWf_execIaluSar (d : BitVec 7) (a : BitVec 7) (b : BitVec 7) (x : LExt) (s : State) (h : memWf s = true) :
    OutWf (execIaluSar d a b x s) := outWf_lane2 _ _ _ _ _ _ _ h

theorem outWf_execIaluMins (d : BitVec 7) (a : BitVec 7) (b : BitVec 7) (x : LExt) (s : State) (h : memWf s = true) :
    OutWf (execIaluMins d a b x s) := outWf_lane2 _ _ _ _ _ _ _ h

theorem outWf_execIaluMaxs (d : BitVec 7) (a : BitVec 7) (b : BitVec 7) (x : LExt) (s : State) (h : memWf s = true) :
    OutWf (execIaluMaxs d a b x s) := outWf_lane2 _ _ _ _ _ _ _ h

theorem outWf_execIaluMinn (d : BitVec 7) (a : BitVec 7) (b : BitVec 7) (x : LExt) (s : State) (h : memWf s = true) :
    OutWf (execIaluMinn d a b x s) := outWf_lane2 _ _ _ _ _ _ _ h

theorem outWf_execIaluMaxn (d : BitVec 7) (a : BitVec 7) (b : BitVec 7) (x : LExt) (s : State) (h : memWf s = true) :
    OutWf (execIaluMaxn d a b x s) := outWf_lane2 _ _ _ _ _ _ _ h

theorem outWf_execIaluAbs (d : BitVec 7) (a : BitVec 7) (x : LExt) (s : State) (h : memWf s = true) :
    OutWf (execIaluAbs d a x s) := outWf_lane1 _ _ _ _ _ _ h

theorem outWf_execIaddi (d : BitVec 7) (a : BitVec 7) (imm : BitVec 11) (x : LExt) (s : State) (h : memWf s = true) :
    OutWf (execIaddi d a imm x s) := outWf_lane1 _ _ _ _ _ _ h

theorem outWf_execAndi (d : BitVec 7) (a : BitVec 7) (imm : BitVec 11) (x : LExt) (s : State) (h : memWf s = true) :
    OutWf (execAndi d a imm x s) := outWf_lane1 _ _ _ _ _ _ h

theorem outWf_execOri (d : BitVec 7) (a : BitVec 7) (imm : BitVec 11) (x : LExt) (s : State) (h : memWf s = true) :
    OutWf (execOri d a imm x s) := outWf_lane1 _ _ _ _ _ _ h

theorem outWf_execXori (d : BitVec 7) (a : BitVec 7) (imm : BitVec 11) (x : LExt) (s : State) (h : memWf s = true) :
    OutWf (execXori d a imm x s) := outWf_lane1 _ _ _ _ _ _ h

theorem outWf_execIshiShl (d : BitVec 7) (a : BitVec 7) (n : BitVec 5) (x : LExt) (s : State) (h : memWf s = true) :
    OutWf (execIshiShl d a n x s) := outWf_lane1 _ _ _ _ _ _ h

theorem outWf_execIshiShr (d : BitVec 7) (a : BitVec 7) (n : BitVec 5) (x : LExt) (s : State) (h : memWf s = true) :
    OutWf (execIshiShr d a n x s) := outWf_lane1 _ _ _ _ _ _ h

theorem outWf_execIshiSar (d : BitVec 7) (a : BitVec 7) (n : BitVec 5) (x : LExt) (s : State) (h : memWf s = true) :
    OutWf (execIshiSar d a n x s) := outWf_lane1 _ _ _ _ _ _ h

theorem outWf_execIshiRol (d : BitVec 7) (a : BitVec 7) (n : BitVec 5) (x : LExt) (s : State) (h : memWf s = true) :
    OutWf (execIshiRol d a n x s) := outWf_lane1 _ _ _ _ _ _ h

theorem outWf_execMovi (d : BitVec 7) (imm : BitVec 18) (x : LExt) (s : State) (h : memWf s = true) :
    OutWf (execMovi d imm x s) := outWf_laneMap _ _ _ (fun _ _ _ _ _ k' => laneWf_dst32 _ _ _ k') _ h

theorem outWf_execMovhi (d : BitVec 7) (imm : BitVec 18) (x : LExt) (s : State) (h : memWf s = true) :
    OutWf (execMovhi d imm x s) := outWf_laneMap _ _ _ (fun _ _ _ _ _ k' => laneWf_dst32 _ _ _ k') _ h

theorem outWf_execImulLo (d : BitVec 7) (a : BitVec 7) (b : BitVec 7) (x : LExt) (s : State) (h : memWf s = true) :
    OutWf (execImulLo d a b x s) := outWf_lane2 _ _ _ _ _ _ _ h

theorem outWf_execImulHis (d : BitVec 7) (a : BitVec 7) (b : BitVec 7) (x : LExt) (s : State) (h : memWf s = true) :
    OutWf (execImulHis d a b x s) := outWf_lane2 _ _ _ _ _ _ _ h

theorem outWf_execImulHin (d : BitVec 7) (a : BitVec 7) (b : BitVec 7) (x : LExt) (s : State) (h : memWf s = true) :
    OutWf (execImulHin d a b x s) := outWf_lane2 _ _ _ _ _ _ _ h

theorem outWf_execImulWides (d : BitVec 7) (a : BitVec 7) (b : BitVec 7) (x : LExt) (s : State) (h : memWf s = true) :
    OutWf (execImulWides d a b x s) := outWf_laneMap _ _ _ (fun _ _ _ _ _ k' => laneWf_dst64 _ _ _ k') _ h

theorem outWf_execImulWiden (d : BitVec 7) (a : BitVec 7) (b : BitVec 7) (x : LExt) (s : State) (h : memWf s = true) :
    OutWf (execImulWiden d a b x s) := outWf_laneMap _ _ _ (fun _ _ _ _ _ k' => laneWf_dst64 _ _ _ k') _ h

theorem outWf_execImulMad (d : BitVec 7) (a : BitVec 7) (b : BitVec 7) (x : LExt) (s : State) (h : memWf s = true) :
    OutWf (execImulMad d a b x s) := outWf_lane3 _ _ _ _ _ _ _ h

theorem outWf_execIbitPopc (d : BitVec 7) (a : BitVec 7) (x : LExt) (s : State) (h : memWf s = true) :
    OutWf (execIbitPopc d a x s) := outWf_lane1 _ _ _ _ _ _ h

theorem outWf_execIbitClz (d : BitVec 7) (a : BitVec 7) (x : LExt) (s : State) (h : memWf s = true) :
    OutWf (execIbitClz d a x s) := outWf_lane1 _ _ _ _ _ _ h

theorem outWf_execIbitCtz (d : BitVec 7) (a : BitVec 7) (x : LExt) (s : State) (h : memWf s = true) :
    OutWf (execIbitCtz d a x s) := outWf_lane1 _ _ _ _ _ _ h

theorem outWf_execIbitBrev (d : BitVec 7) (a : BitVec 7) (x : LExt) (s : State) (h : memWf s = true) :
    OutWf (execIbitBrev d a x s) := outWf_lane1 _ _ _ _ _ _ h

theorem outWf_execIbitBfxs (d : BitVec 7) (a : BitVec 7) (b : BitVec 7) (x : LExt) (s : State) (h : memWf s = true) :
    OutWf (execIbitBfxs d a b x s) := outWf_lane2 _ _ _ _ _ _ _ h

theorem outWf_execIbitBfxn (d : BitVec 7) (a : BitVec 7) (b : BitVec 7) (x : LExt) (s : State) (h : memWf s = true) :
    OutWf (execIbitBfxn d a b x s) := outWf_lane2 _ _ _ _ _ _ _ h

theorem outWf_execIbitBfi (d : BitVec 7) (a : BitVec 7) (b : BitVec 7) (x : LExt) (s : State) (h : memWf s = true) :
    OutWf (execIbitBfi d a b x s) := outWf_lane3 _ _ _ _ _ _ _ h

theorem outWf_execIcmpEq (pd : BitVec 5) (comb : BitVec 2) (a : BitVec 7) (b : BitVec 7) (x : LExt) (s : State)
    (h : memWf s = true) :
    OutWf (execIcmpEq pd comb a b x s) := outWf_compare _ _ _ _ _ _ _ _ h

theorem outWf_execIcmpNe (pd : BitVec 5) (comb : BitVec 2) (a : BitVec 7) (b : BitVec 7) (x : LExt) (s : State)
    (h : memWf s = true) :
    OutWf (execIcmpNe pd comb a b x s) := outWf_compare _ _ _ _ _ _ _ _ h

theorem outWf_execIcmpLts (pd : BitVec 5) (comb : BitVec 2) (a : BitVec 7) (b : BitVec 7) (x : LExt) (s : State)
    (h : memWf s = true) :
    OutWf (execIcmpLts pd comb a b x s) := outWf_compare _ _ _ _ _ _ _ _ h

theorem outWf_execIcmpLes (pd : BitVec 5) (comb : BitVec 2) (a : BitVec 7) (b : BitVec 7) (x : LExt) (s : State)
    (h : memWf s = true) :
    OutWf (execIcmpLes pd comb a b x s) := outWf_compare _ _ _ _ _ _ _ _ h

theorem outWf_execIcmpGts (pd : BitVec 5) (comb : BitVec 2) (a : BitVec 7) (b : BitVec 7) (x : LExt) (s : State)
    (h : memWf s = true) :
    OutWf (execIcmpGts pd comb a b x s) := outWf_compare _ _ _ _ _ _ _ _ h

theorem outWf_execIcmpGes (pd : BitVec 5) (comb : BitVec 2) (a : BitVec 7) (b : BitVec 7) (x : LExt) (s : State)
    (h : memWf s = true) :
    OutWf (execIcmpGes pd comb a b x s) := outWf_compare _ _ _ _ _ _ _ _ h

theorem outWf_execIcmpLtn (pd : BitVec 5) (comb : BitVec 2) (a : BitVec 7) (b : BitVec 7) (x : LExt) (s : State)
    (h : memWf s = true) :
    OutWf (execIcmpLtn pd comb a b x s) := outWf_compare _ _ _ _ _ _ _ _ h

theorem outWf_execIcmpLen (pd : BitVec 5) (comb : BitVec 2) (a : BitVec 7) (b : BitVec 7) (x : LExt) (s : State)
    (h : memWf s = true) :
    OutWf (execIcmpLen pd comb a b x s) := outWf_compare _ _ _ _ _ _ _ _ h

theorem outWf_execIcmpGtn (pd : BitVec 5) (comb : BitVec 2) (a : BitVec 7) (b : BitVec 7) (x : LExt) (s : State)
    (h : memWf s = true) :
    OutWf (execIcmpGtn pd comb a b x s) := outWf_compare _ _ _ _ _ _ _ _ h

theorem outWf_execIcmpGen (pd : BitVec 5) (comb : BitVec 2) (a : BitVec 7) (b : BitVec 7) (x : LExt) (s : State)
    (h : memWf s = true) :
    OutWf (execIcmpGen pd comb a b x s) := outWf_compare _ _ _ _ _ _ _ _ h

theorem outWf_execPlogAnd (pd : BitVec 5) (comb : BitVec 2) (a : BitVec 5) (b : BitVec 5) (x : LExt) (s : State)
    (h : memWf s = true) :
    OutWf (execPlogAnd pd comb a b x s) := outWf_plog _ _ _ _ _ _ _ _ h

theorem outWf_execPlogOr (pd : BitVec 5) (comb : BitVec 2) (a : BitVec 5) (b : BitVec 5) (x : LExt) (s : State)
    (h : memWf s = true) :
    OutWf (execPlogOr pd comb a b x s) := outWf_plog _ _ _ _ _ _ _ _ h

theorem outWf_execPlogXor (pd : BitVec 5) (comb : BitVec 2) (a : BitVec 5) (b : BitVec 5) (x : LExt) (s : State)
    (h : memWf s = true) :
    OutWf (execPlogXor pd comb a b x s) := outWf_plog _ _ _ _ _ _ _ _ h

theorem outWf_execPlogAndn (pd : BitVec 5) (comb : BitVec 2) (a : BitVec 5) (b : BitVec 5) (x : LExt) (s : State)
    (h : memWf s = true) :
    OutWf (execPlogAndn pd comb a b x s) := outWf_plog _ _ _ _ _ _ _ _ h

theorem outWf_execPlogOrn (pd : BitVec 5) (comb : BitVec 2) (a : BitVec 5) (b : BitVec 5) (x : LExt) (s : State)
    (h : memWf s = true) :
    OutWf (execPlogOrn pd comb a b x s) := outWf_plog _ _ _ _ _ _ _ _ h

theorem outWf_execCmovNz (d : BitVec 7) (a : BitVec 7) (b : BitVec 7) (x : LExt) (s : State) (h : memWf s = true) :
    OutWf (execCmovNz d a b x s) := by
  unfold execCmovNz
  refine outWf_laneMap _ _ _ (fun y z w x' k k' => ?_) _ h
  split
  · exact laneWf_dst32 _ _ _ k'
  · exact k'

theorem outWf_execCmovZ (d : BitVec 7) (a : BitVec 7) (b : BitVec 7) (x : LExt) (s : State) (h : memWf s = true) :
    OutWf (execCmovZ d a b x s) := by
  unfold execCmovZ
  refine outWf_laneMap _ _ _ (fun y z w x' k k' => ?_) _ h
  split
  · exact laneWf_dst32 _ _ _ k'
  · exact k'

theorem outWf_execCmovRdp (d : BitVec 7) (x : LExt) (s : State) (h : memWf s = true) : OutWf (execCmovRdp d x s) :=
  outWf_laneMap _ _ _ (fun _ _ _ _ _ k' => laneWf_dst32 _ _ _ k') _ h

theorem laneWf_wrpLane (m : Lane) (a b : Word) (h : laneWf m = true) : laneWf (wrpLane m a b) = true := h

theorem outWf_execCmovWrp (a : BitVec 7) (b : BitVec 7) (x : LExt) (s : State) (h : memWf s = true) :
    OutWf (execCmovWrp a b x s) := outWf_laneMap _ _ _ (fun _ _ _ _ _ k => laneWf_wrpLane _ _ _ k) _ h

theorem outWf_execLanexShfl (d : BitVec 7) (a : BitVec 7) (b : BitVec 7) (x : LExt) (s : State) (h : memWf s = true) :
    OutWf (execLanexShfl d a b x s) := outWf_shuffle _ _ _ _ _ _ _ h

theorem outWf_execLanexShflx (d : BitVec 7) (a : BitVec 7) (b : BitVec 7) (x : LExt) (s : State) (h : memWf s = true) :
    OutWf (execLanexShflx d a b x s) := outWf_shuffle _ _ _ _ _ _ _ h

theorem outWf_execLanexShflup (d : BitVec 7) (a : BitVec 7) (b : BitVec 7) (x : LExt) (s : State) (h : memWf s = true) :
    OutWf (execLanexShflup d a b x s) := outWf_shuffle _ _ _ _ _ _ _ h

theorem outWf_execLanexShfldn (d : BitVec 7) (a : BitVec 7) (b : BitVec 7) (x : LExt) (s : State) (h : memWf s = true) :
    OutWf (execLanexShfldn d a b x s) := outWf_shuffle _ _ _ _ _ _ _ h

theorem outWf_execLanexBallot (d : BitVec 7) (p : BitVec 5) (x : LExt) (s : State) (h : memWf s = true) :
    OutWf (execLanexBallot d p x s) := outWf_laneMap _ _ _ (fun _ _ _ _ _ k' => laneWf_dst32 _ _ _ k') _ h

theorem outWf_execLanexAny (d : BitVec 7) (p : BitVec 5) (x : LExt) (s : State) (h : memWf s = true) :
    OutWf (execLanexAny d p x s) := outWf_laneMap _ _ _ (fun _ _ _ _ _ k' => laneWf_dst32 _ _ _ k') _ h

theorem outWf_execLanexAll (d : BitVec 7) (p : BitVec 5) (x : LExt) (s : State) (h : memWf s = true) :
    OutWf (execLanexAll d p x s) := outWf_laneMap _ _ _ (fun _ _ _ _ _ k' => laneWf_dst32 _ _ _ k') _ h

theorem outWf_execLanexMatch (d : BitVec 7) (a : BitVec 7) (x : LExt) (s : State) (h : memWf s = true) :
    OutWf (execLanexMatch d a x s) := outWf_laneMap _ _ _ (fun _ _ _ _ _ k' => laneWf_dst32 _ _ _ k') _ h

theorem outWf_execLanexRedadd (d : BitVec 7) (a : BitVec 7) (x : LExt) (s : State) (h : memWf s = true) :
    OutWf (execLanexRedadd d a x s) := outWf_reduce _ _ _ _ _ _ h

theorem outWf_execLanexRedmins (d : BitVec 7) (a : BitVec 7) (x : LExt) (s : State) (h : memWf s = true) :
    OutWf (execLanexRedmins d a x s) := outWf_reduce _ _ _ _ _ _ h

theorem outWf_execLanexRedmaxs (d : BitVec 7) (a : BitVec 7) (x : LExt) (s : State) (h : memWf s = true) :
    OutWf (execLanexRedmaxs d a x s) := outWf_reduce _ _ _ _ _ _ h

theorem outWf_execLanexRedand (d : BitVec 7) (a : BitVec 7) (x : LExt) (s : State) (h : memWf s = true) :
    OutWf (execLanexRedand d a x s) := outWf_reduce _ _ _ _ _ _ h

theorem outWf_execLanexRedor (d : BitVec 7) (a : BitVec 7) (x : LExt) (s : State) (h : memWf s = true) :
    OutWf (execLanexRedor d a x s) := outWf_reduce _ _ _ _ _ _ h

theorem outWf_execLanexRedxor (d : BitVec 7) (a : BitVec 7) (x : LExt) (s : State) (h : memWf s = true) :
    OutWf (execLanexRedxor d a x s) := outWf_reduce _ _ _ _ _ _ h

theorem outWf_execLanexNpath (d : BitVec 7) (x : LExt) (s : State) (h : memWf s = true) : OutWf (execLanexNpath d x s) :=
  outWf_laneMap _ _ _ (fun _ _ _ _ _ k' => laneWf_dst32 _ _ _ k') _ h

theorem outWf_float2 (i : Instr) (x : LExt) (d a b : BitVec 7) (f : RMode → Nat → Nat → Nat) (s : State)
    (h : memWf s = true) :
    OutWf (float2 i x d a b f s) := outWf_laneMap _ _ _ (fun _ _ _ _ _ k' => laneWf_dst32 _ _ _ k') _ h

theorem outWf_packedOp (i : Instr) (x : LExt) (d a b : BitVec 7) (f : RMode → Nat → Nat → Nat → Nat) (s : State)
    (h : memWf s = true) :
    OutWf (packedOp i x d a b f s) := outWf_laneMap _ _ _ (fun _ _ _ _ _ k' => laneWf_dst32 _ _ _ k') _ h

theorem outWf_float3 (i : Instr) (x : LExt) (d a b : BitVec 7) (f : RMode → Nat → Nat → Nat → Nat) (s : State)
    (h : memWf s = true) :
    OutWf (float3 i x d a b f s) := outWf_laneMap _ _ _ (fun _ _ _ _ _ k' => laneWf_dst32 _ _ _ k') _ h

theorem outWf_special (i : Instr) (x : LExt) (f : Spec) (d a : BitVec 7) (s : State) (h : memWf s = true) :
    OutWf (special i x f d a s) := outWf_laneMap _ _ _ (fun _ _ _ _ _ k' => laneWf_dst32 _ _ _ k') _ h

theorem outWf_fcompare (i : Instr) (x : LExt) (r : FRel) (pd : BitVec 5) (comb : BitVec 2) (a b : BitVec 7) (s : State)
    (h : memWf s = true) :
    OutWf (fcompare i x r pd comb a b s) := outWf_laneMap _ _ _ (fun _ _ _ _ _ k' => laneWf_pwr _ _ _ _ k') _ h

theorem outWf_idot (i : Instr) (x : LExt) (signed : Bool) (d a b : BitVec 7) (s : State) (h : memWf s = true) :
    OutWf (idot i x signed d a b s) := outWf_laneMap _ _ _ (fun _ _ _ _ _ k' => laneWf_dst32 _ _ _ k') _ h

theorem outWf_fdot (i : Instr) (x : LExt) (f : Fl) (n : Nat) (d a b : BitVec 7) (s : State) (h : memWf s = true) :
    OutWf (fdot i x f n d a b s) := outWf_laneMap _ _ _ (fun _ _ _ _ _ k' => laneWf_dst32 _ _ _ k') _ h

theorem outWf_cbPair (i : Instr) (x : LExt) (f : Fl) (d a b : BitVec 7) (s : State) (h : memWf s = true) :
    OutWf (cbPair i x f d a b s) := outWf_laneMap _ _ _ (fun _ _ _ _ _ k' => laneWf_dst32 _ _ _ k') _ h

theorem outWf_pack4 (i : Instr) (x : LExt) (f : Fl) (d a b : BitVec 7) (s : State) (h : memWf s = true) :
    OutWf (pack4 i x f d a b s) := outWf_laneMap _ _ _ (fun _ _ _ _ _ k' => laneWf_dst32 _ _ _ k') _ h

theorem outWf_unpack4 (i : Instr) (x : LExt) (f : Fl) (d a : BitVec 7) (s : State) (h : memWf s = true) :
    OutWf (unpack4 i x f d a s) := outWf_laneMap _ _ _ (fun _ _ _ _ _ k' => laneWf_dst64 _ _ _ k') _ h

theorem outWf_double2 (i : Instr) (x : LExt) (d a b : BitVec 7) (f : RMode → Nat → Nat → Nat → Nat) (s : State)
    (h : memWf s = true) :
    OutWf (double2 i x d a b f s) := outWf_laneMap _ _ _ (fun _ _ _ _ _ k' => laneWf_dst64 _ _ _ k') _ h

theorem outWf_execFaddAdd (d : BitVec 7) (a : BitVec 7) (b : BitVec 7) (x : LExt) (s : State) (h : memWf s = true) :
    OutWf (execFaddAdd d a b x s) := outWf_float2 _ _ _ _ _ _ _ h

theorem outWf_execFaddSub (d : BitVec 7) (a : BitVec 7) (b : BitVec 7) (x : LExt) (s : State) (h : memWf s = true) :
    OutWf (execFaddSub d a b x s) := outWf_float2 _ _ _ _ _ _ _ h

theorem outWf_execFaddMin (d : BitVec 7) (a : BitVec 7) (b : BitVec 7) (x : LExt) (s : State) (h : memWf s = true) :
    OutWf (execFaddMin d a b x s) := outWf_float2 _ _ _ _ _ _ _ h

theorem outWf_execFaddMax (d : BitVec 7) (a : BitVec 7) (b : BitVec 7) (x : LExt) (s : State) (h : memWf s = true) :
    OutWf (execFaddMax d a b x s) := outWf_float2 _ _ _ _ _ _ _ h

theorem outWf_execFaddAdd2h (d : BitVec 7) (a : BitVec 7) (b : BitVec 7) (x : LExt) (s : State) (h : memWf s = true) :
    OutWf (execFaddAdd2h d a b x s) := outWf_packedOp _ _ _ _ _ _ _ h

theorem outWf_execFaddSub2h (d : BitVec 7) (a : BitVec 7) (b : BitVec 7) (x : LExt) (s : State) (h : memWf s = true) :
    OutWf (execFaddSub2h d a b x s) := outWf_packedOp _ _ _ _ _ _ _ h

theorem outWf_execFaddAdd2b (d : BitVec 7) (a : BitVec 7) (b : BitVec 7) (x : LExt) (s : State) (h : memWf s = true) :
    OutWf (execFaddAdd2b d a b x s) := outWf_packedOp _ _ _ _ _ _ _ h

theorem outWf_execFaddSub2b (d : BitVec 7) (a : BitVec 7) (b : BitVec 7) (x : LExt) (s : State) (h : memWf s = true) :
    OutWf (execFaddSub2b d a b x s) := outWf_packedOp _ _ _ _ _ _ _ h

theorem outWf_execFaddAbs (d : BitVec 7) (a : BitVec 7) (x : LExt) (s : State) (h : memWf s = true) :
    OutWf (execFaddAbs d a x s) := outWf_lane1 _ _ _ _ _ _ h

theorem outWf_execFaddNeg (d : BitVec 7) (a : BitVec 7) (x : LExt) (s : State) (h : memWf s = true) :
    OutWf (execFaddNeg d a x s) := outWf_lane1 _ _ _ _ _ _ h

theorem outWf_execFaddCsgn (d : BitVec 7) (a : BitVec 7) (b : BitVec 7) (x : LExt) (s : State) (h : memWf s = true) :
    OutWf (execFaddCsgn d a b x s) := outWf_lane2 _ _ _ _ _ _ _ h

theorem outWf_execFmulMul (d : BitVec 7) (a : BitVec 7) (b : BitVec 7) (x : LExt) (s : State) (h : memWf s = true) :
    OutWf (execFmulMul d a b x s) := outWf_float2 _ _ _ _ _ _ _ h

theorem outWf_execFmulMul2h (d : BitVec 7) (a : BitVec 7) (b : BitVec 7) (x : LExt) (s : State) (h : memWf s = true) :
    OutWf (execFmulMul2h d a b x s) := outWf_packedOp _ _ _ _ _ _ _ h

theorem outWf_execFmulMul2b (d : BitVec 7) (a : BitVec 7) (b : BitVec 7) (x : LExt) (s : State) (h : memWf s = true) :
    OutWf (execFmulMul2b d a b x s) := outWf_packedOp _ _ _ _ _ _ _ h

theorem outWf_execFfmaFma (d : BitVec 7) (a : BitVec 7) (b : BitVec 7) (x : LExt) (s : State) (h : memWf s = true) :
    OutWf (execFfmaFma d a b x s) := outWf_float3 _ _ _ _ _ _ _ h

theorem outWf_execFfmaFma2h (d : BitVec 7) (a : BitVec 7) (b : BitVec 7) (x : LExt) (s : State) (h : memWf s = true) :
    OutWf (execFfmaFma2h d a b x s) := outWf_packedOp _ _ _ _ _ _ _ h

theorem outWf_execFfmaFma2b (d : BitVec 7) (a : BitVec 7) (b : BitVec 7) (x : LExt) (s : State) (h : memWf s = true) :
    OutWf (execFfmaFma2b d a b x s) := outWf_packedOp _ _ _ _ _ _ _ h

theorem outWf_execFfmaFms (d : BitVec 7) (a : BitVec 7) (b : BitVec 7) (x : LExt) (s : State) (h : memWf s = true) :
    OutWf (execFfmaFms d a b x s) := outWf_float3 _ _ _ _ _ _ _ h

theorem outWf_execFfmaFnma (d : BitVec 7) (a : BitVec 7) (b : BitVec 7) (x : LExt) (s : State) (h : memWf s = true) :
    OutWf (execFfmaFnma d a b x s) := outWf_float3 _ _ _ _ _ _ _ h

theorem outWf_execFcmpEq (pd : BitVec 5) (comb : BitVec 2) (a : BitVec 7) (b : BitVec 7) (x : LExt) (s : State)
    (h : memWf s = true) :
    OutWf (execFcmpEq pd comb a b x s) := outWf_fcompare _ _ _ _ _ _ _ _ h

theorem outWf_execFcmpNe (pd : BitVec 5) (comb : BitVec 2) (a : BitVec 7) (b : BitVec 7) (x : LExt) (s : State)
    (h : memWf s = true) :
    OutWf (execFcmpNe pd comb a b x s) := outWf_fcompare _ _ _ _ _ _ _ _ h

theorem outWf_execFcmpLt (pd : BitVec 5) (comb : BitVec 2) (a : BitVec 7) (b : BitVec 7) (x : LExt) (s : State)
    (h : memWf s = true) :
    OutWf (execFcmpLt pd comb a b x s) := outWf_fcompare _ _ _ _ _ _ _ _ h

theorem outWf_execFcmpLe (pd : BitVec 5) (comb : BitVec 2) (a : BitVec 7) (b : BitVec 7) (x : LExt) (s : State)
    (h : memWf s = true) :
    OutWf (execFcmpLe pd comb a b x s) := outWf_fcompare _ _ _ _ _ _ _ _ h

theorem outWf_execFcmpGt (pd : BitVec 5) (comb : BitVec 2) (a : BitVec 7) (b : BitVec 7) (x : LExt) (s : State)
    (h : memWf s = true) :
    OutWf (execFcmpGt pd comb a b x s) := outWf_fcompare _ _ _ _ _ _ _ _ h

theorem outWf_execFcmpGe (pd : BitVec 5) (comb : BitVec 2) (a : BitVec 7) (b : BitVec 7) (x : LExt) (s : State)
    (h : memWf s = true) :
    OutWf (execFcmpGe pd comb a b x s) := outWf_fcompare _ _ _ _ _ _ _ _ h

theorem outWf_execFcmpUn (pd : BitVec 5) (comb : BitVec 2) (a : BitVec 7) (b : BitVec 7) (x : LExt) (s : State)
    (h : memWf s = true) :
    OutWf (execFcmpUn pd comb a b x s) := outWf_fcompare _ _ _ _ _ _ _ _ h

theorem outWf_execFcmpOrd (pd : BitVec 5) (comb : BitVec 2) (a : BitVec 7) (b : BitVec 7) (x : LExt) (s : State)
    (h : memWf s = true) :
    OutWf (execFcmpOrd pd comb a b x s) := outWf_fcompare _ _ _ _ _ _ _ _ h

theorem outWf_execFspecRcp (d : BitVec 7) (a : BitVec 7) (x : LExt) (s : State) (h : memWf s = true) :
    OutWf (execFspecRcp d a x s) := outWf_special _ _ _ _ _ _ h

theorem outWf_execFspecRsqrt (d : BitVec 7) (a : BitVec 7) (x : LExt) (s : State) (h : memWf s = true) :
    OutWf (execFspecRsqrt d a x s) := outWf_special _ _ _ _ _ _ h

theorem outWf_execFspecSqrt (d : BitVec 7) (a : BitVec 7) (x : LExt) (s : State) (h : memWf s = true) :
    OutWf (execFspecSqrt d a x s) := outWf_special _ _ _ _ _ _ h

theorem outWf_execFspecExp2 (d : BitVec 7) (a : BitVec 7) (x : LExt) (s : State) (h : memWf s = true) :
    OutWf (execFspecExp2 d a x s) := outWf_special _ _ _ _ _ _ h

theorem outWf_execFspecLog2 (d : BitVec 7) (a : BitVec 7) (x : LExt) (s : State) (h : memWf s = true) :
    OutWf (execFspecLog2 d a x s) := outWf_special _ _ _ _ _ _ h

theorem outWf_execFspecSin (d : BitVec 7) (a : BitVec 7) (x : LExt) (s : State) (h : memWf s = true) :
    OutWf (execFspecSin d a x s) := outWf_special _ _ _ _ _ _ h

theorem outWf_execFspecCos (d : BitVec 7) (a : BitVec 7) (x : LExt) (s : State) (h : memWf s = true) :
    OutWf (execFspecCos d a x s) := outWf_special _ _ _ _ _ _ h

theorem outWf_execFspecTanh (d : BitVec 7) (a : BitVec 7) (x : LExt) (s : State) (h : memWf s = true) :
    OutWf (execFspecTanh d a x s) := outWf_special _ _ _ _ _ _ h

theorem outWf_execCvt (d : BitVec 7) (a : BitVec 7) (src : BitVec 4) (tgt : BitVec 4) (x : LExt) (s : State)
    (h : memWf s = true) :
    OutWf (execCvt d a src tgt x s) := outWf_laneMap _ _ _ (fun _ _ _ _ _ k' => laneWf_dstBits _ _ _ _ k') _ h

theorem outWf_execNarrowDot4s (d : BitVec 7) (a : BitVec 7) (b : BitVec 7) (x : LExt) (s : State) (h : memWf s = true) :
    OutWf (execNarrowDot4s d a b x s) := outWf_idot _ _ _ _ _ _ _ h

theorem outWf_execNarrowDot4n (d : BitVec 7) (a : BitVec 7) (b : BitVec 7) (x : LExt) (s : State) (h : memWf s = true) :
    OutWf (execNarrowDot4n d a b x s) := outWf_idot _ _ _ _ _ _ _ h

theorem outWf_execNarrowDot4e4 (d : BitVec 7) (a : BitVec 7) (b : BitVec 7) (x : LExt) (s : State) (h : memWf s = true) :
    OutWf (execNarrowDot4e4 d a b x s) := outWf_fdot _ _ _ _ _ _ _ _ h

theorem outWf_execNarrowDot4e5 (d : BitVec 7) (a : BitVec 7) (b : BitVec 7) (x : LExt) (s : State) (h : memWf s = true) :
    OutWf (execNarrowDot4e5 d a b x s) := outWf_fdot _ _ _ _ _ _ _ _ h

theorem outWf_execNarrowDot2b (d : BitVec 7) (a : BitVec 7) (b : BitVec 7) (x : LExt) (s : State) (h : memWf s = true) :
    OutWf (execNarrowDot2b d a b x s) := outWf_fdot _ _ _ _ _ _ _ _ h

theorem outWf_execNarrowDot2h (d : BitVec 7) (a : BitVec 7) (b : BitVec 7) (x : LExt) (s : State) (h : memWf s = true) :
    OutWf (execNarrowDot2h d a b x s) := outWf_fdot _ _ _ _ _ _ _ _ h

theorem outWf_execNarrowCbdecb (d : BitVec 7) (a : BitVec 7) (b : BitVec 7) (x : LExt) (s : State) (h : memWf s = true) :
    OutWf (execNarrowCbdecb d a b x s) := outWf_cbPair _ _ _ _ _ _ _ h

theorem outWf_execNarrowCbdech (d : BitVec 7) (a : BitVec 7) (b : BitVec 7) (x : LExt) (s : State) (h : memWf s = true) :
    OutWf (execNarrowCbdech d a b x s) := outWf_cbPair _ _ _ _ _ _ _ h

theorem outWf_execNarrowCbdecf (d : BitVec 7) (a : BitVec 7) (b : BitVec 7) (x : LExt) (s : State) (h : memWf s = true) :
    OutWf (execNarrowCbdecf d a b x s) := outWf_laneMap _ _ _ (fun _ _ _ _ _ k' => laneWf_dst32 _ _ _ k') _ h

theorem outWf_execNarrowPke4 (d : BitVec 7) (a : BitVec 7) (b : BitVec 7) (x : LExt) (s : State) (h : memWf s = true) :
    OutWf (execNarrowPke4 d a b x s) := outWf_pack4 _ _ _ _ _ _ _ h

theorem outWf_execNarrowPke5 (d : BitVec 7) (a : BitVec 7) (b : BitVec 7) (x : LExt) (s : State) (h : memWf s = true) :
    OutWf (execNarrowPke5 d a b x s) := outWf_pack4 _ _ _ _ _ _ _ h

theorem outWf_execNarrowMxpk (d : BitVec 7) (a : BitVec 7) (x : LExt) (s : State) (h : memWf s = true) :
    OutWf (execNarrowMxpk d a x s) := outWf_laneMap _ _ _ (fun _ _ _ _ _ k' => laneWf_dst32 _ _ _ k') _ h

theorem outWf_execNarrowMxunpk (d : BitVec 7) (a : BitVec 7) (b : BitVec 7) (x : LExt) (s : State) (h : memWf s = true) :
    OutWf (execNarrowMxunpk d a b x s) := outWf_lane2 _ _ _ _ _ _ _ h

theorem outWf_execNarrowUpke4 (d : BitVec 7) (a : BitVec 7) (x : LExt) (s : State) (h : memWf s = true) :
    OutWf (execNarrowUpke4 d a x s) := outWf_unpack4 _ _ _ _ _ _ h

theorem outWf_execNarrowUpke5 (d : BitVec 7) (a : BitVec 7) (x : LExt) (s : State) (h : memWf s = true) :
    OutWf (execNarrowUpke5 d a x s) := outWf_unpack4 _ _ _ _ _ _ h

theorem outWf_execF64Add (d : BitVec 7) (a : BitVec 7) (b : BitVec 7) (x : LExt) (s : State) (h : memWf s = true) :
    OutWf (execF64Add d a b x s) := outWf_double2 _ _ _ _ _ _ _ h

theorem outWf_execF64Sub (d : BitVec 7) (a : BitVec 7) (b : BitVec 7) (x : LExt) (s : State) (h : memWf s = true) :
    OutWf (execF64Sub d a b x s) := outWf_double2 _ _ _ _ _ _ _ h

theorem outWf_execF64Mul (d : BitVec 7) (a : BitVec 7) (b : BitVec 7) (x : LExt) (s : State) (h : memWf s = true) :
    OutWf (execF64Mul d a b x s) := outWf_double2 _ _ _ _ _ _ _ h

theorem outWf_execF64Fma (d : BitVec 7) (a : BitVec 7) (b : BitVec 7) (x : LExt) (s : State) (h : memWf s = true) :
    OutWf (execF64Fma d a b x s) := outWf_double2 _ _ _ _ _ _ _ h

theorem outWf_execF64Min (d : BitVec 7) (a : BitVec 7) (b : BitVec 7) (x : LExt) (s : State) (h : memWf s = true) :
    OutWf (execF64Min d a b x s) := outWf_double2 _ _ _ _ _ _ _ h

theorem outWf_execF64Max (d : BitVec 7) (a : BitVec 7) (b : BitVec 7) (x : LExt) (s : State) (h : memWf s = true) :
    OutWf (execF64Max d a b x s) := outWf_double2 _ _ _ _ _ _ _ h

theorem outWf_execF64Abs (d : BitVec 7) (a : BitVec 7) (x : LExt) (s : State) (h : memWf s = true) :
    OutWf (execF64Abs d a x s) := outWf_laneMap _ _ _ (fun _ _ _ _ _ k' => laneWf_dst64 _ _ _ k') _ h

theorem outWf_execF64Neg (d : BitVec 7) (a : BitVec 7) (x : LExt) (s : State) (h : memWf s = true) :
    OutWf (execF64Neg d a x s) := outWf_laneMap _ _ _ (fun _ _ _ _ _ k' => laneWf_dst64 _ _ _ k') _ h

end Sys2Proof.Proofs
end

section
/-! PROOF of O59: lane memory and control. -/

namespace Sys2Proof.Proofs

open Sys2Proof Sys2Proof.Machine Sys2Proof.Laws

theorem memWf_setLane (s : State) (p : Path) (n : Nat) (f : Lane → Lane) (hf : ∀ l, laneWf l = true → laneWf (f l) = true)
    (h : memWf s = true) : memWf (setLane s p n f) = true := memWf_modLane _ _ _ _ _ hf h

theorem memWf_countLoad (x : LExt) (p : Path) (s : State) (h : memWf s = true) : memWf (countLoad x p s) = true :=
  memWf_countAccess _ _ _ _ h

theorem memWf_countStore (x : LExt) (p : Path) (s : State) (h : memWf s = true) : memWf (countStore x p s) = true :=
  memWf_countAccess _ _ _ _ h

theorem memWf_loadLane (d : BitVec 7) (size : BitVec 3) (t : Group → Lane → Target) (p : Path) (n : Nat) (s : State)
    (h : memWf s = true) :
    memWf (loadLane d size t p n s).1 = true := by
  unfold loadLane
  dsimp only
  split
  · next heq => exact memWf_fst heq (memWf_checkAccess _ _ _ _ _ _ _ h)
  · next heq =>
      dsimp only
      exact memWf_noteSys _ _ _ _ (memWf_setLane _ _ _ _ (fun _ k => laneWf_dstBits _ _ _ _ k) (memWf_loadAt _ _ _ _ _
          ((memWf_sealSources _ _ _).trans (memWf_fst heq (memWf_checkAccess _ _ _ _ _ _ _ h)))))

theorem memWf_storeLane (d : BitVec 7) (size : BitVec 3) (t : Group → Lane → Target) (p : Path) (n : Nat) (s : State)
    (h : memWf s = true) :
    memWf (storeLane d size t p n s).1 = true := by
  unfold storeLane
  dsimp only
  split
  · next heq => exact memWf_fst heq (memWf_checkAccess _ _ _ _ _ _ _ h)
  · next heq =>
      dsimp only
      exact memWf_storeAt _ _ _ _ _ ((memWf_sealSources _ _ _).trans (memWf_fst heq (memWf_checkAccess _ _ _ _ _ _ _ h)))

theorem memWf_atomLane (x : LExt) (d : BitVec 7) (a : BitVec 7) (w : Nat) (f : Group → Lane → Nat → Option Nat) (p : Path)
    (n : Nat) (s : State) (h : memWf s = true) :
    memWf (atomLane x d a w f p n s).1 = true := by
  unfold atomLane
  split
  · next heq => exact memWf_fst heq (memWf_checkAccess _ _ _ _ _ _ _ h)
  · dsimp only
    next heq => exact memWf_noteSys _ _ _ _ (memWf_setLane _ _ _ _ (fun _ k => laneWf_dstBits _ _ _ _ k)
        (memWf_updateAt _ _ _ _ _ _ ((memWf_sealSources _ _ _).trans (memWf_fst heq (memWf_checkAccess _ _ _ _ _ _ _ h)))))

theorem outWf_atom (i : Instr) (x : LExt) (d a : BitVec 7) (w : Nat) (f : Group → Lane → Nat → Option Nat) (s : State)
    (h : memWf s = true) :
    OutWf (atom i x d a w f s) :=
  outWf_laneFold _ _ _ _ _ (fun _ _ _ k => memWf_atomLane _ _ _ _ _ _ _ _ k) (fun _ _ k => memWf_countLoad _ _ _ k) h

theorem outWf_atom32 (i : Instr) (x : LExt) (d a b : BitVec 7) (f : Word → Word → Word) (s : State) (h : memWf s = true) :
    OutWf (atom32 i x d a b f s) := outWf_atom _ _ _ _ _ _ _ h

theorem outWf_atom64 (i : Instr) (x : LExt) (d a b : BitVec 7) (f : DWord → DWord → DWord) (s : State) (h : memWf s = true) :
    OutWf (atom64 i x d a b f s) := outWf_atom _ _ _ _ _ _ _ h

theorem memWf_atomfxLane (x : LExt) (fetch : Option (BitVec 7)) (a b : BitVec 7) (p : Path) (n : Nat) (s : State)
    (h : memWf s = true) :
    memWf (atomfxLane x fetch a b p n s).1 = true := by
  unfold atomfxLane
  split
  · next heq => exact memWf_fst heq (memWf_checkAccess _ _ _ _ _ _ _ h)
  · dsimp only
    split
    · next heq _ _ => exact memWf_noteSys _ _ _ _ (memWf_setLane _ _ _ _ (fun _ k => laneWf_dstBits _ _ _ _ k)
        (memWf_updateAt _ _ _ _ _ _ ((memWf_sealSources _ _ _).trans (memWf_fst heq (memWf_checkAccess _ _ _ _ _ _ _ h)))))
    · next heq _ => exact memWf_noteSys _ _ _ _ (memWf_updateAt _ _ _ _ _ _ ((memWf_sealSources _ _ _).trans (memWf_fst heq
        (memWf_checkAccess _ _ _ _ _ _ _ h))))

theorem memWf_feLane (i : Instr) (x : LExt) (k : Nat) (t : Group → Lane → Target) (op : Group → Lane → FeOp) (d : BitVec 7)
    (store : Bool) (p : Path) (acc : State × List (Nat × NoAccess)) (n : Nat) (h : memWf acc.1 = true) :
    memWf (feLane i x k t op d store p acc n).1 = true := by
  have hr := memWf_checkRange acc.1 p.b p.iss.grp n .rmw (t p.g (p.g.lane n)) k h
  unfold feLane
  dsimp only
  split
  · exact memWf_setLane _ _ _ _ (fun _ hl => hl) h
  · split
    · exact h
    · split
      · next e => exact memWf_fst e hr
      · next u pl e =>
        have hu : memWf u = true := memWf_fst e hr
        cases pl <;> first | exact hu | exact memWf_setLane _ _ _ _ (fun _ hl => hl) hu

theorem outWf_fullEmpty (i : Instr) (x : LExt) (k : Nat) (t : Group → Lane → Target) (op : Group → Lane → FeOp)
    (d : BitVec 7) (store : Bool) (s : State) (h : memWf s = true) :
    OutWf (fullEmpty i x k t op d store s) := by
  unfold fullEmpty
  split
  · trivial
  · dsimp only
    refine outWf_next (memWf_endTurns _ _ (memWf_feRelease _ _ _ _ (memWf_feRetry _ ?_)))
    split
    · exact memWf_countAccess _ _ _ _ (memWf_foldl_fst _ (fun _ _ k' => memWf_feLane _ _ _ _ _ _ _ _ _ _ k') _ _ h)
    · exact memWf_foldl_fst _ (fun _ _ k' => memWf_feLane _ _ _ _ _ _ _ _ _ _ k') _ _ h

theorem outWf_umovl (x : UExt) (d a : BitVec 6) (sel : Path → Nat) (s : State) (h : memWf s = true) :
    OutWf (umovl x d a sel s) := by
  unfold umovl
  refine outWf_uniform _ _ _ (fun y t k => ?_) h
  split
  · exact endWf_trap k
  · exact endWf_done (memWf_pathGroup_same _ _ _ (fun _ => rfl) k)

theorem outWf_execLd (d : BitVec 7) (a : BitVec 7) (size : BitVec 3) (hs : BitVec 2) (off : BitVec 6) (x : LExt)
    (s : State) (h : memWf s = true) :
    OutWf (execLd d a size hs off x s) :=
  outWf_laneFold _ _ _ _ _ (fun _ _ _ k => memWf_loadLane _ _ _ _ _ _ k) (fun _ _ k => memWf_countLoad _ _ _ k) h

theorem outWf_execSt (d : BitVec 7) (a : BitVec 7) (size : BitVec 3) (hs : BitVec 2) (off : BitVec 6) (x : LExt)
    (s : State) (h : memWf s = true) :
    OutWf (execSt d a size hs off x s) :=
  outWf_laneFold _ _ _ _ _ (fun _ _ _ k => memWf_storeLane _ _ _ _ _ _ k) (fun _ _ k => memWf_countStore _ _ _ k) h

theorem outWf_execLdl (d : BitVec 7) (a : BitVec 7) (size : BitVec 3) (hs : BitVec 2) (off : BitVec 6) (x : LExt)
    (s : State) (h : memWf s = true) :
    OutWf (execLdl d a size hs off x s) :=
  outWf_laneFold _ _ _ _ _ (fun _ _ _ k => memWf_loadLane _ _ _ _ _ _ k) (fun _ _ k => memWf_countLoad _ _ _ k) h

theorem outWf_execStl (d : BitVec 7) (a : BitVec 7) (size : BitVec 3) (hs : BitVec 2) (off : BitVec 6) (x : LExt)
    (s : State) (h : memWf s = true) :
    OutWf (execStl d a size hs off x s) :=
  outWf_laneFold _ _ _ _ _ (fun _ _ _ k => memWf_storeLane _ _ _ _ _ _ k) (fun _ _ k => memWf_countStore _ _ _ k) h

theorem outWf_execLdfe (d : BitVec 7) (a : BitVec 7) (size : BitVec 3) (hs : BitVec 2) (off : BitVec 6) (x : LExt)
    (s : State) (h : memWf s = true) :
    OutWf (execLdfe d a size hs off x s) := outWf_fullEmpty _ _ _ _ _ _ _ _ h

theorem outWf_execStfe (d : BitVec 7) (a : BitVec 7) (size : BitVec 3) (hs : BitVec 2) (off : BitVec 6) (x : LExt)
    (s : State) (h : memWf s = true) :
    OutWf (execStfe d a size hs off x s) := outWf_fullEmpty _ _ _ _ _ _ _ _ h

theorem outWf_execAtomAdd (d : BitVec 7) (a : BitVec 7) (b : BitVec 7) (x : LExt) (s : State) (h : memWf s = true) :
    OutWf (execAtomAdd d a b x s) := outWf_atom32 _ _ _ _ _ _ _ h

theorem outWf_execAtomAnd (d : BitVec 7) (a : BitVec 7) (b : BitVec 7) (x : LExt) (s : State) (h : memWf s = true) :
    OutWf (execAtomAnd d a b x s) := outWf_atom32 _ _ _ _ _ _ _ h

theorem outWf_execAtomOr (d : BitVec 7) (a : BitVec 7) (b : BitVec 7) (x : LExt) (s : State) (h : memWf s = true) :
    OutWf (execAtomOr d a b x s) := outWf_atom32 _ _ _ _ _ _ _ h

theorem outWf_execAtomXor (d : BitVec 7) (a : BitVec 7) (b : BitVec 7) (x : LExt) (s : State) (h : memWf s = true) :
    OutWf (execAtomXor d a b x s) := outWf_atom32 _ _ _ _ _ _ _ h

theorem outWf_execAtomXchg (d : BitVec 7) (a : BitVec 7) (b : BitVec 7) (x : LExt) (s : State) (h : memWf s = true) :
    OutWf (execAtomXchg d a b x s) := outWf_atom32 _ _ _ _ _ _ _ h

theorem outWf_execAtomMins (d : BitVec 7) (a : BitVec 7) (b : BitVec 7) (x : LExt) (s : State) (h : memWf s = true) :
    OutWf (execAtomMins d a b x s) := outWf_atom32 _ _ _ _ _ _ _ h

theorem outWf_execAtomMaxs (d : BitVec 7) (a : BitVec 7) (b : BitVec 7) (x : LExt) (s : State) (h : memWf s = true) :
    OutWf (execAtomMaxs d a b x s) := outWf_atom32 _ _ _ _ _ _ _ h

theorem outWf_execAtomMinn (d : BitVec 7) (a : BitVec 7) (b : BitVec 7) (x : LExt) (s : State) (h : memWf s = true) :
    OutWf (execAtomMinn d a b x s) := outWf_atom32 _ _ _ _ _ _ _ h

theorem outWf_execAtomMaxn (d : BitVec 7) (a : BitVec 7) (b : BitVec 7) (x : LExt) (s : State) (h : memWf s = true) :
    OutWf (execAtomMaxn d a b x s) := outWf_atom32 _ _ _ _ _ _ _ h

theorem outWf_execAtomAddf (d : BitVec 7) (a : BitVec 7) (b : BitVec 7) (x : LExt) (s : State) (h : memWf s = true) :
    OutWf (execAtomAddf d a b x s) := outWf_atom32 _ _ _ _ _ _ _ h

theorem outWf_execAtomCas (d : BitVec 7) (a : BitVec 7) (b : BitVec 7) (x : LExt) (s : State) (h : memWf s = true) :
    OutWf (execAtomCas d a b x s) := outWf_atom _ _ _ _ _ _ _ h

theorem outWf_execAtomAdd64 (d : BitVec 7) (a : BitVec 7) (b : BitVec 7) (x : LExt) (s : State) (h : memWf s = true) :
    OutWf (execAtomAdd64 d a b x s) := outWf_atom64 _ _ _ _ _ _ _ h

theorem outWf_execAtomXchg64 (d : BitVec 7) (a : BitVec 7) (b : BitVec 7) (x : LExt) (s : State) (h : memWf s = true) :
    OutWf (execAtomXchg64 d a b x s) := outWf_atom64 _ _ _ _ _ _ _ h

theorem outWf_execAtomCas64 (d : BitVec 7) (a : BitVec 7) (b : BitVec 7) (x : LExt) (s : State) (h : memWf s = true) :
    OutWf (execAtomCas64 d a b x s) := outWf_atom _ _ _ _ _ _ _ h

theorem outWf_execAtomfxAdd (a : BitVec 7) (b : BitVec 7) (x : LExt) (s : State) (h : memWf s = true) :
    OutWf (execAtomfxAdd a b x s) :=
  outWf_laneFold _ _ _ _ _ (fun _ _ _ k => memWf_atomfxLane _ _ _ _ _ _ _ k) (fun _ _ k => memWf_countStore _ _ _ k) h

theorem outWf_execAtomfxFetch (d : BitVec 7) (a : BitVec 7) (b : BitVec 7) (x : LExt) (s : State) (h : memWf s = true) :
    OutWf (execAtomfxFetch d a b x s) :=
  outWf_laneFold _ _ _ _ _ (fun _ _ _ k => memWf_atomfxLane _ _ _ _ _ _ _ k) (fun _ _ k => memWf_countLoad _ _ _ k) h

theorem outWf_execPref (a : BitVec 7) (size : BitVec 3) (hs : BitVec 2) (off : BitVec 6) (x : LExt) (s : State)
    (h : memWf s = true) :
    OutWf (execPref a size hs off x s) := by
  unfold execPref
  refine outWf_laneMap _ _ _ (fun y z w x' k k' => ?_) _ h
  exact k'

theorem lanes_udst (g : Group) (n : Nat) (v : DWord) : (g.udst n v).lanes = g.lanes := rfl

theorem outWf_execUld (d : BitVec 6) (a : BitVec 6) (imm : BitVec 13) (x : UExt) (s : State) (h : memWf s = true) :
    OutWf (execUld d a imm x s) := by
  unfold execUld
  refine outWf_uniform _ _ _ (fun p t k => ?_) h
  have hc := memWf_checkAccess t p.b p.iss.grp p.lead .read (uniformTarget x p.g a imm) 8 k
  split
  · next e => exact endWf_uend _ _ _ (memWf_fst e hc)
  · next u pl e =>
    extract_lets r
    have hr : memWf r.1 = true := memWf_loadAt _ _ _ _ _ ((memWf_sealSources _ _ _).trans (memWf_fst e hc))
    exact endWf_done (memWf_countAccess _ _ _ _ (memWf_noteSys _ _ _ _ (memWf_pathGroup_same _ _ _ (fun _ => lanes_udst _ _ _) hr)))

theorem outWf_execUst (d : BitVec 6) (a : BitVec 6) (imm : BitVec 13) (x : UExt) (s : State) (h : memWf s = true) :
    OutWf (execUst d a imm x s) := by
  unfold execUst
  refine outWf_uniform _ _ _ (fun y t k => ?_) h
  split
  · next heq => exact endWf_uend _ _ _ (memWf_fst heq (memWf_checkAccess _ _ _ _ _ _ _ k))
  · next heq => exact endWf_done (memWf_countAccess _ _ _ _ (memWf_storeAt _ _ _ _ _ ((memWf_sealSources _ _ _).trans
      (memWf_fst heq (memWf_checkAccess _ _ _ _ _ _ _ k)))))

theorem outWf_execUmovlFirst (d : BitVec 6) (a : BitVec 6) (x : UExt) (s : State) (h : memWf s = true) :
    OutWf (execUmovlFirst d a x s) := outWf_umovl _ _ _ _ _ h

theorem outWf_execUmovlLane (d : BitVec 6) (a : BitVec 6) (b : BitVec 6) (x : UExt) (s : State) (h : memWf s = true) :
    OutWf (execUmovlLane d a b x s) := outWf_umovl _ _ _ _ _ h

theorem memWf_pushLane (t : DWord) (p : Path) (n : Nat) (s : State) (h : memWf s = true) : memWf (pushLane t p n s).1 = true := by
  unfold pushLane
  dsimp only
  split
  · exact h
  · dsimp only
    exact memWf_setLane _ _ _ _ (fun _ k => laneWf_same k rfl rfl) (memWf_storeAt _ _ _ _ _ h)

theorem memWf_popLane (p : Path) (n : Nat) (s : State) (h : memWf s = true) : memWf (popLane p n s).1 = true := by
  unfold popLane
  dsimp only
  split
  · exact h
  · split
    · exact h
    · split
      · dsimp only
        exact memWf_setLane _ _ _ _ (fun _ k => laneWf_same k rfl rfl) h
      · exact h

theorem memWf_exitPath (x : LExt) (p : Path) (s : State) (h : memWf s = true) : memWf (exitPath x p s) = true := by
  unfold exitPath
  dsimp only
  split
  · exact memWf_raiseLanes _ _ _ (memWf_pathGroup _ _ _ (fun _ k => groupWf_modLanes _ _ _
      (fun _ _ k' => laneWf_same k' rfl rfl) k) h)
  · split
    · exact memWf_trapGroup _ _ _ _ _ (memWf_dropFamily _ _ _ (memWf_pathGroup _ _ _ (fun _ k => groupWf_modLanes _ _ _
        (fun _ _ k' => laneWf_same k' rfl rfl) k) h))
    · split
      · exact memWf_pathGroup _ _ _ (fun _ k => groupWf_modLanes _ _ _ (fun _ _ k' => laneWf_same k' rfl rfl) k) h
      · exact memWf_exitLanes _ _ _ _ (memWf_pathGroup _ _ _ (fun _ k => groupWf_modLanes _ _ _
          (fun _ _ k' => laneWf_same k' rfl rfl) k) h)

theorem outWf_dispatchPath (i : Instr) (x : LExt) (s : State) (h : memWf s = true) : OutWf (dispatchPath i x s) := by
  unfold dispatchPath
  refine outWf_laneFold _ _ _ _ _ (fun _ _ _ k => memWf_guestDispatchLane _ _ _ k) (fun y t k => ?_) h
  exact k

theorem memWf_poolWait (p : Path) (n : Nat) (why : Retry) (s : State) (h : memWf s = true) :
    memWf (poolWait p n why s) = true := by
  unfold poolWait
  refine memWf_modGroup _ _ _ _ (fun g hg => ?_) h
  have hg' : groupWf (g.modLane n fun l => { l with hold := .retry why }) = true := groupWf_modLane g n _ (fun _ hl => hl) hg
  exact hg'

theorem memWf_poolLane (p : Path) (acc : State × List (Nat × NoAccess)) (n : Nat) (h : memWf acc.1 = true) :
    memWf (poolLane p acc n).1 = true := by
  have hf := memWf_guestFetch acc.1 p n h
  unfold poolLane
  split
  · exact memWf_poolWait _ _ _ _ h
  · split
    · next e => exact memWf_setLane _ _ _ _ (fun _ hl => hl) (memWf_fst e hf)
    · next e => exact memWf_poolWait _ _ _ _ (memWf_fst e hf)
    · next e => exact memWf_setLane _ _ _ _ (fun _ hl => hl) (memWf_fst e hf)

theorem memWf_openRound (s : State) (p : Path) (h : memWf s = true) : memWf (openRound s p) = true :=
  memWf_pathBlock _ _ _ (fun _ k => blockWf_same k rfl rfl) h

theorem outWf_poolPath (s : State) (h : memWf s = true) : OutWf (poolPath s) := by
  unfold poolPath
  split
  · trivial
  · dsimp only
    refine outWf_next (memWf_checkRound _ _ (memWf_endTurns _ _ ?_))
    split
    · dsimp only
      exact memWf_openRound _ _ (memWf_foldl_fst _ (fun _ _ k => memWf_poolLane _ _ _ k) _ _ h)
    · dsimp only
      exact memWf_foldl_fst _ (fun _ _ k => memWf_poolLane _ _ _ k) _ _ h

theorem outWf_execBr (p : BitVec 5) (neg : BitVec 1) (disp : BitVec 19) (x : LExt) (s : State) (h : memWf s = true) :
    OutWf (execBr p neg disp x s) := by
  unfold execBr
  refine outWf_laneTrap _ _ _ (fun y z w x' k k' => ?_) _ h
  dsimp only
  split
  · exact k
  · split
    · dsimp only
      exact laneWf_same k' rfl rfl
    · exact k'

theorem outWf_execBrxJmp (a : BitVec 7) (x : LExt) (s : State) (h : memWf s = true) : OutWf (execBrxJmp a x s) := by
  unfold execBrxJmp
  refine outWf_laneTrap _ _ _ (fun y z w x' k k' => ?_) _ h
  dsimp only
  split
  · dsimp only
    exact laneWf_same k' rfl rfl
  · exact k

theorem outWf_execBrxCall (a : BitVec 7) (x : LExt) (s : State) (h : memWf s = true) : OutWf (execBrxCall a x s) := by
  unfold execBrxCall
  refine outWf_laneFold _ _ _ _ _ (fun y z t k => ?_) (fun y t k => ?_) h
  · dsimp only
    split
    · exact memWf_pushLane _ _ _ _ k
    · exact k
  · exact k

theorem outWf_execCall (p : BitVec 5) (neg : BitVec 1) (disp : BitVec 19) (x : LExt) (s : State) (h : memWf s = true) :
    OutWf (execCall p neg disp x s) := by
  unfold execCall
  refine outWf_laneFold _ _ _ _ _ (fun y z t k => ?_) (fun y t k => ?_) h
  · dsimp only
    split
    · exact k
    · split
      · exact memWf_pushLane _ _ _ _ k
      · exact k
  · exact k

theorem outWf_execCtlRet (x : LExt) (s : State) (h : memWf s = true) : OutWf (execCtlRet x s) := by
  unfold execCtlRet
  refine outWf_laneFold _ _ _ _ _ (fun _ _ _ k => memWf_popLane _ _ _ k) (fun y t k => ?_) h
  exact k

theorem outWf_execCtlExit (x : LExt) (s : State) (h : memWf s = true) : OutWf (execCtlExit x s) := by
  unfold execCtlExit
  split
  · trivial
  · exact outWf_next (memWf_exitPath _ _ _ h)

theorem outWf_execCtlYield (x : LExt) (s : State) (h : memWf s = true) : OutWf (execCtlYield x s) := by
  have hm := outWf_laneMap (.ctlYield x) x (fun _ _ _ m => m) (fun _ _ _ _ _ hl => hl) s h
  unfold execCtlYield
  split
  · next e => exact memWf_noteYield _ _ (memWf_next e hm)
  · exact hm

theorem outWf_execGuestDispatch (x : LExt) (s : State) (h : memWf s = true) : OutWf (execGuestDispatch x s) :=
  outWf_dispatchPath _ _ _ h

theorem outWf_execGuestDispatchRg (x : LExt) (s : State) (h : memWf s = true) : OutWf (execGuestDispatchRg x s) := by
  unfold execGuestDispatchRg
  split
  · exact outWf_dispatchPath _ _ _ h
  · exact outWf_poolPath _ h

theorem outWf_execGuestRdpc (d : BitVec 7) (x : LExt) (s : State) (h : memWf s = true) : OutWf (execGuestRdpc d x s) :=
  outWf_laneMap _ _ _ (fun _ _ _ _ _ k' => laneWf_dst64 _ _ _ k') _ h

theorem outWf_execGuestWrpc (a : BitVec 7) (x : LExt) (s : State) (h : memWf s = true) : OutWf (execGuestWrpc a x s) := by
  unfold execGuestWrpc
  refine outWf_laneMap _ _ _ (fun y z w x' k k' => ?_) _ h
  exact laneWf_same k' rfl rfl

theorem outWf_execGuestAddpc (a : BitVec 7) (x : LExt) (s : State) (h : memWf s = true) : OutWf (execGuestAddpc a x s) := by
  unfold execGuestAddpc
  refine outWf_laneMap _ _ _ (fun y z w x' k k' => ?_) _ h
  exact laneWf_same k' rfl rfl

theorem outWf_execGuestRdop (d : BitVec 7) (x : LExt) (s : State) (h : memWf s = true) : OutWf (execGuestRdop d x s) :=
  outWf_laneMap _ _ _ (fun _ _ _ _ _ k' => laneWf_dst32 _ _ _ k') _ h

theorem outWf_execGuestWrop (a : BitVec 7) (x : LExt) (s : State) (h : memWf s = true) : OutWf (execGuestWrop a x s) := by
  unfold execGuestWrop
  refine outWf_laneMap _ _ _ (fun y z w x' k k' => ?_) _ h
  exact laneWf_same k' rfl rfl

end Sys2Proof.Proofs
end

section
/-! PROOF of O59: uniform instructions and barriers. -/

namespace Sys2Proof.Proofs

open Sys2Proof Sys2Proof.Machine Sys2Proof.Laws

theorem outWf_uni2 (x : UExt) (d a b : BitVec 6) (f : DWord → DWord → DWord) (s : State) (h : memWf s = true) :
    OutWf (uni2 x d a b f s) :=
  outWf_uniform _ _ _ (fun _ _ k => endWf_done (memWf_pathGroup_same _ _ _ (fun _ => rfl) k)) h

theorem lanes_qwr (g : Group) (q : Nat) (v : Bool) : (g.qwr q v).lanes = g.lanes := by
  unfold Group.qwr
  split <;> rfl

theorem groupWf_qwr (g : Group) (q : Nat) (v : Bool) (h : groupWf g = true) : groupWf (g.qwr q v) = true :=
  groupWf_same h (lanes_qwr _ _ _)

theorem outWf_ucompare (x : UExt) (r : Rel) (q : BitVec 3) (a b : BitVec 6) (s : State) (h : memWf s = true) :
    OutWf (ucompare x r q a b s) :=
  outWf_uniform _ _ _ (fun _ _ k => endWf_done (memWf_pathGroup_same _ _ _ (fun _ => lanes_qwr _ _ _) k)) h

theorem outWf_upred (x : UExt) (f : Bool → Bool → Bool) (q a b : BitVec 3) (s : State) (h : memWf s = true) :
    OutWf (upred x f q a b s) :=
  outWf_uniform _ _ _ (fun _ _ k => endWf_done (memWf_pathGroup_same _ _ _ (fun _ => lanes_qwr _ _ _) k)) h

theorem endWf_privileged (f : Path → State → UEnd) (p : Path) (s : State) (hf : EndWf (f p s)) (h : memWf s = true) :
    EndWf (privileged f p s) := by
  unfold privileged
  split
  · exact hf
  · exact h

theorem memWf_tlbRange (s : State) (p : Path) (trc va units : Nat) (h : memWf s = true) :
    memWf (tlbRange s p trc va units) = true := memWf_dropTlb _ _ _ _ (memWf_landRange _ _ _ _ _ _ h)

theorem outWf_execUsysNop (x : UExt) (s : State) (h : memWf s = true) : OutWf (execUsysNop x s) :=
  outWf_uniform _ _ _ (fun _ _ k => endWf_done k) h

theorem outWf_execUsysSvc (a : BitVec 6) (x : UExt) (s : State) (h : memWf s = true) : OutWf (execUsysSvc a x s) := by
  unfold execUsysSvc
  refine outWf_uniform _ _ _ (fun y t k => ?_) h
  dsimp only
  split
  · exact endWf_trapNext k
  · split
    · exact endWf_trap k
    · exact endWf_stay (memWf_modPart_same _ _ _ (fun _ => rfl) (fun _ => rfl) (memWf_pathHold _ _ _ k))

theorem outWf_execUsysTlbiva (a : BitVec 6) (b : BitVec 6) (x : UExt) (s : State) (h : memWf s = true) :
    OutWf (execUsysTlbiva a b x s) := by
  unfold execUsysTlbiva
  refine outWf_uniform _ _ _ (fun y t k => endWf_privileged _ _ _ ?_ k) h
  dsimp only
  split
  · exact endWf_trap k
  · split
    · exact endWf_trap k
    · exact endWf_done (memWf_tlbRange _ _ _ _ _ k)

theorem outWf_execUsysTlbictx (a : BitVec 6) (x : UExt) (s : State) (h : memWf s = true) : OutWf (execUsysTlbictx a x s) := by
  unfold execUsysTlbictx
  refine outWf_uniform _ _ _ (fun y t k => endWf_privileged _ _ _ ?_ k) h
  dsimp only
  split
  · exact endWf_trap k
  · exact endWf_done (memWf_dropTlb _ _ _ _ (memWf_landRange _ _ _ _ _ _ k))

theorem outWf_execUsysBrk (x : UExt) (s : State) (h : memWf s = true) : OutWf (execUsysBrk x s) :=
  outWf_uniform _ _ _ (fun _ _ k => endWf_trapNext k) h

theorem outWf_execUaluAdd (d : BitVec 6) (a : BitVec 6) (b : BitVec 6) (x : UExt) (s : State) (h : memWf s = true) :
    OutWf (execUaluAdd d a b x s) := outWf_uni2 _ _ _ _ _ _ h

theorem outWf_execUaluSub (d : BitVec 6) (a : BitVec 6) (b : BitVec 6) (x : UExt) (s : State) (h : memWf s = true) :
    OutWf (execUaluSub d a b x s) := outWf_uni2 _ _ _ _ _ _ h

theorem outWf_execUaluAnd (d : BitVec 6) (a : BitVec 6) (b : BitVec 6) (x : UExt) (s : State) (h : memWf s = true) :
    OutWf (execUaluAnd d a b x s) := outWf_uni2 _ _ _ _ _ _ h

theorem outWf_execUaluOr (d : BitVec 6) (a : BitVec 6) (b : BitVec 6) (x : UExt) (s : State) (h : memWf s = true) :
    OutWf (execUaluOr d a b x s) := outWf_uni2 _ _ _ _ _ _ h

theorem outWf_execUaluXor (d : BitVec 6) (a : BitVec 6) (b : BitVec 6) (x : UExt) (s : State) (h : memWf s = true) :
    OutWf (execUaluXor d a b x s) := outWf_uni2 _ _ _ _ _ _ h

theorem outWf_execUaluShl (d : BitVec 6) (a : BitVec 6) (b : BitVec 6) (x : UExt) (s : State) (h : memWf s = true) :
    OutWf (execUaluShl d a b x s) := outWf_uni2 _ _ _ _ _ _ h

theorem outWf_execUaluShr (d : BitVec 6) (a : BitVec 6) (b : BitVec 6) (x : UExt) (s : State) (h : memWf s = true) :
    OutWf (execUaluShr d a b x s) := outWf_uni2 _ _ _ _ _ _ h

theorem outWf_execUaluSar (d : BitVec 6) (a : BitVec 6) (b : BitVec 6) (x : UExt) (s : State) (h : memWf s = true) :
    OutWf (execUaluSar d a b x s) := outWf_uni2 _ _ _ _ _ _ h

theorem outWf_execUaluMul (d : BitVec 6) (a : BitVec 6) (b : BitVec 6) (x : UExt) (s : State) (h : memWf s = true) :
    OutWf (execUaluMul d a b x s) := outWf_uni2 _ _ _ _ _ _ h

theorem outWf_execUaluMins (d : BitVec 6) (a : BitVec 6) (b : BitVec 6) (x : UExt) (s : State) (h : memWf s = true) :
    OutWf (execUaluMins d a b x s) := outWf_uni2 _ _ _ _ _ _ h

theorem outWf_execUaluMaxs (d : BitVec 6) (a : BitVec 6) (b : BitVec 6) (x : UExt) (s : State) (h : memWf s = true) :
    OutWf (execUaluMaxs d a b x s) := outWf_uni2 _ _ _ _ _ _ h

theorem outWf_execUaluMinn (d : BitVec 6) (a : BitVec 6) (b : BitVec 6) (x : UExt) (s : State) (h : memWf s = true) :
    OutWf (execUaluMinn d a b x s) := outWf_uni2 _ _ _ _ _ _ h

theorem outWf_execUaluMaxn (d : BitVec 6) (a : BitVec 6) (b : BitVec 6) (x : UExt) (s : State) (h : memWf s = true) :
    OutWf (execUaluMaxn d a b x s) := outWf_uni2 _ _ _ _ _ _ h

theorem outWf_execUaddi (d : BitVec 6) (a : BitVec 6) (imm : BitVec 13) (x : UExt) (s : State) (h : memWf s = true) :
    OutWf (execUaddi d a imm x s) :=
  outWf_uniform _ _ _ (fun _ _ k => endWf_done (memWf_pathGroup_same _ _ _ (fun _ => rfl) k)) h

theorem outWf_execUmovi (d : BitVec 6) (imm : BitVec 19) (x : UExt) (s : State) (h : memWf s = true) :
    OutWf (execUmovi d imm x s) :=
  outWf_uniform _ _ _ (fun _ _ k => endWf_done (memWf_pathGroup_same _ _ _ (fun _ => rfl) k)) h

theorem outWf_execUmovhi (d : BitVec 6) (imm : BitVec 19) (x : UExt) (s : State) (h : memWf s = true) :
    OutWf (execUmovhi d imm x s) :=
  outWf_uniform _ _ _ (fun _ _ k => endWf_done (memWf_pathGroup_same _ _ _ (fun _ => rfl) k)) h

theorem outWf_execUcmpEq (q : BitVec 3) (a : BitVec 6) (b : BitVec 6) (x : UExt) (s : State) (h : memWf s = true) :
    OutWf (execUcmpEq q a b x s) := outWf_ucompare _ _ _ _ _ _ h

theorem outWf_execUcmpNe (q : BitVec 3) (a : BitVec 6) (b : BitVec 6) (x : UExt) (s : State) (h : memWf s = true) :
    OutWf (execUcmpNe q a b x s) := outWf_ucompare _ _ _ _ _ _ h

theorem outWf_execUcmpLts (q : BitVec 3) (a : BitVec 6) (b : BitVec 6) (x : UExt) (s : State) (h : memWf s = true) :
    OutWf (execUcmpLts q a b x s) := outWf_ucompare _ _ _ _ _ _ h

theorem outWf_execUcmpLes (q : BitVec 3) (a : BitVec 6) (b : BitVec 6) (x : UExt) (s : State) (h : memWf s = true) :
    OutWf (execUcmpLes q a b x s) := outWf_ucompare _ _ _ _ _ _ h

theorem outWf_execUcmpGts (q : BitVec 3) (a : BitVec 6) (b : BitVec 6) (x : UExt) (s : State) (h : memWf s = true) :
    OutWf (execUcmpGts q a b x s) := outWf_ucompare _ _ _ _ _ _ h

theorem outWf_execUcmpGes (q : BitVec 3) (a : BitVec 6) (b : BitVec 6) (x : UExt) (s : State) (h : memWf s = true) :
    OutWf (execUcmpGes q a b x s) := outWf_ucompare _ _ _ _ _ _ h

theorem outWf_execUcmpLtn (q : BitVec 3) (a : BitVec 6) (b : BitVec 6) (x : UExt) (s : State) (h : memWf s = true) :
    OutWf (execUcmpLtn q a b x s) := outWf_ucompare _ _ _ _ _ _ h

theorem outWf_execUcmpLen (q : BitVec 3) (a : BitVec 6) (b : BitVec 6) (x : UExt) (s : State) (h : memWf s = true) :
    OutWf (execUcmpLen q a b x s) := outWf_ucompare _ _ _ _ _ _ h

theorem outWf_execUcmpGtn (q : BitVec 3) (a : BitVec 6) (b : BitVec 6) (x : UExt) (s : State) (h : memWf s = true) :
    OutWf (execUcmpGtn q a b x s) := outWf_ucompare _ _ _ _ _ _ h

theorem outWf_execUcmpGen (q : BitVec 3) (a : BitVec 6) (b : BitVec 6) (x : UExt) (s : State) (h : memWf s = true) :
    OutWf (execUcmpGen q a b x s) := outWf_ucompare _ _ _ _ _ _ h

theorem outWf_execUcmpQand (q : BitVec 3) (a : BitVec 3) (b : BitVec 3) (x : UExt) (s : State) (h : memWf s = true) :
    OutWf (execUcmpQand q a b x s) := outWf_upred _ _ _ _ _ _ h

theorem outWf_execUcmpQor (q : BitVec 3) (a : BitVec 3) (b : BitVec 3) (x : UExt) (s : State) (h : memWf s = true) :
    OutWf (execUcmpQor q a b x s) := outWf_upred _ _ _ _ _ _ h

theorem outWf_execUcmpQxor (q : BitVec 3) (a : BitVec 3) (b : BitVec 3) (x : UExt) (s : State) (h : memWf s = true) :
    OutWf (execUcmpQxor q a b x s) := outWf_upred _ _ _ _ _ _ h

theorem outWf_execUbr (q : BitVec 3) (neg : BitVec 1) (disp : BitVec 21) (x : UExt) (s : State) (h : memWf s = true) :
    OutWf (execUbr q neg disp x s) := by
  unfold execUbr
  refine outWf_uniform _ _ _ (fun y t k => ?_) h
  dsimp only
  split
  · exact endWf_trap k
  · split
    · exact endWf_goto k
    · exact endWf_done k

theorem outWf_arrival (x : UExt) (level : BitVec 2) (f : Path → State → UEnd) (s : State)
    (hf : ∀ p t, memWf t = true → EndWf (f p t)) (h : memWf s = true) : OutWf (arrival x level f s) := by
  unfold arrival
  dsimp only
  split
  · refine outWf_uniform _ _ _ (fun p t k => ?_) h
    split
    · exact hf _ _ k
    · exact endWf_stay (memWf_pathHold _ _ _ k)
  · refine outWf_uniformConv _ _ _ (fun p t k => ?_) h
    split
    · exact hf _ _ k
    · exact endWf_stay (memWf_pathHold _ _ _ k)

theorem outWf_arriveAt (x : UExt) (desc : BitVec 6) (slot : BitVec 4) (level : BitVec 2) (count : Path → Option Nat)
    (s : State) (h : memWf s = true) :
    OutWf (arriveAt x desc slot level count s) := by
  unfold arriveAt
  refine outWf_arrival _ _ _ _ (fun y t k => ?_) h
  dsimp only
  split
  · exact endWf_trap k
  · exact endWf_done (memWf_arriveSlot _ _ _ (memWf_pathGroup_same _ _ _ (fun _ => rfl) k))

theorem endWf_waitAt (p : Path) (s : State) (k : SlotKey) (sync parity : Bool) (h : memWf s = true) :
    EndWf (waitAt p s k sync parity) := by
  unfold waitAt
  split
  · exact endWf_done h
  · exact endWf_stay (memWf_pathHold _ _ _ h)

theorem endWf_fenceAcq (p : Path) (s : State) (h : memWf s = true) : EndWf (fenceAcq p s) := by
  unfold fenceAcq
  split
  · exact endWf_stay (memWf_pathHold _ _ _ h)
  · exact endWf_done (memWf_dropLeases _ _ h)

theorem outWf_fenceRel (x : UExt) (f : Path → State → UEnd) (s : State) (hf : ∀ p t, memWf t = true → EndWf (f p t))
    (h : memWf s = true) : OutWf (fenceRel x f s) := by
  unfold fenceRel
  refine outWf_uniform _ _ _ (fun p t k => ?_) h
  split
  · exact endWf_stay (memWf_pathHold _ _ _ k)
  · exact hf _ _ k

theorem outWf_execBarArrive (desc : BitVec 6) (slot : BitVec 4) (level : BitVec 2) (x : UExt) (s : State)
    (h : memWf s = true) :
    OutWf (execBarArrive desc slot level x s) := outWf_arriveAt _ _ _ _ _ _ h

theorem outWf_execBarArriveCnt (desc : BitVec 6) (addr : BitVec 6) (slot : BitVec 4) (level : BitVec 2) (x : UExt)
    (s : State) (h : memWf s = true) :
    OutWf (execBarArriveCnt desc addr slot level x s) := outWf_arriveAt _ _ _ _ _ _ h

theorem outWf_execBarWait (desc : BitVec 6) (slot : BitVec 4) (level : BitVec 2) (x : UExt) (s : State)
    (h : memWf s = true) :
    OutWf (execBarWait desc slot level x s) := outWf_uniform _ _ _ (fun _ _ k => endWf_waitAt _ _ _ _ _ k) h

theorem outWf_execBarExpect (desc : BitVec 6) (slot : BitVec 4) (level : BitVec 2) (x : UExt) (s : State)
    (h : memWf s = true) :
    OutWf (execBarExpect desc slot level x s) := by
  unfold execBarExpect
  refine outWf_uniform _ _ _ (fun y t k => ?_) h
  dsimp only
  split
  · split
    · exact endWf_trap k
    · exact endWf_done (memWf_expectSlot _ _ _ k)
  · exact endWf_done k

theorem outWf_execBarSync (slot : BitVec 4) (level : BitVec 2) (x : UExt) (s : State) (h : memWf s = true) :
    OutWf (execBarSync slot level x s) := by
  unfold execBarSync
  refine outWf_arrival _ _ _ _ (fun y t k => ?_) h
  dsimp only
  split
  · exact endWf_trap k
  · exact endWf_waitAt _ _ _ _ _ (memWf_arriveSlot _ _ _ k)

theorem outWf_execWaitc (nl : BitVec 4) (ns : BitVec 4) (nc : BitVec 4) (nt : BitVec 4) (x : UExt) (s : State)
    (h : memWf s = true) :
    OutWf (execWaitc nl ns nc nt x s) := by
  unfold execWaitc
  refine outWf_uniform _ _ _ (fun y t k => ?_) h
  dsimp only
  split
  · exact endWf_done (memWf_pathGroup_same _ _ _ (fun _ => rfl) (memWf_foldl _ (fun _ _ k' => memWf_publish _ _ k') _ _ k))
  · exact endWf_stay (memWf_pathHold _ _ _ k)

theorem outWf_execFenceSysRel (x : UExt) (s : State) (h : memWf s = true) : OutWf (execFenceSysRel x s) :=
  outWf_fenceRel _ _ _ (fun _ _ k => endWf_done k) h

theorem outWf_execFenceSysAcq (x : UExt) (s : State) (h : memWf s = true) : OutWf (execFenceSysAcq x s) :=
  outWf_uniform _ _ _ (fun _ _ k => endWf_fenceAcq _ _ k) h

theorem outWf_execFenceSysFull (x : UExt) (s : State) (h : memWf s = true) : OutWf (execFenceSysFull x s) :=
  outWf_fenceRel _ _ _ (fun _ _ k => endWf_fenceAcq _ _ k) h

end Sys2Proof.Proofs
end

section
/-! PROOF of O59: matrix and engine instructions. -/

namespace Sys2Proof.Proofs

open Sys2Proof Sys2Proof.Machine Sys2Proof.Laws

theorem memWf_requestLease (s : State) (blk core grp : Nat) (h : memWf s = true) : memWf (requestLease s blk core grp) = true := by
  unfold requestLease
  dsimp only
  split
  · exact h
  · exact (memWf_modCore _ _ _).trans (memWf_modBlock _ _ _ (fun _ k => blockWf_same k rfl rfl) h)

theorem memWf_waitLease (s : State) (p : Path) (h : memWf s = true) : memWf (waitLease s p) = true :=
  memWf_pathHold _ _ _ (memWf_requestLease _ _ _ _ h)

theorem memWf_spillLease (s : State) (blk core : Nat) (released : Bool) (h : memWf s = true) :
    memWf (spillLease s blk core released) = true :=
  memWf_wakeRetry _ _ _ ((memWf_modCore _ _ _).trans (memWf_modBlock _ _ _ (fun _ k => blockWf_same k rfl rfl) h))

theorem memWf_countOp (s : State) (b : Block) (h : memWf s = true) : memWf (countOp s b) = true :=
  memWf_modBlock _ _ _ (fun _ k => blockWf_same k rfl rfl) (memWf_countEvent _ _ _ _ _ h)

theorem memWf_acceptMma (s : State) (b : Block) (gs : List Nat) (va vb : BitVec 7) (acc fn shape : Nat) (word : Word)
    (h : memWf s = true) :
    memWf (acceptMma s b gs va vb acc fn shape word) = true := memWf_countOp _ _ ((memWf_modCore _ _ _).trans h)

theorem memWf_tryLatch (s : State) (blk : Nat) (h : memWf s = true) : memWf (tryLatch s blk) = true := by
  unfold tryLatch
  split
  · exact h
  · dsimp only
    split
    · exact h
    · split
      · exact memWf_modBlock _ _ _ (fun _ k => blockWf_mapLanes _ _ (fun _ h => by split <;> exact h) k)
          (memWf_acceptMma _ _ _ _ _ _ _ _ _ h)
      · exact h

theorem memWf_enterLatch (s : State) (p : Path) (h : memWf s = true) : memWf (enterLatch s p) = true := by
  unfold enterLatch
  dsimp only
  split
  · exact memWf_latchFault _ _ _ (memWf_pathBlock _ _ _ (fun _ k => blockWf_same k rfl rfl) (memWf_pathHold _ _ _ h))
  · exact memWf_tryLatch _ _ (memWf_pathBlock _ _ _ (fun _ k => blockWf_same k rfl rfl) (memWf_pathHold _ _ _ h))

theorem memWf_dropUnlisted (s : State) (blk : Nat) (gang : BitVec 32) (h : memWf s = true) :
    memWf (dropUnlisted s blk gang) = true := by
  unfold dropUnlisted
  refine memWf_modBlock _ _ _ (fun b hb => ?_) h
  simp only [blockWf, Bool.and_eq_true, List.all_eq_true] at hb ⊢
  refine ⟨hb.1, fun g hg => ?_⟩
  obtain ⟨i, hi, rfl⟩ := List.mem_mapIdx.1 hg
  have hi' := hb.2 _ (List.getElem_mem hi)
  split
  · exact groupWf_mapLanes _ _ (fun _ hl => by split <;> exact hl) hi'
  · exact hi'

theorem outWf_mmaRange (s : State) (p : Path) (h : memWf s = true) : OutWf (mmaRange s p) :=
  outWf_next (memWf_raiseLanes _ _ _ h)

theorem outWf_mma (fn : Nat) (va vb : BitVec 7) (acc : BitVec 2) (shape : BitVec 4) (s : State) (h : memWf s = true) :
    OutWf (mma fn va vb acc shape s) := by
  unfold mma
  split
  · trivial
  · split
    · exact outWf_next (memWf_holdReconv _ _ h)
    · dsimp only
      split
      · exact outWf_mmaRange _ _ (memWf_pathHold _ _ _ h)
      · split
        · exact outWf_next (memWf_waitLease _ _ (memWf_pathHold _ _ _ h))
        · split
          · exact outWf_mmaRange _ _ (memWf_pathHold _ _ _ h)
          · split
            · exact outWf_next (memWf_raiseLanes _ _ _ (memWf_pathHold _ _ _ h))
            · split
              · exact outWf_next (memWf_enterLatch _ _ (memWf_pathHold _ _ _ h))
              · split
                · exact outWf_next (memWf_pathTo _ _ _ (memWf_acceptMma _ _ _ _ _ _ _ _ _ (memWf_pathHold _ _ _ h)))
                · exact outWf_next (memWf_pathHold _ _ _ (memWf_pathHold _ _ _ h))

theorem outWf_mfrag (i : Instr) (x : LExt) (f : Path → State → Out) (s : State) (hf : ∀ p, OutWf (f p s)) (h : memWf s = true) :
    OutWf (mfrag i x f s) := by
  unfold mfrag
  split
  · trivial
  · split
    · exact outWf_out _ _ (endWf_done h)
    · split
      · exact hf _
      · split
        · exact outWf_next (memWf_waitLease _ _ h)
        · split
          · exact outWf_next (memWf_pathHold _ _ _ h)
          · exact hf _

theorem memWf_fragRead (d : BitVec 7) (acc : BitVec 2) (b : BitVec 7) (p : Path) (n : Nat) (s : State) (h : memWf s = true) :
    memWf (fragRead d acc b p n s).1 = true := by
  unfold fragRead
  dsimp only
  split
  · exact h
  · dsimp only
    exact memWf_setLane _ _ _ _ (fun _ k => laneWf_dst32 _ _ _ k) h

theorem memWf_fragWrite (d : BitVec 7) (acc : BitVec 2) (b : BitVec 7) (p : Path) (n : Nat) (s : State)
    (h : memWf s = true) :
    memWf (fragWrite d acc b p n s).1 = true := by
  unfold fragWrite
  dsimp only
  exact (memWf_coverPoison _ _ _ _).trans ((memWf_modCore _ _ _).trans h)

theorem outWf_ascending (i : Instr) (x : LExt) (f : Path → Nat → State → State × Option NoAccess) (p : Path) (s : State)
    (hf : ∀ n t, memWf t = true → memWf (f p n t).1 = true) (h : memWf s = true) : OutWf (ascending i x f p s) :=
  outWf_next (memWf_endTurns _ _ (memWf_foldl_fst _ (fun r n k => memWf_laneTurn p i x f hf r n k) _ _ h))

theorem outWf_execMmaAdd (va : BitVec 7) (vb : BitVec 7) (acc : BitVec 2) (shape : BitVec 4) (_x : LExt) (s : State)
    (h : memWf s = true) :
    OutWf (execMmaAdd va vb acc shape _x s) := outWf_mma _ _ _ _ _ _ h

theorem outWf_execMmaSet (va : BitVec 7) (vb : BitVec 7) (acc : BitVec 2) (shape : BitVec 4) (_x : LExt) (s : State)
    (h : memWf s = true) :
    OutWf (execMmaSet va vb acc shape _x s) := outWf_mma _ _ _ _ _ _ h

theorem outWf_execMmaTri (va : BitVec 7) (vb : BitVec 7) (acc : BitVec 2) (shape : BitVec 4) (_x : LExt) (s : State)
    (h : memWf s = true) :
    OutWf (execMmaTri va vb acc shape _x s) := outWf_mma _ _ _ _ _ _ h

theorem outWf_execMmaTriset (va : BitVec 7) (vb : BitVec 7) (acc : BitVec 2) (shape : BitVec 4) (_x : LExt) (s : State)
    (h : memWf s = true) :
    OutWf (execMmaTriset va vb acc shape _x s) := outWf_mma _ _ _ _ _ _ h

theorem outWf_execMfragRd (d : BitVec 7) (acc : BitVec 2) (b : BitVec 7) (x : LExt) (s : State) (h : memWf s = true) :
    OutWf (execMfragRd d acc b x s) :=
  outWf_mfrag _ _ _ _ (fun _ => outWf_ascending _ _ _ _ _ (fun _ _ k => memWf_fragRead _ _ _ _ _ _ k) h) h

theorem outWf_execMfragWr (d : BitVec 7) (acc : BitVec 2) (b : BitVec 7) (x : LExt) (s : State) (h : memWf s = true) :
    OutWf (execMfragWr d acc b x s) :=
  outWf_mfrag _ _ _ _ (fun _ => outWf_ascending _ _ _ _ _ (fun _ _ k => memWf_fragWrite _ _ _ _ _ _ k) h) h

theorem outWf_execMfragZero (acc : BitVec 2) (x : LExt) (s : State) (h : memWf s = true) : OutWf (execMfragZero acc x s) :=
  outWf_mfrag _ _ _ _ (fun _ => outWf_out _ _ (endWf_done (memWf_clearAcc _ _ _ ((memWf_modCore _ _ _).trans h)))) h

theorem outWf_execGangList (a : BitVec 6) (x : UExt) (s : State) (h : memWf s = true) : OutWf (execGangList a x s) := by
  unfold execGangList
  refine outWf_uniform _ _ _ (fun y t k => ?_) h
  dsimp only
  split
  · exact endWf_trap k
  · exact endWf_done (memWf_tryLatch _ _ (memWf_wakeRetry _ _ _ (memWf_dropUnlisted _ _ _ (memWf_pathBlock _ _ _
      (fun _ k' => blockWf_same k' rfl rfl) k))))

theorem outWf_execGangLease (x : UExt) (s : State) (h : memWf s = true) : OutWf (execGangLease x s) :=
  outWf_uniform _ _ _ (fun _ _ k => endWf_done (memWf_requestLease _ _ _ _ k)) h

theorem outWf_execGangRelease (x : UExt) (s : State) (h : memWf s = true) : OutWf (execGangRelease x s) := by
  unfold execGangRelease
  refine outWf_uniform _ _ _ (fun y t k => ?_) h
  dsimp only
  split
  · exact endWf_done k
  · split
    · exact endWf_stay (memWf_pathHold _ _ _ k)
    · exact endWf_done (memWf_spillLease _ _ _ _ k)

theorem outWf_execGangBaton (a : BitVec 6) (x : UExt) (s : State) (h : memWf s = true) : OutWf (execGangBaton a x s) := by
  unfold execGangBaton
  refine outWf_uniform _ _ _ (fun y t k => ?_) h
  dsimp only
  split
  · exact endWf_trap k
  · split
    · exact endWf_trap k
    · exact endWf_done (memWf_tryLatch _ _ (memWf_wakeRetry _ _ _ (memWf_pathBlock _ _ _
        (fun _ k' => blockWf_same k' rfl rfl) k)))

theorem memWf_newCmd (s : State) (p : Path) (major : Nat) (key : SlotKey) (kind : CmdKind) (total : Nat)
    (copy tile : Option Nat) (h : memWf s = true) :
    memWf (newCmd s p major key kind total copy tile).1 = true := by
  unfold newCmd
  dsimp only
  exact h

theorem memWf_issueCopy (s : State) (p : Path) (major : Nat) (key : SlotKey) (kind : CmdKind) (total : Nat)
    (h : memWf s = true) :
    memWf (issueCopy s p major key kind total) = true :=
  memWf_pathGroup_same _ _ _ (fun _ => rfl) (memWf_newCmd _ _ _ _ _ _ _ _ h)

theorem outWf_command (x : UExt) (f : Path → State → Except Trap State) (s : State) (hf : ∀ p t, memWf t = true → OkWf (f p t))
    (h : memWf s = true) : OutWf (command x f s) := by
  unfold command
  refine outWf_uniform _ _ _ (fun p t k => ?_) h
  split
  · exact endWf_trap k
  · next e => exact endWf_done (memWf_ok e (hf p t k))

theorem okWf_issueLin (dst ctl src : DWord) (key : SlotKey) (p : Path) (s : State) (h : memWf s = true) :
    OkWf (issueLin dst ctl src key p s) := by
  unfold issueLin
  dsimp only
  refine okWf_check _ _ _ (okWf_check _ _ _ (okWf_check _ _ _ (okWf_check _ _ _ (okWf_checkFor _ _ (okWf_checkFor _ _
      (okWf_check _ _ _ ?_))))))
  split
  · trivial
  · trivial
  · exact okWf_ok (memWf_issueCopy _ _ _ _ _ _ h)

theorem okWf_issueRect (dst ctl src pitches : DWord) (key : SlotKey) (p : Path) (s : State) (h : memWf s = true) :
    OkWf (issueRect dst ctl src pitches key p s) := by
  unfold issueRect
  dsimp only
  refine okWf_check _ _ _ (okWf_check _ _ _ (okWf_check _ _ _ (okWf_check _ _ _ (okWf_check _ _ _ (okWf_check _ _ _
      (okWf_checkFor _ _ (okWf_checkFor _ _ (okWf_check _ _ _ ?_))))))))
  split
  · trivial
  · trivial
  · exact okWf_ok (memWf_issueCopy _ _ _ _ _ _ h)

theorem okWf_issueTens (dst ctl v : DWord) (key : SlotKey) (p : Path) (s : State) (h : memWf s = true) :
    OkWf (issueTens dst ctl v key p s) := by
  unfold issueTens
  dsimp only
  refine okWf_check _ _ _ (okWf_check _ _ _ (okWf_check _ _ _ (okWf_checkFor _ _ (okWf_check _ _ _ (okWf_check _ _ _ ?_)))))
  split
  · trivial
  · refine okWf_check _ _ _ (okWf_check _ _ _ (okWf_check _ _ _ ?_))
    split
    · trivial
    · exact okWf_check _ _ _ (okWf_ok (memWf_issueCopy _ _ _ _ _ _ h))

theorem okWf_issueGather (wide : Bool) (dst ctl base v : DWord) (key : SlotKey) (p : Path) (s : State) (h : memWf s = true) :
    OkWf (issueGather wide dst ctl base v key p s) := by
  unfold issueGather
  dsimp only
  refine okWf_check _ _ _ (okWf_check _ _ _ (okWf_check _ _ _ (okWf_check _ _ _ (okWf_check _ _ _ (okWf_checkFor _ _
      (okWf_check _ _ _ (okWf_check _ _ _ (okWf_check _ _ _ (okWf_check _ _ _ ?_)))))))))
  split
  · trivial
  · exact okWf_ok (memWf_issueCopy _ _ _ _ _ _ h)

theorem outWf_mdrain (add : Bool) (x : UExt) (desc : BitVec 6) (acc : BitVec 2) (slot : BitVec 4) (level : BitVec 2)
    (s : State) (h : memWf s = true) :
    OutWf (mdrain add x desc acc slot level s) := by
  unfold mdrain
  refine outWf_uniform _ _ _ (fun y t k => ?_) h
  split
  · exact endWf_trap k
  · split
    · exact endWf_stay (memWf_waitLease _ _ k)
    · split
      · exact endWf_stay (memWf_pathHold _ _ _ k)
      · exact endWf_done ((memWf_modCore _ _ _).trans (memWf_pathGroup_same _ _ _ (fun _ => rfl)
          (memWf_newCmd _ _ _ _ _ _ _ _ k)))

theorem okWf_issueColl (fn : Nat) (desc : DWord) (key : SlotKey) (p : Path) (s : State) (h : memWf s = true) :
    OkWf (issueColl fn desc key p s) := by
  unfold issueColl
  extract_lets off bs unit op src dst count dcount t
  clear_value src dst
  exact okWf_check _ _ _ (okWf_check _ _ _ (okWf_check _ _ _ (okWf_check _ _ _ (okWf_check _ _ _ (okWf_check _ _ _
    (okWf_check _ _ _ (okWf_ok (memWf_newCmd _ _ _ _ _ _ _ _ h))))))))

theorem outWf_coll (fn : Nat) (x : UExt) (desc : BitVec 6) (slot : BitVec 4) (level : BitVec 2) (s : State)
    (h : memWf s = true) :
    OutWf (coll fn x desc slot level s) := outWf_command _ _ _ (fun _ _ k => okWf_issueColl _ _ _ _ _ k) h

theorem outWf_execCpyLin (desc : BitVec 6) (addr : BitVec 6) (slot : BitVec 4) (level : BitVec 2) (x : UExt) (s : State)
    (h : memWf s = true) :
    OutWf (execCpyLin desc addr slot level x s) := outWf_command _ _ _ (fun _ _ k => okWf_issueLin _ _ _ _ _ _ k) h

theorem outWf_execCpyRect (desc : BitVec 6) (addr : BitVec 6) (slot : BitVec 4) (level : BitVec 2) (x : UExt) (s : State)
    (h : memWf s = true) :
    OutWf (execCpyRect desc addr slot level x s) :=
  outWf_command _ _ _ (fun _ _ k => okWf_issueRect _ _ _ _ _ _ _ k) h

theorem outWf_execCpyTens (desc : BitVec 6) (addr : BitVec 6) (slot : BitVec 4) (level : BitVec 2) (x : UExt) (s : State)
    (h : memWf s = true) :
    OutWf (execCpyTens desc addr slot level x s) :=
  outWf_command _ _ _ (fun _ _ k => okWf_issueTens _ _ _ _ _ _ k) h

theorem outWf_execGatherIdx32 (desc : BitVec 6) (addr : BitVec 6) (slot : BitVec 4) (level : BitVec 2) (x : UExt)
    (s : State) (h : memWf s = true) :
    OutWf (execGatherIdx32 desc addr slot level x s) :=
  outWf_command _ _ _ (fun _ _ k => okWf_issueGather _ _ _ _ _ _ _ _ k) h

theorem outWf_execGatherIdx64 (desc : BitVec 6) (addr : BitVec 6) (slot : BitVec 4) (level : BitVec 2) (x : UExt)
    (s : State) (h : memWf s = true) :
    OutWf (execGatherIdx64 desc addr slot level x s) :=
  outWf_command _ _ _ (fun _ _ k => okWf_issueGather _ _ _ _ _ _ _ _ k) h

theorem outWf_execCollAllred (desc : BitVec 6) (slot : BitVec 4) (level : BitVec 2) (x : UExt) (s : State)
    (h : memWf s = true) :
    OutWf (execCollAllred desc slot level x s) := outWf_coll _ _ _ _ _ _ h

theorem outWf_execCollRedsc (desc : BitVec 6) (slot : BitVec 4) (level : BitVec 2) (x : UExt) (s : State)
    (h : memWf s = true) :
    OutWf (execCollRedsc desc slot level x s) := outWf_coll _ _ _ _ _ _ h

theorem outWf_execCollAllgat (desc : BitVec 6) (slot : BitVec 4) (level : BitVec 2) (x : UExt) (s : State)
    (h : memWf s = true) :
    OutWf (execCollAllgat desc slot level x s) := outWf_coll _ _ _ _ _ _ h

theorem outWf_execCollBcast (desc : BitVec 6) (slot : BitVec 4) (level : BitVec 2) (x : UExt) (s : State)
    (h : memWf s = true) :
    OutWf (execCollBcast desc slot level x s) := outWf_coll _ _ _ _ _ _ h

theorem outWf_execCollSparse (desc : BitVec 6) (slot : BitVec 4) (level : BitVec 2) (x : UExt) (s : State)
    (h : memWf s = true) :
    OutWf (execCollSparse desc slot level x s) := outWf_coll _ _ _ _ _ _ h

theorem outWf_execCollAlltoall (desc : BitVec 6) (slot : BitVec 4) (level : BitVec 2) (x : UExt) (s : State)
    (h : memWf s = true) :
    OutWf (execCollAlltoall desc slot level x s) := outWf_coll _ _ _ _ _ _ h

theorem outWf_execMdrainSt (desc : BitVec 6) (acc : BitVec 2) (slot : BitVec 4) (level : BitVec 2) (x : UExt) (s : State)
    (h : memWf s = true) :
    OutWf (execMdrainSt desc acc slot level x s) := outWf_mdrain _ _ _ _ _ _ _ h

theorem outWf_execMdrainAdd (desc : BitVec 6) (acc : BitVec 2) (slot : BitVec 4) (level : BitVec 2) (x : UExt) (s : State)
    (h : memWf s = true) :
    OutWf (execMdrainAdd desc acc slot level x s) := outWf_mdrain _ _ _ _ _ _ _ h

end Sys2Proof.Proofs
end

section
/-! PROOF of O59: tasks, budgets and handles. -/

namespace Sys2Proof.Proofs

open Sys2Proof Sys2Proof.Machine Sys2Proof.Laws

theorem memWf_joinFamily (s : State) (p : Path) (d : TaskDesc) (h : memWf s = true) : memWf (joinFamily s p d).1 = true := by
  unfold joinFamily
  split
  · exact h
  · dsimp only
    exact memWf_pathGroup_same _ _ _ (fun _ => rfl) h

theorem outWf_whenQuiet (x : UExt) (f : Path → State → UEnd) (s : State) (hf : ∀ p t, memWf t = true → EndWf (f p t))
    (h : memWf s = true) : OutWf (whenQuiet x f s) := by
  unfold whenQuiet
  refine outWf_uniformConv _ _ _ (fun p t k => ?_) h
  split
  · exact hf _ _ k
  · exact endWf_stay (memWf_pathHold _ _ _ k)

theorem memWf_endPath (s : State) (p : Path) (h : memWf s = true) : memWf (endPath s p) = true :=
  memWf_exitLanes _ _ _ _ h

theorem endWf_closeTrap (s : State) (p : Path) (h : memWf s = true) : EndWf (closeTrap s p) :=
  endWf_trap (memWf_dropFamily _ _ _ h)

theorem memWf_giveLeaf (s : State) (p : Path) (fid idx : Nat) (h : memWf s = true) : memWf (giveLeaf s p fid idx) = true := by
  unfold giveLeaf
  dsimp only
  split
  · exact memWf_closeFamily _ _ _ _ _ h
  · exact memWf_mergeUp _ _ _ (memWf_putLeaf _ _ _ _ h)

theorem memWf_cancelRdv (s : State) (p : Path) (sub : Nat) (h : memWf s = true) : memWf (cancelRdv s p sub) = true :=
  memWf_foldl _ (fun _ _ k => memWf_recheckReconv _ _ _ k) _ _ (memWf_rdvCancel _ _ _ _ h)

theorem memWf_joinRdv (s : State) (p : Path) (kind id : Nat) (h : memWf s = true) : memWf (joinRdv s p kind id) = true :=
  memWf_checkRdv _ _ (memWf_pathHold _ _ _ (memWf_pathBlock _ _ _ (fun _ k => blockWf_same k rfl rfl) h))

theorem outWf_mig (kind : Nat) (id : BitVec 12) (x : UExt) (s : State) (h : memWf s = true) : OutWf (mig kind id x s) := by
  unfold mig
  refine outWf_whenQuiet _ _ _ (fun y t k => ?_) h
  split
  · exact endWf_stay (memWf_cancelRdv _ _ _ k)
  · exact endWf_stay (memWf_joinRdv _ _ _ _ k)

theorem laneWf_filterRegs (l : Lane) (f : Nat × Word → Bool) (h : laneWf l = true) : laneWf { l with regs := l.regs.filter f } = true := by
  simp only [laneWf, Bool.and_eq_true] at h ⊢
  exact ⟨h.1, cwf_filter _ _ _ h.2⟩

theorem optWf_grow (s : State) (core blk grp n : Nat) (h : memWf s = true) : OptWf (grow s core blk grp n) := by
  refine optWf_of fun t ht => ?_
  obtain ⟨g, -, ht⟩ := Option.bind_eq_some_iff.1 ht
  obtain ⟨c, -, rfl⟩ := Option.map_eq_some_iff.1 ht
  refine memWf_modGroup _ _ _ _ (fun k hk => ?_) ((memWf_modCore _ _ _).trans h)
  exact groupWf_mapLanes k _ (fun l hl => laneWf_filterRegs l _ hl) hk

theorem memWf_shrink (s : State) (core blk grp n : Nat) (h : memWf s = true) : memWf (shrink s core blk grp n) = true := by
  unfold shrink
  split
  · exact h
  · extract_lets left t u
    have hu : memWf u = true := by
      refine memWf_modGroup _ _ _ _ (fun k hk => ?_) ((memWf_modCore _ _ _).trans h)
      exact groupWf_mapLanes k _ (fun l hl => laneWf_filterRegs l _ hl) hk
    exact hu

theorem outWf_rega (x : UExt) (f : Path → State → UEnd) (s : State) (hf : ∀ p t, memWf t = true → EndWf (f p t))
    (h : memWf s = true) : OutWf (rega x f s) := by
  unfold rega
  refine outWf_uniformConv _ _ _ (fun p t k => ?_) h
  split
  · exact hf _ _ k
  · exact endWf_stay (memWf_pathHold _ _ _ k)

theorem endWf_takeSlot (s : State) (p : Path) (d : BitVec 6) (o : Obj) (h : memWf s = true) : EndWf (takeSlot s p d o) :=
  endWf_done (memWf_pathGroup_same _ _ _ (fun _ => rfl) (memWf_allocHandle _ _ _ _ h))

theorem outWf_setTile (v : Bool) (a : BitVec 6) (x : UExt) (s : State) (h : memWf s = true) : OutWf (setTile v a x s) := by
  unfold setTile
  refine outWf_uniform _ _ _ (fun y t k => ?_) h
  dsimp only
  split
  · exact endWf_trap k
  · exact endWf_done (memWf_feRetry _ (memWf_setFulls _ _ _ _ (memWf_pathGroup_same _ _ _ (fun _ => rfl) k)))

theorem outWf_execTaskSpawn (a : BitVec 6) (x : UExt) (s : State) (h : memWf s = true) : OutWf (execTaskSpawn a x s) := by
  unfold execTaskSpawn
  refine outWf_uniform _ _ _ (fun y t k => ?_) h
  dsimp only
  split
  · exact endWf_trap k
  · exact endWf_done (memWf_addRec _ _ (memWf_joinFamily _ _ _ k))

theorem outWf_execTaskPhase (a : BitVec 6) (x : UExt) (s : State) (h : memWf s = true) : OutWf (execTaskPhase a x s) := by
  unfold execTaskPhase
  refine outWf_whenQuiet _ _ _ (fun y t k => ?_) h
  dsimp only
  split
  · exact endWf_trap k
  · split
    · exact endWf_closeTrap _ _ k
    · exact endWf_stay (memWf_endPath _ _ (memWf_closeFamily _ _ _ _ _ (memWf_addRec _ _ k)))

theorem outWf_execTaskMerge (x : UExt) (s : State) (h : memWf s = true) : OutWf (execTaskMerge x s) := by
  unfold execTaskMerge
  refine outWf_whenQuiet _ _ _ (fun y t k => ?_) h
  split
  · split
    · exact endWf_closeTrap _ _ k
    · exact endWf_stay (memWf_endPath _ _ (memWf_giveLeaf _ _ _ _ k))
  · exact endWf_trap k

theorem outWf_execMigL (imm : BitVec 12) (x : UExt) (s : State) (h : memWf s = true) : OutWf (execMigL imm x s) :=
  outWf_mig _ _ _ _ h

theorem outWf_execMigD (imm : BitVec 12) (x : UExt) (s : State) (h : memWf s = true) : OutWf (execMigD imm x s) :=
  outWf_mig _ _ _ _ h

theorem outWf_execMigAuto (imm : BitVec 12) (x : UExt) (s : State) (h : memWf s = true) : OutWf (execMigAuto imm x s) :=
  outWf_mig _ _ _ _ h

theorem outWf_execRegaGrowWait (n : BitVec 13) (x : UExt) (s : State) (h : memWf s = true) : OutWf (execRegaGrowWait n x s) := by
  unfold execRegaGrowWait
  refine outWf_rega _ _ _ (fun y t k => ?_) h
  dsimp only
  split
  · exact endWf_done k
  · split
    · exact endWf_trap k
    · split
      · next heq =>
          refine endWf_done (memWf_some heq ?_)
          split
          · exact optWf_grow _ _ _ _ _ k
          · trivial
      · exact endWf_stay (memWf_pathHold _ _ _ ((memWf_modCore _ _ _).trans k))

theorem outWf_execRegaGrowTry (q : BitVec 3) (n : BitVec 13) (x : UExt) (s : State) (h : memWf s = true) :
    OutWf (execRegaGrowTry q n x s) := by
  unfold execRegaGrowTry
  refine outWf_rega _ _ _ (fun y t k => ?_) h
  dsimp only
  split
  · exact endWf_done (memWf_pathGroup _ _ _ (fun _ k' => groupWf_qwr _ _ _ k') k)
  · split
    · exact endWf_done (memWf_pathGroup _ _ _ (fun _ k' => groupWf_qwr _ _ _ k') k)
    · split
      · next heq => exact endWf_done (memWf_pathGroup _ _ _ (fun _ k' => groupWf_qwr _ _ _ k') (memWf_some heq
          (optWf_grow _ _ _ _ _ k)))
      · exact endWf_done (memWf_pathGroup _ _ _ (fun _ k' => groupWf_qwr _ _ _ k') k)

theorem outWf_execRegaShrink (n : BitVec 13) (x : UExt) (s : State) (h : memWf s = true) : OutWf (execRegaShrink n x s) := by
  unfold execRegaShrink
  refine outWf_rega _ _ _ (fun y t k => ?_) h
  split
  · exact endWf_done k
  · split
    · exact endWf_trap k
    · exact endWf_done (memWf_shrink _ _ _ _ _ k)

theorem outWf_execHandleAlloc (d : BitVec 6) (a : BitVec 6) (b : BitVec 6) (x : UExt) (s : State) (h : memWf s = true) :
    OutWf (execHandleAlloc d a b x s) := by
  unfold execHandleAlloc
  refine outWf_uniform _ _ _ (fun y t k => ?_) h
  dsimp only
  split
  · split
    · exact endWf_trap k
    · split
      · exact endWf_takeSlot _ _ _ _ k
      · exact endWf_trap k
  · exact endWf_takeSlot _ _ _ _ k
  · exact endWf_trap k

theorem outWf_execHandleRetire (a : BitVec 6) (x : UExt) (s : State) (h : memWf s = true) : OutWf (execHandleRetire a x s) := by
  unfold execHandleRetire
  refine outWf_uniform _ _ _ (fun y t k => ?_) h
  dsimp only
  split
  · exact endWf_trap k
  · exact endWf_trap k
  · exact endWf_done (memWf_settleFamilies _ (memWf_retireHandle _ _ _ _ k))

theorem outWf_execHandleFill (a : BitVec 6) (x : UExt) (s : State) (h : memWf s = true) : OutWf (execHandleFill a x s) :=
  outWf_setTile _ _ _ _ h

theorem outWf_execHandleClear (a : BitVec 6) (x : UExt) (s : State) (h : memWf s = true) : OutWf (execHandleClear a x s) :=
  outWf_setTile _ _ _ _ h

theorem outWf_execHandleSumm (d : BitVec 6) (a : BitVec 6) (x : UExt) (s : State) (h : memWf s = true) :
    OutWf (execHandleSumm d a x s) := by
  unfold execHandleSumm
  refine outWf_uniform _ _ _ (fun y t k => ?_) h
  dsimp only
  split
  · exact endWf_trap k
  · exact endWf_done (memWf_pathGroup_same _ _ _ (fun _ => rfl) k)

theorem outWf_execHandleShape (d : BitVec 6) (a : BitVec 6) (x : UExt) (s : State) (h : memWf s = true) :
    OutWf (execHandleShape d a x s) := by
  unfold execHandleShape
  refine outWf_uniform _ _ _ (fun y t k => ?_) h
  dsimp only
  split
  · exact endWf_trap k
  · split
    · exact endWf_trap k
    · split
      · exact endWf_trap k
      · exact endWf_takeSlot _ _ _ _ k

end Sys2Proof.Proofs
end

section
/-! PROOF of O59: stops. -/

namespace Sys2Proof.Proofs

open Sys2Proof Sys2Proof.Machine Sys2Proof.Laws

theorem memWf_imagePlace (s : State) (p c core slot : Nat) (v : Version) (h : memWf s = true) :
    memWf (imagePlace s p c core slot v).1 = true := by
  unfold imagePlace
  dsimp only
  split
  · next heq => exact memWf_globalPlace _ _ _ _ _ (memWf_fst heq (memWf_globalPlace _ _ _ _ _ h))
  · exact memWf_globalPlace _ _ _ _ _ h

theorem memWf_writeImage (s : State) (b : Block) (gi : Nat) (pl : Place) (bs : List Byte) (h : memWf s = true) :
    memWf (writeImage s b gi pl bs) = true := by
  unfold writeImage
  split
  · exact h
  · exact memWf_foldl _ (fun _ _ k => memWf_poisonPlace _ _ _ k) _ _ (memWf_coverPlace _ _ _ (memWf_writePlace _ _ _ h))

theorem memWf_cancelFe (s : State) (blk grp : Nat) (h : memWf s = true) : memWf (cancelFe s blk grp) = true :=
  memWf_modGroup _ _ _ _ (fun _ k => groupWf_mapLanes _ _ (fun _ h => by split <;> exact h) k) h

theorem memWf_dropCommands (s : State) (recs : List TrapRec) (h : memWf s = true) : memWf (dropCommands s recs) = true := by
  unfold dropCommands
  refine memWf_foldl _ (fun t x k => ?_) _ _ h
  split
  · exact memWf_publish _ _ (memWf_retireCmd _ _ _ k)
  · exact memWf_publish _ _ k

theorem memWf_dropStop (s : State) (p c slot : Nat) (h : memWf s = true) : memWf (dropStop s p c slot) = true :=
  memWf_modCtx_same _ _ _ _ (fun _ => rfl) h

/-- R387: an operation that keeps the memories, done to a block's image in its place in the resume queue, keeps them. -/
theorem memWf_withParked (s : State) (p blk : Nat) (f : State → State) (hf : ∀ t, memWf t = true → memWf (f t) = true)
    (h : memWf s = true) : memWf (withParked s p blk f) = true := by
  unfold withParked
  extract_lets queue k
  split
  · exact hf _ h
  · next b hb =>
    extract_lets t
    have hq := blockWf_resume (partWf_partOf h p)
    have ht : memWf t = true := by
      refine hf _ (memWf_modPart _ _ _ (fun q hq => ?_) (memWf_addBlock _ _ (hq b (List.mem_of_find?_eq_some hb)) h))
      exact partWf_resume q _ (fun x hx => blockWf_resume hq x (List.mem_of_mem_filter hx)) hq
    split
    · exact ht
    · next c hc =>
      refine memWf_modPart _ _ _ (fun q hq => ?_) (memWf_filterBlocks _ _ ht)
      exact partWf_resume q _ (List.forall_mem_append.2 ⟨fun x hx => blockWf_resume hq x (List.mem_of_mem_take hx),
        List.forall_mem_cons.2 ⟨blockWf_blockOf hc ht, fun x hx => blockWf_resume hq x (List.mem_of_mem_drop hx)⟩⟩) hq

theorem memWf_actThree (s : State) (p c slot : Nat) (h : memWf s = true) : memWf (actThree s p c slot) = true := by
  unfold actThree
  split
  · exact h
  · refine memWf_withParked _ _ _ _ (fun t k => ?_) (memWf_dropStop _ _ _ _ h)
    split
    · exact memWf_killBlock _ _ k
    · exact k

theorem memWf_queueNotice (s : State) (p c core : Nat) (r : TrapRec) (h : memWf s = true) :
    memWf (queueNotice s p c core r) = true := by
  unfold queueNotice
  split
  · exact h
  · dsimp only
    split
    · exact h
    · exact memWf_addRec _ _ h

theorem memWf_queueNotices (s : State) (p c : Nat) (h : memWf s = true) : memWf (queueNotices s p c) = true := by
  unfold queueNotices
  dsimp only
  split
  · exact h
  · exact memWf_foldl _ (fun _ _ k => memWf_queueNotice _ _ _ _ _ k) _ _ (memWf_foldl _
      (fun _ _ k => memWf_queueNotice _ _ _ _ _ (memWf_dropCommands _ _ k)) _ _ (memWf_modCtx_same _ _ _ _ (fun _ => rfl) h))

theorem memWf_settleNotices (s : State) (h : memWf s = true) : memWf (settleNotices s) = true :=
  memWf_foldl _ (fun _ _ k => memWf_queueNotices _ _ _ k) _ _ h

theorem memWf_discardStop (s : State) (blk grp : Nat) (st : Stop) (h : memWf s = true) :
    memWf (discardStop s blk grp st) = true := memWf_modGroup_same _ _ _ _ (fun _ => rfl) (memWf_dropCommands _ _ h)

theorem memWf_writeStop (s : State) (b : Block) (gi : Nat) (st : Stop) (h : memWf s = true) :
    memWf (writeStop s b gi st) = true := by
  unfold writeStop
  extract_lets t gone
  have ht : memWf t = true := memWf_cancelFe _ _ _ h
  have hgone : ∀ u, memWf u = true → memWf (gone u) = true := fun u k => memWf_killBlock _ _ (memWf_discardStop _ _ _ _ k)
  split
  · exact ht
  · next slot _ =>
    split
    · exact hgone _ ht
    · next v _ =>
      extract_lets va hr
      have hi := memWf_imagePlace t b.part b.ctx b.core slot v ht
      split
      · exact hgone _ ht
      · generalize imagePlace t b.part b.ctx b.core slot v = r at hi ⊢
        generalize groupOf t b.id gi = g
        obtain ⟨u, e | pl⟩ := r
        · cases e with
          | trap => exact hgone _ hi
          | foreign a => exact memWf_isolate _ _ _ _ hi
          | wait => exact hi
        · cases g with
          | none => exact hgone _ hi
          | some g =>
            exact memWf_foldl _ (fun _ _ k => memWf_addRec _ _ k) _ _ (memWf_modCtx_same _ _ _ _ (fun _ => rfl)
              (memWf_modGroup_same _ _ _ _ (fun _ => rfl) (memWf_writeImage _ _ _ _ _ (memWf_dropCommands _ _ hi))))

theorem memWf_deliverStop (s : State) (blk grp : Nat) (h : memWf s = true) : memWf (deliverStop s blk grp) = true := by
  unfold deliverStop
  split
  · split
    · split
      · exact h
      · split
        · exact memWf_actThree _ _ _ _ (memWf_killBlock _ _ (memWf_discardStop _ _ _ _ h))
        · exact memWf_killBlock _ _ (memWf_discardStop _ _ _ _ h)
        · exact memWf_writeStop _ _ _ _ h
    · exact h
  · exact h

theorem memWf_uncontained (s : State) (p c : Nat) (unit : Nat × Nat) (pa : DWord) (h : memWf s = true) :
    memWf (uncontained s p c unit pa) = true := memWf_killLogged _ _ _ _ _ _ (memWf_logPart _ _ _ _ _ _ _ _ h)

theorem memWf_healRegs (s : State) (blk grp nl : Nat) (h : memWf s = true) : memWf (healRegs s blk grp nl) = true :=
  h

theorem memWf_forgetHolds (s : State) (blk grp : Nat) (h : memWf s = true) : memWf (forgetHolds s blk grp) = true := by
  unfold forgetHolds
  split
  · exact (memWf_modCore _ _ _).trans (memWf_modBlock _ _ _ (fun _ k => blockWf_same k rfl rfl) h)
  · exact h

theorem laneWf_rewait (s : State) (l : Lane) (h : laneWf l = true) : laneWf (l.rewait s) = true := by
  unfold Lane.rewait
  split
  · split <;> exact h
  · exact h
  · exact h
  · exact h

theorem laneWf_reloadLane (s : State) (b : Block) (q : StopSlot) (pl : Place) (nl i : Nat) (stays : Bool) (l : Lane)
    (h : laneWf l = true) : laneWf (reloadLane s b q pl nl i stays l) = true := by
  unfold reloadLane
  split
  · exact h
  · extract_lets at' noff m
    have hm : laneWf m = true := by
      simp only [laneWf, Bool.and_eq_true] at h ⊢
      exact ⟨h.1, cwf_pairs _ _ _ List.pairwise_lt_range⟩
    split
    · exact laneWf_rewait _ _ hm
    · exact hm

theorem laneWf_applyRec (s : State) (b : Block) (l : Lane) (r : TrapRec) (h : laneWf l = true) : laneWf (applyRec s b l r) = true := by
  unfold applyRec
  dsimp only
  split
  · split <;> exact h
  · exact h

theorem laneWf_setOnce (s : State) (b : Block) (q : StopSlot) (old : Group) (r : TrapRec) (i : Nat) (l : Lane) (h : laneWf l = true) :
    laneWf (setOnce s b q old r i l) = true := by
  unfold setOnce
  split
  · exact h
  · split <;> exact h

theorem laneWf_foldl {β : Type} (f : Lane → β → Lane) (hf : ∀ l x, laneWf l = true → laneWf (f l x) = true) (xs : List β) (l : Lane)
    (h : laneWf l = true) : laneWf (xs.foldl f l) = true := by
  induction xs generalizing l with
  | nil => exact h
  | cons x xs ih => exact ih _ (hf _ _ h)

theorem groupWf_leftRecs (more : Option (List TrapRec)) (ends : List Nat) (g : Group) (h : groupWf g = true) :
    groupWf (leftRecs more ends g) = true := by
  unfold leftRecs
  dsimp only
  split <;> exact h

theorem memWf_resume (s : State) (b : Block) (q : StopSlot) (pl : Place) (h : memWf s = true) : memWf (resume s b q pl) = true := by
  unfold resume
  split
  · exact h
  · next old _ =>
    extract_lets nl at' one mode lane ends t u wrong v
    have hone : ∀ i l, laneWf l = true → laneWf (one i l) = true := fun i l hl => by
      have hr := laneWf_foldl (applyRec s b) (laneWf_applyRec s b) (q.recs.filter fun r => r.lane = i) _
        (laneWf_reloadLane s b q pl nl i ((q.recs.filter fun r => r.lane = i).any fun r => (wrongPc s b r).isSome) l hl)
      unfold one
      dsimp only
      split
      · exact laneWf_foldl _ (fun l r hl => laneWf_setOnce s b q old r i l hl) _ _ hr
      · exact hr
    have ht : memWf t = true := by
      refine memWf_modGroup _ _ _ _ (fun g hg => ?_) h
      exact groupWf_leftRecs _ _ _ (groupWf_same (groupWf_mapIdx g one hone hg) rfl)
    have hv : memWf v = true := memWf_trapLanes _ _ _ _ _ (memWf_healRegs _ _ _ _ (memWf_forgetHolds _ _ _ ht))
    split
    · exact memWf_checkRound _ _ hv
    · exact memWf_exitBy _ _ _ _ hv

theorem memWf_leaveStop (s : State) (p c : Nat) (q : StopSlot) (h : memWf s = true) : memWf (leaveStop s p c q) = true := by
  unfold leaveStop
  split
  · dsimp only
    split
    · exact h
    · split
      · exact memWf_killBlock _ _ h
      · split
        · exact memWf_killGroup _ _ _ h
        · split
          · exact memWf_killBlock _ _ h
          · split
            · split
              · split
                · next heq3 _ => exact memWf_uncontained _ _ _ _ _ (memWf_fst heq3 (memWf_imagePlace _ _ _ _ _ _ h))
                · next heq3 _ _ _ => exact memWf_uncontained _ _ _ _ _ (memWf_fst heq3 (memWf_imagePlace _ _ _ _ _ _ h))
              · next heq3 _ => exact memWf_resume _ _ _ _ (memWf_fst heq3 (memWf_imagePlace _ _ _ _ _ _ h))
            · next heq3 => exact memWf_isolate _ _ _ _ (memWf_fst heq3 (memWf_imagePlace _ _ _ _ _ _ h))
            · next heq3 => exact memWf_killBlock _ _ (memWf_fst heq3 (memWf_imagePlace _ _ _ _ _ _ h))
  · exact h

theorem memWf_finishStop (s : State) (p c slot : Nat) (h : memWf s = true) : memWf (finishStop s p c slot) = true := by
  unfold finishStop
  split
  · exact h
  · split
    · exact memWf_withParked _ _ _ _ (fun _ k => memWf_leaveStop _ _ _ _ k) (memWf_dropStop _ _ _ _ h)
    · exact h

theorem memWf_returnRec (s : State) (p c slot k : Nat) (h : memWf s = true) : memWf (returnRec s p c slot k) = true :=
  memWf_modCtx_same _ _ _ _ (fun _ => rfl) h

theorem outWf_execUsysRti (x : UExt) (s : State) (h : memWf s = true) : OutWf (execUsysRti x s) := by
  unfold execUsysRti
  refine outWf_uniform _ _ _ (fun y t k => endWf_privileged _ _ _ ?_ k) h
  split
  · split
    · exact endWf_closeTrap _ _ k
    · exact endWf_stay (memWf_finishStop _ _ _ _ (memWf_returnRec _ _ _ _ _ (memWf_killGroup _ _ _ k)))
  · split
    · exact endWf_closeTrap _ _ k
    · exact endWf_stay (memWf_killGroup _ _ _ k)
  · exact endWf_stay (memWf_exitPath _ _ _ k)

theorem outWf_execStopImageWrite (blk : Nat) (grp : Nat) (s : State) (h : memWf s = true) :
    OutWf (execStopImageWrite blk grp s) := outWf_next (memWf_deliverStop _ _ _ h)

end Sys2Proof.Proofs
end

section
/-! PROOF of O59: system registers, counters and the batch-forming queue. -/

namespace Sys2Proof.Proofs

open Sys2Proof Sys2Proof.Machine Sys2Proof.Laws

theorem memWf_modServed (s : State) (b : Block) (f : TrapRec → TrapRec) (h : memWf s = true) : memWf (modServed s b f) = true := by
  unfold modServed
  split
  · exact memWf_modCtx_same _ _ _ _ (fun _ => rfl) h
  · exact memWf_modBlock _ _ _ (fun _ k => blockWf_same k rfl rfl) h
  · exact h

theorem saved_writeSys (c : Ctx) (n : Nat) (v : DWord) : (c.writeSys n v).saved = c.saved := by
  unfold Ctx.writeSys
  split
  iterate 8 rfl
  split
  · rfl
  · split <;> rfl

theorem memWf_writeSys (s : State) (p : Path) (n : Nat) (v : DWord) (h : memWf s = true) : memWf (writeSys s p n v) = true := by
  unfold writeSys
  split
  iterate 3 exact memWf_pathGroup_same _ _ _ (fun _ => rfl) h
  split
  · exact memWf_modServed _ _ _ h
  · exact memWf_modCtx_same _ _ _ _ (fun _ => saved_writeSys _ _ _) h

theorem memWf_putRecord (s : State) (p c : Nat) (r : RingRec) (h : memWf s = true) : memWf (putRecord s p c r) = true := by
  unfold putRecord
  dsimp only
  split
  · exact memWf_bumpCounter _ _ _ _ _ h
  · split
    · exact memWf_bumpCounter _ _ _ _ _ h
    · split
      · exact memWf_bumpCounter _ _ _ _ _ h
      · exact memWf_engineLocal _ _ _ _ (memWf_modCtx_same _ _ _ _ (fun _ => rfl) h)

theorem endWf_startSampling (s : State) (p : Path) (i desc : Nat) (h : memWf s = true) : EndWf (startSampling s p i desc) := by
  unfold startSampling
  dsimp only
  split
  · exact endWf_trap h
  · split
    · exact endWf_trap h
    · split
      · exact endWf_trap h
      · exact endWf_done (memWf_modCtx_same _ _ _ _ (fun _ => rfl) h)

theorem outWf_execSysr (d : BitVec 6) (num : BitVec 12) (x : UExt) (s : State) (h : memWf s = true) :
    OutWf (execSysr d num x s) := by
  unfold execSysr
  refine outWf_uniform _ _ _ (fun y t k => ?_) h
  dsimp only
  split
  · exact endWf_trap k
  · split
    · exact endWf_trap k
    · exact endWf_done (memWf_pathGroup_same _ _ _ (fun _ => rfl) k)

theorem outWf_execSysw (a : BitVec 6) (num : BitVec 12) (x : UExt) (s : State) (h : memWf s = true) :
    OutWf (execSysw a num x s) := by
  unfold execSysw
  refine outWf_uniform _ _ _ (fun y t k => ?_) h
  dsimp only
  split
  · exact endWf_trap k
  · split
    · exact endWf_trap k
    · split
      · exact endWf_trap k
      · exact endWf_done (memWf_writeSys _ _ _ _ k)

theorem outWf_execPerfRd (d : BitVec 6) (a : BitVec 6) (x : UExt) (s : State) (h : memWf s = true) :
    OutWf (execPerfRd d a x s) :=
  outWf_uniform _ _ _ (fun _ _ k => endWf_done (memWf_pathGroup_same _ _ _ (fun _ => rfl) k)) h

theorem outWf_execPerfSel (a : BitVec 6) (b : BitVec 6) (x : UExt) (s : State) (h : memWf s = true) :
    OutWf (execPerfSel a b x s) := by
  unfold execPerfSel
  refine outWf_uniform _ _ _ (fun y t k => ?_) h
  dsimp only
  split
  · exact endWf_trap k
  · exact endWf_done (memWf_modCtx_same _ _ _ _ (fun _ => rfl) k)

theorem outWf_execPerfMark (a : BitVec 6) (x : UExt) (s : State) (h : memWf s = true) : OutWf (execPerfMark a x s) :=
  outWf_uniform _ _ _ (fun _ _ k => endWf_done (memWf_putRecord _ _ _ _ k)) h

theorem outWf_execPerfSample (a : BitVec 6) (x : UExt) (s : State) (h : memWf s = true) : OutWf (execPerfSample a x s) := by
  unfold execPerfSample
  refine outWf_uniform _ _ _ (fun y t k => ?_) h
  dsimp only
  split
  · exact endWf_done (memWf_modCtx_same _ _ _ _ (fun _ => rfl) k)
  · exact endWf_startSampling _ _ _ _ k

/-- R376: a change of a block wherever it is, resident or in an image, keeps the memories when it keeps the block's. -/
theorem memWf_modAnyBlock (s : State) (p blk : Nat) (f : Block → Block) (hf : ∀ b, blockWf b = true → blockWf (f b) = true)
    (h : memWf s = true) : memWf (modAnyBlock s p blk f) = true := by
  unfold modAnyBlock
  extract_lets one
  have hone : ∀ b, blockWf b = true → blockWf (one b) = true := fun b hb => by
    unfold one
    split
    · exact hf b hb
    · exact hb
  exact memWf_modPart _ _ _ (fun q hq => partWf_map q one (fun v => v.modBlock one) hone
    (fun v hv => savedWf_mapBlocks v one one hone hone hv) hq) (memWf_mapBlocks s one hone h)

theorem memWf_reportFault (s : State) (p c blk grp core major : Nat) (pc : DWord) (cmd : Nat) (t : Trap) (h : memWf s = true) :
    memWf (reportFault s p c blk grp core major pc cmd t) = true := by
  unfold reportFault
  extract_lets u notice
  have hn : memWf notice = true := memWf_modCtx_same _ _ _ _ (fun _ => rfl) h
  split
  · exact hn
  · extract_lets live
    split
    · exact hn
    · split
      · exact memWf_modAnyBlock _ _ _ _ (fun b hb => blockWf_modGroup b _ _ (fun _ hg => hg) hb) h
      · exact hn

theorem memWf_modBfq (s : State) (unit : Nat) (f : Bfq → Bfq) (h : memWf s = true) : memWf (modBfq s unit f) = true := by
  unfold modBfq
  split <;> exact h

theorem memWf_copyRun (s : State) (c : Cmd) (o n : Nat) (h : memWf s = true) : memWf (copyRun s c o n).1 = true := by
  induction n generalizing s o with
  | zero => exact h
  | succ n ih =>
    have hp := memWf_putPiece s c o h
    unfold copyRun
    split
    · next e => exact memWf_fst e hp
    · next e => exact ih _ _ (memWf_fst e hp)

theorem memWf_rowFault (s : State) (unit cmd : Nat) (r : BfqRow) (e : NoAccess) (h : memWf s = true) :
    memWf (rowFault s unit cmd r e) = true := by
  cases e with
  | trap t => exact memWf_reportFault _ _ _ _ _ _ _ _ _ _ h
  | foreign t => exact memWf_isolateEngine _ _ _ _ h
  | wait => exact h

theorem memWf_setStaging (s : State) (q : Bfq) (h : Word) (v : Bool) (hs : memWf s = true) :
    memWf (setStaging s q h v) = true := by
  unfold setStaging
  split
  · exact memWf_setFulls _ _ _ _ hs
  · exact hs

theorem memWf_rereadRow (q : Bfq) (p : BfqPair) (s : State) (e : Nat × BfqRow) (h : memWf s = true) :
    memWf (rereadRow q p s e) = true := by
  unfold rereadRow
  refine memWf_foldl _ (fun t x k => ?_) _ _ h
  dsimp only
  split
  · next heq1 => exact memWf_engineWrite _ _ _ _ _ (memWf_fst heq1 (memWf_readPiece _ _ _ k))
  · exact k

theorem memWf_closeBatch (s : State) (unit : Nat) (h : memWf s = true) : memWf (closeBatch s unit) = true := by
  unfold closeBatch
  split
  · exact h
  · split
    · split
      · exact h
      · exact memWf_feRetry _ (memWf_addRec _ _ (memWf_setStaging _ _ _ _ (memWf_foldl _
          (fun _ _ k => memWf_rereadRow _ _ _ _ k) _ _ (memWf_modBfq _ _ _ (memWf_countEvent _ _ _ _ _ h)))))
    · exact h

theorem memWf_admitRow (s : State) (unit : Nat) (r : BfqRow) (h : memWf s = true) : memWf (admitRow s unit r).1 = true := by
  unfold admitRow
  split
  · exact h
  · split
    · exact h
    · next heq1 =>
        dsimp only
        exact memWf_rowFault _ _ _ _ _ (memWf_fst heq1 (memWf_copyRun _ _ _ _ h))
    · dsimp only
      split
      · next heq1 _ => exact memWf_closeBatch _ _ (memWf_modBfq _ _ _ (memWf_countDie _ _ _ _ _ _ (memWf_fst heq1
          (memWf_copyRun _ _ _ _ h))))
      · next heq1 _ => exact memWf_modBfq _ _ _ (memWf_countDie _ _ _ _ _ _ (memWf_fst heq1 (memWf_copyRun _ _ _ _ h)))

theorem memWf_admitHeld (unit : Nat) (s : State) (r : BfqRow) (h : memWf s = true) : memWf (admitHeld unit s r) = true := by
  unfold admitHeld
  split
  · exact h
  · split
    · exact h
    · split
      · next heq1 => exact memWf_fst heq1 (memWf_admitRow _ _ _ h)
      · next heq1 => exact memWf_modBfq _ _ _ (memWf_fst heq1 (memWf_admitRow _ _ _ h))

theorem memWf_releaseBfq (s : State) (unit : Nat) (q : Bfq) (h : memWf s = true) : memWf (releaseBfq s unit q) = true := by
  unfold releaseBfq
  dsimp only
  refine memWf_mapLanes _ _ (fun x y z w k => ?_) (memWf_wakeRetry _ _ _ (memWf_settleFamilies _ (memWf_foldl _
      (fun _ _ k => memWf_retireHandle _ _ _ _ k) _ _ h)))
  split
  · split
    · exact laneWf_same k rfl rfl
    · exact k
  · exact k

theorem memWf_pressRelease (s : State) (unit : Nat) (h : memWf s = true) : memWf (pressRelease s unit) = true := by
  unfold pressRelease
  dsimp only
  split
  · split
    · exact memWf_releaseBfq _ _ _ (memWf_closeBatch _ _ h)
    · exact memWf_closeBatch _ _ h
  · exact memWf_closeBatch _ _ h

theorem memWf_beginRelease (s : State) (unit : Nat) (h : memWf s = true) : memWf (beginRelease s unit) = true :=
  memWf_pressRelease _ _ (memWf_modBfq _ _ _ h)

theorem memWf_retryHeld (s : State) (unit : Nat) (h : memWf s = true) : memWf (retryHeld s unit) = true := by
  unfold retryHeld
  split
  · exact h
  · dsimp only
    split
    · exact memWf_pressRelease _ _ (memWf_foldl _ (fun _ _ k => memWf_admitHeld _ _ _ k) _ _ h)
    · exact memWf_foldl _ (fun _ _ k => memWf_admitHeld _ _ _ k) _ _ h

theorem memWf_writeRow (unit : Nat) (q : Bfq) (p : BfqPair) (s : State) (e : Nat × BfqRow) (h : memWf s = true) :
    memWf (writeRow unit q p s e) = true := by
  unfold writeRow
  split
  · exact h
  · dsimp only
    split
    · next heq => exact memWf_countDie _ _ _ _ _ _ (memWf_addBytes _ _ _ _ (memWf_fst heq (memWf_copyRun _ _ _ _ h)))
    · next heq => exact memWf_rowFault _ _ _ _ _ (memWf_fst heq (memWf_copyRun _ _ _ _ h))

theorem memWf_writeBack (s : State) (unit : Nat) (h : memWf s = true) : memWf (writeBack s unit) = true := by
  unfold writeBack
  split
  · exact h
  · split
    · exact h
    · split
      · exact h
      · exact memWf_retryHeld _ _ (memWf_wakeRetry _ _ _ (memWf_feRetry _ (memWf_modBfq _ _ _ (memWf_setStaging _ _ _ _
          (memWf_setStaging _ _ _ _ (memWf_foldl _ (fun _ _ k => memWf_writeRow _ _ _ _ _ k) _ _ h))))))

theorem memWf_takeStaging (s : State) (p c : Nat) (ts : List (Nat × Nat)) (h : memWf s = true) :
    memWf (takeStaging s p c ts).1 = true := by
  induction ts generalizing s with
  | nil => exact h
  | cons t ts ih => exact ih _ (memWf_allocHandle _ _ _ _ h)

theorem memWf_bindBfq (s : State) (p : Path) (unit : Nat) (weight : Word) (entry ra rb : Nat) (places : List (Nat × Nat))
    (h : memWf s = true) :
    memWf (bindBfq s p unit weight entry ra rb places) = true :=
  memWf_foldl _ (fun _ _ k => memWf_setStaging _ _ _ _ k) _ _ (memWf_takeStaging _ _ _ _ h)

theorem endWf_offerRow (s : State) (p : Path) (unit : Nat) (q : Bfq) (r : BfqRow) (h : memWf s = true) :
    EndWf (offerRow s p unit q r) := by
  unfold offerRow
  split
  · exact endWf_done (memWf_modBfq _ _ _ h)
  · split
    · exact endWf_stay (memWf_pathHold _ _ _ h)
    · split
      · exact endWf_stay (memWf_pathHold _ _ _ h)
      · next heq => exact endWf_stay (memWf_fst heq (memWf_admitRow _ _ _ (memWf_pathTo _ _ _ h)))

theorem outWf_execBfqBind (desc : BitVec 6) (addr : BitVec 6) (x : UExt) (s : State) (h : memWf s = true) :
    OutWf (execBfqBind desc addr x s) := by
  unfold execBfqBind
  refine outWf_uniform _ _ _ (fun y t k => ?_) h
  dsimp only
  split
  · exact endWf_trap k
  · split
    · exact endWf_trap k
    · split
      · exact endWf_trap k
      · split
        · exact endWf_trap k
        · split
          · exact endWf_trap k
          · exact endWf_done (memWf_bindBfq _ _ _ _ _ _ _ _ k)

theorem outWf_execBfqJoin (desc : BitVec 6) (addr : BitVec 6) (slot : BitVec 4) (level : BitVec 2) (x : UExt) (s : State)
    (h : memWf s = true) :
    OutWf (execBfqJoin desc addr slot level x s) := by
  unfold execBfqJoin
  refine outWf_uniform _ _ _ (fun y t k => ?_) h
  dsimp only
  split
  · exact endWf_trap k
  · split
    · exact endWf_trap k
    · split
      · exact endWf_trap k
      · split
        · exact endWf_trap k
        · split
          · exact endWf_trap k
          · split
            · exact endWf_trap k
            · split
              · exact endWf_stay (memWf_pathHold _ _ _ k)
              · exact endWf_offerRow _ _ _ _ _ k

theorem outWf_execBfqUnbind (a : BitVec 6) (x : UExt) (s : State) (h : memWf s = true) : OutWf (execBfqUnbind a x s) := by
  unfold execBfqUnbind
  refine outWf_uniform _ _ _ (fun y t k => ?_) h
  split
  · exact endWf_trap k
  · split
    · exact endWf_trap k
    · exact endWf_stay (memWf_beginRelease _ _ (memWf_pathHold _ _ _ k))

theorem outWf_execBfqWaitExpiry (unit : Nat) (s : State) (h : memWf s = true) : OutWf (execBfqWaitExpiry unit s) := by
  unfold execBfqWaitExpiry
  split
  · dsimp only
    refine outWf_next ?_
    split
    · exact memWf_closeBatch _ _ h
    · exact h
  · exact outWf_next h

theorem outWf_execBfqWriteback (unit : Nat) (s : State) (h : memWf s = true) : OutWf (execBfqWriteback unit s) :=
  outWf_next (memWf_writeBack _ _ h)

theorem outWf_execBfqAutoUnbind (unit : Nat) (s : State) (h : memWf s = true) : OutWf (execBfqAutoUnbind unit s) := by
  unfold execBfqAutoUnbind
  split
  · refine outWf_next ?_
    split
    · exact memWf_beginRelease _ _ h
    · exact h
  · exact outWf_next h

end Sys2Proof.Proofs
end

section
/-! PROOF of O59: placement. -/

namespace Sys2Proof.Proofs

open Sys2Proof Sys2Proof.Machine Sys2Proof.Laws

theorem memWf_keepRecord (s : State) (b : Block) (bs : List Byte) (h : memWf s = true) : memWf (keepRecord s b bs) = true :=
  h

theorem groupWf_lanes {g : Group} (h : ∀ l ∈ g.lanes, laneWf l = true) : groupWf g = true := List.all_eq_true.2 h

theorem laneWf_newLane (live : Bool) (tid : Nat) (pc : DWord) : laneWf (newLane live tid pc) = true := by
  unfold newLane
  split <;> rfl

theorem groupWf_newGroup (threads budget : Nat) (pc : DWord) (g : Nat) : groupWf (newGroup threads budget pc g) = true :=
  groupWf_lanes (List.forall_mem_map.2 fun _ _ => laneWf_newLane _ _ _)

theorem groupWf_newMasked (live : BitVec 32) (budget : Nat) (pc : DWord) : groupWf (newMasked live budget pc) = true :=
  groupWf_lanes (List.forall_mem_map.2 fun _ _ => laneWf_newLane _ _ _)

theorem groupWf_seatGroups (s : State) (core : Nat) (gs : List Group) (h : ∀ g ∈ gs, groupWf g = true) :
    ∀ g ∈ seatGroups s core gs, groupWf g = true := by
  intro g hg
  obtain ⟨i, hi, rfl⟩ := List.mem_mapIdx.1 hg
  exact groupWf_same (h _ (List.getElem_mem hi)) rfl

theorem groupWf_seatLive (s : State) (core : Nat) (gs : List Group) (h : ∀ g ∈ gs, groupWf g = true) :
    ∀ g ∈ seatLive s core gs, groupWf g = true := by
  intro g hg
  obtain ⟨i, hi, rfl⟩ := List.mem_mapIdx.1 hg
  have hgi := h _ (List.getElem_mem hi)
  split
  · exact hgi
  · rw [List.getD_eq_getElem?_getD]
    cases e : (seatGroups s core (gs.filter fun g => !g.ended))[((gs.take i).filter fun g => !g.ended).length]? with
    | none => exact hgi
    | some k => exact groupWf_seatGroups s core _ (fun x hx => h x (List.mem_of_mem_filter hx)) k (List.mem_of_getElem? e)

theorem groupWf_nodeGroups (v : Version) (k : Kernel) (e : Entry) (lbody : Bool) : ∀ g ∈ nodeGroups v k e lbody, groupWf g = true :=
  List.forall_mem_map.2 fun _ _ => groupWf_newGroup _ _ _ _

theorem blockWf_intro {b : Block} (hs : Memory.wf b.scratch = true) (hg : ∀ g ∈ b.groups, groupWf g = true) : blockWf b = true := by
  simp only [blockWf, Bool.and_eq_true, List.all_eq_true]
  exact ⟨hs, hg⟩

theorem blockWf_scratch {b : Block} (h : blockWf b = true) : Memory.wf b.scratch = true := by
  simp only [blockWf, Bool.and_eq_true] at h
  exact h.1

theorem blockWf_groups {b : Block} (h : blockWf b = true) : ∀ g ∈ b.groups, groupWf g = true := by
  simp only [blockWf, Bool.and_eq_true, List.all_eq_true] at h
  exact h.2

theorem memWf_addCluster (s : State) (c : Cluster) (hc : Memory.wf c.mem = true) (h : memWf s = true) :
    memWf { s with clusters := s.clusters ++ [c] } = true := by
  have w := (memWf_iff s).1 h
  exact (memWf_iff _).2 { w with clusters := List.forall_mem_append.2 ⟨w.clusters, List.forall_mem_singleton.2 hc⟩ }

/-- What may come out of two steps of which the second needs what the first gives. -/
theorem optWf_bind {α : Type} (o : Option α) (f : α → Option State) (hf : ∀ a, o = some a → OptWf (f a)) : OptWf (o.bind f) := by
  cases o with
  | none => trivial
  | some a => exact hf a rfl

theorem optWf_map {α : Type} (o : Option α) (f : α → State) (hf : ∀ a, o = some a → memWf (f a) = true) : OptWf (o.map f) := by
  cases o with
  | none => trivial
  | some a => exact hf a rfl

theorem optWf_findSome {α : Type} (f : α → Option State) (hf : ∀ a, OptWf (f a)) (xs : List α) : OptWf (xs.findSome? f) := by
  refine optWf_of fun t e => ?_
  obtain ⟨a, -, ha⟩ := List.exists_of_findSome?_eq_some e
  exact memWf_some ha (hf a)

theorem optWf_placeNodeBlock (n : NodeBlock) (const : Nat) (s : State) (j : Nat) (h : memWf s = true) :
    OptWf (placeNodeBlock n const s j) :=
  optWf_bind _ _ fun _ _ => optWf_map _ _ fun _ _ =>
    memWf_addBlock s _ (blockWf_intro rfl (groupWf_seatGroups _ _ _ (groupWf_nodeGroups _ _ _ _))) h

theorem optWf_placeBlocks (n : NodeBlock) (const : Nat) (s : State) (j m : Nat) (h : memWf s = true) :
    OptWf (placeBlocks n const s j m) := by
  induction m generalizing s j with
  | zero => exact h
  | succ m ih => exact optWf_bind _ _ fun t e => ih t _ (memWf_some e (optWf_placeNodeBlock n const s j h))

theorem optWf_placeCluster (n : NodeBlock) (const : Nat) (s : State) (h : memWf s = true) : OptWf (placeCluster n const s) :=
  optWf_bind _ _ fun _ _ => optWf_placeBlocks _ _ _ _ _ (memWf_addCluster s _ rfl h)

theorem memWf_modLaunch (s : State) (p idx : Nat) (f : Launch → Launch) (h : memWf s = true) :
    memWf (modLaunch s p idx f) = true := memWf_modPart_same _ _ _ (fun _ => rfl) (fun _ => rfl) h

theorem optWf_tryCluster (s : State) (p : Nat) (l : Launch) (node : Nat) (h : memWf s = true) : OptWf (tryCluster s p l node) :=
  optWf_bind _ _ fun _ _ => optWf_map _ _ fun _ e =>
    memWf_modLaunch _ _ _ _ (memWf_some e (optWf_findSome _ (fun c => optWf_placeCluster _ c s h) _))

theorem memWf_giveViews (s : State) (r : TaskRec) (blk : Nat) (vs : List (Word × Nat)) (offs ns : List Nat) (h : memWf s = true) :
    memWf (giveViews s r blk vs offs ns).1 = true := by
  induction vs generalizing s offs ns with
  | nil => exact h
  | cons v vs ih =>
    cases offs with
    | nil => exact h
    | cons off offs =>
      cases ns with
      | nil => exact h
      | cons n ns => exact ih _ _ _ (memWf_allocHandle _ _ _ _ h)

theorem laneWf_recLane (r : TaskRec) (i : Nat) (l : Lane) (h : laneWf l = true) : laneWf (recLane r i l) = true := by
  unfold recLane
  split
  · simp only [laneWf, Bool.and_eq_true] at h ⊢
    exact ⟨h.1, cwf_pairs _ _ _ List.pairwise_lt_range⟩
  · exact h

theorem wf_blankViews (views : List View) : Memory.wf (blankViews views) = true :=
  wf_foldl _ (fun _ _ h => wf_mputs _ _ _ h) _ _ rfl

/-- The record's group, with what its carry slots load, has canonical memories. -/
theorem groupWf_recGroup (r : TaskRec) (g : Group) (u : Cells DWord) (h : groupWf g = true) :
    groupWf { g with lanes := g.lanes.mapIdx (recLane r), ureg := u } = true :=
  groupWf_same (groupWf_mapIdx g _ (fun i l => laneWf_recLane r i l) h) rfl

theorem optWf_placeRec (s : State) (r : TaskRec) (core : Nat) (h : memWf s = true) : OptWf (placeRec s r core) := by
  unfold placeRec
  split
  · trivial
  next v _ =>
    refine optWf_bind _ _ fun e _ => optWf_bind _ _ fun k _ => ?_
    extract_lets lbody lay id q g g2 b gr
    split
    · trivial
    · refine optWf_bind _ _ fun c _ => optWf_bind _ _ fun base _ => ?_
      extract_lets cl t
      split
      · trivial
      · have hq : memWf q.1 = true := memWf_giveViews s r id _ _ _ h
        have hg : groupWf g2 = true := groupWf_recGroup r g _ (groupWf_newMasked _ _ _)
        have hb : blockWf b = true :=
          blockWf_intro (wf_blankViews _) (groupWf_seatGroups _ _ _ (List.forall_mem_singleton.2 hg))
        exact memWf_addCluster { t with blocks := t.blocks ++ [b] } cl rfl (memWf_addBlock t b hb hq)

theorem memWf_relocate (s : State) (b b' : Block) (core : Nat) (c' : Core) (base : Nat) (hb : blockWf b' = true) (h : memWf s = true) :
    memWf (relocate s b b' core c' base) = true := by
  unfold relocate
  extract_lets c held wants grows src lease s1 s2 groups s3 s4
  have h1 : memWf s1 = true := by
    unfold s1
    split <;> exact h
  have hs : Memory.wf b'.scratch = true := blockWf_scratch hb
  have hg : ∀ g ∈ groups, groupWf g = true := groupWf_seatLive _ _ _ (blockWf_groups hb)
  have h3 : memWf s3 = true := memWf_modBlock s2 b.id _ (fun k _ => blockWf_intro hs hg) h1
  exact memWf_modCluster s4 _ _ (fun k hk => by split <;> exact hk) h3

theorem memWf_migratePoison (s : State) (blk : Nat) (e : Eqp) (fromL : Bool) (h : memWf s = true) :
    memWf (migratePoison s blk e fromL) = true := h

theorem cwf_foldl_cput {α β : Type} [DecidableEq α] (z : α) (f : β → Nat) (g : β → α) (xs : List β) (m : Cells α) (h : cwf z m = true) :
    cwf z (xs.foldl (fun m x => cput z m (f x) (g x)) m) = true := by
  induction xs generalizing m with
  | nil => exact h
  | cons x xs ih => exact ih _ (cwf_cput _ _ _ _ h)

theorem cwf_carryRegs {α : Type} [DecidableEq α] (z : α) (ps : List (Nat × Nat)) (rs : Cells α) : cwf z (carryRegs z ps rs) = true :=
  cwf_foldl_cput z Prod.snd (fun p => cget z rs p.1) ps [] rfl

theorem laneWf_moveLane (e : Eqp) (fromL : Bool) (pc : DWord) (l : Lane) (h : laneWf l = true) :
    laneWf (moveLane e fromL pc l) = true := by
  unfold moveLane
  split
  · exact h
  · simp only [laneWf, Bool.and_eq_true] at h ⊢
    exact ⟨wf_filter _ _ h.1, cwf_carryRegs _ _ _⟩

theorem groupWf_moveGroup (e : Eqp) (fromL : Bool) (pc : DWord) (budget : Nat) (g : Group) (h : groupWf g = true) :
    groupWf (moveGroup e fromL pc budget g) = true := by
  unfold moveGroup
  split
  · exact h
  · exact groupWf_mapLanes g _ (fun l hl => laneWf_moveLane e fromL pc l hl) h

theorem optWf_migrateBlock (s : State) (b : Block) (v : Version) (k : Kernel) (e : Eqp) (core : Nat) (hb : blockWf b = true)
    (h : memWf s = true) : OptWf (migrateBlock s b v k e core) := by
  unfold migrateBlock
  extract_lets l off t
  split
  next d base c _ _ _ =>
    extract_lets pc b'
    have hs : Memory.wf b.scratch = true := blockWf_scratch hb
    have hb' : blockWf b' = true :=
      blockWf_intro hs (List.forall_mem_map.2 fun g hg => groupWf_moveGroup e _ _ _ g (blockWf_groups hb g hg))
    exact memWf_countEvent _ _ _ _ _ (memWf_relocate _ b b' core c base hb' (h : memWf (migratePoison t b.id e b.lbody) = true))
  · trivial

theorem optWf_moveSame (s : State) (b : Block) (core : Nat) (hb : blockWf b = true) (h : memWf s = true) : OptWf (moveSame s b core) := by
  unfold moveSame
  split
  · trivial
  · split
    · exact memWf_relocate _ _ _ _ _ _ hb h
    · trivial

end Sys2Proof.Proofs
end

section
/-! PROOF of O59: time and issue. -/

namespace Sys2Proof.Proofs

open Sys2Proof Sys2Proof.Machine Sys2Proof.Laws

theorem memWf_noteSwap (s : State) (core sub cycle : Nat) (h : memWf s = true) : memWf (noteSwap s core sub cycle) = true :=
  (memWf_modCore _ _ _).trans h

theorem memWf_swapGroups (s : State) (core sub : Nat) (out inn : Nat × Nat × Group) (h : memWf s = true) :
    memWf (swapGroups s core sub out inn) = true :=
  memWf_noteSwap _ _ _ _ (memWf_modGroup_same _ _ _ _ (fun _ => rfl) (memWf_modGroup_same _ _ _ _ (fun _ => rfl) h))

theorem memWf_groupSwap (s : State) (core sub : Nat) (h : memWf s = true) : memWf (groupSwap s core sub) = true := by
  unfold groupSwap
  dsimp only
  split
  · split
    · exact memWf_swapGroups _ _ _ _ _ h
    · exact h
  · exact h

theorem memWf_ageSwap (s : State) (core sub : Nat) (h : memWf s = true) : memWf (ageSwap s core sub) = true := by
  unfold ageSwap
  dsimp only
  split
  · split
    · exact memWf_swapGroups _ _ _ _ _ h
    · exact h
  · exact h

theorem memWf_dueSwaps (s : State) (h : memWf s = true) : memWf (dueSwaps s) = true :=
  memWf_foldl _ (fun _ _ k => memWf_groupSwap _ _ _ (memWf_ageSwap _ _ _ k)) _ _ h

theorem memWf_enter (s : State) (core sub cycle : Nat) (h : memWf s = true) : memWf (enter s core sub cycle) = true := by
  unfold enter
  split
  · exact h
  · split
    · exact memWf_noteSwap _ _ _ _ (memWf_modGroup_same _ _ _ _ (fun _ => rfl) h)
    · exact h

theorem memWf_entries (s : State) (n : Nat) (h : memWf s = true) : memWf (entries s n) = true :=
  memWf_foldl _ (fun _ _ k => memWf_foldl _ (fun _ _ k' => memWf_enter _ _ _ _ k') _ _ k) _ _ h

theorem memWf_countStalls (s : State) (f : State → Nat → Nat → List (Nat × Nat)) (h : memWf s = true) :
    memWf (countStalls s f) = true :=
  memWf_foldl _ (fun _ _ k => memWf_foldl _ (fun _ _ k' => memWf_countEvent _ _ _ _ _ k') _ _ k) _ _ h

theorem memWf_countCycle (s : State) (now : Option InCycle) (h : memWf s = true) : memWf (countCycle s now) = true :=
  memWf_countStalls _ _ h

theorem memWf_countTime (s : State) (cycles : Nat) (h : memWf s = true) : memWf (countTime s cycles) = true :=
  memWf_foldl _ (fun _ _ k => memWf_foldl _ (fun _ _ k' => memWf_countEvent _ _ _ _ _ k') _ _
      (memWf_countEvent _ _ _ _ _ k)) _ _ (memWf_countStalls _ _ h)

theorem memWf_passTime (s : State) (h : memWf s = true) : memWf (passTime s) = true :=
  memWf_countTime _ _ (memWf_entries _ _ h)

theorem memWf_passTick (s : State) (h : memWf s = true) : memWf (passTick s) = true := h

theorem memWf_startPath (s : State) (b : Block) (g : Nat) (lanes : BitVec 32) (pc : DWord) (len : Nat) (base : Word) (paths : Nat)
    (h : memWf s = true) : memWf (startPath s b g lanes pc len base paths) = true := by
  unfold startPath
  refine (memWf_modGroup s b.id g _ (fun k hk => ?_) h : memWf (modGroup s b.id g _) = true)
  refine groupWf_same (groupWf_mapIdx k (fun i l => if lanes.getLsbD i then { l with hold := .none } else l) (fun i l hl => ?_) hk) rfl
  split
  · exact laneWf_same hl rfl rfl
  · exact hl

theorem memWf_countIssue (s : State) (b : Block) (uniform : Bool) (n : Nat) (h : memWf s = true) :
    memWf (countIssue s b uniform n) = true := by
  unfold countIssue
  split
  · exact memWf_countEvent _ _ _ _ _ h
  · exact memWf_countEvent _ _ _ _ _ (memWf_countEvent _ _ _ _ _ h)

theorem memWf_issueWork (s : State) (b : Block) (i : Instr) (n : Nat) (h : memWf s = true) : memWf (issueWork s b i n) = true := by
  unfold issueWork
  split <;> exact memWf_countWork _ _ _ _ _ _ h

theorem issWf_issuePath (s : State) (blk grp : Nat) (lanes : BitVec 32) (paths : Nat) (h : memWf s = true) :
    IssWf (issuePath s blk grp lanes paths) := by
  unfold issuePath
  split
  next b g _ _ =>
    extract_lets ls mask
    clear_value mask ls
    cases ls with
    | nil => exact h
    | cons i ls =>
      dsimp only
      split
      · exact memWf_isolate _ _ _ _ h
      · split
        · exact memWf_trapGroup _ _ _ _ _ h
        · exact memWf_issueWork _ _ _ _ (memWf_countIssue _ _ _ _ (memWf_startPath _ _ _ _ _ _ _ _ h))
  · exact h

theorem memWf_takeSample (s : State) (now : Option InCycle) (p c core : Nat) (h : memWf s = true) :
    memWf (takeSample s now p c core) = true := by
  unfold takeSample
  split
  · exact h
  · split
    · exact memWf_putRecord _ _ _ _ ((memWf_modCore _ _ _).trans h)
    · exact h

theorem memWf_pcSample (s : State) (now : Option InCycle) (core : Nat) (h : memWf s = true) :
    memWf (pcSample s now core) = true := by
  unfold pcSample
  split
  · split
    · exact memWf_takeSample _ _ _ _ _ ((memWf_modCore _ _ _).trans h)
    · exact h
  · exact h

theorem memWf_dueSamples (s : State) (now : Option InCycle) (h : memWf s = true) : memWf (dueSamples s now) = true :=
  memWf_foldl _ (fun _ _ k => memWf_pcSample _ _ _ k) _ _ h

theorem memWf_newCycle (s : State) (h : memWf s = true) : memWf (newCycle s) = true :=
  memWf_passTime _ (memWf_dueSamples _ _ h)

theorem groupWf_passed (g : Group) (issued : BitVec 32) (h : groupWf g = true) : groupWf (g.passed issued) = true := by
  refine groupWf_mapIdx g _ (fun i l hl => ?_) h
  split
  · exact laneWf_same hl rfl rfl
  · split
    · exact laneWf_same hl rfl rfl
    · exact hl

theorem memWf_opportunity (s : State) (core sub blk grp : Nat) (r0 : Ready) (r1 : Option Ready) (h : memWf s = true) :
    memWf (opportunity s core sub blk grp r0 r1) = true := by
  unfold opportunity
  extract_lets l1 paths now s1 s2 s3
  have h1 : memWf s1 = true := memWf_dueSamples _ _ (memWf_countCycle _ _ h)
  exact (memWf_modGroup s1 blk grp _ (fun g hg => groupWf_same (groupWf_passed g _ hg) rfl) h1 : memWf s2 = true)

theorem issWf_issueNext (s : State) (h : memWf s = true) : IssWf (issueNext s) := by
  unfold issueNext
  split
  · exact memWf_countCycle _ _ h
  · split
    · split
      · exact h
      · extract_lets r1 t
        have ht : memWf t = true := by
          unfold t
          split
          · exact memWf_countEvent _ _ _ _ _ h
          · exact h
        exact issWf_issuePath _ _ _ _ _ (memWf_opportunity _ _ _ _ _ _ _ ht)
    · exact h

theorem memWf_turnTime (i : Instr) (s : State) (h : memWf s = true) : memWf (turnTime i s) = true := by
  unfold turnTime
  split
  · split
    · exact memWf_passTick _ h
    · exact memWf_countCycle _ _ (memWf_newCycle _ h)
  · exact memWf_countCycle _ _ (memWf_newCycle _ h)

theorem issWf_nextTurn (s : State) (h : memWf s = true) : IssWf (nextTurn s) := by
  unfold nextTurn
  split
  · exact issWf_issuePath _ _ _ _ _ (memWf_passTick _ h)
  · split
    · extract_lets t
      have ht : memWf t = true := memWf_newCycle _ h
      clear_value t
      split
      · exact issWf_issuePath _ _ _ _ _ (memWf_opportunity _ _ _ _ _ _ _ ht)
      · exact memWf_countCycle _ _ ht
    · extract_lets t
      split
      · exact memWf_turnTime _ _ h
      · exact memWf_countCycle _ _ (memWf_newCycle _ h)
    · have k : memWf (dueSwaps (newCycle s)) = true := memWf_dueSwaps _ (memWf_newCycle _ h)
      generalize dueSwaps (newCycle s) = t at k ⊢
      exact issWf_issueNext t k

theorem memWf_settleStep (s : State) (blk grp : Nat) (h : memWf s = true) : memWf (settleStep s blk grp) = true := by
  unfold settleStep
  split
  · exact h
  · dsimp only
    split
    · exact memWf_modGroup_same _ _ _ _ (fun _ => rfl) h
    · split
      · exact memWf_trapGroup _ _ _ _ _ (memWf_modGroup_same _ _ _ _ (fun _ => rfl) h)
      · exact h

theorem memWf_settleSteps (s : State) (h : memWf s = true) : memWf (settleSteps s) = true :=
  memWf_foldl _ (fun _ _ k => memWf_settleStep _ _ _ k) _ _ h

end Sys2Proof.Proofs
end

section
/-! PROOF of O59: launches, leases and records. -/

namespace Sys2Proof.Proofs

open Sys2Proof Sys2Proof.Machine Sys2Proof.Laws

theorem memWf_thaw (s : State) (p : Nat) (h : memWf s = true) : memWf (thaw s p) = true := by
  unfold thaw
  dsimp only
  split
  · refine memWf_modPart_same _ _ _ (fun _ => rfl) (fun _ => rfl) (memWf_foldl _ (fun t x k => ?_) _ _ h)
    split
    · exact (memWf_modCore _ _ _).trans k
    · exact k
  · refine memWf_foldl _ (fun t x k => ?_) _ _ h
    split
    · exact (memWf_modCore _ _ _).trans k
    · exact k

theorem memWf_copyFrame (s : State) (p : Nat) (v : Version) (w : DWord) (h : memWf s = true) :
    memWf (copyFrame s p v w) = true := by
  unfold copyFrame
  dsimp only
  split
  · exact memWf_foldl _ (fun _ _ k => memWf_engineLocal _ _ _ _ k) _ _ h
  · exact h

theorem memWf_startLaunch (s : State) (p c slot : Nat) (h : memWf s = true) : memWf (startLaunch s p c slot) = true := by
  unfold startLaunch
  dsimp only
  split
  · split
    · exact h
    · refine memWf_copyFrame _ _ _ _ ?_
      split
      · exact memWf_thaw _ _ (memWf_modPart_same _ _ _ (fun _ => rfl) (fun _ => rfl) h)
      · exact memWf_modPart_same _ _ _ (fun _ => rfl) (fun _ => rfl) h
  · exact h

theorem memWf_retireVersion (s : State) (v : Version) (h : memWf s = true) : memWf (retireVersion s v) = true := by
  unfold retireVersion
  refine memWf_foldl _ (fun t x k => ?_) _ _ h
  split
  · exact memWf_retireHandle _ _ _ _ k
  · exact k

theorem memWf_retireGraph (s : State) (v : Version) (h : memWf s = true) : memWf (retireGraph s v) = true := by
  unfold retireGraph
  dsimp only
  split
  · exact h
  · exact memWf_settleFamilies _ (memWf_retireVersion _ _ h)

theorem memWf_rejectLaunch (s : State) (p : Nat) (l : Launch) (h : memWf s = true) : memWf (rejectLaunch s p l) = true := by
  unfold rejectLaunch
  dsimp only
  split
  · exact memWf_retireGraph _ _ (memWf_logPart _ _ _ _ _ _ _ _ (memWf_modPart_same _ _ _ (fun _ => rfl) (fun _ => rfl) h))
  · exact memWf_logPart _ _ _ _ _ _ _ _ (memWf_modPart_same _ _ _ (fun _ => rfl) (fun _ => rfl) h)

theorem memWf_beginNode (p : Nat) (l : Launch) (v : Version) (s : State) (node : Nat) (h : memWf s = true) :
    memWf (beginNode p l v s node) = true := by
  unfold beginNode
  split
  · exact h
  · exact memWf_modLaunch _ _ _ _ h

theorem memWf_startNode (s : State) (p idx node : Nat) (h : memWf s = true) : memWf (startNode s p idx node) = true := by
  unfold startNode
  split
  · exact h
  · split
    · dsimp only
      split
      · exact h
      · split
        · exact memWf_foldl _ (fun _ _ k => memWf_beginNode _ _ _ _ _ k) _ _ h
        · exact memWf_rejectLaunch _ _ _ h
    · exact h

theorem memWf_settleBlock (s : State) (b : Block) (h : memWf s = true) : memWf (settleBlock s b) = true :=
  memWf_foldl _ (fun _ _ k => memWf_settleSlot _ _ k) _ _ h

theorem memWf_rewaitBlock (s : State) (blk : Nat) (h : memWf s = true) : memWf (rewaitBlock s blk) = true := by
  refine memWf_wakeLookups _ _ (memWf_modBlock s blk _ (fun b hb => blockWf_mapGroups b _ (fun g hg => ?_) hb) h)
  split
  · exact hg
  · exact groupWf_mapLanes g _ (fun l hl => laneWf_rewait s l hl) hg

theorem memWf_getD (o : Option State) (s : State) (ho : OptWf o) (h : memWf s = true) : memWf (o.getD s) = true := by
  cases o with
  | none => exact h
  | some t => exact ho

theorem optWf_resumeOn (s : State) (b : Block) (core : Nat) (hb : blockWf b = true) (h : memWf s = true) :
    OptWf (resumeOn s b core) := by
  unfold resumeOn
  refine optWf_bind _ _ (fun k _ => ?_)
  split
  next base c' _ _ =>
    extract_lets s1 s2 s3 groups s4 s5 s6
    have h1 : memWf s1 = true := memWf_modPart s b.part _ (fun q hq =>
      partWf_resume q _ (fun x hx => blockWf_resume hq x (List.mem_of_mem_filter hx)) hq) h
    have h3 : memWf s3 = true := (memWf_modCore _ _ _).trans (memWf_dropLeases s2 core (memWf_addBlock s1 b hb h1))
    have hs : Memory.wf b.scratch = true := blockWf_scratch hb
    have hg : ∀ g ∈ groups, groupWf g = true := groupWf_seatLive _ _ _ (blockWf_groups hb)
    have h4 : memWf s4 = true := memWf_modBlock s3 b.id _ (fun _ _ => blockWf_intro hs hg) h3
    have h6 : memWf s6 = true := memWf_modCluster s5 _ _ (fun k hk => by split <;> exact hk) h4
    exact memWf_rewaitBlock _ _ (memWf_settleBlock _ _ h6)
  · trivial

theorem optWf_resumeIn (const : Nat) (s : State) (b : Block) (hb : blockWf b = true) (h : memWf s = true) :
    OptWf (resumeIn const s b) :=
  optWf_bind _ _ (fun _ _ => optWf_resumeOn _ _ _ hb h)

/-- Saved blocks, each with canonical memories, placed one after another. -/
theorem optWf_resumeMates (n : Nat) (bs : List Block) (hb : ∀ b ∈ bs, blockWf b = true) (o : Option State) (h : OptWf o) :
    OptWf (bs.foldl (fun (acc : Option State) m => acc.bind fun s => resumeIn n s m) o) := by
  induction bs generalizing o with
  | nil => exact h
  | cons b bs ih =>
    exact ih (fun x hx => hb x (List.mem_cons_of_mem _ hx)) _
      (optWf_bind o _ fun t e => optWf_resumeIn n t b (hb b List.mem_cons_self) (memWf_some e h))

theorem optWf_resumeBlock (s : State) (p : Nat) (h : memWf s = true) : OptWf (resumeBlock s p) := by
  unfold resumeBlock
  split
  · trivial
  next b _ _ =>
    extract_lets mates own const alone consts
    have hm : ∀ x ∈ mates, blockWf x = true := fun x hx => blockWf_resume (partWf_partOf h p) x (List.mem_of_mem_filter hx)
    exact optWf_findSome _ (fun n => optWf_resumeMates n mates hm (some s) h) _

theorem memWf_placeNode (s : State) (p idx node : Nat) (h : memWf s = true) : memWf (placeNode s p idx node) = true := by
  unfold placeNode
  split
  next e =>
    split
    · exact memWf_some e (optWf_resumeBlock _ _ h)
    · exact h
  · split
    · exact h
    · split
      · exact h
      · exact memWf_getD _ _ (optWf_tryCluster _ _ _ _ h) h

theorem memWf_donePlace (s : State) (p c trc : Nat) (va : DWord) (h : memWf s = true) :
    memWf (donePlace s p c trc va).1 = true := by
  unfold donePlace
  split
  · next heq => exact memWf_fst heq (memWf_translateMover _ _ _ _ _ _ h)
  · next heq => exact memWf_fst heq (memWf_translateMover _ _ _ _ _ _ h)

theorem memWf_writeDone (s : State) (p : Nat) (l : Launch) (v : Version) (d : DonePlace) (h : memWf s = true) :
    memWf (writeDone s p l v d) = true := by
  unfold writeDone
  split
  next pl =>
    extract_lets t
    have ht : memWf t = true := by
      unfold t
      split
      · exact h
      · exact memWf_coverPlace _ _ _ (memWf_writePlace _ _ _ h)
    exact ht
  · exact memWf_logPart _ _ _ _ _ _ _ _ h

theorem memWf_endLaunch (s : State) (p idx : Nat) (h : memWf s = true) : memWf (endLaunch s p idx) = true := by
  unfold endLaunch
  split
  · exact h
  · split
    · exact h
    · split
      · exact h
      · dsimp only
        split
        · split
          · exact h
          · exact memWf_retireGraph _ _ (memWf_writeDone _ _ _ _ _ (memWf_modPart_same _ _ _ (fun _ => rfl) (fun _ => rfl)
              (memWf_donePlace _ _ _ _ _ h)))
        · split
          · exact h
          · exact memWf_retireGraph _ _ (memWf_modPart_same _ _ _ (fun _ => rfl) (fun _ => rfl) h)

theorem memWf_grantLease (s : State) (core : Nat) (h : memWf s = true) : memWf (grantLease s core) = true := by
  unfold grantLease
  dsimp only
  split
  · split
    · split
      · exact h
      · exact memWf_tryLatch _ _ (memWf_wakeRetry _ _ _ (memWf_modBlock _ _ _ (fun _ k => blockWf_same k rfl rfl)
          ((memWf_modCore _ _ _).trans h)))
    · exact h
  · exact h

theorem memWf_passLease (s : State) (core : Nat) (h : memWf s = true) : memWf (passLease s core) = true := by
  unfold passLease
  dsimp only
  split
  · split
    · exact (memWf_modCore _ _ _).trans (memWf_modBlock _ _ _ (fun _ k => blockWf_same k rfl rfl) (memWf_spillLease _ _ _ _ h))
    · exact h
  · exact h

theorem memWf_completeOp (s : State) (core : Nat) (h : memWf s = true) : memWf (completeOp s core) = true := by
  unfold completeOp
  split
  · exact h
  · split
    · dsimp only
      split
      · next heq1 _ _ _ => exact memWf_tryLatch _ _ (memWf_wakeRetry _ _ _ (memWf_wakeRetry _ _ _ (memWf_dropOp _ _ _
          (memWf_fst heq1 (memWf_performOp _ _ _ h)))))
      · next heq1 _ _ => exact memWf_dropOp _ _ _ (memWf_fst heq1 (memWf_performOp _ _ _ h))
    · next heq1 => exact memWf_fst heq1 (memWf_performOp _ _ _ h)

theorem optWf_stealFrom (s : State) (rs : List TaskRec) (core : Nat) (h : memWf s = true) : OptWf (stealFrom s rs core) :=
  optWf_bind _ _ (fun _ _ => optWf_placeRec _ _ _ h)

theorem memWf_orphan (s : State) (r : TaskRec) (h : memWf s = true) : memWf (orphan s r) = true := by
  unfold orphan
  dsimp only
  split
  · exact memWf_actThree _ _ _ _ h
  · exact h
  · split
    · exact memWf_rejectLaunch _ _ _ h
    · exact h

theorem memWf_claim (s : State) (core : Nat) (h : memWf s = true) : memWf (claim s core) = true := by
  unfold claim
  split
  · exact h
  · dsimp only
    split
    · exact memWf_foldl _ (fun _ _ k => memWf_orphan _ _ k) _ _ h
    · split
      · next heq1 => exact memWf_countEvent _ _ _ _ _ (memWf_some heq1 (optWf_bind _ _ (fun _ _ => optWf_placeRec _ _ _
          (memWf_foldl _ (fun _ _ k' => memWf_orphan _ _ k') _ _ h))))
      · split
        · next heq2 => exact memWf_countEvent _ _ _ _ _ (memWf_countEvent _ _ _ _ _ (memWf_some heq2 (optWf_stealFrom _ _ _
            (memWf_foldl _ (fun _ _ k => memWf_orphan _ _ k) _ _ h))))
        · exact memWf_foldl _ (fun _ _ k => memWf_orphan _ _ k) _ _ h

theorem memWf_clearLeaf (s : State) (v : Version) (k : Nat) (t : DWord) (h : memWf s = true) :
    memWf (clearLeaf s v k t) = true := by
  unfold clearLeaf
  dsimp only
  split
  · split
    · exact memWf_setLeaf _ _ _ _ _ h
    · exact h
  · exact h

theorem memWf_freeVersion (s : State) (v : Version) (h : memWf s = true) : memWf (freeVersion s v) = true :=
  memWf_foldl _ (fun _ _ k => memWf_foldl _ (fun _ _ k' => memWf_clearLeaf _ _ _ _ k') _ _ k) _ _ h

theorem outWf_execLaunchStart (part : Nat) (ctx : Nat) (slot : Nat) (s : State) (h : memWf s = true) :
    OutWf (execLaunchStart part ctx slot s) := outWf_next (memWf_startLaunch _ _ _ _ h)

theorem outWf_execNodeStart (part : Nat) (launch : Nat) (node : Nat) (s : State) (h : memWf s = true) :
    OutWf (execNodeStart part launch node s) := outWf_next (memWf_startNode _ _ _ _ h)

theorem outWf_execBlockPlacement (part : Nat) (launch : Nat) (node : Nat) (s : State) (h : memWf s = true) :
    OutWf (execBlockPlacement part launch node s) := outWf_next (memWf_placeNode _ _ _ _ h)

theorem outWf_execSameClassMove (blk : Nat) (core : Nat) (s : State) (h : memWf s = true) : OutWf (execSameClassMove blk core s) := by
  unfold execSameClassMove
  split
  · exact h
  next b e =>
    extract_lets stays ok
    clear_value ok
    refine outWf_next ?_
    split
    next t e' =>
      split
      · refine memWf_some e' ?_
        split
        · exact optWf_moveSame s b core (blockWf_blockOf e h) h
        · trivial
      · exact h
    · exact h

theorem outWf_execLaunchEnd (part : Nat) (launch : Nat) (s : State) (h : memWf s = true) :
    OutWf (execLaunchEnd part launch s) := outWf_next (memWf_endLaunch _ _ _ h)

theorem outWf_execGroupSwap (core : Nat) (sub : Nat) (s : State) (h : memWf s = true) : OutWf (execGroupSwap core sub s) :=
  outWf_next (memWf_groupSwap _ _ _ h)

theorem outWf_execPendingAgeSwap (core : Nat) (sub : Nat) (s : State) (h : memWf s = true) :
    OutWf (execPendingAgeSwap core sub s) := outWf_next (memWf_ageSwap _ _ _ h)

theorem outWf_execRegroupTimeout (blk : Nat) (s : State) (h : memWf s = true) : OutWf (execRegroupTimeout blk s) := by
  unfold execRegroupTimeout
  split
  · dsimp only
    refine outWf_next ?_
    split
    · exact memWf_closeRound _ _ (memWf_countEvent _ _ _ _ _ h)
    · exact h
  · exact outWf_next h

theorem memWf_setTarget (s : State) (blk : Nat) (core : Option Nat) (h : memWf s = true) :
    memWf (setTarget s blk core) = true := memWf_modBlock _ _ _ (fun _ k => blockWf_same k rfl rfl) h

theorem outWf_execMigrate (blk : Nat) (s : State) (h : memWf s = true) : OutWf (execMigrate blk s) := by
  unfold execMigrate
  split
  · exact h
  next b e =>
    split
    · split
      · exact h
      · split
        · refine outWf_next ?_
          split
          · exact memWf_getD _ _ (optWf_migrateBlock _ _ _ _ _ _ (blockWf_blockOf e h) h) (memWf_setTarget _ _ _ h)
          · exact memWf_setTarget _ _ _ h
        · refine outWf_next ?_
          split
          · exact memWf_rdvContinue _ _ h
          · exact h
    · exact h

theorem outWf_execRecordClaim (core : Nat) (s : State) (h : memWf s = true) : OutWf (execRecordClaim core s) :=
  outWf_next (memWf_claim _ _ h)

theorem outWf_execRecordStealable (rec' : Nat) (s : State) (h : memWf s = true) : OutWf (execRecordStealable rec' s) :=
  outWf_next h

theorem outWf_execLeaseGrant (core : Nat) (s : State) (h : memWf s = true) : OutWf (execLeaseGrant core s) :=
  outWf_next (memWf_grantLease _ _ h)

theorem outWf_execLeasePass (core : Nat) (s : State) (h : memWf s = true) : OutWf (execLeasePass core s) :=
  outWf_next (memWf_passLease _ _ h)

theorem outWf_execMatrixOpComplete (core : Nat) (s : State) (h : memWf s = true) : OutWf (execMatrixOpComplete core s) :=
  outWf_next (memWf_completeOp _ _ h)

theorem outWf_execRegaGrant (core : Nat) (s : State) (h : memWf s = true) : OutWf (execRegaGrant core s) := by
  unfold execRegaGrant
  split
  · exact outWf_next h
  · split
    · exact outWf_next h
    · next heq1 => exact outWf_next (memWf_modGroup _ _ _ _ (fun _ k => groupWf_mapLanes _ _
        (fun _ h => by split <;> exact h) k) ((memWf_modCore _ _ _).trans (memWf_some heq1 (optWf_grow _ _ _ _ _ h))))

theorem outWf_execVersionFree (ver : Nat) (s : State) (h : memWf s = true) : OutWf (execVersionFree ver s) := by
  unfold execVersionFree
  split
  · refine outWf_next ?_
    split
    · exact h
    · exact memWf_freeVersion _ _ h
  · exact outWf_next h

end Sys2Proof.Proofs
end

section
/-! PROOF of O59: engines, coherence and links. -/

namespace Sys2Proof.Proofs

open Sys2Proof Sys2Proof.Machine Sys2Proof.Laws

theorem memWf_faultCmd (s : State) (c : Cmd) (t : Trap) (h : memWf s = true) : memWf (faultCmd s c t) = true :=
  memWf_reportFault _ _ _ _ _ _ _ _ _ _ (memWf_modCmd _ _ _ h)

theorem memWf_writeNext (s : State) (c : Cmd) (h : memWf s = true) : memWf (writeNext s c) = true := by
  unfold writeNext
  split
  · next heq => exact memWf_countWork _ _ _ _ _ _ (memWf_countEvent _ _ _ _ _ (memWf_fst heq (memWf_movePiece _ _ h)))
  · exact memWf_isolateCopy _ _ _ _ h
  · exact h

theorem memWf_readRun (s : State) (c : Cmd) (o n : Nat) (h : memWf s = true) : memWf (readRun s c o n).1 = true := by
  induction n generalizing s o with
  | zero => exact h
  | succ n ih =>
    unfold readRun
    split
    next e => exact memWf_fst e (memWf_readPiece s c o h)
    next t _ _ e =>
      have ht : memWf t = true := memWf_fst e (memWf_readPiece s c o h)
      split
      next e' => exact memWf_fst e' (ih t (o + 16) ht)
      next e' => exact memWf_fst e' (ih t (o + 16) ht)

theorem memWf_writeParts (c : Cmd) (s : State) (parts : List Part16) (h : memWf s = true) :
    memWf (writeParts c s parts) = true :=
  memWf_modCmd _ _ _ (memWf_foldl _ (fun _ _ k => memWf_globalWrite _ _ _ _ _ _ _ k) _ _ h)

theorem memWf_faultMet (s : State) (c : Cmd) (h : memWf s = true) : memWf (faultMet s c) = true := by
  unfold faultMet
  split
  · exact memWf_faultCmd _ _ _ h
  · exact h

theorem memWf_exchange (s : State) (c : Cmd) (t : Coll) (peers : List PeerColl) (h : memWf s = true) :
    memWf (exchange s c t peers) = true := by
  unfold exchange
  split
  · split
    · exact memWf_faultCmd _ _ _ h
    · split
      · exact memWf_faultCmd _ _ _ h
      · exact memWf_isolateEngine _ _ _ _ h
      · exact h
      · dsimp only
        split
        · exact h
        · next heq1 _ _ heq2 =>
            refine memWf_faultMet _ _ (memWf_countDie _ _ _ _ _ _ (memWf_countEvent _ _ _ _ _ (memWf_fst heq2
                (memWf_putParts _ _ _ _ (fun u x k => ?_) (fun _ _ k => memWf_isolateEngine _ _ _ _ k) _
                (memWf_gatherParts _ _ _ (memWf_modCmd _ _ _ (memWf_fst heq1 (memWf_readRun _ _ _ _ h))))
                (memWf_modCmd _ _ _ (memWf_fst heq1 (memWf_readRun _ _ _ _ h)))))))
            split
            · exact memWf_makeUpdate _ _ _ k
            · exact memWf_writeParts _ _ _ k
  · exact h

theorem outWf_execEngineWrite (cmd : EngineStep) (s : State) (h : memWf s = true) : OutWf (execEngineWrite cmd s) := by
  unfold execEngineWrite
  split
  · refine outWf_next ?_
    split
    · split
      · exact memWf_writeNext _ _ h
      · exact h
    · exact memWf_foldl _ (fun _ _ k => memWf_readAhead _ _ _ k) _ _ h
  · exact outWf_next h

theorem outWf_execEngineCommandComplete (cmd : Nat) (s : State) (h : memWf s = true) :
    OutWf (execEngineCommandComplete cmd s) := by
  unfold execEngineCommandComplete
  split
  · refine outWf_next ?_
    split
    · exact memWf_finishCmd _ _ h
    · exact h
  · exact outWf_next h

theorem outWf_execCollectiveExchange (unit : Nat) (peers : List PeerColl) (s : State) (h : memWf s = true) :
    OutWf (execCollectiveExchange unit peers s) := by
  unfold execCollectiveExchange
  split
  · refine outWf_next ?_
    split
    · exact memWf_exchange _ _ _ _ h
    · exact h
  · exact outWf_next h

theorem outWf_execEngineCommandFault (cmd : Nat) (s : State) (h : memWf s = true) : OutWf (execEngineCommandFault cmd s) := by
  unfold execEngineCommandFault
  split
  · exact outWf_next h
  · split
    · exact outWf_next h
    · split
      · exact outWf_next (memWf_faultMet _ _ h)
      · split
        · exact outWf_next (memWf_faultCmd _ _ _ h)
        · exact outWf_next (memWf_faultCmd _ _ _ h)
        · exact outWf_next h
      · split
        · refine outWf_next ?_
          split
          · exact memWf_faultCmd _ _ _ h
          · exact h
        · exact outWf_next h

theorem outWf_execFeWatchdog (blk : Nat) (grp : Nat) (lane : Nat) (s : State) (h : memWf s = true) :
    OutWf (execFeWatchdog blk grp lane s) := by
  unfold execFeWatchdog
  split
  · split
    · exact outWf_next (memWf_feStop _ _ _ h)
    · exact outWf_next h
  · exact outWf_next h

theorem outWf_execMemoryAccessComplete (blk : Nat) (grp : Nat) (store : Bool) (id : Nat) (s : State) (h : memWf s = true) :
    OutWf (execMemoryAccessComplete blk grp store id s) := by
  unfold execMemoryAccessComplete
  dsimp only
  split
  · exact outWf_next h
  · exact outWf_next (memWf_wakeRetry _ _ _ (memWf_modGroup_same _ _ _ _ (fun _ => by split <;> rfl) h))

theorem outWf_execPcSample (core : Nat) (s : State) (h : memWf s = true) : OutWf (execPcSample core s) :=
  outWf_next (memWf_pcSample _ _ _ h)

theorem memWf_wakeFences (s : State) (h : memWf s = true) : memWf (wakeFences s) = true := memWf_wakeRetry _ _ _ h

theorem memWf_wakeLinks (s : State) (h : memWf s = true) : memWf (wakeLinks s) = true :=
  memWf_foldl _ (fun _ _ k => memWf_retryHeld _ _ k) _ _ (memWf_wakeLookups _ _ (memWf_wakeRetry _ _ _ h))

theorem laneWf_unfenced (pc : DWord) (l : Lane) (h : laneWf l = true) :
    laneWf (if l.hold = .retry .fence && l.npc = pc then { l with hold := .none } else l) = true := by
  split
  · exact laneWf_same h rfl rfl
  · exact h

theorem memWf_poisonFences (s : State) (p : Nat) (addr : DWord) (h : memWf s = true) : memWf (poisonFences s p addr) = true := by
  unfold poisonFences
  extract_lets held
  refine memWf_foldl _ (fun t q ht => ?_) held s h
  refine memWf_trapGroup _ _ _ _ _ (memWf_modGroup t q.1 q.2.1 _ (fun g hg => ?_) ht)
  exact groupWf_mapLanes g _ (fun l hl => laneWf_unfenced q.2.2.1 l hl) hg

theorem memWf_loseWindow (s : State) (p idx : Nat) (w : Nat × Nat × DWord) (h : memWf s = true) :
    memWf (loseWindow s p idx w) = true := by
  unfold loseWindow
  dsimp only
  refine memWf_wakeFences _ (memWf_wakeLinks _ (memWf_logUnit _ _ _ _ _ _ _ _ ?_))
  split
  · exact memWf_poisonFences _ _ _ (memWf_modPart_same _ _ _ (fun _ => rfl) (fun _ => rfl) h)
  · exact memWf_modPart_same _ _ _ (fun _ => rfl) (fun _ => rfl) h

theorem memWf_losePool (s : State) (h : memWf s = true) : memWf (losePool s) = true := by
  unfold losePool
  dsimp only
  refine memWf_wakeFences _ (memWf_wakeLinks _ (memWf_foldl _ (fun _ _ k => memWf_logTo _ _ _ _ _ _ _ _ _ k) _ _
      (memWf_foldl _ (fun t x k => ?_) _ _ h)))
  split
  · exact memWf_poisonFences _ _ _ k
  · exact k

theorem outWf_execL1LeaseExpiry (core : Nat) (pa : Nat) (s : State) (h : memWf s = true) :
    OutWf (execL1LeaseExpiry core pa s) := outWf_next h

theorem outWf_execBisnpdata (line : Nat) (s : State) (h : memWf s = true) : OutWf (execBisnpdata line s) := by
  unfold execBisnpdata
  split
  · refine outWf_next ?_
    split
    · exact memWf_poolWriteBack _ _ h
    · exact h
  · exact outWf_next h

theorem outWf_execBisnpinv (line : Nat) (bytes : List (Nat × Byte)) (s : State) (h : memWf s = true) :
    OutWf (execBisnpinv line bytes s) := by
  unfold execBisnpinv
  refine outWf_next ?_
  split
  · exact memWf_agentStore _ _ _ (memWf_dropLine _ _ h)
  · exact h

theorem outWf_execL2Eviction (line : Nat) (s : State) (h : memWf s = true) : OutWf (execL2Eviction line s) := by
  unfold execL2Eviction
  refine outWf_next ?_
  split
  · exact memWf_dropLine _ _ h
  · exact h

theorem outWf_execPoolStoreMerge (line : Nat) (s : State) (h : memWf s = true) : OutWf (execPoolStoreMerge line s) := by
  unfold execPoolStoreMerge
  dsimp only
  refine outWf_next ?_
  split
  · exact memWf_wakeFences _ (memWf_poolMerge _ _ h)
  · exact h

theorem outWf_execHostWriteAck (s : State) (h : memWf s = true) : OutWf (execHostWriteAck s) := by
  unfold execHostWriteAck
  split
  · exact outWf_next h
  · dsimp only
    split
    · refine outWf_next (memWf_wakeFences _ (memWf_moveWindowPorts _ ?_))
      have w := (memWf_iff (hostAgent s)).1 (memWf_hostAgent _ h)
      exact (memWf_iff _).2 { w with host := wf_foldl _ (fun _ _ h => wf_mput _ _ _ h) _ _ w.host }
    · exact outWf_next (memWf_hostAgent _ h)

theorem outWf_execArbiterWindow (s : State) (h : memWf s = true) : OutWf (execArbiterWindow s) := by
  unfold execArbiterWindow
  split
  · exact outWf_next h
  · refine outWf_next ?_
    have w := (memWf_iff _).1 h
    exact (memWf_iff _).2 { w with parts := List.forall_mem_map.2 fun k hk => w.parts k hk }

theorem outWf_execCurrentClamp (die : Nat) (s : State) (h : memWf s = true) : OutWf (execCurrentClamp die s) := by
  unfold execCurrentClamp
  extract_lets hit
  refine outWf_next ?_
  split
  · refine memWf_foldl _ (fun t p ht => ?_) hit s h
    exact memWf_logPart _ _ _ _ _ _ _ _ (memWf_modPart_same t p _ (fun _ => rfl) (fun _ => rfl) ht)
  · exact h

theorem memWf_lowerCap (s : State) (h : memWf s = true) : memWf (lowerCap s) = true := by
  unfold lowerCap
  have w := (memWf_iff _).1 h
  exact (memWf_iff _).2 { w with parts := List.forall_mem_map.2 fun k hk => w.parts k hk }

theorem memWf_noteHot (s : State) (die temp : Nat) (h : memWf s = true) : memWf (noteHot s die temp) = true := by
  unfold noteHot
  split <;> exact h

theorem outWf_execThermalThrottle (die : Nat) (temp : Nat) (s : State) (h : memWf s = true) :
    OutWf (execThermalThrottle die temp s) := by
  unfold execThermalThrottle
  split
  · exact outWf_next h
  · split
    · exact outWf_next (memWf_noteHot _ _ _ h)
    · dsimp only
      split
      · exact outWf_next (memWf_noteHot _ _ _ h)
      · exact outWf_next (memWf_logAll _ _ _ _ _ _ (memWf_lowerCap _ (memWf_noteHot _ _ _ h)))

theorem outWf_execThermalCapRestore (die : Nat) (s : State) (h : memWf s = true) : OutWf (execThermalCapRestore die s) := by
  unfold execThermalCapRestore
  split <;> exact outWf_next h

theorem outWf_execPtpMessage (time : DWord) (s : State) (h : memWf s = true) : OutWf (execPtpMessage time s) := by
  unfold execPtpMessage
  refine outWf_next ?_
  split
  · exact h
  · split <;> exact h

theorem outWf_execPtpLost (s : State) (h : memWf s = true) : OutWf (execPtpLost s) := outWf_next h

theorem outWf_execPortDown (port : Nat) (s : State) (h : memWf s = true) : OutWf (execPortDown port s) := by
  unfold execPortDown
  split
  · exact outWf_next h
  · exact outWf_next (memWf_logAll _ _ _ _ _ _ (memWf_moveWindowPorts _ h))

theorem outWf_execPortUp (port : Nat) (s : State) (h : memWf s = true) : OutWf (execPortUp port s) := by
  unfold execPortUp
  split
  · exact outWf_next h
  · exact outWf_next (memWf_wakeLinks _ (memWf_logAll _ _ _ _ _ _ (memWf_moveWindowPorts _ h)))

theorem outWf_execHostWindowLost (part : Nat) (idx : Nat) (s : State) (h : memWf s = true) :
    OutWf (execHostWindowLost part idx s) := by
  unfold execHostWindowLost
  dsimp only
  split
  · refine outWf_next ?_
    split
    · exact memWf_loseWindow _ _ _ _ h
    · exact h
  · exact outWf_next h

theorem outWf_execCxlPortFail (port : Nat) (s : State) (h : memWf s = true) : OutWf (execCxlPortFail port s) := by
  unfold execCxlPortFail
  split
  · exact outWf_next h
  · exact outWf_next (memWf_logAll _ _ _ _ _ _ h)

theorem outWf_execCxlPortRecover (port : Nat) (s : State) (h : memWf s = true) : OutWf (execCxlPortRecover port s) := by
  unfold execCxlPortRecover
  split
  · exact outWf_next h
  · exact outWf_next (memWf_wakeLinks _ h)

theorem outWf_execPoolLost (s : State) (h : memWf s = true) : OutWf (execPoolLost s) := by
  unfold execPoolLost
  refine outWf_next ?_
  split
  · exact memWf_losePool _ h
  · exact h

theorem outWf_execCorrectableError (u : PoisonUnit) (s : State) (h : memWf s = true) : OutWf (execCorrectableError u s) := by
  unfold execCorrectableError
  split
  · exact outWf_next h
  · dsimp only
    split
    · exact outWf_next h
    · exact outWf_next (memWf_logUnit _ _ _ _ _ _ _ _ h)

theorem outWf_execUncorrectableError (u : PoisonUnit) (s : State) (h : memWf s = true) : OutWf (execUncorrectableError u s) := by
  unfold execUncorrectableError
  split
  · exact outWf_next h
  · split
    · exact outWf_next h
    · dsimp only
      split
      · exact outWf_next (memWf_uncontained _ _ _ _ _ (memWf_logUnit _ _ _ _ _ _ _ _ h))
      · exact outWf_next (memWf_logUnit _ _ _ _ _ _ _ _ ((memWf_addPoison _ _).trans h))

theorem outWf_execDramScrub (s : State) (h : memWf s = true) : OutWf (execDramScrub s) := outWf_next h

theorem outWf_execIsolationViolation (core : Nat) (target : Nat) (s : State) (h : memWf s = true) :
    OutWf (execIsolationViolation core target s) := by
  unfold execIsolationViolation
  split
  · exact outWf_next (memWf_isolate _ _ _ _ h)
  · exact outWf_next h

theorem outWf_execNonInstructionWord (w : BadWord) (s : State) (h : memWf s = true) : OutWf (execNonInstructionWord w s) := by
  unfold execNonInstructionWord
  dsimp only
  split
  · exact outWf_uniform _ _ _ (fun _ _ k => endWf_trap k) h
  · split
    · trivial
    · exact outWf_next (memWf_raiseLanes _ _ _ (memWf_modGroup _ _ _ _ (fun _ k => groupWf_modLanes _ _ _
        (fun _ _ k' => laneWf_same k' rfl rfl) k) h))

end Sys2Proof.Proofs
end

section
/-! PROOF of O59: the ladder and resets. -/

namespace Sys2Proof.Proofs

open Sys2Proof Sys2Proof.Machine Sys2Proof.Laws

theorem memWf_holdAges (s : State) (p c start : Nat) (h : memWf s = true) : memWf (holdAges s p c start) = true := h

theorem blockWf_cancelRound (b : Block) (h : blockWf b = true) : blockWf (cancelRound b) = true := by
  unfold cancelRound
  split
  · exact h
  · refine blockWf_mapLanes b (fun l => if l.hold = .pool then { l with hold := .none } else l) (fun l hl => ?_) h
    split
    · exact laneWf_same hl rfl rfl
    · exact hl

theorem memWf_settleHalt (s : State) (p c : Nat) (h : memWf s = true) : memWf (settleHalt s p c) = true := by
  unfold settleHalt
  extract_lets mine s1 s2 s3 done s4 units
  have h1 : memWf s1 = true := by
    refine memWf_mapBlocks s (fun b => if b.part = p && b.ctx = c then cancelRound b else b) (fun b hb => ?_) h
    split
    · exact blockWf_cancelRound b hb
    · exact hb
  have h2 : memWf s2 = true := memWf_foldl _ (fun _ _ k => memWf_foldl _ (fun _ _ k' => memWf_cancelFe _ _ _ k') _ _ k) _ _ h1
  have h3 : memWf s3 = true := memWf_foldl _ (fun _ _ k => memWf_haltOp _ _ k) _ _ h2
  have h4 : memWf s4 = true := memWf_foldl _ (fun _ _ k => memWf_finishCmd _ _ k) _ _ h3
  exact memWf_foldl _ (fun _ _ k => memWf_writeBack _ _ k) _ _ h4

/-- The save image of a context has the canonical memories of the state. -/
theorem savedWf_imageOf (s : State) (p c : Nat) (h : memWf s = true) : savedWf (imageOf s p c) = true := by
  have w := (memWf_iff s).1 h
  simp only [savedWf, Bool.and_eq_true, List.all_eq_true]
  refine ⟨⟨fun b hb => w.blocks b (List.mem_of_mem_filter hb), List.forall_mem_map.2 fun b hb => ?_⟩,
    fun k hk => w.clusters k (List.mem_of_mem_filter hk)⟩
  exact blockWf_same (blockWf_resume (partWf_partOf h p) b (List.mem_of_mem_filter hb)) rfl rfl

theorem memWf_saveCtx (s : State) (p c : Nat) (h : memWf s = true) : memWf (saveCtx s p c) = true := by
  unfold saveCtx
  extract_lets t v img
  have ht : memWf t = true := memWf_settleHalt s p c h
  have hv : savedWf img = true := (savedWf_imageOf t p c ht : savedWf v = true)
  exact memWf_modCtx _ _ _ _ (fun _ _ => hv) (memWf_dropCtx t p c ht)

theorem groupWf_prune (g : Group) (alive : Nat → Bool) (h : groupWf g = true) : groupWf (g.prune alive) = true := h

theorem memWf_modAllResume (s : State) (alive : Nat → Bool) (h : memWf s = true) : memWf (settleBack.modAllResume s alive) = true := by
  have w := (memWf_iff s).1 h
  refine (memWf_iff _).2 ⟨w.dram, w.dsp, w.pool, w.host, w.stage, w.blocks, w.clusters, w.shades, List.forall_mem_map.2 fun q hq => ?_⟩
  have hp : partWf q.2 = true := w.parts q hq
  exact partWf_resume q.2 _ (List.forall_mem_map.2 fun b hb =>
    blockWf_mapGroups b _ (fun g hg => groupWf_prune g alive hg) (blockWf_resume hp b hb)) hp

theorem memWf_settleBack (s : State) (v : Saved) (h : memWf s = true) : memWf (settleBack s v) = true := by
  unfold settleBack
  extract_lets alive s1 s2 s3 s4 s5
  have h1 : memWf s1 = true := by
    refine memWf_mapBlocks s (fun b => if v.blocks.any fun x => x.id = b.id then
      { b with groups := b.groups.map fun g => g.prune alive } else b) (fun b hb => ?_) h
    split
    · exact blockWf_mapGroups b _ (fun g hg => groupWf_prune g alive hg) hb
    · exact hb
  have h2 : memWf s2 = true := memWf_modAllResume s1 alive h1
  have h3 : memWf s3 = true := memWf_foldl _ (fun _ _ k => memWf_foldl _ (fun _ _ k' => memWf_settleSlot _ _ k') _ _ k) _ _ h2
  have h4 : memWf s4 = true := memWf_foldl _ (fun _ _ k => memWf_foldl _ (fun _ _ k' => memWf_settleSlot _ _ k') _ _ k) _ _ h3
  have h5 : memWf s5 = true := memWf_foldl _ (fun _ _ k => memWf_rewaitBlock _ _ (memWf_settleBlock _ _ k)) _ _ h4
  exact memWf_foldl _ (fun _ _ k => memWf_retryHeld _ _ k) _ _ h5

theorem memWf_resumeAll (s : State) (p fuel : Nat) (h : memWf s = true) : memWf (resumeAll s p fuel) = true := by
  induction fuel generalizing s with
  | zero => exact h
  | succ fuel ih =>
    unfold resumeAll
    split
    next e => exact ih _ (memWf_some e (optWf_resumeBlock s p h))
    · exact h

theorem savedWf_ctx {q : Part} {c : Nat} {x : Ctx} {v : Saved} (h : partWf q = true) (hx : cfind q.ctxs c = some x)
    (hv : x.saved = some v) : savedWf v = true := by
  simp only [partWf, Bool.and_eq_true, List.all_eq_true] at h
  have k := h.2 _ (mem_of_cfind hx)
  rw [hv] at k
  exact k

theorem savedWf_ctxOf {s : State} (h : memWf s = true) {p c : Nat} {v : Saved} (hv : (ctxOf s p c).saved = some v) :
    savedWf v = true := by
  unfold ctxOf at hv
  cases e : cfind (partOf s p).ctxs c with
  | none =>
    rw [e] at hv
    cases hv
  | some x =>
    rw [e] at hv
    exact savedWf_ctx (partWf_partOf h p) e hv

theorem memWf_restoreCtx (s : State) (p c : Nat) (h : memWf s = true) : memWf (restoreCtx s p c) = true := by
  unfold restoreCtx
  split
  · exact h
  next v e =>
    have hv : savedWf v = true := savedWf_ctxOf h e
    have h1 : memWf (modCtx s p c fun x => { x with saved := none }) = true := memWf_modCtx s p c _ (fun _ _ => rfl) h
    exact memWf_resumeAll _ _ _ (memWf_settleBack _ _ (memWf_unpack _ _ _ hv h1))

theorem memWf_startCtx (s : State) (p c : Nat) (h : memWf s = true) : memWf (startCtx s p c) = true := by
  unfold startCtx
  dsimp only
  split
  · exact memWf_restoreCtx _ _ _ (memWf_modPart_same _ _ _ (fun _ => rfl) (fun _ => rfl) (memWf_thaw _ _ h))
  · exact memWf_modPart_same _ _ _ (fun _ => rfl) (fun _ => rfl) (memWf_thaw _ _ h)

theorem memWf_goOn (s : State) (p : Nat) (byEn : Bool) (h : memWf s = true) : memWf (goOn s p byEn) = true := by
  unfold goOn
  dsimp only
  split
  · exact memWf_modPart_same _ _ _ (fun _ => rfl) (fun _ => rfl) h
  · exact memWf_startCtx _ _ _ h

theorem memWf_clearEn (s : State) (part : Nat) (h : memWf s = true) : memWf (clearEn s part) = true :=
  memWf_modPart_same _ _ _ (fun _ => by split <;> rfl) (fun _ => by split <;> rfl) h

theorem memWf_setEn (s : State) (part : Nat) (h : memWf s = true) : memWf (setEn s part) = true := by
  unfold setEn
  dsimp only
  split
  · exact memWf_modPart_same _ _ _ (fun _ => rfl) (fun _ => rfl) (memWf_holdAges _ _ _ _ (memWf_modPart_same _ _ _
      (fun _ => rfl) (fun _ => rfl) h))
  · split
    · exact memWf_modPart_same _ _ _ (fun _ => rfl) (fun _ => rfl) h
    · exact memWf_goOn _ _ _ (memWf_modPart_same _ _ _ (fun _ => rfl) (fun _ => rfl) h)
  · exact memWf_modPart_same _ _ _ (fun _ => rfl) (fun _ => rfl) h

theorem outWf_execSliceExpiry (part : Nat) (s : State) (h : memWf s = true) : OutWf (execSliceExpiry part s) := by
  unfold execSliceExpiry
  dsimp only
  split
  · exact outWf_next h
  · split
    · exact outWf_next (memWf_modPart_same _ _ _ (fun _ => rfl) (fun _ => rfl) h)
    · exact outWf_next (memWf_goOn _ _ _ (memWf_saveCtx _ _ _ h))

theorem outWf_execGraceExpiry (part : Nat) (s : State) (h : memWf s = true) : OutWf (execGraceExpiry part s) := by
  unfold execGraceExpiry
  dsimp only
  split
  · split
    · exact outWf_next h
    · exact outWf_next (memWf_modPart_same _ _ _ (fun _ => rfl) (fun _ => rfl) (memWf_holdAges _ _ _ _ h))
  · exact outWf_next h

theorem outWf_execHaltComplete (part : Nat) (s : State) (h : memWf s = true) : OutWf (execHaltComplete part s) := by
  unfold execHaltComplete
  dsimp only
  split
  · split
    · exact outWf_next h
    · exact outWf_next (memWf_goOn _ _ _ (memWf_saveCtx _ _ _ (memWf_holdAges _ _ _ _ h)))
  · exact outWf_next h

theorem memWf_setAside (s : State) (p c : Nat) (h : memWf s = true) : memWf (setAside s p c) = true :=
  memWf_modCtx _ _ _ _ (fun _ _ => rfl) (memWf_dropCtx _ _ _ h)

theorem outWf_execKillExpiry (part : Nat) (s : State) (h : memWf s = true) : OutWf (execKillExpiry part s) := by
  unfold execKillExpiry
  dsimp only
  split
  · split
    · exact outWf_next h
    · exact outWf_next (memWf_goOn _ _ _ (memWf_setAside _ _ _ (memWf_killLogged _ _ _ _ _ _ h)))
  · exact outWf_next h

theorem memWf_climb (s : State) (p : Nat) (h : memWf s = true) : memWf (climb s p) = true :=
  memWf_modPart_same _ _ _ (fun _ => by split <;> rfl) (fun _ => by split <;> rfl) h

theorem outWf_execThermalShutdown (die : Nat) (temp : Nat) (s : State) (h : memWf s = true) :
    OutWf (execThermalShutdown die temp s) := by
  unfold execThermalShutdown
  split
  · exact outWf_next h
  · exact outWf_next (memWf_foldl _ (fun _ _ k => memWf_climb _ _ k) _ _ h)

theorem memWf_settleEmergency (s : State) (h : memWf s = true) : memWf (settleEmergency s) = true := by
  unfold settleEmergency
  split
  · split
    · exact h
    · exact memWf_logAll _ _ _ _ _ _ h
  · exact h

theorem memWf_resetPart (s : State) (p : Nat) (h : memWf s = true) : memWf (resetPart s p) = true := by
  unfold resetPart
  extract_lets d s1 s2 s3 s4
  have h1 : memWf s1 = true := memWf_foldl _ (fun _ _ k => memWf_freeVersion _ _ k) _ _ h
  have h2 : memWf s2 = true := memWf_foldl _ (fun _ _ k => memWf_killCtx _ _ _ k) _ _ h1
  have h3 : memWf s3 = true := by
    refine memWf_foldl _ (fun t n k => ?_) (coresOf s2 p) s2 h2
    split <;> exact k
  clear_value s3
  have w := (memWf_iff s3).1 h3
  have h4 : memWf s4 = true := (memWf_iff _).2 { w with dsp := wf_filter _ _ w.dsp }
  exact memWf_modPart s4 p _ (fun q _ => rfl) h4

theorem outWf_execPartitionReset (part : Nat) (s : State) (h : memWf s = true) : OutWf (execPartitionReset part s) := by
  unfold execPartitionReset
  refine outWf_next ?_
  split
  · exact memWf_resetPart _ _ h
  · exact h

theorem outWf_execPowerOnReset (s : State) (h : memWf s = true) : OutWf (execPowerOnReset s) :=
  outWf_next (memWf_powerOn _ h)

end Sys2Proof.Proofs
end

section
/-! PROOF of O59: requests of hosts. -/

namespace Sys2Proof.Proofs

open Sys2Proof Sys2Proof.Machine Sys2Proof.Laws

theorem memWf_pagesOf (s : State) (p c trc : Nat) (m : Mover) (write : Bool) (va : DWord) (rs : List (Nat × Nat))
    (h : memWf s = true) : memWf (pagesOf s p c trc m write va rs).1 = true := by
  induction rs generalizing s with
  | nil => exact h
  | cons r rs ih =>
    unfold pagesOf
    extract_lets a
    split
    next e => exact memWf_fst e (memWf_translateMover _ _ _ _ _ _ h)
    next t pa leaf e =>
      have ht : memWf t = true := memWf_fst e (memWf_translateMover _ _ _ _ _ _ h)
      split
      · exact ht
      · split
        · exact ht
        · have k := ih t ht
          split
          next e' => exact memWf_fst e' k
          · exact k

theorem memWf_checkPages (s : State) (p c trc : Nat) (m : Mover) (write : Bool) (va : DWord) (n : Nat) (h : memWf s = true) :
    memWf (checkPages s p c trc m write va n).1 = true := memWf_pagesOf _ _ _ _ _ _ _ _ h

theorem memWf_writeRuns (s : State) (bs : List Byte) (rs : List (Nat × Nat)) (h : memWf s = true) :
    memWf (writeRuns s bs rs) = true := by
  induction rs generalizing s bs with
  | nil => exact h
  | cons r rs ih => exact ih _ _ (memWf_coverPlace _ _ _ (memWf_writePlace _ _ _ h))

theorem memWf_replyWith (s : State) (ok : Bool) (data : List Byte) (h : memWf s = true) : memWf (replyWith s ok data) = true :=
  h

theorem memWf_rmaError (s : State) (p : Nat) (e : Endpoint) (va : DWord) (h : memWf s = true) :
    memWf (rmaError s p e va) = true := memWf_replyWith _ _ _ (memWf_logPart _ _ _ _ _ _ _ _ h)

theorem memWf_isolateEndpoint (s : State) (p : Nat) (e : Endpoint) (target : DWord) (h : memWf s = true) :
    memWf (isolateEndpoint s p e target) = true :=
  memWf_killLogged _ _ _ _ _ _ (memWf_logPart _ _ _ _ _ _ _ _ (memWf_replyWith _ _ _ (memWf_modPart_same _ _ _
      (fun _ => rfl) (fun _ => rfl) h)))

theorem outWf_execRmaWrite (part : Nat) (ep : Nat) (peer : Nat) (va : DWord) (data : List Byte) (s : State)
    (h : memWf s = true) :
    OutWf (execRmaWrite part ep peer va data s) := by
  unfold execRmaWrite
  split
  · exact outWf_next h
  · split
    · exact outWf_next (memWf_replyWith _ _ _ h)
    · split
      · next heq1 => exact outWf_next (memWf_replyWith _ _ _ (memWf_writeRuns _ _ _ (memWf_fst heq1
          (memWf_checkPages _ _ _ _ _ _ _ _ h))))
      · next heq1 => exact outWf_next (memWf_rmaError _ _ _ _ (memWf_fst heq1 (memWf_checkPages _ _ _ _ _ _ _ _ h)))
      · next heq1 => exact outWf_next (memWf_isolateEndpoint _ _ _ _ (memWf_fst heq1 (memWf_checkPages _ _ _ _ _ _ _ _ h)))

theorem outWf_execRmaRead (part : Nat) (ep : Nat) (peer : Nat) (va : DWord) (len : Nat) (s : State) (h : memWf s = true) :
    OutWf (execRmaRead part ep peer va len s) := by
  unfold execRmaRead
  split
  · exact outWf_next h
  · split
    · exact outWf_next (memWf_replyWith _ _ _ h)
    · split
      · next heq1 => exact outWf_next (memWf_rmaError _ _ _ _ (memWf_fst heq1 (memWf_checkPages _ _ _ _ _ _ _ _ h)))
      · next heq1 => exact outWf_next (memWf_isolateEndpoint _ _ _ _ (memWf_fst heq1 (memWf_checkPages _ _ _ _ _ _ _ _ h)))
      · split
        · next heq1 _ _ _ => exact outWf_next (memWf_rmaError _ _ _ _ (memWf_fst heq1 (memWf_checkPages _ _ _ _ _ _ _ _ h)))
        · next heq1 _ _ => exact outWf_next (memWf_replyWith _ _ _ (memWf_fst heq1 (memWf_checkPages _ _ _ _ _ _ _ _ h)))

theorem memWf_putLaunch (s : State) (part : Nat) (word : DWord) (h : memWf s = true) : memWf (putLaunch s part word) = true := by
  unfold putLaunch
  dsimp only
  split
  · exact memWf_logPart _ _ _ _ _ _ _ _ (memWf_replyWith _ _ _ h)
  · exact memWf_modPart_same _ _ _ (fun _ => rfl) (fun _ => rfl) (memWf_replyWith _ _ _ h)

theorem memWf_controlAccess (s : State) (part peer : Nat) (f : State → State) (hf : ∀ t, memWf t = true → memWf (f t) = true)
    (h : memWf s = true) : memWf (controlAccess s part peer f) = true := by
  unfold controlAccess
  split
  · exact h
  · split
    · exact hf s h
    · exact memWf_replyWith _ _ _ h

theorem memWf_windowAccess (s : State) (w : WindowAccess) (f : State → State) (hf : ∀ t, memWf t = true → memWf (f t) = true)
    (h : memWf s = true) : memWf (windowAccess s w f) = true := by
  unfold windowAccess
  split
  · exact memWf_controlAccess _ _ _ _ hf h
  · split
    · exact hf s h
    · split
      · exact memWf_replyWith _ _ _ h
      · exact h

theorem outWf_execLaunchWord (part : Nat) (peer : Nat) (word : DWord) (s : State) (h : memWf s = true) :
    OutWf (execLaunchWord part peer word s) :=
  outWf_next (memWf_controlAccess _ _ _ _ (fun _ k => memWf_putLaunch _ _ _ k) h)

theorem outWf_execPctlEnClear (part : ControlAccess) (s : State) (h : memWf s = true) : OutWf (execPctlEnClear part s) :=
  outWf_next (memWf_controlAccess _ _ _ _ (fun _ k => memWf_clearEn _ _ (memWf_replyWith _ _ _ k)) h)

theorem outWf_execPctlEnSet (part : ControlAccess) (s : State) (h : memWf s = true) : OutWf (execPctlEnSet part s) :=
  outWf_next (memWf_controlAccess _ _ _ _ (fun _ k => memWf_setEn _ _ (memWf_replyWith _ _ _ k)) h)

theorem memWf_controlError (s : State) (w : Window) (info : DWord) (h : memWf s = true) :
    memWf (controlError s w info) = true := by
  unfold controlError
  split
  · exact memWf_logPart _ _ _ _ _ _ _ _ h
  · exact memWf_logAll _ _ _ _ _ _ h

theorem memWf_invalidAccess (s : State) (w : Window) (off : Nat) (isRead : Bool) (h : memWf s = true) :
    memWf (invalidAccess s w off isRead) = true := memWf_controlError _ _ _ (memWf_replyWith _ _ _ h)

theorem outWf_execInvalidControlAccess (w : WindowAccess) (off : Nat) (isRead : Bool) (s : State) (h : memWf s = true) :
    OutWf (execInvalidControlAccess w off isRead s) :=
  outWf_next (memWf_windowAccess _ _ _ (fun _ k => memWf_invalidAccess _ _ _ _ k) h)

theorem memWf_putRequest (s : State) (part : Nat) (value : DWord) (h : memWf s = true) :
    memWf (putRequest s part value) = true := by
  unfold putRequest
  dsimp only
  split
  · exact memWf_replyWith _ _ _ h
  · exact memWf_modPart_same _ _ _ (fun _ => rfl) (fun _ => rfl) (memWf_replyWith _ _ _ h)

theorem memWf_writeControl (s : State) (part off : Nat) (value : List DWord) (h : memWf s = true) :
    memWf (writeControl s part off value) = true := by
  unfold writeControl
  split
  · exact memWf_putLaunch _ _ _ h
  · split
    · exact memWf_setEn _ _ (memWf_replyWith _ _ _ h)
    · exact memWf_clearEn _ _ (memWf_replyWith _ _ _ h)
  · exact memWf_replyWith _ _ _ h
  · exact memWf_putRequest _ _ _ h
  · exact memWf_invalidAccess _ _ _ _ h

theorem wf_writeMgmt (m : Mgmt) (off : Nat) (value : List DWord) (h : Memory.wf m.stage = true) :
    Memory.wf (writeMgmt m off value).stage = true := by
  unfold writeMgmt
  split
  · exact h
  · split
    · exact h
    · split
      · exact h
      · split
        · exact wf_mputs _ _ _ h
        · exact h

theorem memWf_writeManagement (s : State) (off : Nat) (value : List DWord) (h : memWf s = true) :
    memWf (writeManagement s off value) = true := by
  unfold writeManagement
  split
  · exact memWf_invalidAccess _ _ _ _ h
  · split
    · exact h
    · have w := (memWf_iff s).1 h
      have k : memWf { s with mgmt := writeMgmt s.mgmt off value } = true :=
        (memWf_iff _).2 { w with stage := wf_writeMgmt s.mgmt off value w.stage }
      exact memWf_replyWith _ _ _ k

theorem outWf_execRegisterWrite (w : WindowAccess) (off : Nat) (value : List DWord) (s : State) (h : memWf s = true) :
    OutWf (execRegisterWrite w off value s) := by
  unfold execRegisterWrite
  refine outWf_next (memWf_windowAccess _ _ _ (fun t k => ?_) h)
  split
  · exact memWf_writeControl _ _ _ _ k
  · exact memWf_writeManagement _ _ _ k

theorem memWf_blockAddr (s : State) (p c : Nat) (va : DWord) (h : memWf s = true) : memWf (blockAddr s p c va).1 = true := by
  unfold blockAddr
  split
  · exact h
  · split
    · next heq1 => exact memWf_fst heq1 (memWf_checkPages _ _ _ _ _ _ _ _ h)
    · next heq1 => exact memWf_fst heq1 (memWf_checkPages _ _ _ _ _ _ _ _ h)

theorem laneWf_served (va : DWord) (l : Lane) (h : laneWf l = true) : laneWf (match l.hold with
    | .svc next a => if a = va then { l with npc := next, hold := .none, once := false } else l
    | _ => l) = true := by
  split
  · split
    · exact laneWf_same h rfl rfl
    · exact h
  · exact h

theorem blockWf_answered (c : Nat) (va : DWord) (b : Block) (h : blockWf b = true) : blockWf (b.answered c va) = true := by
  unfold Block.answered
  split
  · exact blockWf_mapLanes b _ (fun l hl => laneWf_served va l hl) h
  · exact h

theorem memWf_releaseAsker (s : State) (p c : Nat) (va : DWord) (h : memWf s = true) : memWf (releaseAsker s p c va) = true := by
  unfold releaseAsker
  extract_lets t
  have ht : memWf t = true := by
    refine memWf_mapBlocks s (fun b => if b.part = p then b.answered c va else b) (fun b hb => ?_) h
    split
    · exact blockWf_answered c va b hb
    · exact hb
  refine memWf_modPart t p _ (fun q hq => ?_) ht
  exact partWf_same (partWf_map q (Block.answered c va)
    (fun v => { v with blocks := v.blocks.map (Block.answered c va), resume := v.resume.map (Block.answered c va) })
    (fun b hb => blockWf_answered c va b hb)
    (fun v hv => savedWf_mapBlocks v _ _ (fun b hb => blockWf_answered c va b hb) (fun b hb => blockWf_answered c va b hb) hv) hq) rfl rfl

theorem memWf_dropRequest (s : State) (p : Nat) (h : memWf s = true) : memWf (dropRequest s p) = true :=
  memWf_modPart_same _ _ _ (fun _ => rfl) (fun _ => rfl) h

theorem memWf_serve (part ctx : Nat) (va : DWord) (k : Nat → Bool) (may : Bool → Bool) (f : List Byte → State → Served) (s : State)
    (hf : ∀ b t, memWf t = true → memWf (f b t).state = true) (h : memWf s = true) : memWf (serve part ctx va k may f s) = true := by
  unfold serve
  split
  · exact h
  · split
    · exact h
    · split
      next e => exact memWf_dropRequest _ _ (memWf_fst e (memWf_blockAddr _ _ _ _ h))
      next t pa e =>
        have ht : memWf t = true := memWf_fst e (memWf_blockAddr _ _ _ _ h)
        extract_lets blk r u
        have hr : memWf r.state = true := by
          unfold r
          split
          · exact hf blk t ht
          · exact ht
        have hu : memWf u = true := memWf_foldl _ (fun t o k => memWf_writeRuns t _ _ k) _ _ hr
        split
        · exact h
        · split
          · exact memWf_dropRequest _ _ hu
          · exact memWf_releaseAsker _ _ _ _ hu

theorem memWf_bufferAt (s : State) (p c : Nat) (va : DWord) (n : Nat) (write : Bool) (h : memWf s = true) :
    memWf (bufferAt s p c va n write).1 = true := by
  unfold bufferAt
  split
  · exact h
  · split
    · next heq1 => exact memWf_fst heq1 (memWf_checkPages _ _ _ _ _ _ _ _ h)
    · next heq1 => exact memWf_fst heq1 (memWf_checkPages _ _ _ _ _ _ _ _ h)

theorem memWf_doneOk (s : State) (p c trc : Nat) (va : DWord) (h : memWf s = true) : memWf (doneOk s p c trc va).1 = true := by
  unfold doneOk
  split
  · next heq => exact memWf_fst heq (memWf_translateMover _ _ _ _ _ _ h)
  · next heq => exact memWf_fst heq (memWf_translateMover _ _ _ _ _ _ h)

theorem memWf_allocAll (s : State) (p c : Nat) (os : List Obj) (h : memWf s = true) : memWf (allocAll s p c os).1 = true := by
  induction os generalizing s with
  | nil => exact h
  | cons o os ih =>
    unfold allocAll
    split
    next e => exact memWf_fst e (memWf_allocHandle _ _ _ _ h)
    next e =>
      have k := ih _ (memWf_fst e (memWf_allocHandle _ _ _ _ h))
      split
      next e' => exact memWf_fst e' k
      · exact k

/-- The function is unfolded as a whole: a step by step check of its first match would evaluate the place that it asks for. -/
theorem memWf_stateTile (s : State) (p c : Nat) (r : List Byte) (h : memWf s = true) : memWf (stateTile s p c r) = true := by
  obtain ⟨f, hf⟩ : ∃ f, f = @stateTile := ⟨_, rfl⟩
  rw [← hf]
  delta stateTile at hf
  subst hf
  beta_reduce
  extract_lets +onlyGivenNames d
  generalize dspAddr d (num r 0 1 * 2 ^ 25 + num r 4 4) (num r 8 4) = o
  cases o with
  | none => exact h
  | some a =>
    dsimp only
    split
    · exact memWf_feRetry _ (memWf_setFulls _ _ _ _ h)
    next v e =>
      have hv : savedWf v = true := savedWf_ctxOf h e
      exact memWf_modCtx _ _ _ _ (fun _ _ => hv) h

theorem memWf_landFrame (s : State) (f : Nat) (h : memWf s = true) : memWf (landFrame s f) = true := memWf_landWhere _ _ _ h

theorem memWf_install (s : State) (p c slot gen num9 : Nat) (r : RegReq) (x : ObjFile) (old : Option Version)
    (img : List Byte) (frames : List Nat) (handles : List Word) (h : memWf s = true) :
    memWf (install s p c slot gen num9 r x old img frames handles) = true := by
  unfold install
  extract_lets offs v src s1 leaf s2
  have h1 : memWf s1 = true := (memWf_fillFrames s old img frames h : memWf (fillFrames s old img frames) = true)
  clear_value s1
  have h2 : memWf s2 = true := memWf_foldl leaf (fun t k ht => memWf_setLeaf t p _ _ _ ht) _ s1 h1
  clear_value s2
  exact memWf_modCtx_same s2 p c _ (fun _ => rfl) h2

theorem memWf_build (p c : Nat) (frames : List Nat) (y : Building) (old : Option Version) (s : State) (h : memWf s = true) :
    memWf (build p c frames y old s).state = true := by
  have h1 : memWf ((records 16 (y.x.only 9)).foldl (fun t q => stateTile t p c q) s) = true :=
    memWf_foldl (fun t q => stateTile t p c q) (fun t q k => memWf_stateTile t p c q k) _ s h
  unfold build
  generalize (records 16 (y.x.only 9)).foldl (fun t q => stateTile t p c q) s = t1 at h1 ⊢
  have h2 := memWf_install t1 p c y.slot y.gen y.nver y.r y.x old y.img frames y.handles h1
  dsimp only
  generalize install t1 p c y.slot y.gen y.nver y.r y.x old y.img frames y.handles = t2 at h2 ⊢
  split
  · exact memWf_retireGraph _ _ h2
  · exact h2

theorem memWf_registerObject (p c : Nat) (frames : List Nat) (b : List Byte) (s : State) (h : memWf s = true) :
    memWf (registerObject p c frames b s).state = true := by
  unfold registerObject
  extract_lets r old slot full
  clear_value slot full old r
  have k := memWf_bufferAt s p c r.objva r.objlen false h
  split
  next e => exact memWf_fst e k
  next t rs e =>
    have ht : memWf t = true := memWf_fst e k
    split
    · exact ht
    · extract_lets o x offs tiles n taken hs oldV d
      clear_value o x offs tiles n hs
      split
      · exact ht
      · exact ht
      · exact ht
      next img slot' _ _ =>
        extract_lets size
        split
        · exact ht
        · split
          · exact memWf_doneOk _ _ _ _ _ ht
          · exact memWf_build _ _ _ _ _ _ (memWf_allocAll _ _ _ _ ht)

theorem outWf_execRegisterGraph (part : Nat) (ctx : Nat) (va : DWord) (frames : List Nat) (s : State) (h : memWf s = true) :
    OutWf (execRegisterGraph part ctx va frames s) :=
  outWf_next (memWf_serve _ _ _ _ _ _ _ (fun b t k => memWf_registerObject part ctx frames b t k) h)

theorem memWf_unregister (p c : Nat) (b : List Byte) (s : State) (h : memWf s = true) : memWf (unregister p c b s).state = true := by
  unfold unregister
  extract_lets n slot mine
  clear_value slot n mine
  split
  · exact h
  next g _ =>
    extract_lets t1 gone t2 t3
    have h1 : memWf t1 = true := memWf_modCtx_same s p c _ (fun _ => rfl) h
    have h2 : memWf t2 = true := memWf_modPart_same t1 p _ (fun _ => rfl) (fun _ => rfl) h1
    clear_value t2 gone
    have h3 : memWf t3 = true := by
      unfold t3
      split
      · exact h2
      · exact memWf_logPart _ _ _ _ _ _ _ _ h2
    clear_value t3
    dsimp only
    split
    · exact memWf_retireGraph _ _ h3
    · exact h3

theorem outWf_execUnregisterGraph (part : Nat) (ctx : Nat) (va : DWord) (s : State) (h : memWf s = true) :
    OutWf (execUnregisterGraph part ctx va s) :=
  outWf_next (memWf_serve _ _ _ _ _ _ _ (fun b t k => memWf_unregister part ctx b t k) h)

theorem memWf_attest (p c : Nat) (b : List Byte) (s : State) (h : memWf s = true) : memWf (attest p c b s).state = true := by
  unfold attest
  have k := memWf_bufferAt s p c (BitVec.ofNat 64 (num b 0x28 8)) 16384 true h
  split
  next e => exact memWf_fst e k
  next t rs e =>
    have ht : memWf t = true := memWf_fst e k
    split
    · exact memWf_logUnit _ _ _ _ _ _ _ _ ht
    · extract_lets out
      clear_value out
      split
      · exact ht
      · exact memWf_writeRuns _ _ _ ht

theorem outWf_execAttestationReport (part : Nat) (ctx : Nat) (va : DWord) (s : State) (h : memWf s = true) :
    OutWf (execAttestationReport part ctx va s) :=
  outWf_next (memWf_serve _ _ _ _ _ _ _ (fun b t k => memWf_attest part ctx b t k) h)

theorem memWf_setWindow (p : Nat) (b : List Byte) (s : State) (h : memWf s = true) : memWf (setWindow p b s).state = true := by
  unfold setWindow
  extract_lets d die n w others mine
  clear_value die n w others mine
  split
  · exact h
  · exact h

theorem outWf_execFormatWindowSetup (part : Nat) (ctx : Nat) (va : DWord) (s : State) (h : memWf s = true) :
    OutWf (execFormatWindowSetup part ctx va s) :=
  outWf_next (memWf_serve _ _ _ _ _ _ _ (fun b t k => memWf_setWindow part b t k) h)

theorem memWf_setMembers (p : Nat) (b : List Byte) (s : State) (h : memWf s = true) : memWf (setMembers p b s).state = true := by
  unfold setMembers
  extract_lets unit n rank
  clear_value unit n rank
  split
  · exact h
  · exact h

theorem outWf_execCollectiveMemberTable (part : Nat) (ctx : Nat) (va : DWord) (s : State) (h : memWf s = true) :
    OutWf (execCollectiveMemberTable part ctx va s) :=
  outWf_next (memWf_serve _ _ _ _ _ _ _ (fun b t k => memWf_setMembers part b t k) h)

theorem memWf_grantWindow (p c : Nat) (b : List Byte) (s : State) (h : memWf s = true) : memWf (grantWindow p c b s).state = true := by
  unfold grantWindow
  extract_lets d k there g
  clear_value there g
  split
  · exact h
  · exact memWf_modPart_same s p _ (fun _ => rfl) (fun _ => rfl) h

theorem outWf_execWindowGrant (part : Nat) (ctx : Nat) (va : DWord) (s : State) (h : memWf s = true) :
    OutWf (execWindowGrant part ctx va s) :=
  outWf_next (memWf_serve _ _ _ _ _ _ _ (fun b t k => memWf_grantWindow part ctx b t k) h)

theorem memWf_readLog (p c : Nat) (b : List Byte) (s : State) (h : memWf s = true) : memWf (readLog p c b s).state = true := by
  unfold readLog
  extract_lets most
  clear_value most
  split
  · exact h
  · generalize logFrom (partOf s p) (num b 4 4) most = r
    obtain ⟨rs, next, lost⟩ := r
    dsimp only
    have k := memWf_bufferAt s p c (BitVec.ofNat 64 (num b 8 8)) (32 * rs.length) true h
    split
    next e => exact memWf_fst e k
    next e => exact memWf_writeRuns _ _ _ (memWf_fst e k)

theorem outWf_execEventLogRead (part : Nat) (ctx : Nat) (va : DWord) (s : State) (h : memWf s = true) :
    OutWf (execEventLogRead part ctx va s) :=
  outWf_next (memWf_serve _ _ _ _ _ _ _ (fun b t k => memWf_readLog part ctx b t k) h)

end Sys2Proof.Proofs
end

section
/-! PROOF of O59: the management context. -/

namespace Sys2Proof.Proofs

open Sys2Proof Sys2Proof.Machine Sys2Proof.Laws

theorem memWf_finishMgmt (s : State) (code : Nat) (h : memWf s = true) : memWf (finishMgmt s code) = true := h

theorem memWf_serveMgmt (k : Nat) (f : List Byte → State → State × Nat) (s : State)
    (hf : ∀ m t, memWf t = true → memWf (f m t).1 = true) (h : memWf s = true) : memWf (serveMgmt k f s) = true := by
  unfold serveMgmt
  extract_lets m r
  split
  · exact h
  · split
    · exact memWf_finishMgmt _ _ h
    · exact memWf_finishMgmt _ _ (hf m s h)

/-- The contexts of a partition, each changed in what is no memory. -/
theorem partWf_ctxs (q : Part) (cs : Cells Ctx) (hc : ∀ c ∈ cs, (c.2.saved.map savedWf).getD true = true) (h : partWf q = true) :
    partWf { q with ctxs := cs } = true := by
  simp only [partWf, Bool.and_eq_true, List.all_eq_true] at h ⊢
  exact ⟨h.1, hc⟩

theorem savedWf_ctxs {q : Part} (h : partWf q = true) : ∀ c ∈ q.ctxs, (c.2.saved.map savedWf).getD true = true := by
  simp only [partWf, Bool.and_eq_true, List.all_eq_true] at h
  exact h.2

theorem savedWf_cmds (v : Saved) (cs : List Cmd) (h : savedWf v = true) : savedWf { v with cmds := cs } = true := h

theorem memWf_moveWindows (s : State) (p : Nat) (o d : Desc) (h : memWf s = true) : memWf (moveWindows s p o d) = true := by
  unfold moveWindows
  extract_lets f mine data full gran bad t gone u
  have w := (memWf_iff s).1 h
  have ht : memWf t = true := by
    refine (memWf_iff _).2 { w with dsp := wf_foldl _ (fun m e hm => ?_) data _ (wf_filter _ _ w.dsp) }
    split
    · exact wf_mput _ _ _ hm
    · exact hm
  clear_value gone
  have hu : memWf u = true := memWf_modPart t p _ (fun q hq => partWf_ctxs q _ (List.forall_mem_map.2 fun c hc =>
    savedWf_map c.2.saved (fun v => { v with cmds := v.cmds.map (Cmd.moved f) }) (fun v hv => savedWf_cmds v _ hv)
      (savedWf_ctxs hq c hc)) hq) ht
  exact memWf_settleFamilies _ (memWf_foldl _ (fun _ _ k => memWf_dropRecs _ _ _ _ k) _ _ hu)

theorem limited_saved (s : State) (p c : Nat) (v : BitVec 36) (x : Ctx) : (x.limited s p c v).saved = x.saved := by
  unfold Ctx.limited
  extract_lets y fits ks
  split <;> rfl

theorem memWf_limitSplits (s : State) (p : Nat) (h : memWf s = true) : memWf (limitSplits s p) = true := by
  unfold limitSplits
  split
  · exact h
  · refine memWf_modPart _ _ _ (fun q hq => partWf_ctxs q _ (List.forall_mem_map.2 fun c hc => ?_) hq) h
    dsimp only
    rw [limited_saved]
    exact savedWf_ctxs hq c hc

theorem memWf_clearEngines (s : State) (p : Nat) (o d : Desc) (h : memWf s = true) : memWf (clearEngines s p o d) = true :=
  memWf_foldl _ (fun _ _ k => memWf_releaseBfq _ _ _ k) _ _ (memWf_discardCmds _ _ h)

theorem memWf_vacate (s : State) (p : Nat) (ks : List Nat) (h : memWf s = true) : memWf (vacate s p ks) = true :=
  memWf_foldl _ (fun _ _ k => (memWf_modCore _ _ _).trans k) _ _ h

theorem memWf_leaveWindows (s : State) (o d : Desc) (h : memWf s = true) : memWf (leaveWindows s o d) = true := by
  unfold leaveWindows
  dsimp only
  refine memWf_foldl _ (fun _ _ k => memWf_dropLine _ _ (memWf_poolMerge _ _ k)) _ _ ?_
  have w := (memWf_iff _).1 h
  exact (memWf_iff _).2 { w with host := wf_foldl _ (fun _ _ h => wf_mput _ _ _ h) _ _ w.host }

theorem memWf_putDescriptor (m : List Byte) (s : State) (h : memWf s = true) : memWf (putDescriptor m s).1 = true := by
  unfold putDescriptor
  extract_lets p off b d o t1 t2 q q2 fmt t3
  clear_value p off d
  split
  · exact h
  · split
    · exact h
    · split
      · exact h
      · have h1 : memWf t1 = true := memWf_clearEngines _ _ _ _ (memWf_leaveWindows _ _ _ (memWf_landAll s p _ h))
        clear_value t1
        have h2 : memWf t2 = true := by
          unfold t2
          split
          · exact h1
          · exact memWf_moveWindows _ _ _ _ h1
        clear_value t2
        have w := (memWf_iff t2).1 h2
        have hq : partWf q2 = true := partWf_same (partWf_partOf h2 p) rfl rfl
        have h3 : memWf { t2 with parts := cset t2.parts p q2, fmt := fmt } = true :=
          (memWf_iff _).2 { w with parts := all_cset (P := fun q => partWf q = true) w.parts p hq }
        exact memWf_limitSplits _ _ (memWf_vacate _ p _ h3)

theorem outWf_execWritePartitionDescriptor (s : State) (h : memWf s = true) : OutWf (execWritePartitionDescriptor s) :=
  outWf_next (memWf_serveMgmt _ _ _ (fun _ _ k => memWf_putDescriptor _ _ k) h)

theorem partWf_addCtx (q : Part) (c : Nat) (h : partWf q = true) :
    partWf { q with ctxs := cset q.ctxs c { saved := some {} } } = true :=
  partWf_ctxs q _ (all_cset (P := fun x : Ctx => (x.saved.map savedWf).getD true = true) (savedWf_ctxs h) c rfl) h

theorem memWf_addContext (m : List Byte) (s : State) (h : memWf s = true) : memWf (addContext m s).1 = true := by
  unfold addContext
  extract_lets p c
  clear_value p c
  split
  · exact h
  · split
    · exact h
    · have k : memWf (modPart s p fun q => { q with ctxs := cset q.ctxs c { saved := some {} } }) = true :=
        memWf_modPart s p _ (fun q hq => partWf_addCtx q c hq) h
      split
      · exact h
      · split
        · exact k
        · have k' := memWf_startCtx _ p c k
          dsimp only
          exact k'

theorem outWf_execCreateTenantContext (s : State) (h : memWf s = true) : OutWf (execCreateTenantContext s) :=
  outWf_next (memWf_serveMgmt _ _ _ (fun _ _ k => memWf_addContext _ _ k) h)

theorem memWf_dropContext (m : List Byte) (s : State) (h : memWf s = true) : memWf (dropContext m s).1 = true := by
  unfold dropContext
  extract_lets p c was t
  clear_value p c
  split
  · exact h
  · split
    · exact h
    · have ht : memWf t = true := memWf_modPart _ p _ (fun q hq =>
        partWf_same (partWf_ctxs q _ (fun x hx => savedWf_ctxs hq x (mem_cdel hx)) hq) rfl rfl) (memWf_killCtx s p c h)
      dsimp only
      split
      · exact memWf_goOn _ _ _ ht
      · exact ht

theorem outWf_execDestroyTenantContext (s : State) (h : memWf s = true) : OutWf (execDestroyTenantContext s) :=
  outWf_next (memWf_serveMgmt _ _ _ (fun _ _ k => memWf_dropContext _ _ k) h)

theorem memWf_putEndpoint (m : List Byte) (s : State) (h : memWf s = true) : memWf (putEndpoint m s).1 = true := by
  unfold putEndpoint
  dsimp only
  split
  · split
    · exact h
    · split
      · exact h
      · dsimp only
        exact memWf_modPart_same _ _ _ (fun _ => rfl) (fun _ => rfl) h
  · split
    · exact h
    · split
      · exact h
      · dsimp only
        exact memWf_modPart_same _ _ _ (fun _ => rfl) (fun _ => rfl) h

theorem outWf_execConfigureEndpointContext (s : State) (h : memWf s = true) : OutWf (execConfigureEndpointContext s) :=
  outWf_next (memWf_serveMgmt _ _ _ (fun _ _ k => memWf_putEndpoint _ _ k) h)

theorem memWf_lend (m : List Byte) (s : State) (h : memWf s = true) : memWf (lend m s).1 = true := by
  unfold lend
  dsimp only
  split
  · exact h
  · split
    · exact h
    · split
      · exact h
      · dsimp only
        exact memWf_modPart_same _ _ _ (fun _ => rfl) (fun _ => rfl) (memWf_vacate _ _ _ (memWf_modPart_same _ _ _
            (fun _ => rfl) (fun _ => rfl) h))

theorem outWf_execLendConstellation (s : State) (h : memWf s = true) : OutWf (execLendConstellation s) :=
  outWf_next (memWf_serveMgmt _ _ _ (fun _ _ k => memWf_lend _ _ k) h)

theorem memWf_parkBlock (s : State) (b : Block) (h : memWf s = true) : memWf (parkBlock s b) = true := by
  unfold parkBlock
  extract_lets t1 t2
  have h1 : memWf t1 = true := memWf_foldl _ (fun _ _ k => memWf_cancelFe _ _ _ k) _ s h
  have h2 : memWf t2 = true := by
    unfold t2
    split
    · exact memWf_haltOp _ _ h1
    · exact h1
  clear_value t2
  split
  · exact h2
  next x e =>
    extract_lets b1 image src b2 t3 t4 t5
    have hb1 : blockWf b1 = true := blockWf_cancelRound x (blockWf_blockOf e h2)
    have hb2 : blockWf b2 = true :=
      (blockWf_leaves [(b1.core, coreOf t2 b1.core)] b1 hb1 : blockWf (takeLease [(b1.core, coreOf t2 b1.core)] b1).reask = true)
    clear_value b2
    have h4 : memWf t4 = true := memWf_filterBlocks _ _ (memWf_leaveCore t2 b2 h2)
    have h5 : memWf t5 = true := memWf_modCluster t4 _ _ (fun _ hk => hk) h4
    refine memWf_modPart t5 _ _ (fun q hq => partWf_resume q _ ?_ hq) h5
    exact List.forall_mem_append.2 ⟨List.forall_mem_append.2 ⟨fun y hy => blockWf_resume hq y (List.mem_of_mem_filter hy),
      List.forall_mem_singleton.2 hb2⟩, fun y hy => blockWf_resume hq y (List.mem_of_mem_filter hy)⟩

theorem memWf_evict (s : State) (y : Nat) (id : Nat) (h : memWf s = true) : memWf (evict s y id) = true := by
  unfold evict
  split
  · exact h
  next b e =>
    extract_lets own alone moved
    clear_value own alone
    refine memWf_getD _ _ ?_ (memWf_parkBlock _ _ h)
    unfold moved
    split
    · exact optWf_bind _ _ fun core _ => optWf_moveSame s b core (blockWf_blockOf e h) h
    · trivial

theorem memWf_reclaim (m : List Byte) (s : State) (h : memWf s = true) : memWf (reclaim m s).1 = true := by
  unfold reclaim
  dsimp only
  split
  · exact h
  · split
    · exact h
    · split
      · exact h
      · dsimp only
        exact memWf_modPart_same _ _ _ (fun _ => rfl) (fun _ => rfl) (memWf_vacate _ _ _ (memWf_modPart_same _ _ _
            (fun _ => rfl) (fun _ => rfl) (memWf_foldl _ (fun _ _ k => memWf_evict _ _ _ k) _ _ h)))

theorem outWf_execReclaimConstellation (s : State) (h : memWf s = true) : OutWf (execReclaimConstellation s) :=
  outWf_next (memWf_serveMgmt _ _ _ (fun _ _ k => memWf_reclaim _ _ k) h)

theorem memWf_setCap (m : List Byte) (s : State) (h : memWf s = true) : memWf (setCap m s).1 = true := by
  unfold setCap
  dsimp only
  split <;> exact h

theorem outWf_execSetCapAndMode (s : State) (h : memWf s = true) : OutWf (execSetCapAndMode s) :=
  outWf_next (memWf_serveMgmt _ _ _ (fun _ _ k => memWf_setCap _ _ k) h)

theorem memWf_putChunk (m : List Byte) (s : State) (h : memWf s = true) : memWf (putChunk m s).1 = true := by
  unfold putChunk
  dsimp only
  split
  · exact h
  · split
    · exact h
    · split <;> exact h

theorem outWf_execWriteFirmwareChunk (s : State) (h : memWf s = true) : OutWf (execWriteFirmwareChunk s) :=
  outWf_next (memWf_serveMgmt _ _ _ (fun _ _ k => memWf_putChunk _ _ k) h)

theorem outWf_execMgoWriteWhileBusy (s : State) (h : memWf s = true) : OutWf (execMgoWriteWhileBusy s) := by
  unfold execMgoWriteWhileBusy
  refine outWf_next ?_
  split
  · exact memWf_controlError _ _ _ (memWf_replyWith _ _ _ h)
  · exact h

theorem outWf_execUnknownRequestKind (w : Window) (ctx : Nat) (va : DWord) (s : State) (h : memWf s = true) :
    OutWf (execUnknownRequestKind w ctx va s) := by
  unfold execUnknownRequestKind
  split
  · exact outWf_next (memWf_serve _ _ _ _ _ _ _ (fun _ _ k => k) h)
  · extract_lets k
    clear_value k
    refine outWf_next ?_
    split
    · exact memWf_finishMgmt _ _ h
    · exact h

end Sys2Proof.Proofs
end

section
/-! PROOF of O59: the instruction that a step executes, and what every step looks at after it, keep the memories canonical. -/

namespace Sys2Proof.Proofs

open Sys2Proof Sys2Proof.Machine Sys2Proof.Laws

/-- Every instruction and every event of the table keeps the memories canonical. -/
theorem outWf_exec (i : Instr) (s : State) (h : memWf s = true) : OutWf (exec i s) := by
  cases i with
  | lsysNop x => exact outWf_execLsysNop x s h
  | lsysLane d x => exact outWf_execLsysLane d x s h
  | lsysTid d x => exact outWf_execLsysTid d x s h
  | lsysGrp d sel x => exact outWf_execLsysGrp d sel x s h
  | lsysClk d x => exact outWf_execLsysClk d x s h
  | lsysBrk x => exact outWf_execLsysBrk x s h
  | ialuAdd d a b x => exact outWf_execIaluAdd d a b x s h
  | ialuSub d a b x => exact outWf_execIaluSub d a b x s h
  | ialuAnd d a b x => exact outWf_execIaluAnd d a b x s h
  | ialuOr d a b x => exact outWf_execIaluOr d a b x s h
  | ialuXor d a b x => exact outWf_execIaluXor d a b x s h
  | ialuAndn d a b x => exact outWf_execIaluAndn d a b x s h
  | ialuShl d a b x => exact outWf_execIaluShl d a b x s h
  | ialuShr d a b x => exact outWf_execIaluShr d a b x s h
  | ialuSar d a b x => exact outWf_execIaluSar d a b x s h
  | ialuMins d a b x => exact outWf_execIaluMins d a b x s h
  | ialuMaxs d a b x => exact outWf_execIaluMaxs d a b x s h
  | ialuMinn d a b x => exact outWf_execIaluMinn d a b x s h
  | ialuMaxn d a b x => exact outWf_execIaluMaxn d a b x s h
  | ialuAbs d a x => exact outWf_execIaluAbs d a x s h
  | iaddi d a imm x => exact outWf_execIaddi d a imm x s h
  | andi d a imm x => exact outWf_execAndi d a imm x s h
  | ori d a imm x => exact outWf_execOri d a imm x s h
  | xori d a imm x => exact outWf_execXori d a imm x s h
  | ishiShl d a n x => exact outWf_execIshiShl d a n x s h
  | ishiShr d a n x => exact outWf_execIshiShr d a n x s h
  | ishiSar d a n x => exact outWf_execIshiSar d a n x s h
  | ishiRol d a n x => exact outWf_execIshiRol d a n x s h
  | movi d imm x => exact outWf_execMovi d imm x s h
  | movhi d imm x => exact outWf_execMovhi d imm x s h
  | imulLo d a b x => exact outWf_execImulLo d a b x s h
  | imulHis d a b x => exact outWf_execImulHis d a b x s h
  | imulHin d a b x => exact outWf_execImulHin d a b x s h
  | imulWides d a b x => exact outWf_execImulWides d a b x s h
  | imulWiden d a b x => exact outWf_execImulWiden d a b x s h
  | imulMad d a b x => exact outWf_execImulMad d a b x s h
  | ibitPopc d a x => exact outWf_execIbitPopc d a x s h
  | ibitClz d a x => exact outWf_execIbitClz d a x s h
  | ibitCtz d a x => exact outWf_execIbitCtz d a x s h
  | ibitBrev d a x => exact outWf_execIbitBrev d a x s h
  | ibitBfxs d a b x => exact outWf_execIbitBfxs d a b x s h
  | ibitBfxn d a b x => exact outWf_execIbitBfxn d a b x s h
  | ibitBfi d a b x => exact outWf_execIbitBfi d a b x s h
  | icmpEq pd comb a b x => exact outWf_execIcmpEq pd comb a b x s h
  | icmpNe pd comb a b x => exact outWf_execIcmpNe pd comb a b x s h
  | icmpLts pd comb a b x => exact outWf_execIcmpLts pd comb a b x s h
  | icmpLes pd comb a b x => exact outWf_execIcmpLes pd comb a b x s h
  | icmpGts pd comb a b x => exact outWf_execIcmpGts pd comb a b x s h
  | icmpGes pd comb a b x => exact outWf_execIcmpGes pd comb a b x s h
  | icmpLtn pd comb a b x => exact outWf_execIcmpLtn pd comb a b x s h
  | icmpLen pd comb a b x => exact outWf_execIcmpLen pd comb a b x s h
  | icmpGtn pd comb a b x => exact outWf_execIcmpGtn pd comb a b x s h
  | icmpGen pd comb a b x => exact outWf_execIcmpGen pd comb a b x s h
  | plogAnd pd comb a b x => exact outWf_execPlogAnd pd comb a b x s h
  | plogOr pd comb a b x => exact outWf_execPlogOr pd comb a b x s h
  | plogXor pd comb a b x => exact outWf_execPlogXor pd comb a b x s h
  | plogAndn pd comb a b x => exact outWf_execPlogAndn pd comb a b x s h
  | plogOrn pd comb a b x => exact outWf_execPlogOrn pd comb a b x s h
  | cmovNz d a b x => exact outWf_execCmovNz d a b x s h
  | cmovZ d a b x => exact outWf_execCmovZ d a b x s h
  | cmovRdp d x => exact outWf_execCmovRdp d x s h
  | cmovWrp a b x => exact outWf_execCmovWrp a b x s h
  | lanexShfl d a b x => exact outWf_execLanexShfl d a b x s h
  | lanexShflx d a b x => exact outWf_execLanexShflx d a b x s h
  | lanexShflup d a b x => exact outWf_execLanexShflup d a b x s h
  | lanexShfldn d a b x => exact outWf_execLanexShfldn d a b x s h
  | lanexBallot d p x => exact outWf_execLanexBallot d p x s h
  | lanexAny d p x => exact outWf_execLanexAny d p x s h
  | lanexAll d p x => exact outWf_execLanexAll d p x s h
  | lanexMatch d a x => exact outWf_execLanexMatch d a x s h
  | lanexRedadd d a x => exact outWf_execLanexRedadd d a x s h
  | lanexRedmins d a x => exact outWf_execLanexRedmins d a x s h
  | lanexRedmaxs d a x => exact outWf_execLanexRedmaxs d a x s h
  | lanexRedand d a x => exact outWf_execLanexRedand d a x s h
  | lanexRedor d a x => exact outWf_execLanexRedor d a x s h
  | lanexRedxor d a x => exact outWf_execLanexRedxor d a x s h
  | lanexNpath d x => exact outWf_execLanexNpath d x s h
  | faddAdd d a b x => exact outWf_execFaddAdd d a b x s h
  | faddSub d a b x => exact outWf_execFaddSub d a b x s h
  | faddMin d a b x => exact outWf_execFaddMin d a b x s h
  | faddMax d a b x => exact outWf_execFaddMax d a b x s h
  | faddAdd2h d a b x => exact outWf_execFaddAdd2h d a b x s h
  | faddSub2h d a b x => exact outWf_execFaddSub2h d a b x s h
  | faddAdd2b d a b x => exact outWf_execFaddAdd2b d a b x s h
  | faddSub2b d a b x => exact outWf_execFaddSub2b d a b x s h
  | faddAbs d a x => exact outWf_execFaddAbs d a x s h
  | faddNeg d a x => exact outWf_execFaddNeg d a x s h
  | faddCsgn d a b x => exact outWf_execFaddCsgn d a b x s h
  | fmulMul d a b x => exact outWf_execFmulMul d a b x s h
  | fmulMul2h d a b x => exact outWf_execFmulMul2h d a b x s h
  | fmulMul2b d a b x => exact outWf_execFmulMul2b d a b x s h
  | ffmaFma d a b x => exact outWf_execFfmaFma d a b x s h
  | ffmaFma2h d a b x => exact outWf_execFfmaFma2h d a b x s h
  | ffmaFma2b d a b x => exact outWf_execFfmaFma2b d a b x s h
  | ffmaFms d a b x => exact outWf_execFfmaFms d a b x s h
  | ffmaFnma d a b x => exact outWf_execFfmaFnma d a b x s h
  | fcmpEq pd comb a b x => exact outWf_execFcmpEq pd comb a b x s h
  | fcmpNe pd comb a b x => exact outWf_execFcmpNe pd comb a b x s h
  | fcmpLt pd comb a b x => exact outWf_execFcmpLt pd comb a b x s h
  | fcmpLe pd comb a b x => exact outWf_execFcmpLe pd comb a b x s h
  | fcmpGt pd comb a b x => exact outWf_execFcmpGt pd comb a b x s h
  | fcmpGe pd comb a b x => exact outWf_execFcmpGe pd comb a b x s h
  | fcmpUn pd comb a b x => exact outWf_execFcmpUn pd comb a b x s h
  | fcmpOrd pd comb a b x => exact outWf_execFcmpOrd pd comb a b x s h
  | fspecRcp d a x => exact outWf_execFspecRcp d a x s h
  | fspecRsqrt d a x => exact outWf_execFspecRsqrt d a x s h
  | fspecSqrt d a x => exact outWf_execFspecSqrt d a x s h
  | fspecExp2 d a x => exact outWf_execFspecExp2 d a x s h
  | fspecLog2 d a x => exact outWf_execFspecLog2 d a x s h
  | fspecSin d a x => exact outWf_execFspecSin d a x s h
  | fspecCos d a x => exact outWf_execFspecCos d a x s h
  | fspecTanh d a x => exact outWf_execFspecTanh d a x s h
  | cvt d a src tgt x => exact outWf_execCvt d a src tgt x s h
  | narrowDot4s d a b x => exact outWf_execNarrowDot4s d a b x s h
  | narrowDot4n d a b x => exact outWf_execNarrowDot4n d a b x s h
  | narrowDot4e4 d a b x => exact outWf_execNarrowDot4e4 d a b x s h
  | narrowDot4e5 d a b x => exact outWf_execNarrowDot4e5 d a b x s h
  | narrowDot2b d a b x => exact outWf_execNarrowDot2b d a b x s h
  | narrowDot2h d a b x => exact outWf_execNarrowDot2h d a b x s h
  | narrowCbdecb d a b x => exact outWf_execNarrowCbdecb d a b x s h
  | narrowCbdech d a b x => exact outWf_execNarrowCbdech d a b x s h
  | narrowCbdecf d a b x => exact outWf_execNarrowCbdecf d a b x s h
  | narrowPke4 d a b x => exact outWf_execNarrowPke4 d a b x s h
  | narrowPke5 d a b x => exact outWf_execNarrowPke5 d a b x s h
  | narrowMxpk d a x => exact outWf_execNarrowMxpk d a x s h
  | narrowMxunpk d a b x => exact outWf_execNarrowMxunpk d a b x s h
  | narrowUpke4 d a x => exact outWf_execNarrowUpke4 d a x s h
  | narrowUpke5 d a x => exact outWf_execNarrowUpke5 d a x s h
  | f64Add d a b x => exact outWf_execF64Add d a b x s h
  | f64Sub d a b x => exact outWf_execF64Sub d a b x s h
  | f64Mul d a b x => exact outWf_execF64Mul d a b x s h
  | f64Fma d a b x => exact outWf_execF64Fma d a b x s h
  | f64Min d a b x => exact outWf_execF64Min d a b x s h
  | f64Max d a b x => exact outWf_execF64Max d a b x s h
  | f64Abs d a x => exact outWf_execF64Abs d a x s h
  | f64Neg d a x => exact outWf_execF64Neg d a x s h
  | ld d a size hs off x => exact outWf_execLd d a size hs off x s h
  | st d a size hs off x => exact outWf_execSt d a size hs off x s h
  | ldl d a size hs off x => exact outWf_execLdl d a size hs off x s h
  | stl d a size hs off x => exact outWf_execStl d a size hs off x s h
  | ldfe d a size hs off x => exact outWf_execLdfe d a size hs off x s h
  | stfe d a size hs off x => exact outWf_execStfe d a size hs off x s h
  | atomAdd d a b x => exact outWf_execAtomAdd d a b x s h
  | atomAnd d a b x => exact outWf_execAtomAnd d a b x s h
  | atomOr d a b x => exact outWf_execAtomOr d a b x s h
  | atomXor d a b x => exact outWf_execAtomXor d a b x s h
  | atomXchg d a b x => exact outWf_execAtomXchg d a b x s h
  | atomMins d a b x => exact outWf_execAtomMins d a b x s h
  | atomMaxs d a b x => exact outWf_execAtomMaxs d a b x s h
  | atomMinn d a b x => exact outWf_execAtomMinn d a b x s h
  | atomMaxn d a b x => exact outWf_execAtomMaxn d a b x s h
  | atomAddf d a b x => exact outWf_execAtomAddf d a b x s h
  | atomCas d a b x => exact outWf_execAtomCas d a b x s h
  | atomAdd64 d a b x => exact outWf_execAtomAdd64 d a b x s h
  | atomXchg64 d a b x => exact outWf_execAtomXchg64 d a b x s h
  | atomCas64 d a b x => exact outWf_execAtomCas64 d a b x s h
  | atomfxAdd a b x => exact outWf_execAtomfxAdd a b x s h
  | atomfxFetch d a b x => exact outWf_execAtomfxFetch d a b x s h
  | pref a size hs off x => exact outWf_execPref a size hs off x s h
  | br p neg disp x => exact outWf_execBr p neg disp x s h
  | brxJmp a x => exact outWf_execBrxJmp a x s h
  | brxCall a x => exact outWf_execBrxCall a x s h
  | call p neg disp x => exact outWf_execCall p neg disp x s h
  | ctlRet x => exact outWf_execCtlRet x s h
  | ctlExit x => exact outWf_execCtlExit x s h
  | ctlYield x => exact outWf_execCtlYield x s h
  | guestDispatch x => exact outWf_execGuestDispatch x s h
  | guestDispatchRg x => exact outWf_execGuestDispatchRg x s h
  | guestRdpc d x => exact outWf_execGuestRdpc d x s h
  | guestWrpc a x => exact outWf_execGuestWrpc a x s h
  | guestAddpc a x => exact outWf_execGuestAddpc a x s h
  | guestRdop d x => exact outWf_execGuestRdop d x s h
  | guestWrop a x => exact outWf_execGuestWrop a x s h
  | mmaAdd va vb acc shape x => exact outWf_execMmaAdd va vb acc shape x s h
  | mmaSet va vb acc shape x => exact outWf_execMmaSet va vb acc shape x s h
  | mmaTri va vb acc shape x => exact outWf_execMmaTri va vb acc shape x s h
  | mmaTriset va vb acc shape x => exact outWf_execMmaTriset va vb acc shape x s h
  | mfragRd d acc b x => exact outWf_execMfragRd d acc b x s h
  | mfragWr d acc b x => exact outWf_execMfragWr d acc b x s h
  | mfragZero acc x => exact outWf_execMfragZero acc x s h
  | usysNop x => exact outWf_execUsysNop x s h
  | usysSvc a x => exact outWf_execUsysSvc a x s h
  | usysTlbiva a b x => exact outWf_execUsysTlbiva a b x s h
  | usysTlbictx a x => exact outWf_execUsysTlbictx a x s h
  | usysRti x => exact outWf_execUsysRti x s h
  | usysBrk x => exact outWf_execUsysBrk x s h
  | ualuAdd d a b x => exact outWf_execUaluAdd d a b x s h
  | ualuSub d a b x => exact outWf_execUaluSub d a b x s h
  | ualuAnd d a b x => exact outWf_execUaluAnd d a b x s h
  | ualuOr d a b x => exact outWf_execUaluOr d a b x s h
  | ualuXor d a b x => exact outWf_execUaluXor d a b x s h
  | ualuShl d a b x => exact outWf_execUaluShl d a b x s h
  | ualuShr d a b x => exact outWf_execUaluShr d a b x s h
  | ualuSar d a b x => exact outWf_execUaluSar d a b x s h
  | ualuMul d a b x => exact outWf_execUaluMul d a b x s h
  | ualuMins d a b x => exact outWf_execUaluMins d a b x s h
  | ualuMaxs d a b x => exact outWf_execUaluMaxs d a b x s h
  | ualuMinn d a b x => exact outWf_execUaluMinn d a b x s h
  | ualuMaxn d a b x => exact outWf_execUaluMaxn d a b x s h
  | uaddi d a imm x => exact outWf_execUaddi d a imm x s h
  | umovi d imm x => exact outWf_execUmovi d imm x s h
  | umovhi d imm x => exact outWf_execUmovhi d imm x s h
  | ucmpEq q a b x => exact outWf_execUcmpEq q a b x s h
  | ucmpNe q a b x => exact outWf_execUcmpNe q a b x s h
  | ucmpLts q a b x => exact outWf_execUcmpLts q a b x s h
  | ucmpLes q a b x => exact outWf_execUcmpLes q a b x s h
  | ucmpGts q a b x => exact outWf_execUcmpGts q a b x s h
  | ucmpGes q a b x => exact outWf_execUcmpGes q a b x s h
  | ucmpLtn q a b x => exact outWf_execUcmpLtn q a b x s h
  | ucmpLen q a b x => exact outWf_execUcmpLen q a b x s h
  | ucmpGtn q a b x => exact outWf_execUcmpGtn q a b x s h
  | ucmpGen q a b x => exact outWf_execUcmpGen q a b x s h
  | ucmpQand q a b x => exact outWf_execUcmpQand q a b x s h
  | ucmpQor q a b x => exact outWf_execUcmpQor q a b x s h
  | ucmpQxor q a b x => exact outWf_execUcmpQxor q a b x s h
  | ubr q neg disp x => exact outWf_execUbr q neg disp x s h
  | uld d a imm x => exact outWf_execUld d a imm x s h
  | ust d a imm x => exact outWf_execUst d a imm x s h
  | umovlFirst d a x => exact outWf_execUmovlFirst d a x s h
  | umovlLane d a b x => exact outWf_execUmovlLane d a b x s h
  | barArrive desc slot level x => exact outWf_execBarArrive desc slot level x s h
  | barArriveCnt desc addr slot level x => exact outWf_execBarArriveCnt desc addr slot level x s h
  | barWait desc slot level x => exact outWf_execBarWait desc slot level x s h
  | barExpect desc slot level x => exact outWf_execBarExpect desc slot level x s h
  | barSync slot level x => exact outWf_execBarSync slot level x s h
  | waitc nl ns nc nt x => exact outWf_execWaitc nl ns nc nt x s h
  | cpyLin desc addr slot level x => exact outWf_execCpyLin desc addr slot level x s h
  | cpyRect desc addr slot level x => exact outWf_execCpyRect desc addr slot level x s h
  | cpyTens desc addr slot level x => exact outWf_execCpyTens desc addr slot level x s h
  | gatherIdx32 desc addr slot level x => exact outWf_execGatherIdx32 desc addr slot level x s h
  | gatherIdx64 desc addr slot level x => exact outWf_execGatherIdx64 desc addr slot level x s h
  | collAllred desc slot level x => exact outWf_execCollAllred desc slot level x s h
  | collRedsc desc slot level x => exact outWf_execCollRedsc desc slot level x s h
  | collAllgat desc slot level x => exact outWf_execCollAllgat desc slot level x s h
  | collBcast desc slot level x => exact outWf_execCollBcast desc slot level x s h
  | collSparse desc slot level x => exact outWf_execCollSparse desc slot level x s h
  | collAlltoall desc slot level x => exact outWf_execCollAlltoall desc slot level x s h
  | mdrainSt desc acc slot level x => exact outWf_execMdrainSt desc acc slot level x s h
  | mdrainAdd desc acc slot level x => exact outWf_execMdrainAdd desc acc slot level x s h
  | gangList a x => exact outWf_execGangList a x s h
  | gangLease x => exact outWf_execGangLease x s h
  | gangRelease x => exact outWf_execGangRelease x s h
  | gangBaton a x => exact outWf_execGangBaton a x s h
  | taskSpawn a x => exact outWf_execTaskSpawn a x s h
  | taskPhase a x => exact outWf_execTaskPhase a x s h
  | taskMerge x => exact outWf_execTaskMerge x s h
  | migL imm x => exact outWf_execMigL imm x s h
  | migD imm x => exact outWf_execMigD imm x s h
  | migAuto imm x => exact outWf_execMigAuto imm x s h
  | regaGrowWait n x => exact outWf_execRegaGrowWait n x s h
  | regaGrowTry q n x => exact outWf_execRegaGrowTry q n x s h
  | regaShrink n x => exact outWf_execRegaShrink n x s h
  | sysr d num x => exact outWf_execSysr d num x s h
  | sysw a num x => exact outWf_execSysw a num x s h
  | fenceSysRel x => exact outWf_execFenceSysRel x s h
  | fenceSysAcq x => exact outWf_execFenceSysAcq x s h
  | fenceSysFull x => exact outWf_execFenceSysFull x s h
  | handleAlloc d a b x => exact outWf_execHandleAlloc d a b x s h
  | handleRetire a x => exact outWf_execHandleRetire a x s h
  | handleFill a x => exact outWf_execHandleFill a x s h
  | handleClear a x => exact outWf_execHandleClear a x s h
  | handleSumm d a x => exact outWf_execHandleSumm d a x s h
  | handleShape d a x => exact outWf_execHandleShape d a x s h
  | bfqBind desc addr x => exact outWf_execBfqBind desc addr x s h
  | bfqJoin desc addr slot level x => exact outWf_execBfqJoin desc addr slot level x s h
  | bfqUnbind a x => exact outWf_execBfqUnbind a x s h
  | perfRd d a x => exact outWf_execPerfRd d a x s h
  | perfSel a b x => exact outWf_execPerfSel a b x s h
  | perfMark a x => exact outWf_execPerfMark a x s h
  | perfSample a x => exact outWf_execPerfSample a x s h
  | rmaWrite part ep peer va data => exact outWf_execRmaWrite part ep peer va data s h
  | rmaRead part ep peer va len => exact outWf_execRmaRead part ep peer va len s h
  | launchWord part peer word => exact outWf_execLaunchWord part peer word s h
  | invalidControlAccess w off isRead => exact outWf_execInvalidControlAccess w off isRead s h
  | pctlEnClear part => exact outWf_execPctlEnClear part s h
  | pctlEnSet part => exact outWf_execPctlEnSet part s h
  | registerGraph part ctx va frames => exact outWf_execRegisterGraph part ctx va frames s h
  | unregisterGraph part ctx va => exact outWf_execUnregisterGraph part ctx va s h
  | attestationReport part ctx va => exact outWf_execAttestationReport part ctx va s h
  | formatWindowSetup part ctx va => exact outWf_execFormatWindowSetup part ctx va s h
  | collectiveMemberTable part ctx va => exact outWf_execCollectiveMemberTable part ctx va s h
  | windowGrant part ctx va => exact outWf_execWindowGrant part ctx va s h
  | eventLogRead part ctx va => exact outWf_execEventLogRead part ctx va s h
  | writePartitionDescriptor => exact outWf_execWritePartitionDescriptor s h
  | createTenantContext => exact outWf_execCreateTenantContext s h
  | destroyTenantContext => exact outWf_execDestroyTenantContext s h
  | configureEndpointContext => exact outWf_execConfigureEndpointContext s h
  | lendConstellation => exact outWf_execLendConstellation s h
  | reclaimConstellation => exact outWf_execReclaimConstellation s h
  | setCapAndMode => exact outWf_execSetCapAndMode s h
  | writeFirmwareChunk => exact outWf_execWriteFirmwareChunk s h
  | registerWrite w off value => exact outWf_execRegisterWrite w off value s h
  | launchStart part ctx slot => exact outWf_execLaunchStart part ctx slot s h
  | nodeStart part launch node => exact outWf_execNodeStart part launch node s h
  | blockPlacement part launch node => exact outWf_execBlockPlacement part launch node s h
  | sameClassMove blk core => exact outWf_execSameClassMove blk core s h
  | launchEnd part launch => exact outWf_execLaunchEnd part launch s h
  | groupSwap core sub => exact outWf_execGroupSwap core sub s h
  | pendingAgeSwap core sub => exact outWf_execPendingAgeSwap core sub s h
  | regroupTimeout blk => exact outWf_execRegroupTimeout blk s h
  | migrate blk => exact outWf_execMigrate blk s h
  | recordClaim core => exact outWf_execRecordClaim core s h
  | recordStealable rec' => exact outWf_execRecordStealable rec' s h
  | leaseGrant core => exact outWf_execLeaseGrant core s h
  | leasePass core => exact outWf_execLeasePass core s h
  | matrixOpComplete core => exact outWf_execMatrixOpComplete core s h
  | bfqWaitExpiry unit => exact outWf_execBfqWaitExpiry unit s h
  | bfqWriteback unit => exact outWf_execBfqWriteback unit s h
  | bfqAutoUnbind unit => exact outWf_execBfqAutoUnbind unit s h
  | engineWrite cmd => exact outWf_execEngineWrite cmd s h
  | engineCommandComplete cmd => exact outWf_execEngineCommandComplete cmd s h
  | collectiveExchange unit peers => exact outWf_execCollectiveExchange unit peers s h
  | engineCommandFault cmd => exact outWf_execEngineCommandFault cmd s h
  | feWatchdog blk grp lane => exact outWf_execFeWatchdog blk grp lane s h
  | stopImageWrite blk grp => exact outWf_execStopImageWrite blk grp s h
  | regaGrant core => exact outWf_execRegaGrant core s h
  | pcSample core => exact outWf_execPcSample core s h
  | l1LeaseExpiry core pa => exact outWf_execL1LeaseExpiry core pa s h
  | bisnpdata line => exact outWf_execBisnpdata line s h
  | bisnpinv line bytes => exact outWf_execBisnpinv line bytes s h
  | l2Eviction line => exact outWf_execL2Eviction line s h
  | poolStoreMerge line => exact outWf_execPoolStoreMerge line s h
  | hostWriteAck => exact outWf_execHostWriteAck s h
  | arbiterWindow => exact outWf_execArbiterWindow s h
  | currentClamp die => exact outWf_execCurrentClamp die s h
  | thermalThrottle die temp => exact outWf_execThermalThrottle die temp s h
  | thermalCapRestore die => exact outWf_execThermalCapRestore die s h
  | thermalShutdown die temp => exact outWf_execThermalShutdown die temp s h
  | sliceExpiry part => exact outWf_execSliceExpiry part s h
  | graceExpiry part => exact outWf_execGraceExpiry part s h
  | haltComplete part => exact outWf_execHaltComplete part s h
  | killExpiry part => exact outWf_execKillExpiry part s h
  | ptpMessage time => exact outWf_execPtpMessage time s h
  | portDown port => exact outWf_execPortDown port s h
  | portUp port => exact outWf_execPortUp port s h
  | hostWindowLost part idx => exact outWf_execHostWindowLost part idx s h
  | cxlPortFail port => exact outWf_execCxlPortFail port s h
  | poolLost => exact outWf_execPoolLost s h
  | correctableError u => exact outWf_execCorrectableError u s h
  | uncorrectableError u => exact outWf_execUncorrectableError u s h
  | dramScrub => exact outWf_execDramScrub s h
  | isolationViolation core target => exact outWf_execIsolationViolation core target s h
  | powerOnReset => exact outWf_execPowerOnReset s h
  | partitionReset part => exact outWf_execPartitionReset part s h
  | versionFree ver => exact outWf_execVersionFree ver s h
  | memoryAccessComplete blk grp store id => exact outWf_execMemoryAccessComplete blk grp store id s h
  | nonInstructionWord w => exact outWf_execNonInstructionWord w s h
  | ptpLost => exact outWf_execPtpLost s h
  | cxlPortRecover port => exact outWf_execCxlPortRecover port s h
  | mgoWriteWhileBusy => exact outWf_execMgoWriteWhileBusy s h
  | unknownRequestKind w ctx va => exact outWf_execUnknownRequestKind w ctx va s h

theorem groupWf_marked (s : State) (b : Block) (g : Group) (h : groupWf g = true) : groupWf (g.marked s b) = true :=
  groupWf_same h rfl

theorem memWf_settleMarks (s : State) (h : memWf s = true) : memWf (settleMarks s) = true :=
  memWf_mapBlocks s _ (fun b hb => blockWf_mapGroups b (Group.marked s b) (fun g hg => groupWf_marked s b g hg) hb) h

theorem memWf_settle (s : State) (h : memWf s = true) : memWf (settle s) = true :=
  memWf_settleMarks _ (memWf_settleEmergency _ (memWf_settleNotices _ (memWf_settleSteps _ h)))

theorem outWf_step (s : State) (h : memWf s = true) : OutWf (step s) := by
  have hn := issWf_nextTurn s h
  unfold step
  split
  next t e =>
    rw [e] at hn
    exact memWf_settle t hn
  next n e =>
    rw [e] at hn
    have hx := outWf_exec n.instr n.state hn
    split
    next t e' => exact memWf_settle t (memWf_next e' hx)
    · exact hx

/-- Settles O59: every operation of the machine keeps the canonical form of the memories, so the next turn, its instruction and what
follows from it do. -/
theorem stepKeepsMemory : Obligations.StepKeepsMemory := fun s _ h e => memWf_next e (outWf_step s h)

end Sys2Proof.Proofs
end
